-- ==== Sys2Proof/Word.lean ====
section
/-! DEFINITION. The word types of the module and the plain data that its commands carry as operands
(addresses, payloads, frames, measurements). No behaviour stands here. -/

namespace Sys2Proof

abbrev Byte := BitVec 8
abbrev Word := BitVec 32
abbrev DWord := BitVec 64

/-- The blocks of Table RP-1, by prefix. -/
inductive Blk where
  | chu | ctl | tck | ldg | fac | cru | wlk | siv | rdl | gth | drl | hbm | hau | flc | dft | vlk | fab
  | sem | pwr | saf | sec | mgt
  deriving DecidableEq, Repr

/-- A register page: one instance of one block on one die (R614). -/
structure Page where
  die  : Nat
  blk  : Blk
  inst : Nat
  deriving DecidableEq, Repr

/-- What a service action names: the unit behind a page, one drill of a stack, or one control core pair. -/
inductive UnitId where
  | page (p : Page)
  | drill (stack n : Nat)
  | pair (n : Nat)
  deriving DecidableEq, Repr

/-- A core that runs an instruction of chapter 12: face `n` (0 to 127) or drill `n` of a stack. -/
inductive Core where
  | face (n : Nat)
  | drill (stack n : Nat)
  deriving DecidableEq, Repr

/-- The link an event belongs to: the Velom link or one fabric port. -/
inductive Lnk where
  | velom
  | port (n : Nat)
  deriving DecidableEq, Repr

/-- What the reads of a work unit meet: nothing wrong, an uncorrectable error (R421), or a tag mismatch at the input of a face
with the tag wanted, the tag got and the group (R318, R320). -/
inductive Hit where
  | clean
  | hurt
  | skew (face want got group : Nat)
  deriving DecidableEq, Repr

/-- A flash data unit of 4 KiB, as a number (R439). -/
abbrev DataUnit := BitVec 32768

/-- What the base die's memory test finds on a mapped-out pseudo-channel during a device reset (R420): whether an uncorrectable
pattern was found, and the frames that fail. -/
structure PcTest where
  stack   : Nat
  pc      : Nat
  pattern : Bool
  fails   : List Nat
  deriving DecidableEq, Repr

/-- What the tests of a device reset find (R414, R420, R452, R560, R576, R630): the memory tests of pseudo-channels, the failed flash
channels whose test passes, the control core pairs whose test fails, the seams that do not train, and the quarry rails that stay
down. -/
structure Training where
  pcs   : List PcTest
  chans : List Nat
  pairs : List Nat
  seams : List Nat
  rails : List Nat
  deriving DecidableEq, Repr

/-- What a test mode finds beside its result (Table MG-7): the pseudo-channels to be mapped out (stack, pseudo-channel), and on each
flash channel the units that needed read retry and those that are uncorrectable (channel, count). -/
structure TestFound where
  pcs    : List (Nat × Nat)
  corr   : List (Nat × Nat)
  uncorr : List (Nat × Nat)
  deriving DecidableEq, Repr

/-- A tag mismatch found at a check of an instruction's data (R318): the tag wanted, the tag got, and the group. -/
structure TagSkew where
  want  : Nat
  got   : Nat
  group : Nat
  deriving DecidableEq, Repr

/-- Which part of a command's work an opcode row performs: the decision and admission of the head of a
chute, or the work of an admitted command, named by its work record, with what its reads meet. -/
inductive Part where
  | head (chute : Nat)
  | run (cmd : Nat) (hit : Hit)
  deriving DecidableEq, Repr

/-- One descriptor of an EMBED or EMBED_INSERT list (Tables CM-6, CM-7): the document's pointer and length, its key, its
attribute word's pointer, what tokenising the document gives (for text), and the attribute word. -/
structure Doc where
  ptr    : Nat
  len    : Nat
  tokens : List Word
  key    : DWord
  aptr   : Nat
  attr   : Option (BitVec 128)
  deriving DecidableEq, Repr

/-- Parameters of one hashed table in a package (Table HT-1). -/
structure TableDesc where
  kind  : Nat            -- 0 direct, 1 hashed, 2 composed
  ty    : Nat            -- format code of Table CR-1
  w     : Nat
  n     : Nat
  p     : Nat
  seed  : DWord
  quot  : Nat
  rem   : Nat
  prod  : Bool           -- combine: false SUM, true PRODUCT
  dflt  : List Word
  scales : List Word     -- the row scales of the read-only types, as fp32
  zeros : List Int       -- the row zero points of int8
  rows  : List (List Word)
  deriving DecidableEq, Repr

/-- One program of a package (Table IS-10) with its words. -/
structure Program where
  kind      : Nat
  flags     : Nat
  index     : Nat
  code      : List Word
  data      : List Byte
  entry     : Nat
  footprint : Nat
  resv      : Bool       -- reserved bytes are all 0
  deriving DecidableEq, Repr

/-- One scale-set entry (Table CR-5). -/
structure ScaleEntry where
  fmt      : Nat
  block    : Bool
  dyn      : Bool
  zpEn     : Bool
  adaptEn  : Bool
  learned  : Bool
  adaptP   : Nat
  satThr   : Nat
  scale    : Word
  mseThr   : Word
  zp       : Int
  expMin   : Nat
  expMax   : Nat
  statsPtr : Nat
  resv     : Bool        -- reserved bits are all 0
  deriving DecidableEq, Repr

/-- The encoder descriptor of a package (Table FA-5); `mask` names the attention mask within a chunk. -/
structure Encoder where
  outDim   : Nat
  chunk    : Nat
  mask     : Nat
  kvBytes  : Nat
  pooling  : Nat         -- 0 mean, 1 first token, 2 last token
  norm     : Bool
  attnScale : Word
  deriving DecidableEq, Repr

/-- A model package as MODEL_LOAD reads it: its contents, and what its signature check finds. -/
structure Package where
  sigOk    : Bool        -- the signature and body digest verify under some key
  keyHash  : BitVec 256  -- hash of the key that signed it
  digest   : BitVec 512
  programs : List Program
  scales   : List ScaleEntry
  tables   : List TableDesc
  enc      : Encoder
  weights  : List Byte   -- the weights, the adapters that training may version among them
  deriving DecidableEq, Repr

/-- What the module reads at an entry's pointers, in the order of the command's tables (R101). -/
structure Payload where
  keys    : List DWord
  vecs    : List (List Word)          -- raw codes, fp32 or the element type
  attrs   : List (BitVec 128)
  query   : List Word
  filter  : List Byte
  docs    : List Doc
  indices : List DWord
  weights : List Word
  offsets : List Word
  args    : List Byte
  pkg     : Option Package
  shardMap : List (BitVec 16)
  deriving DecidableEq, Repr

/-- A payload with nothing in it. -/
def Payload.none : Payload :=
  { keys := [], vecs := [], attrs := [], query := [], filter := [], docs := [], indices := [],
    weights := [], offsets := [], args := [], pkg := .none, shardMap := [] }

/-- What is measured over one 100-tick window (R79, R535, R539, R549): the completions of each pool, the
joules per cost unit measured for each pool, the energy of each rail group and of the input, in microjoules,
and the busy cycles of each rail group on ingest, query and other work. -/
structure WinMeas where
  done  : List Nat
  coef  : List Nat
  rails : List Nat
  input : Nat
  busy  : List (Nat × Nat × Nat)
  idle  : List Nat
  deriving DecidableEq, Repr

/-- One sample of the sensors and monitors (R533, R554): temperatures in sixteenths of a degree, the model's
predictions, the analog-independent estimates, the input in millivolts and in 10 mA units. -/
structure Sample where
  temp : List Int
  pred : List Int
  est  : List Int
  mv   : Nat
  ma10 : Nat
  deriving DecidableEq, Repr

/-- A fabric frame: its header slot and its data slots (Table FB-1). -/
structure Frame where
  hdr  : BitVec 128
  data : List (BitVec 128)
  deriving DecidableEq, Repr

/-- One firmware image as the boot chain sees it (Table SE-3), with the outcomes of its two digest checks. -/
structure Image where
  magic   : Word
  kind    : Nat
  version : Nat
  svn     : Nat
  keyHash : BitVec 256
  sigOk   : Bool
  bodyOk  : Bool
  digest  : BitVec 512
  deriving DecidableEq, Repr

/-- An entry of a result or partial list as it travels from a remote module (Table CV-5), with the full
write generation it is compared by. -/
structure RemoteEnt where
  key   : DWord
  score : Word
  flags : Byte
  gen   : Word
  deriving DecidableEq, Repr

/-- A search outcome that a remote module returns (R497): its status code, or admitted; the generation it
pinned; its prediction if it shed; its entries. -/
structure RemotePart where
  node    : Nat
  tag     : Nat
  status  : Nat
  reduced : Bool
  shed    : Option Nat
  gen     : Word
  ents    : List RemoteEnt
  deriving DecidableEq, Repr

/-- What a read of memory finds in a granule's check bits (R406). -/
inductive Ecc where
  | ok | corrected | uncorrectable
  deriving DecidableEq, Repr

/-- A PLDM or MCTP requester's transport for SPDM (R586). -/
inductive Transport where
  | mctp | window
  deriving DecidableEq, Repr

/-- Who reads a register: the Velom link, a control core or the management controller, each with latches of its own (R633). -/
inductive Reader where
  | link | core | mc
  deriving DecidableEq, Repr

/-- A part of RUN_FACE; where its running program keeps its working scale set as a new version, the adapters' bytes (R293, R312). -/
structure FacePart where
  part : Part
  keep : Option (List Byte)
  deriving DecidableEq, Repr

/-- A live segment's number, with an uncorrectable granule that is read there: its device address, and the node whose data it holds
(R153). -/
structure SegRead where
  seg  : Nat
  hurt : Option (Nat × Nat)
  deriving DecidableEq, Repr

/-- A sequence slot of the encoder, with what the reads of its chunk meet. -/
structure SlotRead where
  slot : Nat
  hit  : Hit
  deriving DecidableEq, Repr

/-- A head of a layer and a query row of the chunk (R285). -/
structure HeadRow where
  head : Nat
  row  : Nat
  deriving DecidableEq, Repr

/-- Where a rebuilt page's contents come from: a segment, and the image units that cannot be read (R447). -/
structure RebuildFrom where
  seg  : Option (Nat × Nat)
  lost : List (Nat × Nat)
  deriving DecidableEq, Repr

/-- A frame, and whether the base die reports an uncorrectable pattern in its pseudo-channel (R415, R418). -/
structure FrameTest where
  frame   : Nat
  pattern : Bool
  deriving DecidableEq, Repr

/-- The flash channel of a failed block, and its wear in percent (R451). -/
structure BlockWear where
  ch   : Nat
  wear : Nat
  deriving DecidableEq, Repr

/-- A register's offset and who reads it (R633). -/
structure RegAsk where
  off : BitVec 28
  who : Reader
  deriving DecidableEq, Repr

/-- A block's page and who reads its error log (R628). -/
structure LogAsk where
  page : Page
  who  : Reader
  deriving DecidableEq, Repr

/-- What a test mode ends with: its result's detail, and what it found (Table MG-7). -/
structure TestResult where
  detail : BitVec 28
  found  : TestFound
  deriving DecidableEq, Repr

/-- An instruction's operand bits, with the tag mismatch that a check of its data finds (R318). -/
structure SkewWord where
  w    : BitVec 26
  skew : Option TagSkew
  deriving DecidableEq, Repr

/-- VECTOR_CONVERT's function, with the tag mismatch that a check of its data finds (R318). -/
structure SkewFunct where
  funct : BitVec 8
  skew  : Option TagSkew
  deriving DecidableEq, Repr

/-- TPART's operand bits, with the node that owns the target where that is another module (R278). -/
structure PartWord where
  w     : BitVec 26
  owner : Option Nat
  deriving DecidableEq, Repr

/-- What the phases after the boot chain find (log entry 49): what training and its tests find (R414, R420), the image units that
cannot be read at the bench load (R447), and the copies of ledger groups whose check fails at replay, as group and copy (R518). -/
structure Findings where
  training : Training
  lost     : List (Nat × Nat)
  copies   : List (Nat × Nat)
  deriving DecidableEq, Repr

/-- The images of the active slot, and what the phases after the boot chain find. -/
structure Boot where
  imgs  : List Image
  found : Findings
  deriving DecidableEq, Repr

/-- A request on the debug UART (R594). -/
inductive DbgReq where
  | readReg (off : BitVec 28)
  | writeReg (off : BitVec 28) (v : Word)
  | readMem (addr : BitVec 46) (n : Nat)
  | writeMem (addr : BitVec 46) (data : List Byte)
  | haltPair (n : Nat)
  deriving DecidableEq, Repr

end Sys2Proof
end

