-- ==== Sys2Proof/Syntax.lean ====
section
/-! DEFINITION. The commands of the module: one constructor for each row of spec/opcode_table.json, with the
operands it takes. Each docstring is the row's summary and names the rule that governs it. -/

namespace Sys2Proof

inductive Instr where
  /-- TICK (R503): A tick boundary falls every 100 reference cycles and the hub tick counter advances by one; the
  events latched for that tick then take effect in slot order. -/
  | tick
  /-- WINDOW_START (R536): At the start of each 100-tick window the energy grant and remaining credit are
  recomputed, arbiter shares are renewed, and pool rates and energy coefficients are updated. -/
  | windowStart (m : WinMeas)
  /-- ENTRY_FETCH (R101): A valid submission entry is fetched once a completion slot is reserved for it, and its
  payload, query vector and filter block are checked. -/
  | entryFetch (chute : Nat) (entry : BitVec 512) (pl : Payload)
  /-- ADMISSION (R74): Once per tick, in the admission slot, chute heads are decided: they wait, are rejected, shed,
  deferred or admitted. -/
  | admission
  /-- SEARCH (R150): SEARCH pins its generation and starts one walk per live segment, a stockpile scan and a riddle.
  -/
  | search (chute : Nat)
  /-- FETCH (R110): FETCH writes one record per key with the visible vector, generation, norm and attribute word, or
  zeros if the key is not visible. -/
  | fetch (part : Part)
  /-- INSERT (R112): INSERT checks its batch, takes stockpile positions and writes one ledger record; it completes
  when that record is programmed. -/
  | insert (chute : Nat)
  /-- UPSERT (R57): UPSERT writes new stockpile entries and tombstones each old instance at admission. -/
  | upsert (chute : Nat)
  /-- DELETE (R53): DELETE tombstones each named key's live instance in the tailings and the mirror at admission and
  writes one ledger record. -/
  | delete (chute : Nat)
  /-- EMBED (R289): EMBED encodes documents with a pinned model package and writes each vector when its document
  completes. -/
  | embed (part : Part)
  /-- EMBED_INSERT (R265): EMBED_INSERT encodes documents, stores the vectors in the stockpile and bench 2, and
  writes one ledger record. -/
  | embedInsert (part : Part)
  /-- MERGE_STOCKPILE (R245): MERGE_STOCKPILE runs as one BULK job of merge steps and completes when its last step
  is durable. -/
  | mergeStockpile (part : Part)
  /-- BUILD_SEGMENT (R249): BUILD_SEGMENT reserves space and builds a complete, unpublished segment through
  codebook, ingest, graph, entry table and image phases. -/
  | buildSegment (part : Part)
  /-- PUBLISH (R256): PUBLISH checks expected and live_mask, fixes the supersede set, reserves mirror tags and
  writes its ledger record. -/
  | publish (chute : Nat)
  /-- RETIRE_GEN (R123): RETIRE_GEN retires every generation below a bound once its record applies. -/
  | retireGen (chute : Nat)
  /-- TABLE_LOOKUP (R331): TABLE_LOOKUP maps indices to rows, fetches each unique row once, pools per bag and
  converts the result. -/
  | tableLookup (part : Part)
  /-- TABLE_UPDATE (R335): TABLE_UPDATE adds delta rows to table rows at memory and then commits its ledger record. -/
  | tableUpdate (part : Part)
  /-- RUN_FACE (R395): RUN_FACE loads a face program with its argument block and runs it on the chosen faces.
  `keep` says that a running program writes its working scale set, with new adapters where it gives bytes, as a new version of
  its package (R293). -/
  | runFace (part : FacePart)
  /-- RUN_DRILL (R351): RUN_DRILL loads a drill program into the selected drills and runs it with its declared
  region. -/
  | runDrill (part : Part)
  /-- HAUL_HINT (R127): HAUL_HINT moves, pins or unpins the named pages and completes when they have moved or been
  pinned. -/
  | haulHint (part : Part)
  /-- FLUSH (R128): FLUSH completes when every write-buffer byte in its range that was present at admission is
  programmed. -/
  | flush (part : Part)
  /-- ABORT (R129): ABORT stops the matching reads of the target chute and completes them with ABORTED. -/
  | abort (chute : Nat)
  /-- FENCE (R92): FENCE completes in the first tick in which every command admitted before it on any chute has
  completed. -/
  | fence (part : Part)
  /-- COLLECTION_CREATE (R130): COLLECTION_CREATE takes one ledger record and brings the collection into existence
  at generation 1 in the next tick. -/
  | collectionCreate (chute : Nat)
  /-- COLLECTION_DROP (R25): COLLECTION_DROP takes one ledger record, and the drop applies in the publish slot of
  the next tick. -/
  | collectionDrop (chute : Nat)
  /-- SCHEMA_SET (R45): SCHEMA_SET records enabled fields, signedness, the default attribute word and the rebuild
  flag for the collection. -/
  | schemaSet (chute : Nat)
  /-- MODEL_LOAD (R131): MODEL_LOAD verifies a signed package, writes it to flash and makes the new version current
  by one ledger record. -/
  | modelLoad (part : Part)
  /-- GENERATION_PUBLISH (R258): In the publish slot, versioning records programmed in an earlier tick apply in lsn
  order: new generations, drops, schemas, versions and retirements. -/
  | generationPublish
  /-- MERGE_STEP (R243): A merge step writes its begin record, folds stockpile entries copy-on-write, repairs
  tombstones and writes its publish record. -/
  | mergeStep (coll : Nat)
  /-- AUTOMATIC_MERGE (R246): The control cores start an internal merge of a shard by themselves when a stockpile or
  mirror trigger is reached. -/
  | automaticMerge (coll : Nat)
  /-- BUILD_CHECKPOINT (R251): A build writes a checkpoint after every 2^24 vectors or every 30,000,000 ticks,
  whichever comes first. -/
  | buildCheckpoint (cmd : Nat)
  /-- HISTOGRAM_RECOUNT_END (R168): When the drills' recount of a shard's attribute words ends, the recounted
  histogram values replace those in use in the next tick. -/
  | histogramRecountEnd (coll : Nat)
  /-- GENERATION_FREED (R261): A generation is freed in the first tick in which no command, publish hold or currency
  pins it, releasing its pages, stockpile share, tags and ordinals. -/
  | generationFreed (coll : Nat) (gen : Word)
  /-- HOLD_EXPIRY (R261): The hold of a PUBLISH on the generation it superseded runs out after the given number of
  ticks. -/
  | holdExpiry (coll : Nat) (gen : Word)
  /-- WALK_START (R133): A walk takes a walker context when its pools can supply it, builds its distance table and
  scores its entry set. -/
  | walkStart (cmd : Nat) (seg : SegRead)
  /-- WALK_EXPANSION (R141): The walker expands the first unexpanded candidate, scoring and offering its unvisited
  neighbours. -/
  | walkExpansion (cmd seg : Nat) (hurt : Option (Nat × Nat))
  /-- WALK_END (R142): A walk ends on an exhausted queue, a reached visit budget or the stop tick, and hands its
  walk list to the riddle. -/
  | walkEnd (cmd seg : Nat)
  /-- STOCKPILE_SCAN_PASS (R369): A drill pass scores the stockpile entries in its slice for a batch of up to B
  waiting searches of one collection. -/
  | stockpileScanPass (coll stack drill : Nat) (slice : List Nat) (last hurt : Bool)
  /-- FLAT_SCAN_PASS (R372): Drills make a shared pass over a segment's attribute words for up to 8 filtered
  flat-scan searches. -/
  | flatScanPass (coll seg : Nat) (hurt : Bool)
  /-- RIDDLE_MERGE (R183): A riddle merges an arriving partial list into its held list, removing duplicates and
  trimming to the stage's length. -/
  | riddleMerge (cmd : Nat)
  /-- RERANK (R152): A drift engine reads a candidate's full vector from the write buffer or flash and returns its
  exact score. -/
  | rerank (cmd idx : Nat) (ecc : Ecc)
  /-- EMISSION (R184): The riddle emits its held list, and the completion is written once k entries have passed or
  the list is exhausted. -/
  | emission (cmd : Nat)
  /-- SEARCH_STOP_TICK (R154): At a search's stop tick, every walk, scan and re-rank ends and the riddle finalises
  from what it holds. -/
  | searchStopTick (cmd : Nat)
  /-- STOP_TICK (R86): A FETCH, EMBED, TABLE_LOOKUP, RUN_FACE or RUN_DRILL that reaches its stop tick stops and
  completes with DEADLINE. -/
  | stopTick (cmd : Nat)
  /-- DOCUMENT_ENTER_SLOT (R287): A document enters a sequence slot once a slot is free and its cache reservation
  fits under the limit. -/
  | documentEnterSlot (cmd doc : Nat)
  /-- CHUNK_ENCODE (R284): A chunk is encoded in order, and its keys and values are written to bench 1 before
  attention over them starts. -/
  | chunkEncode (slot : SlotRead)
  /-- ATTENTION_PARTIAL (R374): A drill computes the (m, l, o) attention partial over the cached tokens in its slice
  and returns it, for one query row of a layer and head. -/
  | attentionPartial (slot stack drill layer : Nat) (spot : HeadRow) (q : List Word) (hit : Hit)
  /-- PARTIAL_FOLD (R286): A face folds an arriving attention partial into the running state: the
  oldest that a drill has returned, or its own, of the query row given, over the chunk's tokens (R285). -/
  | partialFold (slot layer : Nat) (spot : HeadRow) (own : Option (List Word))
  /-- DOCUMENT_COMPLETE (R289): The document vector is pooled, normalised and converted, written out, and the cache
  reservation is freed. -/
  | documentComplete (slot : Nat)
  /-- RECORD_ENTER_RING (R517): A ledger record enters the ring group by group as space under the 8 MiB unprogrammed
  bound allows. -/
  | recordEnterRing
  /-- GROUP_CLOSE (R513): A ledger group closes at the end of a tick, or when its records reach 64 KiB, and is sent
  to two channels. -/
  | groupClose
  /-- GROUP_PROGRAMMED (R514): When both copies of a group and every earlier group are programmed, its records count
  as programmed and their mutations complete. -/
  | groupProgrammed (group : Nat)
  /-- GROUP_PROGRAM_FAIL (R515): A ledger group whose program fails is reissued to the next healthy channel pair. -/
  | groupProgramFail (group : Nat)
  /-- IMAGE_REFRESH (R446): Image refresh writes flash images of changed pages so that ledger zone space can be
  reused. -/
  | imageRefresh (coll : Nat)
  /-- WRITE_BUFFER_PROGRAM (R442): A write-buffer entry is programmed to flash, merged with its flash contents if
  partly valid, and released. -/
  | writeBufferProgram (unit : Nat)
  /-- SECTOR_ADD (R366): The atomic-add service applies one queued sector add at memory in one micro-operation and
  marks it done. -/
  | sectorAdd (stack : Nat) (ecc : Ecc)
  /-- KSPLIT_ACCEPT (R365): A K-split partial tile is accepted whole into the service queue and its arrival bit is
  set; a duplicate is discarded. -/
  | ksplitAccept (face : Nat) (desc contributor : Nat) (tile : List Word)
  /-- HAUL_COPY (R434): The haul engine copies a page's granules in order and logs writes to granules already
  copied. -/
  | haulCopy (page : Nat) (ecc : Ecc)
  /-- HAUL_SWITCH (R435): In the first tick after the copy ends, writes are held, the delta log is replayed, the
  bench map is flipped and the held writes are applied. -/
  | haulSwitch (page : Nat)
  /-- HAUL_RELEASE (R436): The source page is freed once every access routed to it, and for module pages every
  earlier command, has completed. -/
  | haulRelease (page : Nat)
  /-- DEMOTION (R432): While free bench 1 frames lie below low_pct, the haul engine starts moving the coldest pages
  to bench 2 by itself. -/
  | demotion
  /-- HOT_PAGE_WINDOW (R342): At the end of each 1,000-tick window, a gather unit proposes each page whose fetch
  count reached the threshold for migration to bench 0. -/
  | hotPageWindow (die : Nat)
  /-- TABLE_PAGE_SWITCH (R342): A table-page migration switches in the tick after its copy: adds are held, the log
  is replayed and the map flipped. -/
  | tablePageSwitch (page : Nat)
  /-- PAGE_REBUILD (R422): A bench 1 page with an uncorrectable granule is rebuilt from its flash image and the
  durable ledger records. -/
  | pageRebuild (page : Nat) (src : RebuildFrom)
  /-- ROW_REMAP (R412): A failed row is copied into a free spare row, and the remap takes effect in the controller
  and the base die together. -/
  | rowRemap (stack pc bank row : Nat)
  /-- FRAME_RETIREMENT (R415): A frame with no spare left enters RETIRING, and its page is moved away or retired. -/
  | frameRetirement (stack : Nat) (frame : FrameTest)
  /-- PATROL_SCRUB (R409): Patrol scrub reads every granule of the stack once per scrub period at lowest priority. -/
  | patrolScrub (stack frame granule : Nat) (ecc : Ecc)
  /-- FLASH_BLOCK_FAILURE (R451): A failed flash block is replaced from spares, and a channel with no spares left
  becomes read-only. -/
  | flashBlockFailure (block : BlockWear)
  /-- FLASH_CHANNEL_FAILURE (R452): A failed channel's module pages are rebuilt from parity onto other channels. -/
  | flashChannelFailure (ch : Nat)
  /-- CHU_SQ_DB (R67): A submission doorbell makes slots valid from the previous tail up to the new tail, or is
  ignored and recorded in CHU_DB_ERR. -/
  | chuSqDb (chute : BitVec 12) (index : BitVec 16)
  /-- CHU_CQ_DB (R96): A completion doorbell releases completion entries below the new head, or is ignored and
  recorded. -/
  | chuCqDb (chute : BitVec 12) (index : BitVec 16)
  /-- CREATE (R60): CHU_CMD CREATE creates a chute pair from the staged ring registers. -/
  | create (chute : BitVec 12)
  /-- DESTROY (R64): CHU_CMD DESTROY moves a chute to draining and aborts its unadmitted entries. -/
  | destroy (chute : BitVec 12)
  /-- QUERY (R94): CHU_CMD QUERY loads the staging registers from an existing chute. -/
  | query (chute : BitVec 12)
  /-- CHUTE_DRAINED (R64): When the last completion of a draining chute is written, the chute number becomes free
  and its unreleased entries count as released. -/
  | chuteDrained (chute : Nat)
  /-- COALESCING_TIMER (R94): A completion event is sent when the coalescing timer runs out after the first
  uncounted completion. -/
  | coalescingTimer (chute : Nat)
  /-- CHU_WEIGHTS_WRITE (R95): A write to CHU_WEIGHTS or CHU_RESERVE takes effect at the start of the next window,
  or changes nothing if a field is out of range. -/
  | chuWeightsWrite (reserve : Bool) (v : Word)
  /-- WLK_CFG_WRITE (R158): A write to WLK_CFG sets dl_margin on all 64 WLK pages and prefetch_en on its own walker.
  -/
  | wlkCfgWrite (die inst : Nat) (v : Word)
  /-- REGISTER_WRITE (R10): A write to a register with no behaviour of its own sets its fields, or changes nothing
  if any field is out of range. -/
  | registerWrite (off : BitVec 28) (v : Word)
  /-- RC_READ (R9): A read of an RC counter returns its value and clears it. -/
  | rcRead (ask : RegAsk)
  /-- LO_READ (R633): A read of a _LO register latches its _HI partner for the next read. -/
  | loRead (ask : RegAsk)
  /-- BLK_ERR_LOG_LO_READ (R628): A read of BLK_ERR_LOG_LO latches the whole error record and clears log_lost. -/
  | blkErrLogLoRead (ask : LogAsk)
  /-- BLK_EVT_PEND_WRITE (R624): A write to BLK_EVT_PEND or BLK_EVT_EN that leaves the event output asserted counts
  as a rise and sends a further Evt. -/
  | blkEvtPendWrite (p : Page) (en : Bool) (v : Word)
  /-- BLOCK_EVENT_RISE (R623): A rise of a block's event output sends one Evt with its vector within 2 ticks when
  host_en is 1. -/
  | blockEventRise (p : Page)
  /-- TCK_RESET (R522): A write of 0xD5 to TCK_RESET.code requests a device reset. -/
  | tckReset (code : Byte)
  /-- LDG_REPLAY_ACK (R528): A write to LDG_REPLAY_ACK frees the replay report. -/
  | ldgReplayAck (v : Word)
  /-- RESTART (R619): A write of 1 to BLK_CTL.restart starts a block restart of the unit where the page permits one.
  -/
  | restart (p : Page)
  /-- OUT_OF_SERVICE (R571): A write of 1 to BLK_CTL.out_of_service takes the unit out of service once it is idle. -/
  | outOfService (p : Page)
  /-- RETURN (R573): A write of 0 to BLK_CTL.out_of_service starts the unit's wipe and self-test. -/
  | returnUnit (p : Page)
  /-- SELF_TEST_END (R573): A returning unit's self-test ends; on a pass its ramp starts, on a failure it stays out
  of service. -/
  | selfTestEnd (u : UnitId) (pass : Bool) (step : Nat)
  /-- RAMP_WINDOW (R574): In each 100-tick window after a passing self-test, the unit's share of new work rises by
  10 %. -/
  | rampWindow (u : UnitId)
  /-- HAU_FREE (R428): A write of a page index to HAU_FREE frees that host-window page and discards its contents. -/
  | hauFree (idx : BitVec 28)
  /-- DRL_HOST_RES_WRITE (R379): A write to DRL_HOST_RES moves drills between host and module while all of them are
  ready. -/
  | drlHostResWrite (stack : Nat) (v : Word)
  /-- DRL_LOAD_CMD (R351): A write to DRL_LOAD_CMD loads a program from the current package version into one or all
  reserved drills. -/
  | drlLoadCmd (stack window : Nat) (v : Word)
  /-- DRL_CMD_DB (R353): A drill doorbell is accepted when ready, its sequence and its region are valid; it advances
  seq and starts back-invalidation. -/
  | drlCmdDb (stack drill : Nat) (seq : BitVec 16) (mailbox : Bool)
  /-- DRILL_RUN_START (R354): After the last back-invalidation acknowledgement, the drill core starts the program at
  its entry point. -/
  | drillRunStart (stack drill : Nat)
  /-- DRILL_RUN_END (R354): At exit or a stop, in-flight drill writes complete, held ordinary writes are applied and
  ready sets. -/
  | drillRunEnd (stack drill : Nat)
  /-- DRILL_WATCHDOG (R356): A drill run longer than 2^wdog_log2 ticks stops with exit 0xF2. -/
  | drillWatchdog (stack drill : Nat)
  /-- MEMORY_WIPE (R376): The drills zero their whole slices with correct check bits. -/
  | memoryWipe
  /-- SEC_LOCK (R595): A write of 1 to SEC_LOCK.lock locks every RWL field until the next device reset. -/
  | secLock (v : Word)
  /-- SEC_NONCE0_READ (R591): A read of SEC_NONCE0 generates a fresh nonce. -/
  | secNonce0Read
  /-- TOKEN_SUBMIT (R591): SEC_TOKEN_CTL.submit verifies the token in the window and reports the result. -/
  | tokenSubmit (sigOk : List Bool)
  /-- LIFE_CYCLE_RESET (R592): An accepted transition token requests a life-cycle reset that quiesces, wipes,
  replaces the media key and blows the state fuse. -/
  | lifeCycleReset (media : BitVec 512)
  /-- SPDM_GO (R586): SEC_SPDM_CTL.go serves the SPDM request in the window and writes the response. -/
  | spdmGo
  /-- FAB_MBX_SEND (R486): FAB_MBX_CTL.send sends the frame staged in FAB_MBX_TX, with src, ttl and e2e_crc set by
  the module. -/
  | fabMbxSend
  /-- FAB_MBX_POP (R501): A write to FAB_MBX_POP discards the head frame received for the master. -/
  | fabMbxPop (v : Word)
  /-- PORT_RETRAIN (R478): FAB_PORT_CTL.retrain moves the port into RECOVERY. -/
  | portRetrain (port : Nat)
  /-- PORT_ENABLE_WRITE (R620): A write to FAB_PORT_CTL.enable holds the port in DETECT or releases it for training.
  -/
  | portEnableWrite (port : Nat) (en : Bool)
  /-- RETRAIN (R476): VLK_CTL.retrain moves the Velom link into RECOVERY and trains it at the widest width that
  trains. -/
  | retrain
  /-- TEST_MODE_START (R610): MGT_TEST_CTL.start starts a test mode if its conditions hold, and refuses it
  otherwise. -/
  | testModeStart (mode target : Nat)
  /-- TEST_MODE_END (R610): A running test mode ends and reports its result and detail. -/
  | testModeEnd (pass : Bool) (res : TestResult)
  /-- FLIT_RECEIVED (R455): A received flit is FEC-decoded and CRC-checked, and its header and payload are used only
  if it passes. -/
  | flitReceived (l : Lnk) (corrected : Nat) (fecOk : Bool) (flit : List Byte)
  /-- RETRY_REQUEST (R456): A retry request makes the sender resend from the named sequence number. -/
  | retryRequest (l : Lnk) (seq : BitVec 12)
  /-- ACKNOWLEDGEMENT (R456): An acknowledgement frees acknowledged traffic flits from the replay buffer. -/
  | acknowledgement (l : Lnk) (seq : BitVec 12)
  /-- CREDIT_RETURN (R458): A credit return in a link-control flit restores lane credit. -/
  | creditReturn (l : Lnk) (lane : Nat) (slots : Nat)
  /-- LINK_DETECT (R471): Receivers detect a far end on at least 8 lanes and the link enters EQUALISE. -/
  | linkDetect (l : Lnk) (lanes : BitVec 16)
  /-- LINK_EQUALISED (R471): Equalisation ends and the link enters CONFIG. -/
  | linkEqualised (l : Lnk)
  /-- LINK_ACTIVE (R471): CONFIG agrees lane order, width, version and credits, and the link enters ACTIVE and sends
  held traffic. -/
  | linkActive (l : Lnk) (lanes : BitVec 16)
  /-- RECOVERY (R473): A replay limit, loss of lock, lane failure or protocol error moves the link into RECOVERY. -/
  | recovery (l : Lnk) (protocol : Bool) (op : Byte) (tag : BitVec 16)
  /-- RECOVERY_FAIL (R471): A recovery that fails to reach CONFIG within 200 ticks fails; the third failure in a row
  takes the link DOWN. -/
  | recoveryFail (l : Lnk)
  /-- LINK_LOSS_TIMEOUT (R475): The Velom link out of ACTIVE for 100,000 ticks requests a controlled device reset. -/
  | linkLossTimeout
  /-- LOAD (R459): A host Load reads 64 to 256 bytes of device memory and receives a Reply. -/
  | load (tag : BitVec 16) (addr : DWord) (size : BitVec 2) (ecc : Ecc)
  /-- LOAD_LEASE (R463): A host LoadLease reads one line and the Reply grants the lease that the lease rules allow. -/
  | loadLease (tag : BitVec 16) (addr : DWord) (want : BitVec 2) (ecc : Ecc)
  /-- STORE (R428): A host Store writes whole lines to device memory, allocating a host-window page on first write. -/
  | store (tag : BitVec 16) (addr : DWord) (data : List (BitVec 128))
  /-- STORE_MASK (R408): A host StoreMask writes the enabled bytes of one line by read-modify-write. -/
  | storeMask (tag : BitVec 16) (addr : DWord) (en : BitVec 64) (line : BitVec 512) (ecc : Ecc)
  /-- REG_RD (R462): A RegRd reads a 4-byte register at a 28-bit window offset. -/
  | regRd (tag : BitVec 16) (off : DWord) (width : Nat)
  /-- REG_WR (R460): A RegWr writes a register after every earlier Store and StoreMask has been applied. -/
  | regWr (tag : BitVec 16) (off : DWord) (width : Nat) (v : Word)
  /-- HOST_INV (R469): A HostInv makes the hub drop a cached host line and answer HostInvAck within 2 ticks. -/
  | hostInv (tag : BitVec 16) (addr : DWord)
  /-- SURRENDER (R465): A Surrender gives up the host's lease on a line and writes its dirty data. -/
  | surrender (addr : DWord) (dirty : Option (BitVec 512))
  /-- RECALL_ACK (R465): A RecallAck answers a Recall, returning dirty data and the lease kept. -/
  | recallAck (addr : DWord) (keep : BitVec 2) (dirty : Option (BitVec 512))
  /-- RECALL_TIMEOUT (R466): A Recall unanswered after 1,000 ticks is taken as answered with no lease, and the late
  answer is counted and logged. -/
  | recallTimeout (addr : DWord)
  /-- HOST_ACK (R459): A HostAck completes an HStore of host memory. -/
  | hostAck (tag : BitVec 16) (status : Byte)
  /-- HOST_REPLY (R459): A HostReply delivers the data of an HLoad or HLoadKeep. -/
  | hostReply (tag : BitVec 16) (status : Byte) (data : List (BitVec 128))
  /-- DISCOVER (R483): A DISCOVER frame is forwarded along its path, or answered with DISCOVER_RSP at its end. -/
  | discover (port : Option Nat) (f : Frame)
  /-- DISCOVER_RSP (R486): A DISCOVER_RSP reaches the master with the node's fabric ID, state and neighbours. -/
  | discoverRsp (port : Option Nat) (f : Frame)
  /-- ASSIGN (R485): An ASSIGN is accepted or refused, and an accepted address takes effect in the next tick. -/
  | assign (port : Option Nat) (f : Frame)
  /-- ASSIGN_RSP (R486): An ASSIGN_RSP reports to the master the address now held and the result. -/
  | assignRsp (port : Option Nat) (f : Frame)
  /-- ROUTE_WR (R488): A ROUTE_WR from the recorded master writes 64 entries of the shadow routing table. -/
  | routeWr (f : Frame)
  /-- ROUTE_COMMIT (R488): A ROUTE_COMMIT copies the shadow table to the active table at the start of the next tick
  and sets the epoch. -/
  | routeCommit (f : Frame)
  /-- MGT_RSP (R488): An MGT_RSP reports the result of a ROUTE_WR or ROUTE_COMMIT to the master. -/
  | mgtRsp (f : Frame)
  /-- NOTICE (R493): A NOTICE reports a link loss, link return, unassigned neighbour or address clash to the master.
  -/
  | notice (f : Frame)
  /-- HELLO (R487): A HELLO records the neighbour on its port and detects an address clash. -/
  | hello (port : Nat) (node : BitVec 12) (assigned : Bool) (nport : BitVec 4)
  /-- PORT_LOSS (R491): A port that leaves ACTIVE or hears no HELLO for 3 ticks drops out of forwarding and sends
  LINK_DOWN. -/
  | portLoss (port : Nat)
  /-- FRAME_FORWARD (R482): An address-routed frame for another node has its ttl decremented and is sent on its
  chosen next hop. -/
  | frameForward (port : Nat) (f : Frame)
  /-- FRAME_DELIVER (R480): An address-routed frame is delivered only when dst matches, the node is assigned and
  e2e_crc checks. -/
  | frameDeliver (port : Nat) (f : Frame)
  /-- STALL_DROP (R482): A frame held for want of credit for stall_ticks is dropped. -/
  | stallDrop (port : Nat)
  /-- UNREACH (R492): An UNREACH tells the source that a frame with its tag was dropped for an unreachable
  destination. -/
  | unreach (f : Frame)
  /-- ISOLATION_TIMEOUT (R494): A module with no ACTIVE port for 1,000,000 ticks drops its address. -/
  | isolationTimeout
  /-- SRCH_REQ (R497): A remote module decides an arriving SRCH_REQ in its own admission and returns one SRCH_PART. -/
  | srchReq (src tag : Nat) (dl : Nat) (gen : Word) (entry : BitVec 512) (pl : Payload)
  /-- SRCH_PART (R498): The home riddle merges an arriving remote list, or completes the search on a remote failure.
  -/
  | srchPart (cmd : Nat) (r : RemotePart)
  /-- KSPLIT_PART (R500): The owner submits a fully arrived partial tile to the combining unit and answers
  KSPLIT_ACK. -/
  | ksplitPart (src tag desc contributor : Nat) (tile : List Word)
  /-- KSPLIT_ACK (R500): A KSPLIT_ACK tells a contributor its partial was accepted or was a duplicate. -/
  | ksplitAck (src tag : Nat) (dup : Bool)
  /-- KSPLIT_RESEND (R500): A contributor with no acknowledgement after 2,000 ticks resends its contribution, and
  stops with a unit fault after three resends. -/
  | ksplitResend (tag : Nat)
  /-- UNIT_FAULT_REPORT (R519): A unit fault report starts a block restart of the unit and replays its work from the
  work records. -/
  | unitFaultReport (u : UnitId) (code : BitVec 5) (detail : BitVec 41)
  /-- BLOCK_RESTART_END (R519): A restarted unit is ready again within 64 ticks, and its work is replayed. -/
  | blockRestartEnd (u : UnitId)
  /-- UNIT_WATCHDOG (R553): A unit without progress for 2^20 ticks takes a block restart. -/
  | unitWatchdog (u : UnitId)
  /-- LOCKSTEP_MISMATCH (R562): A control core pair mismatch halts both cores and restarts the pair. -/
  | lockstepMismatch (pair : Nat)
  /-- MIRROR_UNCORRECTABLE (R567): An uncorrectable mirror word closes emission and starts a rebuild of the mirror. -/
  | mirrorUncorrectable
  /-- MIRROR_REBUILD_END (R567): The mirror rebuild ends and emission opens again. -/
  | mirrorRebuildEnd (ok : Bool)
  /-- SEAM_REPLAY (R630): A corrupted seam transfer is replayed, and the eighth replay in a row fails the seam's
  link check. -/
  | seamReplay (seam : Nat) (replays : Nat)
  /-- SENSOR_SAMPLE (R554): The management controller samples every sensor once per tick and raises a trip on two
  successive samples at a limit. -/
  | sensorSample (x : Sample)
  /-- SENSOR_FAIL (R558): A sensor implausible for 2 ticks, or out of range, is marked failed and its die or stack
  is throttled. -/
  | sensorFail (sensor : Nat)
  /-- SAFETY_TRIP (R556): A safety trip in slot 1 performs a safety stop, then enters SAFE_OFF or requests a device
  reset. -/
  | safetyTrip (cause index : Nat)
  /-- ANALOG_TRIP (R555): An analog comparator at its limit disables the quarry and HBM power stages at once. -/
  | analogTrip (sensor : Nat)
  /-- ANALOG_TRIP_DELAY (R555): 3 ms after an analog trip, the hub and flash power stages are disabled. -/
  | analogTripDelay
  /-- MC_LOCKSTEP_MISMATCH (R559): A management controller mismatch restarts it while the hub throttles and defers
  lower classes. -/
  | mcLockstepMismatch
  /-- MC_RESTART_END (R559): The management controller is running again and the hub lifts its throttle. -/
  | mcRestartEnd
  /-- RAIL_CURRENT_LIMIT (R560): A power stage at its current limit raises a unit fault of its loads, and a repeat
  escalates. -/
  | railCurrentLimit (rail : Nat)
  /-- INPUT_CURRENT_LIMIT (R561): Input current held at 48 A for 1 ms takes a safety stop and SAFE_OFF. -/
  | inputCurrentLimit
  /-- THERMAL_EVENT (R534): The hottest prediction crossing the target recomputes the window's energy grant. -/
  | thermalEvent (sensor : Nat) (celsius : Int)
  /-- THERMAL_MODEL_REFINE (R533): Every 100 windows the per-sensor thermal response is refined from measurement. -/
  | thermalModelRefine (resp : List Nat)
  /-- PEAK_STALL (R540): When a window's energy would pass its limit, faces lower duty and other units stall until
  the window ends. -/
  | peakStall
  /-- SUPPLY_EVENT (R543): Input below 44 V pauses STANDARD and BULK admission, throttles faces and programs the
  ledger ring. -/
  | supplyEvent (mv : Nat)
  /-- SUPPLY_DIP_END (R544): After 100 ticks above 45 V, admission resumes, faces return to full duty and SUPPLY_DIP
  is logged. -/
  | supplyDipEnd
  /-- DIP_TIMEOUT (R545): A dip not ended 100,000 ticks after it began requests a controlled device reset. -/
  | dipTimeout
  /-- SUPPLY_BELOW_40V (R546): Input below 40 V requests a controlled device reset on hold-up energy. -/
  | supplyBelow40v (mv : Nat)
  /-- INPUT_OVERVOLTAGE (R644): Input above 60 V opens the input switch within 10 µs. -/
  | inputOvervoltage (mv : Nat)
  /-- INPUT_SWITCH_CLOSE (R644): The input switch closes again once the input falls below 58 V. -/
  | inputSwitchClose (mv : Nat)
  /-- REFERENCE_LOSS (R507): Loss of the reference clock reports a unit fault and performs a controlled device
  reset. -/
  | referenceLoss
  /-- RESET_N (R639): RESET_N held low for 10 µs requests a device reset. -/
  | resetN (lowTicks : Nat)
  /-- RESET_N_RELEASE (R639): A reset held by RESET_N continues to the boot chain when RESET_N rises. -/
  | resetNRelease
  /-- MAIN_EN_FALL (R607): MAIN_EN falling quiesces the module and takes the rails down in reverse order. -/
  | mainEnFall
  /-- STANDBY_POWER (R597): Input reaching 20 V starts the standby converter, asserts STBY_GOOD and boots the
  management controller. -/
  | standbyPower
  /-- POWER_ON (R603): When all power-on conditions hold, the main rails are sequenced up and the start-up sequence
  runs. -/
  | powerOn (mv inlet : Nat)
  /-- RAIL_FAILURE (R604): A rail that fails to come up takes every main rail down; the sequence retries once, then
  enters FAULT. -/
  | railFailure (rail : Nat)
  /-- AUTO_RESTART (R608): After a thermal SAFE_OFF the management controller starts a power-on by itself when its
  conditions hold. -/
  | autoRestart
  /-- DEVICE_RESET (R523): A device reset request in slot 2 quiesces the module and starts the wipe, train, bench
  load and replay phases. -/
  | deviceReset (cause : Nat)
  /-- QUIESCE_END (R523): The quiesce phase ends once ring records and the write buffer are programmed, and the wipe
  starts. -/
  | quiesceEnd
  /-- BOOT_CHAIN (R579): The boot ROM verifies and starts each image in order, falling back to the other slot on a
  trial failure. -/
  | bootChain (boot : Boot)
  /-- BENCH_LOAD (R431): The bench map is rebuilt from the channel translations and the fault record, and module
  pages are loaded from their images. -/
  | benchLoad
  /-- REPLAY (R524): Programmed ledger records are applied in lsn order, internal jobs resume or roll back, and the
  replay report is written. -/
  | replay
  /-- READY (R528): The module reaches ready, LDG_STAT reads READY and the replay report is published. -/
  | ready
  /-- TRANSITION_RESUME (R593): At power-on, a pending life-cycle transition is resumed at its wipe step. -/
  | transitionResume
  /-- ALU (R382): The scalar ALU instruction performs the operation its funct selects, on either core. -/
  | alu (c : Core) (rd rs1 rs2 : BitVec 5) (funct : BitVec 11)
  /-- ADDI (R382): ADDI adds a sign-extended immediate. -/
  | addi (c : Core) (rd rs1 : BitVec 5) (imm : BitVec 16)
  /-- ANDI (R382): ANDI ands a sign-extended immediate. -/
  | andi (c : Core) (rd rs1 : BitVec 5) (imm : BitVec 16)
  /-- ORI (R382): ORI ors a sign-extended immediate. -/
  | ori (c : Core) (rd rs1 : BitVec 5) (imm : BitVec 16)
  /-- XORI (R382): XORI xors a sign-extended immediate. -/
  | xori (c : Core) (rd rs1 : BitVec 5) (imm : BitVec 16)
  /-- LUI (R382): LUI loads a sign-extended upper immediate. -/
  | lui (c : Core) (rd rs1 : BitVec 5) (imm : BitVec 16)
  /-- SHI (R382): SHI shifts by an immediate amount. -/
  | shi (c : Core) (rd rs1 : BitVec 5) (imm : BitVec 16)
  /-- LD (R384): LD loads 64 bits from face-local store. -/
  | ld (face : Nat) (rd rs1 : BitVec 5) (imm : BitVec 16)
  /-- LW (R384): LW loads a sign-extended 32-bit word from local store or scratch. -/
  | lw (c : Core) (rd rs1 : BitVec 5) (imm : BitVec 16)
  /-- SD (R384): SD stores 64 bits to face-local store. -/
  | sd (face : Nat) (rd rs1 : BitVec 5) (imm : BitVec 16)
  /-- SW (R384): SW stores a 32-bit word to local store or scratch. -/
  | sw (c : Core) (rd rs1 : BitVec 5) (imm : BitVec 16)
  /-- LH (R391): LH loads a halfword from drill scratch. -/
  | lh (stack drill : Nat) (rd rs1 : BitVec 5) (imm : BitVec 16)
  /-- LBU (R391): LBU loads an unsigned byte from drill scratch. -/
  | lbu (stack drill : Nat) (rd rs1 : BitVec 5) (imm : BitVec 16)
  /-- SH (R391): SH stores a halfword to drill scratch. -/
  | sh (stack drill : Nat) (rd rs1 : BitVec 5) (imm : BitVec 16)
  /-- SB (R391): SB stores a byte to drill scratch. -/
  | sb (stack drill : Nat) (rd rs1 : BitVec 5) (imm : BitVec 16)
  /-- BEQ (R383): BEQ branches when rs1 equals rs2. -/
  | beq (c : Core) (rs1 rs2 : BitVec 5) (off : BitVec 16)
  /-- BNE (R383): BNE branches when rs1 differs from rs2. -/
  | bne (c : Core) (rs1 rs2 : BitVec 5) (off : BitVec 16)
  /-- BLT (R383): BLT branches when rs1 is less than rs2, signed. -/
  | blt (c : Core) (rs1 rs2 : BitVec 5) (off : BitVec 16)
  /-- BGE (R383): BGE branches when rs1 is at least rs2, signed. -/
  | bge (c : Core) (rs1 rs2 : BitVec 5) (off : BitVec 16)
  /-- BLTU (R383): BLTU branches when rs1 is less than rs2, unsigned. -/
  | bltu (c : Core) (rs1 rs2 : BitVec 5) (off : BitVec 16)
  /-- BGEU (R383): BGEU branches when rs1 is at least rs2, unsigned. -/
  | bgeu (c : Core) (rs1 rs2 : BitVec 5) (off : BitVec 16)
  /-- JAL (R383): JAL saves the return address in x31 and jumps. -/
  | jal (c : Core) (off : BitVec 26)
  /-- JALR (R383): JALR saves the return address and jumps to a register plus an immediate. -/
  | jalr (c : Core) (rd rs1 : BitVec 5) (imm : BitVec 16)
  /-- EXIT (R386): EXIT ends the program with a code of at most 0xEF. -/
  | exit (c : Core) (rd rs1 : BitVec 5)
  /-- STEP (R386): STEP waits for every face of the command and then runs scale adaptation. -/
  | step (face : Nat) (rd rs1 : BitVec 5)
  /-- BARRIER (R386): BARRIER waits until every face of the command has reached it. -/
  | barrier (face : Nat) (rd rs1 : BitVec 5)
  /-- CSRR (R385): CSRR reads a read-only control and status register. -/
  | csrr (c : Core) (rd rs1 : BitVec 5) (n : BitVec 8)
  /-- SETB (R391): SETB sets a drill bank base register. -/
  | setb (stack drill : Nat) (rd rs1 : BitVec 5) (k : BitVec 4)
  /-- VECTOR_ARITHMETIC (R387): A vector arithmetic instruction computes its funct's operation on every active lane.
  -/
  | vectorArithmetic (face : Nat) (vd vs1 vs2 : BitVec 5) (mask : BitVec 3) (funct : BitVec 8)
  /-- VECTOR_FUNCTION (R387): A vector function instruction computes exp, tanh, log2, reciprocal, square roots, abs
  or neg per lane. -/
  | vectorFunction (face : Nat) (vd vs1 vs2 : BitVec 5) (mask : BitVec 3) (funct : BitVec 8)
  /-- VECTOR_COMPARE (R387): A vector compare writes a lane mask. -/
  | vectorCompare (face : Nat) (vd vs1 vs2 : BitVec 5) (mask : BitVec 3) (funct : BitVec 8)
  /-- VECTOR_REDUCE (R388): A vector reduction writes the sum, max, min or amax of the active lanes to a scalar
  register. -/
  | vectorReduce (face : Nat) (vd vs1 vs2 : BitVec 5) (mask : BitVec 3) (funct : BitVec 8)
  /-- VECTOR_CONVERT (R389): A vector convert expands codes exactly or packs values with scale 1. `skew`: what
  the tag check at the vector unit's input finds (R318). -/
  | vectorConvert (face : Nat) (vd vs1 vs2 : BitVec 5) (mask : BitVec 3) (funct : SkewFunct)
  /-- VECTOR_MOVE (R387): A vector move broadcasts, selects or extracts lanes without changing bits. -/
  | vectorMove (face : Nat) (vd vs1 vs2 : BitVec 5) (mask : BitVec 3) (funct : BitVec 8)
  /-- VLD (R387): VLD loads 1 KiB from local store into a vector register. -/
  | vld (face : Nat) (vd rs1 : BitVec 5) (imm : BitVec 16)
  /-- VST (R387): VST stores a vector register as 1 KiB to local store. -/
  | vst (face : Nat) (vd rs1 : BitVec 5) (imm : BitVec 16)
  /-- TDESC (R390): TDESC loads a 32-byte tensor descriptor and resets its origin. -/
  | tdesc (face : Nat) (w : BitVec 26)
  /-- TORG (R390): TORG sets the row and column origin of a tensor descriptor. -/
  | torg (face : Nat) (w : BitVec 26)
  /-- TMMA (R270): TMMA accumulates a 64-by-64 tile product into an accumulator set in the fixed run order. -/
  | tmma (face : Nat) (w : BitVec 26)
  /-- TDRAIN (R280): TDRAIN drains an accumulator set through the epilogue and the crusher into the output tile.
  `skew`: what the tag checks at the crusher's output and the write engines find (R318). -/
  | tdrain (face : Nat) (w : SkewWord)
  /-- DRAIN_END (R275): An accumulator set's 16-cycle drain ends, and a tile waiting on that set may start. -/
  | drainEnd (face : Nat) (set : Bool)
  /-- TPART (R278): TPART sends the raw partial tile to a K-split descriptor and reports whether it completed the
  bitmap. `owner` names the node whose module holds the descriptor, none where it is this module's (R279). -/
  | tpart (face : Nat) (w : PartWord)
  /-- TFIN (R281): TFIN runs the epilogue over the combined K-split total. `skew` as for TDRAIN. -/
  | tfin (face : Nat) (w : SkewWord)
  /-- TSTAT (R274): TSTAT waits for a set's drain and returns the tile's flags. -/
  | tstat (face : Nat) (w : BitVec 26)
  /-- XFER (R390): XFER starts an asynchronous copy of 32-byte-aligned data. -/
  | xfer (face : Nat) (rd rs1 rs2 : BitVec 5) (funct : BitVec 11)
  /-- XWAIT (R390): XWAIT waits until every earlier XFER of the face is complete. -/
  | xwait (face : Nat) (w : BitVec 26)
  /-- QARITH (R392): QARITH performs a 16-lane drill SIMD arithmetic operation. -/
  | qarith (stack drill : Nat) (w : BitVec 26)
  /-- QFUNC (R392): QFUNC computes QEXP on 16 lanes. -/
  | qfunc (stack drill : Nat) (w : BitVec 26)
  /-- QCMP (R392): QCMP writes a lane predicate from a comparison. -/
  | qcmp (stack drill : Nat) (w : BitVec 26)
  /-- QRED (R392): QRED reduces 16 lanes into a scalar register. -/
  | qred (stack drill : Nat) (w : BitVec 26)
  /-- QCVT (R392): QCVT expands packed codes to fp32 exactly. `skew`: what the tag check at the drill's input finds
  (R318). -/
  | qcvt (stack drill : Nat) (w : SkewWord)
  /-- QMOV (R392): QMOV broadcasts a scalar to lanes or extracts a lane to a scalar. -/
  | qmov (stack drill : Nat) (w : BitVec 26)
  /-- BLD (R392): BLD loads 64 bytes from the bank space of the drill's slice, checking two granules. -/
  | bld (stack drill : Nat) (w : BitVec 26) (ecc : Ecc)
  /-- BST (R392): BST stores 64 bytes into the drill's region with fresh check bits. -/
  | bst (stack drill : Nat) (w : BitVec 26)
  /-- BSTW (R362): BSTW writes one 32-bit word to bank space by read-modify-write. -/
  | bstw (stack drill : Nat) (w : BitVec 26) (ecc : Ecc)
  /-- QLD (R392): QLD loads 64 bytes from drill scratch. -/
  | qld (stack drill : Nat) (w : BitVec 26)
  /-- QST (R392): QST stores 64 bytes to drill scratch. -/
  | qst (stack drill : Nat) (w : BitVec 26)
  /-- QTBL (R373): QTBL looks up fp16 distance-table entries in the scan table store per lane. -/
  | qtbl (stack drill : Nat) (w : BitVec 26)
  /-- LINS (R393): LINS inserts a scored entry into an ordered list in scratch. -/
  | lins (stack drill : Nat) (rd rs1 rs2 : BitVec 5) (funct : BitVec 11)
  /-- ENTDAA (R598): ENTDAA assigns the adit port a dynamic address. -/
  | entdaa (addr : BitVec 7)
  /-- SETNEWDA (R598): SETNEWDA changes the adit port's dynamic address. -/
  | setnewda (addr : BitVec 7)
  /-- RSTDAA (R598): RSTDAA clears the dynamic address and the MCTP endpoint ID. -/
  | rstdaa
  /-- GETPID (R598): GETPID returns the provisional ID. -/
  | getpid
  /-- GETBCR (R598): GETBCR returns BCR 0x06. -/
  | getbcr
  /-- GETDCR (R598): GETDCR returns DCR 0x00. -/
  | getdcr
  /-- GETSTATUS (R598): GETSTATUS returns the target status. -/
  | getstatus
  /-- GETMWL (R598): GETMWL returns the maximum write length. -/
  | getmwl
  /-- SETMWL (R598): SETMWL sets the maximum write length. -/
  | setmwl (len : BitVec 16)
  /-- GETMRL (R598): GETMRL returns the maximum read length. -/
  | getmrl
  /-- SETMRL (R598): SETMRL sets the maximum read length. -/
  | setmrl (len : BitVec 16)
  /-- ENEC (R598): ENEC enables in-band interrupts. -/
  | enec (events : Byte)
  /-- DISEC (R598): DISEC disables in-band interrupts. -/
  | disec (events : Byte)
  /-- RSTACT (R598): RSTACT with action 0x00 sets the target reset action. -/
  | rstact (action : Byte)
  /-- SET_ENDPOINT_ID (R599): Set Endpoint ID assigns the MCTP endpoint ID. -/
  | setEndpointId (eid : Byte)
  /-- GET_ENDPOINT_ID (R599): Get Endpoint ID returns the MCTP endpoint ID. -/
  | getEndpointId
  /-- GET_ENDPOINT_UUID (R599): Get Endpoint UUID returns the UUID derived from the fabric ID. -/
  | getEndpointUuid
  /-- GET_MCTP_VERSION_SUPPORT (R599): Get MCTP Version Support returns the supported versions. -/
  | getMctpVersionSupport
  /-- GET_MESSAGE_TYPE_SUPPORT (R599): Get Message Type Support returns control, PLDM and SPDM. -/
  | getMessageTypeSupport
  /-- GET_TID (R600): GetTID returns the PLDM terminus ID. -/
  | getTid
  /-- SET_TID (R600): SetTID sets the PLDM terminus ID. -/
  | setTid (tid : Byte)
  /-- GET_PLDM_VERSION (R600): GetPLDMVersion returns a supported type's version. -/
  | getPldmVersion (ty : Byte)
  /-- GET_PLDM_TYPES (R600): GetPLDMTypes returns the supported PLDM types. -/
  | getPldmTypes
  /-- GET_PLDM_COMMANDS (R600): GetPLDMCommands returns the supported commands of a type. -/
  | getPldmCommands (ty : Byte)
  /-- GET_PDR_REPOSITORY_INFO (R601): GetPDRRepositoryInfo describes the PDR repository. -/
  | getPdrRepositoryInfo
  /-- GET_PDR (R601): GetPDR returns a sensor or effecter record. -/
  | getPdr (id : Nat)
  /-- GET_SENSOR_READING (R601): GetSensorReading returns a numeric sensor, or unavailable if its source is
  unpowered. -/
  | getSensorReading (id : Nat)
  /-- GET_STATE_SENSOR_READINGS (R601): GetStateSensorReadings returns life-cycle, management state and start-up
  phase. -/
  | getStateSensorReadings (id : Nat)
  /-- SET_NUMERIC_EFFECTER_VALUE (R600): SetNumericEffecterValue sets a numeric effecter. -/
  | setNumericEffecterValue (id : Nat) (v : Word)
  /-- MAIN_POWER_EFFECTER (R603): Setting effecter 200 to off takes the main rails down, and setting it to on
  permits a power-on. -/
  | mainPowerEffecter (v : Byte)
  /-- RESET_EFFECTER (R601): Setting effecter 201 requests a device reset with cause 7. -/
  | resetEffecter (v : Byte)
  /-- TEST_MODE_EFFECTER (R610): Setting effecter 202 starts test mode n if its conditions hold. -/
  | testModeEffecter (mode target : Nat)
  /-- SET_EVENT_RECEIVER (R602): SetEventReceiver registers the receiver of PlatformEventMessage. -/
  | setEventReceiver (eid : Byte)
  /-- GET_FRU_RECORD_TABLE_METADATA (R600): GetFRURecordTableMetadata describes the FRU record table. -/
  | getFruRecordTableMetadata
  /-- GET_FRU_RECORD_TABLE (R2): GetFRURecordTable returns the ordering code, stepping, serial number, flash
  capacity and manufacture date. -/
  | getFruRecordTable
  /-- QUERY_DEVICE_IDENTIFIERS (R600): QueryDeviceIdentifiers returns the firmware device identifiers. -/
  | queryDeviceIdentifiers
  /-- GET_FIRMWARE_PARAMETERS (R600): GetFirmwareParameters returns the component versions of both slots. -/
  | getFirmwareParameters
  /-- REQUEST_UPDATE (R609): RequestUpdate starts a firmware update in phase 7 or 8, and is refused in other phases.
  -/
  | requestUpdate
  /-- PASS_COMPONENT_TABLE (R582): PassComponentTable names the image components to be updated. -/
  | passComponentTable (comps : List Nat)
  /-- UPDATE_COMPONENT (R582): UpdateComponent starts writing one image into the inactive slot. -/
  | updateComponent (kind : Nat)
  /-- REQUEST_FIRMWARE_DATA (R582): The update agent's answer to RequestFirmwareData delivers image data, which is
  written into the inactive slot. -/
  | requestFirmwareData (img : Image)
  /-- VERIFY_COMPLETE (R582): At the end of a transfer the component is verified and VerifyComplete reports the
  result, marking the slot invalid on failure. -/
  | verifyComplete
  /-- ACTIVATE_FIRMWARE (R583): ActivateFirmware writes a firmware activation record, and the active slot changes
  when it is programmed. -/
  | activateFirmware
  /-- GET_STATUS (R600): GetStatus reports the firmware update state. -/
  | getStatus
  /-- CANCEL_UPDATE_COMPONENT (R600): CancelUpdateComponent cancels the current component transfer. -/
  | cancelUpdateComponent
  /-- CANCEL_UPDATE (R609): CancelUpdate ends the update and releases the auto-restart hold. -/
  | cancelUpdate
  /-- GET_VERSION (R586): GET_VERSION returns SPDM version 1.3. -/
  | getVersion (tr : Transport)
  /-- GET_CAPABILITIES (R586): GET_CAPABILITIES returns the responder capabilities. -/
  | getCapabilities (tr : Transport)
  /-- NEGOTIATE_ALGORITHMS (R586): NEGOTIATE_ALGORITHMS selects Ed25519 and SHA-512. -/
  | negotiateAlgorithms (tr : Transport) (asym hash : Word)
  /-- GET_DIGESTS (R586): GET_DIGESTS returns the digest of certificate slot 0. -/
  | getDigests (tr : Transport)
  /-- GET_CERTIFICATE (R585): GET_CERTIFICATE returns part of the slot 0 certificate chain. -/
  | getCertificate (tr : Transport) (slot off len : Nat)
  /-- CHALLENGE (R586): CHALLENGE returns a signed response proving the identity key. -/
  | challenge (tr : Transport) (slot : Nat) (nonce : BitVec 256)
  /-- GET_MEASUREMENTS (R587): GET_MEASUREMENTS returns the signed measurement blocks as they stand. -/
  | getMeasurements (tr : Transport) (idx : Nat) (nonce : BitVec 256)
  /-- REFERENCE_RETURN (R507): The reference clock is present again, and a device reset held after a reference loss
  may go on towards ready. -/
  | referenceReturn
  /-- STANDBY_LOSS (R597): The input falls below 20 V, the standby converter stops, STBY_GOOD deasserts and the
  management controller loses power. -/
  | standbyLoss
  /-- TRIAL_BOOT_TIMEOUT (R584): A trial boot that has not reached ready 12 s after its reset tick makes the
  security block revert the active slot and set reverted. -/
  | trialBootTimeout
  /-- RAIL_SEQUENCE_RETRY (R604): One second after a rail failure the rail sequence is retried once, and a second
  failure enters FAULT. -/
  | railSequenceRetry
  /-- DEBUG_UART_ACCESS (R594): In SERVICE, a request on DBG_RXD reads or writes registers and device memory, or
  halts control core pairs. -/
  | debugUartAccess (r : DbgReq)
  deriving DecidableEq, Repr

end Sys2Proof
end

