-- ==== Sys2Proof/Machine/Bits.lean ====
section
/-! DEFINITION. Bit fields, byte strings (little-endian throughout, chapter 00), CRC-32C, sparse maps in one
canonical form, and a few list operations the rest of the model shares. -/

namespace Sys2Proof.Machine

/-- Bits `[lo + n - 1 : lo]` of a number. -/
def bits (v lo n : Nat) : Nat := v / 2 ^ lo % 2 ^ n

/-- Bit `i` of a number. -/
def bitAt (v i : Nat) : Bool := v / 2 ^ i % 2 = 1

/-- A number with bits `[lo + n - 1 : lo]` replaced by `x`. -/
def setBits (v lo n x : Nat) : Nat := v - bits v lo n * 2 ^ lo + x % 2 ^ n * 2 ^ lo

/-- A flag as a number. -/
def bN (b : Bool) : Nat := if b then 1 else 0

/-- The two's-complement reading of the low `n` bits. -/
def sext (v n : Nat) : Int :=
  let x := v % 2 ^ n
  if x < 2 ^ (n - 1) then x else (x : Int) - 2 ^ n

/-- A field of a submission entry: `n` bytes from byte `b` (R70). -/
def fld (e : BitVec 512) (b n : Nat) : Nat := e.toNat / 2 ^ (8 * b) % 2 ^ (8 * n)

/-- The `n` little-endian bytes of a number. -/
def toBytes (v : Nat) : Nat → List Byte
  | 0 => []
  | n + 1 => BitVec.ofNat 8 v :: toBytes (v / 256) n

/-- The number a little-endian byte string spells. -/
def ofBytes : List Byte → Nat
  | [] => 0
  | b :: bs => b.toNat + 256 * ofBytes bs

/-- A byte string padded with zeros to a multiple of `k`. -/
def padTo (k : Nat) (bs : List Byte) : List Byte := bs ++ List.replicate ((k - bs.length % k) % k) 0#8

/-- The smallest multiple of `k` that is at least `n`. -/
def alignUp (n k : Nat) : Nat := (n + k - 1) / k * k

/-- The quotient rounded up. -/
def ceilDiv (a b : Nat) : Nat := (a + b - 1) / b

/-- One bit of the reflected CRC-32C division (polynomial 0x1EDC6F41 of Castagnoli). -/
def crcBit (c : Nat) : Nat := if c % 2 = 1 then (c / 2) ^^^ 0x82F63B78 else c / 2

def crcByte (c : Nat) (b : Byte) : Nat :=
  crcBit (crcBit (crcBit (crcBit (crcBit (crcBit (crcBit (crcBit (c ^^^ b.toNat))))))))

/-- CRC-32C of a byte string; its parameters are the family's (the log's entry on CRC-32C). -/
def crc32c (bs : List Byte) : Word :=
  BitVec.ofNat 32 (bs.foldl crcByte 0xFFFFFFFF ^^^ 0xFFFFFFFF)

/-! Sparse maps from numbers: keys strictly rising, no entry equal to the default of its key. -/

/-- The value of a key, its default where the map lists none. -/
def mapGet {β : Type} (dflt : Nat → β) (m : List (Nat × β)) (k : Nat) : β :=
  match m.find? fun e => e.1 = k with
  | some e => e.2
  | none => dflt k

/-- The map with a key's entry removed. -/
def mapErase {β : Type} (m : List (Nat × β)) (k : Nat) : List (Nat × β) := m.filter fun e => e.1 != k

/-- An entry put before the first of a higher key. -/
def mapInsert {β : Type} : List (Nat × β) → Nat → β → List (Nat × β)
  | [], k, v => [(k, v)]
  | e :: m, k, v => if k < e.1 then (k, v) :: e :: m else e :: mapInsert m k v

/-- The map with a key's entry set. -/
def mapPut {β : Type} (m : List (Nat × β)) (k : Nat) (v : β) : List (Nat × β) := mapInsert (mapErase m k) k v

/-- The map with a key's value set, in canonical form: a default value lists nothing. -/
def mapSet {β : Type} [DecidableEq β] (dflt : Nat → β) (m : List (Nat × β)) (k : Nat) (v : β) :
    List (Nat × β) :=
  if v = dflt k then mapErase m k else mapPut m k v

/-- Keys strictly rising from `lo` on. -/
def mapRising {β : Type} (lo : Nat) : List (Nat × β) → Bool
  | [] => true
  | (k, _) :: m => decide (lo ≤ k) && mapRising (k + 1) m

/-- The canonical form of a sparse map. -/
def mapWf {β : Type} [DecidableEq β] (dflt : Nat → β) (m : List (Nat × β)) : Bool :=
  mapRising 0 m && m.all fun e => decide (e.2 ≠ dflt e.1)

/-! Lists. -/

/-- Insertion of an element before the first it precedes. -/
def insertBy {α : Type} (lt : α → α → Bool) (x : α) : List α → List α
  | [] => [x]
  | y :: ys => if lt x y then x :: y :: ys else y :: insertBy lt x ys

/-- A list in the order of `lt`, equal elements in the order they stood. -/
def sortBy {α : Type} (lt : α → α → Bool) (l : List α) : List α :=
  l.foldl (fun acc x => insertBy lt x acc) []

/-- The elements satisfying `p`, changed by `f`; the rest as they stand. -/
def mapIf {α : Type} (p : α → Bool) (f : α → α) (l : List α) : List α := l.map fun x => if p x then f x else x

/-- The list with its `n`-th element changed by `f`. -/
def modNth {α : Type} (l : List α) (n : Nat) (f : α → α) : List α :=
  match l, n with
  | [], _ => []
  | x :: xs, 0 => f x :: xs
  | x :: xs, n + 1 => x :: modNth xs n f

/-- The index of the first element satisfying `p`. -/
def findIdx' {α : Type} (p : α → Bool) (l : List α) : Option Nat :=
  let i := l.findIdx p
  if i < l.length then some i else none

/-- The numbers below `n` (a short name for folds). -/
def upto (n : Nat) : List Nat := List.range n

/-- The sum of a list of numbers. -/
def total (l : List Nat) : Nat := l.foldl (· + ·) 0

/-- Whether a list holds two equal elements; the index of the first that repeats an earlier one. -/
def firstRepeat {α : Type} [DecidableEq α] (l : List α) : Option Nat :=
  let rec go : List α → List α → Nat → Option Nat
    | _, [], _ => none
    | seen, x :: xs, i => if x ∈ seen then some i else go (x :: seen) xs (i + 1)
  go [] l 0

end Sys2Proof.Machine
end

