-- ==== Sys2Proof/Config.lean ====
section
/-! DEFINITION. What the spec leaves open or fixes without stating it: free values, each an opaque constant
with no body, so that no proof can see what it is. The assumption log names each one. -/

namespace Sys2Proof.Config

/-- Whether the faithful rounding of exp, tanh, log2, a reciprocal or a reciprocal root takes the neighbour away from zero
(R283, R387). -/
opaque expUp : Word → Bool
opaque tanhUp : Word → Bool
opaque log2Up : Word → Bool
opaque rcpUp : Word → Bool
opaque rsqrtUp : Word → Bool

/-- The three hash functions of the visited filter (R141) over local node numbers. -/
opaque bloomHash : Nat → Nat → Nat
/-- The hub's fixed 10-bit hash of the value field (Table SR-3). -/
opaque hash10 : Word → Nat

/-- The service-rate model's cost of a submission entry on a pool, estimated from its arguments: pool, entry, segment count,
dimension and token count (R79). -/
opaque cost : Nat → BitVec 512 → Nat → Nat → Nat → Nat
/-- The cost on a pool of one step of a BULK job: pool and entry (R87). -/
opaque stepCost : Nat → BitVec 512 → Nat
/-- The fixed latency term l_op of a prediction (R80). -/
opaque latency : BitVec 512 → Nat
/-- Joules per cost unit of a pool before any measurement, in microjoules (R535). -/
opaque coef0 : Nat → Nat
/-- Rate of a pool, in cost units per 100-tick window, before any measurement (R79). -/
opaque rate0 : Nat → Nat

/-- Element of what the package's programs give a document, by draw, chunk and element: a chunk's fp32 sum over its
tokens, or its first or last token's output, as the package pools (R284 to R289). -/
opaque encoded : Nat → Nat → Nat → Word
/-- The upstream gradient of an element of a drained tile, by draw and place in element order (R313: the spec gives it no source). -/
opaque upstream : Nat → Nat → Word
/-- Whether a K-split contribution sent to another module completed the bitmap there, by draw (R279: no frame says so). -/
opaque ksLast : Nat → Bool
/-- A key and a value that a token's cache bytes hold for a layer and key head, expanded with their stored scales (R374: the
spec gives the cache no layout). -/
opaque cacheKey : List Byte → Nat → Nat → List Word
opaque cacheVal : List Byte → Nat → Nat → List Word
/-- Whether a mask lets a row of a chunk attend to a token of it (R284: the package declares it). -/
opaque attends : Nat → Nat → Nat → Bool
/-- What VEXTR gives for a lane number that no lane has (Table IS-4). -/
opaque laneOut : List Word → Nat → Word
/-- What a package's tokeniser makes of a text: package, version, bytes (R116: the spec gives no tokeniser). -/
opaque tokens : Nat → Nat → List Byte → List Word
/-- A byte of the keys and values that a chunk's encoding writes to bench 1, by draw and offset (R284). -/
opaque kvByte : Nat → Nat → Byte
/-- A byte of a build's checkpoint, by draw and offset (R251: the spec gives its state no layout). -/
opaque ckptByte : Nat → Nat → Byte
/-- Codebook centroids a build trains: sub-space, centroid, element (Table IX-3, phase 1). -/
opaque centroid : Nat → Nat → Nat → Nat → Word
/-- Edges a build or a fold gives a node: build, node, edge (Table IX-3, phase 3). -/
opaque edge : Nat → Nat → Nat → Nat
/-- Entry nodes of a graph above 4,096 nodes (Table IX-3, phase 4). -/
opaque entryNode : Nat → Nat → Nat

/-- Fresh bits of the TRNG, by draw (R591). -/
opaque nonce : Nat → BitVec 256
/-- Ed25519 signature of the identity key over a message digest (R578, R586). -/
opaque sign : BitVec 512 → BitVec 512
/-- Whether an Ed25519 signature (64 bytes) verifies under a public key over a message (R578). -/
opaque verifies : List Byte → List Byte → List Byte → Bool
/-- SHA-512 of a byte string (R578). -/
opaque sha512 : List Byte → BitVec 512
/-- The identity public key and the vendor root key hash fused at wafer test (Table SE-1). -/
opaque identityKey : BitVec 256
opaque vendorRoot : BitVec 256
/-- Serial number, manufacture date and ordering variant of this part (R1, R650). -/
opaque serial : BitVec 64
opaque madeOn : BitVec 32
opaque isF32 : Bool
/-- The provisional ID that GETPID returns, and the certificate chain of slot 0 (R585, R598). -/
opaque provisionalId : BitVec 48
opaque certChain : List Byte
/-- GETSTATUS's target status, by draw (R598: the spec gives no contents). -/
opaque i3cStatus : Nat → BitVec 16
/-- The endpoint UUID derived from the fabric ID, and the MCTP versions supported (R599). -/
opaque uuid : Nat → BitVec 128
opaque mctpVersions : List Byte
/-- The version of a PLDM type, and the firmware device identifiers (R600). -/
opaque pldmVersion : Byte → Word
opaque deviceIds : List Byte
/-- SHA-512 of the hub boot ROM (Table SE-6). -/
opaque romDigest : BitVec 512

/-- Where the allocator places a fresh module page or host page among equal choices: a draw, by counter. -/
opaque place : Nat → Nat
/-- AES-256-XTS per IEEE 1619 on a data unit, by key pair and tweak (R449): a permutation of the units. -/
opaque aesXts : BitVec 512 → Nat → Equiv.Perm DataUnit
/-- A data unit of a group in the ledger zone, by the group's number and the unit's place in it: no layout is given of a group's header
nor of a record's payload (R512, R513). -/
opaque groupUnit : Nat → Nat → DataUnit
/-- The check symbols of the LDPC code over a unit's ciphertext (R449: the spec gives no code). -/
opaque ldpc : DataUnit → Nat
/-- Ordinary reads that a drill held to a micro-operation boundary (R357), by draw: the spec gives no timing of a run. -/
opaque holdoffs : Nat → Nat
/-- Spare blocks a flash channel has when new (R451). -/
opaque spareBlocks : Nat
/-- Cycle counts that CSRs and counters report, by draw (R385, R396: the spec gives no cycle timing). -/
opaque cycles : Nat → Nat
/-- Contents of a cache line, granule or buffer the spec calls undefined, by counter (R132). -/
opaque undefinedByte : Nat → Byte

end Sys2Proof.Config
end

