-- ==== Sys2Proof/Machine/Fp.lean ====
section
/-! DEFINITION. The number formats of the module (Table CV-2, Table CR-1, Table FA-3) and exact arithmetic on
them: every operation computes the exact dyadic result and rounds once. -/

namespace Sys2Proof.Machine.Fp

/-- A binary float format: exponent bias, fraction bits, sign bit position, code of the largest finite
magnitude, and what its top codes mean: 0 IEEE infinities and NaNs, 1 only the all-ones NaN (E4M3), 2 neither. -/
structure Fmt where
  bias   : Nat
  frac   : Nat
  sign   : Nat
  maxMag : Nat
  kind   : Nat
  deriving DecidableEq, Repr

/-- The float formats of Table CR-1 by code (0 to 7), and the internal formats of chapter 08. -/
def f32  : Fmt := ⟨127, 23, 31, 0x7F7FFFFF, 0⟩
def bf16 : Fmt := ⟨127, 7, 15, 0x7F7F, 0⟩
def f16  : Fmt := ⟨15, 10, 15, 0x7BFF, 0⟩
def e4m3 : Fmt := ⟨7, 3, 7, 0x7E, 1⟩
def e5m2 : Fmt := ⟨15, 2, 7, 0x7B, 0⟩
def e3m2 : Fmt := ⟨3, 2, 5, 0x1F, 2⟩
def e2m3 : Fmt := ⟨1, 3, 5, 0x1F, 2⟩
def e2m1 : Fmt := ⟨1, 1, 3, 0x7, 2⟩
/-- The run register of R270: 24-bit significand, 10-bit exponent with bias 511. -/
def run24 : Fmt := ⟨511, 23, 33, 0x1FF7FFFFF, 0⟩
/-- IEEE binary64, for the statistics of Table CR-6. -/
def f64  : Fmt := ⟨1023, 52, 63, 0x7FEFFFFFFFFFFFFF, 0⟩

/-- The float format of a format code, if it is one (Table CR-1). -/
def fmtOf : Nat → Option Fmt
  | 0 => some f32 | 1 => some bf16 | 2 => some f16 | 3 => some e4m3 | 4 => some e5m2
  | 5 => some e3m2 | 6 => some e2m3 | 7 => some e2m1 | _ => none

/-- A value: NaN, a signed infinity, or sign and magnitude `m * 2^e`. -/
inductive FVal where
  | nan
  | inf (neg : Bool)
  | fin (neg : Bool) (m : Nat) (e : Int)
  deriving DecidableEq, Repr

/-- The exact value of a code (R34, R268). -/
def decode (f : Fmt) (c : Nat) : FVal :=
  let neg := c / 2 ^ f.sign % 2 = 1
  let mag := c % 2 ^ f.sign
  if mag ≤ f.maxMag then
    let fld := mag / 2 ^ f.frac
    let fr  := mag % 2 ^ f.frac
    if fld = 0 then .fin neg fr (1 - (f.bias : Int) - f.frac)
    else .fin neg (2 ^ f.frac + fr) ((fld : Int) - f.bias - f.frac)
  else if f.kind = 0 ∧ mag = f.maxMag + 1 then .inf neg
  else .nan

/-- Nearest, ties to even, of `m / 2^k`. -/
def rne (m k : Nat) : Nat :=
  let q := m / 2 ^ k
  let r := m % 2 ^ k
  if k = 0 then m
  else if 2 * r > 2 ^ k ∨ (2 * r = 2 ^ k ∧ q % 2 = 1) then q + 1 else q

/-- The magnitude code nearest `m * 2^e`, before the overflow rule. -/
def magCode (f : Fmt) (m : Nat) (e : Int) : Nat :=
  if m = 0 then 0
  else
    let ex := max ((Nat.log2 m : Int) + e) (1 - f.bias)
    let q  := ex - f.frac
    let k  := if q ≤ e then m * 2 ^ (e - q).toNat else rne m (q - e).toNat
    (ex + f.bias - 1).toNat * 2 ^ f.frac + k

/-- How a result above the largest finite value is written: an infinity, or the largest finite value. -/
inductive Ovf where
  | toInf | saturate
  deriving DecidableEq, Repr

/-- One rounding of a value to a format, nearest ties to even. -/
def roundTo (f : Fmt) (o : Ovf) : FVal → Nat
  | .nan => match f.kind with
    | 0 => f.maxMag + 1 + 2 ^ (f.frac - 1)
    | 1 => f.maxMag + 1
    | _ => 0
  | .inf neg => (if neg then 2 ^ f.sign else 0) + (if f.kind = 0 then f.maxMag + 1 else f.maxMag)
  | .fin neg m e =>
    let c := magCode f m e
    let c := if c ≤ f.maxMag then c
      else if o = .toInf ∧ f.kind = 0 then f.maxMag + 1 else f.maxMag
    (if neg then 2 ^ f.sign else 0) + c

/-- Whether rounding a finite value leaves the format's finite range. -/
def overflows (f : Fmt) : FVal → Bool
  | .fin _ m e => f.maxMag < magCode f m e
  | _ => false

/-- The exact sum of two values (IEEE 754 for the special cases and the sign of zero). -/
def add (a b : FVal) : FVal :=
  match a, b with
  | .nan, _ => .nan
  | _, .nan => .nan
  | .inf x, .inf y => if x = y then .inf x else .nan
  | .inf x, .fin _ _ _ => .inf x
  | .fin _ _ _, .inf y => .inf y
  | .fin x m e, .fin y n g =>
    let q := min e g
    let p : Int := (m * 2 ^ (e - q).toNat : Nat)
    let r : Int := (n * 2 ^ (g - q).toNat : Nat)
    let s := (if x then -p else p) + (if y then -r else r)
    if s = 0 then .fin (x && y) 0 q else .fin (s < 0) s.natAbs q

/-- The exact product. -/
def mul (a b : FVal) : FVal :=
  match a, b with
  | .nan, _ => .nan
  | _, .nan => .nan
  | .inf x, .inf y => .inf (x != y)
  | .inf x, .fin y m _ => if m = 0 then .nan else .inf (x != y)
  | .fin x m _, .inf y => if m = 0 then .nan else .inf (x != y)
  | .fin x m e, .fin y n g => .fin (x != y) (m * n) (e + g)

/-- The negation. -/
def neg : FVal → FVal
  | .nan => .nan
  | .inf x => .inf (!x)
  | .fin x m e => .fin (!x) m e

/-- The quotient, exact to a sticky bit far below any format's last place. -/
def div (a b : FVal) : FVal :=
  match a, b with
  | .nan, _ => .nan
  | _, .nan => .nan
  | .inf _, .inf _ => .nan
  | .inf x, .fin y _ _ => .inf (x != y)
  | .fin x _ _, .inf y => .fin (x != y) 0 0
  | .fin x m e, .fin y n g =>
    if n = 0 then (if m = 0 then .nan else .inf (x != y))
    else
      let sh := 80 + Nat.log2 n
      let p := m * 2 ^ sh
      let q := p / n
      let st := if p % n = 0 then 0 else 1
      .fin (x != y) (2 * q + st) (e - g - sh - 1)

/-- The square root, exact to a sticky bit. -/
def sqrt : FVal → FVal
  | .nan => .nan
  | .inf x => if x then .nan else .inf false
  | .fin x m e =>
    if m = 0 then .fin x 0 0
    else if x then .nan
    else
      let sh : Nat := if (e - 128) % 2 = 0 then 128 else 129
      let p := m * 2 ^ sh
      let r := Nat.sqrt p
      let st := if r * r = p then 0 else 1
      .fin false (2 * r + st) ((e - (sh : Int)) / 2 - 1)

/-- The value of an fp32 word. -/
def val (w : Word) : FVal := decode f32 w.toNat

/-- The fp32 word nearest a value; every NaN is 0x7FC0_0000 (R387). -/
def toW (v : FVal) : Word := BitVec.ofNat 32 (roundTo f32 .toInf v)

/-- The fp32 word nearest a value, saturating to the largest finite magnitude (R41, R271). -/
def satW (v : FVal) : Word := BitVec.ofNat 32 (roundTo f32 .saturate v)

def fadd (a b : Word) : Word := toW (add (val a) (val b))
def fsub (a b : Word) : Word := toW (add (val a) (neg (val b)))
def fmul (a b : Word) : Word := toW (mul (val a) (val b))
def fma (a b c : Word) : Word := toW (add (mul (val a) (val b)) (val c))
def fdiv (a b : Word) : Word := toW (div (val a) (val b))
def fsqrt (a : Word) : Word := toW (sqrt (val a))

/-- Saturating sum and product of R41. -/
def sadd (a b : Word) : Word := satW (add (val a) (val b))
def ssub (a b : Word) : Word := satW (add (val a) (neg (val b)))
def smul (a b : Word) : Word := satW (mul (val a) (val b))

def isNan (w : Word) : Bool := decide (0x7F800000 < w.toNat % 2 ^ 31)
def isInf (w : Word) : Bool := decide (w.toNat % 2 ^ 31 = 0x7F800000)
def isFinite (w : Word) : Bool := decide (w.toNat % 2 ^ 31 < 0x7F800000)
def isZero (w : Word) : Bool := decide (w.toNat % 2 ^ 31 = 0)

/-- The 2^31-symmetric integer that orders non-NaN words, with −0 equal to +0. -/
def ordInt (w : Word) : Int :=
  let m : Int := (w.toNat % 2 ^ 31 : Nat)
  if w.toNat < 2 ^ 31 then m else -m

def flt (a b : Word) : Bool := !isNan a && !isNan b && decide (ordInt a < ordInt b)
def fle (a b : Word) : Bool := !isNan a && !isNan b && decide (ordInt a ≤ ordInt b)
def feq (a b : Word) : Bool := !isNan a && !isNan b && decide (ordInt a = ordInt b)

/-- VMAX and VMIN of R387: NaN if either is NaN; −0 lies below +0. -/
def signedKey (w : Word) : Int :=
  let m : Int := (w.toNat % 2 ^ 31 : Nat)
  if w.toNat < 2 ^ 31 then m else -m - 1
def qnan : Word := 0x7FC00000#32
def fmax (a b : Word) : Word :=
  if isNan a || isNan b then qnan else if signedKey a < signedKey b then b else a
def fmin (a b : Word) : Word :=
  if isNan a || isNan b then qnan else if signedKey b < signedKey a then b else a
def fabs (a : Word) : Word := a &&& 0x7FFFFFFF#32
def fneg (a : Word) : Word := a ^^^ 0x80000000#32

/-- The fp32 neighbour of a value towards zero; beyond the finite range, the largest finite magnitude. -/
def truncW (v : FVal) : Word :=
  match v with
  | .fin x m e =>
    let ex := max ((Nat.log2 m : Int) + e) (-126)
    let q := ex - 23
    let k := if q ≤ e then m * 2 ^ (e - q).toNat else m / 2 ^ (q - e).toNat
    let c := if m = 0 then 0 else (ex + 126).toNat * 2 ^ 23 + k
    BitVec.ofNat 32 ((if x then 2 ^ 31 else 0) + min c 0x7F7FFFFF)
  | v => toW v

/-- Whether a value is not an fp32 number exactly. -/
def inexact (v : FVal) : Bool :=
  match v with
  | .fin _ m e =>
    let ex := max ((Nat.log2 m : Int) + e) (-126)
    let q := ex - 23
    decide (m ≠ 0 ∧ (127 < ex ∨ (e < q ∧ m % 2 ^ (q - e).toNat ≠ 0)))
  | _ => false

/-- A faithful rounding: the exact number, or one of the two neighbours, the free choice `up` (R387). -/
def faithful (up : Bool) (v : FVal) : Word :=
  if inexact v && up then truncW v + 1#32 else truncW v

def one : FVal := .fin false 1 0
def frcp (a : Word) : Word := faithful (Config.rcpUp a) (div one (val a))
def frsqrt (a : Word) : Word :=
  match val a with
  | .fin x 0 _ => toW (.inf x)
  | v => faithful (Config.rsqrtUp a) (div one (sqrt v))

/-! exp, tanh and log2 to a sticky bit more than 100 places down: enough to tell the two neighbours of a faithful rounding. -/

/-- ln 2 with 160 fraction bits. -/
def ln2 : Nat := 1013035739299659071135698605846798551586536899366

/-- `r^n / n!` summed from `n` on, `t` being the term of `n - 1`, with 160 fraction bits. -/
def expTerms (r : Nat) : Nat → Nat → Nat → Nat
  | 0, _, _ => 0
  | k + 1, n, t => let u := t * r / 2 ^ 160 / n; u + expTerms r k (n + 1) u

/-- exp of a finite value other than zero, which is no dyadic number. -/
def expVal (x : Bool) (m : Nat) (e : Int) : FVal :=
  if 7 < (Nat.log2 m : Int) + e then (if x then .fin false 1 (-400) else .fin false 1 400)
  else
    let f : Int := if 0 ≤ e + 160 then (m * 2 ^ (e + 160).toNat : Nat) else (m / 2 ^ (-(e + 160)).toNat : Nat)
    let f := if x then -f - 1 else f
    let k := f / (ln2 : Int)
    let r := (f - k * ln2).toNat
    .fin false (2 * (2 ^ 160 + expTerms r 40 1 (2 ^ 160)) + 1) (k - 161)

/-- tanh of a positive finite magnitude: by its series below 2^-8, else from exp. -/
def tanhMag (m : Nat) (e : Int) : FVal :=
  let top := (Nat.log2 m : Int) + e
  if 4 < top then .fin false (2 ^ 64 - 1) (-64)
  else if top < -8 then
    let q : Nat := if 0 ≤ 2 * e + 160 then m * m * 2 ^ (2 * e + 160).toNat else m * m / 2 ^ (-(2 * e + 160)).toNat
    let q2 := q * q / 2 ^ 160
    let q3 := q2 * q / 2 ^ 160
    let q4 := q3 * q / 2 ^ 160
    let q5 := q4 * q / 2 ^ 160
    let q6 := q5 * q / 2 ^ 160
    let s := 2 ^ 160 + 2 * q2 / 15 + 62 * q4 / 2835 + 21844 * q6 / 6081075 - q / 3 - 17 * q3 / 315 - 1382 * q5 / 155925 - 1
    .fin false (m * s) (e - 160)
  else
    let w := expVal false m (e + 1)
    div (add w (neg one)) (add w one)

/-- The first `k` fraction bits of log2 of `z / 2^200`, which lies in [1, 2). -/
def log2Bits : Nat → Nat → Nat → Nat
  | 0, _, acc => acc
  | k + 1, z, acc =>
    let y := z * z / 2 ^ 200
    if y < 2 ^ 201 then log2Bits k y (2 * acc) else log2Bits k (y / 2) (2 * acc + 1)

/-- log2 of a positive finite value. -/
def log2Val (m : Nat) (e : Int) : FVal :=
  let l := Nat.log2 m
  let ex := (l : Int) + e
  if m = 2 ^ l then .fin (ex < 0) ex.natAbs 0
  else
    let t := ex * 2 ^ 100 + log2Bits 100 (m * 2 ^ 200 / 2 ^ l) 0
    if 0 ≤ t then .fin false (2 * t.natAbs + 1) (-101) else .fin true (2 * t.natAbs - 1) (-101)

/-- exp, tanh and log2 (R283, R286, R387): exact where the result is, else faithfully rounded. -/
def fexp (a : Word) : Word :=
  match val a with
  | .nan => qnan
  | .inf x => if x then 0#32 else a
  | .fin x m e => if m = 0 then 0x3F800000#32 else faithful (Config.expUp a) (expVal x m e)
def ftanh (a : Word) : Word :=
  match val a with
  | .nan => qnan
  | .inf x => if x then 0xBF800000#32 else 0x3F800000#32
  | .fin x m e => if m = 0 then a else
      let w := faithful (Config.tanhUp a) (tanhMag m e)
      if x then fneg w else w
def flog2 (a : Word) : Word :=
  match val a with
  | .nan => qnan
  | .inf x => if x then qnan else a
  | .fin x m e => if m = 0 then 0xFF800000#32 else if x then qnan else faithful (Config.log2Up a) (log2Val m e)

/-- Expansion of a stored element to fp32, exact for every float format (R34). -/
def expand (ty : Nat) (c : Word) : Word :=
  match ty with
  | 0 => c
  | 8 => toW (.fin (c.toNat % 256 ≥ 128) (if c.toNat % 256 ≥ 128 then 256 - c.toNat % 256 else c.toNat % 256) 0)
  | 9 => toW (.fin (c.toNat % 16 ≥ 8) (if c.toNat % 16 ≥ 8 then 16 - c.toNat % 16 else c.toNat % 16) 0)
  | t => match fmtOf t with
    | some f => toW (decode f c.toNat)
    | none => qnan

/-- Conversion of an fp32 value to an element type, nearest ties to even, an overflow becoming infinite so
that R36 can see it (R35). -/
def narrow (ty : Nat) (w : Word) : Word :=
  match ty with
  | 0 => w
  | t => match fmtOf t with
    | some f => BitVec.ofNat 32 (roundTo f .toInf (val w))
    | none => 0#32

/-- Whether an fp32 value rounds above the element type's largest finite value (R36). -/
def narrowOverflows (ty : Nat) (w : Word) : Bool :=
  match fmtOf ty with
  | some f => overflows f (val w)
  | none => false

/-- Bytes of one element of an element type (Table CV-2). -/
def elemBytes : Nat → Nat
  | 0 => 4 | 1 => 2 | 2 => 2 | _ => 1

end Sys2Proof.Machine.Fp
end

