-- ==== Sys2Proof/Machine/CruOps.lean ====
section
/-! DEFINITION. The crusher's arithmetic (chapter 09): conversion of one value, packing, block scales, and the
fields of scale-set entries and scale records. -/

namespace Sys2Proof.Machine
open Fp

/-- Bits of a code (Table CR-1). -/
def fmtBits : Nat → Nat
  | 0 => 32 | 1 => 16 | 2 => 16 | 3 => 8 | 4 => 8 | 5 => 6 | 6 => 6 | 7 => 4 | 8 => 8 | 9 => 4 | _ => 32

def isScaled (f : Nat) : Bool := 3 ≤ f && f ≤ 9
def isInt (f : Nat) : Bool := f = 8 || f = 9

/-- e_max of a float format. -/
def eMax : Nat → Int
  | 3 => 8 | 4 => 15 | 5 => 4 | 6 => 2 | 7 => 2 | 2 => 15 | _ => 127

/-- Codes packed little-endian, element 0 lowest (R297). -/
def packCodes (f : Nat) (cs : List Nat) : List Byte :=
  let w := fmtBits f
  toBytes (cs.foldr (fun c a => c % 2 ^ w + a * 2 ^ w) 0) (ceilDiv (w * cs.length) 8)

/-- Code `i` of packed bytes. -/
def unpackCode (f : Nat) (bs : List Byte) (i : Nat) : Nat :=
  let w := fmtBits f
  let lo := w * i / 8
  let n := ceilDiv (w * i % 8 + w) 8
  ofBytes ((bs.drop lo).take n) / 2 ^ (w * i % 8) % 2 ^ w

/-- How an element counts in the statistics (Table CR-4). -/
inductive Mark where
  | plain | saturated | flushed | special
  deriving DecidableEq, Repr

/-- The scale of an element: none, an E8M0 exponent, or a real scale with a zero point. -/
inductive Scale where
  | one
  | e8m0 (x : Int)
  | real (s : Word) (z : Int)
  deriving DecidableEq, Repr

/-- y divided by its scale, exactly as R304 forms it. -/
def unscale (y : Word) : Scale → FVal
  | .one => val y
  | .e8m0 x => match val y with
    | .fin n m e => .fin n m (e - x)
    | v => v
  | .real s _ => mul (val y) (val (fdiv 0x3F800000#32 s))

/-- Nearest integer, ties away from zero (Table CR-3). -/
def roundAway : FVal → Int
  | .fin n m e =>
    let q : Nat := if 0 ≤ e then m * 2 ^ e.toNat else (2 * m + 2 ^ (-e).toNat) / 2 ^ ((-e).toNat + 1)
    if n then -(q : Int) else q
  | _ => 0

/-- A NaN carried to a 16-bit or 32-bit format with the payload that fits (Table CR-4). -/
def nanCode (f : Nat) (y : Word) : Nat :=
  let sgn := y.toNat / 2 ^ 31
  let pl := y.toNat % 2 ^ 23
  match f with
  | 0 => y.toNat ||| 0x400000
  | 1 => sgn * 2 ^ 15 + 0x7F80 + (pl / 2 ^ 16 ||| 0x40)
  | _ => sgn * 2 ^ 15 + 0x7C00 + (pl / 2 ^ 13 ||| 0x200)

/-- The code range of an integer format. -/
def intMax (f : Nat) : Int := if f = 8 then 127 else 7
def clampI (lo hi x : Int) : Int := max lo (min hi x)
def intCode (f : Nat) (q : Int) : Nat := (q % (2 ^ fmtBits f : Nat)).toNat

def zeroPt : Scale → Int
  | .real _ z => z
  | _ => 0

/-- Conversion of an fp32 value to a code, with its mark (R304 to R306). A finite value that 1/s carries past every finite fp32
value is saturated; zero stays zero. -/
def convert (f : Nat) (y : Word) (s : Scale) : Nat × Mark :=
  let v := unscale y s
  let z := zeroPt s
  let m := intMax f
  if isInt f then
    match val y with
    | .nan => (intCode f z, .special)
    | .inf n => (intCode f (if n then -m - 1 else m), .special)
    | .fin _ n _ =>
      match v with
      | .inf b => (intCode f (if b then -m - 1 else m), .saturated)
      | _ =>
        let r := roundAway v
        let q := clampI (-m - 1) m (r + z)
        (intCode f q, if q != r + z then .saturated else if n != 0 && r = 0 then .flushed else .plain)
  else match fmtOf f with
    | none => (0, .plain)
    | some t =>
      match val y with
      | .nan => (if f ≤ 2 then nanCode f y else if f ≤ 4 then 0x7F else 0, .special)
      | .inf n => (roundTo t .saturate (.inf n), .special)
      | .fin neg n _ =>
        match v with
        | .inf b => ((if b then 2 ^ t.sign else 0) + t.maxMag, .saturated)
        | .nan => if n = 0 then (if neg then 2 ^ t.sign else 0, .plain) else (roundTo t .saturate v, .plain)
        | .fin _ _ _ =>
          let c := roundTo t .saturate v
          (c, if overflows t v then .saturated else if n != 0 && c % 2 ^ t.sign = 0 then .flushed else .plain)

/-- The fp32 value of a code, its scale and zero point applied (R305, R310). -/
def codeVal (f c : Nat) (s : Scale) : Word :=
  let raw : FVal := if isInt f then
      let q := sext c (fmtBits f) - zeroPt s
      .fin (q < 0) q.natAbs 0
    else match fmtOf f with
      | some t => decode t c
      | none => .nan
  match s with
  | .one => toW raw
  | .e8m0 x => match raw with
    | .fin n m e => toW (.fin n m (e + x))
    | v => toW v
  | .real w _ => toW (mul raw (val w))

/-- The exact value of a code before any scale (R268). -/
def rawVal (f c : Nat) : FVal :=
  if isInt f then
    let q := sext c (fmtBits f)
    .fin (q < 0) q.natAbs 0
  else match fmtOf f with
    | some t => decode t c
    | none => .nan

/-- The largest magnitude among finite values, +0 when there is none (R303, R388). -/
def amaxOf (l : List Word) : Word :=
  l.foldl (fun a w => if isFinite w && flt a (fabs w) then fabs w else a) 0#32

/-- floor(log2 w) of a positive finite value. -/
def floorLog2 (w : Word) : Int :=
  match val w with
  | .fin _ m e => (Nat.log2 m : Int) + e
  | _ => 0

/-- An fp16 number rounded towards +inf. -/
def f16Up (v : FVal) : Nat :=
  let c := roundTo f16 .toInf v
  match add (decode f16 c) (neg v) with
  | .fin true m _ => if m = 0 then c else c + 1
  | _ => c

/-- The scale the amax rule gives a block (R303). -/
def amaxScale (f : Nat) (l : List Word) : Scale :=
  let a := amaxOf l
  if isInt f then
    if isZero a then .real 0x3F800000#32 0
    else .real (toW (decode f16 (f16Up (div (val a) (.fin false (intMax f).toNat 0))))) 0
  else if isZero a then .e8m0 (-127)
  else .e8m0 (clampI (-127) 127 (floorLog2 a - eMax f + 1))

/-- The scale an entry calibrates for every element (Table CR-5). -/
def entryScale (e : ScaleEntry) : Scale :=
  if isInt e.fmt then
    let w := if e.block then toW (decode f16 (roundTo f16 .toInf (val e.scale))) else e.scale
    .real w (if e.zpEn then e.zp else 0)
  else if e.block || 5 ≤ e.fmt then .e8m0 ((e.scale.toNat % 256 : Nat) - 127)
  else .real e.scale 0

/-- Whether an entry breaks a stated range (R308, R302). -/
def entryBad (e : ScaleEntry) : Bool :=
  !e.resv || !isScaled e.fmt || (e.dyn && !e.block) || (e.zpEn && !isInt e.fmt) ||
  !(1 ≤ e.adaptP && e.adaptP ≤ 4) || e.statsPtr % 32 != 0 || 0xFE < e.expMax ||
  (!isInt e.fmt && (e.block || 5 ≤ e.fmt) && (256 ≤ e.scale.toNat || e.scale.toNat % 256 = 0xFF)) ||
  (5 ≤ e.fmt && e.fmt ≤ 7 && !e.block)

/-- The 32 bytes of a scale-set entry (Table CR-5). -/
def entryBytes (e : ScaleEntry) : List Byte :=
  toBytes (e.fmt + bN e.block * 16 + bN e.dyn * 32 + bN e.zpEn * 64) 1 ++
  toBytes (bN e.adaptEn + bN e.learned * 2 + e.adaptP * 4) 1 ++ toBytes e.satThr 2 ++ toBytes e.scale.toNat 4 ++
  toBytes e.mseThr.toNat 4 ++ toBytes (e.zp % 256).toNat 1 ++ toBytes e.expMin 1 ++ toBytes e.expMax 1 ++ toBytes 0 1 ++
  toBytes e.statsPtr 8 ++ toBytes 0 8

/-- The bytes of a scale record that hold the scale of block `b` (Table CR-2): offset and contents. -/
def scaleField (block : Bool) (b : Nat) : Scale → List (Nat × List Byte)
  | .one => []
  | .e8m0 x => [(4 + (if block then b else 0), toBytes (x + 127).toNat 1)]
  | .real w z =>
    if block then [(4 + 2 * b, toBytes (roundTo f16 .toInf (val w)) 2), (20 + b, toBytes (z % 256).toNat 1)]
    else [(4, toBytes w.toNat 4), (20, toBytes (z % 256).toNat 1)]

/-- A 64-by-64 tile needs a redo (R314), or a tensor-scale tile is over a threshold (R316). -/
def guardHit (marks : List Mark) : Bool :=
  decide (16 < (marks.filter (· = .saturated)).length) || decide (256 < (marks.filter (· = .flushed)).length)

end Sys2Proof.Machine
end

