-- ==== Sys2Proof/Machine/Flags.lean ====
section
/-! DEFINITION. The flags of a tile (R274, Table IS-7, Table FA-9). -/

namespace Sys2Proof.Machine

/-- [2] scale_redo, [1] input_special, [0] acc_sat. -/
def flagWord (redo special sat : Bool) : Nat := bN redo * 4 + bN special * 2 + bN sat

end Sys2Proof.Machine
end

