-- ==== Sys2Proof/Machine/Operands.lean ====
section
/-! DEFINITION. The instruction formats of faces and drills (Table IS-1): the word an instruction spells, its
fields, and which words are reserved (R383). -/

namespace Sys2Proof.Machine

/-- The formats of Table IS-1, with the major opcode. -/
def encR (op : Nat) (rd rs1 rs2 : BitVec 5) (f : BitVec 11) : Word :=
  BitVec.ofNat 32 (op * 2 ^ 26 + rd.toNat * 2 ^ 21 + rs1.toNat * 2 ^ 16 + rs2.toNat * 2 ^ 11 + f.toNat)
def encI (op : Nat) (rd rs1 : BitVec 5) (imm : BitVec 16) : Word :=
  BitVec.ofNat 32 (op * 2 ^ 26 + rd.toNat * 2 ^ 21 + rs1.toNat * 2 ^ 16 + imm.toNat)
def encV (op : Nat) (vd vs1 vs2 : BitVec 5) (k : BitVec 3) (f : BitVec 8) : Word :=
  BitVec.ofNat 32 (op * 2 ^ 26 + vd.toNat * 2 ^ 21 + vs1.toNat * 2 ^ 16 + vs2.toNat * 2 ^ 11 + k.toNat * 2 ^ 8 + f.toNat)
/-- The J, T, Q and M formats, whose operands the commands carry as one field. -/
def encJ (op : Nat) (w : BitVec 26) : Word := BitVec.ofNat 32 (op * 2 ^ 26 + w.toNat)

/-- Bits `[hi : lo]` of a word. -/
def fieldOf (w : Word) (hi lo : Nat) : Nat := bits w.toNat lo (hi - lo + 1)
def opOf (w : Word) : Nat := fieldOf w 31 26

/-- A sign-extended immediate. -/
def simm (w : BitVec 16) : Int := sext w.toNat 16

/-- Fields of the operand bits of the T format. -/
def tA (w : BitVec 26) : Nat := bits w.toNat 22 4
def tB (w : BitVec 26) : Nat := bits w.toNat 18 4
def tSet (w : BitVec 26) : Nat := bits w.toNat 17 1
def tZero (w : BitVec 26) : Bool := bitAt w.toNat 16
def tP (w : BitVec 26) : Nat := bits w.toNat 11 5
def tQ (w : BitVec 26) : Nat := bits w.toNat 6 5

/-- Fields of the operand bits of the Q format. -/
def qD (w : BitVec 26) : Nat := bits w.toNat 22 4
def qS1 (w : BitVec 26) : Nat := bits w.toNat 18 4
def qS2 (w : BitVec 26) : Nat := bits w.toNat 14 4
def qPred (w : BitVec 26) : Nat := bits w.toNat 12 2
def qFunct (w : BitVec 26) : Nat := bits w.toNat 0 12

/-- Fields of the operand bits of the M format. -/
def mQ (w : BitVec 26) : Nat := bits w.toNat 22 4
def mBk (w : BitVec 26) : Nat := bits w.toNat 19 3
def mRs (w : BitVec 26) : Nat := bits w.toNat 14 5
def mImm (w : BitVec 26) : Int := sext w.toNat 14

/-- Reserved scalar words, which the two cores share (Table IS-3). `SYS` differs and is judged by its core. -/
def badScalar (w : Word) : Bool :=
  match opOf w with
  | 0x00 => 0x00B < fieldOf w 10 0
  | 0x05 => fieldOf w 20 16 != 0
  | 0x06 => fieldOf w 15 8 != 0 || fieldOf w 7 6 = 3
  | _ => false

/-- Words a face cannot execute (R383, Tables IS-3 to IS-5). -/
def badFace (w : Word) : Bool :=
  let imm := fieldOf w 15 0
  let f := fieldOf w 7 0
  match opOf w with
  | 0x00 | 0x01 | 0x02 | 0x03 | 0x04 | 0x05 | 0x06 => badScalar w
  | 0x08 | 0x09 | 0x0A | 0x0B | 0x10 | 0x11 | 0x12 | 0x13 | 0x14 | 0x15 | 0x18 | 0x19 => false
  | 0x1C => !(imm < 3 || (0x100 ≤ imm && imm ≤ 0x106))
  | 0x20 => !(f ≤ 0x06 || (0x10 ≤ f && f ≤ 0x13))
  | 0x21 => 0x07 < f
  | 0x22 => 0x02 < f || fieldOf w 25 24 != 0
  | 0x23 => 0x03 < f
  | 0x24 => fieldOf w 7 5 != 0
  | 0x25 => 0x02 < f
  | 0x28 | 0x29 => false
  | 0x30 | 0x31 | 0x32 | 0x33 | 0x34 | 0x35 | 0x36 => fieldOf w 5 0 != 0
  | 0x38 => fieldOf w 10 0 != 0
  | 0x39 => fieldOf w 25 0 != 0
  | _ => true

/-- Words a drill cannot execute (R383, Table IS-9). -/
def badDrill (w : Word) : Bool :=
  let imm := fieldOf w 15 0
  let f := fieldOf w 11 0
  match opOf w with
  | 0x00 | 0x01 | 0x02 | 0x03 | 0x04 | 0x05 | 0x06 => badScalar w
  | 0x08 | 0x09 | 0x0A | 0x0B | 0x0C | 0x0D | 0x10 | 0x11 | 0x12 | 0x13 | 0x14 | 0x15 | 0x18 | 0x19 => false
  | 0x1C => !(imm = 0 || (0x10 ≤ imm && imm ≤ 0x17) || (0x100 ≤ imm && imm ≤ 0x106))
  | 0x20 => !(f ≤ 0x005 || f = 0x010 || f = 0x012)
  | 0x21 => f != 0
  | 0x22 => 0x002 < f || fieldOf w 25 24 != 0
  | 0x23 => 0x001 < f % 2048
  | 0x24 => 0x009 < f
  | 0x25 => 0x001 < f % 2048
  | 0x28 | 0x29 | 0x2A => false
  | 0x2B | 0x2C => fieldOf w 21 19 != 0
  | 0x2D => f != 0
  | 0x2E => fieldOf w 10 0 != 0
  | _ => true

end Sys2Proof.Machine
end

