-- ==== Sys2Proof/Machine/RegTable.lean ====
section
/-! DEFINITION. The register window: page addresses (R462, R614, R615) and the rows of Tables RI-2 to RI-14 with
their access codes, reset values, writable bits and field ranges. -/

namespace Sys2Proof.Machine

/-- First block number of Table RP-1. -/
def blkNum : Blk → Nat
  | .chu => 0x00 | .ctl => 0x01 | .tck => 0x02 | .ldg => 0x03 | .fac => 0x04 | .cru => 0x06 | .wlk => 0x08
  | .siv => 0x09 | .rdl => 0x0A | .gth => 0x0B | .drl => 0x0C | .hbm => 0x0D | .hau => 0x0E | .flc => 0x0F
  | .dft => 0x11 | .vlk => 0x13 | .fab => 0x14 | .sem => 0x15 | .pwr => 0x16 | .saf => 0x17 | .sec => 0x18
  | .mgt => 0x19

def allBlks : List Blk :=
  [.chu, .ctl, .tck, .ldg, .fac, .cru, .wlk, .siv, .rdl, .gth, .drl, .hbm, .hau, .flc, .dft, .vlk, .fab, .sem,
   .pwr, .saf, .sec, .mgt]

/-- The kinds of die of Table OV-2. -/
def isQuarry (d : Nat) : Bool := d < 4
def isHub (d : Nat) : Bool := d = 4
def isBase (d : Nat) : Bool := 8 ≤ d && d < 16

/-- How many pages of a block stand on a die (Table RP-1). -/
def blkCount (b : Blk) (d : Nat) : Nat :=
  match b with
  | .fac | .cru => if isQuarry d then 32 else 0
  | .wlk => if isQuarry d then 16 else 0
  | .siv => if isQuarry d then 16 else if isHub d then 1 else 0
  | .rdl => if isQuarry d then 8 else 0
  | .gth => if isQuarry d then 1 else 0
  | .hbm => if isQuarry d then 2 else 0
  | .drl => if isBase d then 1 else 0
  | .flc | .dft => if isHub d then 32 else 0
  | .fab => if isHub d then 13 else 0
  | .sem => if isQuarry d then 3 else if isHub d then 4 else 0
  | _ => if isHub d then 1 else 0

def pageOk (p : Page) : Bool := p.inst < blkCount p.blk p.die

/-- The 28-bit offset at which a page begins (R462). -/
def pageBase (p : Page) : Nat := p.die * 2 ^ 24 + blkNum p.blk * 2 ^ 16 + p.inst * 2 ^ 12

/-- The page and the register offset that a window offset names, if a page is there (R614, R615). -/
def pageAt (off : Nat) : Option (Page × Nat) :=
  let d := bits off 24 4
  let n := bits off 16 8
  let i := bits off 12 4
  match allBlks.find? fun b => blkNum b = n || ((b = .fac || b = .cru || b = .flc || b = .dft) && blkNum b + 1 = n) with
  | none => none
  | some b =>
    let p : Page := ⟨d, b, if blkNum b = n then i else i + 16⟩
    if pageOk p then some (p, off % 4096) else none

/-- The access codes of Table SC-3. -/
inductive Acc where
  | ro | rw | wo | w1c | w1s | rc | rwl
  deriving DecidableEq, Repr

/-- A row of a register table: `n` registers from `off` with one access code and reset value; `mask` holds the
bits a write may set. -/
structure RegRow where
  off   : Nat
  n     : Nat
  acc   : Acc
  reset : Nat
  mask  : Nat
  deriving DecidableEq, Repr

def ro (off : Nat) (n : Nat := 1) (reset : Nat := 0) : RegRow := ⟨off, n, .ro, reset, 0⟩
def rc (off : Nat) (n : Nat := 1) : RegRow := ⟨off, n, .rc, 0, 0⟩
def wo (off : Nat) : RegRow := ⟨off, 1, .wo, 0, 0⟩
def rw (off mask : Nat) (reset : Nat := 0) (n : Nat := 1) : RegRow := ⟨off, n, .rw, reset, mask⟩
def rwl (off mask reset : Nat) : RegRow := ⟨off, 1, .rwl, reset, mask⟩
def w1c (off mask : Nat) (n : Nat := 1) : RegRow := ⟨off, n, .w1c, 0, mask⟩

/-- The common header (Table RP-2); BLK_ID and BLK_CAP are computed, BLK_VER is fixed. -/
def headerRows : List RegRow :=
  [ro 0x000, ro 0x004 1 0x0100B000, ro 0x008, rw 0x00C 0, ro 0x010, w1c 0x014 0x7F, rw 0x018 0x7F 0x57,
   rw 0x01C 0x80000FFF, rc 0x020, ro 0x024 4]

/-- The block-specific rows of a page (Tables RI-2 to RI-14). -/
def blockRows (p : Page) : List RegRow :=
  match p.blk with
  | .chu => [wo 0x40, wo 0x44, wo 0x48, ro 0x4C, rw 0x50 0xFFFFFFFF 0 4, rw 0x60 0xC0001F1F 0x404,
      rw 0x64 0x8FFFFFFF 0x100, rwl 0x68 0xFFFFFF 0x10408, rwl 0x6C 0xFFFF 0x50A, rc 0x70 3, ro 0x7C, ro 0x80]
  | .ctl => [ro 0x40, rw 0x44 0x1F0F, ro 0x48, ro 0x4C, rw 0x100 0xFF1F1FFF 0x98120F32,
      rw 0x104 0xFFFFFFFF 0x1000, ro 0x108, rc 0x10C 5, ro 0x120, ro 0x140, rw 0x144 0x3FF 0x40, ro 0x148,
      rc 0x14C 2]
  | .tck => [ro 0x40 2, ro 0x48 1 1, wo 0x4C, ro 0x50 3]
  | .ldg => [ro 0x40 4, rc 0x50 4, ro 0x60 3, wo 0x6C]
  | .fac => [rw 0x40 0x7 1, ro 0x44 1 0x640000, w1c 0x48 0x7, rc 0x4C 6, ro 0x64 3]
  | .cru => [rw 0x40 0xF 0xB, ro 0x44, rc 0x48 8]
  | .wlk => [rw 0x40 0xFF10 0x1410, ro 0x44 1 0x8040, rc 0x48 8]
  | .siv => if isHub p.die then [rw 0x40 0x1FFFF 0x107D0, rc 0x44 3] else [rc 0x40 2]
  | .rdl => [rc 0x40 5]
  | .gth => [rw 0x40 0x7FFFFFFF 0x102000, ro 0x44, rc 0x48 8]
  | .hbm => [rw 0x40 0xFFFF07 0x180807, ro 0x44 3, ro 0x50 1 0x129F00, ro 0x54, rw 0x58 0x1F, ro 0x5C 1 0xC000,
      rc 0x60 5]
  | .drl => [ro 0x40 12 0xFFFFFFFF, w1c 0x70 0xFFFFFFFF 12, rw 0xA0 0x1F0003 0x140003, ro 0xA4, rwl 0xA8 0x7 0,
      wo 0xAC, ro 0xB0, rc 0xB4 7, ro 0xD0 12, rw 0x100 0x1FF 0 8]
  | .hau => [rw 0x40 0xFFFF01 0x51401, ro 0x44 4, rwl 0x54 0xFFFFFFFF 0x1000000, ro 0x58, wo 0x5C, rc 0x60 2,
      ro 0x68 2, rc 0x70]
  | .flc => [ro 0x40 3, rc 0x4C 4]
  | .dft => [rc 0x40 2, ro 0x48]
  | .vlk => [rw 0x40 0xF1 0x41, ro 0x44, rc 0x48 4, ro 0x58, rc 0x5C 3]
  | .fab => if p.inst = 12 then
      [ro 0x40 1 0xFFF, ro 0x44, ro 0x48 1 0xFFF, rwl 0x4C 0xFF03FFFF 0x64002028, ro 0x50 4, rw 0x60 0x80000FFF,
       ro 0x64, rw 0x68 0, wo 0x6C, rc 0x70 6, rw 0x800 0xFFFFFFFF 0 68, ro 0xA00 68]
    else [rw 0x40 0x1 1, ro 0x44 2, rc 0x4C 4]
  | .sem => [ro 0x40, rc 0x44 3]
  | .pwr => [rwl 0x40 0xFFFFFFFF 0x5DC1E0F, rwl 0x44 0xFF 0x5F, ro 0x48 1 0x640000, ro 0x4C 3, ro 0x58 1 0x1770,
      ro 0x5C, rw 0x60 0x3F, ro 0x64, ro 0x68 12, rc 0x98 3]
  | .saf => [rwl 0x40 0x3FF0F 0x30F03, ro 0x44 1 0x4000000, ro 0x48 5, rc 0x5C 8]
  | .sec => [ro 0x40, ⟨0x44, 1, .w1s, 0, 1⟩, rc 0x48, ro 0x4C 2, rw 0x54 0x1FF, ro 0x58, rw 0x5C 0x7FF, ro 0x60 8,
      rw 0x200 0xFFFFFFFF 0 128, rw 0x400 0xFFFFFFFF 0 256]
  | .mgt => [ro 0x40, rwl 0x44 0xFF01 0x301, ro 0x48, w1c 0x4C 0x1F, rw 0x50 0x1F 0x1F, rw 0x54 0xF00000F, ro 0x58,
      rw 0x5C 0xFFF, ro 0x60 4, ro 0x70]

/-- One past the highest block-specific offset (Table RI-1). -/
def blkExtent (p : Page) : Nat :=
  match p.blk with
  | .chu => 0x84 | .ctl => 0x154 | .tck => 0x5C | .ldg => 0x70 | .fac => 0x70 | .cru => 0x68 | .wlk => 0x68
  | .siv => if isHub p.die then 0x50 else 0x48
  | .rdl => 0x54 | .gth => 0x68 | .drl => 0x1000 | .hbm => 0x74 | .hau => 0x74 | .flc => 0x5C | .dft => 0x4C
  | .vlk => 0x68 | .fab => if p.inst = 12 then 0x1000 else 0x5C
  | .sem => 0x50 | .pwr => 0xA4 | .saf => 0x7C | .sec => 0x1000 | .mgt => 0x74

/-- BLK_ID and BLK_CAP (R632). -/
def blkId (p : Page) : Nat := 0x57000000 + p.die * 2 ^ 20 + blkNum p.blk * 2 ^ 8 + p.inst
def blkCap (p : Page) : Nat := blkCount p.blk p.die * 2 ^ 24 + blkExtent p

/-- The row that holds a register offset. -/
def rowAt (p : Page) (r : Nat) : Option RegRow :=
  (headerRows ++ blockRows p).find? fun w => decide (w.off ≤ r ∧ r < w.off + 4 * w.n)

/-- The reset value of the register at a window offset, 0 where there is none (R6, R617, R631). -/
def resetAt (off : Nat) : Nat :=
  match pageAt off with
  | none => 0
  | some (p, r) =>
    if r = 0 then blkId p else if r = 8 then blkCap p
    else match rowAt p r with
      | some w => w.reset
      | none => 0

/-- Whether every field of a written value lies in its stated range (R10), for the registers whose fields do not
admit every code. -/
def fieldsOk (p : Page) (r v : Nat) : Bool :=
  let inR (x lo hi : Nat) : Bool := lo ≤ x && x ≤ hi
  match p.blk, r with
  | .chu, 0x64 => inR (bits v 8 8) 1 255
  | .chu, 0x68 => inR (bits v 16 8) 1 255 && inR (bits v 8 8) 1 255 && inR (bits v 0 8) 1 255
  | .chu, 0x6C => bits v 8 8 ≤ 20 && bits v 0 8 ≤ 50
  | .ctl, 0x44 => bits v 8 5 ≤ 0x19
  | .ctl, 0x100 => inR (bits v 24 7) 8 31 && inR (bits v 16 5) 12 22 && inR (bits v 8 5) 10 26 && inR (bits v 0 8) 10 95
  | .ctl, 0x104 => inR v 1 65536
  | .ctl, 0x144 => inR (bits v 0 10) 1 512
  | .wlk, 0x40 => inR (bits v 8 8) 4 255
  | .gth, 0x40 => bits v 0 16 ≤ 4096
  | .hbm, 0x40 => inR (bits v 16 8) 1 168 && inR (bits v 8 8) 2 64
  | .drl, 0xA0 => inR (bits v 16 5) 10 26
  | .drl, 0xA8 => bits v 0 3 ≤ 4
  | .drl, r => !(inR r 0x100 0x11C) || bits v 0 9 ≤ 383
  | .hau, 0x40 => inR (bits v 16 8) 1 50 && inR (bits v 8 8) 1 100
  | .vlk, 0x40 => inR (bits v 4 4) 1 15
  | .fab, 0x4C => p.inst != 12 || (inR (bits v 24 8) 10 255 && inR (bits v 8 8) 4 255 && inR (bits v 0 8) 8 255)
  | .pwr, 0x40 => inR (bits v 16 16) 600 1500 && bits v 8 8 ≤ 90 && bits v 0 8 ≤ bits v 8 8
  | .pwr, 0x44 => inR (bits v 0 8) 80 100
  | .pwr, 0x60 => bits v 0 6 ≤ 47
  | .saf, 0x40 => inR (bits v 8 8) 5 40 && inR (bits v 0 4) 1 15
  | .sec, 0x54 => bits v 0 9 = 276 || bits v 0 9 = 372
  | .sec, 0x5C => bits v 0 11 ≤ 1024
  | .mgt, 0x44 => bits v 8 8 ≤ 10
  | .mgt, 0x54 => let mode := bits v 24 4
    (inR mode 1 5 || (mode = 0 && !bitAt v 31)) && (mode = 1 || bits v 0 4 = 0)
  | _, _ => true

/-- The bits of a register that SEC_LOCK locks (R634). -/
def lockMask (p : Page) (r : Nat) : Nat :=
  match p.blk, r with
  | .cru, 0x40 => 0x2
  | .hbm, 0x40 => 0xFF01
  | _, _ => match rowAt p r with
    | some w => if w.acc = .rwl then w.mask else 0
    | none => 0

/-- The pages of the hub's single blocks. -/
def chuP : Page := ⟨4, .chu, 0⟩
def ctlP : Page := ⟨4, .ctl, 0⟩
def tckP : Page := ⟨4, .tck, 0⟩
def ldgP : Page := ⟨4, .ldg, 0⟩
def sivP : Page := ⟨4, .siv, 0⟩
def hauP : Page := ⟨4, .hau, 0⟩
def vlkP : Page := ⟨4, .vlk, 0⟩
def fabP : Page := ⟨4, .fab, 12⟩
def pwrP : Page := ⟨4, .pwr, 0⟩
def safP : Page := ⟨4, .saf, 0⟩
def secP : Page := ⟨4, .sec, 0⟩
def mgtP : Page := ⟨4, .mgt, 0⟩
/-- The page of a stack's drills, and of its memory controller (R13, R424). -/
def drlP (stack : Nat) : Page := ⟨8 + stack, .drl, 0⟩
def hbmP (stack : Nat) : Page := ⟨stack / 2, .hbm, stack % 2⟩
/-- The page of face `n` (0 to 127) and of its crusher. -/
def facP (n : Nat) : Page := ⟨n / 32, .fac, n % 32⟩
def cruP (n : Nat) : Page := ⟨n / 32, .cru, n % 32⟩

/-- Every page of the module (540 of them). -/
def allPages : List Page :=
  (upto 16).flatMap fun d => allBlks.flatMap fun b => (upto (blkCount b d)).map fun i => ⟨d, b, i⟩

end Sys2Proof.Machine
end

