-- ==== Sys2Proof/Machine/Types.lean ====
section
/-! DEFINITION. The parts that the machine's state is made of, as plain data: records, units, chutes, commands,
searches, collections and the ledger. State.lean puts them together. -/

namespace Sys2Proof.Machine

/-- One error log record: its log word (Table RP-8) and its tick stamp (R627). -/
structure ErrRec where
  word : BitVec 64
  tick : Nat
  deriving DecidableEq, Repr

/-- The error log of one page (R628): the live record, whether it was latched, BLK_STAT.log_lost, and the record that
each reader has latched (R633). -/
structure ErrPage where
  page  : Page
  live  : ErrRec
  seen  : Bool
  lost  : Bool
  latch : List (Reader × ErrRec)
  deriving DecidableEq, Repr

/-- The register window: stored register values by 28-bit offset, the latched `_HI` halves by reader and offset (R633), the error
logs, the pages whose event output was asserted when last sampled, the Evt vectors sent in this tick (R623),
what the hardware has added to counters and set in W1C registers in this tick (R8, R9), and how much of what it added was lost
to saturation. -/
structure Regs where
  vals  : List (Nat × Word)
  hi    : List ((Reader × Nat) × Word)
  errs  : List ErrPage
  level : List Page
  sent  : List Nat
  ups   : List (Nat × Nat)
  sets  : List (Nat × Word)
  lost  : List (Nat × Nat)
  deriving DecidableEq, Repr

/-- A unit whose service state differs from the default (Table RP-5): state code, the ticks of its block
restarts, ramp windows passed, a software request waiting for it to be idle, the tick its restart or test
began, and, in a ramp window, the work it has received and the work that the other units of its pool have (R574). -/
structure UnitRec where
  id       : UnitId
  st       : Nat
  restarts : List Nat
  win      : Nat
  wantOut  : Bool
  since    : Nat
  got      : Nat
  pool     : Nat
  deriving DecidableEq, Repr

/-- One chute pair (R60 to R68, R660, R94). `wait` lists valid slots not yet fetched with their doorbell ticks,
`written` and `released` count completion entries, `rel` lists unreleased completions with their lsn (R516), `doneAt` is the tick
of the last completion (R91). -/
structure ChuteRec where
  no       : Nat
  draining : Bool
  sqBase   : DWord
  cqBase   : DWord
  geom     : Word
  evt      : Word
  tail     : Nat
  valid    : List Nat
  wait     : List (Nat × Nat)
  written  : Nat
  released : Nat
  counted  : Nat
  first    : Option Nat
  rel      : List (Nat × Nat)
  doneAt   : Option Nat
  deriving DecidableEq, Repr

/-- An instance that the tailings and the mirror name (R181, R233): an ordinal, a stockpile position, or for an
entry of a remote shard the source node. -/
inductive Inst where
  | ord (seg node : Nat)
  | stock (pos : Word)
  | remote (node : Nat)
  deriving DecidableEq, Repr

/-- An entry of a partial or held list (R181): score, key, flags of Table CV-6, full write generation, the
instance, the CRC the riddle appends (R568), and the place of its list among those that have arrived (R182). -/
structure REnt where
  key   : DWord
  score : Word
  flags : Byte
  gen   : Word
  src   : Inst
  crc   : Word
  seq   : Nat
  deriving DecidableEq, Repr

/-- A partial list that has reached a riddle, whether it arrived full (R185), and what made it: 0 a walk, a flat scan or a
drift engine, 1 a stockpile scan, 2 a remote shard. -/
structure PList where
  ents  : List REnt
  full  : Bool
  kind  : Nat
  deriving DecidableEq, Repr

/-- An entry of a walker's candidate queue or walk list (R140, R146). -/
structure QEnt where
  score : Word
  node  : Nat
  done  : Bool
  deriving DecidableEq, Repr

/-- A walk (R133 to R149). `st`: 0 waits for a context, 1 runs, 2 has ended. The context holds the distance
table with its scale, the candidate queue, the visited filter as its set bits, the visit count and the walk
list; `code` is its segment's code length; `pfset` holds the nodes prefetched and not yet expanded with their sectors, newest
first, and `waste` counts the sectors that the buffer dropped (R144); `stop` is 1 budget, 2 stop tick; `again` says
the walk was restarted (R155). -/
structure Walk where
  seg    : Nat
  die    : Nat
  inst   : Nat
  st     : Nat
  beam   : Nat
  budget : Nat
  llen   : Nat
  code   : Nat
  table  : List (List Nat)
  scale  : Int
  fbits  : Nat
  queue  : List QEnt
  filter : List Nat
  visits : Nat
  list   : List QEnt
  pf     : Bool
  pfset  : List (Nat × Nat)
  waste  : Nat
  stop   : Nat
  again  : Bool
  deriving DecidableEq, Repr

/-- One term of a filter block (Table SR-1). -/
structure Term where
  kind   : Nat
  group  : Nat
  invert : Bool
  opnd   : Nat
  deriving DecidableEq, Repr

/-- The work of an admitted SEARCH (R150 to R188). `scan`: 0 none, 1 running, 2 ended. `stage`: 0 merging, 1
candidates at the drift engines, 2 final merge, 3 ready to emit. `arrived` counts the lists and exact scores that have reached the
riddle (R182). -/
structure SearchW where
  query   : List Word
  filter  : List Term
  hasFil  : Bool
  flat    : Bool
  widen   : Bool
  bound   : Option Nat
  k       : Nat
  rr      : Nat
  beam    : Nat
  budget  : Nat
  pf      : Nat
  rdie    : Nat
  rinst   : Nat
  walks   : List Walk
  flats   : List Nat
  scan    : Nat
  scanned : List Word
  slist   : List REnt
  arrived : Nat
  inbox   : List PList
  held    : List REnt
  late    : List PList
  cand    : List (Nat × REnt)
  stage   : Nat
  anyFull : Bool
  nan     : Nat
  widened : Bool
  dlStop  : Bool
  waitFor : List Nat
  ends    : List (Nat × Nat × Nat)
  enable  : Nat
  signed  : Nat
  deriving DecidableEq, Repr

/-- The work of an admitted EMBED or EMBED_INSERT (R284 to R289): documents that entered a slot, documents done,
their vectors, the stockpile positions an EMBED_INSERT took, the documents counted in CTL_KV_WAITS, and the fields and the
default word of the schema pinned at admission (R31, R46). -/
structure EmbedW where
  waiting : List Nat
  active  : List Nat
  vecs    : List (Nat × List Word)
  pos     : List Word
  waited  : List Nat
  enable  : Nat
  dflt    : BitVec 128
  deriving DecidableEq, Repr

/-- What one tile adds to the row code sums of an integer tensor (R307): the tensor's base address and columns, the logical row,
the tile's first logical column, and the sum of its codes. -/
structure RowSum where
  base : Nat
  cols : Nat
  row  : Nat
  col  : Nat
  sum  : Int
  deriving DecidableEq, Repr

/-- The gradient of one scale granule (R313): scale-set entry, granule (0 for a tensor scale, else the block, counted in row
order), and G. -/
structure Grad where
  entry : Nat
  gran  : Nat
  g     : Word
  deriving DecidableEq, Repr

/-- The work of a RUN_FACE or RUN_DRILL: whether it has started, the units that still run, the exit codes by unit,
and for RUN_FACE the working copy of the scale set (R312), the row code sums of quantised tensors (R307), the gradients of
learned scales (R313), and the device address of the working copy. -/
structure RunW where
  started : Bool
  cores   : List Core
  exits   : List (Core × Nat)
  scales  : List ScaleEntry
  rsums   : List RowSum
  grads   : List Grad
  scaleAt : Nat
  deriving DecidableEq, Repr

/-- A tensor descriptor with its origin (Table IS-6, Table IS-2), the address it was loaded from, and the origins of the tiles
that the tensor write in progress has written (R317). -/
structure TDesc where
  addr   : Nat
  base   : Nat
  rows   : Nat
  cols   : Nat
  stride : Nat
  fmt    : Nat
  transp : Bool
  t0     : Nat
  entry  : Nat
  scales : Nat
  row    : Nat
  col    : Nat
  done   : List (Nat × Nat)
  deriving DecidableEq, Repr

/-- An accumulator set (R270 to R275): the fp32 totals by row-major element (none listed: +0), the flags of the
tile, whether it drains, the range of face addresses its drain writes, the tensor, its columns and the first row of the A
operand whose products it holds, whether a tile has started in it, FAC_CFG and CRU_CFG as that tile started (R295, R324), and
CRU_STAT.state while it drains. -/
structure AccSet where
  tile  : List Word
  flags : Nat
  drain : Bool
  lo    : Nat
  hi    : Nat
  aBase : Nat
  aCols : Nat
  aRow  : Nat
  begun : Bool
  cfg   : Nat
  cru   : Nat
  mode  : Nat
  deriving DecidableEq, Repr

/-- What one tile adds to a statistics record (Table CR-6): the record's address, the tile's fp32 sum of squared
errors, and its counts. -/
structure Stats where
  ptr     : Nat
  sse     : Word
  elems   : Nat
  sat     : Nat
  ftz     : Nat
  special : Nat
  redo    : Nat
  deriving DecidableEq, Repr

/-- A face (Tables FA-1, IS-2): registers, local store, accumulators and what it runs. `st` is FAC_STAT.state,
`wait` the STEP or BARRIER it waits at with its address, `xfers` the copies in flight (source, destination, bytes),
`tag` the crusher's tag counter, `ltag` and `fmt` the last tag and format it emitted, `last` the program last run;
`outb`, `pstats`, `rpend` and `gpend` hold what its work unit writes to the benches and adds to
statistics records, row sums and gradients until the unit commits (R311, R320); `doomed` says that a second tag mismatch ends its
command as the tick ends (R320, R321). -/
structure Face where
  id      : Nat
  st      : Nat
  cmd     : Option Nat
  rank    : Nat
  prog    : Nat
  codeLen : Nat
  pc      : Nat
  x       : List DWord
  v       : List (Nat × List Word)
  mask    : List (Nat × List Bool)
  td      : List (Nat × TDesc)
  store   : List Host.Cell
  used    : Nat
  acc     : List AccSet
  wait    : Option (Nat × Bool)
  xfers   : List (Nat × Nat × Nat)
  tag     : Nat
  fmt     : Nat
  last    : Nat
  skews   : Nat
  ltag    : Nat
  outb    : List (Nat × List Byte)
  pstats  : List Stats
  rpend   : List RowSum
  gpend   : List Grad
  doomed  : Bool
  deriving DecidableEq, Repr

/-- A drill (Tables DR-1, DR-2, DR-3, IS-8a). `area` is the command register area by word offset, the status word
apart; `held` the ordinary writes held for the region
in arrival order with their enabled bytes (R359); `prog` the loaded program (package, version, index); `started` the tick the run
began, `region` and `cfg` its region (base, length) and DRL_CFG as it began (R354, R380); `ended` says that the program has stopped
and the run's end is still to come; `skews` counts the tag mismatches of its work (R320). -/
structure Drill where
  stack   : Nat
  n       : Nat
  ready   : Bool
  fault   : Bool
  dbErr   : Bool
  st      : Nat
  exit    : Nat
  seq     : Nat
  area    : List (Nat × Word)
  cmd     : Option Nat
  prog    : Option (Nat × Nat × Nat)
  code    : List Word
  pc      : Nat
  r       : List Word
  q       : List (Nat × List Word)
  p       : List (Nat × List Bool)
  b       : List (Nat × Nat)
  scratch : List Host.Cell
  held    : List (Nat × List (Option Byte))
  started : Nat
  region  : Nat × Nat
  cfg     : Nat
  replays : Bool
  ended   : Bool
  skews   : Nat
  deriving DecidableEq, Repr

/-- A request of the atomic-add service (R365): one sector of a table row, or one of a K-split target: the stack
that serves it, the device address of its granule, the element type, the deltas in fp32, and the command. -/
structure SvcEnt where
  stack : Nat
  addr  : Nat
  ty    : Nat
  delta : List Word
  cmd   : Option Nat
  deriving DecidableEq, Repr

/-- A query row of a chunk: layer, query head, and row within the chunk (R285). -/
structure QRow where
  layer : Nat
  head  : Nat
  row   : Nat
  deriving DecidableEq, Repr

/-- A partial (m, l, o) of a query row, and the drill that returned it; none is the face's own, within the chunk (R285, R286). -/
structure AttnPart where
  q    : QRow
  from' : Option (Nat × Nat)
  m    : Word
  l    : Word
  o    : List Word
  deriving DecidableEq, Repr

/-- The running state (M, L, O) of a query row, with the partials folded into it (R286). -/
structure AttnState where
  q     : QRow
  taken : List (Option (Nat × Nat))
  m     : Word
  l     : Word
  o     : List Word
  deriving DecidableEq, Repr

/-- A sequence slot of the encoder (R284 to R289): the document it encodes, its package, tokens, the chunks done,
cache pages, partials that have arrived, oldest first, the running states of the chunk's query rows, the outputs of those whose
last partial is folded (R286), and the tag mismatches of its chunk in progress (R320). -/
structure Slot where
  no     : Nat
  cmd    : Nat
  doc    : Nat
  pkg    : Nat
  ver    : Nat
  tokens : Nat
  chunk  : Nat
  pages  : List Nat
  parts  : List AttnPart
  state  : List AttnState
  outs   : List (QRow × List Word)
  skews  : Nat
  deriving DecidableEq, Repr

/-- The adds of a TABLE_UPDATE: whether they were queued, how many are not done, and those applied at memory. -/
structure UpdW where
  queued : Bool
  left   : Nat
  done   : List SvcEnt
  deriving DecidableEq, Repr

/-- The work of a merge job (R239 to R246): upto, target, repair only, the step in progress (its bounds, its
target and the lsn of its begin record) and whether that target is a new segment, the generation last made current, the
tail complete as the job began, and CTL_REPAIR_MAX as the step began (R266). -/
structure MergeW where
  upto   : Option Word
  target : Nat
  repair : Bool
  step   : Option (Word × Word × Nat × Nat)
  fresh  : Bool
  pub    : Option Nat
  last   : Nat
  tailAt : Word
  rmax   : Nat
  deriving DecidableEq, Repr

/-- The work of a build (R249 to R254): phase of Table IX-3, vectors ingested and linked, the last checkpoint (its count,
its tick and its bench 2 pages, and those of the one before it), what the build reserved (bench 1 pages, the bench 2 vector base, the entry table's bench 0
pages), the schema pinned at admission (R31, R46), and the tag mismatches of its work unit in progress (R320). -/
structure BuildW where
  seg    : Nat
  die    : Nat
  m      : Nat
  degree : Nat
  beam   : Nat
  phase  : Nat
  count  : Nat
  ckpt   : Nat
  ckTick : Nat
  ckpts  : List Nat
  prev   : List Nat
  pages  : List Nat
  base   : Nat
  table  : List Nat
  enable : Nat
  signed : Nat
  dflt   : BitVec 128
  skews  : Nat
  deriving DecidableEq, Repr

/-- One submission entry the module has fetched and not yet completed, with its work record (R520). `origin` names the
node and tag of a request that came over the fabric (R497). -/
structure Cmd where
  id       : Nat
  chute    : Option Nat
  slot     : Nat
  entry    : BitVec 512
  pl       : Payload
  dbTick   : Nat
  verdict  : Option (Nat × Nat)
  cfgSeq   : Option Nat
  admitted : Bool
  seq      : Nat
  admTick  : Nat
  gen      : Nat
  pkgVer   : Option Nat
  stop     : Option Nat
  level    : Nat
  cost     : List Nat
  replayed : Bool
  units    : List UnitId
  lsn      : Option Nat
  count    : Nat
  info     : Nat
  failed   : Option (Nat × Nat)
  tags     : Nat
  docsDone : Nat
  search   : Option SearchW
  embed    : Option EmbedW
  run      : Option RunW
  merge    : Option MergeW
  build    : Option BuildW
  upd      : Option UpdW
  left     : List Nat
  origin   : Option (Nat × Nat)
  deriving DecidableEq, Repr

/-- A stockpile entry (R192, R230): `done` is the tick in which its insert completed, `used` is false for a
position that a failed batch left unused. -/
structure SEntry where
  pos  : Word
  key  : DWord
  vec  : List Word
  norm : Word
  attr : BitVec 128
  wgen : Word
  done : Option Nat
  used : Bool
  deriving DecidableEq, Repr

/-- A node of a segment: code, edges, attribute word, key-map record and full vector (R24, Table GW-3). -/
structure Node where
  key  : DWord
  norm : Word
  wgen : Word
  attr : BitVec 128
  code : List Nat
  adj  : List Nat
  vec  : List Word
  deriving DecidableEq, Repr

/-- The sieve histograms of a shard (Table SR-3): N and the counters of tags, range_a, range_b and value. -/
structure Hist where
  n     : Nat
  tags  : List (Nat × Nat)
  ra    : List (Nat × Nat)
  rb    : List (Nat × Nat)
  value : List (Nat × Nat)
  deriving DecidableEq, Repr

/-- A segment (R24, R134, R135, R139, R151, R239): home die, code bytes, degree, codebook (sub-space, centroid,
elements), nodes by local number, entry set, bench 2 vector base and the pages its address range spans, the page table of
its bench 1 pages, the bench 0 pages of its entry table, the sieve counts BUILD_SEGMENT recorded (R167), and whether it
is degraded. -/
structure Segment where
  no       : Nat
  die      : Nat
  m        : Nat
  degree   : Nat
  book     : List (List (List Word))
  nodes    : List Node
  entry    : List Nat
  base     : Nat
  span     : Nat
  pages    : List Nat
  table    : List Nat
  counts   : Hist
  degraded : Bool
  deriving DecidableEq, Repr

/-- A generation of a shard (R261): the segments it names, its watermark and epoch, the tick its hold ends (once
superseded), and whether RETIRE_GEN retired it. -/
structure Gen where
  no      : Nat
  segs    : List Segment
  mark    : Word
  epoch   : Nat
  hold    : Option Nat
  retired : Bool
  deriving DecidableEq, Repr

/-- A shard of a collection (R21 to R33, R45, R229 to R263). `made` is false between the admission of
COLLECTION_CREATE and its application; `tombs` and `tombStock` are the tailings map; `reborn` lists ordinals that a pending
merge step reuses and that a mutation has tombstoned again; `stockPgs` gives the bench 1 page of each page of stockpile slots;
`released` lists released ordinals with the epoch of their release; `pub` is the publish pending (R255), `mergeEnd` the tick in which a merge of the shard
last completed (R245, R508). -/
structure Coll where
  id        : Nat
  d         : Nat
  ty        : Nat
  dist      : Nat
  stockLog2 : Nat
  home      : Nat
  made      : Bool
  dropping  : Bool
  dropped   : Bool
  gens      : List Gen
  cur       : Nat
  lastVer   : Nat
  tail      : Word
  stock     : List SEntry
  tombs     : List (Nat × Nat)
  tombStock : List Word
  reborn    : List (Nat × Nat)
  stockPgs  : List (Nat × Nat)
  released  : List (Nat × Nat × Nat)
  epoch     : Nat
  enable    : Nat
  signed    : Nat
  dflt      : BitVec 128
  hist      : Hist
  recount   : Option Hist
  built     : List Segment
  shardMap  : List (BitVec 16)
  pub       : Option Nat
  cfgSeq    : Nat
  mergeEnd  : Option Nat
  deriving DecidableEq, Repr

/-- What a publish makes current (R256, R260): the new generation, the superseded instances, the hold, a new
shard map, whether a merge step published it, the stockpile entries it folded with their new ordinals, and the
ordinals it released and reused. -/
structure PubRec where
  gen    : Gen
  superseded : List Inst
  hold   : Nat
  map    : Option (List (BitVec 16))
  step   : Bool
  folded : List (Word × Nat × Nat)
  freed  : List (Nat × Nat)
  reused : List (Nat × Nat)
  deriving DecidableEq, Repr

/-- A change of a stack's fault record (R414); a pseudo-channel that returns keeps the frames that still fail (R420). -/
inductive FaultChange where
  | spare (pc bank row spare : Nat)
  | dead (pc bank spare : Nat)
  | retire (frame : Nat)
  | mapout (pc : Nat)
  | mapin (pc : Nat) (fails : List Nat)
  deriving DecidableEq, Repr

/-- The redo content of a ledger record (Table TL-4). A mutation's record names every instance it tombstoned (`old`) and holds
the attribute words of the vectors it removed (`gone`, R167). -/
inductive Redo where
  | insert (ents : List SEntry) (old : List Inst) (gone : List (BitVec 128))
  | delete (keys : List DWord) (old : List Inst) (gone : List (BitVec 128))
  | publish (p : PubRec)
  | mergeBegin (lo hi : Word) (target : Nat) (fresh : Bool)
  | buildCk (w : BuildW) (entry : BitVec 512) (pl : Payload)
  | built (seg : Segment)
  | update (pkg ver table : Nat) (idx : List DWord) (deltas : List (List Word))
  | create (entry : BitVec 512)
  | drop
  | schema (enable signed : Nat) (dflt : BitVec 128) (rebuild : Bool)
  | model (pkg ver : Nat) (p : Package)
  | retire (below : Nat)
  | fault (stack : Nat) (c : FaultChange)
  | image (coll lsn : Nat)
  | firmware (slot : Nat)
  deriving DecidableEq, Repr

/-- A ledger record (Table TL-3). `entered` counts its bytes in the ring; `group` is the number of its last
group once it has entered; `prog` is the tick in which it counted as programmed; `applied` says that a
versioning record has taken effect, `counted` that the recount its SCHEMA_SET began has ended (R168),
or that the job of its merge step has. -/
structure LRec where
  lsn     : Nat
  tick    : Nat
  coll    : Nat
  len     : Nat
  cmdId   : Nat
  chute   : Option Nat
  opcode  : Nat
  cmd     : Option Nat
  redo    : Redo
  entered : Nat
  group   : Option Nat
  prog    : Option Nat
  applied : Bool
  counted : Bool
  deriving DecidableEq, Repr

/-- A ledger group (R513): number, first lsn, record count, release mark, tick, bytes, the channel of its first
copy (the second lies 16 channels on), and whether both its copies are programmed. -/
structure Group where
  no    : Nat
  first : Nat
  count : Nat
  mark  : Nat
  tick  : Nat
  size  : Nat
  ch    : Nat
  sent  : Bool
  prog  : Bool
  deriving DecidableEq, Repr

/-- The image of a shard that an image mark covers (R446): the shard as its records up to an lsn leave it. -/
structure ShardImage where
  coll : Nat
  lsn  : Nat
  val  : Option Coll
  deriving DecidableEq, Repr

/-- The replay report (Tables TL-8 and TL-9): its bytes and the device address it was written to. -/
structure Report where
  addr  : Nat
  data  : List Byte
  deriving DecidableEq, Repr

/-- A data unit as the medium holds it (R439, R449): its number, which is its tweak (page × 16 + u, or 2^40 plus
a block sequence number), its ciphertext, and the check symbols of the
code over that. -/
structure FlashUnit where
  no    : Nat
  text  : DataUnit
  check : Nat
  deriving DecidableEq, Repr

/-- The ledger (R511 to R530). `next` is the next lsn, `ring` the bytes unprogrammed, `open'` the group being
filled, `records` every record given a number and not discarded, `images` the shard images, `zone` the data units of the groups'
copies in the ledger zone and `zoneSeq` the block sequence number of the next (R445, R449). -/
structure Ledger where
  next    : Nat
  records : List LRec
  groups  : List Group
  openG   : Option Group
  nextG   : Nat
  ch      : Nat
  images  : List ShardImage
  last    : Nat
  report  : Option Report
  stat    : Nat
  base    : Nat
  zone    : List FlashUnit
  zoneSeq : Nat
  deriving DecidableEq, Repr

/-- One version of a model package (R31, R131, R263): its contents, whether it is current, the first page
of each table, the table pages it holds, the version whose load placed them, and where its weights reside, by 64 KiB unit
(R290): in the store of a face (unit, face, store unit), or in a bench 1 page (unit, page). -/
structure PkgVer where
  id    : Nat
  ver   : Nat
  pkg   : Package
  cur   : Bool
  tbase : List Nat
  pages : List Nat
  root  : Nat
  wface : List (Nat × Nat × Nat)
  wpage : List (Nat × Nat)
  deriving DecidableEq, Repr

/-- The admission state (R74 to R87): backlog, rate and energy coefficient of the 16 pools, predicted cost
granted to INTERACTIVE, STANDARD and BULK in this window, the weights and reserve in force, BULK energy spent,
the admission counter, the tick until which a control core restart holds admission, and the chutes of the decisions made in
this tick (R74; 4,096 stands for a request of the fabric). -/
structure Adm where
  backlog : List Nat
  bulk    : List Nat
  rate    : List Nat
  coef    : List Nat
  granted : List Nat
  weights : Word
  reserve : Word
  bulkE   : Nat
  seq     : Nat
  held    : Nat
  policy  : Word
  margin  : Nat
  decs    : List Nat
  deriving DecidableEq, Repr

/-- A message from the module to the host (Table VL-4, M2H). -/
inductive Msg where
  | ack (tag status : Nat)
  | reply (tag status lease : Nat) (data : List Byte)
  | evt (vector : Nat)
  | hload (tag addr size : Nat)
  | hloadKeep (tag addr : Nat)
  | hstore (tag addr : Nat) (data : List Byte)
  | recall (addr keep : Nat)
  | hostInvAck (tag : Nat)
  deriving DecidableEq, Repr

/-- One end of a flit link: the Velom link or a fabric port (R455 to R458, R471). `replay` holds the sequence
numbers of traffic flits sent and not acknowledged, `rx` the next sequence number expected, `credit` the slots
left on each lane, `repeats` the replays in a row of the flit `resent`, `fails` the failed recoveries in a row,
`out` the tick in which the link left ACTIVE, `ackDue` the flits received since the last acknowledgement, `asked` the sequence
number that a retry request of this end names until its replay arrives. -/
structure LinkRec where
  st      : Nat
  width   : Nat
  lanes   : Nat
  tx      : Nat
  rx      : Nat
  replay  : List Nat
  repeats : Nat
  credit  : List Nat
  fails   : Nat
  out     : Option Nat
  since   : Nat
  ackDue  : Nat
  resent  : Nat
  asked   : Option Nat
  deriving DecidableEq, Repr

/-- A fabric port (R471 to R495): its link, the neighbour heard, the tick of its last HELLO, frames waiting for credit
with the tick they began to wait, whether the port counts as up, forwards, and has told the master of its return. -/
structure Port where
  no     : Nat
  link   : LinkRec
  nbNode : Nat
  nbOk   : Bool
  nbPort : Nat
  heard  : Option Nat
  queue  : List (Frame × Nat)
  up     : Bool
  fwd    : Bool
  told   : Bool
  deriving DecidableEq, Repr

/-- A transaction that waits for an answer over the fabric (R481, R495 to R500). `kind`: 0 remote search, 1 K-split
contribution of `face`, 2 a routing frame of this module's host, 3 a path-routed one; `sent` is the tick it was sent last, `tries`
the resends so far. -/
structure FabTx where
  tag   : Nat
  dst   : Nat
  kind  : Nat
  cmd   : Nat
  face  : Nat
  sent  : Nat
  tries : Nat
  frames : List Frame
  deriving DecidableEq, Repr

/-- A series record (R499): the collection, the home generation, the pass's last valid entry, the generation each
remote pinned. The list is newest first. -/
structure Series where
  coll    : Nat
  homeGen : Nat
  score   : Word
  key     : DWord
  gens    : List (Nat × Nat)
  deriving DecidableEq, Repr

/-- The fabric (R479 to R501): address, recorded master, epoch, an address, epoch and master to take in the next tick,
the routing tables, an epoch to commit, ports, frames received for the master, frames sent by port, UNREACH frames of
this module for itself, the tag counter, transactions, series records, the tick from which no port is ACTIVE, and by search the
generations its remotes pinned. -/
structure Fab where
  node     : Option Nat
  master   : Nat
  fabEpoch : Nat
  assignTo : Option (Nat × Nat × Nat)
  table    : List (Nat × Nat)
  shadow   : List (Nat × Nat)
  commit   : Option (Nat × List Nat)
  ports    : List Port
  inbox    : List Frame
  out      : List (Nat × Frame)
  self     : List Frame
  tag      : Nat
  txs      : List FabTx
  series   : List Series
  idle     : Option Nat
  pins     : List (Nat × Nat × Nat)
  deriving DecidableEq, Repr

/-- A lease on a 64-byte line (R463): the line address, 1 read or 2 write; the list is oldest first. -/
structure Lease where
  line : Nat
  kind : Nat
  deriving DecidableEq, Repr

/-- What waits for a Recall (Table VL-6): a unit's read or write, a region claim or a full directory, or the discard of what a
freed page's lease returns. -/
inductive Waiter where
  | read
  | write (addr : Nat) (data : List Byte)
  | claim
  | freed
  deriving DecidableEq, Repr

/-- A demand of the host that has arrived and not been applied (R460), with what the check of its granules finds; a Store's data
stands by byte, none where not enabled. -/
inductive Demand where
  | load (tag addr size : Nat) (e : Ecc)
  | lease (tag addr want : Nat) (e : Ecc)
  | store (tag addr : Nat) (data : List (Option Byte)) (e : Ecc)
  | regRd (tag off width : Nat)
  | regWr (tag off width : Nat) (v : Word)
  deriving DecidableEq, Repr

/-- A Recall in progress on a line (R464 to R466). -/
structure RecallRec where
  line    : Nat
  keep    : Nat
  since   : Nat
  waiters : List Waiter
  deriving DecidableEq, Repr

/-- The host side of the Velom link (R457 to R470): the outgoing messages in order, those held while the link is
not ACTIVE (R474), leases, recalls in progress and timed out, host lines cached, and the M2H demands that wait for
their HostAck or HostReply: tag, kind (0 HStore, 1 HLoad, 2 HLoadKeep) and address. `demands` holds the host's demands that wait, in the
order of their arrival (R359, R460, R464), `ctl` the VLK_CTL value in force (R476). -/
structure Velom where
  link    : LinkRec
  out     : List Msg
  held    : List Msg
  leases  : List Lease
  recalls : List RecallRec
  late    : List Nat
  lines   : List Nat
  waiting : List (Nat × Nat × Nat)
  demands : List Demand
  tag     : Nat
  ctl     : Word
  deriving DecidableEq, Repr

/-- A bench map entry (R431): bench and location (slice slot, frame, or channel), flags and access count. -/
structure PageEnt where
  page  : Nat
  bench : Nat
  loc   : Nat
  pin   : Bool
  ring  : Bool
  image : Bool
  count : Nat
  deriving DecidableEq, Repr

/-- A write-buffer entry (R441): its data unit, the bytes of its valid granules, and its place in arrival order. -/
structure WbEnt where
  unit  : Nat
  gran  : List (Nat × List Byte)
  seq   : Nat
  deriving DecidableEq, Repr

/-- A page move (R434 to R438, R342): the reason of Table BF-3, source and destination, granules copied, the
destination's granules, the delta log (granule and contents), the tick in which the copy ended, whether it has
switched, whether the page takes atomic adds, the HAUL_HINT that asked for it, the source, and the tick of
the switch (R436). -/
structure Move where
  page   : Nat
  reason : Nat
  bench  : Nat
  loc    : Nat
  copied : Nat
  dest   : List (Nat × List Byte)
  log    : List (Nat × List Byte)
  ended  : Option Nat
  done   : Bool
  table  : Bool
  cmd    : Option Nat
  srcB   : Nat
  srcL   : Nat
  switch : Nat
  deriving DecidableEq, Repr

/-- A row with a history (R407, R410, R411): the spare it is mapped to, its correctable errors since the last
remap, the granules corrected and written back since then, whether it has failed and waits for its remap, and the tick in which it
failed (R413). -/
structure RowRec where
  pc    : Nat
  bank  : Nat
  row   : Nat
  spare : Option Nat
  ce    : Nat
  seen  : List Nat
  failed : Bool
  failAt : Nat
  deriving DecidableEq, Repr

/-- The fault state of a stack (R411 to R420): rows with a history, DEAD spares (pseudo-channel, bank, spare),
frames RETIRING and RETIRED, pseudo-channels mapped out, marked and with an uncorrectable pattern, and
whether the fault record is loaded. -/
structure Stack where
  rows     : List RowRec
  dead     : List (Nat × Nat × Nat)
  retiring : List Nat
  retired  : List Nat
  out      : List Nat
  marked   : List Nat
  pattern  : List Nat
  loaded   : Bool
  deriving DecidableEq, Repr

/-- A flash channel (R439, R451, Table BF-8): state, packages, wear in percent, spare blocks used, bad blocks. -/
structure FlashCh where
  st    : Nat
  pkgs  : Nat
  wear  : Nat
  spare : Nat
  bad   : Nat
  deriving DecidableEq, Repr

/-- An image or parity page on flash: its page number, its channel and its 16 units (R447). -/
structure ImgPage where
  page  : Nat
  ch    : Nat
  units : List FlashUnit
  deriving DecidableEq, Repr

/-- A parity group (R447): up to 15 image pages, the parity page, and the pages whose current image is in the group. -/
structure ParGroup where
  pages  : List ImgPage
  parity : ImgPage
  live   : List Nat
  deriving DecidableEq, Repr

/-- Device memory (R426 to R453). `cells` holds the bytes of pages in benches 0 and 1 by device address, 0 unlisted, `flash` the
programmed units of bench 2 by rising number; `ue` the granules known to hold uncorrectable errors;
`hint` the benches HAUL_HINT named for unallocated host pages; `freeing` the host pages freed when their user
ends; `retiredPg` the device pages retired without a copy (R416); `groups` the flash images of module pages; `backoff` lists
table pages whose migration was abandoned, with the tick until which they are not proposed; `hotCfg` the GTH_HOT_CFG in force on
each die (R345); `stalled` the ordinary writes that stopped pseudo-channels have not accepted, in arrival order (R359); `homing` the
pages that the haul engine has yet to move to another die, with that die (R572). -/
structure Mem where
  map      : List PageEnt
  cells    : List Host.Cell
  flash    : List FlashUnit
  wb       : List WbEnt
  wbSeq    : Nat
  moves    : List Move
  ue       : List Nat
  hint     : List (Nat × Nat)
  freeing  : List Nat
  retiredPg : List Nat
  channels : List FlashCh
  loaded   : Bool
  rot      : Nat
  nextPage : Nat
  draws    : Nat
  groups   : List ParGroup
  backoff  : List (Nat × Nat)
  hotCfg   : List Word
  stalled  : List (Nat × List (Option Byte))
  homing   : List (Nat × Nat)
  deriving DecidableEq, Repr

/-- The tick, the reset sequence and the pins (R503, R522, R523, R605, R638, R644). `phase` is Table MG-6, `rst`
the phase of Table TL-7 in progress: 0 none, 1 quiesce, 2 boot chain and wipe, 3 train and bench load, 5 replay,
6 waiting for ready, 7 ended in a gap of the ledger (R518). `erased` says that this reset's transition destroyed the media key
(R527). `chainFirst` says that the boot chain comes before the wipe (Table MG-6). `halted` lists control core pairs that the debug UART halted (R594). `found` is what the phases after
the boot chain find. `want` is a reset request latched for slot 2 (cause, kind); `kind` and `cause` those of the
reset in progress. -/
structure Sys where
  tick      : DWord
  refOk     : Bool
  refLost   : Bool
  phase     : Nat
  rst       : Nat
  want      : Option (Nat × Nat)
  kind      : Nat
  cause     : Nat
  resetTick : Nat
  lastReset : Word
  mainEn    : Bool
  resetNLow : Bool
  mv        : Nat
  switchOpen : Bool
  rails     : Bool
  quarryOn  : Bool
  chainFirst : Bool
  halted    : List Nat
  erased    : Bool
  found     : Findings
  deriving DecidableEq, Repr

/-- A supply dip in progress (R543, R544): its first tick, samples above 45 V in a row, the lowest input, and the tick of the
hundredth such sample. -/
structure Dip where
  first : Nat
  count : Nat
  low   : Nat
  full  : Option Nat
  deriving DecidableEq, Repr

/-- Power and heat (R533 to R551). Energies are in microjoules, temperatures in sixteenths of a degree. `peak` is
the face duty that R540 imposes until the window ends, `stall` whether other units stall; `drawn` is what the window's
URGENT heads have drawn from the allowance (R538), `short` whether a head has been deferred for credit in the window. -/
structure Pwr where
  grant    : Nat
  credit   : Int
  burst    : Nat
  drawn    : Nat
  short    : Bool
  cfg      : Word
  therm    : Word
  ingest   : Nat
  query    : Nat
  other    : Nat
  idle     : Nat
  docs     : Nat
  queries  : Nat
  lastW    : Nat
  maxW     : Nat
  ma10     : Nat
  temp     : List Int
  pred     : List Int
  est      : List Int
  hot      : Bool
  dip      : Option Dip
  starts   : List Nat
  peak     : Nat
  stall    : Bool
  resp     : List Nat
  railE    : List Nat
  supplyEv : Option Nat
  thermEv  : Bool
  deriving DecidableEq, Repr

/-- Safety (R552 to R577). `state` is SAF_STAT.state; `trip` a trip latched for slot 1; `atLimit` the sensors whose
last sample reached the limit and `estLimit` the base dies whose estimate did; `off` counts implausible ticks by
sensor; `events` the rail and seam events (index, tick); `cfg` the SAF_CFG in force (R577). -/
structure Saf where
  state    : Nat
  trip     : Option (Nat × Nat)
  atLimit  : List Nat
  estLimit : List Nat
  off      : List (Nat × Nat)
  failed   : List Nat
  mcDown   : Bool
  mcTicks  : List Nat
  events   : List (Nat × Nat)
  closed   : Bool
  rebuild  : Bool
  engines  : Option Nat
  analog   : Option Nat
  cfg      : Word
  deriving DecidableEq, Repr

/-- State an SPDM transport has negotiated (R586): version given, capabilities given, algorithms agreed. -/
structure SpdmState where
  version : Bool
  caps    : Bool
  algs    : Bool
  deriving DecidableEq, Repr

/-- Security (R578 to R596): fuses, the security store, the boot images of both slots with their validity, the
digests of the running images, the nonce, and the windows' bytes. -/
structure Sec where
  lc       : Nat
  service  : Nat
  owners   : List (BitVec 256)
  revoked  : List Nat
  fuseSvn  : Nat
  active   : Nat
  trial    : Bool
  reverted : Bool
  pending  : Option Nat
  media    : Option (BitVec 512)
  slots    : List (List Image)
  invalid  : List Nat
  running  : List (BitVec 512)
  runSvn   : Nat
  nonceNo  : Nat
  nonce    : Option (BitVec 256)
  token    : Option (Nat × Nat × List (BitVec 256))
  locked   : Bool
  spdmM    : SpdmState
  spdmW    : SpdmState
  pendAct  : Option Nat
  deriving DecidableEq, Repr

/-- A PLDM firmware update in progress (R582, R609). -/
structure Update where
  comps  : List Nat
  cur    : Option Nat
  got    : Option Image
  done   : List Nat
  failed : Bool
  deriving DecidableEq, Repr

/-- A response of the management controller on the adit port (R598 to R602). A PLDM response carries its type and command as
`type * 256 + command`. -/
inductive Resp where
  | i3c (data : List Byte)
  | mctp (data : List Byte)
  | pldm (code : Nat) (data : List Byte)
  | event (sensor : Nat) (value : Nat)
  | ibi (data : Byte)
  | spdm (t : Transport) (data : List Byte)
  | uart (data : List Byte)
  deriving DecidableEq, Repr

/-- The management controller (R597 to R613): management state, addresses, update, test mode, error log store
(newest first), the messages it has sent, and the target reset action that RSTACT set. -/
structure Mgt where
  on       : Bool
  state    : Nat
  addr     : Option (BitVec 7)
  ibi      : Bool
  mwl      : Nat
  mrl      : Nat
  eid      : Byte
  tid      : Byte
  receiver : Option Byte
  power    : Bool
  update   : Option Update
  test     : Option (Nat × Nat)
  testRes  : Nat
  testDet  : Nat
  elog     : List ErrRec
  restarts : List Nat
  offCause : Nat
  retried  : Bool
  alert    : Nat
  resp     : List Resp
  rstAct   : Option Byte
  deriving DecidableEq, Repr

end Sys2Proof.Machine
end

