-- ==== Sys2Proof/Machine/Fresh.lean ====
section
/-! DEFINITION. The parts of the state as a reset leaves them: the values the spec gives, and for the rest those that the
assumption log names. -/

namespace Sys2Proof.Machine

def regs0 : Regs := ⟨[], [], [], [], [], [], [], []⟩
def acc0 : AccSet := ⟨[], 0, false, 0, 0, 0, 0, 0, false, 0, 0, 0⟩

/-- An idle face. -/
def face0 (n : Nat) : Face :=
  { id := n, st := 0, cmd := none, rank := 0, prog := 0, codeLen := 0, pc := 0, x := List.replicate 32 0#64
    v := [], mask := [], td := [], store := [], used := 0, acc := [acc0, acc0], wait := none, xfers := [], tag := 0, fmt := 0
    last := 0, skews := 0, ltag := 0, outb := [], pstats := [], rpend := [], gpend := [], doomed := false }
def faces0 : List Face := (upto 128).map face0

/-- A ready drill (Table DR-2). -/
def drill0 (s n : Nat) : Drill :=
  { stack := s, n := n, ready := true, fault := false, dbErr := false, st := 0, exit := 0, seq := 0, area := [], cmd := none
    prog := none, code := [], pc := 0, r := List.replicate 32 0#32, q := [], p := [], b := [], scratch := []
    held := [], started := 0, region := (0, 0), cfg := 0x140003, replays := false, ended := false, skews := 0 }
def drills0 : List Drill := (upto 8).flatMap fun s => (upto 384).map (drill0 s)

/-- Admission before any window: rates and coefficients are free values (R79, R535). -/
def adm0 : Adm :=
  { backlog := List.replicate 16 0, bulk := List.replicate 16 0, rate := (upto 16).map Config.rate0
    coef := (upto 16).map Config.coef0, granted := [0, 0, 0, 0], weights := 0x10408#32, reserve := 0x50A#32, bulkE := 0, seq := 0
    held := 0, policy := 0x107D0#32, margin := 20, decs := [] }

def ledger0 : Ledger := ⟨1, [], [], none, 0, 0, [], 0, none, 0, 0, [], 0⟩

def link0 : LinkRec := ⟨0, 0, 0, 0, 0, [], 0, [0, 0, 0], 0, none, 0, 0, 0, none⟩
def port0 (n : Nat) : Port := ⟨n, link0, 0, false, 0, none, [], false, false, false⟩

/-- Unassigned (R484). -/
def fab0 : Fab :=
  { node := none, master := 0xFFF, fabEpoch := 0, assignTo := none, table := [], shadow := [], commit := none
    ports := (upto 12).map port0, inbox := [], out := [], self := [], tag := 0, txs := [], series := [], idle := none
    pins := [] }

def velom0 : Velom := ⟨link0, [], [], [], [], [], [], [], [], 0, 0x41#32⟩

def chan0 : FlashCh := ⟨1, 4, 0, 0, 0⟩
def mem0 : Mem :=
  { map := [], cells := [], flash := [], wb := [], wbSeq := 0, moves := [], ue := [], hint := [], freeing := [], retiredPg := []
    channels := List.replicate 32 chan0, loaded := false, rot := 0, nextPage := 1, draws := 0, groups := [], backoff := []
    hotCfg := List.replicate 4 0x102000#32, stalled := [], homing := [] }

def stack0 : Stack := ⟨[], [], [], [], [], [], [], false⟩

/-- The first tick of a first power-on: rails on, the boot chain to come (R504, R605). -/
def sys0 : Sys :=
  { tick := 0#64, refOk := true, refLost := false, phase := 3, rst := 2, want := none, kind := 2, cause := 9, resetTick := 0
    lastReset := 0#32, mainEn := true, resetNLow := false, mv := 0, switchOpen := false, rails := true
    quarryOn := true, chainFirst := true, halted := [], erased := false, found := ⟨⟨[], [], [], [], []⟩, [], []⟩ }

def pwr0 : Pwr :=
  { grant := 0, credit := 0, burst := 6000000, drawn := 0, short := false, cfg := 0x5DC1E0F#32, therm := 0x5F#32, ingest := 0, query := 0, other := 0
    idle := 0, docs := 0, queries := 0, lastW := 0, maxW := 0, ma10 := 0, temp := List.replicate 48 0, pred := List.replicate 46 0
    est := List.replicate 46 0, hot := false, dip := none, starts := [], peak := 100, stall := false, resp := [], railE := []
    supplyEv := none, thermEv := false }

def saf0 : Saf :=
  { state := 0, trip := none, atLimit := [], estLimit := [], off := [], failed := [], mcDown := false, mcTicks := [], events := []
    closed := false, rebuild := false, engines := none, analog := none, cfg := 0x30F03#32 }

/-- A module as it leaves the wafer test (Table SE-7). -/
def sec0 : Sec :=
  { lc := 0, service := 0, owners := List.replicate 4 0#256, revoked := [], fuseSvn := 0, active := 0, trial := false
    reverted := false, pending := none, media := some 0#512, slots := [[], []], invalid := [], running := [], runSvn := 0
    nonceNo := 0, nonce := none, token := none, locked := false, spdmM := ⟨false, false, false⟩, spdmW := ⟨false, false, false⟩
    pendAct := none }

/-- The management controller, running since standby, with its main rails on. -/
def mgt0 : Mgt :=
  { on := true, state := 2, addr := none, ibi := true, mwl := 256, mrl := 256, eid := 0#8, tid := 0#8, receiver := none
    power := true, update := none, test := none, testRes := 0, testDet := 0, elog := [], restarts := [], offCause := 0
    retried := false, alert := 0, resp := [], rstAct := none }

end Sys2Proof.Machine
end

