-- ==== Sys2Proof/Machine/State.lean ====
section
/-! DEFINITION. The state of the machine: every register, buffer, counter and mode that the spec gives the module,
and the queue of commands that wait. -/

namespace Sys2Proof.Machine

/-- What stops the block with a fault. The spec lets no command stop the module: an input outside its range is
ignored or rejected (R10), an error completes a command or raises a record. So there is no fault. -/
inductive Fault where
  deriving DecidableEq, Repr

/-- What the model refuses. -/
inductive Refusal where
  /-- Raised by a command that has no meaning yet; safe. -/
  | notModelled (mnemonic : String)
  deriving DecidableEq, Repr

/-- Everything in the module but the queue of commands. `snaps` holds each running face as its work unit
began, `ksat` the granules of K-split targets where an add has saturated (R271, R276), `sats` the saturated scores that drills and drift engines have counted (R41), `scanTab` the bytes of the scan table store of each stack (R372), `mirror` the tags of the tailings mirror (R233), each
with what tells apart the segments that a number has named. -/
structure Mod where
  sys     : Sys
  regs    : Regs
  inited  : Bool
  units   : List UnitRec
  chutes  : List ChuteRec
  adm     : Adm
  cmds    : List Cmd
  nextCmd : Nat
  colls   : List Coll
  mirror  : List (BitVec 64 × Nat)
  resv    : Nat
  ledger  : Ledger
  pkgs    : List PkgVer
  faces   : List Face
  snaps   : List Face
  drills  : List Drill
  svc     : List SvcEnt
  ksat    : List Nat
  sats    : List (UnitId × Nat)
  scanTab : List (Nat × List Host.Cell)
  slots   : List Slot
  fab     : Fab
  velom   : Velom
  mem     : Mem
  hbm     : List Stack
  pwr     : Pwr
  saf     : Saf
  sec     : Sec
  mgt     : Mgt
  draws   : Nat
  deriving DecidableEq, Repr

/-- The whole machine: the commands that wait, first in first out, and the module. -/
structure State where
  pending : List Instr
  mod     : Mod
  deriving DecidableEq, Repr

/-- The module right after the reset of its first power-on (R504, R523, R605). -/
def Mod.reset : Mod :=
  { sys := sys0, regs := regs0, inited := false, units := [], chutes := [], adm := adm0, cmds := [], nextCmd := 0, colls := []
    mirror := [], resv := 0, ledger := ledger0, pkgs := [], faces := faces0, snaps := [], drills := drills0, svc := [], ksat := [], sats := []
    scanTab := [], slots := [], fab := fab0, velom := velom0, mem := mem0, hbm := List.replicate 8 stack0, pwr := pwr0
    saf := saf0, sec := sec0, mgt := mgt0, draws := 0 }

def State.reset : State := ⟨[], Mod.reset⟩

end Sys2Proof.Machine
end

