-- ==== Sys2Proof/Machine/Regs.lean ====
section
/-! DEFINITION. The named operations on registers, error records, events and units: every read and write of a
register goes through these. -/

namespace Sys2Proof.Machine

/-- The current tick. -/
def now (m : Mod) : Nat := m.sys.tick.toNat

/-- Walkers, drills, drift engines and gather units stand still: the peak limits stall them (R540), or their rails are off. -/
def unitsStall (m : Mod) : Bool := m.pwr.stall || !m.sys.quarryOn

/-- The reset value of a register, as a word. -/
def regDflt (k : Nat) : Word := BitVec.ofNat 32 (resetAt k)

/-- The stored value of a register. -/
def getReg (m : Mod) (p : Page) (r : Nat) : Word := mapGet regDflt m.regs.vals (pageBase p + r)

def regN (m : Mod) (p : Page) (r : Nat) : Nat := (getReg m p r).toNat

def setReg (m : Mod) (p : Page) (r : Nat) (v : Word) : Mod :=
  { m with regs := { m.regs with vals := mapSet regDflt m.regs.vals (pageBase p + r) v } }

def setRegN (m : Mod) (p : Page) (r v : Nat) : Mod := setReg m p r (BitVec.ofNat 32 v)

/-- What the hardware has added to a counter in this tick (R9), and the W1C bits it has set in this tick (R8). -/
def upNow (m : Mod) (p : Page) (r : Nat) : Nat := mapGet (fun _ => 0) m.regs.ups (pageBase p + r)
def setNow (m : Mod) (p : Page) (r : Nat) : Word := mapGet (fun _ => 0#32) m.regs.sets (pageBase p + r)
/-- What saturation has swallowed of a counter's increments in this tick. -/
def lostNow (m : Mod) (p : Page) (r : Nat) : Nat := mapGet (fun _ => 0) m.regs.lost (pageBase p + r)

def setLost (m : Mod) (p : Page) (r n : Nat) : Mod :=
  { m with regs := { m.regs with lost := mapSet (fun _ => 0) m.regs.lost (pageBase p + r) n } }
/-- An increment by `n` noted, with what it adds beyond 0xFFFF_FFFF. -/
def noteUp (m : Mod) (p : Page) (r n : Nat) : Mod :=
  setLost { m with regs := { m.regs with ups := mapSet (fun _ => 0) m.regs.ups (pageBase p + r) (upNow m p r + n) } } p r
    (lostNow m p r + (regN m p r + n - 0xFFFFFFFF))
def noteSet (m : Mod) (p : Page) (r : Nat) (w : Word) : Mod :=
  { m with regs := { m.regs with sets := mapSet (fun _ => 0#32) m.regs.sets (pageBase p + r) (setNow m p r ||| w) } }

/-- A counter raised by `n`, saturating at 0xFFFF_FFFF. -/
def bump (m : Mod) (p : Page) (r : Nat) (n : Nat := 1) : Mod :=
  setRegN (noteUp m p r n) p r (min (regN m p r + n) 0xFFFFFFFF)

/-- Bits of a W1C register that the hardware sets. -/
def raiseBits (m : Mod) (p : Page) (r : Nat) (w : Word) : Mod :=
  setReg (noteSet m p r w) p r (getReg m p r ||| w)

/-- An RC counter as a read leaves it: what this tick has added stays (R9). -/
def readCounter (m : Mod) (p : Page) (r : Nat) : Mod :=
  setLost (setRegN m p r (min (upNow m p r) 0xFFFFFFFF)) p r (upNow m p r - 0xFFFFFFFF)

/-- An RC counter before this tick's increments (R9). -/
def beforeTick (m : Mod) (p : Page) (r : Nat) : Nat := regN m p r + lostNow m p r - upNow m p r

/-! Messages to the host. -/

/-- Lane and slots of a message to the host (Table VL-4). -/
def msgLane : Msg → Nat
  | .ack _ _ | .reply _ _ _ _ | .hostInvAck _ => 2
  | .recall _ _ => 1
  | _ => 0
def msgSlots : Msg → Nat
  | .reply _ _ _ d | .hstore _ _ d => 1 + ceilDiv d.length 16
  | _ => 1

/-- One traffic flit sent: it takes a sequence number, a place in the replay buffer and its slots' credit, where the link
is ACTIVE and has them (R456, R458). -/
def linkSend (l : LinkRec) (lane slots : Nat) : Option LinkRec :=
  if l.st = 3 && l.replay.length < 256 && slots ≤ l.credit.getD lane 0 then
    some { l with tx := (l.tx + 1) % 4096, replay := l.replay ++ [l.tx], credit := modNth l.credit lane (· - slots) }
  else none

/-- A message sent, or held behind those of its lane (R458, R474). -/
def velomSend (v : Velom) (x : Msg) : Velom :=
  if v.held.any fun y => msgLane y = msgLane x then { v with held := v.held ++ [x] }
  else match linkSend v.link (msgLane x) (msgSlots x) with
  | some l => { v with link := l, out := v.out ++ [x] }
  | none => { v with held := v.held ++ [x] }

def sendMsg (m : Mod) (x : Msg) : Mod := { m with velom := velomSend m.velom x }

/-- Held messages sent as far as the link takes them. -/
def flushHeld (m : Mod) : Mod := { m with velom := m.velom.held.foldl velomSend { m.velom with held := [] } }

/-- One Evt; two rises in one tick with one vector send one (R623). -/
def sendEvt (m : Mod) (vec : Nat) : Mod :=
  if vec ∈ m.regs.sent then m
  else sendMsg { m with regs := { m.regs with sent := vec :: m.regs.sent } } (.evt vec)

/-- A demand of the module with a fresh tag that waits for its HostAck or HostReply (R459). -/
def demand (m : Mod) (kind addr : Nat) (x : Nat → Msg) : Mod :=
  let t := m.velom.tag
  sendMsg { m with velom := { m.velom with tag := (t + 1) % 65536, waiting := m.velom.waiting ++ [(t, kind, addr)] } } (x t)

/-- Host memory written by HStores of at most 256 bytes (Table VL-4). -/
def hostStore (m : Mod) (addr : Nat) (data : List Byte) : Mod :=
  (upto (ceilDiv data.length 256)).foldl (fun m i =>
    demand m 0 (addr + 256 * i) fun t => .hstore t (addr + 256 * i) ((data.drop (256 * i)).take 256)) m

def hostLoad (m : Mod) (addr size : Nat) : Mod := demand m 1 addr fun t => .hload t addr size

/-- A host line fetched into the host-line cache (R469). -/
def hostKeep (m : Mod) (line : Nat) : Mod := demand m 2 (line * 64) fun t => .hloadKeep t (line * 64)

/-! Event outputs (R621 to R626). -/

/-- Whether a page's event output is asserted. -/
def evOut (m : Mod) (p : Page) : Bool := getReg m p 0x14 &&& getReg m p 0x18 != 0#32

/-- Sets a pending cause (R621). -/
def pend (m : Mod) (p : Page) (bit : Nat) : Mod :=
  raiseBits m p 0x14 (BitVec.ofNat 32 (2 ^ bit))

/-- The cause a block's own chapter names (bit 6). -/
def blockEvt (m : Mod) (p : Page) : Mod := pend m p 6

/-- Sends the Evt of a page whose output has risen, where host_en is 1 (R623). -/
def risen (m : Mod) (p : Page) : Mod :=
  let o := regN m p 0x1C
  if bitAt o 31 then sendEvt m (bits o 0 12) else m

/-- One page's output sampled: a rise sends its Evt (R623). -/
def sampleEvt (m : Mod) (p : Page) : Mod :=
  let was := decide (p ∈ m.regs.level)
  if evOut m p then
    if was then m else risen { m with regs := { m.regs with level := p :: m.regs.level } } p
  else { m with regs := { m.regs with level := m.regs.level.filter (· != p) } }

/-- The pages with a stored BLK_EVT_PEND value: the only ones whose output can be asserted. -/
def pendPages (m : Mod) : List Page :=
  m.regs.vals.filterMap fun (k, _) =>
    if k % 4096 = 0x14 then (pageAt k).map (·.1) else none

/-- Every page's output sampled, as at a tick boundary. -/
def sampleAll (m : Mod) : Mod :=
  let m := (pendPages m).foldl sampleEvt m
  { m with regs := { m.regs with level := m.regs.level.filter (evOut m ·) } }

/-! The management controller's alerts and its error log store. -/

/-- A response or message on the adit port. -/
def aditSend (m : Mod) (r : Resp) : Mod := { m with mgt := { m.mgt with resp := m.mgt.resp ++ [r] } }

/-- An in-band interrupt, where the port has an address and IBIs are enabled (R598). -/
def sendIbi (m : Mod) (b : Byte) : Mod :=
  if m.mgt.addr.isSome && m.mgt.ibi then aditSend m (.ibi b) else m

/-- Sets an MGT_ALERT bit and raises the alert IBI (R602). -/
def alert (m : Mod) (bit : Nat) : Mod :=
  let m := if m.sys.rails then noteSet m mgtP 0x4C (BitVec.ofNat 32 (2 ^ bit)) else m
  sendIbi { m with mgt := { m.mgt with alert := m.mgt.alert ||| 2 ^ bit } } 0x02#8

/-- A PlatformEventMessage to the registered receiver (R602). -/
def platEvent (m : Mod) (sensor value : Nat) : Mod :=
  if m.mgt.receiver.isSome then aditSend (sendIbi m 0x01#8) (.event sensor value) else m

def recClass (r : ErrRec) : Nat := bits r.word.toNat 61 3
def recCode (r : ErrRec) : Nat := bits r.word.toNat 41 5

/-- The last element satisfying `p` removed. -/
def dropLast {α : Type} (p : α → Bool) (l : List α) : List α :=
  let rec go : List α → List α
    | [] => []
    | x :: xs => if p x then xs else x :: go xs
  (go l.reverse).reverse

/-- A record copied to the error log store, newest first (R570, R613). -/
def elogPut (l : List ErrRec) (r : ErrRec) : List ErrRec :=
  if l.length < 4096 then r :: l
  else if l.any (fun x => recClass x < 5) then r :: dropLast (fun x => recClass x < 5) l
  else if recClass r = 5 then r :: l.dropLast
  else l

/-- The class Table RP-9 gives a code (6 and 8 depend on the cause). -/
def codeClass : Nat → Nat
  | 0x01 | 0x03 => 0
  | 0x02 | 0x04 => 2
  | 0x05 | 0x07 | 0x13 | 0x14 | 0x15 | 0x18 | 0x1E => 1
  | 0x06 => 0
  | 0x08 => 1
  | 0x09 | 0x0A | 0x0B | 0x0C | 0x17 | 0x1C => 3
  | 0x0D | 0x0E | 0x0F | 0x10 | 0x11 | 0x12 | 0x1D => 2
  | 0x16 | 0x1A | 0x1B => 4
  | 0x19 => 5
  | _ => 0

def errWord (p : Page) (cls code detail : Nat) : BitVec 64 :=
  BitVec.ofNat 64 (cls * 2 ^ 61 + p.die * 2 ^ 57 + blkNum p.blk * 2 ^ 51 + p.inst * 2 ^ 46 + code * 2 ^ 41
    + detail % 2 ^ 41)

def errDflt (p : Page) : ErrPage := ⟨p, ⟨0#64, 0⟩, true, false, []⟩

def errPage (m : Mod) (p : Page) : ErrPage :=
  (m.regs.errs.find? fun e => e.page = p).getD (errDflt p)

/-- The record that a reader has latched (R628, R633). -/
def latchOf (e : ErrPage) (w : Reader) : ErrRec := ((e.latch.find? fun x => x.1 = w).map (·.2)).getD ⟨0#64, 0⟩

def setErrPage (m : Mod) (e : ErrPage) : Mod :=
  { m with regs := { m.regs with errs := e :: m.regs.errs.filter fun x => x.page != e.page } }

/-- The page's log after one more record (R628): of several in one tick the highest class and then the lowest
code is live, and a record dropped without having been latched sets log_lost. -/
def logOne (e : ErrPage) (r : ErrRec) : ErrPage :=
  let keep := e.live.tick = r.tick && e.live.word != 0#64 &&
    (recClass r < recClass e.live || (recClass r = recClass e.live && recCode e.live ≤ recCode r))
  if keep then { e with lost := true }
  else { e with live := r, seen := false, lost := e.lost || !e.seen }

/-- One error record (R570, R622, R627, R628). `gate` is false where the block has an enable field for the cause
and that field is 0; it then withholds bit 3 alone. -/
def logErrC (m : Mod) (p : Page) (cls code detail : Nat) (gate : Bool := true) : Mod :=
  let r : ErrRec := ⟨errWord p cls code detail, now m⟩
  let m := bump m p 0x20
  let m := setErrPage m (logOne (errPage m p) r)
  let m := match cls with
    | 0 | 1 => if gate then pend m p 3 else m
    | 2 => pend m p 0
    | 3 | 4 => pend m p 1
    | _ => pend m p 2
  let m := if 3 ≤ cls then { m with mgt := { m.mgt with elog := elogPut m.mgt.elog r } } else m
  if cls = 5 then platEvent (alert m 0) 0 (detail % 2 ^ 41) else m

def logErr (m : Mod) (p : Page) (code detail : Nat) (gate : Bool := true) : Mod :=
  logErrC m p (codeClass code) code detail gate

/-! Units. -/

/-- The service record of a unit; units not listed are initialising before ready and in service after. -/
def unitRec (m : Mod) (u : UnitId) : UnitRec :=
  (m.units.find? fun r => r.id = u).getD ⟨u, if m.inited then 1 else 0, [], 0, false, 0, 0, 0⟩

def setUnit (m : Mod) (r : UnitRec) : Mod :=
  { m with units := r :: m.units.filter fun x => x.id != r.id }

def unitState (m : Mod) (u : UnitId) : Nat := (unitRec m u).st

/-- In service or ramping: the unit takes work (R571, R574). -/
def inService (m : Mod) (u : UnitId) : Bool := unitState m u = 1 || unitState m u = 4

/-- The percent of an equal unit's work a unit may take (Table RP-5, R574). -/
def unitShare (m : Mod) (u : UnitId) : Nat :=
  let r := unitRec m u
  match r.st with
  | 1 => 100
  | 4 => min 100 (10 * r.win)
  | _ => 0

/-! The ramp of a returned unit (R574). -/

/-- Units of one pool: of one kind, on one die but for faces and their crushers, which one command takes from any die. -/
def samePool : UnitId → UnitId → Bool
  | .page p, .page q => p.blk = q.blk && (p.die = q.die || p.blk = .fac || p.blk = .cru)
  | .drill s _, .drill t _ => s = t
  | .pair _, .pair _ => true
  | _, _ => false

def poolSize : UnitId → Nat
  | .page p => match p.blk with
    | .wlk | .siv => 16
    | .rdl => 8
    | .fac | .cru => 128
    | .dft => 32
    | _ => 1
  | .drill _ _ => 384
  | .pair _ => 4

/-- The other units of a pool that are in service with their whole share. -/
def equals (m : Mod) (u : UnitId) : Nat :=
  poolSize u - 1 - (m.units.filter fun r => r.id != u && samePool r.id u && r.st != 1).length

/-- Whether a unit in its ramp may receive one more piece of work, beside `own` of `all` that are being placed with it: at most its
share of what an equal unit of its pool receives on average in the window. -/
def mayTake (m : Mod) (u : UnitId) (own all : Nat) : Bool :=
  let r := unitRec m u
  let n := equals m u
  r.st != 4 || n = 0 || decide ((r.got + own + 1) * 100 * n ≤ unitShare m u * (r.pool + (all - own)))

/-- A piece of work placed on a unit. -/
def placed (m : Mod) (u : UnitId) : Mod :=
  let f (r : UnitRec) : UnitRec := if r.id = u then { r with got := r.got + 1 } else { r with pool := r.pool + 1 }
  { m with units := mapIf (fun r => r.st = 4 && samePool r.id u) f m.units }

/-- Whether a unit counts as out of service or returning (BLK_CTL.out_of_service, R573). -/
def isOut (m : Mod) (u : UnitId) : Bool := unitState m u = 5 || unitState m u = 3

/-- The page of a unit, for its records. -/
def unitPage : UnitId → Page
  | .page p => p
  | .drill s _ => drlP s
  | .pair _ => ctlP

/-- Restarts within the last 1,000,000 ticks. -/
def recentRestarts (m : Mod) (r : UnitRec) : Nat :=
  (r.restarts.filter fun t => now m < t + 1000000).length

/-! Plain register writes. -/

/-- A write that the lock refuses: counted and recorded (R7, R595). -/
def lockViolation (m : Mod) (p : Page) (r : Nat) : Mod := logErr (bump m secP 0x48) p 0x1E r

/-- A write to a register, by its access code (Table SC-3), R10 and the lock. -/
def writePlain (m : Mod) (p : Page) (r : Nat) (v : Word) : Mod :=
  match rowAt p r with
  | none => m
  | some w =>
    let old := regN m p r
    match w.acc with
    | .ro | .rc | .wo => m
    | .w1c => setReg m p r (getReg m p r &&& ~~~ (v &&& ~~~ setNow m p r))
    | .w1s => setReg m p r (getReg m p r ||| (v &&& BitVec.ofNat 32 w.mask))
    | .rw | .rwl =>
      if !fieldsOk p r v.toNat then m
      else
        let new := v.toNat &&& w.mask
        let lk := lockMask p r
        if m.sec.locked && lk != 0 then
          lockViolation (setRegN m p r ((new &&& (0xFFFFFFFF - lk)) ||| (old &&& lk))) p r
        else setRegN m p r new

end Sys2Proof.Machine
end

