-- ==== Sys2Proof/Machine/MemOps.lean ====
section
/-! DEFINITION. The named operations on device memory: page numbers, the bench map, reads and writes of bytes
through the write buffer and past moves in flight, allocation and release of pages (chapters 13 and 14). -/

namespace Sys2Proof.Machine

def pageSize : Nat := 65536
/-- The first address of the host window, and one past the device range (Table BF-1). -/
def hostBase : Nat := 0x300000000000
def devEnd : Nat := 0x400000000000

/-- Whether an address lies in the host window. -/
def inHostWin (a : Nat) : Bool := hostBase ≤ a && a < devEnd

def pageNo (a : Nat) : Nat := a / pageSize

/-- The bench map entry of a page (R431). -/
def pageEnt (m : Mod) (pg : Nat) : Option PageEnt := m.mem.map.find? fun e => e.page = pg

def allocated (m : Mod) (a : Nat) : Bool := (pageEnt m (pageNo a)).isSome

def setEnt (m : Mod) (e : PageEnt) : Mod :=
  let l := insertBy (fun x y => decide (x.page < y.page)) e (m.mem.map.filter fun x => x.page != e.page)
  { m with mem := { m.mem with map := l } }

/-- What an unlisted byte of memory reads as: R427 gives zeros for an unallocated page, and every reset wipes
SRAM and HBM to zeros (Table TL-7). -/
def cellDflt (_ : Nat) : Byte := 0#8

def cellGet (l : List Host.Cell) (a : Nat) : Byte := mapGet cellDflt l a
def cellSet (l : List Host.Cell) (a : Nat) (b : Byte) : List Host.Cell := mapSet cellDflt l a b

def cellsSet (l : List Host.Cell) (a : Nat) : List Byte → List Host.Cell
  | [] => l
  | b :: bs => cellsSet (cellSet l a b) (a + 1) bs

/-! Allocation. -/

/-- Frames in a stack that hold or may hold pages. -/
def stackOf (m : Mod) (s : Nat) : Stack := m.hbm.getD s ⟨[], [], [], [], [], [], [], false⟩

def setStack (m : Mod) (s : Nat) (k : Stack) : Mod := { m with hbm := m.hbm.set s k }

/-- Frames per stack, per pseudo-channel (R402). -/
def framesPerStack : Nat := 1220352
def framesPerPc : Nat := 38136

/-- Where frame `i` lies (R403): pseudo-channel, bank group, slot. -/
def framePc (i : Nat) : Nat := i % 32
def frameGroup (i : Nat) : Nat := i / 32 % 12
def frameSlot (i : Nat) : Nat := i / 384
/-- Bank (0 to 47 within the pseudo-channel) and row of granule `g` of frame `i`. -/
def granBank (i g : Nat) : Nat := frameGroup i * 4 + g / 32 % 4
def granRow (i g : Nat) : Nat := 16 * frameSlot i + g / 128

/-- Frames in service of a stack: HBM_FRAMES (R417, R419). -/
def stackFrames (m : Mod) (s : Nat) : Nat :=
  let k := stackOf m s
  framesPerStack - k.out.length * framesPerPc - (k.retired.filter fun f => !(framePc f ∈ k.out)).length

/-- The stack and the frame that a bench 1 location names. -/
def locStack (loc : Nat) : Nat := loc / 2 ^ 21
def locFrame (loc : Nat) : Nat := loc % 2 ^ 21

def frameUsed (m : Mod) (loc : Nat) : Bool :=
  m.mem.map.any (fun e => e.bench = 1 && e.loc = loc) ||
  m.mem.moves.any fun v => (v.bench = 1 && v.loc = loc) || (v.done && v.srcB = 1 && v.srcL = loc)

/-- Whether a frame may take a page. -/
def frameOk (m : Mod) (s f : Nat) : Bool :=
  let k := stackOf m s
  !(f ∈ k.retired) && !(f ∈ k.retiring) && !(framePc f ∈ k.out) && !isOut m (.drill s (12 * framePc f + frameGroup f)) &&
  !frameUsed m (s * 2 ^ 21 + f)

/-- Bench 1 frames of a die that the bench map takes (R431): 8 bytes an entry, its frames shared out over the dies (DESIGN CHOICE). -/
def mapFrames (m : Mod) (d : Nat) : Nat := (ceilDiv (8 * m.mem.map.length) pageSize + 3 - d) / 4

/-- Free bench 1 frames of a quarry die's two stacks. -/
def freeB1Die (m : Mod) (d : Nat) : Nat :=
  let all := stackFrames m (2 * d) + stackFrames m (2 * d + 1)
  all - (m.mem.map.filter fun e => e.bench = 1 && locStack e.loc / 2 = d).length - mapFrames m d

def freeB1 (m : Mod) : Nat := total ((upto 4).map (freeB1Die m))
def freeB0 (m : Mod) : Nat := 4096 - (m.mem.map.filter fun e => e.bench = 0).length
/-- Free bench 0 pages of a die's slice. -/
def freeB0Die (m : Mod) (d : Nat) : Nat := 1024 - (m.mem.map.filter fun e => e.bench = 0 && e.loc / 1024 = d).length
/-- Bench 2 pages of the ordering variant, less those lost with worn blocks and failed channels (R452). -/
def b2Total : Nat := if Config.isF32 then 409600000 else 204800000
/-- Whether a flash channel takes new pages (R451, R452). -/
def chanTakes (m : Mod) (ch : Nat) : Bool := (m.mem.channels.getD ch ⟨1, 4, 0, 0, 0⟩).st < 2
def freeB2 (m : Mod) : Nat :=
  let cap := ((upto 32).filter (chanTakes m)).length * (b2Total / 32)
  cap - (m.mem.map.filter fun e => e.bench = 2 && chanTakes m e.loc).length

/-- Host-window pages allocated: HAU_HOST_USED. -/
def hostUsed (m : Mod) : Nat := (m.mem.map.filter fun e => inHostWin (e.page * pageSize)).length

/-- A free location of a bench. The spec leaves the allocator's choice open: it starts at a free draw and takes
the first location that is free (`die` narrows bench 0 and bench 1). -/
def pickLoc (m : Mod) (bench : Nat) (die : Option Nat) : Option Nat :=
  let draw := Config.place m.mem.draws
  match bench with
  | 0 =>
    let used := m.mem.map.filterMap fun e => if e.bench = 0 then some e.loc else none
    let base := match die with | some d => d * 1024 | none => 0
    let size := match die with | some _ => 1024 | none => 4096
    ((upto (min size (used.length + 1))).map fun i => base + (draw + i) % size).find? fun l => !(l ∈ used)
  | 1 =>
    let s := match die with | some d => 2 * d + draw % 2 | none => draw % 8
    let n (s : Nat) := m.mem.map.length + m.mem.moves.length * 2 + (stackOf m s).retired.length + (stackOf m s).retiring.length + 1
    let try' (s k : Nat) : Option Nat :=
      (((upto (k * n s)).map fun i => (draw / 8 + i) % framesPerStack).find? fun f => frameOk m s f).map (s * 2 ^ 21 + ·)
    let t := s / 2 * 2 + (1 - s % 2)
    (((try' s 1).orElse fun _ => try' t 1).orElse fun _ => try' s 384).orElse fun _ => try' t 384
  | _ =>
    if freeB2 m = 0 then none
    else ((upto 32).map fun i => (m.mem.rot + i) % 32).find? fun c =>
      decide ((m.mem.channels.getD c ⟨1, 4, 0, 0, 0⟩).st < 2)

/-- The newest write-buffer entry that holds a granule (R442). -/
def wbFind (m : Mod) (a : Nat) : Option (List Byte) :=
  let hold (e : WbEnt) : Bool := e.unit = a / 4096 && e.gran.any fun g => g.1 = a % 4096 / 32
  match (m.mem.wb.filter hold).getLast? with
  | some e => (e.gran.find? fun g => g.1 = a % 4096 / 32).map (·.2)
  | none => none

/-! Flash data units (R439, R449). -/

/-- A byte of a unit, and a unit with a granule replaced. -/
def unitByte (x : DataUnit) (i : Nat) : Byte := x.extractLsb' (8 * i) 8
def unitPut (x : DataUnit) (k : Nat) (g : List Byte) : DataUnit := BitVec.ofNat 32768 (setBits x.toNat (256 * k) 256 (ofBytes g))
/-- The bytes of a granule of a unit. -/
def unitGran (x : DataUnit) (k : Nat) : List Byte := (upto 32).map fun i => unitByte x (32 * k + i)

/-- The XTS key pair of the channel engines (R450). -/
def mediaKey (m : Mod) : BitVec 512 := m.sec.media.getD 0#512
/-- The tweak of unit `u` of a page, and of a ledger-zone unit by its block sequence number (R449). -/
def pageTweak (page u : Nat) : Nat := page * 16 + u
def ledgerTweak (block : Nat) : Nat := 2 ^ 40 + block

/-- A unit encrypted under a tweak, with the check symbols over its ciphertext (R449). -/
def encipher (m : Mod) (tweak : Nat) (x : DataUnit) : FlashUnit :=
  let t := Config.aesXts (mediaKey m) tweak x
  ⟨tweak, t, Config.ldpc t⟩
/-- What a unit of the medium decrypts to. -/
def decipher (m : Mod) (f : FlashUnit) : DataUnit := (Config.aesXts (mediaKey m) f.no).symm f.text

/-- A bench 2 unit as programmed, zeros where nothing has been. -/
def flashUnit (m : Mod) (n : Nat) : DataUnit := ((m.mem.flash.find? fun f => f.no = n).map (decipher m)).getD 0#32768
/-- A unit of the medium in its place. -/
def putUnit (l : List FlashUnit) (f : FlashUnit) : List FlashUnit :=
  insertBy (fun a b => decide (a.no < b.no)) f (l.filter fun x => x.no != f.no)

/-- The byte a read of a device address sees (R89, R426, R427, R442). -/
def readByte (m : Mod) (a : Nat) : Byte :=
  match pageEnt m (pageNo a) with
  | none => 0#8
  | some e =>
    if e.bench = 2 then
      match wbFind m a with
      | some g => g.getD (a % 32) 0#8
      | none => unitByte (flashUnit m (a / 4096)) (a % 4096)
    else cellGet m.mem.cells a

def readBytes (m : Mod) (a n : Nat) : List Byte := (upto n).map fun i => readByte m (a + i)

/-- One granule's bytes. -/
def readGran (m : Mod) (a : Nat) : List Byte := readBytes m (a / 32 * 32) 32

/-- A move of the page that has not switched. -/
def moveOf (m : Mod) (pg : Nat) : Option Move := m.mem.moves.find? fun v => v.page = pg && !v.done

def setMove (m : Mod) (v : Move) : Mod :=
  { m with mem := { m.mem with moves := mapIf (fun x => x.page = v.page && !x.done) (fun _ => v) m.mem.moves } }

/-- The quarry die that serves a location of bench 0 or bench 1. -/
def locDie (bench loc : Nat) : Nat := if bench = 0 then loc / 1024 % 4 else loc / 2 ^ 21 / 2 % 4

/-- A move abandoned: its destination freed, the abandonment counted, and a table page held back for its backoff
(R344, R438). -/
def abandonMove (m : Mod) (v : Move) : Mod :=
  let m := { m with mem := { m.mem with moves := m.mem.moves.filter fun x => !(x.page = v.page && !x.done) } }
  if v.table then
    let p : Page := ⟨locDie v.srcB v.srcL, .gth, 0⟩
    let w := max 1 (bits (regN m p 0x40) 24 7)
    bump { m with mem := { m.mem with backoff := (v.page, now m + w * 1000) :: m.mem.backoff } } p 0x64
  else bump m hauP 0x64

/-- One entry programmed: its granules merged into its unit's flash contents, and released (R442). A channel that takes no writes
hands the page to another first (R451). -/
def programEnt (m : Mod) (w : WbEnt) : Mod :=
  let pg := w.unit / 16
  let m := { m with mem := { m.mem with wb := m.mem.wb.filter fun x => x.seq != w.seq } }
  match pageEnt m pg with
  | none => m
  | some e =>
    let st := (m.mem.channels.getD e.loc ⟨1, 4, 0, 0, 0⟩).st
    let m := if st < 2 then m else match pickLoc m 2 none with
      | some l => bump (setEnt m { e with loc := l }) hauP 0x60
      | none => m
    let ch : Page := ⟨4, .flc, ((pageEnt m pg).map (·.loc)).getD e.loc⟩
    let x := w.gran.foldl (fun x g => unitPut x g.1 g.2) (flashUnit m w.unit)
    let m := if w.gran.length < 128 then bump m ch 0x4C else m
    bump { m with mem := { m.mem with flash := putUnit m.mem.flash (encipher m w.unit x) } } ch 0x50

/-- Entries of the write buffer that writers other than the ledger may take (R441). -/
def wbMax : Nat := 8192 - 512

/-- A granule written into the write buffer: into its unit's entry, else into a new one (R441, R442). A writer that finds no
entry free waits until the oldest is programmed (R443). -/
def wbPut (m : Mod) (a : Nat) (g : List Byte) : Mod :=
  let u := a / 4096
  let k := a % 4096 / 32
  if m.mem.wb.any fun e => e.unit = u then
    let f (e : WbEnt) : WbEnt := { e with gran := (k, g) :: e.gran.filter fun x => x.1 != k }
    { m with mem := { m.mem with wb := mapIf (fun e => e.unit = u) f m.mem.wb } }
  else
    let m := match m.mem.wb with
      | w :: _ => if m.mem.wb.length < wbMax then m else programEnt m w
      | [] => m
    { m with mem := { m.mem with wb := m.mem.wb ++ [⟨u, [(k, g)], m.mem.wbSeq⟩], wbSeq := m.mem.wbSeq + 1 } }

/-- The slice that holds a bench 1 address (R347, R403): its stack and drill number. -/
def sliceOf (m : Mod) (a : Nat) : Option (Nat × Nat) :=
  match pageEnt m (pageNo a) with
  | some e =>
    if e.bench = 1 then
      let f := e.loc % 2 ^ 21
      some (e.loc / 2 ^ 21, 12 * (f % 32) + f / 32 % 12)
    else none
  | none => none

/-- A word of a drill's command register area (Table DR-2). -/
def areaDflt (o : Nat) : Word := if o = 0 then 0x1000#32 else 0#32
def areaN (d : Drill) (o : Nat) : Nat := (mapGet areaDflt d.area o).toNat
/-- The region that a drill's command register area names. -/
def areaRegion (d : Drill) : Nat × Nat :=
  (areaN d 0x50 + bits (areaN d 0x54) 0 14 * 2 ^ 32, areaN d 0x58 + bits (areaN d 0x5C) 0 8 * 2 ^ 32)
/-- A drill's region: that of its run while it runs, else the one its area names. -/
def regionBase (d : Drill) : Nat := if d.ready then (areaRegion d).1 else d.region.1
def regionLen (d : Drill) : Nat := if d.ready then (areaRegion d).2 else d.region.2

/-- The drill that runs and owns a granule: it lies in its region and in its slice (R348, R359). -/
def ownerOf (m : Mod) (a : Nat) : Option Drill :=
  match sliceOf m a with
  | none => none
  | some (s, n) => m.drills.find? fun d =>
      !d.ready && d.stack = s && d.n = n && decide (regionBase d ≤ a ∧ a < regionBase d + regionLen d)

/-- Ordinary writes that a pseudo-channel holds for its drills. -/
def heldCount (m : Mod) (s pc : Nat) : Nat :=
  total ((m.drills.filter fun x => x.stack = s && x.n / 12 = pc).map fun x => x.held.length)

/-- The stack and pseudo-channel of a bench 1 address. -/
def pcAt (m : Mod) (a : Nat) : Option (Nat × Nat) := (sliceOf m a).map fun x => (x.1, x.2 / 12)

/-- Whether writes wait for a pseudo-channel to accept ordinary writes again (R359). -/
def pcWaits (m : Mod) (k : Nat × Nat) : Bool :=
  (m.mem.stalled.any fun w => pcAt m w.1 = some k) ||
  match m.velom.demands.head? with
  | some (.store _ a d _) => (upto (d.length / 32)).any fun i => pcAt m (a + 32 * i) = some k
  | _ => false

/-- The pseudo-channel that does not accept an ordinary write to a granule: one that holds 256 writes and would hold this one too,
or that stopped already (R359). -/
def stopFor (m : Mod) (a : Nat) : Option (Nat × Nat) :=
  match pcAt m a with
  | none => none
  | some k => if heldCount m k.1 k.2 = 256 && (pcWaits m k || (ownerOf m a).isSome) then some k else none

/-- A pseudo-channel stops accepting ordinary writes: counted where none waits yet. -/
def countStop (m : Mod) (k : Nat × Nat) : Mod := if pcWaits m k then m else bump m (drlP k.1) 0xBC

/-- An ordinary write held for a running drill (R359). -/
def holdWrite (m : Mod) (d : Drill) (a : Nat) (g : List (Option Byte)) : Mod :=
  { m with drills := mapIf (fun x => x.stack = d.stack && x.n = d.n) (fun x => { x with held := x.held ++ [(a, g)] }) m.drills }

/-- A whole granule applied at its page's present place; a write to a granule that a move has already copied is
logged, and a log of 4,096 entries abandons the move (R434, R438). -/
def applyGran (m : Mod) (a : Nat) (g : List Byte) : Mod :=
  let a := a / 32 * 32
  let m := { m with mem := { m.mem with ue := m.mem.ue.filter (· != a) } }
  let m := match pageEnt m (pageNo a) with
    | none => m
    | some e =>
      let m := setEnt m { e with image := false }
      if e.bench = 2 then wbPut m a g else { m with mem := { m.mem with cells := cellsSet m.mem.cells a g } }
  match moveOf m (pageNo a) with
  | none => m
  | some v =>
    if a % pageSize / 32 < v.copied then
      if v.log.length < 4096 then setMove m { v with log := v.log ++ [(a % pageSize / 32, g)] }
      else abandonMove m v
    else m

/-- A granule with the enabled bytes replaced. -/
def maskGran (old : List Byte) (new : List (Option Byte)) : List Byte := (old.zip new).map fun x => x.2.getD x.1

/-- A write of a granule's enabled bytes applied: a part by read-modify-write, refused where the old granule is
uncorrectable (R408). -/
def applyMask (m : Mod) (a : Nat) (g : List (Option Byte)) : Mod :=
  if g.all (·.isSome) then applyGran m a (g.filterMap id)
  else if a / 32 * 32 ∈ m.mem.ue then m
  else applyGran m a (maskGran (readGran m a) g)

/-- An ordinary write to a granule (Table DR-5): held while a running drill owns it; one that its pseudo-channel does not accept
waits (R359). -/
def putMask (m : Mod) (a : Nat) (g : List (Option Byte)) : Mod :=
  match stopFor m (a / 32 * 32) with
  | some k =>
    let m := countStop m k
    { m with mem := { m.mem with stalled := m.mem.stalled ++ [(a / 32 * 32, g)] } }
  | none => match ownerOf m (a / 32 * 32) with
    | some d => holdWrite m d (a / 32 * 32) g
    | none => applyMask m a g

/-- Writes that waited, taken in arrival order as far as their pseudo-channels accept them. -/
def drainStalled (m : Mod) : Mod :=
  m.mem.stalled.foldl (fun m w => putMask m w.1 w.2) { m with mem := { m.mem with stalled := [] } }

def putGran (m : Mod) (a : Nat) (g : List Byte) : Mod := putMask m a (g.map some)

/-- A granule with some of its bytes replaced. -/
def patch (old : List Byte) (at' : Nat) (new : List Byte) : List Byte :=
  (old.take at') ++ new ++ old.drop (at' + new.length)

/-- Bytes written at a device address, granule by granule. -/
def writeBytes (m : Mod) (a : Nat) (d : List Byte) : Mod :=
  let first := a / 32
  let last := (a + d.length - 1) / 32
  if d.length = 0 then m
  else (upto (last - first + 1)).foldl (fun m i =>
    let g := (first + i) * 32
    putMask m g ((upto 32).map fun k => if g + k < a then none else d[g + k - a]?)) m

/-! Pages placed and freed. -/

/-- A page and its contents gone: map entry, bytes, write-buffer entries, errors. -/
def dropPage (m : Mod) (pg : Nat) : Mod :=
  let inPg (a : Nat) : Bool := pageNo a = pg
  { m with mem := { m.mem with
      map := m.mem.map.filter fun e => e.page != pg
      cells := m.mem.cells.filter fun c => !inPg c.1
      flash := m.mem.flash.filter fun f => !(f.no / 16 = pg)
      wb := m.mem.wb.filter fun e => !(e.unit / 16 = pg)
      moves := m.mem.moves.filter fun v => v.page != pg
      ue := m.mem.ue.filter fun a => !inPg a
      freeing := m.mem.freeing.filter (· != pg)
      homing := m.mem.homing.filter fun x => x.1 != pg } }

/-- A page entered in the bench map, nothing of an earlier page of that number left. -/
def placePage (m : Mod) (pg bench loc : Nat) : Mod :=
  let m := dropPage m pg
  setEnt { m with mem := { m.mem with draws := m.mem.draws + 1, rot := if bench = 2 then (loc + 1) % 32 else m.mem.rot } }
    ⟨pg, bench, loc, false, false, false, 0⟩

/-- The host page allocated by a first write (R428): none if the limit or the benches refuse it. -/
def allocHost (m : Mod) (pg : Nat) : Option Mod :=
  if (pageEnt m pg).isSome then some m
  else if regN m hauP 0x54 ≤ hostUsed m then none
  else
    let bench := ((m.mem.hint.find? fun h => h.1 = pg).map (·.2)).getD 1
    match pickLoc m bench none with
    | some l => some (placePage m pg bench l)
    | none => none

/-- A module page allocated in a bench, near a die if one is named. -/
def allocModule (m : Mod) (bench : Nat) (die : Option Nat) : Option (Nat × Mod) :=
  match pickLoc m bench die with
  | none => none
  | some l => some (m.mem.nextPage, placePage { m with mem := { m.mem with nextPage := m.mem.nextPage + 1 } }
      m.mem.nextPage bench l)

/-- `n` module pages of a bench, near a die if one is named: none where there is not room for all. -/
def allocPages (bench : Nat) (die : Option Nat) : Nat → Mod → Option (List Nat × Mod)
  | 0, m => some ([], m)
  | n + 1, m => match allocModule m bench die with
    | none => none
    | some (pg, m) => (allocPages bench die n m).map fun r => (pg :: r.1, r.2)

/-- A module page of a given number placed in a bench, if it is not there already and the bench has room; one that no longer fits
in bench 1 goes to bench 2 (R419). -/
def mapAt (bench : Nat) (die : Option Nat) (m : Mod) (pg : Nat) : Mod :=
  if (pageEnt m pg).isSome then m
  else match pickLoc m bench die with
    | some l => placePage m pg bench l
    | none => match (if bench = 1 then pickLoc m 2 none else none) with
      | some l => placePage m pg 2 l
      | none => m

/-! Images (R446, R447). -/

/-- A unit of a page as it reads. -/
def pageUnit (m : Mod) (n : Nat) : DataUnit :=
  if (pageEnt m (n / 16)).any fun e => e.bench = 2 then
    (m.mem.wb.filter fun w => w.unit = n).foldl (fun x w => w.gran.foldl (fun x g => unitPut x g.1 g.2) x) (flashUnit m n)
  else BitVec.ofNat 32768 (total ((m.mem.cells.filter fun c => c.1 / 4096 = n).map fun c => c.2.toNat * 2 ^ (8 * (c.1 % 4096))))

/-- The sum of units modulo two. -/
def xorUnits (l : List DataUnit) : DataUnit := l.foldl (· ^^^ ·) 0#32768

/-- The parity group that holds a page's current image, and the image. -/
def groupOf (m : Mod) (pg : Nat) : Option ParGroup := m.mem.groups.find? fun g => decide (pg ∈ g.live)
def imgOf (m : Mod) (pg : Nat) : Option ImgPage := (groupOf m pg).bind fun g => g.pages.find? fun x => x.page = pg

/-- A unit of a page of a group rebuilt from the other pages (R447). -/
def rebuilt (m : Mod) (g : ParGroup) (pg u : Nat) : DataUnit :=
  xorUnits (((g.parity :: g.pages).filter fun x => x.page != pg).map fun x => ((x.units[u]?).map (decipher m)).getD 0#32768)

/-- A unit of a page's image as it is read, `lost` naming the units of pages that cannot be: such a one is rebuilt from the rest of
its group where all of that can be read (R447). -/
def imageUnit (m : Mod) (lost : List (Nat × Nat)) (pg u : Nat) : Option DataUnit :=
  match groupOf m pg, imgOf m pg with
  | some g, some x =>
    if (pg, u) ∈ lost then
      if (g.parity :: g.pages).any fun y => y.page != pg && decide ((y.page, u) ∈ lost) then none else some (rebuilt m g pg u)
    else (x.units[u]?).map (decipher m)
  | _, _ => none

/-- Images given up; a group that holds no current image goes. -/
def dropImages (l : List ParGroup) (ps : List Nat) : List ParGroup :=
  (l.map fun (g : ParGroup) => { g with live := g.live.filter fun p => !(p ∈ ps) }).filter fun g => !g.live.isEmpty

/-- The channels of a new group: distinct, in rotation (R440, R447). -/
def groupChans (m : Mod) : List Nat := ((upto 32).map fun i => (m.mem.rot + i) % 32).filter (chanTakes m)

/-- A page written to flash as an image on a channel. -/
def imgPage (m : Mod) (pg ch : Nat) (f : Nat → DataUnit) : ImgPage :=
  ⟨pg, ch, (upto 16).map fun u => encipher m (pageTweak pg u) (f u)⟩

/-- One parity group of at most 15 pages written. A group with fewer counts the missing ones as zeros (DESIGN CHOICE). -/
def imageGroup (m : Mod) (ps : List Nat) : Mod :=
  let chs := groupChans m
  let img := ((upto ps.length).zip ps).map fun x => imgPage m x.2 (chs.getD x.1 0) fun u => pageUnit m (x.2 * 16 + u)
  let par := imgPage m m.mem.nextPage (chs.getD ps.length 0) fun u => xorUnits (ps.map fun pg => pageUnit m (pg * 16 + u))
  let m := { m with mem := { m.mem with groups := ⟨img, par, ps⟩ :: dropImages m.mem.groups ps
                                        nextPage := m.mem.nextPage + 1, rot := (m.mem.rot + ps.length + 1) % 32 } }
  (par :: img).foldl (fun m x => bump m ⟨4, .flc, x.ch⟩ 0x50 16) m

/-- The flash images of pages as they stand, in groups of 15; `fuel` bounds the groups. -/
def imageGroups : Nat → List Nat → Mod → Mod
  | 0, _, m => m
  | fuel + 1, ps, m => if ps.isEmpty then m else imageGroups fuel (ps.drop 15) (imageGroup m (ps.take 15))

def imagePages (m : Mod) (ps : List Nat) : Mod := imageGroups ps.length ps m

/-- A page of the module freed for good, its flash image with it. -/
def releasePage (m : Mod) (pg : Nat) : Mod :=
  let m := dropPage m pg
  { m with mem := { m.mem with groups := dropImages m.mem.groups [pg] } }

/-- A page's contents taken from its image; a unit that cannot be read or rebuilt leaves its granules uncorrectable (R422). -/
def loadImage (m : Mod) (lost : List (Nat × Nat)) (pg : Nat) : Mod :=
  (upto 16).foldl (fun m u =>
    let n := pg * 16 + u
    let old := m.mem.cells.filter fun c => !(c.1 / 4096 = n)
    match imageUnit m lost pg u with
    | some x =>
      let bs := ((upto 4096).map fun i => (n * 4096 + i, unitByte x i)).filter fun c => c.2 != 0#8
      { m with mem := { m.mem with cells := bs.foldl (fun c b => cellSet c b.1 b.2) old, ue := m.mem.ue.filter fun a => !(a / 4096 = n) } }
    | none => { m with mem := { m.mem with cells := old, ue := (upto 128).map (fun k => n * 4096 + 32 * k) ++ m.mem.ue.filter fun a => !(a / 4096 = n) } }) m

/-- Whether every page of a range exists and none is retired (R99, R427, R416). -/
def rangeOk (m : Mod) (a n : Nat) : Bool :=
  decide (a + n ≤ devEnd) && (upto ((a + n - 1) / pageSize + 1 - pageNo a)).all fun i =>
    (pageEnt m (pageNo a + i)).isSome && !(pageNo a + i ∈ m.mem.retiredPg)

/-! Leases and Recalls (R463 to R466). -/

/-- The lease the host holds on a line: 0 none, 1 read, 2 write. -/
def leaseOf (m : Mod) (line : Nat) : Nat := ((m.velom.leases.find? fun l => l.line = line).map (·.kind)).getD 0

def setLease (m : Mod) (line kind : Nat) : Mod :=
  let rest := m.velom.leases.filter fun l => l.line != line
  { m with velom := { m.velom with leases := if kind = 0 then rest else rest ++ [⟨line, kind⟩] } }

def recallOf (m : Mod) (line : Nat) : Option RecallRec := m.velom.recalls.find? fun r => r.line = line

/-- An operation waits for a Recall of a line: one in progress, or a new one (R464). -/
def addRecall (m : Mod) (line keep : Nat) (w : Waiter) : Mod :=
  match recallOf m line with
  | some _ =>
    let f (r : RecallRec) : RecallRec := { r with waiters := r.waiters ++ [w] }
    { m with velom := { m.velom with recalls := mapIf (fun r => r.line = line) f m.velom.recalls } }
  | none =>
    let m := bump m vlkP 0x5C
    let m := { m with velom := { m.velom with recalls := m.velom.recalls ++ [⟨line, keep, now m, [w]⟩] } }
    sendMsg m (.recall (line * 64) keep)

/-- Whether a unit of the module must wait before it reads a range: a write lease, or a Recall in progress. -/
def leaseHeld (m : Mod) (a n : Nat) : Bool :=
  let hit (line : Nat) : Bool := line * 64 < a + n && a < line * 64 + 64
  (m.velom.leases.any fun l => l.kind = 2 && hit l.line) || m.velom.recalls.any fun r => hit r.line

/-- The Recalls that a read of a range needs (Table VL-6). -/
def recallRange (m : Mod) (a n : Nat) : Mod :=
  let ls := m.velom.leases.filter fun l => l.kind = 2 && l.line * 64 < a + n && a < l.line * 64 + 64
  ls.foldl (fun m l => if (recallOf m l.line).isSome then m else addRecall m l.line 1 .read) m

/-- A write of a unit of the module within one line: a leased line is recalled first. -/
def unitLine (m : Mod) (a : Nat) (d : List Byte) : Mod :=
  let line := a / 64
  if leaseOf m line != 0 || (recallOf m line).isSome then addRecall m line 0 (.write a d) else writeBytes m a d

/-- A write of a unit of the module, line by line. -/
def unitWrite (m : Mod) (a : Nat) (d : List Byte) : Mod :=
  if d.length = 0 then m
  else (upto ((a + d.length - 1) / 64 + 1 - a / 64)).foldl (fun m i =>
    let lo := max a ((a / 64 + i) * 64)
    let hi := min (a + d.length) ((a / 64 + i + 1) * 64)
    unitLine m lo ((d.drop (lo - a)).take (hi - lo))) m

/-! Output of results and completions. -/

/-- Bytes written where a command's pointer points (R97): a host address by HStore, a device address in device
memory. -/
def writePtr (m : Mod) (ptr : Nat) (d : List Byte) : Mod :=
  if d.length = 0 then m
  else if bitAt ptr 63 then unitWrite m (ptr % 2 ^ 46) d else hostStore m (ptr % 2 ^ 63) d

end Sys2Proof.Machine
end

