-- ==== Sys2Proof/Machine/FrameOps.lean ====
section
/-! DEFINITION. Fabric frames: their header and checks (R479, R480), routing and sending (R482, R488 to R492), and the
answer to a remote search (R497). -/

namespace Sys2Proof.Machine

/-! Header fields (Table FB-1). -/

def fType (f : Frame) : Nat := bits f.hdr.toNat 0 8
def fDst (f : Frame) : Nat := bits f.hdr.toNat 8 12
def fSrc (f : Frame) : Nat := bits f.hdr.toNat 20 12
def fTtl (f : Frame) : Nat := bits f.hdr.toNat 32 8
def fVc (f : Frame) : Nat := bits f.hdr.toNat 40 2
def fLen (f : Frame) : Nat := bits f.hdr.toNat 42 5
def fPart (f : Frame) : Nat := bits f.hdr.toNat 48 16
def fTag (f : Frame) : Nat := bits f.hdr.toNat 64 32
def fCrc (f : Frame) : Nat := bits f.hdr.toNat 96 32

def setHdr (f : Frame) (lo n v : Nat) : Frame := { f with hdr := BitVec.ofNat 128 (setBits f.hdr.toNat lo n v) }

/-- The vc and the routing of a type (Table FB-2): 3 marks a reserved type. -/
def typeVc : Nat → Nat
  | 0x01 | 0x03 | 0x05 | 0x06 | 0x08 | 0x09 => 0
  | 0x10 | 0x12 => 1
  | 0x02 | 0x04 | 0x07 | 0x11 | 0x13 | 0x14 => 2
  | _ => 3
def pathRouted (t : Nat) : Bool := 1 ≤ t && t ≤ 4

/-- Whether a frame has a reserved type or field (Table FB-1, Table FB-2). -/
def frameBad (f : Frame) : Bool :=
  typeVc (fType f) = 3 || fVc f != typeVc (fType f) || 16 < fLen f || f.data.length != fLen f

/-- The bytes that e2e_crc covers: e2e_crc, ttl and the path slots count as 0 (R479). -/
def crcBytes (f : Frame) : List Byte :=
  let h := setBits (setBits f.hdr.toNat 32 8 0) 96 32 0
  let ds := f.data.map fun d => toBytes d.toNat 16
  let ds := if pathRouted (fType f) then List.replicate (min 2 ds.length) (toBytes 0 16) ++ ds.drop 2 else ds
  toBytes h 16 ++ ds.flatten

def crcOk (f : Frame) : Bool := fCrc f = (crc32c (crcBytes f)).toNat
def sealFrame (f : Frame) : Frame := setHdr f 96 32 (crc32c (crcBytes f)).toNat

/-- The address this module puts in src, 0xFFF while unassigned. -/
def ownNode (m : Mod) : Nat := m.fab.node.getD 0xFFF

def fabCfg (m : Mod) : Nat := regN m fabP 0x4C

/-- A new frame of this module. -/
def mkFrame (m : Mod) (ty dst tag part : Nat) (last : Bool) (data : List (BitVec 128)) : Frame :=
  let h := ty + dst % 4096 * 2 ^ 8 + ownNode m * 2 ^ 20 + bits (fabCfg m) 8 8 * 2 ^ 32 + typeVc ty * 2 ^ 40 + data.length * 2 ^ 42
    + bN last * 2 ^ 47 + part * 2 ^ 48 + tag % 2 ^ 32 * 2 ^ 64
  sealFrame ⟨BitVec.ofNat 128 h, data⟩

/-- Bytes as data slots. -/
def slotsOf (bs : List Byte) : List (BitVec 128) :=
  let p := padTo 16 bs
  (upto (p.length / 16)).map fun i => BitVec.ofNat 128 (ofBytes ((p.drop (16 * i)).take 16))

/-! Ports. -/

def portP (n : Nat) : Page := ⟨4, .fab, n⟩
def portOf (m : Mod) (n : Nat) : Option Port := m.fab.ports.find? fun p => p.no = n
def setPort (m : Mod) (p : Port) : Mod :=
  { m with fab := { m.fab with ports := mapIf (fun x => x.no = p.no) (fun _ => p) m.fab.ports } }

/-- One frame on an ACTIVE port: sent where the credit of its vc allows, else waiting (R482, R501). -/
def portSend (m : Mod) (n : Nat) (f : Frame) : Mod :=
  match portOf m n with
  | none => m
  | some p =>
    if p.link.st != 3 then m
    else if p.queue.any fun q => fVc q.1 = fVc f then setPort m { p with queue := p.queue ++ [(f, now m)] }
    else match linkSend p.link (fVc f) (1 + f.data.length) with
    | some l =>
      let m := setPort m { p with link := l }
      bump { m with fab := { m.fab with out := m.fab.out ++ [(n, f)] } } (portP n) 0x4C
    | none => setPort m { p with queue := p.queue ++ [(f, now m)] }

/-- Waiting frames of a port sent as far as credit allows; what still waits keeps its tick. -/
def portFlush (m : Mod) (n : Nat) : Mod :=
  match portOf m n with
  | none => m
  | some p =>
    let m := p.queue.foldl (fun m q => portSend m n q.1) (setPort m { p with queue := [] })
    match portOf m n with
    | none => m
    | some p' =>
      let since (f : Frame) : Nat := ((p.queue.find? fun q => q.1 = f).map (·.2)).getD (now m)
      setPort m { p' with queue := p'.queue.map fun q => (q.1, since q.1) }

/-! Routing (R488, R489). -/

def routeGet (t : List (Nat × Nat)) (d : Nat) : Nat := mapGet (fun _ => 0) t d

/-- The next hops of an entry whose ports are ACTIVE and forward. -/
def liveHops (m : Mod) (e : Nat) : List Nat :=
  ((upto (min 4 (bits e 16 3))).map fun i => bits e (4 * i) 4).filter fun n => (portOf m n).any fun p => p.link.st = 3 && p.fwd

/-- The bytes of src, dst and tag that choose a next hop. -/
def hopHash (f : Frame) : Nat := (crc32c (toBytes (fSrc f) 2 ++ toBytes (fDst f) 2 ++ toBytes (fTag f) 4)).toNat

def inboxPut (m : Mod) (f : Frame) : Mod :=
  if bitAt (fabCfg m) 17 && m.fab.inbox.length < 64 then { m with fab := { m.fab with inbox := m.fab.inbox ++ [f] } } else m

/-- A frame sent on the next hop of an address; none leaves it undelivered. -/
def hopSend (m : Mod) (f : Frame) : Option Mod :=
  match liveHops m (routeGet m.fab.table (fDst f)) with
  | [] => none
  | u => some (portSend m (u.getD (hopHash f % u.length) 0) f)

/-- The UNREACH for a dropped frame, to its source (R492). -/
def unreachFor (m : Mod) (f : Frame) : Mod :=
  if fType f = 0x14 then m
  else
    let x := mkFrame m 0x14 (fSrc f) (fTag f) 0 true (slotsOf (toBytes (fDst f) 4 ++ toBytes (fTag f) 4))
    if m.fab.node = some (fSrc f) then { m with fab := { m.fab with self := m.fab.self ++ [x] } }
    else match hopSend m x with
    | some m => bump m fabP 0x80
    | none => m

/-- An address-routed frame of this module sent (R489, R492); one for this module's own host goes to the mailbox. -/
def sendAddr (m : Mod) (f : Frame) : Mod :=
  if m.fab.node = some (fDst f) then inboxPut m f
  else match hopSend m f with
  | some m => m
  | none => unreachFor m f

/-- A NOTICE to the master (Table FB-2): its code, the port, and FAB_PORT_NEIGH. -/
def notice (m : Mod) (code port neigh : Nat) : Mod :=
  if m.fab.node.isNone then m
  else sendAddr m (mkFrame m 0x08 m.fab.master 0 0 true (slotsOf (toBytes code 1 ++ toBytes port 1 ++ toBytes 0 2 ++ toBytes neigh 4)))

/-! The answer to a remote search (R497). Its payload's layout is the log's choice. -/

/-- Outcome: 0 admitted, 1 admitted at reduced effort, 2 shed, 3 ended. -/
def sendPart (m : Mod) (node tag outcome status gen pred : Nat) (ents : List (List Byte)) : Mod :=
  let n := ceilDiv ents.length 16
  let head := slotsOf (toBytes outcome 1 ++ toBytes status 1 ++ toBytes 0 2 ++ toBytes gen 4 ++ toBytes pred 4)
  let m := sendAddr m (mkFrame m 0x11 node tag 0 (n = 0) head)
  (upto n).foldl (fun m i =>
    sendAddr m (mkFrame m 0x11 node tag (i + 1) (i + 1 = n) (slotsOf (((ents.drop (16 * i)).take 16).flatten)))) m

end Sys2Proof.Machine
end

