-- ==== Sys2Proof/Machine/ChuteOps.lean ====
section
/-! DEFINITION. The named operations on chutes: doorbells, creation and teardown, and the writing of completion
entries (chapter 03). -/

namespace Sys2Proof.Machine

def chuteOf (m : Mod) (n : Nat) : Option ChuteRec := m.chutes.find? fun c => c.no = n

def setChute (m : Mod) (c : ChuteRec) : Mod := { m with chutes := mapIf (fun x => x.no = c.no) (fun _ => c) m.chutes }

def sqDepth (c : ChuteRec) : Nat := 2 ^ bits c.geom.toNat 0 5
def cqDepth (c : ChuteRec) : Nat := 2 ^ bits c.geom.toNat 8 5

def cmdOf (m : Mod) (id : Nat) : Option Cmd := m.cmds.find? fun c => c.id = id

def setCmd (m : Mod) (c : Cmd) : Mod := { m with cmds := mapIf (fun x => x.id = c.id) (fun _ => c) m.cmds }

def chuteCmds (m : Mod) (n : Nat) : List Cmd := m.cmds.filter fun c => c.chute = some n

/-- Header fields of Table CH-1. -/
def opcodeOf (e : BitVec 512) : Nat := fld e 0 1
def classOf (e : BitVec 512) : Nat := bits (fld e 1 1) 0 2
def elastic (e : BitVec 512) : Bool := bitAt (fld e 1 1) 2
def fenceBefore (e : BitVec 512) : Bool := bitAt (fld e 1 1) 3
def noEvent (e : BitVec 512) : Bool := bitAt (fld e 1 1) 4
def collId (e : BitVec 512) : Nat := fld e 2 2
def cmdTag (e : BitVec 512) : Nat := fld e 4 4
def deadlineOf (e : BitVec 512) : Nat := fld e 8 3
def genField (e : BitVec 512) : Nat := fld e 12 4

/-- The rejected doorbell recorded in CHU_DB_ERR, and the block event raised (R67, R96). -/
def dbErr (m : Mod) (chute cause : Nat) (cq : Bool) : Mod :=
  blockEvt (setRegN m chuP 0x80 (chute * 2 ^ 20 + cause * 2 ^ 18 + bN cq * 2 ^ 17)) chuP

/-- A submission doorbell (R66, R67, R660). -/
def sqDoorbell (m : Mod) (n index : Nat) : Mod :=
  match chuteOf m n with
  | none => dbErr m n 1 false
  | some c =>
    let d := sqDepth c
    let slots := (upto ((index + d - c.tail) % d)).map fun i => (c.tail + i) % d
    if c.draining then dbErr m n 2 false
    else if d ≤ index then dbErr m n 3 false
    else if slots.any fun s => decide (s ∈ c.valid) then dbErr m n 3 false
    else if d < c.valid.length + slots.length then dbErr m n 3 false
    else setChute m { c with tail := index, valid := c.valid ++ slots, wait := c.wait ++ slots.map fun s => (s, now m) }

/-- A completion doorbell (R96): entries below the new head are released, and with them their records (R516). -/
def cqDoorbell (m : Mod) (n index : Nat) : Mod :=
  match chuteOf m n with
  | none => dbErr m n 1 true
  | some c =>
    let d := cqDepth c
    let step := (index + d - c.released % d) % d
    if d ≤ index then dbErr m n 3 true
    else if c.written < c.released + step then dbErr m n 3 true
    else setChute m { c with released := c.released + step, rel := c.rel.filter fun r => c.released + step ≤ r.1 }

/-- Whether a ring's address may be used (R61, R97). -/
def ringOk (m : Mod) (dev : Bool) (base size : Nat) : Bool :=
  base % 4096 = 0 &&
  if dev then
    decide (base + size ≤ devEnd) &&
    (upto (pageNo (base + size - 1) + 1 - pageNo base)).all fun i =>
      match pageEnt m (pageNo base + i) with
      | some e => e.bench = 0
      | none => false
  else decide (base + size ≤ 2 ^ 63)

/-- The pages of a chute's rings in bench 0. -/
def ringPgs (c : ChuteRec) : List Nat :=
  let pgs (dev : Bool) (base size : Nat) : List Nat :=
    if dev then (upto (pageNo (base + size - 1) + 1 - pageNo base)).map (pageNo base + ·) else []
  pgs (bitAt c.geom.toNat 31) c.sqBase.toNat (64 * sqDepth c) ++ pgs (bitAt c.geom.toNat 30) c.cqBase.toNat (32 * cqDepth c)

/-- The ring flag of a page set or cleared (R61, R431). -/
def markRing (on : Bool) (m : Mod) (pg : Nat) : Mod :=
  match pageEnt m pg with
  | some e => setEnt m { e with ring := on }
  | none => m

/-- A page that takes a ring moves no more: a move of it that has not switched is abandoned (R61, R433). -/
def holdRing (m : Mod) (pg : Nat) : Mod :=
  let m := match moveOf m pg with
    | some v => abandonMove m v
    | none => m
  markRing true m pg

/-- CHU_CMD_STAT (Table CH-7). -/
def cmdStat (m : Mod) (busy : Bool) (res chute : Nat) : Mod :=
  setRegN m chuP 0x4C (bN busy * 2 ^ 31 + res * 2 ^ 28 + chute)

/-- Whether CHU_CMD acts: the CHU page is enabled, which DECOMMISSIONED and the time before ready forbid (R589,
R618). -/
def chuOn (m : Mod) : Bool := m.inited && m.sec.lc != 4

def pairReg (m : Mod) (p : Page) (lo : Nat) : Nat := regN m p lo + regN m p (lo + 4) * 2 ^ 32

/-- CREATE (R60 to R63, R611). -/
def chuteCreate (m : Mod) (n : Nat) : Mod :=
  if !chuOn m then m
  else match chuteOf m n with
  | some c => cmdStat m false (if c.draining then 5 else 1) n
  | none =>
    let g := getReg m chuP 0x60
    let sq := bits g.toNat 0 5
    let cq := bits g.toNat 8 5
    let sqb := pairReg m chuP 0x50
    let cqb := pairReg m chuP 0x58
    let testing := match m.mgt.test with
      | some (mode, _) => mode = 2 || mode = 3 || mode = 5
      | none => false
    if testing then cmdStat m false 1 n
    else if !(4 ≤ sq && sq ≤ cq && cq ≤ 16) then cmdStat m false 2 n
    else if !(ringOk m (bitAt g.toNat 31) sqb (64 * 2 ^ sq) && ringOk m (bitAt g.toNat 30) cqb (32 * 2 ^ cq)) then
      cmdStat m false 3 n
    else
      let c : ChuteRec := ⟨n, false, BitVec.ofNat 64 sqb, BitVec.ofNat 64 cqb, g, getReg m chuP 0x64, 0, [], [], 0, 0,
        0, none, [], none⟩
      let m := (ringPgs c).foldl holdRing m
      cmdStat { m with chutes := insertBy (fun a b => decide (a.no < b.no)) c m.chutes } false 0 n

/-- QUERY loads the staging registers from an existing chute (Table CH-6). -/
def chuteQuery (m : Mod) (n : Nat) : Mod :=
  if !chuOn m then m
  else match chuteOf m n with
  | none => cmdStat m false 4 n
  | some c =>
    let m := setRegN m chuP 0x50 (c.sqBase.toNat % 2 ^ 32)
    let m := setRegN m chuP 0x54 (c.sqBase.toNat / 2 ^ 32)
    let m := setRegN m chuP 0x58 (c.cqBase.toNat % 2 ^ 32)
    let m := setRegN m chuP 0x5C (c.cqBase.toNat / 2 ^ 32)
    let m := setReg m chuP 0x60 c.geom
    cmdStat (setReg m chuP 0x64 c.evt) false 0 n

/-- A chute whose last completion is written becomes free (R64). -/
def chuteFree (m : Mod) (n : Nat) : Mod :=
  match chuteOf m n with
  | none => m
  | some c =>
    if c.draining && (chuteCmds m n).isEmpty && c.wait.isEmpty then
      let m := { m with chutes := m.chutes.filter fun x => x.no != n }
      let kept := m.chutes.flatMap ringPgs
      let m := ((ringPgs c).filter fun p => !(p ∈ kept)).foldl (markRing false) m
      if bits (regN m chuP 0x4C) 0 12 = n && bitAt (regN m chuP 0x4C) 31 then cmdStat m false 0 n else m
    else m

/-! Completions. -/

/-- What a completion reports beside what the command holds. -/
structure Fin where
  status : Nat
  info   : Nat := 0
  count  : Nat := 0
  crc    : Nat := 0
  short  : Bool := false
  gen    : Option Nat := none

/-- The 32 bytes of a completion entry (Table CH-2). -/
def cqEntry (m : Mod) (c : Cmd) (ch : ChuteRec) (f : Fin) : List Byte :=
  let phase := 1 - ch.written / cqDepth ch % 2
  let gen := f.gen.getD c.gen
  toBytes (cmdTag c.entry) 4 ++ toBytes ch.no 2 ++ toBytes f.status 1 ++
  toBytes (bN f.short * 4 + bN c.replayed * 2) 1 ++ toBytes gen 4 ++ toBytes f.count 4 ++ toBytes f.crc 4 ++
  toBytes f.info 4 ++ toBytes (now m) 4 ++ toBytes (now m / 2 ^ 32) 3 ++ toBytes phase 1

/-- Event coalescing after one completion (Table CH-9). -/
def coalesce (m : Mod) (c : Cmd) (ch : ChuteRec) : Mod :=
  let v := ch.evt.toNat
  if !bitAt v 31 || noEvent c.entry then setChute m ch
  else if bits v 8 8 ≤ ch.counted + 1 then
    sendEvt (setChute m { ch with counted := 0, first := none }) (bits v 16 12)
  else setChute m { ch with counted := ch.counted + 1, first := some (ch.first.getD (now m)) }

/-- Sums of two lists of pool costs, and the remainder when one is given back. -/
def addCost (a b : List Nat) : List Nat := (upto 16).map fun p => a.getD p 0 + b.getD p 0
def subCost (a b : List Nat) : List Nat := (upto 16).map fun p => a.getD p 0 - b.getD p 0

/-- A command leaves the module: its cost leaves the pools, its reserved tags return, its pages wait to be freed
no longer, and its record is gone (R74, R520). -/
def retireCmd (m : Mod) (c : Cmd) : Mod :=
  let bulk := classOf c.entry = 3
  let adm := if c.admitted then
      { m.adm with backlog := subCost m.adm.backlog c.cost, bulk := if bulk then subCost m.adm.bulk c.cost else m.adm.bulk }
    else m.adm
  { m with adm := adm, resv := m.resv - c.tags, cmds := m.cmds.filter fun x => x.id != c.id }

/-- Vectors stored by a command that completes DONE, for PWR_DOCS (R550). -/
def countDocs (m : Mod) (c : Cmd) (f : Fin) : Mod :=
  if f.status = 0 && opcodeOf c.entry ∈ [0x10, 0x11, 0x14, 0x21] then { m with pwr := { m.pwr with docs := m.pwr.docs + f.count } } else m

/-- The lowest lsn among the records of a host command (R516). -/
def cmdLsn (m : Mod) (c : Cmd) : Option Nat :=
  if c.chute.isSome then (m.ledger.records.find? fun r => r.cmd = some c.id).map (·.lsn) else none

/-- The completion of a command: its entry written, its slot no longer valid, its event counted (R59, R73, R88).
An internal job writes none; a request
of the fabric answers its node (R497). -/
def finish (m : Mod) (c : Cmd) (f : Fin) : Mod :=
  let m := countDocs (retireCmd m c) c f
  let m := match c.origin with
    | some (node, tag) => sendPart m node tag (if f.status = 0x10 then 2 else 3) f.status c.gen f.info []
    | none => m
  match c.chute.bind (chuteOf m) with
  | none => m
  | some ch =>
    let e := cqEntry m c ch f
    let at' := ch.cqBase.toNat + 32 * (ch.written % cqDepth ch)
    let m := if bitAt ch.geom.toNat 30 then unitWrite m at' e else hostStore m at' e
    coalesce m c { ch with
      written := ch.written + 1, doneAt := some (now m)
      valid := ch.valid.filter (· != c.slot)
      rel := ch.rel ++ (match cmdLsn m c with | some l => [(ch.written, l)] | none => []) }

/-- Whether results can be written at a command's pointer at once: no lease or Recall stands on their lines (R464), and no
running drill owns a granule of theirs (R359). -/
def outReady (m : Mod) (ptr n : Nat) : Bool :=
  let a := ptr % 2 ^ 46
  !bitAt ptr 63 || n = 0 ||
  ((upto ((a + n - 1) / 64 + 1 - a / 64)).all (fun i => leaseOf m (a / 64 + i) = 0 && (recallOf m (a / 64 + i)).isNone) &&
   (upto ((a + n - 1) / 32 + 1 - a / 32)).all fun i => (ownerOf m ((a / 32 + i) * 32)).isNone)

/-- The Recalls that the results wait for: a command writes its results before its completion entry (R73). -/
def outClaim (m : Mod) (ptr n : Nat) : Mod :=
  let a := ptr % 2 ^ 46
  (upto ((a + n - 1) / 64 + 1 - a / 64)).foldl (fun m i =>
    let line := a / 64 + i
    if leaseOf m line != 0 && (recallOf m line).isNone then addRecall m line 0 .claim else m) m

/-- Whether a command's results are still on their way: a write into its buffer waits for a Recall or a drill. -/
def outHeld (m : Mod) (ptr n : Nat) : Bool :=
  let a := ptr % 2 ^ 46
  let hit (lo size : Nat) : Bool := lo < a + n && a < lo + size
  bitAt ptr 63 &&
  ((m.velom.recalls.any fun r => r.waiters.any fun w => match w with
    | .write lo d => hit lo d.length
    | _ => false) || m.drills.any fun d => d.held.any fun h => hit h.1 32)

/-- A completion that writes no results (R132). -/
def finishBad (m : Mod) (c : Cmd) (status info : Nat) : Mod := finish m c { status := status, info := info }

/-- DESTROY (R64): every valid entry that was not admitted completes with ABORTED, info 1. -/
def chuteDestroy (m : Mod) (n : Nat) : Mod :=
  if !chuOn m then m
  else match chuteOf m n with
  | none => cmdStat m false 4 n
  | some c =>
    if c.draining then cmdStat m false 5 n
    else
      let m := cmdStat (setChute m { c with draining := true }) true 0 n
      let m := ((chuteCmds m n).filter fun x => !x.admitted).foldl (fun m x => finishBad m x 0x12 1) m
      chuteFree m n

/-- The coalescing timer of a chute runs out (Table CH-9). -/
def coalesceTimer (m : Mod) (n : Nat) : Mod :=
  match chuteOf m n with
  | none => m
  | some ch =>
    match ch.first with
    | none => m
    | some t =>
      if bits ch.evt.toNat 0 8 != 0 && t + bits ch.evt.toNat 0 8 ≤ now m then
        sendEvt (setChute m { ch with counted := 0, first := none }) (bits ch.evt.toNat 16 12)
      else m

/-- The release mark (R516). -/
def releaseMark (m : Mod) : Nat :=
  let open' := m.cmds.filterMap (cmdLsn m)
  let unrel := m.chutes.flatMap fun c => c.rel.map (·.2)
  (open' ++ unrel).foldl min m.ledger.next

end Sys2Proof.Machine
end

