-- ==== Sys2Proof/Machine/IndexOps.lean ====
section
/-! DEFINITION. The named operations on collections: vectors and scores (chapter 02), PQ codes (chapter 05),
predicates and histograms (chapter 06), liveness, tombstones and the tailings mirror (chapter 07). -/

namespace Sys2Proof.Machine
open Fp

/-! Collections. -/

/-- The shard of a collection ID that exists (R106). -/
def collOf (m : Mod) (id : Nat) : Option Coll := m.colls.find? fun c => c.id = id && c.made && !c.dropped

/-- The shard's record whatever its state, for work pinned to it (R25). -/
def shardOf (m : Mod) (id : Nat) : Option Coll := m.colls.find? fun c => c.id = id

def setColl (m : Mod) (c : Coll) : Mod := { m with colls := mapIf (fun x => x.id = c.id) (fun _ => c) m.colls }

def genOf (c : Coll) (g : Nat) : Option Gen := c.gens.find? fun x => x.no = g

def genDflt : Gen := ⟨0, [], 0#32, 0, none, false⟩
def curGen (c : Coll) : Gen := (genOf c c.cur).getD genDflt

def segOf (g : Gen) (s : Nat) : Option Segment := g.segs.find? fun x => x.no = s

/-- What names a segment in an instance: its number, with the page its vectors start at, which tells a number's earlier
segment from one built again while an older generation still holds the earlier (R248, R261). -/
def segId (s : Segment) : Nat := s.no + 256 * (s.base / 65536)
def segById (g : Gen) (i : Nat) : Option Segment := g.segs.find? fun x => segId x = i

def setGen (c : Coll) (g : Gen) : Coll := { c with gens := mapIf (fun x => x.no = g.no) (fun _ => g) c.gens }

/-- A segment flagged degraded, or no longer, in every generation of its shard (R153, R422). -/
def markSeg (m : Mod) (cid no : Nat) (v : Bool) : Mod :=
  let f (s : Segment) : Segment := if s.no = no then { s with degraded := v } else s
  match shardOf m cid with
  | none => m
  | some c => setColl m { c with gens := c.gens.map fun g => { g with segs := g.segs.map f }, built := c.built.map f }

/-- Serial order of stockpile positions (R229). -/
def posLt (a b : Word) : Bool := let d := (b - a).toNat; 1 ≤ d && d < 2 ^ 31
def posLe (a b : Word) : Bool := a = b || posLt a b

/-- The stockpile floor and the free entry count (R231). -/
def floorOf (c : Coll) : Word :=
  match c.gens with
  | [] => c.tail
  | g :: gs => gs.foldl (fun w x => if posLt x.mark w then x.mark else w) g.mark

def stockCap (c : Coll) : Nat := 2 ^ c.stockLog2
def stockUsed (c : Coll) : Nat := (c.tail - floorOf c).toNat
def stockFree (c : Coll) : Nat := stockCap c - stockUsed c

def entryAt (c : Coll) (p : Word) : Option SEntry := c.stock.find? fun e => e.pos = p

/-! Vectors (R34 to R43). -/

/-- The fp32 values of a vector of codes. -/
def expandVec (ty : Nat) (v : List Word) : List Word := v.map (expand ty)

/-- Whether a code of an element type is NaN or infinite. -/
def codeBad (ty : Nat) (c : Word) : Bool := !isFinite (expand ty c)

/-- The fp32 sum of squares, in element order, that may be infinite (R36, R38). -/
def sumSq (v : List Word) : Word := v.foldl (fun s x => fadd s (fmul x x)) 0#32

/-- A vector's codes in the element type (R35). -/
def convertVec (inFp32 : Bool) (ty : Nat) (v : List Word) : List Word :=
  if inFp32 then v.map (narrow ty) else v

/-- Whether R36 rejects a vector to be stored. -/
def vecBad (inFp32 : Bool) (ty dist : Nat) (v : List Word) : Bool :=
  (v.any fun x => if inFp32 then !isFinite x else codeBad ty x) ||
  (inFp32 && v.any fun x => narrowOverflows ty x) ||
  (dist = 2 && let n := sumSq (expandVec ty (convertVec inFp32 ty v)); isZero n || !isFinite n)

/-- Whether R36 rejects a query. -/
def queryBad (inFp32 : Bool) (ty dist : Nat) (v : List Word) : Bool :=
  (v.any fun x => if inFp32 then !isFinite x else codeBad ty x) ||
  (dist = 2 && let n := sumSq (if inFp32 then v else expandVec ty v); isZero n || !isFinite n)

/-- What is stored of a vector: its codes and its norm (R35, R38). -/
def storeVec (inFp32 : Bool) (ty dist : Nat) (v : List Word) : List Word × Word :=
  let c := convertVec inFp32 ty v
  if dist = 2 then
    let n := fsqrt (sumSq (expandVec ty c))
    ((expandVec ty c).map fun x => narrow ty (fdiv x n), n)
  else (c, 0#32)

/-- The fp32 query a search holds (R40). -/
def holdQuery (inFp32 : Bool) (ty dist : Nat) (v : List Word) : List Word :=
  let q := if inFp32 then v else expandVec ty v
  if dist = 2 then let n := fsqrt (sumSq q); q.map fun x => fdiv x n else q

/-- Saturating accumulation in element order (R41, R152). -/
def dotSat (a b : List Word) : Word := (a.zip b).foldl (fun s p => sadd s (smul p.1 p.2)) 0#32
def l2Sat (a b : List Word) : Word :=
  (a.zip b).foldl (fun s p => let x := ssub p.1 p.2; sadd s (smul x x)) 0#32

def oneW : Word := 0x3F800000#32

/-! Whether an operation of a score saturates (R41). -/

def addOver (a b : Word) : Bool := overflows f32 (add (val a) (val b))
def mulOver (a b : Word) : Bool := overflows f32 (mul (val a) (val b))

/-- Whether an accumulation saturates at any of its products and sums. -/
def dotOver (a b : List Word) : Bool :=
  ((a.zip b).foldl (fun (s : Word × Bool) p => let x := smul p.1 p.2; (sadd s.1 x, s.2 || mulOver p.1 p.2 || addOver s.1 x))
    (0#32, false)).2
def l2Over (a b : List Word) : Bool :=
  ((a.zip b).foldl (fun (s : Word × Bool) p =>
    let x := ssub p.1 p.2
    let y := smul x x
    (sadd s.1 y, s.2 || addOver p.1 (fneg p.2) || mulOver x x || addOver s.1 y)) (0#32, false)).2

def exactOver (dist : Nat) (q x : List Word) : Bool :=
  match dist with
  | 0 => l2Over q x
  | 1 => dotOver q x
  | _ => dotOver q x || addOver oneW (fneg (dotSat q x))

/-- The exact score of Table CV-3 from the fp32 query and the fp32-expanded stored elements. -/
def exactScore (dist : Nat) (q x : List Word) : Word :=
  match dist with
  | 0 => l2Sat q x
  | 1 => fneg (dotSat q x)
  | _ => ssub oneW (dotSat q x)

/-! PQ codes and distance tables (R135 to R138). -/

/-- Length and start of sub-space `j` (R135). -/
def subLen (d m j : Nat) : Nat := d / m + (if j < d % m then 1 else 0)
def subStart (d m j : Nat) : Nat := j * (d / m) + min j (d % m)

def subOf (d m j : Nat) (v : List Word) : List Word := (v.drop (subStart d m j)).take (subLen d m j)

/-- A table entry in fp32 (R136). -/
def tableEntry (dist : Nat) (q c : List Word) : Word :=
  match dist with
  | 0 => l2Sat q c
  | _ => fneg (dotSat q c)

/-- Whether a table entry saturates (R137). -/
def entryOver (dist : Nat) (q c : List Word) : Bool := if dist = 0 then l2Over q c else dotOver q c

/-- Exponent of the leading bit of a non-zero finite word. -/
def expOf (w : Word) : Int :=
  match val w with
  | .fin _ m e => (Nat.log2 m : Int) + e
  | _ => 0

/-- `w * 2^s`, exactly. -/
def scaled (w : Word) (s : Int) : FVal :=
  match val w with
  | .fin n m e => .fin n m (e + s)
  | v => v

/-- The distance table as fp16 codes with its scale exponent, and whether an entry saturated (R137). -/
def buildTable (dist d m : Nat) (q : List Word) (book : List (List (List Word))) : List (List Nat) × Int × Bool :=
  let es := (upto m).map fun j => (book.getD j []).map fun c => tableEntry dist (subOf d m j q) c
  let nz := es.flatten.filter fun w => !isZero w
  let s : Int := match nz with
    | [] => 0
    | w :: ws => 14 - ws.foldl (fun e x => max e (expOf x)) (expOf w)
  let sat := (upto m).any fun j => (book.getD j []).any fun c => entryOver dist (subOf d m j q) c
  (es.map fun l => l.map fun w => roundTo f16 .toInf (scaled w s), s, sat)

/-- The PQ score of a node's code (R138). -/
def pqScore (dist : Nat) (table : List (List Nat)) (s : Int) (code : List Nat) : Word :=
  let sum := (code.zip table).foldl (fun a p => sadd a (toW (decode f16 (p.2.getD p.1 0)))) 0#32
  let v := satW (scaled sum (-s))
  if dist = 2 then sadd v oneW else v

/-- Whether a PQ score saturates at any of its operations (R41). -/
def pqOver (dist : Nat) (table : List (List Nat)) (s : Int) (code : List Nat) : Bool :=
  let r := (code.zip table).foldl (fun (a : Word × Bool) p =>
    let x := toW (decode f16 (p.2.getD p.1 0))
    (sadd a.1 x, a.2 || addOver a.1 x)) (0#32, false)
  r.2 || overflows f32 (scaled r.1 (-s)) || (dist = 2 && addOver (satW (scaled r.1 (-s))) oneW)

/-- The nearest centroid of a sub-vector, the lowest index among equals. -/
def nearest (c : List (List Word)) (v : List Word) : Nat :=
  let scored := c.map fun x => l2Sat v x
  match scored with
  | [] => 0
  | w :: ws => (ws.foldl (fun (acc : Nat × Nat × Word) x =>
      if flt x acc.2.2 then (acc.1 + 1, acc.1 + 1, x) else (acc.1 + 1, acc.2.1, acc.2.2)) (0, 0, w)).2.1

/-- The PQ code of a stored vector under a segment's codebook (R242). -/
def pqCode (d m : Nat) (book : List (List (List Word))) (x : List Word) : List Nat :=
  (upto m).map fun j => nearest (book.getD j []) (subOf d m j x)

/-! Riddle order (R177). -/

/-- The 96-bit order key. -/
def orderKey (score : Word) (key : DWord) : Nat :=
  let b := if score = 0x80000000#32 then 0#32 else score
  let s := if isNan b then 0xFFFFFFFF else if 2 ^ 31 ≤ b.toNat then 0xFFFFFFFF - b.toNat else b.toNat + 2 ^ 31
  s * 2 ^ 64 + key.toNat

def entLt (a b : REnt) : Bool := orderKey a.score a.key < orderKey b.score b.key

/-- Queue and walk-list order (R140). -/
def qLt (a b : QEnt) : Bool :=
  decide (ordInt a.score < ordInt b.score) || (decide (ordInt a.score = ordInt b.score) && a.node < b.node)

/-- The 16 bytes of a result entry (Table CV-5); a score of −0 is emitted as +0. -/
def entBytes (key : DWord) (score : Word) (flags : Byte) (gen : Nat) : List Byte :=
  toBytes key.toNat 8 ++ toBytes (if score = 0x80000000#32 then 0 else score.toNat) 4 ++ toBytes flags.toNat 1 ++
  toBytes gen 3

/-- The padding entry (R49). -/
def padBytes (gen : Nat) : List Byte := entBytes (0#64 - 1#64) 0x7F800000#32 0#8 gen

/-! Predicates (R159 to R165). -/

def attrTags (a : BitVec 128) : Nat := bits a.toNat 0 64
def attrRa (a : BitVec 128) : Nat := bits a.toNat 64 16
def attrRb (a : BitVec 128) : Nat := bits a.toNat 80 16
def attrVal (a : BitVec 128) : Nat := bits a.toNat 96 32

/-- An attribute word with the fields a schema does not enable stored as zero (R44). -/
def maskAttr (enable : Nat) (a : BitVec 128) : BitVec 128 :=
  BitVec.ofNat 128 ((if bitAt enable 0 then attrTags a else 0) + (if bitAt enable 1 then attrRa a else 0) * 2 ^ 64
    + (if bitAt enable 2 then attrRb a else 0) * 2 ^ 80 + (if bitAt enable 3 then attrVal a else 0) * 2 ^ 96)

/-- A 16-bit range value in comparison order: signed values offset (R161, R166). -/
def rangeOrd (signed : Bool) (x : Nat) : Nat := if signed then x ^^^ 0x8000 else x

def isTagTerm (t : Term) : Bool := t.kind < 3

/-- The schema bit that enables a term's field. -/
def termField (t : Term) : Nat := if t.kind < 3 then 0 else t.kind - 2

def termOn (enable : Nat) (t : Term) : Bool := bitAt enable (termField t)

/-- Table SR-2 on an attribute word, before inversion. -/
def kindTest (enable signed : Nat) (t : Term) (a : BitVec 128) : Bool :=
  let tags := if bitAt enable 0 then attrTags a else 0
  let inR (sg : Bool) (x : Nat) : Bool :=
    rangeOrd sg (bits t.opnd 0 16) ≤ rangeOrd sg x && rangeOrd sg x ≤ rangeOrd sg (bits t.opnd 16 16)
  match t.kind with
  | 0 => tags &&& t.opnd != 0
  | 1 => tags &&& t.opnd = t.opnd
  | 2 => tags &&& t.opnd = 0
  | 3 => bitAt enable 1 && inR (bitAt signed 0) (attrRa a)
  | 4 => bitAt enable 2 && inR (bitAt signed 1) (attrRb a)
  | _ => bitAt enable 3 && attrVal a = bits t.opnd 0 32

def termTest (enable signed : Nat) (t : Term) (a : BitVec 128) : Bool :=
  let v := kindTest enable signed t a
  if t.invert && !isTagTerm t && termOn enable t then !v else v

/-- The predicate on an attribute word (R162). -/
def filterTest (enable signed : Nat) (f : List Term) (a : BitVec 128) : Bool :=
  (upto 8).any fun g =>
    let ts := f.filter fun t => t.group = g
    !ts.isEmpty && ts.all fun t => termTest enable signed t a

/-- A filter block read and checked (R159, R160): its terms, or the index R160 reports. -/
def parseFilter (signed : Option Nat) (b : List Byte) : Except Nat (List Term) :=
  let at' (i : Nat) : Nat := (b.getD i 0#8).toNat
  let n := at' 0
  if n < 1 || 8 < n || (upto 15).any (fun i => at' (i + 1) != 0) then .error 0xFFFFFF
  else
    let term (i : Nat) : Term :=
      let o := 16 * (i + 1)
      ⟨bits (at' o) 0 4, bits (at' (o + 1)) 0 3, bitAt (at' (o + 1)) 7, ofBytes ((b.drop (o + 8)).take 8)⟩
    let bad (i : Nat) : Bool :=
      let o := 16 * (i + 1)
      let t := term i
      bits (at' o) 4 4 != 0 || bits (at' (o + 1)) 3 4 != 0 || (upto 6).any (fun k => at' (o + 2 + k) != 0) ||
      5 < t.kind || (t.invert && isTagTerm t) || (3 ≤ t.kind && bits t.opnd 32 32 != 0) ||
      (t.kind = 3 && signed.any fun s => decide (rangeOrd (bitAt s 0) (bits t.opnd 16 16) < rangeOrd (bitAt s 0) (bits t.opnd 0 16))) ||
      (t.kind = 4 && signed.any fun s => decide (rangeOrd (bitAt s 1) (bits t.opnd 16 16) < rangeOrd (bitAt s 1) (bits t.opnd 0 16)))
    match (upto n).find? bad with
    | some i => .error i
    | none => .ok ((upto n).map term)

/-! Sieve histograms (R166 to R169). -/

def histZero : Hist := ⟨0, [], [], [], []⟩

def cnt (l : List (Nat × Nat)) (k : Nat) : Nat := mapGet (fun _ => 0) l k
def cntSet (l : List (Nat × Nat)) (k v : Nat) : List (Nat × Nat) := mapSet (fun _ => 0) l k v

/-- The bucket of a range value (Table SR-3). -/
def bucketOf (signed : Bool) (x : Nat) : Nat := rangeOrd signed x / 256

/-- One vector's fields counted by `f` (add one, or subtract one but not below zero). -/
def histStep (f : Nat → Nat) (enable signed : Nat) (h : Hist) (a : BitVec 128) : Hist :=
  let up (l : List (Nat × Nat)) (k : Nat) := cntSet l k (f (cnt l k))
  { n := f h.n
    tags := if bitAt enable 0 then (upto 64).foldl (fun l b => if bitAt (attrTags a) b then up l b else l) h.tags else h.tags
    ra := if bitAt enable 1 then up h.ra (bucketOf (bitAt signed 0) (attrRa a)) else h.ra
    rb := if bitAt enable 2 then up h.rb (bucketOf (bitAt signed 1) (attrRb a)) else h.rb
    value := if bitAt enable 3 then up h.value (Config.hash10 (BitVec.ofNat 32 (attrVal a)) % 1024) else h.value }

/-- Counts added to counters, for the fields that a schema enables (R167). -/
def histPlus (enable : Nat) (h k : Hist) : Hist :=
  let add (b : Nat) (l d : List (Nat × Nat)) : List (Nat × Nat) :=
    if bitAt enable b then d.foldl (fun l e => cntSet l e.1 (cnt l e.1 + e.2)) l else l
  { n := h.n + k.n, tags := add 0 h.tags k.tags, ra := add 1 h.ra k.ra, rb := add 2 h.rb k.rb, value := add 3 h.value k.value }

/-- A vector added to, or subtracted from, the counters in use and a recount that runs (R167, R168). -/
def histAdd (c : Coll) (a : BitVec 128) : Coll :=
  { c with hist := histStep (· + 1) c.enable c.signed c.hist a
           recount := c.recount.map fun h => histStep (· + 1) c.enable c.signed h a }
def histSub (c : Coll) (a : BitVec 128) : Coll :=
  { c with hist := histStep (· - 1) c.enable c.signed c.hist a
           recount := c.recount.map fun h => histStep (· - 1) c.enable c.signed h a }

/-- A counter ratio held to 0 to 1. -/
def fracOf (h : Hist) (x : Nat) : Rat := min 1 ((x : Rat) / (h.n : Rat))

/-- How many values of bucket `c` a range covers. -/
def overlap (c lo hi : Nat) : Nat := min (hi + 1) (c * 256 + 256) - max lo (c * 256)

/-- One term's estimate (R169). -/
def termEst (enable signed : Nat) (h : Hist) (t : Term) : Rat :=
  let fr := fracOf h
  let maskBits := (upto 64).filter fun b => bitAt t.opnd b
  let range (sg : Bool) (l : List (Nat × Nat)) : Rat :=
    let lo := rangeOrd sg (bits t.opnd 0 16)
    let hi := rangeOrd sg (bits t.opnd 16 16)
    min 1 (l.foldl (fun s e => s + fr e.2 * (overlap e.1 lo hi : Rat) / 256) 0)
  if !isTagTerm t && !termOn enable t then 0
  else if isTagTerm t && !termOn enable t then (if kindTest 0 0 t 0#128 then 1 else 0)
  else
    let p : Rat := match t.kind with
      | 1 => maskBits.foldl (fun p b => p * fr (cnt h.tags b)) 1
      | 0 => 1 - maskBits.foldl (fun p b => p * (1 - fr (cnt h.tags b))) 1
      | 2 => maskBits.foldl (fun p b => p * (1 - fr (cnt h.tags b))) 1
      | 3 => range (bitAt signed 0) h.ra
      | 4 => range (bitAt signed 1) h.rb
      | _ => fr (cnt h.value (Config.hash10 (BitVec.ofNat 32 (bits t.opnd 0 32)) % 1024))
    if t.invert && !isTagTerm t then 1 - p else p

/-- The estimated selectivity of a filter on a shard (R169). -/
def selectivity (enable signed : Nat) (h : Hist) (f : List Term) : Rat :=
  if h.n = 0 then 1
  else 1 - (upto 8).foldl (fun q g =>
    let ts := f.filter fun t => t.group = g
    if ts.isEmpty then q else q * (1 - ts.foldl (fun p t => p * termEst enable signed h t) 1)) (1 : Rat)

/-! Liveness and tombstones (R26 to R30, R233, R234). -/

def isTomb (c : Coll) : Inst → Bool
  | .ord s n => (s, n) ∈ c.tombs
  | .stock p => p ∈ c.tombStock
  | .remote _ => false

/-- What marks a node whose ordinal is released: its key-map record is gone (R243). -/
def noKey : DWord := 0#64 - 1#64
def blank (n : Node) : Bool := n.key = noKey
/-- A segment's node count: tombstoned ordinals that are not released stay in it (R248). -/
def nodeCount (s : Segment) : Nat := (s.nodes.filter fun n => !blank n).length

/-- The node of a segment that holds a key and is not tombstoned. -/
def liveNode (c : Coll) (s : Segment) (key : DWord) : Option Inst :=
  let keys := s.nodes.map (·.key)
  ((upto keys.length).find? fun i => decide (keys.getD i 0#64 = key) && !isTomb c (.ord (segId s) i)).map fun i => Inst.ord (segId s) i

/-- The live instance of a key in the shard's published state: in a live segment of the current generation, or in
the stockpile above its watermark (R28). -/
def liveInst (c : Coll) (key : DWord) : Option Inst :=
  let g := curGen c
  (g.segs.findSome? fun s => liveNode c s key).orElse fun _ => c.stock.findSome? fun e =>
    if e.used && e.key = key && posLe g.mark e.pos && !isTomb c (.stock e.pos) then some (Inst.stock e.pos) else none

/-- The publish record pending on a shard (R255). -/
def pendPub (m : Mod) (c : Coll) : Option PubRec :=
  (c.pub.bind fun l => m.ledger.records.find? fun r => r.lsn = l).bind fun r => match r.redo with
    | .publish p => some p
    | _ => none

/-- The segments that a pending host PUBLISH makes newly live, lowest first. -/
def pendSegs (c : Coll) (p : PubRec) : List Segment := p.gen.segs.filter fun s => (segOf (curGen c) s.no).isNone

/-- Whether an instance of a pending publish is tombstoned: for an ordinal that its step reuses, tombstoned again. -/
def pendTomb (c : Coll) (p : PubRec) (s n : Nat) : Bool :=
  if (s, n) ∈ p.reused then decide ((s, n) ∈ c.reborn) else isTomb c (.ord s n)

/-- The instances of a key in what a pending publish makes newly live: every segment of a PUBLISH that holds it (R257), and the
ordinal that a merge step gave its stockpile entry. -/
def pendInsts (m : Mod) (c : Coll) (key : DWord) : List Inst :=
  match pendPub m c with
  | none => []
  | some p =>
    if p.step then p.folded.filterMap fun f =>
      if (entryAt c f.1).any (fun e => e.key = key) && !pendTomb c p f.2.1 f.2.2 then some (Inst.ord f.2.1 f.2.2) else none
    else (pendSegs c p).filterMap fun s => liveNode c s key

/-- The older copies of a key that only earlier generations can reach: stockpile entries below the watermark, and ordinals of
segments no longer live. -/
def oldInsts (c : Coll) (key : DWord) : List Inst :=
  let g := curGen c
  (c.stock.filterMap fun e =>
    if e.used && e.key = key && !posLe g.mark e.pos && !isTomb c (.stock e.pos) then some (Inst.stock e.pos) else none) ++
  ((c.gens.flatMap (·.segs)).filter fun s => (segById g (segId s)).isNone).filterMap fun s => liveNode c s key

/-- Whether a key is live in the shard (R28, R257). -/
def keyLive (m : Mod) (c : Coll) (key : DWord) : Bool :=
  (liveInst c key).isSome || (match pendPub m c with
    | some p => !p.step && !(pendInsts m c key).isEmpty
    | none => false)

/-- Every instance of a live key that a generation in the shard can reach or is about to: what a DELETE or UPSERT of the key
tombstones, so that no path returns it (R26, R53, R55, R57, R257). -/
def instsOf (m : Mod) (c : Coll) (key : DWord) : List Inst :=
  if keyLive m c key then ((liveInst c key).toList ++ pendInsts m c key ++ oldInsts c key).eraseDups else []

/-! The mirror (R233). -/

/-- The 8-byte tag of an instance: collection ID, stockpile flag, and the 40-bit ordinal or the position. -/
def tagWord (cid : Nat) : Inst → BitVec 64
  | .ord s n => BitVec.ofNat 64 (cid * 2 ^ 48 + s % 256 * 2 ^ 32 + n % 2 ^ 32)
  | .stock p => BitVec.ofNat 64 (cid * 2 ^ 48 + 2 ^ 47 + p.toNat)
  | .remote n => BitVec.ofNat 64 (cid * 2 ^ 48 + n)

/-- What tells apart the segments that a number has named: the page where the segment's vectors start. -/
def tagBase : Inst → Nat
  | .ord s _ => s / 256
  | _ => 0

def mirrorTag (cid : Nat) (i : Inst) : BitVec 64 × Nat := (tagWord cid i, tagBase i)

/-- The collection and the instance that a tag names. -/
def tagColl (t : BitVec 64 × Nat) : Nat := bits t.1.toNat 48 16
def tagInst (t : BitVec 64 × Nat) : Inst :=
  if bitAt t.1.toNat 47 then .stock (BitVec.ofNat 32 t.1.toNat)
  else .ord (bits t.1.toNat 32 8 + 256 * t.2) (bits t.1.toNat 0 32)

/-- An instance tombstoned in the tailings and in the mirror, in one tick (R234). -/
def tombstone (m : Mod) (cid : Nat) (i : Inst) : Mod :=
  match shardOf m cid with
  | none => m
  | some c =>
    let again : Bool := match i with
      | .ord s n => (pendPub m c).any fun p => decide ((s, n) ∈ p.reused)
      | _ => false
    let done : Bool := match i with
      | .ord s n => if again then decide ((s, n) ∈ c.reborn) else isTomb c i
      | i => isTomb c i
    if done then m
    else
      let c := match i with
        | .ord s n => if again then { c with reborn := (s, n) :: c.reborn } else { c with tombs := (s, n) :: c.tombs }
        | .stock p => { c with tombStock := p :: c.tombStock }
        | .remote _ => c
      let m := setColl m c
      { m with mirror := mirrorTag cid i :: m.mirror }

/-- Mirror occupancy: tags held or reserved (Table RI-3), and the tags free (R233). -/
def mirrorUsed (m : Mod) : Nat := m.mirror.length + m.resv
def mirrorFree (m : Mod) : Nat := 2097152 - mirrorUsed m

/-- Whether the output check passes an instance (R54, R184). -/
def mirrorClear (m : Mod) (cid : Nat) (i : Inst) : Bool :=
  match i with
  | .remote _ => true
  | i => !(mirrorTag cid i ∈ m.mirror)

/-- The attribute word of an instance. -/
def attrOf (c : Coll) (i : Inst) : Option (BitVec 128) :=
  match i with
  | .ord s n =>
    let inGens := c.gens.reverse.findSome? fun g => (segById g s).bind fun x => (x.nodes[n]?).map (·.attr)
    inGens.orElse fun _ => (c.built.find? fun x => segId x = s).bind fun x => (x.nodes[n]?).map (·.attr)
  | .stock p => (entryAt c p).map (·.attr)
  | .remote _ => none

/-- The address of a node's full vector in bench 2 (R151). -/
def vecStride (c : Coll) : Nat := alignUp (c.d * elemBytes c.ty) 32
def perPage (c : Coll) : Nat := pageSize / vecStride c
def vecAddr (c : Coll) (s : Segment) (n : Nat) : Nat :=
  s.base + n / perPage c * pageSize + n % perPage c * vecStride c

/-- Bytes of a vector's codes as they are stored. -/
def codesBytes (c : Coll) (v : List Word) : List Byte := packCodes c.ty (v.map (·.toNat))

/-- The bench 2 pages that `n` vectors from a base address take. -/
def vecPages (c : Coll) (n : Nat) : Nat := ceilDiv n (perPage c)
def vecPgs (c : Coll) (base n : Nat) : List Nat := (upto (vecPages c n)).map (base / pageSize + ·)

/-- Every page that a segment holds: its bench 1 pages, its entry table's, its vectors'. -/
def segPgs (c : Coll) (s : Segment) : List Nat := s.pages ++ s.table ++ vecPgs c s.base s.nodes.length

/-! Stockpile space (R24, R194, R232). -/

/-- The slot of a position: positions take the slots in order, round and round. -/
def slotNo (c : Coll) (p : Word) : Nat := p.toNat % stockCap c
def slotPage (c : Coll) (p : Word) : Nat := slotNo c p / perPage c

/-- The device address of a position's vector, where its page is there. -/
def stockAddr (c : Coll) (p : Word) : Option Nat :=
  (c.stockPgs.find? fun x => x.1 = slotPage c p).map fun x => x.2 * pageSize + slotNo c p % perPage c * vecStride c

/-- The quarry die a shard's stockpile lies on: the one with the most free bench 1, the lowest-numbered on a tie (as R249). -/
def roomiest (m : Mod) : Nat := (upto 4).foldl (fun b d => if freeB1Die m b < freeB1Die m d then d else b) 0

/-- A stockpile entry's vector in bench 1: the page of its slot taken if it is not there, and the codes written. -/
def stockWrite (cid : Nat) (m : Mod) (e : SEntry) : Mod :=
  match shardOf m cid with
  | none => m
  | some c =>
    let m := if c.stockPgs.any fun x => x.1 = slotPage c e.pos then m
      else match allocModule m 1 (some (roomiest m)) with
        | none => m
        | some (pg, m) => setColl m { c with stockPgs := (slotPage c e.pos, pg) :: c.stockPgs }
    match (shardOf m cid).bind fun c => stockAddr c e.pos with
    | none => m
    | some a => writeBytes m a (codesBytes c e.vec)

end Sys2Proof.Machine
end

