-- ==== Sys2Proof/Machine/LedgerOps.lean ====
section
/-! DEFINITION. The named operations on the ledger: records, ring space, groups and channels (R511 to R517). -/

namespace Sys2Proof.Machine

/-- Payload bytes of a record (Table TL-4), from what the model's redo content holds. -/
def redoLen : Redo → Nat
  | .insert es old _ => total (es.map fun e => 32 + 4 * e.vec.length) + 8 * old.length
  | .delete ks old _ => 8 * ks.length + 8 * old.length
  | .publish p => 64 + 8 * p.superseded.length + 2 * (p.map.getD []).length
  | .mergeBegin _ _ _ _ => 16
  | .buildCk _ _ _ => 64
  | .built _ => 64
  | .update _ _ _ ix ds => 8 * ix.length + total (ds.map fun d => 4 * d.length)
  | .create _ => 48
  | .drop => 0
  | .schema _ _ _ _ => 48
  | .model _ _ _ => 16
  | .retire _ => 8
  | .fault _ _ => 16
  | .image _ _ => 16
  | .firmware _ => 8

/-- Bytes of a whole record: header, payload and CRC, padded to 32 (R512). -/
def recLen (r : Redo) : Nat := alignUp (32 + redoLen r + 4) 32

/-- Bytes in the ring that are not programmed (R517). -/
def unprogBytes (l : Ledger) : Nat :=
  total ((l.groups.filter fun g => !g.prog).map (·.size)) + (match l.openG with | some g => g.size | none => 0)

def ringMax : Nat := 8 * 2 ^ 20
def groupMax : Nat := 65536

/-- The next healthy pair of ledger channels from `c` on (R445, R451, R515). -/
def healthyPair (bad : List Nat) (c : Nat) : Nat :=
  ((upto 32).map fun i => (c + i) % 32).find? (fun c => !(c ∈ bad) && !((c + 16) % 32 ∈ bad)) |>.getD c

/-- Channels that take no ledger writes. -/
def badChannels (m : Mod) : List Nat :=
  (upto 32).filter fun c => decide (2 ≤ (m.mem.channels.getD c ⟨1, 4, 0, 0, 0⟩).st)

/-- The open group closed and sent to its two channels (R445, R513). -/
def closeGroup (m : Mod) : Mod :=
  match m.ledger.openG with
  | none => m
  | some g =>
    let c := healthyPair (badChannels m) m.ledger.ch
    { m with ledger := { m.ledger with
        groups := m.ledger.groups ++ [{ g with sent := true, ch := c, mark := releaseMark m, tick := now m }]
        openG := none, ch := (c + 1) % 32 } }

/-- The group being filled, opened with record `lsn` if none is. -/
def openGroup (m : Mod) (lsn : Nat) : Mod :=
  match m.ledger.openG with
  | some _ => m
  | none => { m with ledger := { m.ledger with
      openG := some ⟨m.ledger.nextG, lsn, 0, releaseMark m, now m, 0, m.ledger.ch, false, false⟩
      nextG := m.ledger.nextG + 1 } }

/-- One group's share of the first record that has not wholly entered the ring, if the 8 MiB bound admits it. -/
def enterOnce (m : Mod) : Option Mod :=
  match m.ledger.records.find? fun r => r.entered < r.len with
  | none => none
  | some r =>
    let m1 := openGroup m r.lsn
    match m1.ledger.openG with
    | none => none
    | some g =>
      let part := min (r.len - r.entered) (groupMax - g.size)
      if ringMax < unprogBytes m1.ledger + part then none
      else
        let done := r.entered + part = r.len
        let g := { g with size := g.size + part, count := g.count + bN done }
        let r' := { r with entered := r.entered + part, tick := if r.entered = 0 then now m else r.tick
                           group := if done then some g.no else none }
        let m2 := { m1 with ledger := { m1.ledger with
          records := mapIf (fun x => x.lsn = r.lsn) (fun _ => r') m1.ledger.records, openG := some g } }
        some (if groupMax ≤ g.size then closeGroup m2 else m2)

/-- Records enter the ring group by group for as long as the bound allows; `fuel` bounds the groups. -/
def enterRing : Nat → Mod → Mod
  | 0, m => m
  | fuel + 1, m => match enterOnce m with
    | none => m
    | some m' => enterRing fuel m'

/-- A new record with the next lsn, entering the ring as space allows (R511, R517). -/
def addRecord (m : Mod) (cmd : Option Cmd) (coll opcode : Nat) (redo : Redo) : Mod × Nat :=
  let l := m.ledger.next
  let r : LRec := ⟨l, now m, coll, recLen redo, (cmd.map fun c => cmdTag c.entry).getD 0, cmd.bind (·.chute), opcode,
    cmd.map (·.id), redo, 0, none, none, false, false⟩
  let m := { m with ledger := { m.ledger with next := l + 1, records := m.ledger.records ++ [r] } }
  (enterRing 256 m, l)

/-- Whether mutation heads are deferred for ring space (R517) or for zone space (R446). -/
def zoneFill (m : Mod) : Nat :=
  let used := total ((m.ledger.records.filter fun r => r.prog.isSome &&
    !(m.ledger.images.any fun i => i.coll = r.coll && r.lsn ≤ i.lsn)).map (·.len))
  min 100 (used * 100 / (32 * 2 ^ 30))

def ringFull (m : Mod) : Bool := 6 * 2 ^ 20 < unprogBytes m.ledger
def zoneFull (m : Mod) : Bool := 90 < zoneFill m

def recordOf (m : Mod) (lsn : Nat) : Option LRec := m.ledger.records.find? fun r => r.lsn = lsn

def setRecord (m : Mod) (r : LRec) : Mod :=
  { m with ledger := { m.ledger with records := mapIf (fun x => x.lsn = r.lsn) (fun _ => r) m.ledger.records } }

/-- The highest group number up to which every group is programmed, plus one. -/
def progPrefix (l : Ledger) : Nat :=
  match l.groups.find? fun g => !g.prog with
  | some g => g.no
  | none => (l.groups.getLast?.map fun g => g.no + 1).getD l.base

end Sys2Proof.Machine
end

