-- ==== Sys2Proof/Machine/PowerOps.lean ====
section
/-! DEFINITION. Power, heat and scheduling (chapter 18): the window grant and credit, the burst allowance, energy
counters, supply dips and the requests they raise. Energies are in microjoules. -/

namespace Sys2Proof.Machine

/-- A reset request latched for slot 2 of the next tick; the first request stands (R522, R545). -/
def requestReset (m : Mod) (cause kind : Nat) : Mod :=
  if m.sys.want.isSome && kind != 3 then m else { m with sys := { m.sys with want := some (cause, kind) } }

/-- Test mode 5 runs with no work admitted (Table MG-7). -/
def testQuiet (m : Mod) : Bool := m.mgt.test.map (·.1) = some 5

def budgetW (c : Word) : Nat := bits c.toNat 16 16
def stageBulk (c : Word) : Nat := bits c.toNat 8 8
def stageStd (c : Word) : Nat := bits c.toNat 0 8
def thermTarget (t : Word) : Nat := bits t.toNat 0 8

/-- The hottest of the predictions of die, stage and flash sensors that are not failed (R533, R558). -/
def hottest (m : Mod) (l : List Int) : Int :=
  (upto 46).foldl (fun t i => if i ∈ m.saf.failed then t else max t (l.getD i (-640))) (-640)

/-- The window grant G (R536), rounded down to a microjoule. -/
def grantOf (m : Mod) : Nat :=
  let t := hottest m m.pwr.pred
  let tgt : Int := thermTarget m.pwr.therm * 16
  let w := budgetW m.pwr.cfg * 100
  let g := if t ≤ tgt then w else if 1680 ≤ t then 0 else w * (1680 - t).toNat / (1680 - tgt).toNat
  max g 22000

/-- A thermal event recomputes G and moves the credit by the change (R534, R536). -/
def regrant (m : Mod) : Mod :=
  let g := grantOf m
  { m with pwr := { m.pwr with grant := g, credit := m.pwr.credit + (g : Int) - (m.pwr.grant : Int) } }

/-- The crossing test of R534: `hot` says the last event was the upward one. -/
def thermalCheck (m : Mod) : Mod :=
  let t := hottest m m.pwr.pred
  let tgt : Int := thermTarget m.pwr.therm * 16
  if !m.pwr.hot && tgt < t then regrant { m with pwr := { m.pwr with hot := true } }
  else if m.pwr.hot && t < tgt - 32 then regrant { m with pwr := { m.pwr with hot := false } }
  else m

/-- Predicted energy of a head (R535). -/
def energyOf (m : Mod) (cost : List Nat) : Nat :=
  total ((upto 16).map fun p => cost.getD p 0 * m.adm.coef.getD p 0)

/-! Predicted cost (R76, R79, R87). -/

/-- What an entry's cost depends on beside its own fields: segments of the generation it works on, dimension, tokens. -/
def shapeOf (m : Mod) (c : Cmd) : Nat × Nat × Nat :=
  let tokens := total (c.pl.docs.map fun d => if d.tokens.isEmpty then d.len else d.tokens.length)
  match collOf m (collId c.entry) with
  | none => (0, 0, tokens)
  | some co =>
    let g := if genField c.entry = 0 then curGen co else (genOf co (genField c.entry)).getD (curGen co)
    (g.segs.length, co.d, tokens)

/-- The cost of a command on the pools, were `e` its entry. -/
def costOf (m : Mod) (c : Cmd) (e : BitVec 512) : List Nat :=
  let (s, d, t) := shapeOf m c
  (upto 16).map fun p => Config.cost p e s d t

/-- The cost of one step of a job. -/
def stepCostOf (e : BitVec 512) : List Nat := (upto 16).map fun p => Config.stepCost p e

/-- A long BULK command, which draws its share step by step. -/
def isJob (op : Nat) : Bool := op = 0x20 || op = 0x21

/-- Predicted service cost over all pools, in 2^-32 of a window (R76): the costs of pools have no unit in common but the
time that serving them takes. -/
def serviceOf (m : Mod) (cost : List Nat) : Nat :=
  total ((upto 16).map fun p =>
    let r := m.adm.rate.getD p 0
    let k := cost.getD p 0
    if r = 0 then min k 1 * 2 ^ 32 else k * 2 ^ 32 / r)

/-- A window's capacity in the same measure: one window of every pool that serves at all. -/
def capacity (m : Mod) : Nat := total ((upto 16).map fun p => if m.adm.rate.getD p 0 = 0 then 0 else 2 ^ 32)

/-- One window of BULK share on a pool (R76, R77, R87). -/
def bulkShare (m : Mod) (p : Nat) : Nat :=
  let w := m.adm.weights.toNat
  let r := m.adm.rate.getD p 0
  max (r * bits w 16 8 / max 1 (bits w 0 8 + bits w 8 8 + bits w 16 8)) (r * bits m.adm.reserve.toNat 8 8 / 100)

def bulkRoom (m : Mod) (cost : List Nat) : Bool :=
  (upto 16).all fun p =>
    let k := cost.getD p 0
    let b := m.adm.bulk.getD p 0
    k = 0 || decide (b + k ≤ bulkShare m p) || (bulkShare m p < k && b = 0)

/-- STANDARD and BULK are paused: a dip, or a management controller restart (R543, R559). -/
def lowerPaused (m : Mod) : Bool := m.pwr.dip.isSome || m.saf.mcDown

/-- Whether BULK work of an energy stays within the floor that BULK has of the grant, which no dip leaves it (R541). -/
def bulkFloor (m : Mod) (e : Nat) : Bool :=
  !lowerPaused m && decide ((m.adm.bulkE + e) * 100 ≤ bits m.adm.reserve.toNat 8 8 * m.pwr.grant)

/-- The credit test of a class (R537, R538, R541). -/
def creditFits (m : Mod) (cls e : Nat) : Bool :=
  let c := m.pwr.credit - (e : Int)
  let g := m.pwr.grant
  match cls with
  | 0 => true
  | 1 => decide (0 ≤ c)
  | 2 => decide (((stageStd m.pwr.cfg * g : Nat) : Int) ≤ 100 * c)
  | _ => decide (((stageBulk m.pwr.cfg * g : Nat) : Int) ≤ 100 * c) || (decide (0 ≤ c) && bulkFloor m e)

/-- The class as which an entry draws credit: RUN_DRILL draws as INTERACTIVE work (R542). -/
def creditClass (op cls : Nat) : Nat := if op = 0x41 && cls != 0 then 1 else cls

/-- Whether a head passes the credit test, and no dip or restart of the management controller pauses its class (R543, R559). -/
def creditOk (m : Mod) (op cls e : Nat) : Bool :=
  !(lowerPaused m && 2 ≤ cls) && creditFits m (creditClass op cls) e

/-- An admitted head's energy leaves the credit; what an URGENT head takes below zero comes from the burst allowance
(R537, R538). -/
def spend (m : Mod) (cls e : Nat) : Mod :=
  let c := m.pwr.credit - (e : Int)
  let draw := if cls = 0 then min m.pwr.burst (min e (-c).toNat) else 0
  { m with pwr := { m.pwr with credit := c + draw, burst := m.pwr.burst - draw, drawn := m.pwr.drawn + draw }
           adm := if cls = 3 then { m.adm with bulkE := m.adm.bulkE + e } else m.adm }

/-- A command's cost added to the backlogs of its pools. -/
def addBacklog (m : Mod) (cls : Nat) (cost : List Nat) : Mod :=
  let a := m.adm
  { m with adm := { a with backlog := addCost a.backlog cost, bulk := if cls = 3 then addCost a.bulk cost else a.bulk } }

/-- A class's grant and its energy drawn as `as'` (R76, R537, R542). -/
def draw (m : Mod) (cls as' : Nat) (cost : List Nat) : Mod :=
  let m := spend m as' (energyOf m cost)
  { m with adm := { m.adm with granted := modNth m.adm.granted cls (· + serviceOf m cost) } }

/-- Whether BULK credit lets a step run: that of a job, or of image refresh, for which the zero entry stands (R541). A dip pauses
admission alone: work already admitted runs on (R543). -/
def bulkMay (m : Mod) (e : BitVec 512) : Bool := creditFits m 3 (energyOf m (stepCostOf e))

/-- Whether a job's step may run: image refresh goes first while the ledger zone is more than 75 % full (R446, R541). -/
def stepMay (m : Mod) (e : BitVec 512) : Bool := zoneFill m ≤ 75 && bulkMay m e

/-- One step of a job draws BULK share (R87, R541), and its cost leaves the backlog that the job still holds. -/
def drawStep (m : Mod) (c : Cmd) : Mod × Cmd :=
  let k := stepCostOf c.entry
  let paid := (upto 16).map fun p => min (k.getD p 0) (c.cost.getD p 0)
  let m := draw m 3 3 k
  let a := m.adm
  let c := { c with cost := subCost c.cost paid }
  (setCmd { m with adm := { a with backlog := subCost a.backlog paid, bulk := subCost a.bulk paid } } c, c)

/-- Face duty (R540, R543, R558, R559): the lowest that any reason sets. -/
def faceDuty (m : Mod) (die : Nat) : Nat :=
  let low := lowerPaused m || (upto 6).any fun i => decide (6 * die + i ∈ m.saf.failed)
  if low then min 50 m.pwr.peak else m.pwr.peak
def lowestDuty (m : Mod) : Nat := ((upto 4).map (faceDuty m)).foldl min 100

/-- The four shares of one rail's energy (R549). -/
def railSplit (e : Nat) (b : Nat × Nat × Nat) (idle : Nat) : Nat × Nat × Nat × Nat :=
  let n := b.1 + b.2.1 + b.2.2 + idle
  if n = 0 || b.1 + b.2.1 + b.2.2 = 0 then (0, 0, 0, e)
  else
    let i := e * b.1 / n
    let q := e * b.2.1 / n
    let o := e * b.2.2 / n
    (i, q, o, e - i - q - o)

/-- The energy counters after a window (R549). -/
def chargeWindow (p : Pwr) (w : WinMeas) : Pwr :=
  let parts := (upto w.rails.length).map fun r =>
    railSplit (w.rails.getD r 0) (w.busy.getD r (0, 0, 0)) (w.idle.getD r 0)
  let i := total (parts.map (·.1))
  let q := total (parts.map (·.2.1))
  let o := total (parts.map (·.2.2.1))
  let z := total (parts.map (·.2.2.2))
  let rails := i + q + o + z
  let loss := w.input - rails
  let sh (x : Nat) : Nat := if rails = 0 then 0 else loss * x / rails
  let li := sh i
  let lq := sh q
  let lo := sh o
  { p with ingest := p.ingest + i + li, query := p.query + q + lq, other := p.other + o + lo
           idle := p.idle + z + (loss - li - lq - lo) }

/-- The burst allowance after a window of a grant and a measured energy, and the excess it could not cover (R536, R539):
what URGENT heads drew in the window is part of the measured excess, which is charged once. -/
def settle (grant input burst drawn : Nat) : Nat × Nat :=
  let b := burst + drawn
  if grant = 0 then (b, 0)
  else if input ≤ grant then (min 6000000 (b + (grant - input)), 0)
  else (b - (input - grant), (input - grant) - b)

/-- The start of a 100-tick window (R76, R79, R95, R535, R536, R539, R551): the last window is settled, shares are
renewed, rates and coefficients take one eighth of the measurement, and settings written take effect. -/
def windowStart (m : Mod) (w : WinMeas) : Mod :=
  let (burst, excess) := settle m.pwr.grant w.input m.pwr.burst m.pwr.drawn
  let mix (a : List Nat) (b : List Nat) : List Nat := (upto 16).map fun p => (7 * a.getD p 0 + b.getD p 0) / 8
  let watts := w.input / 100
  let p := chargeWindow m.pwr w
  let m := { m with
    pwr := { p with burst := burst, drawn := 0, short := false, cfg := getReg m pwrP 0x40, therm := getReg m pwrP 0x44, lastW := watts
                    maxW := max p.maxW watts, railE := w.rails, peak := 100, stall := false }
    adm := { m.adm with rate := mix m.adm.rate w.done, coef := mix m.adm.coef w.coef, granted := [0, 0, 0, 0], bulkE := 0
                        weights := getReg m chuP 0x68, reserve := getReg m chuP 0x6C } }
  let g := grantOf m
  { m with pwr := { m.pwr with grant := g, credit := (g : Int) - (excess : Int) } }

/-- A limit of R540 about to be passed: faces lower their duty by 10 % down to 50 %, then other units stall until
the window ends, counted once a window. -/
def peakStall (m : Mod) : Mod :=
  if 50 < m.pwr.peak then { m with pwr := { m.pwr with peak := max 50 (m.pwr.peak - 10) } }
  else if m.pwr.stall then m
  else bump { m with pwr := { m.pwr with stall := true } } pwrP 0xA0

/-- Dips begun in the last 1,000,000 ticks. -/
def recentDips (m : Mod) : List Nat := m.pwr.starts.filter fun t => now m < t + 1000000

/-- Whether a dip ends in this tick: the one after the hundredth sample above 45 V in a row (R544). -/
def dipDue (m : Mod) (d : Dip) : Bool := d.full.any fun t => decide (t < now m)

/-- The dip's end tick (R544): SUPPLY_DIP is logged with the lowest input and the length. -/
def dipEnd (m : Mod) : Mod :=
  match m.pwr.dip with
  | none => m
  | some d =>
    if !dipDue m d then m
    else
      let m := { m with pwr := { m.pwr with dip := none } }
      alert (logErr m pwrP 0x18 (d.low + (now m - d.first) * 2 ^ 16)) 2

/-- A fall of the input below 44 V, in slot 3 (R543 to R545, R606): the first tick of a dip counts it, the third in
1,000,000 ticks requests a reset, and every such fall closes the open group. In a dip's end tick it begins a new one (R548). -/
def supplyEvent (m : Mod) (mv : Nat) : Mod :=
  if 44000 ≤ mv then m
  else
    let m := dipEnd m
    let m := closeGroup { m with sys := { m.sys with mv := mv } }
    match m.pwr.dip with
    | some d => { m with pwr := { m.pwr with dip := some { d with count := 0, low := min d.low mv, full := none } } }
    | none =>
      let m := bump { m with pwr := { m.pwr with dip := some ⟨now m, 0, mv, none⟩, starts := now m :: recentDips m } } pwrP 0x98
      if 3 ≤ m.pwr.starts.length then requestReset m 5 1 else m

/-- A sample of the input during a dip, if it has not ended in this tick (R544). -/
def dipSample (m : Mod) (mv : Nat) : Mod :=
  let m := dipEnd m
  match m.pwr.dip with
  | none => m
  | some d =>
    let d := if 45000 < mv then { d with count := d.count + 1, full := if d.count + 1 = 100 then some (now m) else d.full }
      else { d with count := 0, low := min d.low mv, full := none }
    { m with pwr := { m.pwr with dip := some d } }

/-- A dip that has lasted 100,000 ticks (R545). -/
def dipTimeout (m : Mod) : Mod :=
  match m.pwr.dip with
  | some d => if d.first + 100000 ≤ now m && m.sys.rst = 0 then requestReset m 5 1 else m
  | none => m

/-- A thermal prediction (R533, R534). -/
def thermalEvent (m : Mod) (sensor : Nat) (celsius : Int) : Mod :=
  if 46 ≤ sensor then m
  else thermalCheck { m with pwr := { m.pwr with pred := m.pwr.pred.set sensor (celsius * 16) } }

end Sys2Proof.Machine
end

