-- ==== Sys2Proof/Machine/SearchOps.lean ====
section
/-! DEFINITION. The work of a search (chapters 05 and 06): walks, stockpile and flat scans, the riddle's merge, the
widened pass, exact re-rank and the emitted list. -/

namespace Sys2Proof.Machine
open Fp

/-! Arguments of SEARCH (Table CM-2) with their defaults, at an effort level (R82). -/

def sK (e : BitVec 512) : Nat := fld e 32 2
def sFlags (e : BitVec 512) : Nat := fld e 39 1
def sBeam0 (e : BitVec 512) : Nat := if fld e 34 2 = 0 then 128 else fld e 34 2
def sVisits0 (e : BitVec 512) : Nat := if fld e 40 4 = 0 then 16 * sBeam0 e else fld e 40 4
def sRerank0 (e : BitVec 512) : Nat := if fld e 36 2 = 0xFFFF then 32 else fld e 36 2
def halve (k x : Nat) : Nat := max (x / 2) (min x (max k 16))
def sBeam (e : BitVec 512) (lvl : Nat) : Nat := if lvl = 2 then halve (sK e) (sBeam0 e) else sBeam0 e
def sVisits (e : BitVec 512) (lvl : Nat) : Nat := if lvl = 2 then halve (sK e) (sVisits0 e) else sVisits0 e
def sRerank (e : BitVec 512) (lvl : Nat) : Nat := if 1 ≤ lvl then 0 else sRerank0 e
def sPf (e : BitVec 512) : Nat := if fld e 38 1 = 0 then 4 else fld e 38 1

/-- The entry a search at reduced effort stands for, as the cost estimate sees it. -/
def putFld (e : BitVec 512) (b n v : Nat) : BitVec 512 := BitVec.ofNat 512 (setBits e.toNat (8 * b) (8 * n) v)
def reducedEntry (e : BitVec 512) (lvl : Nat) : BitVec 512 :=
  if lvl = 0 then e
  else putFld (putFld (putFld e 36 2 (sRerank e lvl)) 34 2 (sBeam e lvl)) 40 4 (sVisits e lvl)

/-- Length of a walk list (R146): `rr` is 0 without re-rank, else R'. -/
def listLen (k rr : Nat) : Nat := if rr = 0 then k + 16 else rr + 16

/-- Visited filter size (R141): the smallest power of two at least 16 × (V + E), at most 2^23. -/
def filterBits (v e : Nat) : Nat :=
  ((upto 24).map (2 ^ ·)).find? (fun b => 16 * (v + e) ≤ b) |>.getD (2 ^ 23)

/-! Placement. -/

/-- Contexts that walks hold on a walker. -/
def walksOn (m : Mod) (die inst : Nat) : List Walk :=
  m.cmds.flatMap fun c => match c.search with
    | some s => s.walks.filter fun w => w.die = die && w.inst = inst && w.st = 1
    | none => []

def walkerUnit (die inst : Nat) : UnitId := .page ⟨die, .wlk, inst⟩

/-- Whether a walker's pools can supply one context more, beside those it holds (R133, Table GW-1). -/
def poolsFit (on : List Walk) (w : Walk) : Bool :=
  on.length < 64 && total (on.map fun x => x.code * 512) + w.code * 512 ≤ 2 ^ 21 &&
  total (on.map fun x => x.fbits / 8) + w.fbits / 8 ≤ 2 ^ 20 &&
  total (on.map fun x => x.beam * 8) + w.beam * 8 ≤ 2 ^ 19 &&
  total (on.map fun x => x.llen * 16) + w.llen * 16 ≤ 2 ^ 19

/-- The walks in a walker's input queue, in order of admission (R133). -/
def walksQueued (m : Mod) (die inst : Nat) : List Walk :=
  (sortBy (fun (a b : Cmd) => decide (a.seq < b.seq)) (m.cmds.filter (·.search.isSome))).flatMap fun c => match c.search with
    | some s => s.walks.filter fun w => w.die = die && w.inst = inst && w.st = 0
    | none => []

/-- The contexts of a walker: those held, and those that its pools can supply to its queue in order, `ws` at its end (R133). A
walk that must wait holds none. -/
def contexts (m : Mod) (ws : List Walk) (die inst : Nat) : List Walk :=
  ((walksQueued m die inst ++ ws.filter fun w => w.die = die && w.inst = inst).foldl (fun (a : List Walk × Bool) w =>
    if a.2 && poolsFit a.1 w then (w :: a.1, true) else (a.1, false)) (walksOn m die inst, true)).1

/-- The walker of a die with the most free context slots, the lowest-numbered on a tie (R134, R571); one in its ramp takes its share
alone (R574). -/
def pickWalker (m : Mod) (ws : List Walk) (die : Nat) : Option Nat :=
  let mine (i : Nat) : Nat := (ws.filter fun w => w.die = die && w.inst = i).length
  let all := (ws.filter fun w => w.die = die).length
  let may (u : UnitId) (i : Nat) : Bool := inService m u && mayTake m u (mine i) all
  let ok := (upto 16).filter fun i => may (walkerUnit die i) i && may (.page ⟨die, .siv, i⟩) i
  let taken (i : Nat) : Nat := (contexts m ws die i).length
  match ok with
  | [] => none
  | i :: is => some (is.foldl (fun b j => if taken j < taken b then j else b) i)

/-- A walk that waits for a context. An `inst` of 16 waits for a walker in service. -/
def newWalk (m : Mod) (ws : List Walk) (s : Segment) (beam budget llen : Nat) : Walk :=
  { seg := s.no, die := s.die, inst := (pickWalker m ws s.die).getD 16, st := 0, beam := beam, budget := budget, llen := llen
    code := s.m, table := [], scale := 0, fbits := filterBits budget s.entry.length, queue := [], filter := [], visits := 0
    list := [], pf := true, pfset := [], waste := 0, stop := 0, again := false }

/-- The walks of a search, one for each segment, placed one after the other. -/
def placeWalks (m : Mod) (g : Gen) (beam budget llen : Nat) : List Walk :=
  g.segs.foldl (fun ws s => ws ++ [newWalk m ws s beam budget llen]) []

/-- The riddle's die: home to the most live segments, the lowest-numbered on a tie (R150). -/
def riddleDie (g : Gen) : Nat :=
  let n (d : Nat) := (g.segs.filter fun s => s.die = d).length
  (upto 4).foldl (fun b d => if n b < n d then d else b) 0

def pickRiddle (m : Mod) (die : Nat) : Nat :=
  let ok (i : Nat) : Bool := inService m (.page ⟨die, .rdl, i⟩)
  (((upto 8).find? fun i => ok i && mayTake m (.page ⟨die, .rdl, i⟩) 0 0).orElse fun _ => (upto 8).find? ok).getD 0

/-- Walks counted as work of the walkers and sieves they are placed on (R574), and a search's as work of its riddle too. -/
def placeWork (m : Mod) (ws : List Walk) : Mod :=
  ws.foldl (fun m w => placed (placed m (walkerUnit w.die w.inst)) (.page ⟨w.die, .siv, w.inst⟩)) m
def placeSearch (m : Mod) (s : SearchW) : Mod := placed (placeWork m s.walks) (.page ⟨s.rdie, .rdl, s.rinst⟩)

/-- Stockpile entries a search may see: from the watermark, used, completed before its admission tick (R51, R150). -/
def visibleStock (c : Coll) (g : Gen) (admTick : Nat) : List SEntry :=
  c.stock.filter fun e => e.used && posLe g.mark e.pos && (match e.done with | some t => t < admTick | none => false)

/-- The bound of a continued pass as an order key (R107, R187). -/
def boundOf (e : BitVec 512) : Option Nat :=
  if bitAt (sFlags e) 1 then some (orderKey (BitVec.ofNat 32 (fld e 44 4)) (BitVec.ofNat 64 (fld e 48 8))) else none

/-- The work an admitted SEARCH starts (R150, R170). The lengths of remote lists are the fabric's concern. -/
def startSearch (m : Mod) (c : Coll) (g : Gen) (e : BitVec 512) (pl : Payload) (lvl : Nat) : SearchW :=
  let k := sK e
  let r := sRerank e lvl
  let rr := if r = 0 then 0 else max r k
  let hasFil := fld e 56 8 != 0
  let fil := if hasFil then (match parseFilter (some c.signed) pl.filter with | .ok t => t | .error _ => []) else []
  let recip := bits m.adm.policy.toNat 0 16
  let flat := hasFil && !bitAt (sFlags e) 3 && recip != 0 &&
    decide (selectivity c.enable c.signed c.hist fil * (recip : Rat) < 1)
  let q := holdQuery (!bitAt (sFlags e) 0) c.ty c.dist pl.query
  let walks := if flat then [] else placeWalks m g (sBeam e lvl) (sVisits e lvl) (listLen k rr)
  { query := q, filter := fil, hasFil := hasFil, flat := flat
    widen := bitAt m.adm.policy.toNat 16 && !bitAt (sFlags e) 4
    bound := boundOf e, k := k, rr := rr, beam := sBeam e lvl, budget := sVisits e lvl, pf := sPf e
    rdie := riddleDie g, rinst := pickRiddle m (riddleDie g)
    walks := walks, flats := if flat then g.segs.map (·.no) else []
    scan := if (visibleStock c g (now m)).isEmpty then 0 else 1
    scanned := [], slist := [], arrived := 0, inbox := [], held := [], late := [], cand := [], stage := 0, anyFull := false, nan := 0
    widened := false, dlStop := false, waitFor := [], ends := [], enable := c.enable, signed := c.signed }

/-- Saturated scores that a drill or a drift engine counts (R41: no register shows them). -/
def addSats (m : Mod) (u : UnitId) (n : Nat) : Mod :=
  if n = 0 then m
  else { m with sats := (u, ((m.sats.find? fun x => x.1 = u).map (·.2)).getD 0 + n) :: m.sats.filter fun x => x.1 != u }

/-! One walk. -/

/-- What scoring nodes adds to the counters of a walker and its sieve. -/
structure Tally where
  evals  : Nat
  passes : Nat
  skips  : Nat
  sats   : Nat
  deriving DecidableEq, Repr

def tally0 : Tally := ⟨0, 0, 0, 0⟩

/-- The search's predicate on a node's attribute word. -/
def predOk (w : SearchW) (n : Node) : Bool := !w.hasFil || filterTest w.enable w.signed w.filter n.attr

/-- The sieve and the bound, the first test of R147. -/
def sieveOk (w : SearchW) (n : Node) (score : Word) : Bool :=
  predOk w n && (match w.bound with | some b => b < orderKey score n.key | none => true)

def marked (f : List Nat) (size n : Nat) : Bool := (upto 3).all fun i => decide (Config.bloomHash i n % size ∈ f)
def markNode (f : List Nat) (size n : Nat) : List Nat :=
  (upto 3).foldl (fun f i => let b := Config.bloomHash i n % size; if b ∈ f then f else b :: f) f

/-- offer() of R140. -/
def offer (q : List QEnt) (beam : Nat) (e : QEnt) : List QEnt := (insertBy qLt e q).take beam

/-- One node scored, offered to the queue and considered for the walk list (R140, R143, R147, R148). -/
def scoreNode (c : Coll) (sg : Segment) (sw : SearchW) (acc : Walk × Tally) (n : Nat) : Walk × Tally :=
  match sg.nodes[n]? with
  | none => acc
  | some nd =>
    let w := acc.1
    let t := acc.2
    let s := pqScore c.dist w.table w.scale nd.code
    let w := { w with queue := offer w.queue w.beam ⟨s, n, false⟩, filter := markNode w.filter w.fbits n }
    let pass := sieveOk sw nd s
    let t := { t with evals := t.evals + bN sw.hasFil, passes := t.passes + bN (sw.hasFil && predOk sw nd)
                      sats := t.sats + bN (pqOver c.dist w.table w.scale nd.code) }
    let ent : QEnt := ⟨s, n, false⟩
    let room := w.list.length < w.llen || (match w.list.getLast? with | some l => qLt ent l | none => true)
    if pass && room then
      if isTomb c (.ord (segId sg) n) then (w, { t with skips := t.skips + 1 })
      else ({ w with list := (insertBy qLt ent w.list).take w.llen }, t)
    else (w, t)

def countTally (m : Mod) (w : Walk) (t : Tally) : Mod :=
  let p : Page := ⟨w.die, .wlk, w.inst⟩
  let s : Page := ⟨w.die, .siv, w.inst⟩
  bump (bump (bump (bump m s 0x40 t.evals) s 0x44 t.passes) p 0x60 t.skips) p 0x64 t.sats

/-! Prefetch (R144, R145). -/

/-- Sectors of the prefetch buffer that walks hold. -/
def pfSum (l : List (Nat × Nat)) : Nat := total (l.map (·.2))

/-- Sectors of a walker's prefetch buffer, 128 KiB, that walks other than `w` leave it (Table GW-1). -/
def pfRoom (m : Mod) (w : Walk) : Nat :=
  4096 - (total ((walksOn m w.die w.inst).map fun x => pfSum x.pfset) - (if w.st = 1 then pfSum w.pfset else 0))

/-- A walk's oldest prefetched nodes that have left the first P dropped while the buffer needs the space. Which data goes first is
the model's choice (DESIGN CHOICE). -/
def pfEvict (first : List Nat) (room need : Nat) (w : Walk) : Walk :=
  w.pfset.reverse.foldl (fun w x =>
    if pfSum w.pfset + need ≤ room || x.1 ∈ first then w
    else { w with pfset := w.pfset.filter fun y => y.1 != x.1, waste := w.waste + x.2 }) w

/-- A node requested (Table GW-3): its adjacency, and the codes and attribute words of neighbours not visited. -/
def pfNode (room : Nat) (sg : Segment) (sw : SearchW) (first : List Nat) (w : Walk) (n : Nat) : Walk :=
  if w.pfset.any fun x => x.1 = n then w
  else
    let adj := (sg.nodes[n]?.map (·.adj)).getD []
    let fresh := (adj.filter fun x => !marked w.filter w.fbits x).length
    let need := sg.degree / 8 + fresh * (ceilDiv sg.m 32 + bN sw.hasFil)
    let w := pfEvict first room need w
    if pfSum w.pfset + need ≤ room then { w with pfset := (n, need) :: w.pfset } else w

/-- Requests for the first P unexpanded nodes (R144). -/
def prefetch (room : Nat) (sg : Segment) (sw : SearchW) (w : Walk) : Walk :=
  if !w.pf then w
  else
    let first := ((w.queue.filter fun q => !q.done).take sw.pf).map (·.node)
    first.foldl (pfNode room sg sw first) w

/-- One node scored, and what the queue then has prefetched. -/
def visitNode (room : Nat) (c : Coll) (sg : Segment) (sw : SearchW) (a : Walk × Tally) (n : Nat) : Walk × Tally :=
  let (w, t) := scoreNode c sg sw a n
  (prefetch room sg sw w, t)

def setWalk (s : SearchW) (w : Walk) : SearchW := { s with walks := mapIf (fun x => x.seg = w.seg) (fun _ => w) s.walks }

def putSearch (m : Mod) (c : Cmd) (s : SearchW) : Mod := setCmd m { c with search := some s }

/-- Whether the pools of a walker can supply a context (R133). -/
def poolsOk (m : Mod) (w : Walk) : Bool := poolsFit (walksOn m w.die w.inst) w

/-- No walk admitted earlier waits in the same walker's input queue (R133). -/
def firstInQueue (m : Mod) (c : Cmd) (w : Walk) : Bool :=
  !(m.cmds.any fun x => decide (x.seq < c.seq) && (match x.search with
    | some s => s.walks.any fun y => y.die = w.die && y.inst = w.inst && y.st = 0
    | none => false))

/-- A walk's shard, generation, segment and record. -/
structure WalkCtx where
  cmd : Cmd
  co  : Coll
  sg  : Segment
  sw  : SearchW
  w   : Walk

def walkCtx (m : Mod) (cid seg : Nat) : Option WalkCtx := do
  let c ← cmdOf m cid
  let sw ← c.search
  let co ← shardOf m (collId c.entry)
  let g ← genOf co c.gen
  let sg ← segOf g seg
  let w ← sw.walks.find? fun w => w.seg = seg
  pure ⟨c, co, sg, sw, w⟩

/-- A walk's walker: its own while in service, else another of its die. -/
def onWalker (m : Mod) (w : Walk) : Walk :=
  if inService m (walkerUnit w.die w.inst) then w else { w with inst := (pickWalker m [] w.die).getD 16 }

/-- Whether a page of a segment is still on its way to another die (R572). -/
def homing (m : Mod) (s : Segment) : Bool := m.mem.homing.any fun x => decide (x.1 ∈ s.pages) || decide (x.1 ∈ s.table)

/-- Whether a walk may take a context now (R133, R153). -/
def mayStart (m : Mod) (x : WalkCtx) (w : Walk) : Bool :=
  w.st = 0 && w.inst != 16 && !x.sg.degraded && poolsOk m w && firstInQueue m x.cmd w && !unitsStall m && !homing m x.sg

/-- Sector-path reads counted on the stack of the segment's page that a node's share falls in (R403, R405). How a segment's bench 1
pages hold its nodes is the model's choice (DESIGN CHOICE). -/
def countSectors (m : Mod) (sg : Segment) (node n : Nat) : Mod :=
  match sg.pages[node * sg.pages.length / max 1 sg.nodes.length]? with
  | none => m
  | some pg => match pageEnt m pg with
    | some e => if e.bench = 1 && n != 0 then bump m (hbmP (locStack e.loc)) 0x70 n else m
    | none => m

/-- Sectors that a walk has had fetched ahead so far and still counts. -/
def pfTotal (w : Walk) : Nat := pfSum w.pfset + w.waste

/-- Sectors of a node's expansion: its adjacency, and what scoring `n` neighbours reads (Table GW-3). -/
def nodeSectors (sg : Segment) (sw : SearchW) (n : Nat) : Nat := sg.degree / 8 + n * (ceilDiv sg.m 32 + bN sw.hasFil)

/-- A walk takes a context, builds its table and scores its entry set (R133, R136, R139, R141). -/
def walkStart (m : Mod) (cid seg : Nat) : Mod :=
  match walkCtx m cid seg with
  | none => m
  | some x =>
    let w := onWalker m x.w
    if !mayStart m x w then m
    else
      let (t, s, sat) := buildTable x.co.dist x.co.d x.sg.m x.sw.query x.sg.book
      let w := { w with st := 1, table := t, scale := s, pf := bitAt (regN m ⟨w.die, .wlk, w.inst⟩ 0x40) 4 }
      let (w, ty) := x.sg.entry.foldl (visitNode (pfRoom m { w with st := 0 }) x.co x.sg x.sw) (w, tally0)
      let m := countTally m w { ty with sats := ty.sats + bN sat }
      let m := countSectors m x.sg (x.sg.entry.headD 0) (pfTotal w)
      putSearch m x.cmd (setWalk x.sw w)

/-- The neighbours of an expanded node, in stored edge order, until the budget is spent (R141 to R143). -/
def expandAll (room : Nat) (c : Coll) (sg : Segment) (sw : SearchW) : List Nat → Walk × Tally → Walk × Tally
  | [], a => a
  | n :: ns, a =>
    if marked a.1.filter a.1.fbits n then expandAll room c sg sw ns a
    else if a.1.visits = a.1.budget then ({ a.1 with stop := 1 }, a.2)
    else expandAll room c sg sw ns (visitNode room c sg sw ({ a.1 with visits := a.1.visits + 1 }, a.2) n)

/-- A candidate marked expanded; its prefetched data is used. -/
def markExpanded (w : Walk) (n : Nat) : Walk :=
  { w with queue := mapIf (fun y => y.node = n) (fun y => { y with done := true }) w.queue, pfset := w.pfset.filter fun x => x.1 != n }

/-- The stop tick of a command has arrived. -/
def stopped (m : Mod) (c : Cmd) : Bool := match c.stop with | some t => t ≤ now m | none => false

/-- The walker expands the first unexpanded candidate (R141). -/
def walkExpand (m : Mod) (cid seg : Nat) : Mod :=
  match walkCtx m cid seg with
  | none => m
  | some x =>
    if x.w.st != 1 || x.w.stop != 0 || x.sg.degraded || stopped m x.cmd || unitsStall m then m
    else match x.w.queue.find? fun q => !q.done with
    | none => m
    | some q =>
      let room := pfRoom m x.w
      let w := prefetch room x.sg x.sw (markExpanded x.w q.node)
      let adj := (x.sg.nodes[q.node]?.map (·.adj)).getD []
      let v0 := w.visits
      let (w, ty) := expandAll room x.co x.sg x.sw adj (w, tally0)
      let p : Page := ⟨w.die, .wlk, w.inst⟩
      let m := bump (bump (countTally m w ty) p 0x50) p 0x4C (w.visits - v0)
      let ahead := x.w.pfset.find? fun y => y.1 = q.node
      let used := (ahead.map (·.2)).getD 0
      let read := if ahead.isSome then 0 else nodeSectors x.sg x.sw (w.visits - v0)
      let m := countSectors m x.sg q.node (pfTotal w + used - pfTotal x.w + read)
      putSearch m x.cmd (setWalk x.sw w)

/-- The riddle's CRC over an entry's result bytes and its instance (R568). -/
def instBytes : Inst → List Byte
  | .ord s n => toBytes (s % 256 * 2 ^ 32 + n) 8
  | .stock p => toBytes (p.toNat + 2 ^ 47) 8
  | .remote n => toBytes n 8
def entCrc (key : DWord) (score : Word) (flags : Byte) (gen : Word) (i : Inst) : Word :=
  crc32c (entBytes key score flags gen.toNat ++ instBytes i)

def mkEnt (key : DWord) (score : Word) (flags : Byte) (gen : Word) (i : Inst) : REnt :=
  ⟨key, score, flags, gen, i, entCrc key score flags gen i, 0⟩

/-- A walk list as the partial list it hands to the riddle (R47, R180). -/
def walkList (sg : Segment) (w : Walk) : PList :=
  let es := w.list.filterMap fun q => sg.nodes[q.node]?.map fun n => mkEnt n.key q.score 0x05#8 n.wgen (.ord (segId sg) q.node)
  ⟨sortBy entLt es, w.llen ≤ w.list.length, 0⟩

/-- A partial list reaches the riddle: its entries take their place among those that have arrived (R182). -/
def arrive (s : SearchW) (l : PList) : SearchW :=
  let ents := l.ents.map fun (e : REnt) => { e with seq := s.arrived }
  { s with arrived := s.arrived + 1, inbox := s.inbox ++ [{ l with ents := ents }] }

/-- The counters of a walk that ends: walks completed, prefetched sectors never used, and why it ended (R142, R145). -/
def countEnd (why : Nat) (m : Mod) (w : Walk) : Mod :=
  let p : Page := ⟨w.die, .wlk, w.inst⟩
  let m := bump (bump m p 0x48) p 0x5C (w.waste + pfSum w.pfset)
  match why with
  | 1 => bump m p 0x54
  | 2 => bump m p 0x58
  | _ => m

/-- A walk's context given back. -/
def endedWalk (why : Nat) (w : Walk) : Walk :=
  { w with st := 2, stop := why, table := [], queue := [], filter := [], list := [], pfset := [], waste := 0 }

/-- A walk that ends: its list goes to the riddle, its context is free, its counters count (R142); one that the stop tick ends
shows in the search's info (R154). -/
def endWalk (m : Mod) (x : WalkCtx) (why : Nat) : Mod :=
  let sw := setWalk x.sw (endedWalk why x.w)
  putSearch (countEnd why m x.w) x.cmd { arrive sw (walkList x.sg x.w) with dlStop := sw.dlStop || why = 2 }

/-- WALK_END (R142): no unexpanded entry, the budget reached, or the stop tick, at which a walk that was restarted ends its
search with DEADLINE (R155). -/
def walkEnd (m : Mod) (cid seg : Nat) : Mod :=
  match walkCtx m cid seg with
  | none => m
  | some x =>
    if x.w.st != 1 then m
    else if x.w.stop = 1 || x.w.visits = x.w.budget then endWalk m x 1
    else if !(x.w.queue.any fun q => !q.done) then endWalk m x 0
    else if !stopped m x.cmd then m
    else if x.w.again then finishBad m x.cmd 0x11 0
    else endWalk m x 2

/-! Drill scans. -/

/-- The first `n` searches of a collection, in admission order, that satisfy `p`. -/
def batchOf (m : Mod) (coll n : Nat) (p : SearchW → Bool) : List Nat :=
  let l := m.cmds.filter fun c => collId c.entry = coll && (match c.search with | some s => p s | none => false)
  ((sortBy (fun a b => decide (a.seq < b.seq)) l).take n).map (·.id)

/-- The stockpile entries of a slice scored for one search (R150, R187). -/
def scanSlice (c : Coll) (vis : List SEntry) (sw : SearchW) (slice : List Word) : SearchW :=
  let mine := vis.filter fun e => e.pos ∈ slice && !(e.pos ∈ sw.scanned)
  let es := mine.filterMap fun e =>
    if isTomb c (.stock e.pos) || (sw.hasFil && !filterTest sw.enable sw.signed sw.filter e.attr) then none
    else
      let s := exactScore c.dist sw.query (expandVec c.ty e.vec)
      if sw.bound.all fun b => decide (b < orderKey s e.key) then
        some (mkEnt e.key s 0x06#8 e.wgen (.stock e.pos))
      else none
  { sw with scanned := sw.scanned ++ mine.map (·.pos), slist := (sortBy entLt (sw.slist ++ es)).take (sw.k + 16) }

/-- A scan that has met every visible entry hands its list to the riddle. -/
def scanDone (sw : SearchW) (vis : List SEntry) : SearchW :=
  if vis.all fun e => decide (e.pos ∈ sw.scanned) then
    arrive { sw with scan := 2, slist := [] } ⟨sw.slist, sw.k + 16 ≤ sw.slist.length, 1⟩
  else sw

/-- The entries of a slice that a scan scores with a saturated operation (R41). -/
def scanSats (c : Coll) (vis : List SEntry) (sw : SearchW) (slice : List Word) : Nat :=
  (vis.filter fun e => e.pos ∈ slice && !(e.pos ∈ sw.scanned) && !isTomb c (.stock e.pos) &&
    (!sw.hasFil || filterTest sw.enable sw.signed sw.filter e.attr) && exactOver c.dist sw.query (expandVec c.ty e.vec)).length

/-- One search's share of a stockpile scan pass by a drill; a search at its stop tick has no more entries scored (R154). -/
def scanOne (coll : Nat) (u : UnitId) (slice : List Word) (last : Bool) (m : Mod) (cid : Nat) : Mod :=
  match cmdOf m cid with
  | none => m
  | some c =>
    match c.search, shardOf m coll with
    | some sw, some co =>
      match genOf co c.gen with
      | none => m
      | some g =>
        if stopped m c then m
        else
          let vis := visibleStock co g c.admTick
          let sw' := scanSlice co vis sw slice
          putSearch (addSats m u (scanSats co vis sw slice)) c (if last then scanDone sw' vis else sw')
    | _, _ => m

/-- The nodes of a segment that a flat scan scores: those with a vector whose word matches and whose tailings bit is clear
(R171). -/
def flatNodes (c : Coll) (sg : Segment) (sw : SearchW) : List Nat :=
  (upto sg.nodes.length).filter fun i => (sg.nodes[i]?).any fun n =>
    !blank n && filterTest sw.enable sw.signed sw.filter n.attr && !isTomb c (.ord (segId sg) i)

/-- A flat scan's list of one segment for one search (R171, R172): kept in the order of R140, handed over in riddle order. -/
def flatList (c : Coll) (sg : Segment) (sw : SearchW) : PList :=
  let (t, s, _) := buildTable c.dist c.d sg.m sw.query sg.book
  let len := listLen sw.k sw.rr
  let qs := (flatNodes c sg sw).filterMap fun i => sg.nodes[i]?.bind fun n =>
    let sc := pqScore c.dist t s n.code
    if sieveOk sw n sc then some (⟨sc, i, false⟩ : QEnt) else none
  let es := ((sortBy qLt qs).take len).filterMap fun q => sg.nodes[q.node]?.map fun n => mkEnt n.key q.score 0x05#8 n.wgen (.ord (segId sg) q.node)
  ⟨sortBy entLt es, len ≤ es.length, 0⟩

/-- The saturated scores of a flat scan, counted by the drills, and whether its table is saturated, counted by the walker that
built it (R41, R137). Which drills score a node the spec leaves open; the scores count for the segment's die. -/
def flatSats (m : Mod) (c : Coll) (sg : Segment) (sw : SearchW) : Mod :=
  let (t, s, sat) := buildTable c.dist c.d sg.m sw.query sg.book
  let n := ((flatNodes c sg sw).filter fun i => (sg.nodes[i]?).any fun x => pqOver c.dist t s x.code).length
  addSats (bump m ⟨sg.die, .wlk, (pickWalker m [] sg.die).getD 0⟩ 0x64 (bN sat)) (.page (drlP (2 * sg.die))) n

def flatOne (coll seg : Nat) (m : Mod) (cid : Nat) : Mod :=
  match cmdOf m cid with
  | none => m
  | some c =>
    match c.search, (shardOf m coll).bind fun co => (genOf co c.gen).bind fun g => (segOf g seg).map fun s => (co, s) with
    | some sw, some (co, sg) =>
      if stopped m c then m
      else putSearch (flatSats m co sg sw) c (arrive { sw with flats := sw.flats.filter (· != seg) } (flatList co sg sw))
    | _, _ => m

/-! The riddle. -/

/-- Of two entries for one key, whether the second is kept (R182): better score, then higher generation, then earlier
arrival. -/
def betterDup (a b : REnt) : Bool :=
  let sa := orderKey a.score 0#64
  let sb := orderKey b.score 0#64
  sb < sa || (sb = sa && (a.gen.toNat < b.gen.toNat || (a.gen = b.gen && b.seq < a.seq)))

/-- An entry taken into a held list; the second part counts duplicates discarded. -/
def takeEnt (acc : List REnt × Nat) (e : REnt) : List REnt × Nat :=
  match acc.1.find? fun x => x.key = e.key with
  | none => (insertBy entLt e acc.1, acc.2)
  | some x =>
    if betterDup x e then (insertBy entLt e (acc.1.filter fun y => y.key != e.key), acc.2 + 1) else (acc.1, acc.2 + 1)

/-- A partial list merged into a held list (R178, R182, R183): the list kept, duplicates and NaNs discarded. -/
def mergeList (held es : List REnt) (bound : Option Nat) (len : Nat) : List REnt × Nat × Nat :=
  let nans := (es.filter fun e => isNan e.score).length
  let ok := es.filter fun e => !isNan e.score && (match bound with | some b => b < orderKey e.score e.key | none => true)
  let (h, d) := ok.foldl takeEnt (held, 0)
  (h.take len, d, nans)

def riddlePage (s : SearchW) : Page := ⟨s.rdie, .rdl, s.rinst⟩

/-- A list merged into the search's held list, with the riddle's counters. -/
def mergeInto (m : Mod) (s : SearchW) (l : PList) (len : Nat) : Mod × SearchW :=
  let (h, d, n) := mergeList s.held l.ents s.bound len
  (bump (bump m (riddlePage s) 0x44 d) (riddlePage s) 0x48 n, { s with held := h, nan := min 255 (s.nan + n), anyFull := s.anyFull || l.full })

/-- How many distinct valid entries the walk lists and the stockpile list hold together (R173, R175). -/
def heldTotal (s : SearchW) : Nat :=
  ((s.late.filter fun l => l.kind = 1).foldl (fun h l => (mergeList h l.ents s.bound (h.length + l.ents.length)).1) s.held).length

/-- Whether a search that turns out short runs a widened pass (R173, R174). -/
def couldWiden (m : Mod) (c : Cmd) (s : SearchW) : Bool :=
  s.hasFil && !s.flat && s.widen && !s.widened && !stopped m c && (s.beam < 1024 || s.budget < 2 ^ 24)
def mayWiden (m : Mod) (c : Cmd) (s : SearchW) : Bool := couldWiden m c s && heldTotal s < s.k

/-- The walks of a widened pass (R173). -/
def widenWalks (m : Mod) (g : Gen) (s : SearchW) : SearchW :=
  let b := min (2 * s.beam) 1024
  let v := min (2 * s.budget) (2 ^ 24)
  { s with widened := true, beam := b, budget := v, walks := placeWalks m g b v (listLen s.k s.rr) }

/-- Every walk and flat scan has ended and its lists are merged; the stockpile scan too, where the merge takes its list or the short
test needs it (R150, R175). -/
def allIn (m : Mod) (c : Cmd) (s : SearchW) : Bool :=
  s.inbox.isEmpty && s.flats.isEmpty && s.walks.all (fun w => w.st = 2) &&
  (s.scan != 1 || (s.rr != 0 && !mayWiden m c s))

/-- The last merge: stockpile and remote lists join what is held, once every list has arrived (R183). -/
def lastMerge (m : Mod) (c : Cmd) (s : SearchW) : Mod :=
  if !s.waitFor.isEmpty || !s.inbox.isEmpty || s.scan = 1 then putSearch m c { s with stage := 2 }
  else
    let (m, s) := s.late.foldl (fun a l => mergeInto a.1 a.2 l (s.k + 16)) (m, s)
    putSearch m c { s with late := [], held := s.held.take (s.k + 16), stage := 3, dlStop := s.dlStop || stopped m c }

/-- What follows when a stage has everything it waits for (R150, R173, R175, R183). -/
def advance (m : Mod) (c : Cmd) (s : SearchW) : Mod :=
  if s.stage = 0 && allIn m c s then
    match mayWiden m c s, (shardOf m (collId c.entry)).bind (genOf · c.gen) with
    | true, some g =>
      let s := widenWalks m g s
      placeWork (putSearch (bump m sivP 0x48) c s) s.walks
    | _, _ =>
      if s.rr = 0 then lastMerge m c s
      else
        let top := s.held.take s.rr
        let s := { s with cand := (upto top.length).zip top, held := [], stage := 1 }
        if top.isEmpty then lastMerge m c { s with stage := 2 } else putSearch m c s
  else if (s.stage = 1 && s.cand.isEmpty) || s.stage = 2 then lastMerge m c s
  else putSearch m c s

/-- RIDDLE_MERGE (R183): the first list that has arrived is merged; a stockpile or remote list of a search that
re-ranks, or of a home search, waits for the final stage. -/
def riddleMerge (m : Mod) (cid : Nat) : Mod :=
  match cmdOf m cid with
  | none => m
  | some c =>
    match c.search with
    | none => m
    | some s =>
      match s.inbox with
      | [] => advance m c s
      | l :: ls =>
        let s := { s with inbox := ls }
        if l.kind = 2 || (l.kind = 1 && s.rr != 0) then
          advance m c { s with late := s.late ++ [l], anyFull := s.anyFull || l.full }
        else
          let (m, s) := mergeInto m s l (listLen s.k s.rr)
          advance m c s

/-! Exact re-rank (R151 to R153). -/

/-- The channel of a node's vector: that of its bench 2 page, else the one the page's number would take (R440). -/
def vecChannel (m : Mod) (c : Coll) (sg : Segment) (n : Nat) : Nat :=
  let pg := pageNo (vecAddr c sg n)
  match pageEnt m pg with
  | some e => if e.bench = 2 then e.loc else pg % 32
  | none => pg % 32

/-- The drift engine that scores a channel's candidates (R572); one in its ramp takes its share alone (R574). -/
def driftFor (m : Mod) (ch : Nat) : Nat :=
  let u (k : Nat) : UnitId := .page ⟨4, .dft, k⟩
  let other := (ch + 16) % 32
  if inService m (u ch) && (mayTake m (u ch) 0 0 || !inService m (u other)) then ch else other

/-- The data units of a vector with a granule that the write buffer does not hold: they are read from flash (R89, R152). -/
def flashUnits (m : Mod) (a n : Nat) : List Nat :=
  (((upto (ceilDiv n 32)).map fun i => a + 32 * i).filter fun g => (wbFind m g).isNone).map (· / 4096) |>.eraseDups

/-- RERANK: one candidate's exact score returns, or an uncorrectable flash unit of its vector ends the search with MEDIA_ERROR:
the channel's log names the unit, the drift engine's the ordinal (R152, R153). -/
def rerankOp (m : Mod) (cid idx : Nat) (ecc : Ecc) : Mod :=
  if unitsStall m then m
  else match cmdOf m cid with
  | none => m
  | some c =>
    match c.search, shardOf m (collId c.entry) with
    | some s, some co =>
      match s.cand.find? fun x => x.1 = idx with
      | none => m
      | some (_, e) =>
        match e.src with
        | .ord sn n =>
          match (genOf co c.gen).bind (segById · sn) with
          | none => m
          | some sg =>
            let ch := vecChannel m co sg n
            let us := flashUnits m (vecAddr co sg n) (vecStride co)
            let p : Page := ⟨4, .dft, driftFor m ch⟩
            let f : Page := ⟨4, .flc, ch⟩
            let m := placed (if us.isEmpty then bump m p 0x44 else bump m f 0x4C us.length) (.page p)
            match us, ecc with
            | u :: _, .uncorrectable =>
              let m := logErr (logErr (bump m f 0x58) p 0x04 (sg.no * 2 ^ 32 + n)) f 0x04 u
              finishBad m c 0x30 0
            | _, _ =>
              let m := match us, ecc with
                | u :: _, .corrected => logErr (bump m f 0x54) f 0x03 u
                | _, _ => m
              let x := expandVec co.ty ((sg.nodes[n]?.map (·.vec)).getD [])
              let m := addSats (bump m p 0x40) (.page p) (bN (exactOver co.dist s.query x))
              let e' : REnt := { mkEnt e.key (exactScore co.dist s.query x) 0x0C#8 e.gen e.src with seq := s.arrived }
              let s := { s with cand := s.cand.filter (fun y => y.1 != idx), arrived := s.arrived + 1 }
              let (m, s) := mergeInto m s ⟨[e'], false, 0⟩ (s.k + 16)
              advance m c s
        | _ => m
    | _, _ => m

/-! The stop tick (R154, R155, R172, R174). -/

/-- A search that finalises from what it holds: running walks and scans hand over, outstanding candidates keep
their PQ score, remote lists not arrived are not waited for. -/
def finalise (m : Mod) (c : Cmd) (s : SearchW) : Mod :=
  let co := shardOf m (collId c.entry)
  let seg (n : Nat) := (co.bind (genOf · c.gen)).bind (segOf · n)
  let m := (s.walks.filter fun w => w.st = 1).foldl (countEnd 2) m
  let lists := (s.walks.filter fun w => w.st = 1).filterMap fun w => (seg w.seg).map fun g => walkList g w
  let stock := if s.scan = 1 then [(⟨s.slist, s.k + 16 ≤ s.slist.length, 1⟩ : PList)] else []
  let ended := s.walks.map fun w => if w.st = 2 then w else endedWalk 2 w
  let s := (lists ++ stock).foldl arrive { s with walks := ended, scan := 2, flats := [], slist := [] }
  let all := s.inbox ++ s.late ++ [⟨s.cand.map (·.2), false, 0⟩]
  let (m, s) := all.foldl (fun a l => mergeInto a.1 a.2 l (s.k + 16)) (m, { s with inbox := [], late := [], cand := [] })
  putSearch m c { s with stage := 3, dlStop := true, waitFor := [] }

def searchStop (m : Mod) (cid : Nat) : Mod :=
  match cmdOf m cid with
  | none => m
  | some c =>
    match c.search with
    | none => m
    | some s =>
      if !stopped m c then m
      else if s.stage = 3 then if m.saf.engines.isSome then finishBad m c 0x11 0 else m
      else if !s.waitFor.isEmpty then
        let late := s.waitFor.filter fun n => !(s.ends.any fun e => e.1 = n)
        putSearch m c { s with ends := s.ends ++ late.map fun n => (n, 0x11, 0) }
      else if s.walks.any (fun w => w.again && w.st != 2) then finishBad m c 0x11 0
      else finalise m c s

end Sys2Proof.Machine
end

