-- ==== Sys2Proof/Machine/CmdCheck.lean ====
section
/-! DEFINITION. The checks of a submission entry (chapter 04): its header and arguments (R71, R72, R97 to R107),
and its payload as it is fetched (R101, R112, R115, R160). -/

namespace Sys2Proof.Machine
open Fp

/-- BAD_COMMAND's info (R100): the byte offset of the field, and an item index or 0xFF_FFFF for the entry itself. -/
def badAt (off : Nat) (idx : Nat := 0xFFFFFF) : Nat := off + idx % 2 ^ 24 * 256

/-- A field to check: its byte offset, and whether it offends. -/
abbrev Chk := Nat × Bool

def inR (e : BitVec 512) (b n lo hi : Nat) : Chk := (b, !(lo ≤ fld e b n && fld e b n ≤ hi))
def orZero (e : BitVec 512) (b n lo hi : Nat) : Chk := (b, fld e b n != 0 && !(lo ≤ fld e b n && fld e b n ≤ hi))
def zero (e : BitVec 512) (b n : Nat) : Chk := (b, fld e b n != 0)
/-- Bits from `k` on of a field are 0. -/
def below (e : BitVec 512) (b n k : Nat) : Chk := (b, decide (2 ^ k ≤ fld e b n))

/-- A pointer to a buffer (R97 to R99, R427): aligned, and in device memory wholly within allocated pages. -/
def ptrBad (m : Mod) (v align size : Nat) (opt : Bool) : Bool :=
  if v = 0 then !opt
  else v % align != 0 || (bitAt v 63 && (bits v 46 17 != 0 || !rangeOk m (v % 2 ^ 46) (max size 1)))

def ptr (m : Mod) (e : BitVec 512) (b size : Nat) (opt : Bool := false) (align : Nat := 32) : Chk :=
  (b, ptrBad m (fld e b 8) align size opt)

/-- Whether a range of device addresses ends past bench 2 or meets a retired page (R99, R416). -/
def rangeGone (m : Mod) (a n : Nat) : Bool :=
  decide (devEnd < a + n) || m.mem.retiredPg.any fun p => decide (pageNo a ≤ p ∧ p * pageSize < a + max n 1)

/-- A device pointer that names pages and no data: it may name unallocated ones (R428). -/
def pagePtr (m : Mod) (e : BitVec 512) (b align size : Nat) : Chk :=
  let v := fld e b 8
  (b, !(bitAt v 63 && bits v 46 17 = 0 && v % align = 0) || rangeGone m (v % 2 ^ 46) size)

/-- A declared region that is not wholly in the host window, or holds a retired page (R99, R126). -/
def regionBad (m : Mod) (base len : Nat) : Bool :=
  (base != 0 || len != 0) && (!(bitAt base 63 && bits base 46 17 = 0 && base % 32 = 0 && decide (hostBase ≤ base % 2 ^ 46)) ||
    rangeGone m (base % 2 ^ 46) len)

/-- The opcodes of Table CM-1. -/
def opcodes : List Nat :=
  [0x01, 0x03, 0x10, 0x11, 0x12, 0x13, 0x14, 0x20, 0x21, 0x22, 0x23, 0x30, 0x31, 0x40, 0x41, 0x50, 0x51, 0x60, 0x61,
   0x70, 0x71, 0x72, 0x73]

/-- Opcodes that name a collection (Table CM-1). -/
def needsColl (op : Nat) : Bool :=
  op ∈ [0x01, 0x03, 0x10, 0x11, 0x12, 0x14, 0x20, 0x21, 0x22, 0x23, 0x70, 0x71, 0x72]

/-- Opcodes that take a ledger record: the mutations of R85. -/
def isMutation (op : Nat) : Bool :=
  op ∈ [0x10, 0x11, 0x12, 0x14, 0x20, 0x21, 0x22, 0x23, 0x31, 0x70, 0x71, 0x72, 0x73]

/-- Opcodes with a stop tick (R86). -/
def hasStop (op : Nat) : Bool := op ∈ [0x01, 0x03, 0x13, 0x30, 0x40, 0x41]

/-- The classes an opcode admits (R104). -/
def classOk (op cls : Nat) : Bool :=
  if op = 0x20 || op = 0x21 then cls = 3
  else if op ∈ [0x22, 0x23, 0x60, 0x61, 0x70, 0x71, 0x72] then cls != 3 || op = 0x61
  else true

/-- The header's fields in byte order (R71, R72, R102, R104, R105, R107). -/
def headerChks (e : BitVec 512) : List Chk :=
  let op := opcodeOf e
  let cls := classOf e
  [(0, !(op ∈ opcodes)),
   (1, bits (fld e 1 1) 5 3 != 0 || (elastic e && op != 0x01) || !classOk op cls),
   (2, !needsColl op && collId e != 0),
   (8, decide (cls = 3) != decide (deadlineOf e = 0)),
   zero e 11 1,
   (12, (genField e != 0 && !(op = 0x01 || op = 0x03)) || (op = 0x01 && bitAt (fld e 39 1) 1 && genField e = 0))]

/-- Padded bytes of `d` elements of a type, of the named collection (a collection that is absent has none). -/
def vecBytes (m : Mod) (e : BitVec 512) (fp32 : Bool) : Nat :=
  match collOf m (collId e) with
  | none => 1
  | some c => alignUp (c.d * (if fp32 then 4 else elemBytes c.ty)) 32

/-- The version of a package that is current (R31, R263). -/
def pkgCur (m : Mod) (id : Nat) : Option PkgVer := m.pkgs.find? fun p => p.id = id && p.cur

/-- The table a command names, of the current version of its package. -/
def tableOf (p : PkgVer) (t : Nat) : Option TableDesc := p.pkg.tables[t]?

/-- The table that an entry of TABLE_LOOKUP or TABLE_UPDATE names, of the current version of its package. -/
def entryTable (m : Mod) (e : BitVec 512) : Option TableDesc :=
  (pkgCur m (fld e 16 2)).bind fun p => tableOf p (fld e 18 1)

/-- Bytes of a row of deltas, and of a pooled row, each padded to 32 (Table CM-11); of a table that is absent, one. -/
def deltaBytes (m : Mod) (e : BitVec 512) : Nat :=
  match entryTable m e with
  | none => 1
  | some t => alignUp (t.w * (if fld e 19 1 = 0 then 4 else elemBytes t.ty)) 32
/-- Bytes of one weight of a look-up. -/
def weightBytes (m : Mod) (e : BitVec 512) : Nat :=
  match entryTable m e with
  | some t => if fld e 19 1 = 0 then 4 else elemBytes t.ty
  | none => 4
def poolBytes (m : Mod) (e : BitVec 512) : Nat :=
  match entryTable m e with
  | none => 1
  | some t => alignUp (t.w * elemBytes (fld e 58 1)) 32

/-- Bytes of an EMBED vector, padded to 32 (Table CM-6). -/
def embedVecBytes (m : Mod) (e : BitVec 512) : Nat :=
  match pkgCur m (fld e 34 2) with
  | none => 1
  | some p => alignUp (p.pkg.enc.outDim * elemBytes (fld e 37 1)) 32

/-- Where a pointer of an entry names device memory (R97). -/
def devPtr (e : BitVec 512) (b : Nat) : Option Nat :=
  if bitAt (fld e b 8) 63 then some (fld e b 8 % 2 ^ 46) else none

/-- Bytes of the filter block, by its first byte: a header and up to eight terms of 16 bytes (Table SR-1). -/
def filterBytes (n : Nat) : Nat := 16 + 16 * min n 8
/-- Bytes of a shard map of `n` nodes, padded to 32 (R495). -/
def mapBytes (n : Nat) : Nat := alignUp (2 + 2 * min n 4096) 32

/-- Bytes of a filter block or shard map in device memory: the first bytes say how many follow. -/
def filterSize (m : Mod) (e : BitVec 512) : Nat :=
  match devPtr e 56 with
  | some a => filterBytes (readByte m a).toNat
  | none => 16
def mapSize (m : Mod) (e : BitVec 512) : Nat :=
  match devPtr e 56 with
  | some a => mapBytes (ofBytes (readBytes m a 2))
  | none => 32

/-- The arguments in byte order (Tables CM-2 to CM-14). Bytes 36 to 51 of a RUN_FACE, which Table CM-12 gives to RUN_DRILL
alone and does not call reserved, must be 0 (DESIGN CHOICE). -/
def argChks (m : Mod) (e : BitVec 512) : List Chk :=
  let f := fld e
  match opcodeOf e with
  | 0x01 => [ptr m e 16 (vecBytes m e (!bitAt (f 39 1) 0)), ptr m e 24 (16 * f 32 2) false 16, inR e 32 2 1 256,
      orZero e 34 2 16 1024, (36, decide (1024 < f 36 2) && f 36 2 != 0xFFFF), inR e 38 1 0 16, below e 39 1 5,
      orZero e 40 4 64 (2 ^ 24), (44, bitAt (f 39 1) 1 && Fp.isNan (BitVec.ofNat 32 (f 44 4))), ptr m e 56 (filterSize m e) true]
  | 0x03 => [ptr m e 16 (8 * f 32 2), ptr m e 24 (f 32 2 * (32 + vecBytes m e (f 34 1 = 0))), inR e 32 2 1 256,
      inR e 34 1 0 1, zero e 35 29]
  | 0x10 | 0x11 => [ptr m e 16 (8 * f 40 2), ptr m e 24 (f 40 2 * vecBytes m e (f 42 1 = 0)), ptr m e 32 (16 * f 40 2) true,
      inR e 40 2 1 256, inR e 42 1 0 1, zero e 43 21]
  | 0x12 => [ptr m e 16 (8 * f 24 2), inR e 24 2 1 4096, zero e 26 38]
  | 0x13 => [ptr m e 16 (16 * f 32 2), ptr m e 24 (f 32 2 * embedVecBytes m e), inR e 32 2 1 1024, inR e 34 2 1 65535, inR e 36 1 0 1,
      inR e 37 1 0 3, zero e 38 26]
  | 0x14 => [ptr m e 16 (32 * f 24 2), inR e 24 2 1 256, inR e 26 2 1 65535, inR e 28 1 0 1, zero e 29 35]
  | 0x20 => [below e 21 1 1, zero e 22 42]
  | 0x21 => [ptr m e 16 (8 * f 40 4), ptr m e 24 (f 40 4 * vecBytes m e false), ptr m e 32 (16 * f 40 4) true,
      inR e 40 4 1 (2 ^ 32 - 1), (45, f 45 1 != 0 && !(16 ≤ f 45 1 && f 45 1 ≤ 64 && f 45 1 % 8 = 0)),
      orZero e 46 1 1 32, zero e 47 1, orZero e 48 2 64 1024, zero e 50 14]
  | 0x22 => [inR e 52 4 0 0xFFFFFF, ptr m e 56 (mapSize m e) true]
  | 0x23 => [zero e 20 44]
  | 0x30 => [inR e 16 2 1 65535, inR e 18 1 0 63, inR e 19 1 0 1, ptr m e 20 (8 * f 28 4), inR e 28 4 1 65536,
      ptr m e 32 (f 28 4 * weightBytes m e) true, ptr m e 40 (4 * (f 56 2 + 1)), ptr m e 48 (f 56 2 * poolBytes m e), inR e 56 2 1 4096, inR e 58 1 0 3,
      zero e 59 5]
  | 0x31 => [inR e 16 2 1 65535, inR e 18 1 0 63, inR e 19 1 0 1, ptr m e 20 (8 * f 28 4), inR e 28 4 1 4096,
      ptr m e 32 (f 28 4 * deltaBytes m e), zero e 40 24]
  | 0x40 => [inR e 16 2 1 65535, inR e 18 2 0 4095, inR e 20 2 1 128, ptr m e 24 (f 32 4) true, inR e 32 4 0 (2 ^ 20),
      zero e 36 16, zero e 52 12]
  | 0x41 => [inR e 16 2 1 65535, inR e 18 2 0 4095, (20, f 20 1 = 0), zero e 21 1, inR e 22 2 1 384,
      ptr m e 24 (f 32 4) true, inR e 32 4 0 64, (36, regionBad m (f 36 8) (f 44 8)), (44, decide (2 ^ 40 < f 44 8) || f 44 8 % 32 != 0), zero e 52 12]
  | 0x50 => [pagePtr m e 16 65536 (f 24 4 * 65536), inR e 24 4 1 65536, inR e 28 1 0 2,
      below e 29 1 2, zero e 30 34]
  | 0x51 => [pagePtr m e 16 1 (f 24 8), inR e 24 8 0 (2 ^ 46), zero e 32 32]
  | 0x60 => [inR e 16 2 0 4095, below e 18 1 1, zero e 19 1, zero e 24 40]
  | 0x70 => [(16, !(8 ≤ f 16 2 && f 16 2 ≤ 4096 && f 16 2 % 8 = 0)), inR e 18 1 0 3, inR e 19 1 0 2, orZero e 20 1 20 26,
      zero e 21 1, below e 22 2 12, zero e 24 40]
  | 0x72 => [below e 16 1 4, below e 17 1 2, below e 18 1 1, zero e 19 13, zero e 48 16]
  | 0x73 => [ptr m e 16 (f 24 4), inR e 24 4 1 (2 ^ 32 - 1), inR e 28 2 1 65535, below e 30 1 1, zero e 31 33]
  | _ => [zero e 16 48]

/-- The info of a malformed entry: its first offending field (R99, R100). -/
def entryFault (m : Mod) (e : BitVec 512) : Option Nat :=
  ((headerChks e ++ argChks m e).find? (·.2)).map fun c => badAt c.1

/-! Payload checks. -/

def padKey : DWord := 0#64 - 1#64

/-- The keys of a batch (R26, R112, R115): the reserved key, and where `dup` says so a key given twice. -/
def keyFault (dup : Bool) (ks : List DWord) : Option Nat :=
  let res := findIdx' (· = padKey) ks
  let rep := if dup then firstRepeat ks else none
  match res, rep with
  | some a, some b => some (min a b)
  | some a, none => some a
  | none, r => r

/-- The vectors of a batch (R36, R37): the status and info of the first that fails. -/
def vecFault (fp32 : Bool) (c : Coll) (off : Nat) (vs : List (List Word)) : Option (Nat × Nat) :=
  match findIdx' (fun v => v.length != c.d || vecBad fp32 c.ty c.dist v) vs with
  | none => none
  | some i => if (vs.getD i []).length != c.d then some (0x20, badAt off i) else some (0x22, i)

/-- The package field of an entry: its byte offset. -/
def pkgField (op : Nat) : Option Nat :=
  match op with
  | 0x13 => some 34
  | 0x14 => some 26
  | 0x30 | 0x31 | 0x40 | 0x41 => some 16
  | _ => none

/-- Cache bytes a document of `t` tokens reserves, in whole pages (R287), and the limit in bytes. -/
def kvPages (p : Package) (t : Nat) : Nat := ceilDiv (t * p.enc.kvBytes) pageSize
def kvLimit (m : Mod) : Nat := bits (regN m ctlP 0x144) 0 10 * 2 ^ 30
def kvTooBig (m : Mod) (p : Package) (t : Nat) : Bool := decide (kvLimit m < kvPages p t * pageSize)

/-- Documents as fetched (R98, R99, R116, R288): a bad pointer of a descriptor, a length out of range, or tokens whose
reservation exceeds the limit. -/
def docFault (m : Mod) (pkg : Nat) (text : Bool) (ds : List Doc) : Option Nat :=
  findIdx' (fun d =>
    ptrBad m d.ptr 32 (if text then d.len else 4 * d.len) false || ptrBad m d.aptr 32 16 true ||
    if text then d.len < 1 || decide (2 ^ 26 < d.len)
    else d.len < 1 || decide (2097152 < d.len) || (match pkgCur m pkg with
      | some p => kvTooBig m p.pkg d.len
      | none => false)) ds

/-! Inputs in device memory (R97): what the pointers of an entry name is read from there. An input in host memory is what the
payload says the link returned. -/

/-- Items of `k` bytes in device memory, one every `stride` bytes. -/
def devItems (w : Nat) (m : Mod) (a n k stride : Nat) : List (BitVec w) :=
  (upto n).map fun i => BitVec.ofNat w (ofBytes (readBytes m (a + i * stride) k))

/-- Rows of `d` codes of a type in device memory, each padded to 32 bytes. -/
def devRows (m : Mod) (a n d ty : Nat) : List (List Word) :=
  let pitch := alignUp (d * elemBytes ty) 32
  (upto n).map fun i =>
    let bs := readBytes m (a + i * pitch) pitch
    (upto d).map fun k => BitVec.ofNat 32 (unpackCode ty bs k)

/-- The inputs whose layout the named collection or table gives: the query, the vectors, the deltas. -/
def loadRows (m : Mod) (e : BitVec 512) (pl : Payload) : Payload :=
  let f := fld e
  let ty (fp32 : Bool) (c : Coll) : Nat := if fp32 then 0 else c.ty
  match opcodeOf e, collOf m (collId e) with
  | 0x01, some c => match devPtr e 16 with
    | some a => { pl with query := (devRows m a 1 c.d (ty (!bitAt (f 39 1) 0) c)).headD [] }
    | none => pl
  | 0x10, some c | 0x11, some c => match devPtr e 24 with
    | some a => { pl with vecs := devRows m a (f 40 2) c.d (ty (f 42 1 = 0) c) }
    | none => pl
  | 0x21, some c => match devPtr e 24 with
    | some a => { pl with vecs := devRows m a (f 40 4) c.d c.ty }
    | none => pl
  | 0x31, _ => match devPtr e 32, entryTable m e with
    | some a, some t => { pl with vecs := devRows m a (f 28 4) t.w (if f 19 1 = 0 then 0 else t.ty) }
    | _, _ => pl
  | _, _ => pl

/-- A descriptor read at a device address (Tables CM-6, CM-7). -/
def devDoc (m : Mod) (ins : Bool) (a : Nat) (d : Doc) : Doc :=
  let n (o k : Nat) : Nat := ofBytes (readBytes m (a + o) k)
  { d with ptr := n 0 8, len := n 8 4, key := BitVec.ofNat 64 (if ins then n 16 8 else 0), aptr := if ins then n 24 8 else 0 }

/-- What a descriptor's own pointers name: the text in device memory as tokens, and the attribute word. -/
def docData (m : Mod) (p : Option PkgVer) (text : Bool) (d : Doc) : Doc :=
  let at' (v : Nat) : Option Nat := if bitAt v 63 then some (v % 2 ^ 46) else none
  let toks := match at' d.ptr, p with
    | some a, some p => if text && d.len ≤ 2 ^ 26 then Config.tokens p.id p.ver (readBytes m a d.len) else d.tokens
    | _, _ => d.tokens
  let attr := match at' d.aptr with
    | some a => BitVec.ofNat 128 (ofBytes (readBytes m a 16))
    | none => d.attr.getD 0#128
  { d with tokens := toks, attr := if d.aptr = 0 then none else some attr }

/-- The documents of an EMBED or EMBED_INSERT. -/
def loadDocs (m : Mod) (e : BitVec 512) (pl : Payload) : List Doc :=
  let ins : Bool := opcodeOf e = 0x14
  let n := if ins then fld e 24 2 else fld e 32 2
  let ds := match devPtr e 16 with
    | some a => (upto n).map fun i => devDoc m ins (a + i * (if ins then 32 else 16)) (pl.docs.getD i ⟨0, 0, [], 0#64, 0, none⟩)
    | none => pl.docs
  let p := (pkgField (opcodeOf e)).bind fun o => pkgCur m (fld e o 2)
  ds.map (docData m p ((if ins then fld e 28 1 else fld e 36 1) = 1))

/-- The payload as the module has it: what device pointers name is read from device memory. -/
def loadPayload (m : Mod) (e : BitVec 512) (pl : Payload) : Payload :=
  let f := fld e
  let items (w b n k : Nat) (l : List (BitVec w)) : List (BitVec w) := match devPtr e b with
    | some a => devItems w m a n k k
    | none => l
  let pl := loadRows m e pl
  match opcodeOf e with
  | 0x01 => { pl with filter := items 8 56 (filterSize m e) 1 pl.filter }
  | 0x03 => { pl with keys := items 64 16 (f 32 2) 8 pl.keys }
  | 0x10 | 0x11 => { pl with keys := items 64 16 (f 40 2) 8 pl.keys, attrs := items 128 32 (f 40 2) 16 pl.attrs }
  | 0x12 => { pl with keys := items 64 16 (f 24 2) 8 pl.keys }
  | 0x13 | 0x14 => { pl with docs := loadDocs m e pl }
  | 0x21 => { pl with keys := items 64 16 (f 40 4) 8 pl.keys, attrs := items 128 32 (f 40 4) 16 pl.attrs }
  | 0x22 => match devPtr e 56 with
    | some a => { pl with shardMap := devItems 16 m (a + 2) (ofBytes (readBytes m a 2)) 2 2 }
    | none => pl
  | 0x30 => { pl with
      indices := items 64 20 (f 28 4) 8 pl.indices
      weights := items 32 32 (f 28 4) (weightBytes m e) pl.weights
      offsets := items 32 40 (f 56 2 + 1) 4 pl.offsets }
  | 0x31 => { pl with indices := items 64 20 (f 28 4) 8 pl.indices }
  | 0x40 | 0x41 => { pl with args := items 8 24 (f 32 4) 1 pl.args }
  | _ => pl

/-- Whether an opcode's inputs are read as its entry is fetched (R101); documents are judged then too (R288). -/
def readAtFetch (op : Nat) : Bool := op ∈ [0x01, 0x10, 0x11, 0x12, 0x13, 0x14, 0x31]

/-- The input buffers of an entry: pointer and bytes. -/
def inputsOf (m : Mod) (e : BitVec 512) (pl : Payload) : List (Nat × Nat) :=
  let f := fld e
  let l : List (Nat × Nat) := match opcodeOf e with
    | 0x01 => [(16, vecBytes m e (!bitAt (f 39 1) 0)), (56, filterBytes (pl.filter.headD 0#8).toNat)]
    | 0x03 => [(16, 8 * f 32 2)]
    | 0x10 | 0x11 => [(16, 8 * f 40 2), (24, f 40 2 * vecBytes m e (f 42 1 = 0)), (32, 16 * f 40 2)]
    | 0x12 => [(16, 8 * f 24 2)]
    | 0x13 => [(16, 16 * f 32 2)]
    | 0x14 => [(16, 32 * f 24 2)]
    | 0x21 => [(16, 8 * f 40 4), (24, f 40 4 * vecBytes m e false), (32, 16 * f 40 4)]
    | 0x22 => [(56, mapBytes pl.shardMap.length)]
    | 0x30 => [(20, 8 * f 28 4), (32, f 28 4 * weightBytes m e), (40, 4 * (f 56 2 + 1))]
    | 0x31 => [(20, 8 * f 28 4), (32, f 28 4 * deltaBytes m e)]
    | 0x40 | 0x41 => [(24, f 32 4)]
    | 0x73 => [(16, f 24 4)]
    | _ => []
  l.map fun x => (f x.1 8, x.2)

/-- The documents and attribute words that descriptors point to: pointer and bytes. -/
def docInputs (e : BitVec 512) (pl : Payload) : List (Nat × Nat) :=
  let ins : Bool := opcodeOf e = 0x14
  if opcodeOf e != 0x13 && !ins then []
  else
    let text : Bool := (if ins then fld e 28 1 else fld e 36 1) = 1
    pl.docs.flatMap fun d => [(d.ptr, if text then d.len else 4 * d.len), (d.aptr, 16)]

/-- Those inputs that lie in device memory. -/
def devInputs (m : Mod) (e : BitVec 512) (pl : Payload) : List (Nat × Nat) :=
  ((inputsOf m e pl ++ docInputs e pl).filter fun x => bitAt x.1 63 && x.2 != 0).map fun x => (x.1 % 2 ^ 46, x.2)

/-- Whether an input holds a granule known to be uncorrectable (R421). -/
def inputHurt (m : Mod) (e : BitVec 512) (pl : Payload) : Bool :=
  (devInputs m e pl).any fun r => m.mem.ue.any fun g => decide (r.1 < g + 32 ∧ g < r.1 + r.2)

/-- Whether an input lies in a line that the host holds for writing, so that a Recall comes first (Table VL-6). -/
def inputLeased (m : Mod) (e : BitVec 512) (pl : Payload) : Bool := (devInputs m e pl).any fun r => leaseHeld m r.1 r.2
def recallInputs (m : Mod) (e : BitVec 512) (pl : Payload) : Mod := (devInputs m e pl).foldl (fun m r => recallRange m r.1 r.2) m

/-- The verdict of the checks made at fetch (R101), against the collection as it stands. -/
def fetchVerdict (m : Mod) (e : BitVec 512) (pl : Payload) : Option (Nat × Nat) :=
  let bad (off : Nat) (i : Option Nat) : Option (Nat × Nat) := i.map fun i => (0x20, badAt off i)
  let co := collOf m (collId e)
  if readAtFetch (opcodeOf e) && inputHurt m e pl then some (0x30, 0)
  else match opcodeOf e with
  | 0x01 =>
    let q : Option (Nat × Nat) := co.bind fun c =>
      if pl.query.length != c.d then some (0x20, badAt 16 0)
      else if queryBad (!bitAt (fld e 39 1) 0) c.ty c.dist pl.query then some (0x22, 0) else none
    q.orElse fun _ =>
      if fld e 56 8 = 0 then none
      else match parseFilter (co.map (·.signed)) pl.filter with
        | .error i => some (0x20, badAt 56 i)
        | .ok _ => none
  | 0x10 | 0x11 =>
    (bad 16 (keyFault true pl.keys)).orElse fun _ => co.bind fun c => vecFault (fld e 42 1 = 0) c 24 pl.vecs
  | 0x12 => bad 16 (keyFault false pl.keys)
  | 0x13 => bad 16 (docFault m (fld e 34 2) (fld e 36 1 = 1) pl.docs)
  | 0x14 => bad 16 (docFault m (fld e 26 2) (fld e 28 1 = 1) pl.docs)
  | 0x31 => (pkgCur m (fld e 16 2)).bind fun p => (tableOf p (fld e 18 1)).bind fun t =>
      if (t.kind = 2 && t.prod) || t.ty = 3 || t.ty = 8 then some (0x20, badAt 18) else none
  | _ => none

/-- Whether the collection-dependent checks are made again at admission (R101). -/
def mustRecheck (m : Mod) (c : Cmd) : Bool :=
  needsColl (opcodeOf c.entry) && c.cfgSeq != (collOf m (collId c.entry)).map (·.cfgSeq)

/-- The payload a head is decided with: inputs not read at fetch are read now, and what the collection's layout gives is read
again where the checks are made again (R101). -/
def headPayload (m : Mod) (c : Cmd) : Payload :=
  if !readAtFetch (opcodeOf c.entry) then loadPayload m c.entry c.pl
  else if mustRecheck m c then loadRows m c.entry c.pl else c.pl

/-- Step 3 of R661: a fault found at fetch stands, and where R101 says so the checks are made again. -/
def payloadVerdict (m : Mod) (c : Cmd) : Option (Nat × Nat) :=
  c.verdict.orElse fun _ => if mustRecheck m c then fetchVerdict m c.entry c.pl else none

end Sys2Proof.Machine
end

