-- ==== Sys2Proof/Machine/MutateOps.lean ====
section
/-! DEFINITION. Mutations of a shard (chapter 07): their admission checks, what they do at admission, and what
their ledger records do when they are programmed and when they apply. Functions on `Coll` alone serve replay too. -/

namespace Sys2Proof.Machine
open Fp

/-- A rejection: BAD_COMMAND at a field, or at an item of it. -/
def bad (off : Nat) (idx : Nat := 0xFFFFFF) : Option Fin := some { status := 0x20, info := badAt off idx }

/-! Liveness at admission and the mirror. -/

/-- The mirror's high mark in tags (R237). -/
def mirrorHigh (m : Mod) : Nat := bits (regN m ctlP 0x100) 24 7 * 65536

/-- One instance tombstoned by a command (R234); a tag that a pending publish reserved for it returns (R257). -/
def tombOne (cid : Nat) (m : Mod) (i : Inst) : Mod :=
  match shardOf m cid with
  | none => m
  | some c =>
    let held := !isTomb c i && (pendPub m c).any fun p => !p.step && decide (i ∈ p.superseded)
    tombstone (if held then { m with resv := m.resv - 1 } else m) cid i

/-- MIRROR_HIGH raised when the occupancy reaches the mark (R237). -/
def mirrorCheck (before : Nat) (m : Mod) : Mod :=
  if before < mirrorHigh m && mirrorHigh m ≤ mirrorUsed m then blockEvt m ctlP else m

def tombAll (m : Mod) (cid : Nat) (l : List Inst) : Mod := mirrorCheck (mirrorUsed m) (l.foldl (tombOne cid) m)

/-- The instances a batch of keys tombstones, and how many distinct keys are live. -/
def batchInsts (m : Mod) (c : Coll) (ks : List DWord) : List Inst := (ks.eraseDups.flatMap (instsOf m c)).eraseDups
def liveCount (m : Mod) (c : Coll) (ks : List DWord) : Nat := (ks.eraseDups.filter (keyLive m c)).length

/-- The attribute words of the vectors that a batch of keys removes (R167): one for each live instance, and one for each that
a pending PUBLISH will add. -/
def batchGone (m : Mod) (c : Coll) (ks : List DWord) : List (BitVec 128) :=
  let pend (k : DWord) : List Inst := match pendPub m c with
    | some p => if p.step then [] else pendInsts m c k
    | none => []
  (ks.eraseDups.flatMap fun k => (liveInst c k).toList ++ pend k).filterMap (attrOf c)

/-! Admission checks (R661, step 4). -/

/-- INSERT: a live key, then room (R28, R112, R113); UPSERT: room alone. -/
def insertCheck (m : Mod) (c : Coll) (keys : List DWord) (n : Nat) (mustBeNew : Bool) : Option Fin :=
  match if mustBeNew then findIdx' (keyLive m c) keys else none with
  | some i => bad 16 i
  | none => if stockFree c < n then some { status := 0x13 } else none

/-- Instances of a key that a segment holds beside a lower-numbered one of the same PUBLISH. The spec does not say which of
the two stays live: the model keeps the lower-numbered segment's (DESIGN CHOICE, the log's entry on R26). -/
def doubled (c : Coll) : List DWord → List Segment → List Inst
  | _, [] => []
  | seen, s :: ss =>
    ((upto s.nodes.length).filter fun n => ((s.nodes[n]?).any fun x => decide (x.key ∈ seen)) && !isTomb c (.ord (segId s) n)).map
      (fun n => Inst.ord (segId s) n) ++ doubled c (s.nodes.map (·.key) ++ seen) ss

/-- The instances a PUBLISH supersedes (R256): every instance in the shard of a key that a newly live segment holds, beside
the one that stays live. -/
def supersedeSet (m : Mod) (c : Coll) (fresh : List Segment) : List Inst :=
  let fresh := sortBy (fun a b => decide (a.no < b.no)) fresh
  ((fresh.flatMap (·.nodes)).flatMap (fun n => if keyLive m c n.key then (liveInst c n.key).toList ++ oldInsts c n.key else []) ++
    doubled c [] fresh).eraseDups

/-- The built segments that a live mask newly names. -/
def maskBit (e : BitVec 512) (s : Nat) : Bool := bitAt (fld e 16 32) s
def newlyLive (c : Coll) (e : BitVec 512) : List Segment :=
  c.built.filter fun s => maskBit e s.no && (segOf (curGen c) s.no).isNone

/-- PUBLISH: live_mask, then expected, in the order R661 names them with R120 first (R32, R120, R121). -/
def publishCheck (c : Coll) (e : BitVec 512) : Option Fin :=
  if fld e 48 4 != c.cur || c.cur = 0xFFFFFFFF then some { status := 0x20, info := badAt 48, gen := some c.cur }
  else if (upto 256).any fun s => maskBit e s && (segOf (curGen c) s).isNone && !(c.built.any fun x => x.no = s) then bad 16
  else none

def retireCheck (c : Coll) (e : BitVec 512) : Option Fin := if c.cur < fld e 16 4 then bad 16 else none

/-- The first stockpile position not complete, from a position on (R240). -/
def firstOpen (c : Coll) : Word :=
  match (c.stock.filter fun x => x.used && x.done.isNone).map (·.pos) with
  | [] => c.tail
  | p :: ps => ps.foldl (fun a x => if posLt x a then x else a) p


/-- Bytes of PQ code per node and edges per node of a build (Table CM-9). -/
def buildM (e : BitVec 512) : Nat := if fld e 46 1 = 0 then 64 else 8 * fld e 46 1
def buildDegree (e : BitVec 512) : Nat := if fld e 45 1 = 0 then 32 else fld e 45 1
def buildBeam (e : BitVec 512) : Nat := if fld e 48 2 = 0 then 256 else fld e 48 2

/-- Bytes of bench 1 that a node takes, and the pages of `n` nodes, their records packed in local order (R249). -/
def recBytes (m degree : Nat) : Nat := m + 4 * degree + 32
def idxPages (n m degree : Nat) : Nat := ceilDiv (n * recBytes m degree) pageSize
/-- Bench 0 pages of an entry table: a local number and a code per entry node (R139). -/
def tablePgs (entries m : Nat) : Nat := ceilDiv (entries * (4 + m)) pageSize

/-- Pages of address range that a segment's vectors may grow by (the log's entry on page numbers). -/
def growPages : Nat := 2 ^ 20

/-- Whether a build of a segment number runs. -/
def building (m : Mod) (cid s : Nat) : Bool := m.cmds.any fun c => c.admitted && collId c.entry = cid &&
  (match c.build with | some b => b.seg = s | none => false)

/-- Pages that some generation, built segment or pending publish of a shard still names. -/
def namedSegs (m : Mod) (c : Coll) : List Segment :=
  c.gens.flatMap (·.segs) ++ c.built ++ ((pendPub m c).map (·.gen.segs)).getD []

/-- Segments given up: the pages that no other segment of the shard names are freed (R193, R261). -/
def freeSegs (m : Mod) (c : Coll) (gone left : List Segment) : Mod :=
  let keep := left.flatMap (segPgs c)
  ((gone.flatMap (segPgs c)).eraseDups.filter fun p => !(p ∈ keep)).foldl releasePage m

/-- A shard's unpublished segments of a number discarded (R254). -/
def dropBuilt (m : Mod) (c : Coll) (no : Nat) : Mod :=
  let c' := { c with built := c.built.filter fun s => s.no != no }
  freeSegs (setColl m c') c (c.built.filter fun s => s.no = no) (namedSegs m c')

/-- BUILD_SEGMENT: the number, the code length, and room, where the unpublished segment that the build discards counts as
gone (R249, R254). -/
def buildCheck (m : Mod) (c : Coll) (e : BitVec 512) : Option Fin :=
  let n := fld e 40 4
  let m' := dropBuilt m c (fld e 44 1)
  if (segOf (curGen c) (fld e 44 1)).isSome || building m c.id (fld e 44 1) then bad 44
  else if c.d < buildM e then bad 46
  else if freeB1Die m' (roomiest m') < idxPages n (buildM e) (buildDegree e) || freeB2 m' < vecPages c n then bad 40
  else none

/-- Mirror tags a head needs (R234, R235). -/
def tagsNeeded (m : Mod) (e : BitVec 512) (pl : Payload) : Nat :=
  match collOf m (collId e) with
  | none => 0
  | some c => match opcodeOf e with
    | 0x11 | 0x12 => (batchInsts m c pl.keys).length
    | 0x22 => (supersedeSet m c (newlyLive c e)).length
    | _ => 0

/-! Admission effects. The command is in `cmds`, admitted and pinned. -/

/-- A mutation's record written, and the lsn noted. -/
def record (m : Mod) (c : Cmd) (redo : Redo) : Mod :=
  let (m, l) := addRecord m (some c) (collId c.entry) (opcodeOf c.entry) redo
  setCmd m { c with lsn := some l }

/-- Consecutive positions from the tail on (R230). -/
def positions (c : Coll) (n : Nat) : List Word := (upto n).map fun i => c.tail + BitVec.ofNat 32 i

def putEntries (c : Coll) (es : List SEntry) : Coll :=
  { c with stock := c.stock ++ es, tail := c.tail + BitVec.ofNat 32 es.length }

/-- The entries of an INSERT or UPSERT batch (R35, R38, R44, R45). -/
def batchEnts (c : Coll) (e : BitVec 512) (pl : Payload) : List SEntry :=
  let attr (i : Nat) := if fld e 32 8 = 0 then c.dflt else pl.attrs.getD i c.dflt
  (upto pl.keys.length).map fun i =>
    let (v, n) := storeVec (fld e 42 1 = 0) c.ty c.dist (pl.vecs.getD i [])
    ⟨c.tail + BitVec.ofNat 32 i, pl.keys.getD i 0#64, v, n, maskAttr c.enable (attr i), 0#32, none, true⟩

/-- Entries written to the stockpile and to its bench 1 space. -/
def stockPut (m : Mod) (c : Coll) (es : List SEntry) : Mod := es.foldl (stockWrite c.id) (setColl m (putEntries c es))

def insertAdmit (m : Mod) (cmd : Cmd) : Mod :=
  match collOf m (collId cmd.entry) with
  | none => m
  | some c =>
    let es := batchEnts c cmd.entry cmd.pl
    let cmd := { cmd with count := es.length }
    record (setCmd (stockPut m c es) cmd) cmd (.insert es [] [])

def upsertAdmit (m : Mod) (cmd : Cmd) : Mod :=
  match collOf m (collId cmd.entry) with
  | none => m
  | some c =>
    let old := batchInsts m c cmd.pl.keys
    let gone := batchGone m c cmd.pl.keys
    let es := batchEnts c cmd.entry cmd.pl
    let cmd := { cmd with count := es.length, info := es.length - liveCount m c cmd.pl.keys }
    let m := tombAll m c.id old
    match shardOf m c.id with
    | none => m
    | some c => record (setCmd (stockPut m c es) cmd) cmd (.insert es old gone)

def deleteAdmit (m : Mod) (cmd : Cmd) : Mod :=
  match collOf m (collId cmd.entry) with
  | none => m
  | some c =>
    let ks := cmd.pl.keys
    let n := liveCount m c ks
    let old := batchInsts m c ks
    let cmd := { cmd with count := n, info := ks.eraseDups.length - n }
    record (setCmd (tombAll m c.id old) cmd) cmd (.delete (ks.eraseDups.filter (keyLive m c)) old (batchGone m c ks))

/-- The generation a PUBLISH makes (R256, R260): kept and newly live segments, and R663's write generation. -/
def publishGen (c : Coll) (e : BitVec 512) : Gen :=
  let g := curGen c
  let kept := g.segs.filter fun s => maskBit e s.no
  let w := BitVec.ofNat 32 (c.cur + 1)
  let fresh := (newlyLive c e).map fun s => { s with nodes := s.nodes.map fun n => { n with wgen := w } }
  { no := c.cur + 1, segs := sortBy (fun a b => decide (a.no < b.no)) (kept ++ fresh), mark := g.mark
    epoch := if kept.length < g.segs.length then g.epoch + 1 else g.epoch, hold := none, retired := false }

/-- Every ordinal of the segments a mask clears, released at once (R248). -/
def clearedOrds (c : Coll) (e : BitVec 512) : List (Nat × Nat) :=
  (((curGen c).segs.filter fun s => !maskBit e s.no).flatMap fun s => (upto s.nodes.length).map fun n => (segId s, n)).filter
    fun o => !(c.released.any fun r => r.1 = o.1 && r.2.1 = o.2)

def publishAdmit (m : Mod) (cmd : Cmd) : Mod :=
  match collOf m (collId cmd.entry) with
  | none => m
  | some c =>
    let e := cmd.entry
    let sup := supersedeSet m c (newlyLive c e)
    let p : PubRec := ⟨publishGen c e, sup, fld e 52 4, if fld e 56 8 = 0 then none else some cmd.pl.shardMap, false, [],
      clearedOrds c e, []⟩
    let before := mirrorUsed m
    let m := { m with resv := m.resv + sup.length }
    let l := m.ledger.next
    mirrorCheck before (record (setColl m { c with pub := some l }) cmd (.publish p))

def retireAdmit (m : Mod) (cmd : Cmd) : Mod := record m cmd (.retire (fld cmd.entry 16 4))

/-- A shard as COLLECTION_CREATE's arguments make it (R22, R130); it exists once its record applies. Its configuration number
starts from its record's lsn, so that a collection created again under the same ID is told apart (R101). -/
def newColl (id lsn : Nat) (e : BitVec 512) : Coll :=
  { id := id, d := fld e 16 2, ty := fld e 18 1, dist := fld e 19 1, stockLog2 := if fld e 20 1 = 0 then 24 else fld e 20 1
    home := fld e 22 2, made := false, dropping := false, dropped := false, gens := [], cur := 0, lastVer := 0, tail := 0#32
    stock := [], tombs := [], tombStock := [], reborn := [], stockPgs := [], released := [], epoch := 0, enable := 0, signed := 0, dflt := 0#128
    hist := histZero, recount := none, built := [], shardMap := [], pub := none, cfgSeq := lsn * 2 ^ 32, mergeEnd := none }

def createAdmit (m : Mod) (cmd : Cmd) : Mod :=
  let c := newColl (collId cmd.entry) m.ledger.next cmd.entry
  record { m with colls := m.colls ++ [c] } cmd (.create cmd.entry)

def dropAdmit (m : Mod) (cmd : Cmd) : Mod :=
  match collOf m (collId cmd.entry) with
  | none => m
  | some c => record (setColl m { c with dropping := true }) cmd .drop

def schemaAdmit (m : Mod) (cmd : Cmd) : Mod :=
  let e := cmd.entry
  record m cmd (.schema (fld e 16 1) (fld e 17 1) (BitVec.ofNat 128 (fld e 32 16)) (bitAt (fld e 18 1) 0))

/-! Records programmed: completions (R88). -/

def addAttrs (c : Coll) (l : List (BitVec 128)) : Coll := l.foldl histAdd c
def subInsts (c : Coll) (l : List Inst) : Coll := (l.filterMap (attrOf c)).foldl histSub c

/-- An insert batch durable: its entries complete with their write generation, and the histograms follow (R167,
R663). -/
def insertDone (c : Coll) (es : List SEntry) (gone : List (BitVec 128)) (tick : Nat) : Coll :=
  let ps := es.map (·.pos)
  let f (x : SEntry) : SEntry := if x.pos ∈ ps then { x with done := some tick, wgen := BitVec.ofNat 32 c.lastVer } else x
  gone.foldl histSub (addAttrs { c with stock := c.stock.map f } (es.map (·.attr)))

def deleteDone (c : Coll) (gone : List (BitVec 128)) : Coll := gone.foldl histSub c

/-- What a record's programming does to a shard, beside its command's completion. -/
def progColl (c : Coll) (r : Redo) (tick : Nat) : Coll :=
  match r with
  | .insert es _ gone => insertDone c es gone tick
  | .delete _ _ gone => deleteDone c gone
  | .publish p => { c with lastVer := p.gen.no }
  | .create _ => { c with lastVer := 1 }
  | .built s => if c.dropped then c else { c with built := s :: c.built.filter fun x => x.no != s.no }
  | _ => c

/-! Application in the publish slot (R508, slot 6). -/

/-- The instances still live in a segment. -/
def segInsts (c : Coll) (s : Segment) : List Inst :=
  ((upto s.nodes.length).map fun n => Inst.ord (segId s) n).filter fun i => !isTomb c i

def tombColl (c : Coll) (i : Inst) : Coll :=
  if isTomb c i then c
  else match i with
    | .ord s n => { c with tombs := (s, n) :: c.tombs }
    | .stock p => { c with tombStock := p :: c.tombStock }
    | .remote _ => c

/-- Counts that BUILD_SEGMENT recorded, added (R167). -/
def addCounts (c : Coll) (k : Hist) : Coll :=
  { c with hist := histPlus c.enable c.hist k, recount := c.recount.map fun h => histPlus c.enable h k }

/-- A publish applied to a shard (R122, R167, R243, R247, R258, R260). A reused ordinal's tailings bit is cleared, unless a
mutation has tombstoned the vector that has taken it. -/
def publishColl (c : Coll) (p : PubRec) (tick : Nat) : Coll :=
  let g := curGen c
  let cleared := g.segs.filter fun s => (segOf p.gen s.no).isNone
  let fresh := p.gen.segs.filter fun s => (segOf g s.no).isNone
  let sup := p.superseded.filter fun i => !isTomb c i
  let lost := (cleared.flatMap (segInsts c)).filter fun i => !(i ∈ sup)
  let counted := sup.filter fun i => match i with
    | .stock q => posLe g.mark q
    | .ord s _ => (segById g s).isSome || fresh.any fun x => segId x = s
    | .remote _ => false
  let c1 := if p.step then c else subInsts ((fresh.map (·.counts)).foldl addCounts c) (counted ++ lost)
  let c2 := { c1 with
    gens := mapIf (fun x => x.no = c.cur) (fun x => { x with hold := some (tick + p.hold) }) c.gens ++ [p.gen]
    cur := p.gen.no, epoch := p.gen.epoch, pub := none
    tombs := (c.tombs.filter fun t => !(t ∈ p.reused)) ++ c.reborn, reborn := []
    released := (c.released.filter fun r => !((r.1, r.2.1) ∈ p.reused)) ++ p.freed.map fun f => (f.1, f.2, p.gen.epoch)
    built := c.built.filter fun s => (segOf p.gen s.no).isNone
    shardMap := p.map.getD c.shardMap }
  p.superseded.foldl tombColl c2

/-- The first generation of a new shard (R130). -/
def createColl (c : Coll) : Coll :=
  { c with made := true, cur := 1, gens := [⟨1, [], 0#32, 0, none, false⟩], cfgSeq := c.cfgSeq + 1 }

/-- Every instance live in the shard's current generation. -/
def liveAttrs (c : Coll) : List (BitVec 128) :=
  let g := curGen c
  ((g.segs.flatMap (segInsts c)).filterMap (attrOf c)) ++
  (c.stock.filter fun e => e.used && e.done.isSome && posLe g.mark e.pos && !isTomb c (.stock e.pos)).map (·.attr)

/-- A recount of the histograms begun (R168). -/
def startRecount (c : Coll) : Coll :=
  { c with recount := some ((liveAttrs c).foldl (histStep (· + 1) c.enable c.signed) histZero) }

def schemaColl (c : Coll) (en sg : Nat) (dflt : BitVec 128) (rebuild : Bool) : Coll :=
  let c := { c with enable := en, signed := sg, dflt := dflt, cfgSeq := c.cfgSeq + 1 }
  if rebuild then startRecount c else c

/-- A drop applied: holds end, no generation is current, unpublished segments are discarded (R25, R254, R656). -/
def dropColl (c : Coll) : Coll :=
  { c with dropped := true, cur := 0, built := [], pub := none, cfgSeq := c.cfgSeq + 1
           gens := c.gens.map fun g => { g with hold := none } }

def retireColl (c : Coll) (below : Nat) : Coll :=
  { c with gens := mapIf (fun g => g.no < below) (fun g => { g with retired := true, hold := g.hold.map fun _ => 0 }) c.gens }

def applyColl (c : Coll) (r : Redo) (tick : Nat) : Coll :=
  if c.dropped then c
  else match r with
  | .publish p => publishColl c p tick
  | .create _ => createColl c
  | .drop => dropColl c
  | .schema en sg d rb => schemaColl c en sg d rb
  | .retire b => retireColl c b
  | _ => c

/-- Whether a generation still holds an edge to an ordinal or lists it in an entry table (R236). -/
def genNames (s n : Nat) (g : Gen) : Bool :=
  g.segs.any fun x => segId x = s && (decide (n ∈ x.entry) || x.nodes.any fun y => decide (n ∈ y.adj))

/-- Whether an instance's tag may leave the mirror (R236). -/
def tagLeaves (c : Coll) : Inst → Bool
  | .ord s n => (c.released.any fun r => r.1 = s && r.2.1 = n) && !((s, n) ∈ c.reborn) && !c.gens.any (genNames s n)
  | .stock p => posLt p (floorOf c)
  | .remote _ => true

/-- Tags that may leave do, and entries below the floor are freed (R232, R236). -/
def purge (m : Mod) (cid : Nat) : Mod :=
  match shardOf m cid with
  | none => { m with mirror := m.mirror.filter fun t => tagColl t != cid }
  | some c =>
    let m := { m with mirror := m.mirror.filter fun t => tagColl t != cid || !tagLeaves c (tagInst t) }
    let f := floorOf c
    let left := c.stock.filter fun e => !posLt e.pos f
    let used (x : Nat × Nat) : Bool := left.any fun e => slotPage c e.pos = x.1
    let m := (c.stockPgs.filter fun x => !used x).foldl (fun m x => releasePage m x.2) m
    let named := namedSegs m c
    let there (s : Nat) : Bool := named.any fun x => segId x = s
    setColl m { c with
      stock := left, tombStock := c.tombStock.filter fun p => !posLt p f, stockPgs := c.stockPgs.filter used
      tombs := c.tombs.filter fun t => there t.1, released := c.released.filter fun r => there r.1 }

/-! Generations (R261). -/

/-- Opcodes whose commands pin a generation. -/
def pinsGen (op : Nat) : Bool := op ∈ [0x01, 0x03, 0x10, 0x11, 0x12, 0x14, 0x20, 0x21]

def pinned (m : Mod) (cid g : Nat) : Bool :=
  m.cmds.any fun c => c.admitted && collId c.entry = cid && c.gen = g && pinsGen (opcodeOf c.entry)

/-- Whether the hold of the publish that superseded a generation still runs: in the apply tick and for `hold` ticks after it
(Table IX-2). -/
def heldBy (m : Mod) (g : Gen) : Bool := !g.retired && (match g.hold with | some t => decide (now m ≤ t) | none => false)

/-- A generation that nothing pins is freed; a dropped shard goes with its last one (R25, R33, R261). -/
def genFree (m : Mod) (cid g : Nat) : Mod :=
  match shardOf m cid with
  | none => m
  | some c =>
    match genOf c g with
    | none => m
    | some x =>
      if g = c.cur || pinned m cid g || heldBy m x then m
      else
        let c' := { c with gens := c.gens.filter fun y => y.no != g }
        let m := freeSegs m c x.segs (namedSegs m c')
        if c'.gens.isEmpty && c.dropped then
          purge ((c.stockPgs.map (·.2)).foldl releasePage { m with colls := m.colls.filter fun y => y.id != cid }) cid
        else purge (setColl m c') cid

def holdEnd (m : Mod) (cid g : Nat) : Mod :=
  match shardOf m cid with
  | none => m
  | some c =>
    match genOf c g with
    | none => m
    | some x => if x.hold.any fun t => decide (t < now m) then genFree m cid g else m

/-- Every generation that nothing pins is freed (R261). -/
def sweepGens (m : Mod) : Mod :=
  (m.colls.flatMap fun c => c.gens.map fun g => (c.id, g.no)).foldl (fun m x => genFree m x.1 x.2) m

/-- What a build holds, given back: its reservations and its checkpoint (R250, R656). -/
def freeBuild (m : Mod) (c : Coll) (cmd : Cmd) (b : BuildW) : Mod :=
  (b.pages ++ b.table ++ vecPgs c b.base (fld cmd.entry 40 4) ++ b.ckpts ++ b.prev).foldl releasePage m

/-- Records of commands that a drop stops, or a retirement ends (R25, R123, R656). -/
def stopJobs (m : Mod) (cid : Nat) : Mod :=
  let js := m.cmds.filter fun c => c.admitted && collId c.entry = cid && (c.merge.isSome || c.build.isSome)
  js.foldl (fun m c =>
    let m := match c.build, shardOf m cid with
      | some b, some co => freeBuild m co c b
      | _, _ => m
    finishBad m c 0x21 0) m

def retireReads (m : Mod) (cid below : Nat) : Mod :=
  let rs := m.cmds.filter fun c => c.admitted && collId c.entry = cid && c.gen < below &&
    (opcodeOf c.entry = 0x01 || opcodeOf c.entry = 0x03)
  rs.foldl (fun m c => finishBad m c 0x24 0) m

/-- A merge step's publish that has applied: the job may take its next step. -/
def stepApplied (m : Mod) (cid gen : Nat) : Mod :=
  let f (c : Cmd) : Cmd := { c with merge := c.merge.map fun w => { w with step := none, pub := none, last := gen } }
  bump { m with cmds := mapIf (fun c => c.merge.isSome && collId c.entry = cid) f m.cmds } ctlP 0x114

/-- The mirror tags of a publish's superseded instances taken from its reservation. -/
def takeTags (m : Mod) (c : Coll) (p : PubRec) : Mod :=
  let fresh := p.superseded.filter fun i => !isTomb c i
  { m with resv := m.resv - fresh.length, mirror := fresh.map (mirrorTag c.id) ++ m.mirror }

/-- What a publish still pending holds when its shard is dropped, given back: its reserved tags and the pages that only its
generation names (R656). -/
def dropPub (m : Mod) (c : Coll) : Mod :=
  match pendPub m c with
  | none => m
  | some p =>
    let m := { m with resv := m.resv - (if p.step then 0 else (p.superseded.filter fun i => !isTomb c i).length) }
    freeSegs m c p.gen.segs (c.gens.flatMap (·.segs) ++ c.built)

/-- One versioning record of a collection applied to the module (R25, R123, R256 to R260). Nothing but the drop itself is left
to apply to a shard that has been dropped. -/
def applyRecord (m : Mod) (cid : Nat) (r : Redo) : Mod :=
  match shardOf m cid with
  | none => m
  | some c =>
    let c' := applyColl c r (now m)
    if c.dropped then m
    else match r with
    | .publish p =>
      let m := bump (setColl (takeTags m c p) c') ctlP 0x11C p.freed.length
      purge (if p.step then stepApplied m cid p.gen.no else m) cid
    | .drop =>
      let m := dropPub (stopJobs m cid) c
      freeSegs (setColl m c') c c.built (c.gens.flatMap (·.segs))
    | .retire b => retireReads (setColl m c') cid b
    | _ => setColl m c'

/-- HISTOGRAM_RECOUNT_END (R168): the recounted values replace the counters, durably: a reset does not count again. -/
def recountEnd (m : Mod) (cid : Nat) : Mod :=
  let finished (c : Coll) : Coll := match c.recount with
    | none => c
    | some h => { c with hist := h, recount := none }
  match shardOf m cid with
  | none => m
  | some c =>
    if c.recount.isNone then m
    else
      let isRec (r : LRec) : Bool := r.coll = cid && r.applied && (match r.redo with
        | .schema _ _ _ rb => rb
        | _ => false)
      let m := setColl m (finished c)
      { m with ledger := { m.ledger with
          records := mapIf isRec (fun r => { r with counted := true }) m.ledger.records
          images := mapIf (fun i => i.coll = cid) (fun i => { i with val := i.val.map finished }) m.ledger.images } }

/-! Merge steps (R239 to R246). -/

/-- Where a job's folding ends: its upto, or the tail complete as it began (R240). -/
def mergeBound (w : MergeW) : Word := match w.upto with | some u => u | none => w.tailAt

/-- The upper bound of the next step's fold (R240). -/
def stepHi (m : Mod) (c : Coll) (w : MergeW) : Word :=
  let lo := (curGen c).mark
  let lower (a b : Word) : Word := if posLt b a then b else a
  if w.repair then lo
  else
    let h := lower (lower (lo + BitVec.ofNat 32 (2 ^ bits (regN m ctlP 0x100) 16 5)) (mergeBound w)) (firstOpen c)
    if posLt h lo then lo else h

/-- The entries a step folds. -/
def foldable (c : Coll) (lo hi : Word) : List SEntry :=
  sortBy (fun a b => posLt a.pos b.pos) (c.stock.filter fun e =>
    e.used && posLe lo e.pos && posLt e.pos hi && !isTomb c (.stock e.pos))

/-- Whether `n` more vectors fit a segment (Table CV-1), its address range and its released ordinals apart. -/
def segFits (c : Coll) (n : Nat) (s : Segment) : Bool :=
  nodeCount s + n < 2 ^ 32 && s.nodes.length + n ≤ s.span * perPage c

/-- The target of a step (R241): 256 stands for a new segment. -/
def stepTarget (c : Coll) (w : MergeW) (n : Nat) : Nat :=
  if w.target != 0xFF then w.target
  else match (curGen c).segs.filter (segFits c n) with
    | [] => 256
    | s :: ss => (ss.foldl (fun b x => if nodeCount x < nodeCount b || (nodeCount x = nodeCount b && x.no < b.no)
        then x else b) s).no

/-- The lowest segment number not live, built or being built. -/
def freeSegNo (m : Mod) (c : Coll) : Option Nat :=
  (upto 256).find? fun s => (segOf (curGen c) s).isNone && !(c.built.any fun x => x.no = s) && !building m c.id s

/-- Whether a step would pass a limit of Table CV-1 (R23): no generation number is left, no segment number, or the segment
named cannot take the batch. -/
def pastLimit (m : Mod) (c : Coll) (w : MergeW) (n : Nat) : Bool :=
  let t := stepTarget c w n
  c.cur = 0xFFFFFFFF || (t = 256 && (freeSegNo m c).isNone) || ((segOf (curGen c) t).any fun s => !segFits c n s)

/-- A codebook that faces train: 256 centroids per sub-space, its values left open by the spec. -/
def freeBook (d m draw : Nat) : List (List (List Word)) :=
  (upto m).map fun j => (upto 256).map fun c => (upto (subLen d m j)).map fun i => Config.centroid draw j c i

def emptySeg (m : Mod) (c : Coll) (no : Nat) : Segment :=
  let mm := min 64 c.d
  ⟨no, roomiest m, mm, 32, freeBook c.d mm m.draws, [], [], m.mem.nextPage * pageSize, growPages, [], [], histZero, false⟩

/-- Whether a generation still holds an edge to an ordinal or lists it in an entry table (R236). -/
def reachable (c : Coll) (s n : Nat) : Bool := c.gens.any (genNames s n)

/-- Ordinals of a segment whose reuse R247 permits, lowest first: no generation left can reach the old vector. -/
def reusable (c : Coll) (s : Nat) : List Nat :=
  let oldest := c.gens.foldl (fun a g => min a g.epoch) ((curGen c).epoch)
  let ok := c.released.filter fun r => r.1 = s && r.2.2 ≤ oldest && !reachable c s r.2.1
  sortBy (fun a b => decide (a < b)) (ok.map (·.2.1))

/-- Entries placed in a segment: at reusable ordinals first, then above the node count (R242). -/
def placeEnts (c : Coll) : List SEntry → List Nat → Segment → List (Word × Nat × Nat) → Segment × List (Word × Nat × Nat)
  | [], _, s, out => (s, out)
  | e :: es, free, s, out =>
    let mk (ty : Segment) : Node := ⟨e.key, e.norm, e.wgen, e.attr, pqCode c.d ty.m ty.book (expandVec c.ty e.vec), [], e.vec⟩
    match free with
    | o :: os => placeEnts c es os { s with nodes := s.nodes.set o (mk s) } (out ++ [(e.pos, segId s, o)])
    | [] => placeEnts c es [] { s with nodes := s.nodes ++ [mk s] } (out ++ [(e.pos, segId s, s.nodes.length)])

/-- The edges that linking gives a new node: which ones is left open, and is a free value of the draw. -/
def freeEdges (draw degree n : Nat) (cand : List Nat) : List Nat :=
  let cand := cand.filter (· != n)
  if cand.isEmpty then []
  else ((upto degree).map fun i => cand.getD (Config.edge draw n i % cand.length) 0).eraseDups

/-- The edges that an old node has once new nodes are linked: some of its own and of those to the new nodes, within the
degree; which ones is left open. -/
def relink (draw degree n : Nat) (own fresh : List Nat) : List Nat :=
  ((own ++ fresh.filter fun x => !(x ∈ own)).filter fun x => Config.edge draw n x % 2 = 1).take degree

/-- The entry set of a new graph (R139, Table IX-3, phase 4): min(4,096, n) nodes, above that number chosen freely. -/
def entrySet (draw : Nat) (l : List Nat) : List Nat :=
  if l.length ≤ 4096 then l
  else
    let pick := ((upto 4096).map fun i => l.getD (Config.entryNode draw i % l.length) 0).eraseDups
    (pick ++ l.filter fun x => !(x ∈ pick)).take 4096

/-- New nodes linked into a segment's graph (R242). Edges lead to no released ordinal (R30). The entry set stays as the segment
was made (R139); a segment with no entry node left takes new nodes, as a new one does (the log's entry on folds). -/
def linkSeg (draw : Nat) (s : Segment) (fresh : List Nat) : Segment :=
  let all := (upto s.nodes.length).filter fun n => (s.nodes[n]?).any fun x => !blank x
  let link (p : Node × Nat) : Node :=
    if p.2 ∈ fresh then { p.1 with adj := freeEdges draw s.degree p.2 all }
    else if blank p.1 then p.1
    else { p.1 with adj := relink draw s.degree p.2 p.1.adj fresh }
  { s with nodes := (s.nodes.zip (upto s.nodes.length)).map link, entry := if s.entry.isEmpty then entrySet draw fresh else s.entry }

def nodeVec (c : Coll) (s : Segment) (n : Nat) : List Word := expandVec c.ty ((s.nodes[n]?.map (·.vec)).getD [])

/-- Nodes in the order of their exact score against a vector. -/
def byScore (c : Coll) (s : Segment) (q : List Word) (l : List Nat) : List Nat :=
  (sortBy qLt (l.map fun n => ⟨exactScore c.dist q (nodeVec c s n), n, false⟩)).map (·.node)

/-- The repair of one tombstoned ordinal, and its release in the new version: its key-map record goes (R243). The best live
neighbour that takes its place in the entry table is the one with the best exact score against its own vector; with no
live neighbour its place goes (DESIGN CHOICE, the log's entry on repair). -/
def repairOne (c : Coll) (s : Segment) (t : Nat) : Segment :=
  let own := ((s.nodes[t]?.map (·.adj)).getD []).filter fun x => x != t && !isTomb c (.ord (segId s) x)
  let fix (p : Node × Nat) : Node :=
    if p.2 = t then { p.1 with key := noKey, adj := [] }
    else if t ∈ p.1.adj then
      let base := p.1.adj.filter (· != t)
      let cand := byScore c s (nodeVec c s p.2) (own.filter fun x => x != p.2 && !(x ∈ base))
      { p.1 with adj := base ++ cand.take (p.1.adj.length - base.length) }
    else p.1
  let entry := if t ∈ s.entry then
      let best := (byScore c s (nodeVec c s t) own).take 1
      (s.entry.flatMap fun x => if x = t then best else [x]).eraseDups
    else s.entry
  { s with nodes := (s.nodes.zip (upto s.nodes.length)).map fix, entry := entry }

/-- Tombstoned ordinals of a segment not yet released, lowest first. -/
def unreleased (c : Coll) (s : Nat) : List Nat :=
  sortBy (fun a b => decide (a < b)) ((c.tombs.filter fun t => t.1 = s && !(c.released.any fun r => r.1 = s && r.2.1 = t.2)).map (·.2))

/-- What a step makes of its target: the new version, its page table apart, the folded entries with their ordinals, and the
ordinals it releases. -/
def stepSeg (m : Mod) (c : Coll) (sg : Segment) (lo hi : Word) (rmax : Nat) : Segment × List (Word × Nat × Nat) × List Nat :=
  let es := foldable c lo hi
  let (s1, folded) := placeEnts c es (reusable c (segId sg)) sg []
  let s2 := if es.isEmpty then s1 else linkSeg m.draws s1 (folded.map (·.2.2))
  let ts := (unreleased c (segId sg)).take rmax
  (ts.foldl (repairOne c) s2, folded, ts)

/-- The nodes whose records touch page `i` of a segment's bench 1 pages. -/
def pageNodes (r i : Nat) : List Nat := (upto (((i + 1) * pageSize - 1) / r + 1)).drop (i * pageSize / r)

/-- The page indexes that a new version of a segment changes or adds (R201, R239). -/
def changedPages (old new : Segment) : List Nat :=
  (upto (idxPages new.nodes.length new.m new.degree)).filter fun i =>
    (pageNodes (recBytes new.m new.degree) i).any fun n => decide (new.nodes[n]? ≠ old.nodes[n]?)

/-- The page table with fresh pages at the indexes that change. -/
def newTable (old : List Nat) : List Nat → List Nat → List Nat
  | i :: is, p :: ps => newTable (if i < old.length then old.set i p else old ++ [p]) is ps
  | _, _ => old

/-- Copy on write (R201, R204, R239): fresh bench 1 pages on the home die for those that a version changes, fresh bench 0 pages
for a changed entry table (R139), bench 2 pages for new vectors, the new vectors' bytes, and the images of the fresh
pages. None while the benches have no room. -/
def copySeg (m : Mod) (c : Coll) (old new : Segment) (fresh : List Nat) : Option (Segment × Mod) :=
  let ch := changedPages old new
  let nt := if new.entry = old.entry then 0 else tablePgs new.entry.length new.m
  let more := (vecPgs c new.base new.nodes.length).filter fun p => (pageEnt m p).isNone
  if freeB1Die m new.die < ch.length || freeB0Die m new.die < nt || freeB2 m < more.length then none
  else match allocPages 1 (some new.die) ch.length m with
  | none => none
  | some (ps, m) => match allocPages 0 (some new.die) nt m with
    | none => none
    | some (ts, m) =>
      let s := { new with pages := newTable old.pages ch ps, table := if new.entry = old.entry then old.table else ts }
      let m := more.foldl (mapAt 2 none) m
      let m := fresh.foldl (fun m n => writeBytes m (vecAddr c s n) (codesBytes c ((s.nodes[n]?.map (·.vec)).getD []))) m
      some (s, imagePages m ps)

/-- The publish record of a step (R239 to R244). -/
def stepPub (c : Coll) (s : Segment) (hi : Word) (folded : List (Word × Nat × Nat)) (ts : List Nat) : PubRec :=
  let g := curGen c
  let free := reusable c (segId s)
  let gen : Gen := ⟨c.cur + 1, insertBy (fun a b => decide (a.no < b.no)) s (g.segs.filter fun x => x.no != s.no), hi,
    if ts.isEmpty then g.epoch else g.epoch + 1, none, false⟩
  ⟨gen, [], 0, none, true, folded, ts.map fun t => (segId s, t), ((folded.map (·.2)).filter fun f => f.2 ∈ free)⟩

/-- The merge job of a collection. -/
def mergeCmd (m : Mod) (cid : Nat) : Option Cmd :=
  m.cmds.find? fun c => c.admitted && c.merge.isSome && collId c.entry = cid

/-- Whether a job has nothing left to fold, or to repair on the target of its next step. -/
def mergeDone (c : Coll) (w : MergeW) (t : Nat) : Bool :=
  if w.repair then ((segOf (curGen c) t).all fun s => (unreleased c (segId s)).isEmpty) else !posLt (curGen c).mark (mergeBound w)

/-- A step begins: its begin record is written (R243). A job with nothing left completes, one whose explicit target is no
longer live, or that would pass a limit, ends with BAD_COMMAND (R23, R241), and one that meets a position not yet complete
waits (R240). The step draws BULK share, and waits for credit (R87, R541). -/
def stepBegin (m : Mod) (cmd : Cmd) (c : Coll) (w : MergeW) : Mod :=
  let lo := (curGen c).mark
  let hi := stepHi m c w
  let n := (foldable c lo hi).length
  let t := stepTarget c w n
  if mergeDone c w t then finish m cmd { status := 0, info := c.cur }
  else if (t != 256 && (segOf (curGen c) t).isNone) || pastLimit m c w n then finishBad m cmd 0x20 (badAt 20)
  else if (!w.repair && lo = hi) || !stepMay m cmd.entry then m
  else
    let (m, cmd) := drawStep m cmd
    let t' := if t = 256 then (freeSegNo m c).getD 0 else t
    let (m, l) := addRecord m (some cmd) c.id 0x20 (.mergeBegin lo hi t' (t = 256))
    setCmd m { cmd with merge := some { w with step := some (lo, hi, t', l), fresh := t = 256, rmax := regN m ctlP 0x104 } }

/-- A job that ends with a step open: no reset runs that step again. -/
def closeStep (m : Mod) (c : Cmd) : Mod :=
  match (c.merge.bind (·.step)).bind fun s => recordOf m s.2.2.2 with
  | some r => setRecord m { r with counted := true }
  | none => m

/-- A range of page numbers set aside. -/
def takeRange (m : Mod) (n : Nat) : Mod := { m with mem := { m.mem with nextPage := m.mem.nextPage + n } }

/-- A step whose begin record is programmed folds, repairs and writes its publish record, once the benches have room. -/
def stepWork (m : Mod) (cmd : Cmd) (c : Coll) (w : MergeW) (lo hi : Word) (t l : Nat) : Mod :=
  let live := segOf (curGen c) t
  if ((recordOf m l).bind (·.prog)).isNone || c.pub.isSome then m
  else if c.cur = 0xFFFFFFFF then finishBad (closeStep m cmd) cmd 0x20 (badAt 20)
  else if live.isSome = w.fresh then setCmd m { cmd with merge := some { w with step := none } }
  else
    let sg := live.getD (emptySeg m c t)
    let (new, folded, ts) := stepSeg m c sg lo hi w.rmax
    match copySeg (if live.isNone then takeRange m sg.span else m) c sg new (folded.map (·.2.2)) with
    | none => m
    | some (s, m) =>
      let l := m.ledger.next
      let m := setColl { m with draws := m.draws + 1 } { c with pub := some l }
      let m := setCmd m { cmd with merge := some { w with pub := some l } }
      (addRecord m (some cmd) c.id 0x20 (.publish (stepPub c s hi folded ts))).1

/-- MERGE_STEP (R243). Internal jobs pause at a step boundary while the ring is full (R517). -/
def mergeStepOp (m : Mod) (cid : Nat) : Mod :=
  match mergeCmd m cid, collOf m cid with
  | some cmd, some c =>
    match cmd.merge with
    | none => m
    | some w =>
      match w.step, w.pub with
      | none, _ => if ringFull m then m else stepBegin m cmd c w
      | some (lo, hi, t, l), none => stepWork m cmd c w lo hi t l
      | some _, some _ => m
  | _, _ => m

/-- Whether a job's publish record is that of its last step: nothing is left to do once it has applied (R245). -/
def lastStep (m : Mod) (c : Coll) (w : MergeW) (p : PubRec) : Bool :=
  let c' := publishColl c p (now m)
  mergeDone c' w (stepTarget c' w (foldable c' (curGen c').mark (stepHi m c' w)).length)

/-- The job that a MERGE_STOCKPILE asks for. -/
def mergeJob (c : Coll) (e : BitVec 512) : MergeW :=
  let up := BitVec.ofNat 32 (fld e 16 4)
  ⟨if up = 0#32 then none else some up, fld e 20 1, bitAt (fld e 21 1) 0, none, false, none, c.cur, firstOpen c, 0⟩

/-- Whether a job has nothing to do as it begins. -/
def mergeIdle (m : Mod) (c : Coll) (w : MergeW) : Bool :=
  mergeDone c w (stepTarget c w (foldable c (curGen c).mark (stepHi m c w)).length)

/-- MERGE_STOCKPILE: upto, then the target, and the limits of Table CV-1 for the first step (R23, R118, R241). -/
def mergeCheck (m : Mod) (c : Coll) (e : BitVec 512) : Option Fin :=
  let up := BitVec.ofNat 32 (fld e 16 4)
  let w := mergeJob c e
  if up != 0#32 && posLt c.tail up then bad 16
  else if fld e 20 1 != 0xFF && (segOf (curGen c) (fld e 20 1)).isNone then bad 20
  else if !mergeIdle m c w && pastLimit m c w (foldable c (curGen c).mark (stepHi m c w)).length then bad 20
  else none

def mergeAdmit (m : Mod) (cmd : Cmd) : Mod :=
  match collOf m (collId cmd.entry) with
  | none => m
  | some c =>
    let w := mergeJob c cmd.entry
    if mergeIdle m c w then finish m cmd { status := 0, info := c.cur } else setCmd m { cmd with merge := some w }

/-- The job of an internal merge: upto 0 and target 0xFF. -/
def autoJob (c : Coll) : MergeW := ⟨none, 0xFF, false, none, false, none, c.cur, firstOpen c, 0⟩

/-- Whether an internal merge of a shard is due (R237, R246): for R199, of those with no merge running, the one that holds
the most tags. -/
def autoDue (m : Mod) (c : Coll) : Bool :=
  let v := regN m ctlP 0x100
  let tagsOf (id : Nat) : Nat := (m.mirror.filter fun t => tagColl t = id).length
  let most := tagsOf c.id != 0 && m.colls.all fun x => (mergeCmd m x.id).isSome || tagsOf x.id ≤ tagsOf c.id
  bitAt v 31 && !testQuiet m && (mergeCmd m c.id).isNone && c.mergeEnd != some (now m) &&
  (decide (2 ^ bits v 8 5 ≤ (c.tail - (curGen c).mark).toNat) || decide (bits v 0 8 * stockCap c ≤ stockUsed c * 100) ||
   (decide (mirrorHigh m ≤ mirrorUsed m) && most))

/-- The work record of an internal job: a BULK entry of no chute. -/
def internalCmd (m : Mod) (op cid gen : Nat) : Cmd :=
  { id := m.nextCmd, chute := none, slot := 0, entry := BitVec.ofNat 512 (op + 3 * 256 + cid * 65536), pl := Payload.none
    dbTick := now m, verdict := none, cfgSeq := none, admitted := true, seq := m.adm.seq, admTick := now m
    gen := gen, pkgVer := none, stop := none, level := 0, cost := [], replayed := false, units := [], lsn := none
    count := 0, info := 0, failed := none, tags := 0, docsDone := 0, search := none, embed := none, run := none
    merge := none, build := none, upd := none, left := [], origin := none }

def addCmd (m : Mod) (c : Cmd) : Mod :=
  { m with cmds := m.cmds ++ [c], nextCmd := m.nextCmd + 1, adm := { m.adm with seq := m.adm.seq + 1 } }

/-- An internal job added to the BULK backlog (R87). -/
def addJob (m : Mod) (c : Cmd) : Mod := addBacklog (addCmd m c) 3 c.cost

/-- AUTOMATIC_MERGE (R246): an internal merge draws BULK share, so it waits for room in the BULK backlog. -/
def autoMerge (m : Mod) (cid : Nat) : Mod :=
  match collOf m cid with
  | none => m
  | some c =>
    if !autoDue m c then m
    else
      let j := { internalCmd m 0x20 cid c.cur with merge := some (autoJob c) }
      let cost := costOf m j j.entry
      if !bulkRoom m cost then m else bump (addJob m { j with cost := cost }) ctlP 0x110

/-! Builds (R249 to R254). -/

/-- Vectors ingested or linked in one step of a build's work. -/
def buildBatch : Nat := 65536

/-- Bench 1 and bench 2 space for a build of `n` nodes (R249): index pages on a die, and the vectors' pages in a range of
their own, with room for later folds. -/
def reserveBuild (m : Mod) (c : Coll) (n mm degree die : Nat) : Option (List Nat × Nat × Mod) :=
  (allocPages 1 (some die) (idxPages n mm degree) m).map fun r =>
    let at' := r.2.mem.nextPage
    let m := takeRange r.2 (vecPages c n + growPages)
    (r.1, at' * pageSize, (vecPgs c (at' * pageSize) n).foldl (mapAt 2 none) m)

def buildAdmit (m : Mod) (cmd : Cmd) : Mod :=
  match collOf m (collId cmd.entry) with
  | none => m
  | some c =>
    let e := cmd.entry
    let m := dropBuilt m c (fld e 44 1)
    let d := roomiest m
    match reserveBuild m c (fld e 40 4) (buildM e) (buildDegree e) d with
    | none => m
    | some (ps, base, m) =>
      let w : BuildW := ⟨fld e 44 1, d, buildM e, buildDegree e, buildBeam e, 1, 0, 0, now m, [], [], ps, base, [], c.enable, c.signed, c.dflt, 0⟩
      setCmd m { cmd with build := some w }

/-- A build that fails gives back what it reserved (R250). -/
def buildFail (m : Mod) (cmd : Cmd) (c : Coll) (b : BuildW) (status info : Nat) : Mod :=
  finishBad (freeBuild m c cmd b) cmd status info

/-- The fault of phase 2 among the first `n` inputs (R250): the one of the lowest index; a repeated or reserved key goes before
a bad vector of its own index (DESIGN CHOICE, the log's entry on builds). -/
def ingestFault (c : Coll) (pl : Payload) (n : Nat) : Option (Nat × Nat) :=
  match keyFault true (pl.keys.take n), findIdx' (fun v => v.length != c.d || vecBad false c.ty c.dist v) (pl.vecs.take n) with
  | some i, some j => if i ≤ j then some (0x20, badAt 16 i) else vecFault false c 24 (pl.vecs.take n)
  | some i, none => some (0x20, badAt 16 i)
  | none, _ => vecFault false c 24 (pl.vecs.take n)

/-- The attribute word of input `i` under the schema pinned (R44 to R46). -/
def buildAttr (b : BuildW) (e : BitVec 512) (pl : Payload) (i : Nat) : BitVec 128 :=
  maskAttr b.enable (if fld e 32 8 = 0 then b.dflt else pl.attrs.getD i b.dflt)

/-- The segment a build makes (Table IX-3), with its sieve counts (R167). -/
def buildSeg (m : Mod) (c : Coll) (cmd : Cmd) (b : BuildW) : Segment :=
  let e := cmd.entry
  let pl := cmd.pl
  let n := fld e 40 4
  let book := freeBook c.d b.m m.draws
  let node (i : Nat) : Node :=
    let (v, nm) := storeVec false c.ty c.dist (pl.vecs.getD i [])
    ⟨pl.keys.getD i 0#64, nm, 0#32, buildAttr b e pl i, pqCode c.d b.m book (expandVec c.ty v), freeEdges m.draws b.degree i (upto n), v⟩
  ⟨b.seg, b.die, b.m, b.degree, book, (upto n).map node, entrySet m.draws (upto n), b.base, vecPages c n + growPages, b.pages,
   b.table, (upto n).foldl (fun h i => histStep (· + 1) b.enable b.signed h (buildAttr b e pl i)) histZero, false⟩

/-- A checkpoint is due (R251). -/
def ckptDue (m : Mod) (b : BuildW) : Bool := b.ckpt + 2 ^ 24 ≤ b.count || b.ckTick + 30000000 ≤ now m

/-- Phase 2: the full vectors of inputs `i` to `k` written to bench 2. -/
def ingestVecs (m : Mod) (c : Coll) (b : BuildW) (pl : Payload) (i k : Nat) : Mod :=
  ((upto k).drop i).foldl (fun m n =>
    let a := b.base + n / perPage c * pageSize + n % perPage c * vecStride c
    writeBytes m a (codesBytes c (storeVec false c.ty c.dist (pl.vecs.getD n [])).1)) m

/-- The next step of a build's work (Table IX-3); a due checkpoint comes first, and BULK credit must allow it (R87). -/
def buildRun (m : Mod) (cid : Nat) : Mod :=
  match cmdOf m cid with
  | none => m
  | some cmd =>
    match cmd.build, collOf m (collId cmd.entry) with
    | some b, some c =>
      let n := fld cmd.entry 40 4
      if ckptDue m b || ringFull m || !stepMay m cmd.entry then m
      else
      let (m, cmd) := drawStep m cmd
      let put (m : Mod) (b : BuildW) : Mod := setCmd m { cmd with build := some { b with skews := 0 } }
      match b.phase with
      | 1 => put m { b with phase := 2 }
      | 2 =>
        let k := min n (b.count + buildBatch)
        match ingestFault c cmd.pl k with
        | some (s, i) => buildFail m cmd c b s i
        | none => put (ingestVecs m c b cmd.pl b.count k) { b with count := k, phase := if k = n then 3 else 2 }
      | 3 =>
        let k := min (2 * n) (b.count + buildBatch)
        put m { b with count := k, phase := if k = 2 * n then 4 else 3 }
      | 4 => match allocPages 0 (some b.die) (tablePgs (min n 4096) b.m) m with
        | none => m
        | some (ts, m) => put m { b with phase := 5, table := ts }
      | 5 =>
        let s := buildSeg m c cmd b
        let m := imagePages { m with draws := m.draws + 1 } b.pages
        let cmd := { cmd with build := some { b with phase := 6 }, count := n, info := b.seg }
        record (setCmd m cmd) cmd (.built s)
      | _ => m
    | _, _ => m

/-- Bench 2 pages of a checkpoint: the state of the nodes ingested, the size of their records (the log's entry on builds). -/
def ckptPages (b : BuildW) (n : Nat) : Nat := idxPages (min b.count n) b.m b.degree + 1

/-- A checkpoint's bytes through the write buffer. The spec gives them no layout: each is a free value of the draw. -/
def ckptWrite (m : Mod) (ps : List Nat) : Mod :=
  ps.foldl (fun m p => writeBytes m (p * pageSize) ((upto pageSize).map fun i => Config.ckptByte m.draws i))
    { m with draws := m.draws + 1 }

/-- BUILD_CHECKPOINT (R251): the build's whole state to fresh bench 2 pages, and its ledger record. The last checkpoint's pages stay
until the next, so that a reset finds one whole. -/
def buildCkpt (m : Mod) (cid : Nat) : Mod :=
  match cmdOf m cid with
  | none => m
  | some cmd =>
    match cmd.build with
    | none => m
    | some b =>
      if !ckptDue m b then m
      else match allocPages 2 none (ckptPages b (fld cmd.entry 40 4)) m with
      | none => m
      | some (ps, m) =>
        let m := ckptWrite (b.prev.foldl releasePage m) ps
        let b := { b with ckpt := b.count, ckTick := now m, ckpts := ps, prev := b.ckpts }
        let (m, _) := addRecord m (some cmd) (collId cmd.entry) 0x21 (.buildCk b cmd.entry cmd.pl)
        let m := setCmd m { cmd with build := some b }
        setRegN m ctlP 0x120 (setBits (regN m ctlP 0x120) 0 8 b.seg)

/-! Failure of an admitted batch (R117, R230). -/

/-- The positions of a batch left unused, so that its keys stop being live. -/
def dropBatch (m : Mod) (cid : Nat) (ps : List Word) : Mod :=
  match shardOf m cid with
  | none => m
  | some c => setColl m { c with stock := mapIf (fun e => decide (e.pos ∈ ps)) (fun e => { e with used := false }) c.stock }

end Sys2Proof.Machine
end

