-- ==== Sys2Proof/Machine/MediaOps.lean ====
section
/-! DEFINITION. Media: errors, row sparing and frame retirement in the stacks (chapter 13); page moves, demotion,
the write buffer, flash channels and rebuilds (chapter 14). -/

namespace Sys2Proof.Machine

/-! Rows (R402, R403, R407, R410 to R414). -/

/-- A granule's place: stack, pseudo-channel, bank of 48, row, and its number within the stack. -/
structure Place where
  stack : Nat
  pc    : Nat
  bank  : Nat
  row   : Nat
  gran  : Nat

def placeAt (stack frame g : Nat) : Place :=
  ⟨stack, framePc frame, granBank frame g, granRow frame g, frame * 2048 + g⟩

/-- The place of a bench 1 address. -/
def placeOf (m : Mod) (a : Nat) : Option Place :=
  match pageEnt m (pageNo a) with
  | some e => if e.bench = 1 then some (placeAt (locStack e.loc) (locFrame e.loc) (a % pageSize / 32)) else none
  | none => none

/-- The frame that holds a row (R403). -/
def rowFrame (pc bank row : Nat) : Nat := row / 16 * 384 + bank / 4 * 32 + pc

def rowRec (k : Stack) (pc bank row : Nat) : RowRec :=
  (k.rows.find? fun r => r.pc = pc && r.bank = bank && r.row = row).getD ⟨pc, bank, row, none, 0, [], false, 0⟩

def setRow (k : Stack) (r : RowRec) : Stack :=
  { k with rows := r :: k.rows.filter fun x => !(x.pc = r.pc && x.bank = r.bank && x.row = r.row) }

/-- Event-enable fields of HBM_CFG. -/
def ueEvt (m : Mod) (s : Nat) : Bool := bitAt (regN m (hbmP s) 0x40) 2
def remapEvt (m : Mod) (s : Nat) : Bool := bitAt (regN m (hbmP s) 0x40) 1

/-- A correctable error (R407, R410): counted, logged, and the row's failure test. `addr` is the granule number of
its device address. -/
def correctable (m : Mod) (p : Place) (addr : Nat) : Mod :=
  let m := logErr (bump m (hbmP p.stack) 0x60) (hbmP p.stack) 0x01 addr
  let k := stackOf m p.stack
  let r := rowRec k p.pc p.bank p.row
  let bad := decide (p.gran ∈ r.seen) || decide (bits (regN m (hbmP p.stack) 0x40) 8 8 ≤ r.ce + 1)
  setStack m p.stack (setRow k { r with
    ce := r.ce + 1, seen := p.gran :: r.seen, failed := r.failed || bad, failAt := if r.failed then r.failAt else now m })

/-- An uncorrectable error (R407, R410). -/
def uncorrectable (m : Mod) (p : Place) (addr : Nat) : Mod :=
  let m := logErr (bump m (hbmP p.stack) 0x64) (hbmP p.stack) 0x02 addr
  let m := if ueEvt m p.stack then blockEvt m (hbmP p.stack) else m
  let k := stackOf m p.stack
  let r := rowRec k p.pc p.bank p.row
  setStack m p.stack (setRow k { r with failed := true, failAt := if r.failed then r.failAt else now m })

/-- What a read of a granule finds: a granule known to be uncorrectable stays so until it is written whole (R412). -/
def eccAt (m : Mod) (a : Nat) (e : Ecc) : Ecc := if a / 32 * 32 ∈ m.mem.ue then .uncorrectable else e

/-- The consequences of a read's check (R407, R421). -/
def eccEvent (m : Mod) (a : Nat) (e : Ecc) : Mod :=
  match eccAt m a e with
  | .ok => m
  | .corrected => match placeOf m a with
    | some p => correctable m p (a / 32)
    | none => m
  | .uncorrectable =>
    let m := { m with mem := { m.mem with ue := a / 32 * 32 :: m.mem.ue.filter (· != a / 32 * 32) } }
    match placeOf m a with
    | some p => uncorrectable m p (a / 32)
    | none => m

/-- A change of a stack's fault record takes a ledger record (R414). -/
def faultRecord (m : Mod) (s : Nat) (c : FaultChange) : Mod := (addRecord m none 0 0 (.fault s c)).1

/-- A free spare row of a bank, the lowest. -/
def freeSpare (k : Stack) (pc bank : Nat) : Option Nat :=
  (upto 8).find? fun s => !((pc, bank, s) ∈ k.dead) && !(k.rows.any fun r => r.pc = pc && r.bank = bank && r.spare = some s)

/-! Moves in flight (R432, R438). -/

def movesLeft (m : Mod) : Bool := (m.mem.moves.filter fun v => !v.done).length < 32

def addMove (m : Mod) (v : Move) : Mod := { m with mem := { m.mem with moves := m.mem.moves ++ [v], draws := m.mem.draws + 1 } }

/-- Whether a page holds table rows of a package version. -/
def isTablePage (m : Mod) (pg : Nat) : Bool := m.pkgs.any fun p => decide (pg ∈ p.pages)

def newMove (e : PageEnt) (reason bench loc : Nat) (table : Bool) (cmd : Option Nat) : Move :=
  ⟨e.page, reason, bench, loc, 0, [], [], none, false, table, cmd, e.bench, e.loc, 0⟩

/-- Room for one more move of a page: 32 in all, 4 of table pages on a die (R438). -/
def moveRoom (m : Mod) (e : PageEnt) : Bool :=
  let die := locDie e.bench e.loc
  movesLeft m && (!isTablePage m e.page || (m.mem.moves.filter fun v => v.table && !v.done && locDie v.srcB v.srcL = die).length < 4)

/-- A move abandoned because its destination frame fails goes on to another frame at once (R438). -/
def retryDest (m : Mod) (loc : Nat) : Mod :=
  match m.mem.moves.find? fun v => v.bench = 1 && v.loc = loc && !v.done with
  | none => m
  | some v => match pageEnt m v.page with
    | none => m
    | some e =>
      let m := abandonMove m v
      match pickLoc m 1 none with
      | some l => addMove m (newMove e v.reason 1 l v.table v.cmd)
      | none => m

/-- Whether a row that failed in the same tick is remapped before: failures of a tick go in ascending order of stack,
pseudo-channel, bank and row (R413). -/
def earlierRow (m : Mod) (s : Nat) (r : RowRec) : Bool :=
  (upto (s + 1)).any fun k => (stackOf m k).rows.any fun x => x.failed && x.failAt = r.failAt &&
    (k < s || x.pc < r.pc || (x.pc = r.pc && (x.bank < r.bank || (x.bank = r.bank && x.row < r.row))))

/-- ROW_REMAP (Table SM-3, R412, R413). -/
def rowRemapOp (m : Mod) (s pc bank row : Nat) : Mod :=
  let k := stackOf m s
  let r := rowRec k pc bank row
  if !r.failed || earlierRow m s r then m
  else
    let (m, k) := match r.spare with
      | some x => (faultRecord (bump m (hbmP s) 0x6C) s (.dead pc bank x), { k with dead := (pc, bank, x) :: k.dead })
      | none => (m, k)
    let r := { r with spare := none, ce := 0, seen := [], failed := false }
    match freeSpare k pc bank with
    | some x =>
      let m := setStack m s (setRow k { r with spare := some x })
      let m := logErr (bump m (hbmP s) 0x68) (hbmP s) 0x13 (pc + bank * 2 ^ 5 + row * 2 ^ 11 + x * 2 ^ 27) (remapEvt m s)
      let m := if remapEvt m s then blockEvt m (hbmP s) else m
      faultRecord m s (.spare pc bank row x)
    | none =>
      let f := rowFrame pc bank row
      let k := setRow k r
      retryDest (setStack m s { k with retiring := if f ∈ k.retired then k.retiring else f :: k.retiring.filter (· != f) }) (s * 2 ^ 21 + f)

/-! Frames (R415 to R418). -/

/-- A pseudo-channel marked for map-out (R418). -/
def markPc (m : Mod) (s pc : Nat) : Mod :=
  let k := stackOf m s
  if pc ∈ k.marked then m
  else
    let m := setStack m s { k with marked := pc :: k.marked }
    blockEvt (logErr m (hbmP s) 0x15 (pc + bN (pc ∈ k.pattern) * 32)) (hbmP s)

/-- A frame removed from bench 1. -/
def retireFrame (m : Mod) (s f : Nat) : Mod :=
  let k := stackOf m s
  let k := { k with retiring := k.retiring.filter (· != f), retired := f :: k.retired.filter (· != f) }
  let m := faultRecord (setStack m s k) s (.retire f)
  let m := logErr m (hbmP s) 0x14 f (remapEvt m s)
  let m := if remapEvt m s then blockEvt m (hbmP s) else m
  if 64 < (k.retired.filter fun x => framePc x = framePc f).length then markPc m s (framePc f) else m

/-- A device page retired (R416). -/
def retirePage (m : Mod) (pg : Nat) : Mod :=
  if pg ∈ m.mem.retiredPg then m
  else logErr { m with mem := { m.mem with retiredPg := pg :: m.mem.retiredPg } } hauP 0x1D pg

/-- Whether a page lies in the region of a running drill. -/
def inRunRegion (m : Mod) (pg : Nat) : Bool :=
  m.drills.any fun d => !d.ready && 0 < regionLen d && decide (regionBase d < (pg + 1) * pageSize ∧ pg * pageSize < regionBase d + regionLen d)

/-- A free frame of another bank group, in the same stack first, then in the other stack of the die. -/
def otherGroup (m : Mod) (s f : Nat) : Option Nat :=
  let n := m.mem.map.length + m.mem.moves.length * 2 + (stackOf m s).retired.length + 2
  let try' (s : Nat) : Option Nat := (((upto (n * 12)).map fun i => i % framesPerStack).find? fun x =>
    frameOk m s x && !(frameGroup x = frameGroup f)).map (s * 2 ^ 21 + ·)
  (try' s).orElse fun _ => try' (s / 2 * 2 + (1 - s % 2))

/-- A report of the base die that a pseudo-channel shows an uncorrectable pattern (R418). -/
def patternPc (m : Mod) (s pc : Nat) : Mod :=
  let k := stackOf m s
  markPc (setStack m s { k with pattern := pc :: k.pattern.filter (· != pc) }) s pc

/-- FRAME_RETIREMENT (R415, R416); with `pattern` the base die reports an uncorrectable pattern in the frame's pseudo-channel. -/
def frameRetire (m : Mod) (s f : Nat) (pattern : Bool) : Mod :=
  let m := if pattern then patternPc m s (framePc f) else m
  if !(f ∈ (stackOf m s).retiring) then m
  else match m.mem.map.find? fun e => e.bench = 1 && e.loc = s * 2 ^ 21 + f with
  | none => retireFrame m s f
  | some e =>
    if e.ring || inRunRegion m e.page || (moveOf m e.page).isSome then m
    else if e.pin then retireFrame (retirePage m e.page) s f
    else match otherGroup m s f with
    | none => retireFrame (retirePage m e.page) s f
    | some l => if moveRoom m e then addMove m (newMove e 1 1 l (isTablePage m e.page) none) else m

/-- PATROL_SCRUB (R409). -/
def scrubOp (m : Mod) (s f g : Nat) (e : Ecc) : Mod :=
  if !bitAt (regN m (hbmP s) 0x40) 0 || framesPerStack ≤ f || 2048 ≤ g then m
  else
    let pg := (m.mem.map.find? fun x => x.bench = 1 && x.loc = s * 2 ^ 21 + f).map (·.page)
    match pg with
    | some pg => eccEvent m (pg * pageSize + g * 32) e
    | none => match e with
      | .ok => m
      | .corrected => correctable m (placeAt s f g) 0
      | .uncorrectable => uncorrectable m (placeAt s f g) 0

/-! Moves (R432 to R438). -/

/-- Granules copied by one HAUL_COPY: the spec gives the order and leaves the pace to the bandwidth. -/
def copyRun : Nat := 512

/-- Whether R433 forbids moving a page for a reason. -/
def mayMove (m : Mod) (e : PageEnt) (reason : Nat) : Bool :=
  !e.ring && !e.pin && !inRunRegion m e.page && (moveOf m e.page).isNone &&
  !(e.bench = 2 && inHostWin (e.page * pageSize) && reason != 7)

/-- Whether a move leaves the copy bandwidth to one whose reason stands higher in Table BF-3 and that waits for no Recall (R432). -/
def yields (m : Mod) (v : Move) : Bool :=
  m.mem.moves.any fun x => !x.done && x.ended.isNone && decide (x.reason < v.reason) &&
    !leaseHeld m (x.page * pageSize + x.copied * 32) (min copyRun (2048 - x.copied) * 32)

/-- HAUL_COPY (R434, R423): the next run of granules, in ascending order. -/
def haulCopyOp (m : Mod) (pg : Nat) (e : Ecc) : Mod :=
  match moveOf m pg with
  | none => m
  | some v =>
    if v.ended.isSome || yields m v then m
    else
      let k := min copyRun (2048 - v.copied)
      if leaseHeld m (pg * pageSize + v.copied * 32) (k * 32) then recallRange m (pg * pageSize + v.copied * 32) (k * 32)
      else
      let at' (i : Nat) : Nat := pg * pageSize + (v.copied + i) * 32
      let worst := if (upto k).any fun i => eccAt m (at' i) .ok = .uncorrectable then Ecc.uncorrectable else e
      let m := eccEvent m (at' 0) e
      if worst = .uncorrectable && v.reason != 1 then abandonMove m v
      else
        let m := match pageEnt m pg with
          | some x => if x.bench = 1 then bump m (hbmP (locStack x.loc)) 0x70 k
            else if x.bench = 2 then bump m ⟨4, .flc, x.loc⟩ 0x4C (k / 128) else m
          | none => m
        let gs := (upto k).map fun i => (v.copied + i, readGran m (at' i))
        let n := v.copied + k
        setMove m { v with copied := n, dest := v.dest ++ gs, ended := if n = 2048 then some (now m) else none }

/-- A granule put at its page's place without regard to moves or regions. -/
def rawGran (m : Mod) (a : Nat) (g : List Byte) : Mod :=
  match pageEnt m (pageNo a) with
  | some e => if e.bench = 2 then wbPut m a g else { m with mem := { m.mem with cells := cellsSet m.mem.cells a g } }
  | none => m

/-- The flip of a move (R435, R437): the map entry changes, then the copy and the log are the page's contents; a clean demotion
takes the image on flash. -/
def flip (m : Mod) (v : Move) (e : PageEnt) (clean : Bool) : Mod :=
  let inPg (a : Nat) : Bool := pageNo a = v.page
  let m := if e.bench = 2 then
      { m with mem := { m.mem with wb := m.mem.wb.filter fun w => !(w.unit / 16 = v.page), flash := m.mem.flash.filter fun f => !(f.no / 16 = v.page) } }
    else { m with mem := { m.mem with cells := m.mem.cells.filter fun c => !inPg c.1 } }
  let m := setMove m { v with done := true, srcB := e.bench, srcL := e.loc, switch := now m }
  let m := setEnt m { e with bench := v.bench, loc := v.loc }
  let m := { m with mem := { m.mem with rot := if v.bench = 2 then (v.loc + 1) % 32 else m.mem.rot } }
  let m := match v.cmd.bind (cmdOf m) with
    | some c => setCmd m { c with info := c.info + 1 }
    | none => m
  if clean then { m with mem := { m.mem with flash := (((imgOf m v.page).map (·.units)).getD []).foldl putUnit m.mem.flash } }
  else (v.dest ++ v.log).foldl (fun m g => rawGran m (v.page * pageSize + g.1 * 32) g.2) m

/-- A clean demotion: the image of a module page becomes the page (R437). -/
def cleanMove (m : Mod) (v : Move) (e : PageEnt) : Bool :=
  v.bench = 2 && e.image && !inHostWin (v.page * pageSize) && m.mem.loaded && (imgOf m v.page).isSome

/-- Whether a move may switch in this tick (R342, R435); a ring's page never moves (R61). -/
def maySwitch (m : Mod) (v : Move) (e : PageEnt) : Bool :=
  !e.ring && (cleanMove m v e || (match v.ended with | some t => decide (t < now m) | none => false))

/-- A move's page on its destination. -/
def switched (m : Mod) (v : Move) (e : PageEnt) : Mod :=
  if cleanMove m v e then flip m { v with dest := (upto 2048).map fun i => (i, readGran m (v.page * pageSize + i * 32)) } e true
  else flip m v e false

def haulSwitchOp (m : Mod) (pg : Nat) : Mod :=
  match moveOf m pg, pageEnt m pg with
  | some v, some e =>
    if v.table || !maySwitch m v e then m
    else
      bump (switched m v e) hauP 0x60
  | _, _ => m

/-- TABLE_PAGE_SWITCH (R342): adds of the tick that arrive later act on the destination. -/
def tableSwitchOp (m : Mod) (pg : Nat) : Mod :=
  match moveOf m pg, pageEnt m pg with
  | some v, some e =>
    if !v.table || !maySwitch m v e then m
    else bump (switched m v e) ⟨locDie v.srcB v.srcL, .gth, 0⟩ 0x60
  | _, _ => m

/-- HAUL_RELEASE (R436, R342): for a module page, every command admitted before the switch tick has completed; for a table
page, every look-up. -/
def haulReleaseOp (m : Mod) (pg : Nat) : Mod :=
  match m.mem.moves.find? fun v => v.page = pg && v.done with
  | none => m
  | some v =>
    if !inHostWin (pg * pageSize) && m.cmds.any fun c => c.admitted && c.admTick < v.switch && (!v.table || opcodeOf c.entry = 0x30) then m
    else
      let m := { m with mem := { m.mem with moves := m.mem.moves.filter fun x => !(x.page = pg && x.done) } }
      let s := locStack v.srcL
      let f := locFrame v.srcL
      if v.srcB = 1 && f ∈ (stackOf m s).retiring then retireFrame m s f else m

/-- The coldest page that may be demoted: module pages with a current image first (R433). -/
def coldest (m : Mod) : Option PageEnt :=
  let ok := m.mem.map.filter fun e => e.bench = 1 && mayMove m e 6
  let key (e : PageEnt) : Nat := e.count * 2 + (if e.image && !inHostWin (e.page * pageSize) then 0 else 1)
  match ok with
  | [] => none
  | e :: es => some (es.foldl (fun b x => if key x < key b then x else b) e)

/-- DEMOTION (R432, reason 6). -/
def demotionOp (m : Mod) : Mod :=
  let cfg := regN m hauP 0x40
  let all := total ((upto 8).map (stackFrames m))
  if !bitAt cfg 0 || bits cfg 16 8 * all ≤ freeB1 m * 100 || !movesLeft m then m
  else match coldest m, pickLoc m 2 none with
  | some e, some l => if moveRoom m e then addMove m (newMove e 6 2 l (isTablePage m e.page) none) else m
  | _, _ => m

/-- Pages freed when their user ends (R428). -/
def namedByCmd (m : Mod) (pg : Nat) : Bool :=
  m.cmds.any fun c => c.admitted && (upto 48).any fun b =>
    (b % 8 = 0 || b % 8 = 4) && bitAt (fld c.entry (16 + b) 8) 63 && pageNo (fld c.entry (16 + b) 8 % 2 ^ 46) = pg

/-- A host-window page freed: its leases are recalled, and what the host returns for them is discarded (R428, Table
VL-6). -/
def freePage (m : Mod) (pg : Nat) : Mod :=
  let ls := m.velom.leases.filter fun l => l.line * 64 / pageSize = pg
  dropPage (ls.foldl (fun m l => addRecall m l.line 0 .freed) m) pg

def sweepFreed (m : Mod) : Mod :=
  m.mem.freeing.foldl (fun m pg => if namedByCmd m pg || inRunRegion m pg then m else freePage m pg) m

/-- HAU_FREE (R428): the host-window page of an index. -/
def hauFreeOp (m : Mod) (idx : Nat) : Mod :=
  let pg := pageNo hostBase + idx
  match pageEnt m pg with
  | none => m
  | some e => if e.ring || namedByCmd m pg || inRunRegion m pg then
      { m with mem := { m.mem with freeing := pg :: m.mem.freeing.filter (· != pg) } }
    else freePage m pg

/-! Write buffer and flash (R441 to R452). -/

/-- WRITE_BUFFER_PROGRAM (R442, R443): the oldest entry of a unit. -/
def wbProgramOp (m : Mod) (unit : Nat) : Mod :=
  match m.mem.wb.find? fun w => w.unit = unit with
  | none => m
  | some w => programEnt m w

/-- Everything in the write buffer programmed (R444). -/
def wbDrain (m : Mod) : Mod := m.mem.wb.foldl programEnt m

def chanOf (m : Mod) (ch : Nat) : FlashCh := m.mem.channels.getD ch ⟨1, 4, 0, 0, 0⟩
def setChan (m : Mod) (ch : Nat) (c : FlashCh) : Mod := { m with mem := { m.mem with channels := m.mem.channels.set ch c } }

/-- FLASH_BLOCK_FAILURE (R451), with the channel's wear in percent: a spare replaces the block; FLASH_WEAR above 80 % of wear or
below 2 % of spares; no spare left: read-only. -/
def blockFail (m : Mod) (ch wear : Nat) : Mod :=
  let c := chanOf m ch
  if 32 ≤ ch || 2 ≤ c.st then m
  else
    let c := { c with wear := max c.wear wear, bad := c.bad + 1, spare := min (c.spare + 1) Config.spareBlocks }
    let c := if Config.spareBlocks ≤ c.spare then { c with st := 2 } else c
    let m := setChan m ch c
    if 80 < c.wear || (Config.spareBlocks - c.spare) * 100 < 2 * Config.spareBlocks then blockEvt m ⟨4, .flc, ch⟩ else m

/-- A group whose channel has failed: the page that was on it rebuilt from the rest, onto a channel that holds none of the group's
pages (R447, R452). -/
def regroup (m : Mod) (ch : Nat) (g : ParGroup) : ParGroup :=
  let used := (g.parity :: g.pages).map (·.ch)
  let free := (groupChans m).filter fun c => !(c ∈ used)
  let dst := (free.head?.orElse fun _ => (groupChans m).head?).getD ch
  let fix (x : ImgPage) : ImgPage := if x.ch = ch then imgPage m x.page dst (rebuilt m g x.page) else x
  { g with pages := g.pages.map fix, parity := fix g.parity }

/-- FLASH_CHANNEL_FAILURE (R452): the channel's module pages and images are rebuilt onto other channels. -/
def channelFail (m : Mod) (ch : Nat) : Mod :=
  if 32 ≤ ch || (chanOf m ch).st = 3 then m
  else
    let m := setChan m ch { chanOf m ch with st := 3 }
    let m := { m with mem := { m.mem with groups := m.mem.groups.map (regroup m ch) } }
    let mine := m.mem.map.filter fun e => e.bench = 2 && e.loc = ch && !inHostWin (e.page * pageSize)
    mine.foldl (fun m e => match pickLoc m 2 none with
      | some l => setEnt { m with mem := { m.mem with rot := (l + 1) % 32 } } { e with loc := l }
      | none => m) m

/-- Whether an address lies on a failed flash channel, whose host pages have no parity (R447, R452). -/
def flashLost (m : Mod) (a : Nat) : Bool :=
  match pageEnt m (pageNo a) with
  | some e => e.bench = 2 && (chanOf m e.loc).st = 3
  | none => false

/-! Hot table pages (R342). -/

def hotOk (m : Mod) (die : Nat) (e : PageEnt) : Bool :=
  let cfg := (m.mem.hotCfg.getD die 0#32).toNat
  let inB0 := (m.mem.map.filter fun x => x.bench = 0 && x.loc / 1024 = die && isTablePage m x.page).length
  let mine := (m.mem.moves.filter fun v => v.table && !v.done && v.bench = 0 && locDie v.srcB v.srcL = die).length
  bits cfg 16 8 != 0 && bits cfg 16 8 * 1024 ≤ e.count && inB0 + mine < bits cfg 0 16 && moveRoom m e &&
  mayMove m e 5 && !(m.mem.backoff.any fun b => b.1 = e.page && decide (now m < b.2))

/-- One page's proposal. -/
def proposeHot (die : Nat) (m : Mod) (pg : Nat) : Mod :=
  match pageEnt m pg with
  | none => m
  | some e =>
    if !hotOk m die e then m
    else match pickLoc m 0 (some die) with
    | some l => if (m.mem.moves.any fun v => v.bench = 0 && v.loc = l) then m else addMove m (newMove e 5 0 l true none)
    | none => m

/-- HOT_PAGE_WINDOW (R342, R345): hot pages proposed; the die's counts start again, and GTH_HOT_CFG is taken for the next window. -/
def hotWindowOp (m : Mod) (die : Nat) : Mod :=
  let mine := (m.mem.map.filter fun e => e.bench = 1 && locDie 1 e.loc = die && isTablePage m e.page).map (·.page)
  let m := mine.foldl (proposeHot die) m
  let f (e : PageEnt) : PageEnt := if isTablePage m e.page && e.bench != 2 && locDie e.bench e.loc = die then { e with count := 0 } else e
  { m with mem := { m.mem with map := m.mem.map.map f, hotCfg := m.mem.hotCfg.set die (getReg m ⟨die, .gth, 0⟩ 0x40) } }

end Sys2Proof.Machine
end

