-- ==== Sys2Proof/Machine/TableOps.lean ====
section
/-! DEFINITION. Hashed tables (chapter 10): row selection, pooled look-ups, and updates by sector adds at memory. -/

namespace Sys2Proof.Machine
open Fp

/-- The row of an index in a hashed table (R328). -/
def hashRow (seed : DWord) (p : Nat) (i : DWord) : Nat :=
  let x := i ^^^ seed
  let x := (x ^^^ (x >>> 33)) * 0xff51afd7ed558ccd#64
  let x := (x ^^^ (x >>> 33)) * 0xc4ceb9fe1a85ec53#64
  let x := x ^^^ (x >>> 33)
  x.toNat % p

/-- Whether an index is invalid (R330). -/
def idxBad (t : TableDesc) (i : DWord) : Bool := t.n ≤ i.toNat || i = padKey

/-- The physical rows an index selects, the quotient row first (R327 to R330); none selects the default row. -/
def selectRows (p : PkgVer) (tno : Nat) (i : DWord) : List (Nat × Nat) :=
  match tableOf p tno with
  | none => []
  | some t =>
    if idxBad t i then []
    else match t.kind with
    | 0 => [(tno, i.toNat)]
    | 1 => [(tno, hashRow t.seed t.p i)]
    | _ =>
      let pr := ((tableOf p t.rem).map (·.p)).getD 1
      [(t.quot, i.toNat / pr), (t.rem, i.toNat % pr)]

/-- Bytes from one row to the next, and rows on a page (R326). -/
def rowStride (t : TableDesc) : Nat := alignUp (t.w * elemBytes t.ty) 32 + if t.ty = 3 || t.ty = 8 then 32 else 0
def rowsPerPage (t : TableDesc) : Nat := pageSize / rowStride t

/-- The device address of a row of a package version. -/
def rowAddr (p : PkgVer) (tno row : Nat) : Nat :=
  match tableOf p tno with
  | none => 0
  | some t => (p.tbase.getD tno 0 + row / rowsPerPage t) * pageSize + row % rowsPerPage t * rowStride t

/-- The die that holds a row: page p of a table lies on die p mod 4. -/
def rowDie (p : PkgVer) (tno row : Nat) : Nat :=
  match tableOf p tno with
  | none => 0
  | some t => row / rowsPerPage t % 4

/-- The bytes of a row as MODEL_LOAD writes them, its scale record after it (R326). -/
def rowBytes (t : TableDesc) (row : Nat) : List Byte :=
  let cs := (t.rows.getD row []).map (·.toNat)
  let data := padTo 32 (packCodes t.ty ((upto t.w).map fun i => cs.getD i 0))
  if t.ty = 3 then data ++ toBytes (t.scales.getD row 0x3F800000#32).toNat 4 ++ toBytes 0 28
  else if t.ty = 8 then
    data ++ toBytes (roundTo f16 .toInf (val (t.scales.getD row 0x3F800000#32))) 2 ++ toBytes ((t.zeros.getD row 0) % 256).toNat 1 ++
      toBytes 0 29
  else data

/-- A stored row expanded to fp32 with its scale applied (R332). -/
def expandRow (t : TableDesc) (bs : List Byte) : List Word :=
  let d := alignUp (t.w * elemBytes t.ty) 32
  let s : Scale := match t.ty with
    | 3 => .real (BitVec.ofNat 32 (ofBytes ((bs.drop d).take 4))) 0
    | 8 => .real (toW (decode f16 (ofBytes ((bs.drop d).take 2)))) (sext (ofBytes ((bs.drop (d + 2)).take 1)) 8)
    | _ => .one
  (upto t.w).map fun i => codeVal t.ty (unpackCode t.ty bs i) s

/-- The bytes a look-up admitted in tick `adm` reads: where its page has switched since, the source's (R342), which the copy and its
log hold. -/
def lookupBytes (m : Mod) (adm a n : Nat) : List Byte :=
  match m.mem.moves.find? fun v => v.page = pageNo a && v.done && v.table && adm < v.switch with
  | none => readBytes m a n
  | some v => (upto n).map fun i =>
      let at' := a % pageSize + i
      ((((v.dest ++ v.log).filter fun g => g.1 = at' / 32).getLast?.map (·.2)).getD []).getD (at' % 32) 0#8

def readRow (m : Mod) (adm : Nat) (p : PkgVer) (tno row : Nat) : List Word :=
  match tableOf p tno with
  | none => []
  | some t => expandRow t (lookupBytes m adm (rowAddr p tno row) (rowStride t))

/-- The default row in fp32, zero if the package gives none. -/
def defaultRow (t : TableDesc) : List Word :=
  (upto t.w).map fun i => codeVal t.ty (t.dflt.getD i 0#32).toNat .one

/-- The fp32 row of an index and the die that takes its term (R329, R330, R332). -/
def rowOf (m : Mod) (adm : Nat) (p : PkgVer) (tno : Nat) (t : TableDesc) (i : DWord) : List Word × Nat :=
  match selectRows p tno i with
  | [] => (defaultRow t, 0)
  | [a] => (readRow m adm p a.1 a.2, rowDie p a.1 a.2)
  | a :: b :: _ =>
    let f := if t.prod then fmul else fadd
    (((readRow m adm p a.1 a.2).zip (readRow m adm p b.1 b.2)).map fun x => f x.1 x.2, rowDie p a.1 a.2)

/-! Look-ups (R331 to R334). -/

/-- The first offset that breaks R334's rule. -/
def offsetFault (os : List Word) (bags n : Nat) : Option Nat :=
  let o (i : Nat) : Nat := (os.getD i 0#32).toNat
  (upto (bags + 1)).find? fun i => (i = 0 && o 0 != 0) || (0 < i && o i < o (i - 1)) || (i = bags && o i != n)

/-- One die's partial of a bag (R332). -/
def partialOf (terms : List (Word × List Word × Nat)) (w d : Nat) : List Word :=
  terms.foldl (fun acc x => if x.2.2 = d then (acc.zip x.2.1).map fun y => fma x.1 y.2 y.1 else acc) (List.replicate w 0#32)

/-- A bag pooled in index order and in die order (R332, R333). -/
def poolBag (terms : List (Word × List Word × Nat)) (w : Nat) : List Word :=
  let add2 (a b : List Word) : List Word := (a.zip b).map fun x => fadd x.1 x.2
  add2 (add2 (add2 (partialOf terms w 0) (partialOf terms w 1)) (partialOf terms w 2)) (partialOf terms w 3)

/-- Conversions counted on a crusher's page (Table CR-8). -/
def countMarks (m : Mod) (p : Page) (ms : List Mark) : Mod :=
  let n (k : Mark) : Nat := (ms.filter (· = k)).length
  bump (bump (bump (bump m p 0x48 ms.length) p 0x4C (n .saturated)) p 0x50 (n .flushed)) p 0x54 (n .special)

/-- The rows a look-up fetches, each once. -/
def uniqueRows (p : PkgVer) (tno : Nat) (ix : List DWord) : List (Nat × Nat) := (ix.flatMap (selectRows p tno)).eraseDups

/-- Sector reads of a row counted where bench 1 serves them (Table SM-5). -/
def countRow (p : PkgVer) (m : Mod) (r : Nat × Nat) : Mod :=
  match tableOf p r.1, pageEnt m (pageNo (rowAddr p r.1 r.2)) with
  | some t, some e => if e.bench = 1 then bump m (hbmP (locStack e.loc)) 0x70 (rowStride t / 32) else m
  | _, _ => m

/-- Invalid indices counted (R330). -/
def countDefaults (m : Mod) (t : TableDesc) (ix : List DWord) : Mod := bump m ⟨0, .gth, 0⟩ 0x54 (ix.filter (idxBad t)).length

/-- Gather counters of a look-up, and the fetches of its pages (Table HT-3, R342). -/
def countLookup (m : Mod) (p : PkgVer) (tno : Nat) (t : TableDesc) (ix : List DWord) : Mod :=
  let us := uniqueRows p tno ix
  let m := (upto 4).foldl (fun m d =>
    let g : Page := ⟨d, .gth, 0⟩
    let mine := (ix.filter fun i => match selectRows p tno i with | a :: _ => rowDie p a.1 a.2 = d | [] => d = 0).length
    let m := if mine = 0 then m else bump m g 0x48
    bump (bump m g 0x4C mine) g 0x50 (us.filter fun r => rowDie p r.1 r.2 = d).length) m
  let m := countDefaults (us.foldl (countRow p) m) t ix
  let pgs := us.map fun r => pageNo (rowAddr p r.1 r.2)
  { m with mem := { m.mem with map := m.mem.map.map fun e => { e with count := e.count + (pgs.filter (· = e.page)).length } } }

/-- Whether a row holds a granule known to be uncorrectable: its readers wait for the rebuild (R422). -/
def rowHurt (m : Mod) (p : PkgVer) (r : Nat × Nat) : Bool :=
  match tableOf p r.1 with
  | none => false
  | some t => m.mem.ue.any fun a => rowAddr p r.1 r.2 ≤ a && a < rowAddr p r.1 r.2 + rowStride t

/-- The package version a command pinned. -/
def pkgOf (m : Mod) (c : Cmd) (id : Nat) : Option PkgVer := m.pkgs.find? fun p => p.id = id && some p.ver = c.pkgVer

/-- The work of an admitted TABLE_LOOKUP. -/
def lookupRun (m : Mod) (cid : Nat) : Mod :=
  match cmdOf m cid with
  | none => m
  | some c =>
    let e := c.entry
    if opcodeOf e != 0x30 || !c.admitted then m
    else match pkgOf m c (fld e 16 2) with
    | none => m
    | some p =>
      let tno := fld e 18 1
      match tableOf p tno with
      | none => m
      | some t =>
        let n := fld e 28 4
        let bags := fld e 56 2
        let ix := (upto n).map fun j => c.pl.indices.getD j 0#64
        match offsetFault c.pl.offsets bags n with
        | some i => finishBad m c 0x20 (badAt 40 i)
        | none =>
          if unitsStall m || (uniqueRows p tno ix).any (rowHurt m p) then m
          else
            let wt (j : Nat) : Word :=
              if fld e 32 8 = 0 then oneW
              else
                let w := c.pl.weights.getD j 0#32
                if fld e 19 1 = 0 then w else codeVal t.ty w.toNat .one
            let term (j : Nat) : Word × List Word × Nat := (wt j, rowOf m c.admTick p tno t (ix.getD j 0#64))
            let o (i : Nat) : Nat := (c.pl.offsets.getD i 0#32).toNat
            let ty := fld e 58 1
            let conv := (upto bags).map fun b =>
              (poolBag ((upto (o (b + 1) - o b)).map fun i => term (o b + i)) t.w).map fun y => convert ty y .one
            let out := conv.flatMap fun r => padTo 32 (packCodes ty (r.map (·.1)))
            if !outReady m (fld e 48 8) out.length then outClaim m (fld e 48 8) out.length
            else
            let m := countLookup m p tno t ix
            let m := countMarks m (cruP 0) (conv.flatten.map (·.2))
            finish (writePtr m (fld e 48 8) out) c { status := 0, count := bags, crc := (crc32c out).toNat }

/-! Updates (R335 to R340). -/

/-- One element of an add: the new code, and whether it saturated (R335). -/
def addElem (ty : Nat) (old : Nat) (d : Word) : Nat × Bool :=
  match fmtOf ty with
  | none => (old, false)
  | some f =>
    let s := add (decode f old) (val d)
    match s with
    | .fin _ _ _ =>
      let w := satW s
      (roundTo f .saturate (val w), overflows f32 s || overflows f (val w))
    | v => (roundTo f .toInf v, false)

/-- A granule with a sector's deltas added, and the elements saturated. -/
def addGran (ty : Nat) (g : List Byte) (ds : List Word) : List Byte × Nat :=
  let k := 256 / fmtBits ty
  let es := (upto k).map fun i =>
    let c := unpackCode ty g i
    match ds[i]? with
    | some d => addElem ty c d
    | none => (c, false)
  (packCodes ty (es.map (·.1)), (es.filter (·.2)).length)

/-- The sector adds of a delta row at a row's address. -/
def rowAdds (m : Mod) (ty a : Nat) (ds : List Word) (cmd : Option Nat) : List SvcEnt :=
  let k := 256 / fmtBits ty
  (upto (ceilDiv ds.length k)).map fun i =>
    let at' := a + 32 * i
    let st := match pageEnt m (pageNo at') with
      | some e => if e.bench = 1 then locStack e.loc else 8 + locDie e.bench e.loc
      | none => 8
    ⟨st, at', ty, (ds.drop (k * i)).take k, cmd⟩

/-- Every sector add of an update (R335, R336): a composed table under SUM takes the delta in both rows. An invalid index selects the
default row, which never changes within a version (R325), so its delta changes nothing (DESIGN CHOICE). -/
def updateAdds (m : Mod) (p : PkgVer) (tno : Nat) (ix : List DWord) (ds : List (List Word)) (cmd : Option Nat) : List SvcEnt :=
  (ix.zip ds).flatMap fun x => (selectRows p tno x.1).flatMap fun r =>
    match tableOf p r.1 with
    | none => []
    | some t => rowAdds m t.ty (rowAddr p r.1 r.2) x.2 cmd

/-- The deltas of a TABLE_UPDATE in fp32. -/
def deltasOf (e : BitVec 512) (pl : Payload) (t : TableDesc) : List (List Word) :=
  (upto (fld e 28 4)).map fun j =>
    let d := (upto t.w).map fun i => (pl.vecs.getD j []).getD i 0#32
    if fld e 19 1 = 0 then d else d.map fun w => codeVal t.ty w.toNat .one

/-- A sector add performed on its granule at the page's present place, with the gather and drill counters. -/
def applyAdd (m : Mod) (s : SvcEnt) (table : Bool) : Mod :=
  let (g, sat) := addGran s.ty (readGran m s.addr) s.delta
  let m := putGran m s.addr g
  let die := match pageEnt m (pageNo s.addr) with
    | some e => locDie e.bench e.loc
    | none => 0
  if table then bump (bump m ⟨die, .gth, 0⟩ 0x58) ⟨die, .gth, 0⟩ 0x5C sat else m

/-- The record of an update whose adds have all been applied (R338). -/
def updateRecord (m : Mod) (c : Cmd) : Mod :=
  match pkgOf m c (fld c.entry 16 2) with
  | none => m
  | some p => match tableOf p (fld c.entry 18 1) with
    | none => m
    | some t => record m c (.update p.id p.root (fld c.entry 18 1) c.pl.indices (deltasOf c.entry c.pl t))

/-- One add of a command marked done (R366). -/
def addDone (m : Mod) (s : SvcEnt) : Mod :=
  match s.cmd.bind (cmdOf m) with
  | none => m
  | some c => match c.upd with
    | none => m
    | some u =>
      let c := { c with upd := some { u with left := u.left - 1, done := u.done ++ [s] } }
      let m := setCmd m c
      if u.queued && u.left = 1 then updateRecord m c else m

/-- The work of an admitted TABLE_UPDATE: its adds enter the service; those in bench 0 act at once (R337). -/
def updateRun (m : Mod) (cid : Nat) : Mod :=
  match cmdOf m cid with
  | none => m
  | some c =>
    let e := c.entry
    match c.upd, pkgOf m c (fld e 16 2) with
    | some u, some p =>
      match tableOf p (fld e 18 1) with
      | none => m
      | some t =>
        if u.queued || opcodeOf e != 0x31 || unitsStall m then m
        else
          let as := updateAdds m p (fld e 18 1) c.pl.indices (deltasOf e c.pl t) (some cid)
          let c := { c with upd := some ⟨true, as.length, []⟩, count := fld e 28 4 }
          let m := setCmd (countDefaults m t ((upto (fld e 28 4)).map fun j => c.pl.indices.getD j 0#64)) c
          if as.isEmpty then updateRecord m c
          else
            let m := { m with svc := m.svc ++ as.filter fun s => s.stack < 8 }
            (as.filter fun s => 8 ≤ s.stack).foldl (fun m s => addDone (applyAdd m s true) s) m
    | _, _ => m

/-- The durable adds of a table page, in lsn order, on its contents (R340). -/
def replayAdds (m : Mod) (p : PkgVer) (pg : Nat) : Mod :=
  let mark := ((m.ledger.images.find? fun i => i.coll = 0).map (·.lsn)).getD 0
  let rs : List LRec := m.ledger.records.filter fun r => r.prog.isSome && decide (mark < r.lsn)
  let adds := rs.flatMap fun r => match r.redo with
    | .update id v tno ix ds => if id = p.id && v = p.root then updateAdds m p tno ix ds none else []
    | _ => []
  (adds.filter fun s => pageNo s.addr = pg).foldl (fun m s => applyAdd m s false) m

/-- A granule of a page's image. -/
def imageGran (m : Mod) (lost : List (Nat × Nat)) (pg i : Nat) : Option (List Byte) :=
  (imageUnit m lost pg (i / 128)).map (unitGran · (i % 128))

/-- A table page as its flash image and the durable update records leave it (R340, R367, R422). -/
def restorePage (m : Mod) (lost : List (Nat × Nat)) (p : PkgVer) (pg : Nat) : Mod :=
  let m := { m with mem := { m.mem with cells := m.mem.cells.filter (fun c => pageNo c.1 != pg) } }
  let m := (upto 2048).foldl (fun m i =>
    let a := pg * pageSize + 32 * i
    match imageGran m lost pg i with
    | none => { m with mem := { m.mem with ue := a :: m.mem.ue.filter (· != a) } }
    | some g =>
      if g.all (· = 0#8) && (moveOf m pg).isNone then { m with mem := { m.mem with ue := m.mem.ue.filter (· != a) } } else applyGran m a g) m
  replayAdds m p pg

/-- The adds that admitted updates but one have made to a page, applied again (R367). -/
def againAdds (m : Mod) (but : Option Nat) (pg : Nat) : Mod :=
  let done := (m.cmds.filter fun x => some x.id != but).flatMap fun x => (x.upd.map (·.done)).getD []
  (done.filter fun s => pageNo s.addr = pg).foldl (fun m s => applyAdd m s false) m

/-- A failed update's pages restored, and the adds of the other admitted updates applied again (R367). -/
def updateUndo (m : Mod) (c : Cmd) : Mod :=
  match c.upd, pkgOf m c (fld c.entry 16 2) with
  | some u, some p =>
    let pgs := (u.done.map fun s => pageNo s.addr).eraseDups
    let m := { m with svc := m.svc.filter fun s => s.cmd != some c.id }
    pgs.foldl (fun m pg => againAdds (restorePage m [] p pg) (some c.id) pg) m
  | _, _ => m

/-- PAGE_REBUILD (R422): a bench 1 page rebuilt from its image, `lost` naming the units of the group that cannot be read, and from
the durable records: a table page whole, with the adds of admitted updates applied again (as R367); another page where it is
damaged. Its segment is degraded no more once no granule of the page is uncorrectable. -/
def rebuildOp (m : Mod) (pg : Nat) (seg : Option (Nat × Nat)) (lost : List (Nat × Nat)) : Mod :=
  match pageEnt m pg with
  | none => m
  | some e =>
    if e.bench != 1 || (imgOf m pg).isNone then m
    else
      let bad := m.mem.ue.filter fun a => pageNo a = pg
      let m := match m.pkgs.find? fun p => decide (pg ∈ p.pages) with
        | some p => againAdds (restorePage m lost p pg) none pg
        | none => bad.foldl (fun m a => match imageGran m lost pg (a % pageSize / 32) with
            | some g => if e.image then { m with mem := { m.mem with ue := m.mem.ue.filter (· != a), cells := cellsSet m.mem.cells a g } }
              else { m with mem := { m.mem with ue := m.mem.ue.filter (· != a) } }
            | none => m) m
      match seg with
      | some (c, s) => if m.mem.ue.any fun a => pageNo a = pg then m else markSeg m c s false
      | none => m

/-- An add of a K-split partial performed; a granule whose sum saturates is marked (R271, R276). -/
def ksAdd (m : Mod) (s : SvcEnt) : Mod :=
  let hit := (addGran s.ty (readGran m s.addr) s.delta).2 != 0
  let m := applyAdd m s false
  if hit then { m with ksat := s.addr :: m.ksat.filter (· != s.addr) } else m

/-- Whether an add of the service belongs to a TABLE_UPDATE; any other is a K-split's. -/
def tableAdd (m : Mod) (s : SvcEnt) : Bool := (s.cmd.bind (cmdOf m)).any fun c => c.upd.isSome

end Sys2Proof.Machine
end

