-- ==== Sys2Proof/Machine/Ops.lean ====
section
/-! DEFINITION. The named operations on the cores that run chapter 12's instructions: registers, local store and
scratch, the issue of an instruction, the taking of an exception, and the end of a run (chapters 11 and 12). -/

namespace Sys2Proof.Machine

def faceOf (m : Mod) (n : Nat) : Option Face := m.faces.find? fun f => f.id = n
def setFace (m : Mod) (f : Face) : Mod := { m with faces := mapIf (fun x => x.id = f.id) (fun _ => f) m.faces }
def drillOf (m : Mod) (s n : Nat) : Option Drill := m.drills.find? fun d => d.stack = s && d.n = n
def setDrill (m : Mod) (d : Drill) : Mod :=
  { m with drills := mapIf (fun x => x.stack = d.stack && x.n = d.n) (fun _ => d) m.drills }

/-! Face registers and memory (Table IS-2, R384). -/

def faceX (f : Face) (i : Nat) : Nat := if i = 0 then 0 else (f.x.getD i 0#64).toNat
def faceSetX (f : Face) (i v : Nat) : Face := if i = 0 then f else { f with x := f.x.set i (BitVec.ofNat 64 v) }
def laneZero (_ : Nat) : List Word := List.replicate 256 0#32
def faceV (f : Face) (i : Nat) : List Word := mapGet laneZero f.v i
def faceSetV (f : Face) (i : Nat) (v : List Word) : Face := { f with v := mapSet laneZero f.v i v }
def maskZero (_ : Nat) : List Bool := List.replicate 256 false
/-- A lane mask; mask 0 means all lanes. -/
def faceM (f : Face) (i : Nat) : List Bool := if i = 0 then List.replicate 256 true else mapGet maskZero f.mask i
def faceSetM (f : Face) (i : Nat) (v : List Bool) : Face := if i = 0 then f else { f with mask := mapSet maskZero f.mask i v }

def tdZero (_ : Nat) : TDesc := ⟨0, 0, 0, 0, 0, 0, false, 0, 0, 0, 0, 0, []⟩
def faceTd (f : Face) (i : Nat) : TDesc := mapGet tdZero f.td i
def faceSetTd (f : Face) (i : Nat) (t : TDesc) : Face := { f with td := mapSet tdZero f.td i t }

def storeSize : Nat := 0x700000
def isLocal (a : Nat) : Bool := bitAt a 63

/-- Bytes patched by writes in order. -/
def overlay (a : Nat) (bs : List Byte) (ws : List (Nat × List Byte)) : List Byte :=
  ws.foldl (fun bs w => (upto bs.length).map fun i =>
    if w.1 ≤ a + i ∧ a + i < w.1 + w.2.length then w.2.getD (a + i - w.1) 0#8 else bs.getD i 0#8) bs

/-- Bytes at a face address, with what the face's work unit has written and not committed. -/
def faceRead (m : Mod) (f : Face) (a n : Nat) : List Byte :=
  if isLocal a then (upto n).map fun i => cellGet f.store (a % 2 ^ 23 + i)
  else overlay a (readBytes m a n) (f.outb.filter fun w => w.1 < a + n && a < w.1 + w.2.length)

def faceWrite (f : Face) (a : Nat) (bs : List Byte) : Face :=
  if isLocal a then { f with store := cellsSet f.store (a % 2 ^ 23) bs }
  else { f with outb := f.outb ++ [(a, bs)] }

/-- The exception of a face access of `n` bytes, if it raises one (Table IS-8, causes 0x10 and 0x11). -/
def faceAccess (m : Mod) (a n align : Nat) : Option Nat :=
  if isLocal a then
    if bits a 23 40 != 0 || storeSize < a % 2 ^ 23 + n || a % align != 0 then some 0x10 else none
  else if bits a 46 17 != 0 || devEnd < a + n || (m.mem.retiredPg.any fun p => a < (p + 1) * pageSize && p * pageSize < a + n)
    then some 0x11
  else if a % align != 0 then some 0x10 else none

/-- Face-local store bytes for a scalar load or store: its address must be local (Table IS-3). -/
def localAccess (a n : Nat) : Option Nat :=
  if !isLocal a || bits a 23 40 != 0 || storeSize < a % 2 ^ 23 + n || a % n != 0 then some 0x10 else none

/-! Drill registers and scratch (Table IS-8a). -/

def drillR (d : Drill) (i : Nat) : Nat := if i = 0 then 0 else (d.r.getD i 0#32).toNat
def drillSetR (d : Drill) (i v : Nat) : Drill := if i = 0 then d else { d with r := d.r.set i (BitVec.ofNat 32 v) }
def quadZero (_ : Nat) : List Word := List.replicate 16 0#32
def drillQ (d : Drill) (i : Nat) : List Word := mapGet quadZero d.q i
def drillSetQ (d : Drill) (i : Nat) (v : List Word) : Drill := { d with q := mapSet quadZero d.q i v }
def predZero (_ : Nat) : List Bool := List.replicate 16 false
def drillP (d : Drill) (i : Nat) : List Bool := if i = 0 then List.replicate 16 true else mapGet predZero d.p i
def drillSetP (d : Drill) (i : Nat) (v : List Bool) : Drill := if i = 0 then d else { d with p := mapSet predZero d.p i v }
def drillB (d : Drill) (i : Nat) : Nat := mapGet (fun _ => 0) d.b i
def drillSetB (d : Drill) (i v : Nat) : Drill := { d with b := mapSet (fun _ => 0) d.b i v }

/-- DRL_CMD_STATUS (Table DR-3). -/
def statusWord (d : Drill) : Nat :=
  bN d.ready * 2 ^ 31 + bN d.fault * 2 ^ 30 + bN d.dbErr * 2 ^ 29 + d.st % 8 * 2 ^ 26 + d.exit % 256 * 2 ^ 16 + d.seq % 65536

/-- A word of the command register area. -/
def areaWord (d : Drill) (o : Nat) : Nat := if o = 0x0C then statusWord d else if o = 0x08 then 0 else areaN d o
def setArea (d : Drill) (o v : Nat) : Drill := { d with area := mapSet areaDflt d.area o (BitVec.ofNat 32 v) }

/-- Bytes of scratch space, the command register area from 0x8000 on. -/
def scratchByte (d : Drill) (a : Nat) : Byte :=
  if a < 0x8000 then cellGet d.scratch a
  else BitVec.ofNat 8 (areaWord d ((a - 0x8000) / 4 * 4) / 2 ^ (8 * (a % 4)))
def scratchRead (d : Drill) (a n : Nat) : List Byte := (upto n).map fun i => scratchByte d (a + i)

/-- One byte of the command register area replaced. -/
def setAreaByte (d : Drill) (o : Nat) (b : Byte) : Drill :=
  setArea d (o / 4 * 4) (setBits (areaN d (o / 4 * 4)) (8 * (o % 4)) 8 b.toNat)
def scratchWrite (d : Drill) (a : Nat) : List Byte → Drill
  | [] => d
  | b :: bs => scratchWrite (if a < 0x8000 then { d with scratch := cellSet d.scratch a b } else setAreaByte d (a - 0x8000) b) (a + 1) bs

/-- The exception of a scratch access (causes 0x10 and 0x13, R391). -/
def scratchAccess (a n align : Nat) (store : Bool) : Option Nat :=
  if 0x8100 < a + n || a % align != 0 then some 0x10
  else if store && 0x8000 < a + n && a < 0x8080 then some 0x13
  else none

/-! The end of a run of a command's units (R126, R399). -/

/-- The cores' order: by number, drills by stack first. -/
def coreKey : Core → Nat
  | .face n => n
  | .drill s n => 1000 * s + n

/-- The completion of a command none of whose units still runs. -/
def runDone (m : Mod) (c : Cmd) (w : RunW) : Mod :=
  let m := if w.scaleAt = 0 then m else dropPage m (pageNo w.scaleAt)
  if w.exits.any fun x => x.2 = 0xF8 then finishBad m c 0x30 0
  else
    let l := sortBy (fun a b => decide (coreKey a.1 < coreKey b.1)) w.exits
    finish m c { status := 0, count := (l.filter fun x => x.2 ≤ 0xEF).length, info := ((l.find? fun x => x.2 != 0).map (·.2)).getD 0 }

/-- Whether a unit of a run has ended by an exception: its command completes as the tick ends, since a stop of the same tick
decides its status (R400). -/
def excEnded (w : RunW) : Bool := w.exits.any fun x => 0xF0 ≤ x.2 && x.2 ≤ 0xF2

/-- The commands whose last unit ended in this tick, one of them by an exception, complete. -/
def finishRuns (m : Mod) : Mod :=
  m.cmds.foldl (fun m c => match c.run with
    | some w =>
      if !w.started || !w.cores.isEmpty then m
      else if stopped m c then finishBad (if w.scaleAt = 0 then m else dropPage m (pageNo w.scaleAt)) c 0x11 0
      else runDone m c w
    | none => m) m

/-- A unit of a command has ended with a code. -/
def runExit (m : Mod) (cid : Option Nat) (k : Core) (code : Nat) : Mod :=
  match cid.bind (cmdOf m) with
  | none => m
  | some c => match c.run with
    | none => m
    | some w =>
      let w := { w with cores := w.cores.filter (· != k), exits := w.exits ++ [(k, code)] }
      let c := { c with run := some w }
      let m := setCmd m c
      if w.cores.isEmpty && w.started && !excEnded w then runDone m c w else m

/-! Statistics and the commit of a work unit (R310, R311, R320). -/

def recN (m : Mod) (a n : Nat) : Nat := ofBytes (readBytes m a n)
def satAdd (k a b : Nat) : Nat := min (a + b) (2 ^ k - 1)

/-- One tile's contribution added to its record (R311). -/
def addStats (m : Mod) (s : Stats) : Mod :=
  let sse := Fp.roundTo Fp.f64 .toInf (Fp.add (Fp.decode Fp.f64 (recN m s.ptr 8)) (Fp.val s.sse))
  writeBytes m s.ptr (toBytes sse 8 ++ toBytes ((recN m (s.ptr + 8) 8 + s.elems) % 2 ^ 64) 8 ++
    toBytes (satAdd 32 (recN m (s.ptr + 16) 4) s.sat) 4 ++ toBytes (satAdd 32 (recN m (s.ptr + 20) 4) s.ftz) 4 ++
    toBytes (satAdd 32 (recN m (s.ptr + 24) 4) s.special) 4 ++ toBytes (satAdd 16 (recN m (s.ptr + 28) 2) s.redo) 2)

/-- A write by a unit of the module: a host-window page is allocated by its first write, and a write that finds no
page is refused and counted (R428). -/
def devWrite (m : Mod) (a : Nat) (bs : List Byte) : Mod :=
  if inHostWin a then
    match allocHost m (pageNo a) with
    | some m => unitWrite m a bs
    | none => bump m hauP 0x70
  else unitWrite m a bs

/-- Row sums with those of newer tiles in their place (R307). -/
def putSums (l new : List RowSum) : List RowSum :=
  new.foldl (fun l x => x :: l.filter fun y => !(y.base = x.base && y.cols = x.cols && y.row = x.row && y.col = x.col)) l

/-- A tile's gradient added to its granule's (R313, combined as R276 combines partials). -/
def addGrad (l : List Grad) (x : Grad) : List Grad :=
  let old := ((l.find? fun y => y.entry = x.entry && y.gran = x.gran).map (·.g)).getD 0#32
  { x with g := Fp.sadd old x.g } :: l.filter fun y => !(y.entry = x.entry && y.gran = x.gran)

/-- What a face's work unit adds to its command's row sums and gradients. -/
def commitSums (m : Mod) (f : Face) : Mod :=
  match f.cmd.bind (cmdOf m) with
  | none => m
  | some c => match c.run with
    | none => m
    | some w => setCmd m { c with run := some { w with rsums := putSums w.rsums f.rpend, grads := f.gpend.foldl addGrad w.grads } }

/-- A face's work unit commits: its writes reach the benches, its statistics their records, and its sums its command. -/
def commitFace (m : Mod) (n : Nat) : Mod :=
  match faceOf m n with
  | none => m
  | some f =>
    let m := f.outb.foldl (fun m w => devWrite m w.1 w.2) m
    let m := f.pstats.foldl addStats m
    let m := if f.rpend.isEmpty && f.gpend.isEmpty then m else commitSums m f
    setFace m { f with outb := [], pstats := [], rpend := [], gpend := [] }

/-- A new work unit of a face starts here. -/
def snapFace (m : Mod) (n : Nat) : Mod :=
  match faceOf m n with
  | none => m
  | some f =>
    let f := { f with skews := 0 }
    let m := { setFace m f with snaps := f :: m.snaps.filter fun x => x.id != n }
    match f.cmd.bind (cmdOf m) with
    | some c => setCmd m { c with units := c.units.filter (· != .page (facP n)) }
    | none => m

/-! Exceptions (R397 to R400). -/

/-- The exit code of a cause (Table IS-8). -/
def exitOf (cause : Nat) : Nat := if cause = 0x20 then 0xF2 else if 0x10 ≤ cause then 0xF1 else 0xF0

/-- A face stops with an exit code and a cause: what it did before keeps its effects. -/
def faceStop (m : Mod) (n exit cause : Nat) : Mod :=
  match faceOf m n with
  | none => m
  | some f =>
    let m := commitFace m n
    let xs := f.xfers
    let m := xs.foldl (fun m x => match faceOf m n with
      | some g => setFace m (faceWrite g x.2.1 (faceRead m g x.1 x.2.2))
      | none => m) m
    let m := commitFace m n
    let m := setFace m { (faceOf m n).getD f with
      st := if exit = 0xF0 || exit = 0xF1 then 4 else 0, cmd := none, wait := none, xfers := [], last := f.prog, doomed := false }
    let m := { m with snaps := m.snaps.filter fun x => x.id != n }
    let m := if exit ≤ 0xEF then m
      else setRegN (setRegN m (facP n) 0x68 (exit * 2 ^ 24 + cause)) (facP n) 0x6C (if cause = 0 then 0 else f.pc % 2 ^ 23)
    runExit m f.cmd (.face n) exit

/-- The faces that still run a command. -/
def facesOfCmd (m : Mod) (cid : Option Nat) : List Nat :=
  if cid.isNone then [] else (m.faces.filter fun f => f.cmd = cid).map (·.id)

/-- A drill stops: its exit, its fault flag and its state are set, and its run's end is still to come. -/
def drillStop (m : Mod) (s n exit st : Nat) (fault : Bool) : Mod :=
  match drillOf m s n with
  | none => m
  | some d => setDrill m { d with exit := exit, st := st, fault := fault, ended := true }

/-- The fault words of a drill's command register area (Table DR-2). -/
def drillFaultWords (d : Drill) (a : Nat) : Drill :=
  setArea (setArea d 0x60 (a % 2 ^ 32)) 0x64 (a / 2 ^ 32 % 2 ^ 14 + bits d.pc 6 8 * 2 ^ 16)

/-- TAKING AN EXCEPTION (R397, R398): the core stops with its exit code, and the cause and address are saved. -/
def coreExc (m : Mod) (c : Core) (cause : Nat) (a : Nat := 0) : Mod :=
  match c with
  | .face n =>
    match faceOf m n with
    | none => m
    | some f =>
      let others := (facesOfCmd m f.cmd).filter (· != n)
      let m := others.foldl (fun m k => faceStop m k 0xF4 0) m
      faceStop (logErr m (facP n) 0x0E (cause + f.pc * 2 ^ 8)) n (exitOf cause) cause
  | .drill s n =>
    match drillOf m s n with
    | none => m
    | some d =>
      let d := setArea (drillFaultWords d a) 0xFC (cause % 256)
      let m := logErr (bump (setDrill m d) (drlP s) 0xC8) (drlP s) 0x0D (n + exitOf cause * 2 ^ 9 + cause * 2 ^ 17)
      drillStop m s n (exitOf cause) 4 true

/-- THE END OF A DRILL RUN (R354, steps 4 to 6): held writes are applied in order, and ready sets. How many reads the run held to a
boundary is a free value (R357). -/
def drillEnd (m : Mod) (s n : Nat) : Mod :=
  match drillOf m s n with
  | none => m
  | some d =>
    if d.ready || !d.ended then m
    else
      let cyc := Config.cycles m.draws % 2 ^ 32
      let d' := setArea { d with ready := true, ended := false, held := [], cmd := none, st := if d.exit ≤ 0xEF then 0 else d.st } 0x68 cyc
      let m := setDrill { m with draws := m.draws + 1 } d'
      let m := drainStalled (d.held.foldl (fun m w => applyMask m w.1 w.2) m)
      let m := bump m (drlP s) 0xB8 (Config.holdoffs m.draws)
      let p := drlP s
      let r := 0x70 + 4 * (n / 32)
      let m := raiseBits m p r (BitVec.ofNat 32 (2 ^ (n % 32)))
      let m := if bitAt d.cfg 0 || (d.fault && bitAt d.cfg 1) then blockEvt m p else m
      runExit (sweepFreed m) d.cmd (.drill s n) d.exit

/-- An ECC stop (R362, R363): exit 0xF8, the address saved, a record logged as Table RP-12 shows it, the granule
reported. -/
def drillEccStop (m : Mod) (s n a : Nat) : Mod :=
  match drillOf m s n with
  | none => m
  | some d =>
    let m := bump (setDrill m (drillFaultWords d a)) (drlP s) 0xC0
    let m := logErr m (drlP s) 0x02 (a / 32)
    drillStop (eccEvent m a .uncorrectable) s n 0xF8 5 true

/-! Issue (R382, R383). -/

/-- The word at a running core's pc; `some none` where the pc lies outside its code. -/
def coreWord (m : Mod) : Core → Option (Option Word)
  | .face n => match faceOf m n with
    | none => none
    | some f =>
      if !m.sys.quarryOn || unitState m (.page (facP n)) = 2 || unitState m (.page (cruP n)) = 2 || f.cmd.isNone || f.doomed || f.wait.isSome || !(f.st = 1 || f.st = 2 || f.st = 3) then none
      else if f.codeLen ≤ f.pc || f.pc % 4 != 0 then some none
      else some (some (BitVec.ofNat 32 (ofBytes ((upto 4).map fun i => cellGet f.store (f.pc + i)))))
  | .drill s n => match drillOf m s n with
    | none => none
    | some d =>
      if unitsStall m || unitState m (.drill s n) = 2 || d.ready || d.ended || d.st != 3 then none
      else if d.pc < 0x1000 || d.pc % 4 != 0 then some none
      else some (d.code[(d.pc - 0x1000) / 4]?)

def coreBad : Core → Word → Bool
  | .face _, w => badFace w
  | .drill _ _, w => badDrill w

/-- One instruction of a core: the word at its pc is executed where it is this one; a pc outside the code and a
reserved word raise their exceptions (causes 0x02 and 0x01). -/
def issue (m : Mod) (c : Core) (w : Word) (body : Mod → Mod) : Mod :=
  match coreWord m c with
  | none => m
  | some none => coreExc m c 0x02
  | some (some w') => if coreBad c w' then coreExc m c 0x01 else if w' = w then body m else m

/-! Scalar registers and the pc of either core. -/

/-- Width of a core's scalar registers. -/
def coreW : Core → Nat
  | .face _ => 64
  | .drill _ _ => 32

def getX (m : Mod) (c : Core) (i : Nat) : Nat :=
  match c with
  | .face n => ((faceOf m n).map fun f => faceX f i).getD 0
  | .drill s n => ((drillOf m s n).map fun d => drillR d i).getD 0

def setX (m : Mod) (c : Core) (i v : Nat) : Mod :=
  match c with
  | .face n => match faceOf m n with
    | some f => setFace m (faceSetX f i (v % 2 ^ 64))
    | none => m
  | .drill s n => match drillOf m s n with
    | some d => setDrill m (drillSetR d i (v % 2 ^ 32))
    | none => m

def getPc (m : Mod) (c : Core) : Nat :=
  match c with
  | .face n => ((faceOf m n).map (·.pc)).getD 0
  | .drill s n => ((drillOf m s n).map (·.pc)).getD 0

/-- The pc of a core; a face's holds 23 bits. -/
def setPc (m : Mod) (c : Core) (v : Int) : Mod :=
  match c with
  | .face n => match faceOf m n with
    | some f => setFace m { f with pc := (v % (2 ^ 23 : Nat)).toNat }
    | none => m
  | .drill s n => match drillOf m s n with
    | some d => setDrill m { d with pc := (v % (2 ^ 32 : Nat)).toNat }
    | none => m

/-- Past an instruction. -/
def next4 (m : Mod) (c : Core) : Mod := setPc m c ((getPc m c : Int) + 4)

/-- An integer wrapped to a core's width. -/
def wrapI (w : Nat) (v : Int) : Nat := (v % (2 ^ w : Nat)).toNat

/-- A scalar result written, and the pc advanced. -/
def writeX (m : Mod) (c : Core) (rd v : Nat) : Mod := next4 (setX m c rd v) c

end Sys2Proof.Machine
end

