-- ==== Sys2Proof/Machine/Scalar.lean ====
section
/-! DEFINITION. The scalar instructions of both cores (Table IS-3, Table IS-9): arithmetic, loads and stores,
branches and jumps, CSRs and SETB. -/

namespace Sys2Proof.Machine

/-- ALU functs, wrapping at the core's width (Table IS-3). -/
def aluOp (w f a b : Nat) : Nat :=
  let sh := b % 64
  match f with
  | 0x000 => (a + b) % 2 ^ w
  | 0x001 => wrapI w ((a : Int) - b)
  | 0x002 => a &&& b
  | 0x003 => a ||| b
  | 0x004 => a ^^^ b
  | 0x005 => a * 2 ^ sh % 2 ^ w
  | 0x006 => a / 2 ^ sh
  | 0x007 => wrapI w (sext a w / (2 ^ sh : Nat))
  | 0x008 => bN (sext a w < sext b w)
  | 0x009 => bN (a < b)
  | 0x00A => a * b % 2 ^ w
  | _ => a * b / 2 ^ w

/-- A scalar result from the source registers. -/
def scalarOp (m : Mod) (c : Core) (w : Word) (rd : BitVec 5) (v : Mod → Nat) : Mod :=
  issue m c w fun m => writeX m c rd.toNat (v m)

def aluRun (m : Mod) (c : Core) (rd rs1 rs2 : BitVec 5) (f : BitVec 11) : Mod :=
  scalarOp m c (encR 0x00 rd rs1 rs2 f) rd fun m => aluOp (coreW c) f.toNat (getX m c rs1.toNat) (getX m c rs2.toNat)

def addiRun (m : Mod) (c : Core) (rd rs1 : BitVec 5) (imm : BitVec 16) : Mod :=
  scalarOp m c (encI 0x01 rd rs1 imm) rd fun m => wrapI (coreW c) ((getX m c rs1.toNat : Int) + simm imm)

def andiRun (m : Mod) (c : Core) (rd rs1 : BitVec 5) (imm : BitVec 16) : Mod :=
  scalarOp m c (encI 0x02 rd rs1 imm) rd fun m => getX m c rs1.toNat &&& wrapI (coreW c) (simm imm)

def oriRun (m : Mod) (c : Core) (rd rs1 : BitVec 5) (imm : BitVec 16) : Mod :=
  scalarOp m c (encI 0x03 rd rs1 imm) rd fun m => getX m c rs1.toNat ||| wrapI (coreW c) (simm imm)

def xoriRun (m : Mod) (c : Core) (rd rs1 : BitVec 5) (imm : BitVec 16) : Mod :=
  scalarOp m c (encI 0x04 rd rs1 imm) rd fun m => getX m c rs1.toNat ^^^ wrapI (coreW c) (simm imm)

/-- LUI: a reserved rs1 is caught at issue. -/
def luiRun (m : Mod) (c : Core) (rd rs1 : BitVec 5) (imm : BitVec 16) : Mod :=
  scalarOp m c (encI 0x05 rd rs1 imm) rd fun _ => wrapI (coreW c) (simm imm * 65536)

/-- SHI: SLLI, SRLI or SRAI by imm[5:0]. -/
def shiRun (m : Mod) (c : Core) (rd rs1 : BitVec 5) (imm : BitVec 16) : Mod :=
  scalarOp m c (encI 0x06 rd rs1 imm) rd fun m =>
    aluOp (coreW c) (5 + bits imm.toNat 6 2) (getX m c rs1.toNat) (bits imm.toNat 0 6)

/-! Loads and stores. -/

/-- The address of a scalar access. -/
def scalarAddr (m : Mod) (c : Core) (rs1 : BitVec 5) (imm : BitVec 16) : Nat :=
  wrapI (coreW c) ((getX m c rs1.toNat : Int) + simm imm)

/-- Whether a load must wait for the drain that writes its tile (R390). -/
def drainWaits (f : Face) (a n : Nat) : Bool := f.acc.any fun s => s.drain && a < s.hi && s.lo < a + n

/-- A scalar load of `n` bytes, `signed` or not, from face-local store or scratch. -/
def loadRun (m : Mod) (c : Core) (w : Word) (rd rs1 : BitVec 5) (imm : BitVec 16) (n : Nat) (signed : Bool) : Mod :=
  issue m c w fun m =>
    let a := scalarAddr m c rs1 imm
    let ext (v : Nat) : Nat := if signed then wrapI (coreW c) (sext v (8 * n)) else v
    match c with
    | .face k => match faceOf m k with
      | none => m
      | some f => match localAccess a n with
        | some x => coreExc m c x
        | none => if drainWaits f a n then m else writeX m c rd.toNat (ext (ofBytes (faceRead m f a n)))
    | .drill s k => match drillOf m s k with
      | none => m
      | some d => match scratchAccess a n n false with
        | some x => coreExc m c x a
        | none => writeX m c rd.toNat (ext (ofBytes (scratchRead d a n)))

/-- A scalar store of `n` bytes of rd. -/
def storeRun (m : Mod) (c : Core) (w : Word) (rd rs1 : BitVec 5) (imm : BitVec 16) (n : Nat) : Mod :=
  issue m c w fun m =>
    let a := scalarAddr m c rs1 imm
    let bs := toBytes (getX m c rd.toNat) n
    match c with
    | .face k => match faceOf m k with
      | none => m
      | some f => match localAccess a n with
        | some x => coreExc m c x
        | none => next4 (setFace m (faceWrite f a bs)) c
    | .drill s k => match drillOf m s k with
      | none => m
      | some d => match scratchAccess a n n true with
        | some x => coreExc m c x a
        | none => next4 (setDrill m (scratchWrite d a bs)) c

/-! Branches and jumps (R383). -/

/-- A branch of a compare on the two source registers. -/
def branchRun (m : Mod) (c : Core) (op : Nat) (rs1 rs2 : BitVec 5) (off : BitVec 16) (take : Nat → Nat → Nat → Bool) : Mod :=
  issue m c (encI op rs1 rs2 off) fun m =>
    if take (coreW c) (getX m c rs1.toNat) (getX m c rs2.toNat) then setPc m c ((getPc m c : Int) + 4 * simm off)
    else next4 m c

def takeEq (_ a b : Nat) : Bool := a = b
def takeNe (_ a b : Nat) : Bool := a != b
def takeLt (w a b : Nat) : Bool := sext a w < sext b w
def takeGe (w a b : Nat) : Bool := !(takeLt w a b)
def takeLtu (_ a b : Nat) : Bool := a < b
def takeGeu (_ a b : Nat) : Bool := b ≤ a

/-- JAL: x31 := pc + 4, and a jump. -/
def jalRun (m : Mod) (c : Core) (off : BitVec 26) : Mod :=
  issue m c (encJ 0x18 off) fun m =>
    let p := getPc m c
    setPc (setX m c 31 (p + 4)) c ((p : Int) + 4 * sext off.toNat 26)

/-- JALR: the target is read before rd is written. -/
def jalrRun (m : Mod) (c : Core) (rd rs1 : BitVec 5) (imm : BitVec 16) : Mod :=
  issue m c (encI 0x19 rd rs1 imm) fun m =>
    let t := scalarAddr m c rs1 imm
    setPc (setX m c rd.toNat (getPc m c + 4)) c ((t - t % 4 : Nat) : Int)

/-! CSRs (R385, R396). -/

def faceCsr (m : Mod) (f : Face) (n : Nat) : Nat :=
  let stop := ((f.cmd.bind (cmdOf m)).bind (·.stop)).getD 0
  match n with
  | 0 => now m % 2 ^ 32
  | 1 => now m / 2 ^ 32 % 2 ^ 32
  | 2 => stop % 2 ^ 32
  | 3 => stop / 2 ^ 32 % 2 ^ 32
  | 4 => f.id / 32 * 256 + f.id % 32
  | 5 => Config.cycles m.draws
  | _ => regN m (facP f.id) 0x48

def drillCsr (m : Mod) (d : Drill) (n : Nat) : Nat :=
  let stop := ((d.cmd.bind (cmdOf m)).bind (·.stop)).getD 0
  match n with
  | 0 => now m % 2 ^ 32
  | 1 => now m / 2 ^ 32 % 2 ^ 32
  | 2 => stop % 2 ^ 32
  | 3 => stop / 2 ^ 32 % 2 ^ 32
  | 4 => d.n
  | 5 => d.seq % 65536
  | _ => Config.cycles m.draws

/-- CSRR; a reserved CSR number is caught at issue where the word can hold it, and raises 0x01 otherwise. -/
def csrrRun (m : Mod) (c : Core) (rd rs1 : BitVec 5) (n : BitVec 8) : Mod :=
  issue m c (encI 0x1C rd rs1 (BitVec.ofNat 16 (0x100 + n.toNat))) fun m =>
    let m1 := { m with draws := m.draws + 1 }
    match c with
    | .face k => match faceOf m k with
      | some f => writeX m1 c rd.toNat (faceCsr m f n.toNat)
      | none => m
    | .drill s k => match drillOf m s k with
      | some d => writeX m1 c rd.toNat (drillCsr m d n.toNat)
      | none => m

/-- SETB: bk := r(rs1) + 2^32 × r(rd)[13:0]. -/
def setbRun (m : Mod) (s n : Nat) (rd rs1 : BitVec 5) (k : BitVec 4) : Mod :=
  if 8 ≤ k.toNat then m
  else issue m (.drill s n) (encI 0x1C rd rs1 (BitVec.ofNat 16 (0x10 + k.toNat))) fun m =>
    match drillOf m s n with
    | none => m
    | some d => next4 (setDrill m (drillSetB d k.toNat (drillR d rs1.toNat + drillR d rd.toNat % 2 ^ 14 * 2 ^ 32))) (.drill s n)

/-! EXIT, STEP and BARRIER (R386, R312). -/

/-- EXIT: a partner that waits at a STEP or BARRIER takes the synchronisation exception. -/
def exitRun (m : Mod) (c : Core) (rd rs1 : BitVec 5) : Mod :=
  issue m c (encI 0x1C rd rs1 0x0000#16) fun m =>
    let code := min (getX m c rs1.toNat % 256) 0xEF
    match c with
    | .drill s n => drillStop m s n code 4 false
    | .face n => match faceOf m n with
      | none => m
      | some f =>
        let waiting := (m.faces.filter fun x => x.cmd = f.cmd && x.id != n && x.wait.isSome).map (·.id)
        let m := faceStop m n code 0
        let m := waiting.foldl (fun m k => match faceOf m k with
          | some g => faceStop (logErr m (facP k) 0x0E (0x08 + g.pc * 2 ^ 8)) k 0xF0 0x08
          | none => m) m
        if waiting.isEmpty then m
        else (facesOfCmd m f.cmd).foldl (fun m k => faceStop m k 0xF4 0) m

/-- One entry's scale moved by a power of two (R312). -/
def adaptScale (e : ScaleEntry) (p : Int) : ScaleEntry :=
  if isInt e.fmt then
    let w := Fp.toW (match Fp.val e.scale with
      | .fin n k x => .fin n k (x + p)
      | v => v)
    let ok := Fp.isFinite w && !Fp.isZero w && (!e.block || (Fp.roundTo Fp.f16 .toInf (Fp.val w) % 2 ^ 15 != 0 &&
      Fp.roundTo Fp.f16 .toInf (Fp.val w) % 2 ^ 15 < 0x7C00))
    if ok then { e with scale := w } else e
  else if e.block then
    let x := clampI ((e.expMin : Int) - 127) ((e.expMax : Int) - 127) ((e.scale.toNat % 256 : Nat) - 127 + p)
    { e with scale := BitVec.ofNat 32 (x + 127).toNat }
  else
    let w := Fp.toW (match Fp.val e.scale with
      | .fin n k x => .fin n k (x + p)
      | v => v)
    if Fp.isFinite w && !Fp.isZero w then { e with scale := w } else e

/-- The adaptation of one entry from its statistics record, which it clears (R312). -/
def adaptEntry (m : Mod) (e : ScaleEntry) : Mod × ScaleEntry :=
  if !e.adaptEn || e.statsPtr = 0 then (m, e)
  else
    let elems := recN m (e.statsPtr + 8) 8
    let sat := recN m (e.statsPtr + 16) 4
    let sse := Fp.decode Fp.f64 (recN m e.statsPtr 8)
    if elems = 0 then (m, e)
    else
      let limit := Fp.mul (Fp.val e.mseThr) (.fin false elems 0)
      let above := match Fp.add sse (Fp.neg limit) with
        | .fin false k _ => k != 0
        | .inf false => true
        | _ => false
      let e' := if e.satThr * elems < sat * 65536 then adaptScale e e.adaptP
        else if Fp.flt 0#32 e.mseThr && above && sat = 0 then adaptScale e (-(e.adaptP : Int))
        else adaptScale e 0
      (writeBytes m e.statsPtr (toBytes 0 32), e')

/-- The working copy of a command's scale set adapted, and its bytes in bench 0 renewed. -/
def adaptAll (m : Mod) (cid : Nat) : Mod :=
  match cmdOf m cid with
  | none => m
  | some c => match c.run with
    | none => m
    | some w =>
      let (m, es) := w.scales.foldl (fun (a : Mod × List ScaleEntry) e =>
        let (m, e) := adaptEntry a.1 e
        (m, a.2 ++ [e])) (m, [])
      let m := if w.scaleAt = 0 then m else writeBytes m w.scaleAt (es.flatMap entryBytes)
      setCmd m { c with run := some { w with scales := es } }

/-- Whether a face of the command has already ended. -/
def partnerGone (m : Mod) (cid : Option Nat) : Bool := ((cid.bind (cmdOf m)).bind (·.run)).any fun w => !w.exits.isEmpty

/-- A STEP or BARRIER of a face: when every face of the command waits at the same one, work units commit, a STEP's
adaptation runs, and all continue. A face whose partner has ended raises 0x08 (Table IS-8). -/
def syncRun (m : Mod) (n : Nat) (rd rs1 : BitVec 5) (step : Bool) : Mod :=
  issue m (.face n) (encI 0x1C rd rs1 (if step then 0x0001#16 else 0x0002#16)) fun m =>
    match faceOf m n with
    | none => m
    | some f => if partnerGone m f.cmd then coreExc m (.face n) 0x08 else
      let m := setFace m { f with wait := some (f.pc, step) }
      let mates := facesOfCmd m f.cmd
      let all := mates.all fun k => ((faceOf m k).bind (·.wait)) = some (f.pc, step)
      if !all then m
      else
        let m := mates.foldl commitFace m
        let m := if step then (f.cmd.map (adaptAll m)).getD m else m
        let m := mates.foldl (fun m k => match faceOf m k with
          | some g => setFace m { g with wait := none, pc := (g.pc + 4) % 2 ^ 23 }
          | none => m) m
        mates.foldl snapFace m

end Sys2Proof.Machine
end

