-- ==== Sys2Proof/Machine/Vector.lean ====
section
/-! DEFINITION. The vector instructions of a face (Table IS-4, R387 to R389). -/

namespace Sys2Proof.Machine
open Fp

/-- A vector of lanes rewritten where the mask is set. -/
def masked {α : Type} : List Bool → List α → List α → List α
  | k :: ks, n :: ns, o :: os => (if k then n else o) :: masked ks ns os
  | _, _, os => os

/-- One lane of the arithmetic group. -/
def arithLane (f : Nat) (d a b : Word) : Word :=
  match f with
  | 0x00 => fadd a b
  | 0x01 => fsub a b
  | 0x02 => fmul a b
  | 0x03 => fma a b d
  | 0x04 => fmax a b
  | 0x05 => fmin a b
  | 0x06 => fdiv a b
  | 0x10 => a + b
  | 0x11 => a - b
  | 0x12 => a &&& b
  | _ => a >>> (b.toNat % 32)

/-- One lane of the function group. -/
def functLane (f : Nat) (a : Word) : Word :=
  match f with
  | 0x00 => fexp a
  | 0x01 => ftanh a
  | 0x02 => flog2 a
  | 0x03 => frcp a
  | 0x04 => frsqrt a
  | 0x05 => fsqrt a
  | 0x06 => if isNan a then qnan else fabs a
  | _ => if isNan a then qnan else fneg a

def cmpLane (f : Nat) (a b : Word) : Bool :=
  match f with
  | 0x00 => feq a b
  | 0x01 => flt a b
  | _ => fle a b

/-- A reduction of the active lanes in ascending order (R388). -/
def reduceLanes (f : Nat) (l : List Word) : Word :=
  match l with
  | [] => 0#32
  | x :: xs => match f with
    | 0x00 => xs.foldl fadd x
    | 0x01 => xs.foldl fmax x
    | 0x02 => xs.foldl fmin x
    | _ => amaxOf l

def active {α : Type} (k : List Bool) (l : List α) : List α := ((k.zip l).filter (·.1)).map (·.2)

/-- A code expanded exactly, a NaN with its payload where the format has one (R389). -/
def expandCode (f c : Nat) : Word :=
  match f with
  | 0 => BitVec.ofNat 32 c
  | 1 => BitVec.ofNat 32 (c * 65536)
  | 2 => if 0x7C00 < c % 2 ^ 15 then BitVec.ofNat 32 (c / 2 ^ 15 % 2 * 2 ^ 31 + 0x7F800000 + c % 2 ^ 10 * 2 ^ 13) else toW (decode f16 c)
  | _ => toW (rawVal f c)

def laneBytes (v : List Word) : List Byte := v.flatMap fun w => toBytes w.toNat 4
def bytesLanes (n : Nat) (bs : List Byte) : List Word := (upto n).map fun i => BitVec.ofNat 32 (ofBytes ((bs.drop (4 * i)).take 4))

/-- The frame of a vector instruction: issue, its work on the face, and the pc advanced. -/
def vecRun (m : Mod) (n : Nat) (w : Word) (body : Face → Face) : Mod :=
  issue m (.face n) w fun m => match faceOf m n with
    | none => m
    | some f => next4 (setFace m (body f)) (.face n)

def vecArith (m : Mod) (n : Nat) (vd vs1 vs2 : BitVec 5) (k : BitVec 3) (f : BitVec 8) : Mod :=
  vecRun m n (encV 0x20 vd vs1 vs2 k f) fun x =>
    let r := ((faceV x vd.toNat).zip ((faceV x vs1.toNat).zip (faceV x vs2.toNat))).map fun t => arithLane f.toNat t.1 t.2.1 t.2.2
    faceSetV x vd.toNat (masked (faceM x k.toNat) r (faceV x vd.toNat))

def vecFunct (m : Mod) (n : Nat) (vd vs1 vs2 : BitVec 5) (k : BitVec 3) (f : BitVec 8) : Mod :=
  vecRun m n (encV 0x21 vd vs1 vs2 k f) fun x =>
    faceSetV x vd.toNat (masked (faceM x k.toNat) ((faceV x vs1.toNat).map (functLane f.toNat)) (faceV x vd.toNat))

def vecCompare (m : Mod) (n : Nat) (vd vs1 vs2 : BitVec 5) (k : BitVec 3) (f : BitVec 8) : Mod :=
  vecRun m n (encV 0x22 vd vs1 vs2 k f) fun x =>
    let r := ((faceV x vs1.toNat).zip (faceV x vs2.toNat)).map fun t => cmpLane f.toNat t.1 t.2
    faceSetM x (vd.toNat % 8) (masked (faceM x k.toNat) r (faceM x (vd.toNat % 8)))

def vecReduce (m : Mod) (n : Nat) (vd vs1 vs2 : BitVec 5) (k : BitVec 3) (f : BitVec 8) : Mod :=
  vecRun m n (encV 0x23 vd vs1 vs2 k f) fun x =>
    faceSetX x vd.toNat (reduceLanes f.toNat (active (faceM x k.toNat) (faceV x vs1.toNat))).toNat

/-- Packed codes in the low bytes of a register; an inactive element keeps the code that stood there. -/
def packLanes (f : Nat) (k : List Bool) (src old : List Word) : List Word :=
  let ob := laneBytes old
  let cs := (upto 256).map fun i =>
    if k.getD i false then (convert f (src.getD i 0#32) .one).1 else unpackCode f ob i
  bytesLanes 256 (packCodes f cs ++ List.replicate 1024 0#8)

def vecConvert (m : Mod) (n : Nat) (vd vs1 vs2 : BitVec 5) (k : BitVec 3) (f : BitVec 8) : Mod :=
  issue m (.face n) (encV 0x24 vd vs1 vs2 k f) fun m =>
    let ty := f.toNat % 16
    if 9 < ty then coreExc m (.face n) 0x03
    else match faceOf m n with
    | none => m
    | some x =>
      let src := faceV x vs1.toNat
      let old := faceV x vd.toNat
      let r := if bitAt f.toNat 4 then packLanes ty (faceM x k.toNat) src old
        else
          let bs := laneBytes src
          masked (faceM x k.toNat) ((upto 256).map fun i => expandCode ty (unpackCode ty bs i)) old
      next4 (setFace m (faceSetV x vd.toNat r)) (.face n)

def vecMove (m : Mod) (n : Nat) (vd vs1 vs2 : BitVec 5) (k : BitVec 3) (f : BitVec 8) : Mod :=
  vecRun m n (encV 0x25 vd vs1 vs2 k f) fun x =>
    let on := faceM x k.toNat
    match f.toNat with
    | 0x00 => faceSetV x vd.toNat (masked on (List.replicate 256 (BitVec.ofNat 32 (faceX x vs1.toNat))) (faceV x vd.toNat))
    | 0x01 =>
      let sel := faceM x (vs2.toNat % 8)
      let r := (sel.zip ((faceV x vd.toNat).zip (faceV x vs1.toNat))).map fun t => if t.1 then t.2.1 else t.2.2
      faceSetV x vd.toNat (masked on r (faceV x vd.toNat))
    | _ =>
      let i := faceX x vs2.toNat
      let v := faceV x vs1.toNat
      faceSetX x vd.toNat (if i < 256 then v.getD i 0#32 else Config.laneOut v i).toNat

/-- The exception of a 1 KiB access to local store. -/
def vecAccess (a : Nat) : Option Nat :=
  if !isLocal a || bits a 23 40 != 0 || storeSize < a % 2 ^ 23 + 1024 || a % 32 != 0 then some 0x10 else none

def vldAddr (f : Face) (rs1 : BitVec 5) (imm : BitVec 16) : Nat := wrapI 64 ((faceX f rs1.toNat : Int) + 1024 * simm imm)

def vldRun (m : Mod) (n : Nat) (vd rs1 : BitVec 5) (imm : BitVec 16) : Mod :=
  issue m (.face n) (encI 0x28 vd rs1 imm) fun m => match faceOf m n with
    | none => m
    | some f =>
      let a := vldAddr f rs1 imm
      match vecAccess a with
      | some x => coreExc m (.face n) x
      | none => if drainWaits f a 1024 then m
        else next4 (setFace m (faceSetV f vd.toNat (bytesLanes 256 (faceRead m f a 1024)))) (.face n)

def vstRun (m : Mod) (n : Nat) (vd rs1 : BitVec 5) (imm : BitVec 16) : Mod :=
  issue m (.face n) (encI 0x29 vd rs1 imm) fun m => match faceOf m n with
    | none => m
    | some f =>
      let a := vldAddr f rs1 imm
      match vecAccess a with
      | some x => coreExc m (.face n) x
      | none => next4 (setFace m (faceWrite f a (laneBytes (faceV f vd.toNat)))) (.face n)

end Sys2Proof.Machine
end

