-- ==== Sys2Proof/Machine/Tensor.lean ====
section
/-! DEFINITION. The tensor and transfer instructions of a face (Table IS-5): expansion and accumulation (R267 to
R275), K-split combination (R276 to R279), the epilogue (R280 to R283), the crusher's output, its guard and its
sequence tags (R296 to R320). -/

namespace Sys2Proof.Machine
open Fp

/-! Stops of a whole command. -/

/-- Every unit of a command stops with an exit code, and the command completes (R85, R86, R129, R421). -/
def cmdStop (m : Mod) (cid : Nat) (exit status info : Nat) : Mod :=
  match cmdOf m cid with
  | none => m
  | some c =>
    let m := setCmd m { c with run := none }
    let m := (facesOfCmd m (some cid)).foldl (fun m k => faceStop m k exit 0) m
    let ds := (m.drills.filter fun d => d.cmd = some cid && !d.ready).map fun d => (d.stack, d.n)
    let m := ds.foldl (fun m d => drillEnd (drillStop m d.1 d.2 exit 4 false) d.1 d.2) m
    let at' := (c.run.map (·.scaleAt)).getD 0
    let m := if at' = 0 then m else dropPage m (pageNo at')
    match cmdOf m cid with
    | some c => finishBad m c status info
    | none => m

/-- Whether a face's read of device memory meets a granule known to be uncorrectable (R421). -/
def readHurt (m : Mod) (a n : Nat) : Bool := !isLocal a && m.mem.ue.any fun g => a < g + 32 && g < a + n

/-- A face's read of device memory that must wait for the host's write lease: the Recalls are sent. -/
def leaseWaits (m : Mod) (a n : Nat) : Bool := !isLocal a && leaseHeld m a n

/-! Tag mismatches (R317 to R321). -/

/-- A face's work unit begins again from its record (R320, Table TL-5). -/
def replayFace (m : Mod) (n : Nat) : Mod :=
  match faceOf m n, m.snaps.find? fun x => x.id = n with
  | some f, some g => setFace m { g with skews := f.skews }
  | _, _ => m

/-- A tag mismatch of face `n`'s data counted and logged (R320). -/
def skewSeen (m : Mod) (n : Nat) (second : Bool) (want got group : Nat) : Mod :=
  let p := cruP n
  let on := bitAt (regN m p 0x40) 3
  let m := bump m p 0x60
  let m := logErrC m p (if second then 2 else 1) 0x08 (want + got * 2 ^ 8 + group * 2 ^ 16) on
  if on then blockEvt m p else m

/-- A tag mismatch in a face's work unit (R320): a first one replays the unit; after a second one the face stands still with
nothing of the unit left, and its command ends with SCALE_SKEW as the tick ends, where no fault of the tick takes precedence
(R321). -/
def skewAt (m : Mod) (n want got group : Nat) : Mod :=
  match faceOf m n with
  | none => m
  | some f =>
    let m := skewSeen m n (f.skews != 0) want got group
    if f.skews = 0 then replayFace (setFace m { f with skews := 1 }) n
    else setFace m { f with outb := [], pstats := [], rpend := [], gpend := [], xfers := [], doomed := true }

/-- The commands of faces that met a second mismatch in the tick that ends complete with SCALE_SKEW (R320). -/
def endSkews (m : Mod) : Mod :=
  (m.faces.filter (·.doomed)).foldl (fun m f => (f.cmd.map fun c => cmdStop (bump m (cruP f.id) 0x64) c 0xF4 0x31 0).getD m) m

/-- VECTOR_CONVERT with the tag check of what it expands (R318, R389). -/
def vecConvertChecked (m : Mod) (n : Nat) (vd vs1 vs2 : BitVec 5) (k : BitVec 3) (f : BitVec 8) (skew : Option TagSkew) : Mod :=
  match skew with
  | none => vecConvert m n vd vs1 vs2 k f
  | some x =>
    if isScaled (f.toNat % 16) && !bitAt f.toNat 4 then
      issue m (.face n) (encV 0x24 vd vs1 vs2 k f) fun m => skewAt m n x.want x.got x.group
    else vecConvert m n vd vs1 vs2 k f

/-! Descriptors. -/

def u (bs : List Byte) (o n : Nat) : Nat := ofBytes ((bs.drop o).take n)

/-- A tensor descriptor from its 32 bytes (Table IS-6). -/
def readDesc (addr : Nat) (bs : List Byte) : TDesc :=
  ⟨addr, u bs 0 8, u bs 8 2, u bs 10 2, u bs 12 4, u bs 16 1 % 16, bitAt (u bs 16 1) 4, u bs 17 1, u bs 18 2, u bs 24 8, 0, 0, []⟩

def descBad (bs : List Byte) : Option Nat :=
  if 9 < u bs 16 1 % 16 then some 0x03
  else if u bs 12 4 % 32 != 0 || u bs 8 2 = 0 || u bs 10 2 = 0 || 32 ≤ u bs 16 1 || u bs 20 4 != 0 then some 0x07
  else none

/-- The scale set a face's command works on (R309, R312). -/
def scalesOf (m : Mod) (f : Face) : List ScaleEntry := (((f.cmd.bind (cmdOf m)).bind (·.run)).map (·.scales)).getD []

/-- Whether an address lies in a page of a bench. -/
def inBench (m : Mod) (b a : Nat) : Bool := (pageEnt m (pageNo a)).any fun e => e.bench = b

/-- The entry a scaled tensor names, checked at its use (R308): its ranges, its statistics record's place in bench 0, and its
format, which must be the descriptor's (DESIGN CHOICE: the spec gives no meaning to two). -/
def tdEntry (m : Mod) (f : Face) (t : TDesc) : Except Nat (Option ScaleEntry) :=
  if !isScaled t.fmt then .ok none
  else match (scalesOf m f)[t.entry]? with
    | none => .error 0x04
    | some e =>
      if entryBad e || (e.statsPtr != 0 && !inBench m 0 e.statsPtr) || e.fmt != t.fmt then .error 0x04 else .ok (some e)

def groupsPerRow (t : TDesc) : Nat := ceilDiv t.cols 256

/-- Stored row and column of a logical element. -/
def stored (t : TDesc) (r c : Nat) : Nat × Nat := if t.transp then (c, r) else (r, c)
def inTensor (t : TDesc) (s : Nat × Nat) : Bool := s.1 < t.rows && s.2 < t.cols

/-- An operand element, +0 past the tensor's edge (Table IS-6, R268). -/
def elemAt (m : Mod) (f : Face) (t : TDesc) (r c : Nat) : FVal :=
  let s := stored t r c
  if inTensor t s then
    let w := fmtBits t.fmt
    rawVal t.fmt (ofBytes (faceRead m f (t.base + s.1 * t.stride + w * s.2 / 8) (ceilDiv (w * s.2 % 8 + w) 8)) / 2 ^ (w * s.2 % 8) % 2 ^ w)
  else .fin false 0 0

/-- The scale record of a stored element's block group (R300). -/
def recAddr (t : TDesc) (s : Nat × Nat) : Nat := t.scales + 32 * (s.1 * groupsPerRow t + s.2 / 256)

/-- The E8M0 exponent of the block an element lies in, none for 0xFF (R270, R272). -/
def blockExp (m : Mod) (f : Face) (t : TDesc) (e : Option ScaleEntry) (r c : Nat) : Option Int :=
  let s := stored t r c
  if inTensor t s && !isInt t.fmt && e.any (·.block) then
    let x := ofBytes (faceRead m f (recAddr t s + 4 + s.2 % 256 / 32) 1)
    if x = 0xFF then none else some ((x : Int) - 127)
  else some 0

/-- The block groups a range of logical rows and columns touches. -/
def groupsOf (t : TDesc) (r nr c nc : Nat) : List (Nat × Nat) :=
  let (r0, n0, c0, m0) := if t.transp then (c, nc, r, nr) else (r, nr, c, nc)
  let rows := (upto (min n0 (t.rows - r0))).map (r0 + ·)
  let last := min (c0 + m0) t.cols
  if last ≤ c0 then []
  else rows.flatMap fun a => (upto ((last - 1) / 256 + 1 - c0 / 256)).map fun g => (a, c0 / 256 + g)

/-- The first group whose record carries another tag: expected, received, group index (R318). -/
def tagFault (m : Mod) (f : Face) (t : TDesc) (gs : List (Nat × Nat)) : Option (Nat × Nat × Nat) :=
  if !isScaled t.fmt then none
  else gs.findSome? fun g =>
    let i := g.1 * groupsPerRow t + g.2
    let want := (t.t0 + i) % 256
    let got := ofBytes (faceRead m f (t.scales + 32 * i) 1)
    if want = got then none else some (want, got, i)

/-- The access check of a whole tensor and its scale stream. -/
def tensorAccess (m : Mod) (t : TDesc) : Option Nat :=
  (faceAccess m t.base (t.rows * t.stride) 1).orElse fun _ =>
    if isScaled t.fmt then faceAccess m t.scales (32 * t.rows * groupsPerRow t) 1 else none

/-- The ranges of an operand that lie under a host's write lease. -/
def tensorRanges (t : TDesc) : List (Nat × Nat) :=
  (t.base, t.rows * t.stride) :: (if isScaled t.fmt then [(t.scales, 32 * t.rows * groupsPerRow t)] else [])

def tensorHurt (m : Mod) (t : TDesc) : Bool :=
  readHurt m t.base (t.rows * t.stride) || (isScaled t.fmt && readHurt m t.scales (32 * t.rows * groupsPerRow t))

/-- The checks of an operand of TMMA at issue (Table IS-8). -/
def operandBad (m : Mod) (f : Face) (t : TDesc) (k0 : Nat) : Option Nat :=
  match tdEntry m f t with
  | .error x => some x
  | .ok e =>
    if !isInt t.fmt && e.any (·.block) && k0 % 32 != 0 then some 0x05
    else if isInt t.fmt && e.any (·.block) then some 0x06
    else tensorAccess m t

def okEntry (m : Mod) (f : Face) (t : TDesc) : Option ScaleEntry :=
  match tdEntry m f t with
  | .ok e => e
  | .error _ => none

/-! TDESC and TORG. -/

def tdescRun (m : Mod) (n : Nat) (w : BitVec 26) : Mod :=
  issue m (.face n) (encJ 0x30 w) fun m => match faceOf m n with
    | none => m
    | some f =>
      let a := faceX f (tP w)
      match faceAccess m a 32 1 with
      | some x => coreExc m (.face n) x
      | none =>
        if leaseWaits m a 32 then recallRange m a 32
        else if readHurt m a 32 then (f.cmd.map fun c => cmdStop m c 0xF4 0x30 0).getD m
        else
          let bs := faceRead m f a 32
          match descBad bs with
          | some x => coreExc m (.face n) x
          | none => next4 (setFace m (faceSetTd f (tA w) (readDesc a bs))) (.face n)

def torgRun (m : Mod) (n : Nat) (w : BitVec 26) : Mod :=
  issue m (.face n) (encJ 0x31 w) fun m => match faceOf m n with
    | none => m
    | some f => next4 (setFace m (faceSetTd f (tA w) { faceTd f (tA w) with row := faceX f (tP w), col := faceX f (tQ w) })) (.face n)

/-! TMMA (R267 to R275). -/

/-- One run of at most 16 products in the run register (R270, step 2). -/
def runSum (a b : Nat → FVal) (k n : Nat) : FVal :=
  decode run24 ((upto n).foldl (fun r i => roundTo run24 .toInf (add (decode run24 r) (mul (a (k + i)) (b (k + i))))) 0)

/-- The fp32 total after one scaled run (R270, R271): the total and whether it saturated. -/
def addRun (tot : Word) (run : FVal) (e : Option Int) : Word × Bool :=
  match e with
  | none => (qnan, false)
  | some e =>
    let s := match run with
      | .fin n k x => FVal.fin n k (x + e)
      | v => v
    let r := add (val tot) s
    match val tot, s with
    | .fin _ _ _, .fin _ _ _ => (satW r, overflows f32 r)
    | _, _ => (toW r, false)

/-- One element's accumulation over a reduction range (R270). -/
def elemAcc (a b : Nat → FVal) (ea eb : Nat → Option Int) (k0 len : Nat) (tot : Word) : Word × Bool :=
  (upto (ceilDiv len 16)).foldl (fun acc r =>
    let k := k0 + 16 * r
    let n := min 16 (len - 16 * r)
    let e := match ea k, eb k with
      | some x, some y => some (x + y)
      | _, _ => none
    let (t, s) := addRun acc.1 (runSum a b k n) e
    (t, acc.2 || s)) (tot, false)

def accZero : AccSet := ⟨[], 0, false, 0, 0, 0, 0, 0, false, 0, 0, 0⟩
def accOf (f : Face) (i : Nat) : AccSet := f.acc.getD i accZero
def setAcc (f : Face) (i : Nat) (a : AccSet) : Face := { f with acc := f.acc.set i a }

def specialVal : FVal → Bool
  | .nan => true
  | .inf _ => true
  | _ => false

/-- The tile after TMMA, and its flags (R270 to R272). -/
def tileAcc (m : Mod) (f : Face) (ta tb : TDesc) (k0 len : Nat) (s : AccSet) : AccSet :=
  let xa := okEntry m f ta
  let xb := okEntry m f tb
  let a (i k : Nat) : FVal := elemAt m f ta (ta.row + i) (ta.col + k)
  let b (j k : Nat) : FVal := elemAt m f tb (tb.row + k) (tb.col + j)
  let ea (i k : Nat) := blockExp m f ta xa (ta.row + i) (ta.col + k)
  let eb (j k : Nat) := blockExp m f tb xb (tb.row + k) (tb.col + j)
  let es := (upto 4096).map fun p => elemAcc (a (p / 64)) (b (p % 64)) (ea (p / 64)) (eb (p % 64)) k0 len (s.tile.getD p 0#32)
  let special := (upto 64).any fun i => (upto len).any fun d =>
    specialVal (a i (k0 + d)) || specialVal (b i (k0 + d)) || (ea i (k0 + d)).isNone || (eb i (k0 + d)).isNone
  { s with tile := es.map (·.1), flags := s.flags ||| flagWord false special (es.any (·.2)), aBase := ta.base, aCols := ta.cols, aRow := ta.row }

/-- Whether TMMA starts a tile in a set: it starts the set from +0, or no tile has started in it since its last drain. -/
def tileStarts (f : Face) (i : Nat) (zero : Bool) : Bool := zero || !(accOf f i).begun

/-- Whether TMMA waits for a drain (R275, R390); a tile that starts waits for every drain where FAC_CFG.shadow_en is 0. -/
def setBusy (m : Mod) (f : Face) (i : Nat) (start : Bool) : Bool :=
  (accOf f i).drain || (start && !bitAt (regN m (facP f.id) 0x40) 0 && f.acc.any (·.drain))

/-- A set in which a tile starts: FAC_CFG and CRU_CFG take effect (R295, R324). -/
def startTile (m : Mod) (f : Face) (s : AccSet) : AccSet :=
  { s with begun := true, cfg := regN m (facP f.id) 0x40, cru := regN m (cruP f.id) 0x40 }

/-- A set as its drain finds it: a tile that no TMMA started starts with the drain. -/
def drainSet (m : Mod) (f : Face) (i : Nat) : AccSet :=
  let s := accOf f i
  if s.begun then s else startTile m f s

/-- An instruction that waits for the drain of the set it names (R390). -/
def drainWait (m : Mod) (f : Face) : Mod := setFace m { f with st := 3 }

/-- A tile start that waits for a drain, counted once (FAC_DRAIN_STALLS). -/
def drainStall (m : Mod) (f : Face) : Mod :=
  if f.st = 3 then m else bump (drainWait m f) (facP f.id) 0x58

def tmmaRun (m : Mod) (n : Nat) (w : BitVec 26) : Mod :=
  issue m (.face n) (encJ 0x32 w) fun m => match faceOf m n with
    | none => m
    | some f =>
      if setBusy m f (tSet w) (tileStarts f (tSet w) (tZero w)) then drainStall m f
      else
        let ta := faceTd f (tA w)
        let tb := faceTd f (tB w)
        let k0 := faceX f (tP w)
        let len := faceX f (tQ w)
        match (operandBad m f ta k0).orElse fun _ => operandBad m f tb k0 with
        | some x => coreExc m (.face n) x
        | none =>
          if (tensorRanges ta ++ tensorRanges tb).any fun r => leaseWaits m r.1 r.2 then
            (tensorRanges ta ++ tensorRanges tb).foldl (fun m r => if isLocal r.1 then m else recallRange m r.1 r.2) m
          else if tensorHurt m ta || tensorHurt m tb then (f.cmd.map fun c => cmdStop m c 0xF4 0x30 0).getD m
          else
            let ga := groupsOf ta ta.row 64 (ta.col + k0) len
            let gb := groupsOf tb (tb.row + k0) len tb.col 64
            match (tagFault m f ta ga).orElse fun _ => tagFault m f tb gb with
            | some (x, g, i) => skewAt m n x g i
            | none =>
              let s := if tZero w then { accOf f (tSet w) with tile := [], flags := 0 } else accOf f (tSet w)
              let s := if tileStarts f (tSet w) (tZero w) then startTile m f s else s
              next4 (setFace m { setAcc f (tSet w) (tileAcc m f ta tb k0 len s) with st := 1 }) (.face n)

/-! Epilogue (R280 to R283). -/

/-- An epilogue descriptor (Table IS-7). -/
structure Epi where
  en    : Nat
  act   : Nat
  entry : Nat
  k     : Nat
  sb    : Nat
  sa    : Nat
  za    : Nat
  zb    : Nat
  cs    : Nat
  bias  : Nat
  pw    : Nat
  zo    : Word

def readEpi (bs : List Byte) : Epi :=
  ⟨u bs 0 1, u bs 1 1, u bs 2 2, u bs 4 4, u bs 8 8, u bs 16 8, u bs 24 8, u bs 32 8, u bs 40 8, u bs 48 8, u bs 56 8,
   BitVec.ofNat 32 (u bs 64 4)⟩

/-- The arrays an epilogue reads, with whether each is enabled. -/
def epiArrays (x : Epi) : List (Nat × Bool) :=
  [(x.sa, bitAt x.en 0), (x.za, bitAt x.en 1), (x.zb, bitAt x.en 2), (x.bias, bitAt x.en 3)]

def epiBad (m : Mod) (bs : List Byte) : Option Nat :=
  let x := readEpi bs
  if 64 ≤ x.en || 4 < x.act || u bs 68 8 != 0 || u bs 76 4 != 0 || (epiArrays x).any (fun a => !a.2 && a.1 != 0) ||
     (x.act != 4 && x.pw != 0) then some 0x07
  else
    let on := (epiArrays x).filter (·.2) ++ (if x.sb = 0 then [] else [(x.sb, true)]) ++ (if x.cs = 0 then [] else [(x.cs, true)])
    (on.findSome? fun a => faceAccess m a.1 4 1).orElse fun _ => if x.act = 4 then faceAccess m x.pw 2056 1 else none

def faceW (m : Mod) (f : Face) (a : Nat) : Word := BitVec.ofNat 32 (ofBytes (faceRead m f a 4))
def natW (n : Nat) : Word := toW (.fin false n 0)
def intW (i : Int) : Word := toW (.fin (i < 0) i.natAbs 0)

/-- The activation of an epilogue (R283). -/
def actOf (m : Mod) (f : Face) (x : Epi) (v : Word) : Word :=
  match x.act with
  | 0 => v
  | 1 => if isNan v then v else if flt 0#32 v then v else 0#32
  | 2 =>
    let c := fmul 0x3D12220C#32 (fmul (fmul v v) v)
    let t := ftanh (fadd (fmul 0x3F4C4231#32 v) c)
    fmul (fmul 0x3F000000#32 v) (fadd oneW t)
  | 3 => fdiv v (fadd oneW (fexp (fneg v)))
  | _ =>
    let p := fmul (fsub v (faceW m f x.pw)) (faceW m f (x.pw + 4))
    let i := match val p with
      | .fin false k e => min 255 (if 0 ≤ e then k * 2 ^ e.toNat else k / 2 ^ (-e).toNat)
      | .inf false => 255
      | _ => 0
    fma (faceW m f (x.pw + 8 + 8 * i)) v (faceW m f (x.pw + 12 + 8 * i))

/-- Steps 1 to 4 of the epilogue on element (i, j) of the output tensor (Table FA-4). -/
def epiElem (m : Mod) (f : Face) (x : Epi) (rs : Int) (acc : Word) (i j : Nat) : Word :=
  let at' (on : Bool) (a k : Nat) (d : Word) : Word := if on then faceW m f (a + 4 * k) else d
  let za := at' (bitAt x.en 1) x.za i 0#32
  let zb := at' (bitAt x.en 2) x.zb j 0#32
  let cs := at' (x.cs != 0) x.cs j 0#32
  let r := if bitAt x.en 5 then intW rs else 0#32
  let t := if bitAt x.en 1 || bitAt x.en 2 then
      fadd (fsub (fsub acc (fmul za cs)) (fmul zb r)) (fmul (fmul (natW x.k) za) zb)
    else acc
  let y := if bitAt x.en 0 then fmul t (faceW m f (x.sa + 4 * i)) else t
  let y := if x.sb = 0 then y else fmul y (faceW m f (x.sb + 4 * j))
  let y := if bitAt x.en 3 then fadd y (faceW m f (x.bias + 4 * j)) else y
  let y := actOf m f x y
  if bitAt x.en 4 then fadd y x.zo else y

/-! The crusher's output (R296 to R320). -/

/-- An element on its way out: its stored place and its fp32 value. -/
structure OutEl where
  s : Nat × Nat
  y : Word
  deriving DecidableEq

/-- The scale of a block that holds none of the tensor's elements. -/
def padScale (e : ScaleEntry) (redo : Bool) : Scale := if e.block && (e.dyn || redo) then amaxScale e.fmt [] else entryScale e

/-- The scales of a tile's blocks, by stored row and block (R302, R303, R315). -/
def tileScale (e : ScaleEntry) (redo : Bool) (els : List OutEl) (s : Nat × Nat) : Scale :=
  if e.block && (e.dyn || redo) then
    amaxScale e.fmt ((els.filter fun o => o.s.1 = s.1 && o.s.2 / 32 = s.2 / 32).map (·.y))
  else entryScale e

/-- A tile converted: each element's code, mark and scale. -/
def convTile (fmt : Nat) (e : Option ScaleEntry) (redo : Bool) (els : List OutEl) : List (OutEl × Nat × Mark × Scale) :=
  els.map fun o =>
    let s := match e with
      | some e => tileScale e redo els o.s
      | none => Scale.one
    let (c, k) := convert fmt o.y s
    (o, c, k, s)

/-- The bits of codes written into a stored row. -/
def putCode (m : Mod) (t : TDesc) (f : Face) (s : Nat × Nat) (c : Nat) : Face :=
  let w := fmtBits t.fmt
  let a := t.base + s.1 * t.stride + w * s.2 / 8
  let n := ceilDiv (w * s.2 % 8 + w) 8
  let old := ofBytes (faceRead m f a n)
  faceWrite f a (toBytes (setBits old (w * s.2 % 8) w c) n)

/-- Whether the tensor write in progress has already written a part of a group, by a tile other than the one at the
descriptor's origin. -/
def groupBegun (t : TDesc) (g : Nat × Nat) : Bool :=
  t.done.any fun p => p != (t.row, t.col) &&
    let s := stored t p.1 p.2
    s.1 ≤ g.1 && g.1 < s.1 + 64 && s.2 < 256 * g.2 + 256 && 256 * g.2 < s.2 + 64

/-- The stored rows whose last element a tile holds. -/
def lastRows (t : TDesc) (els : List OutEl) : List Nat := (els.filter fun o => o.s.2 + 1 = t.cols).map (·.s.1)

/-- A group's scale record after a tile (R300, Table CR-2): the tag, the format and the scales of the tile's blocks; the tile that
ends a row gives the blocks past it their scales; what other tiles of this tensor write gave stays. -/
def putRecord (m : Mod) (t : TDesc) (e : ScaleEntry) (redo : Bool) (els : List OutEl) (conv : List (OutEl × Nat × Mark × Scale)) (f : Face)
    (g : Nat × Nat) : Face :=
  let i := g.1 * groupsPerRow t + g.2
  let a := t.scales + 32 * i
  let tag := (t.t0 + i) % 256
  let mine := conv.filter fun x => x.1.s.1 = g.1 && x.1.s.2 / 256 = g.2
  let begun := groupBegun t g
  let old := if begun then faceRead m f a 32 else List.replicate 32 0#8
  let flag := redo || (begun && bitAt (u old 1 1) 4)
  let used := ceilDiv (t.cols - 256 * g.2) 32
  let pads := if e.block && g.1 ∈ lastRows t els && g.2 + 1 = groupsPerRow t then
      ((upto 8).filter (used ≤ ·)).flatMap fun b => scaleField true b (padScale e redo)
    else []
  let bs := overlay 0 old ((0, [BitVec.ofNat 8 tag, BitVec.ofNat 8 (t.fmt + bN flag * 16)]) ::
    pads ++ mine.flatMap fun x => scaleField e.block (x.1.s.2 % 256 / 32) x.2.2.2)
  { faceWrite f a bs with ltag := tag }

/-- The code of +0 in a place past a row's last element: a block that holds elements has their zero point. -/
def padCode (t : TDesc) (e : ScaleEntry) (redo : Bool) (els : List OutEl) (s : Nat × Nat) : Nat :=
  if isInt t.fmt then
    intCode t.fmt (zeroPt (if s.2 / 32 = (t.cols - 1) / 32 then tileScale e redo els (s.1, t.cols - 1) else padScale e redo))
  else 0

/-- The places that pad the last group of the rows a tile ends (R299). One past the row's stride that falls on an element of a
later row is that element's (DEDUCED). -/
def padPlaces (t : TDesc) (els : List OutEl) : List (Nat × Nat) :=
  let w := fmtBits t.fmt
  (lastRows t els).flatMap fun r => ((upto (alignUp t.cols 256 - t.cols)).map fun k => (r, t.cols + k)).filter fun s =>
    let k := w * s.2 / 8 / t.stride
    k = 0 || t.rows ≤ s.1 + k || t.cols ≤ (w * s.2 - 8 * t.stride * k) / w

/-- What a tile adds to its statistics record (R310, R311). -/
def tileStats (fmt : Nat) (e : ScaleEntry) (redo : Bool) (conv : List (OutEl × Nat × Mark × Scale)) : Stats :=
  let n (k : Mark) : Nat := (conv.filter fun x => x.2.2.1 = k).length
  let good := conv.filter fun x => x.2.2.1 != .special
  let sse := good.foldl (fun a x => let d := fsub x.1.y (codeVal fmt x.2.1 x.2.2.2); fadd a (fmul d d)) 0#32
  ⟨e.statsPtr, sse, good.length, n .saturated, n .flushed, n .special, bN redo⟩

/-- The row code sums of a tile of an integer tensor, by the logical rows of its operand (R281, R307): a tile written again
replaces its sums, and a tensor's sum of a row is over all its tiles, so that no order matters. -/
def tileSums (t : TDesc) (conv : List (OutEl × Nat × Mark × Scale)) : List RowSum :=
  let row (x : OutEl × Nat × Mark × Scale) : Nat := if t.transp then x.1.s.2 else x.1.s.1
  ((conv.map row).eraseDups).map fun r =>
    ⟨t.base, t.cols, r, t.col, ((conv.filter fun x => row x = r).map fun x => sext x.2.1 (fmtBits t.fmt)).foldl (· + ·) 0⟩

/-- d(v)/d(s) of an element (R313): (q − z) − y/s within range, the clamped q − z for a saturated element, and 0 for a special
one; a float code's q is its value before the scale. -/
def scaleSlope (fmt : Nat) (x : OutEl × Nat × Mark × Scale) : Word :=
  let q : FVal := if isInt fmt then
      let k := sext x.2.1 (fmtBits fmt) - zeroPt x.2.2.2
      .fin (k < 0) k.natAbs 0
    else rawVal fmt x.2.1
  match x.2.2.1 with
  | .special => 0#32
  | .saturated => toW q
  | _ => toW (add q (neg (unscale x.1.y x.2.2.2)))

/-- The gradient of each scale granule of a tile (R313), in element order in fp32. The spec does not say whence the upstream
gradient of an element comes: it is free. -/
def tileGrads (draw : Nat) (t : TDesc) (e : ScaleEntry) (conv : List (OutEl × Nat × Mark × Scale)) : List Grad :=
  let gran (x : OutEl × Nat × Mark × Scale) : Nat := if e.block then x.1.s.1 * (8 * groupsPerRow t) + x.1.s.2 / 32 else 0
  let terms := ((upto conv.length).zip conv).map fun p => (gran p.2, fmul (Config.upstream draw p.1) (scaleSlope t.fmt p.2))
  ((terms.map (·.1)).eraseDups).map fun k =>
    ⟨t.entry, k, (terms.filter fun x => x.1 = k).foldl (fun a x => fadd a x.2) 0#32⟩

/-- The tile's flags and counters once it is drained (R274, Table FA-6). -/
def countTile (m : Mod) (n cfg fl : Nat) : Mod :=
  let p := facP n
  let m := bump m p 0x4C
  let m := raiseBits m p 0x48 (BitVec.ofNat 32 fl)
  let m := bump m p 0x50 (bN (bitAt fl 0))
  let m := bump m p 0x54 (bN (bitAt fl 1))
  if (bitAt fl 0 && bitAt cfg 1) || (bitAt fl 1 && bitAt cfg 2) then blockEvt m p else m

/-- Whether a quantised tile is redone, and whether it counts in CRU_GUARD_OVER (R314 to R316, Table CR-9). -/
def guardOf (cru : Nat) (e : Option ScaleEntry) (els : List OutEl) (fmt : Nat) : Bool × Bool :=
  match e with
  | none => (false, false)
  | some e =>
    let hit := guardHit ((convTile fmt (some e) false els).map fun x => x.2.2.1)
    if !hit || e.dyn then (false, false)
    else if e.block && bitAt cru 1 then (true, false)
    else (false, true)

/-- The first tile of a tensor write takes its base tag from the crusher's counter, which the descriptor records (R317). A
tensor write begins with the first tile after TDESC, and again with a tile that it has already written. -/
def takeTag (f : Face) (i : Nat) : Face :=
  let t := faceTd f i
  if !isScaled t.fmt then f
  else if t.done.isEmpty || decide ((t.row, t.col) ∈ t.done) then
    let f := faceWrite (faceSetTd f i { t with t0 := f.tag, done := [(t.row, t.col)] }) (t.addr + 17) [BitVec.ofNat 8 f.tag]
    { f with tag := (f.tag + 1) % 256 }
  else faceSetTd f i { t with done := (t.row, t.col) :: t.done }

/-- The codes and scale records of a tile written by its face's work unit, with what it adds to statistics, row sums and
gradients (R297 to R300, R307, R310, R313). -/
def putTile (m : Mod) (f : Face) (t : TDesc) (e : Option ScaleEntry) (cru : Nat) (redo : Bool) (els : List OutEl) : Face :=
  let conv := convTile t.fmt e redo els
  match e with
  | none => conv.foldl (fun f x => putCode m t f x.1.s x.2.1) f
  | some e =>
    let f := (padPlaces t els).foldl (fun f s => putCode m t f s (padCode t e redo els s)) f
    let f := conv.foldl (fun f x => putCode m t f x.1.s x.2.1) f
    let f := ((els.map fun o => (o.s.1, o.s.2 / 256)).eraseDups).foldl (putRecord m t e redo els conv) f
    { f with
      pstats := if e.statsPtr != 0 && bitAt cru 0 then f.pstats ++ [tileStats t.fmt e redo conv] else f.pstats
      rpend := if isInt t.fmt && !e.block then putSums f.rpend (tileSums t conv) else f.rpend
      gpend := if e.learned then f.gpend ++ tileGrads m.draws t e conv else f.gpend }

/-- A tile of fp32 results converted and written to the output tensor (step 5 of Table FA-4, R296 to R317). -/
def writeTile (m : Mod) (n : Nat) (ti : Nat) (si : Nat) (y : Nat → Nat → Word) : Mod :=
  match faceOf m n with
  | none => m
  | some f0 =>
    let f := takeTag f0 ti
    let t := faceTd f ti
    let e := okEntry m f t
    let s := drainSet m f si
    let els := ((upto 4096).map fun p => (⟨stored t (t.row + p / 64) (t.col + p % 64), y (p / 64) (p % 64)⟩ : OutEl)).filter
      fun o => inTensor t o.s
    let (redo, above) := guardOf s.cru e els t.fmt
    let learned : Bool := e.any (·.learned)
    let marks := (convTile t.fmt e redo els).map fun x => x.2.2.1
    let f := putTile m f t e s.cru redo els
    let fl := s.flags ||| flagWord redo (marks.any (· = .special)) false
    let f := setAcc f si { s with flags := fl, drain := true, begun := false, mode := if learned then 3 else if redo then 2 else 1
                                  lo := if isLocal t.base then t.base else 0
                                  hi := if isLocal t.base then t.base + t.rows * t.stride else 0 }
    let m := setFace { m with draws := m.draws + bN learned } { f with fmt := t.fmt, st := 1 }
    let m := countMarks m (cruP n) marks
    let m := bump (bump m (cruP n) 0x58 (bN redo)) (cruP n) 0x5C (bN above)
    let m := if redo && bitAt s.cru 2 then blockEvt m (cruP n) else m
    next4 (countTile m n s.cfg fl) (.face n)

/-- The access check of an output tensor: its rows with the padding of their last groups (R299), and its scale stream. -/
def outAccess (m : Mod) (t : TDesc) : Option Nat :=
  let pad := if isScaled t.fmt then (t.rows - 1) * t.stride + ceilDiv (fmtBits t.fmt * alignUp t.cols 256) 8 else 0
  (faceAccess m t.base (max (t.rows * t.stride) pad) 1).orElse fun _ => tensorAccess m t

/-- The checks of an output tile and its epilogue at issue (Table IS-8). -/
def outBad (m : Mod) (f : Face) (t : TDesc) (ea : Nat) : Option Nat :=
  (faceAccess m ea 80 1).orElse fun _ =>
    if ea % 16 != 0 then some 0x07
    else (epiBad m (faceRead m f ea 80)).orElse fun _ =>
      match tdEntry m f { t with entry := (readEpi (faceRead m f ea 80)).entry } with
      | .error x => some x
      | .ok _ => outAccess m t

/-- The row code sum of the A operand for row `i` of the tile (R281, R307). -/
def rsOf (m : Mod) (f : Face) (s : AccSet) (i : Nat) : Int :=
  let l := (((f.cmd.bind (cmdOf m)).bind (·.run)).map (·.rsums)).getD []
  (((putSums l f.rpend).filter fun x => x.base = s.aBase && x.cols = s.aCols && x.row = s.aRow + i).map (·.sum)).foldl (· + ·) 0

/-- A tile of totals run through the epilogue into td_c. -/
def epilogue (m : Mod) (n ti si ea : Nat) (tile : Nat → Word) : Mod :=
  match faceOf m n with
  | none => m
  | some f0 =>
    let x := readEpi (faceRead m f0 ea 80)
    let f := faceSetTd f0 ti { faceTd f0 ti with entry := x.entry }
    let m := setFace m f
    let t := faceTd f ti
    let s := accOf f si
    writeTile m n ti si fun i j => epiElem m f x (rsOf m f s i) (tile (64 * i + j)) (t.row + i) (t.col + j)

/-- What the tag checks at the crusher's output and the write engines find in a tile of a quantised tensor (R318). -/
def outSkew (f : Face) (ti : Nat) (skew : Option TagSkew) : Option TagSkew := if isScaled (faceTd f ti).fmt then skew else none

/-- TDRAIN (R275, R280). -/
def tdrainRun (m : Mod) (n : Nat) (w : BitVec 26) (skew : Option TagSkew) : Mod :=
  issue m (.face n) (encJ 0x33 w) fun m => match faceOf m n with
    | none => m
    | some f =>
      if (accOf f (tSet w)).drain then drainWait m f
      else match outBad m f (faceTd f (tA w)) (faceX f (tP w)) with
      | some x => coreExc m (.face n) x
      | none => match outSkew f (tA w) skew with
        | some k => skewAt m n k.want k.got k.group
        | none => epilogue m n (tA w) (tSet w) (faceX f (tP w)) fun p => (accOf f (tSet w)).tile.getD p 0#32

/-- DRAIN_END (R275). -/
def drainEndOp (m : Mod) (n : Nat) (set : Bool) : Mod :=
  match faceOf m n with
  | none => m
  | some f =>
    let i := bN set
    if (accOf f i).drain then setFace m (setAcc f i { accOf f i with drain := false, lo := 0, hi := 0, mode := 0 }) else m

def tstatRun (m : Mod) (n : Nat) (w : BitVec 26) : Mod :=
  issue m (.face n) (encJ 0x36 w) fun m => match faceOf m n with
    | none => m
    | some f => if (accOf f (tSet w)).drain then m
      else next4 (setFace m (faceSetX f (tQ w) (accOf f (tSet w)).flags)) (.face n)

/-! K-split (R276 to R279, R365). -/

/-- The descriptor's bytes, target and contributors (Table IS-7). -/
def ksTarget (m : Mod) (d : Nat) : Nat := recN m d 8
def ksCount (m : Mod) (d : Nat) : Nat := recN m (d + 8) 2
def ksBitmap (m : Mod) (d : Nat) : Nat := recN m (d + 16) 128

/-- Whether every page of a K-split target lies in bench 0 or bench 1 (R276). -/
def ksTargetOk (m : Mod) (t : Nat) : Bool := [t, t + 16383].all fun a => inBench m 0 a || inBench m 1 a

/-- A descriptor outside bench 0, or with a field out of range (R276, Table IS-7). -/
def ksBad (m : Mod) (d : Nat) : Bool :=
  !(inBench m 0 d && inBench m 0 (d + 143)) || !(2 ≤ ksCount m d && ksCount m d ≤ 1024) || recN m (d + 10) 6 != 0 ||
  !ksTargetOk m (ksTarget m d)

/-- Set bits of an arrival bitmap. -/
def popcount (v : Nat) : Nat := ((upto 1024).filter (bitAt v)).length

/-- The sector adds of a partial tile of a command. -/
def tileAdds (m : Mod) (target : Nat) (tile : List Word) (cmd : Option Nat) : List SvcEnt :=
  rowAdds m 0 target ((upto 4096).map fun p => tile.getD p 0#32) cmd

/-- Bytes of deltas a stack's service queue holds; it holds 1 MiB (Resources and numbering). -/
def svcBytes (m : Mod) (s : Nat) : Nat := total ((m.svc.filter fun x => x.stack = s).map fun x => 4 * x.delta.length)

/-- Whether the queues take a tile whole (R365). -/
def ksRoom (m : Mod) (adds : List SvcEnt) : Bool :=
  (upto 8).all fun s => svcBytes m s + total ((adds.filter fun x => x.stack = s).map fun x => 4 * x.delta.length) ≤ 2 ^ 20

/-- A contribution accepted: its adds enter the service and its arrival bit is set in the same operation; a bit that
is set already discards it (R276, R278, R365). The flag says that it completed the bitmap. -/
def ksAccept (m : Mod) (d k : Nat) (tile : List Word) (cmd : Option Nat) (dups : Page) : Mod × Bool :=
  if bitAt (ksBitmap m d) k then (bump m dups 0x60, false)
  else
    let adds := tileAdds m (ksTarget m d) tile cmd
    let bm := ksBitmap m d + 2 ^ k
    let m := writeBytes m (d + 16) (toBytes bm 128)
    let m := { m with svc := m.svc ++ adds.filter fun s => s.stack < 8 }
    let m := (adds.filter fun s => 8 ≤ s.stack).foldl ksAdd m
    (m, popcount bm = ksCount m d)

/-- KSPLIT_ACCEPT (R365). -/
def ksAcceptOp (m : Mod) (face d k : Nat) (tile : List Word) : Mod :=
  if 128 ≤ face || ksBad m d || ksCount m d ≤ k || !ksRoom m (tileAdds m (ksTarget m d) tile none) then m
  else (ksAccept m d k tile ((faceOf m face).bind (·.cmd)) (facP face)).1

/-- A contribution sent to the node that owns the descriptor as one KSPLIT_PART transaction (R279, R500): the descriptor's
address and the contributor, then the tile. -/
def ksSend (m : Mod) (node d k cid face : Nat) (tile : List Word) : Mod :=
  let tag := m.fab.tag
  let bytes := (upto 4096).flatMap fun p => toBytes (tile.getD p 0#32).toNat 4
  let head := mkFrame m 0x12 node tag 0 false (slotsOf (toBytes d 8 ++ toBytes k 2))
  let fs := head :: (upto 64).map fun i => mkFrame m 0x12 node tag (i + 1) (i + 1 = 64) (slotsOf ((bytes.drop (256 * i)).take 256))
  let t : FabTx := ⟨tag, node, 1, cid, face, now m, 0, fs⟩
  fs.foldl sendAddr { m with fab := { m.fab with tag := (tag + 1) % 2 ^ 32, txs := m.fab.txs ++ [t] } }

/-- TPART on its way out: x(xs_q) says whether the contribution completed the bitmap, and the set drains. -/
def tpartEnd (m : Mod) (n : Nat) (w : BitVec 26) (full : Bool) : Mod :=
  match faceOf m n with
  | none => m
  | some f =>
    let s := drainSet m f (tSet w)
    let f := setAcc (faceSetX f (tQ w) (bN full)) (tSet w) { s with drain := true, begun := false, mode := 0, lo := 0, hi := 0 }
    next4 (countTile (setFace (bump m (facP n) 0x5C) { f with st := 1 }) n s.cfg s.flags) (.face n)

/-- TPART: the set's raw tile goes to the descriptor; the face's rank is its contributor number. To a descriptor of another
module it goes over the fabric (R279); whether it completed the bitmap there no frame says, so x(xs_q) is a free value. -/
def tpartRun (m : Mod) (n : Nat) (w : BitVec 26) (owner : Option Nat) : Mod :=
  issue m (.face n) (encJ 0x34 w) fun m => match faceOf m n with
    | none => m
    | some f =>
      if (accOf f (tSet w)).drain then drainWait m f
      else
        let d := faceX f (tP w)
        let tile := (accOf f (tSet w)).tile
        match owner.filter fun k => m.fab.node != some k with
        | some node =>
          if isLocal d then coreExc m (.face n) 0x07
          else if bits d 46 17 != 0 then coreExc m (.face n) 0x11
          else if m.fab.node.isNone then m
          else tpartEnd (ksSend { m with draws := m.draws + 1 } node d f.rank (f.cmd.getD 0) n tile) n w (Config.ksLast m.draws)
        | none =>
          if isLocal d then coreExc m (.face n) 0x07
          else match faceAccess m d 144 1 with
          | some x => coreExc m (.face n) x
          | none =>
            if ksBad m d || ksCount m d ≤ f.rank then coreExc m (.face n) 0x07
            else if !ksRoom m (tileAdds m (ksTarget m d) tile f.cmd) then m
            else
              let r := ksAccept m d f.rank tile f.cmd (facP n)
              tpartEnd r.1 n w r.2

/-- TFIN: the epilogue over the combined total, once the service has applied every add to it; acc_sat is set where an add
saturated (R271, R276). -/
def tfinRun (m : Mod) (n : Nat) (w : BitVec 26) (skew : Option TagSkew) : Mod :=
  issue m (.face n) (encJ 0x35 w) fun m => match faceOf m n with
    | none => m
    | some f =>
      let d := faceX f (tP w)
      if isLocal d then coreExc m (.face n) 0x07
      else match faceAccess m d 144 1 with
      | some x => coreExc m (.face n) x
      | none =>
        if ksBad m d then coreExc m (.face n) 0x07
        else match outBad m f (faceTd f (tA w)) (faceX f (tQ w)) with
        | some x => coreExc m (.face n) x
        | none =>
          let t := ksTarget m d
          if (accOf f (tSet w)).drain then drainWait m f
          else if m.svc.any fun s => t ≤ s.addr && s.addr < t + 16384 then m
          else if readHurt m t 16384 then (f.cmd.map fun c => cmdStop m c 0xF4 0x30 0).getD m
          else match outSkew f (tA w) skew with
          | some k => skewAt m n k.want k.got k.group
          | none =>
            let hit : Bool := m.ksat.any fun a => t ≤ a && a < t + 16384
            let s := accOf f (tSet w)
            let m' := setFace { m with ksat := m.ksat.filter fun a => !(t ≤ a && a < t + 16384) }
              (setAcc f (tSet w) { s with flags := s.flags ||| flagWord false false hit })
            epilogue m' n (tA w) (tSet w) (faceX f (tQ w)) fun p => BitVec.ofNat 32 (recN m (t + 4 * p) 4)

/-- SECTOR_ADD (R366, R367): the first entry of a stack whose granule no running program owns. -/
def sectorAddOp (m : Mod) (stack : Nat) (e : Ecc) : Mod :=
  if unitsStall m then m
  else match m.svc.find? fun s => s.stack = stack && (ownerOf m s.addr).isNone with
  | none => m
  | some s =>
    let rest := m.svc.erase s
    match eccAt m s.addr e with
    | .uncorrectable =>
      let m := bump (eccEvent m s.addr e) (drlP stack) 0xC0
      match s.cmd.bind (cmdOf m) with
      | none => { m with svc := rest }
      | some c =>
        if c.upd.isSome then finishBad (updateUndo { m with svc := rest } c) c 0x30 0
        else cmdStop { m with svc := rest } c.id 0xF4 0x30 0
    | x =>
      let m := if x = .corrected then bump (eccEvent m s.addr e) (drlP stack) 0xC4 else m
      let m := bump (if tableAdd m s then applyAdd { m with svc := rest } s true else ksAdd { m with svc := rest } s) (drlP stack) 0xCC
      addDone m s

/-! Transfers (R390). -/

def xferRun (m : Mod) (n : Nat) (rd rs1 rs2 : BitVec 5) (f : BitVec 11) : Mod :=
  issue m (.face n) (encR 0x38 rd rs1 rs2 f) fun m => match faceOf m n with
    | none => m
    | some x =>
      let dst := faceX x rd.toNat
      let src := faceX x rs1.toNat
      let len := faceX x rs2.toNat
      if len % 32 != 0 then coreExc m (.face n) 0x10
      else match (faceAccess m src len 32).orElse fun _ => faceAccess m dst len 32 with
      | some c => coreExc m (.face n) c
      | none => next4 (setFace m { x with xfers := x.xfers ++ [(src, dst, len)] }) (.face n)

/-- Every earlier copy of the face performed, in order. -/
def doXfers (m : Mod) (f : Face) : Face :=
  f.xfers.foldl (fun g x => faceWrite g x.2.1 (faceRead m g x.1 x.2.2)) { f with xfers := [] }

def xwaitRun (m : Mod) (n : Nat) (w : BitVec 26) : Mod :=
  issue m (.face n) (encJ 0x39 w) fun m => match faceOf m n with
    | none => m
    | some f =>
      if f.xfers.any fun x => leaseWaits m x.1 x.2.2 then
        f.xfers.foldl (fun m x => if isLocal x.1 then m else recallRange m x.1 x.2.2) m
      else if f.xfers.any fun x => readHurt m x.1 x.2.2 then (f.cmd.map fun c => cmdStop m c 0xF4 0x30 0).getD m
      else next4 (setFace m (doXfers m f)) (.face n)

end Sys2Proof.Machine
end

