-- ==== Sys2Proof/Machine/Drill.lean ====
section
/-! DEFINITION. Drills (chapter 11): host reservation, loading, the doorbell and the run, and the SIMD, bank and list
instructions of Table IS-9. -/

namespace Sys2Proof.Machine
open Fp

/-! Reservation, doorbell and run (R346 to R356, R379 to R381). -/

/-- Whether a drill is reserved for the host (Table DR-10). -/
def hostReserved (m : Mod) (s n : Nat) : Bool := 12 - bits (regN m (drlP s) 0xA8) 0 3 ≤ n % 12

/-- Whether a drill's bit of DRL_OOS reads 1 (R381). -/
def drillOos (m : Mod) (s n : Nat) : Bool := isOut m (.drill s n) || decide (n / 12 ∈ (stackOf m s).out)

/-- The drill a mailbox window shows. -/
def mbxSel (m : Mod) (s w : Nat) : Nat := bits (regN m (drlP s) (0x100 + 4 * w)) 0 9

/-- A drill's region lies within its slice (R353), and for the mailbox within the host window. -/
def regionOk (m : Mod) (d : Drill) (mailbox : Bool) : Bool :=
  let (a, n) := areaRegion d
  n = 0 || (a % 32 = 0 && n % 32 = 0 && (!mailbox || (hostBase ≤ a && a + n ≤ devEnd)) &&
    (upto ((a + n - 1) / pageSize + 1 - a / pageSize)).all fun i => sliceOf m ((a / pageSize + i) * pageSize) = some (d.stack, d.n))

def entryOk (d : Drill) : Bool := 0x1000 ≤ areaN d 0 && areaN d 0 ≤ 0x3FFC && areaN d 0 % 4 = 0

/-- Leased lines of a region. -/
def regionLeases (m : Mod) (d : Drill) : List Nat :=
  (m.velom.leases.filter fun l => l.line * 64 < regionBase d + regionLen d && regionBase d < l.line * 64 + 64).map (·.line)

/-- An accepted doorbell: ready clears, seq advances, and the host's copies of the region are recalled (R354). -/
def doorbellOk (m : Mod) (d : Drill) : Mod :=
  let d := { d with region := areaRegion d, cfg := regN m (drlP d.stack) 0xA0, started := now m, ready := false, ended := false
                    dbErr := false, st := 2, seq := (d.seq + 1) % 65536 }
  let m := bump (setDrill m d) (drlP d.stack) 0xB4
  (regionLeases m d).foldl (fun m l => addRecall m l 0 .claim) m

/-- DRL_CMD_DB (R353, R380). -/
def doorbellOp (m : Mod) (s n seq : Nat) (mailbox : Bool) : Mod :=
  match drillOf m s n with
  | none => m
  | some d =>
    if d.ready && seq = (d.seq + 1) % 65536 && regionOk m d mailbox && entryOk d && (!mailbox || hostReserved m s n) &&
       !drillOos m s n && d.cmd.isNone then doorbellOk m d
    else setDrill m { d with dbErr := true }

/-- Whether a region's Recalls are all answered. -/
def regionClear (m : Mod) (d : Drill) : Bool :=
  (regionLeases m d).isEmpty && !(m.velom.recalls.any fun r => r.line * 64 < regionBase d + regionLen d && regionBase d < r.line * 64 + 64)

/-- The entry state of a drill program (R396). -/
def drillEntry (d : Drill) : Drill :=
  let r (i : Nat) : Nat :=
    if 1 ≤ i && i ≤ 16 then areaN d (0x10 + 4 * (i - 1))
    else match i with
      | 17 => d.n
      | 18 => d.stack
      | 19 => areaN d 0x58
      | 20 => areaN d 0x5C
      | 29 => 0x8000
      | _ => 0
  { d with pc := areaN d 0, r := (upto 32).map fun i => BitVec.ofNat 32 (r i), q := [], p := [], b := mapSet (fun _ => 0) [] 0 (regionBase d) }

/-- DRILL_RUN_START (R354). -/
def runStart (m : Mod) (s n : Nat) : Mod :=
  match drillOf m s n with
  | none => m
  | some d =>
    if d.ready || d.st != 2 || unitState m (.drill s n) = 2 || !regionClear m d then m
    else setDrill m { drillEntry d with st := 3, fault := false, exit := 0, skews := 0 }

/-- DRILL_WATCHDOG (Table DR-4). -/
def watchdogOp (m : Mod) (s n : Nat) : Mod :=
  match drillOf m s n with
  | none => m
  | some d => if !d.ready && !d.ended && d.st = 3 && d.started + 2 ^ bits d.cfg 16 5 < now m then coreExc m (.drill s n) 0x20 else m

/-- A drill program of a package version. -/
def drillProgram (p : PkgVer) (i : Nat) : Option Program := p.pkg.programs.find? fun x => x.kind = 2 && x.index = i
def faceProgram (p : PkgVer) (i : Nat) : Option Program := p.pkg.programs.find? fun x => x.kind = 1 && x.index = i

/-- A program loaded into a drill (R351): its scratch holds the initialised data and zeros. -/
def loadDrill (d : Drill) (p : PkgVer) (g : Program) : Drill :=
  if d.prog = some (p.id, p.ver, g.index) then d
  else
    let d := { d with prog := some (p.id, p.ver, g.index), code := g.code, scratch := cellsSet [] 0 g.data
                      replays := bitAt g.flags 0 }
    setArea d 0x04 (g.index * 65536 + p.id)

/-- DRL_LOAD_CMD (R351, Table DR-10). -/
def loadCmd (m : Mod) (s w : Nat) (v : Word) : Mod :=
  let p := drlP s
  let res (k : Nat) : Mod := setRegN m p 0xB0 (k * 2 ^ 28)
  let id := ((drillOf m s (mbxSel m s w)).map fun d => areaN d 0x10 % 65536).getD 0
  match pkgCur m id with
  | none => res 1
  | some k => match drillProgram k (fieldOf' v 16 12) with
    | none => res 2
    | some g =>
      let all := bitAt v.toNat 31
      let t := fieldOf' v 0 9
      let mine := (m.drills.filter fun d => d.stack = s && hostReserved m s d.n && (all || d.n = t)).map (·.n)
      if !all && !(t ∈ mine) then res 3
      else setRegN (mine.foldl (fun m n => match drillOf m s n with
        | some d => if d.ready then setDrill m (loadDrill d k g) else m
        | none => m) m) p 0xB0 0
where
  fieldOf' (v : Word) (lo n : Nat) : Nat := bits v.toNat lo n

/-- A write to DRL_HOST_RES (R379). -/
def hostResWrite (m : Mod) (s : Nat) (v : Word) : Mod :=
  let p := drlP s
  let old := bits (regN m p 0xA8) 0 3
  let new := bits v.toNat 0 3
  if m.sec.locked then lockViolation m p 0xA8
  else if 4 < new then m
  else
    let moved := m.drills.filter fun d => d.stack = s && (decide (12 - old ≤ d.n % 12) != decide (12 - new ≤ d.n % 12))
    if moved.all (·.ready) then setRegN m p 0xA8 new else bump m secP 0x48

/-- Whether a word written to the command register area lies in its stated range (Table DR-2, R10). -/
def areaWriteOk (off v : Nat) : Bool :=
  match off with
  | 0x00 => 0x1000 ≤ v && v ≤ 0x3FFC && v % 4 = 0
  | 0x50 | 0x58 => v % 32 = 0
  | _ => true

/-- A write through a mailbox window (R352, R380). -/
def mailboxWrite (m : Mod) (s w off : Nat) (v : Word) : Mod :=
  let n := mbxSel m s w
  match drillOf m s n with
  | none => m
  | some d =>
    if off = 0x08 then doorbellOp m s n (v.toNat % 65536) true
    else if !hostReserved m s n then m
    else if areaWriteOk off v.toNat && (off = 0 || (0x10 ≤ off && off ≤ 0x5C)) then
      let k := if off = 0x54 then v.toNat % 2 ^ 14 else if off = 0x5C then v.toNat % 256 else v.toNat
      setDrill m (setArea d off k)
    else m

/-- MEMORY_WIPE (R376): the whole of HBM, in the wipe of a reset. -/
def memoryWipe (m : Mod) : Mod :=
  let inB1 (a : Nat) : Bool := (pageEnt m (pageNo a)).any fun e => e.bench = 1
  { m with mem := { m.mem with cells := m.mem.cells.filter (fun c => !inB1 c.1), ue := [], stalled := [] }
           drills := m.drills.map fun d => { d with scratch := [], held := [] } }

/-! SIMD instructions (Table IS-9, R392). -/

/-- The frame of a drill instruction that raises nothing. -/
def drillIssue (m : Mod) (s n op : Nat) (w : BitVec 26) (body : Drill → Drill) : Mod :=
  issue m (.drill s n) (encJ op w) fun m => match drillOf m s n with
    | none => m
    | some d => next4 (setDrill m (body d)) (.drill s n)

def quadLane (f : Nat) (d a b : Word) : Word :=
  match f with
  | 0x010 => a + b
  | 0x012 => a &&& b
  | f => arithLane f d a b

def qarithRun (m : Mod) (s n : Nat) (w : BitVec 26) : Mod :=
  drillIssue m s n 0x20 w fun d =>
    let r := ((drillQ d (qD w)).zip ((drillQ d (qS1 w)).zip (drillQ d (qS2 w)))).map fun t => quadLane (qFunct w) t.1 t.2.1 t.2.2
    drillSetQ d (qD w) (masked (drillP d (qPred w)) r (drillQ d (qD w)))

def qfuncRun (m : Mod) (s n : Nat) (w : BitVec 26) : Mod :=
  drillIssue m s n 0x21 w fun d =>
    drillSetQ d (qD w) (masked (drillP d (qPred w)) ((drillQ d (qS1 w)).map fexp) (drillQ d (qD w)))

def qcmpRun (m : Mod) (s n : Nat) (w : BitVec 26) : Mod :=
  drillIssue m s n 0x22 w fun d =>
    let r := ((drillQ d (qS1 w)).zip (drillQ d (qS2 w))).map fun t => cmpLane (qFunct w) t.1 t.2
    drillSetP d (qD w % 4) (masked (drillP d (qPred w)) r (drillP d (qD w % 4)))

/-- A register number widened by funct[11]. -/
def wideReg (w : BitVec 26) (r : Nat) : Nat := r + 16 * bits (qFunct w) 11 1

def qredRun (m : Mod) (s n : Nat) (w : BitVec 26) : Mod :=
  drillIssue m s n 0x23 w fun d =>
    drillSetR d (wideReg w (qD w)) (reduceLanes (qFunct w % 2048) (active (drillP d (qPred w)) (drillQ d (qS1 w)))).toNat

/-- A drill's work as it begins again from its start: core, scratch and program data (R320, R377). -/
def drillAgain (m : Mod) (d : Drill) : Drill :=
  let data := (d.prog.bind fun p => (m.pkgs.find? fun k => k.id = p.1 && k.ver = p.2.1).bind fun k =>
    (drillProgram k p.2.2).map (·.data)).getD []
  { d with st := 2, pc := 0, r := [], q := [], p := [], b := [], scratch := cellsSet [] 0 data, ended := false }

/-- A tag mismatch at a drill's input (R318, R320): counted and logged on crusher 0, for the tags are a crusher's and a drill has no
crusher page (DESIGN CHOICE); a first one replays the drill's work, a second one ends its command, or a run of the host's, which
stops with exit 0xF4. -/
def drillSkew (m : Mod) (s n : Nat) (k : TagSkew) : Mod :=
  match drillOf m s n with
  | none => m
  | some d =>
    let m := skewSeen m 0 (d.skews != 0) k.want k.got k.group
    if d.skews = 0 then setDrill m { drillAgain m d with skews := 1 }
    else match d.cmd with
    | some c => cmdStop (bump m (cruP 0) 0x64) c 0xF4 0x31 0
    | none => drillStop m s n 0xF4 4 true

/-- QCVT, with the tag check of the scaled data it expands (R318). -/
def qcvtRun (m : Mod) (s n : Nat) (w : BitVec 26) (skew : Option TagSkew) : Mod :=
  match skew.filter fun _ => isScaled (qFunct w) with
  | some k => issue m (.drill s n) (encJ 0x24 w) fun m => drillSkew m s n k
  | none => drillIssue m s n 0x24 w fun d =>
    let bs := laneBytes (drillQ d (qS1 w))
    let ty := qFunct w
    drillSetQ d (qD w) (masked (drillP d (qPred w)) ((upto 16).map fun i => expandCode ty (unpackCode ty bs i)) (drillQ d (qD w)))

def qmovRun (m : Mod) (s n : Nat) (w : BitVec 26) : Mod :=
  drillIssue m s n 0x25 w fun d =>
    if qFunct w % 2048 = 0 then
      drillSetQ d (qD w) (masked (drillP d (qPred w)) (List.replicate 16 (BitVec.ofNat 32 (drillR d (wideReg w (qS1 w))))) (drillQ d (qD w)))
    else drillSetR d (wideReg w (qD w)) ((drillQ d (qS1 w)).getD (qS2 w) 0#32).toNat

/-! Bank space (R347, R348, R361 to R363). -/

def bankAddr (d : Drill) (w : BitVec 26) (k : Int) : Nat :=
  wrapI 46 ((drillB d (mBk w) : Int) + drillR d (mRs w) + k * mImm w)

def inSlice (m : Mod) (d : Drill) (a : Nat) : Bool := sliceOf m a = some (d.stack, d.n)

/-- The exception of a bank access of `n` bytes: misaligned or outside the slice, or in a retired page (R347, R416). -/
def bankExc (m : Mod) (d : Drill) (a n align : Nat) : Option Nat :=
  if a % align != 0 then some 0x12
  else if pageNo a ∈ m.mem.retiredPg || pageNo (a + n - 1) ∈ m.mem.retiredPg then some 0x11
  else if inSlice m d a && inSlice m d (a + n - 1) then none else some 0x12

/-- Whether bytes lie in the drill's region. -/
def inRegion (d : Drill) (a n : Nat) : Bool := regionBase d ≤ a && a + n ≤ regionBase d + regionLen d

/-- A correctable error met by a drill (R363). -/
def drillCorr (m : Mod) (s a : Nat) (e : Ecc) : Mod :=
  if eccAt m a e = .corrected then bump (eccEvent m a .corrected) (drlP s) 0xC4 else m

/-- The worst of two granules' checks. -/
def worstEcc (m : Mod) (a : Nat) (e : Ecc) : Ecc :=
  if eccAt m a e = .uncorrectable || eccAt m (a + 32) .ok = .uncorrectable then .uncorrectable else eccAt m a e

def bldRun (m : Mod) (s n : Nat) (w : BitVec 26) (e : Ecc) : Mod :=
  issue m (.drill s n) (encJ 0x28 w) fun m => match drillOf m s n with
    | none => m
    | some d =>
      let a := bankAddr d w 32
      match bankExc m d a 64 32 with
      | some x => coreExc m (.drill s n) x a
      | none => if worstEcc m a e = .uncorrectable then
        drillEccStop m s n (if eccAt m a e = .uncorrectable then a else a + 32)
      else
        let m := drillCorr m s a e
        let v := bytesLanes 16 (readBytes m a 64)
        next4 (setDrill m (drillSetQ d (mQ w) v)) (.drill s n)

def bstRun (m : Mod) (s n : Nat) (w : BitVec 26) : Mod :=
  issue m (.drill s n) (encJ 0x29 w) fun m => match drillOf m s n with
    | none => m
    | some d =>
      let a := bankAddr d w 32
      match bankExc m d a 64 32 with
      | some x => coreExc m (.drill s n) x a
      | none => if !inRegion d a 64 then coreExc m (.drill s n) 0x13 a
      else
        let bs := laneBytes (drillQ d (mQ w))
        next4 (applyGran (applyGran m a (bs.take 32)) (a + 32) (bs.drop 32)) (.drill s n)

/-- BSTW (R362): the granule's check is tested before the modification. -/
def bstwRun (m : Mod) (s n : Nat) (w : BitVec 26) (e : Ecc) : Mod :=
  issue m (.drill s n) (encJ 0x2A w) fun m => match drillOf m s n with
    | none => m
    | some d =>
      let a := bankAddr d w 4
      match bankExc m d a 4 4 with
      | some x => coreExc m (.drill s n) x a
      | none => if !inRegion d a 4 then coreExc m (.drill s n) 0x13 a
      else if eccAt m a e = .uncorrectable then drillEccStop m s n (a / 32 * 32)
      else
        let m := drillCorr m s a e
        let v := toBytes ((drillQ d (mQ w)).getD 0 0#32).toNat 4
        next4 (applyGran m a (patch (readGran m a) (a % 32) v)) (.drill s n)

/-! Scratch and table space. -/

def scratchAddr (d : Drill) (w : BitVec 26) : Nat := wrapI 32 ((drillR d (mRs w) : Int) + 64 * mImm w)

def qldRun (m : Mod) (s n : Nat) (w : BitVec 26) : Mod :=
  issue m (.drill s n) (encJ 0x2B w) fun m => match drillOf m s n with
    | none => m
    | some d =>
      let a := scratchAddr d w
      match scratchAccess a 64 64 false with
      | some x => coreExc m (.drill s n) x a
      | none => next4 (setDrill m (drillSetQ d (mQ w) (bytesLanes 16 (scratchRead d a 64)))) (.drill s n)

def qstRun (m : Mod) (s n : Nat) (w : BitVec 26) : Mod :=
  issue m (.drill s n) (encJ 0x2C w) fun m => match drillOf m s n with
    | none => m
    | some d =>
      let a := scratchAddr d w
      match scratchAccess a 64 64 true with
      | some x => coreExc m (.drill s n) x a
      | none => next4 (setDrill m (scratchWrite d a (laneBytes (drillQ d (mQ w))))) (.drill s n)

/-- The bytes of a stack's scan table store. -/
def tabStore (m : Mod) (s : Nat) : List Host.Cell := ((m.scanTab.find? fun t => t.1 = s).map (·.2)).getD []
def tabSize : Nat := 0x200000

def qtblRun (m : Mod) (s n : Nat) (w : BitVec 26) : Mod :=
  issue m (.drill s n) (encJ 0x2D w) fun m => match drillOf m s n with
    | none => m
    | some d =>
      let at' (x : Word) : Nat := drillR d (qS2 w + 16) + 2 * x.toNat
      let src := drillQ d (qS1 w)
      let on := drillP d (qPred w)
      if (active on src).any fun x => tabSize < at' x + 2 then coreExc m (.drill s n) 0x14
      else
        let t := tabStore m s
        let r := src.map fun x => expandCode 2 (ofBytes [cellGet t (at' x), cellGet t (at' x + 1)])
        next4 (setDrill m (drillSetQ d (qD w) (masked on r (drillQ d (qD w))))) (.drill s n)

/-! LINS (R393). -/

/-- A list entry: score, key, instance word. -/
abbrev LEnt := Word × DWord × Word

def readLEnt (d : Drill) (a : Nat) : LEnt :=
  (BitVec.ofNat 32 (ofBytes (scratchRead d a 4)), BitVec.ofNat 64 (ofBytes (scratchRead d (a + 4) 8)), BitVec.ofNat 32 (ofBytes (scratchRead d (a + 12) 4)))
def lentBytes (e : LEnt) : List Byte := toBytes e.1.toNat 4 ++ toBytes e.2.1.toNat 8 ++ toBytes e.2.2.toNat 4
def lentLt (a b : LEnt) : Bool := orderKey a.1 a.2.1 < orderKey b.1 b.2.1

def linsRun (m : Mod) (s n : Nat) (rd rs1 rs2 : BitVec 5) (f : BitVec 11) : Mod :=
  issue m (.drill s n) (encR 0x2E rd rs1 rs2 f) fun m => match drillOf m s n with
    | none => m
    | some d =>
      let a := drillR d rd.toNat
      match scratchAccess a 8 4 true with
      | some x => coreExc m (.drill s n) x a
      | none =>
        let cap := ofBytes (scratchRead d a 2)
        let k := min cap (ofBytes (scratchRead d (a + 2) 2))
        match scratchAccess a (8 + 16 * cap) 4 true with
        | some x => coreExc m (.drill s n) x a
        | none =>
          let key := drillR d rs2.toNat + drillR d ((rs2.toNat + 1) % 32) * 2 ^ 32
          let e : LEnt := (BitVec.ofNat 32 (drillR d rs1.toNat), BitVec.ofNat 64 key, BitVec.ofNat 32 (drillR d 29))
          let old := (upto k).map fun i => readLEnt d (a + 8 + 16 * i)
          let new := (insertBy lentLt e old).take cap
          let d := scratchWrite d (a + 2) (toBytes new.length 2)
          let d := scratchWrite d (a + 8) (new.flatMap lentBytes)
          next4 (setDrill m d) (.drill s n)

end Sys2Proof.Machine
end

