-- ==== Sys2Proof/Machine/Encode.lean ====
section
/-! DEFINITION. Encoding documents (chapter 08): sequence slots, chunks, attention partials and their fold, and the
completion of documents and of EMBED and EMBED_INSERT. -/

namespace Sys2Proof.Machine
open Fp

/-! A command's documents. -/

def docsN (e : BitVec 512) : Nat := if opcodeOf e = 0x13 then fld e 32 2 else fld e 24 2
def embedPkg (e : BitVec 512) : Nat := if opcodeOf e = 0x13 then fld e 34 2 else fld e 26 2
def textDocs (e : BitVec 512) : Bool := (if opcodeOf e = 0x13 then fld e 36 1 else fld e 28 1) = 1

def docDflt : Doc := ⟨0, 0, [], 0#64, 0, none⟩
def docOf (c : Cmd) (i : Nat) : Doc := c.pl.docs.getD i docDflt
def docTokens (c : Cmd) (i : Nat) : Nat := if textDocs c.entry then (docOf c i).tokens.length else (docOf c i).len

/-- The work a newly admitted EMBED or EMBED_INSERT starts with. -/
def startEmbed (e : BitVec 512) (pos : List Word) (enable : Nat) (dflt : BitVec 128) : EmbedW :=
  ⟨upto (docsN e), [], [], pos, [], enable, dflt⟩

/-- Slots of a command given back with their cache reservations. -/
def freeSlot (m : Mod) (s : Slot) : Mod :=
  let m := s.pages.foldl dropPage m
  { m with slots := m.slots.filter fun x => x.no != s.no }
def dropSlots (m : Mod) (cid : Nat) : Mod := (m.slots.filter fun s => s.cmd = cid).foldl freeSlot m

/-- A failing EMBED or EMBED_INSERT: no further vector is written, and nothing of a batch is stored (R117, R288). -/
def embedFail (m : Mod) (c : Cmd) (status info : Nat) : Mod :=
  let m := dropSlots m c.id
  let m := match c.embed with
    | some w => if opcodeOf c.entry = 0x14 then dropBatch m (collId c.entry) w.pos else m
    | none => m
  finishBad m c status info

/-! Slots (R287, R288). -/

/-- Bench 1 pages reserved by the slots: CTL_KV_USED. -/
def kvUsed (m : Mod) : Nat := total (m.slots.map fun s => s.pages.length)

/-- No document of an earlier command, and no earlier document of this one, waits (R287). -/
def firstDoc (m : Mod) (c : Cmd) (i : Nat) : Bool :=
  (match c.embed with
   | some w => w.waiting.all fun j => decide (i ≤ j)
   | none => false) &&
  !(m.cmds.any fun x => x.admitted && decide (x.seq < c.seq) && (match x.embed with
    | some w => !w.waiting.isEmpty
    | none => false))

/-- A frame of a given stack for a cache page, or of any stack of its die. -/
def stackPage (m : Mod) (s : Nat) : Option (Nat × Mod) :=
  let n := m.mem.map.length + m.mem.moves.length * 2 + (stackOf m s).retired.length + 1
  match ((upto n).map fun i => (Config.place m.mem.draws + i) % framesPerStack).find? fun f => frameOk m s f with
  | some f => some (m.mem.nextPage, placePage { m with mem := { m.mem with nextPage := m.mem.nextPage + 1 } } m.mem.nextPage 1 (s * 2 ^ 21 + f))
  | none => allocModule m 1 (some (s / 2))

/-- Pages reserved over all eight stacks in turn (R287). -/
def reservePages : Nat → Nat → Mod → Option (List Nat × Mod)
  | 0, _, m => some ([], m)
  | k + 1, s, m => match stackPage m (s % 8) with
    | none => none
    | some (p, m) => (reservePages k (s + 1) m).map fun r => (p :: r.1, r.2)

def putEmbed (m : Mod) (c : Cmd) (w : EmbedW) : Mod := setCmd m { c with embed := some w }

/-- DOCUMENT_ENTER_SLOT (R287, R288, R116). -/
def enterSlot (m : Mod) (cid i : Nat) : Mod :=
  match cmdOf m cid with
  | none => m
  | some c => match c.embed, pkgOf m c (embedPkg c.entry) with
    | some w, some p =>
      let t := docTokens c i
      if !(i ∈ w.waiting) || !firstDoc m c i then m
      else if textDocs c.entry && (2097152 < t || kvTooBig m p.pkg t) then embedFail m c 0x20 (badAt 16 i)
      else if 8 ≤ m.slots.length then m
      else
        let k := kvPages p.pkg t
        if kvLimit m < (kvUsed m + k) * pageSize then
          if i ∈ w.waited then m else bump (putEmbed m c { w with waited := i :: w.waited }) ctlP 0x14C
        else match reservePages k 0 m with
        | none => m
        | some (ps, m) =>
          let no := ((upto 8).find? fun n => !(m.slots.any fun s => s.no = n)).getD 0
          let s : Slot := ⟨no, cid, i, p.id, p.ver, t, 0, ps, [], [], [], 0⟩
          putEmbed { m with slots := m.slots ++ [s] } c { w with waiting := w.waiting.filter (· != i), active := w.active ++ [i] }
    | _, _ => m

def slotOf (m : Mod) (n : Nat) : Option Slot := m.slots.find? fun s => s.no = n
def setSlot (m : Mod) (s : Slot) : Mod := { m with slots := mapIf (fun x => x.no = s.no) (fun _ => s) m.slots }
def slotPkg (m : Mod) (s : Slot) : Option PkgVer := m.pkgs.find? fun p => p.id = s.pkg && p.ver = s.ver

/-- Chunks of a document (R284). -/
def chunksOf (p : PkgVer) (t : Nat) : Nat := ceilDiv t (max 1 p.pkg.enc.chunk)

/-- The faces' input in encoding a chunk meets something wrong: an uncorrectable error ends the command (R421); a first tag
mismatch writes nothing and the chunk is encoded again, a second ends it with SCALE_SKEW (R320). -/
def chunkHit (m : Mod) (s : Slot) (c : Cmd) : Hit → Mod
  | .clean => m
  | .hurt => embedFail m c 0x30 0
  | .skew n want got group =>
    let m := skewSeen m n (s.skews != 0) want got group
    if s.skews = 0 then setSlot m { s with skews := 1 } else embedFail m c 0x31 0

/-- CHUNK_ENCODE (R284): the next chunk's keys and values reach bench 1, and attention over them may start. It waits until every
partial of the chunk before is folded. -/
def chunkEncode (m : Mod) (n : Nat) (hit : Hit) : Mod :=
  match slotOf m n with
  | none => m
  | some s => match slotPkg m s with
    | none => m
    | some p =>
      if chunksOf p s.tokens ≤ s.chunk || !s.parts.isEmpty then m
      else if hit != .clean then ((cmdOf m s.cmd).map fun c => chunkHit m s c hit).getD m
      else
        let kv := p.pkg.enc.kvBytes
        let lo := s.chunk * p.pkg.enc.chunk * kv
        let hi := min s.tokens ((s.chunk + 1) * p.pkg.enc.chunk) * kv
        let draw := m.draws
        let put (m : Mod) (i : Nat) : Mod :=
          let a := s.pages.getD ((lo + i) / pageSize) 0 * pageSize + (lo + i) % pageSize
          writeBytes m a [Config.kvByte draw i]
        let m := (upto (hi - lo)).foldl put { m with draws := m.draws + 1 }
        setSlot m { s with chunk := s.chunk + 1, skews := 0, parts := [], state := [], outs := [] }

/-! Attention (R285, R286, R374). -/

/-- One partial folded into a running state (R286). -/
def fold1 (st : Word × Word × List Word) (p : Word × Word × List Word) : Word × Word × List Word :=
  let (mm, ll, oo) := st
  let (m, l, o) := p
  let nm := fmax mm m
  let a := fexp (fsub mm nm)
  let b := fexp (fsub m nm)
  let oo := if oo.isEmpty then List.replicate o.length 0#32 else oo
  (nm, fadd (fmul ll a) (fmul l b), (oo.zip o).map fun x => fadd (fmul x.1 a) (fmul x.2 b))

/-- The state that every fold starts from: (−inf, 0, 0). -/
def foldStart : Word × Word × List Word := (0xFF800000#32, 0#32, [])

/-- A query row's score against a key row (R374). -/
def attnScore (c : Word) (q k : List Word) : Word := fmul ((q.zip k).foldl (fun s p => fadd s (fmul p.1 p.2)) 0#32) c

/-- A partial over tokens' keys and values, in token order (R374). -/
def partialOver (c : Word) (q : List Word) (kvs : List (List Word × List Word)) : Word × Word × List Word :=
  kvs.foldl (fun st t => fold1 st (attnScore c q t.1, oneW, t.2)) foldStart

/-- The device address of a byte of a slot's cache. -/
def cacheAddr (s : Slot) (o : Nat) : Nat := s.pages.getD (o / pageSize) 0 * pageSize + o % pageSize

/-- The cache bytes of a token. -/
def tokenBytes (m : Mod) (s : Slot) (kv t : Nat) : List Byte := (upto kv).map fun i => readByte m (cacheAddr s (t * kv + i))

/-- A token's cached key and value for a layer and head, expanded to fp32 (R374). -/
def tokenKv (m : Mod) (s : Slot) (kv : Nat) (q : QRow) (t : Nat) : List Word × List Word :=
  let bs := tokenBytes m s kv t
  (Config.cacheKey bs q.layer q.head, Config.cacheVal bs q.layer q.head)

/-- The tokens of the chunks before the one in progress. -/
def cachedTokens (p : PkgVer) (s : Slot) : List Nat := upto (min s.tokens ((s.chunk - 1) * max 1 p.pkg.enc.chunk))

/-- The chunk's own tokens. -/
def ownTokens (p : PkgVer) (s : Slot) : List Nat :=
  let lo := (s.chunk - 1) * max 1 p.pkg.enc.chunk
  (upto (min s.tokens (lo + max 1 p.pkg.enc.chunk) - lo)).map (lo + ·)

/-- The drill whose slice holds a token's cache bytes: that of its first byte. -/
def tokenDrill (m : Mod) (p : PkgVer) (s : Slot) (t : Nat) : Option (Nat × Nat) := sliceOf m (cacheAddr s (t * p.pkg.enc.kvBytes))

/-- Whether the module may start attention on a drill (R379, R381). -/
def drillServes (m : Mod) (d : Nat × Nat) : Bool := !drillOos m d.1 d.2 && !hostReserved m d.1 d.2

/-- The drill that covers a cached token, none where the host has reserved it: the face covers the token then (DESIGN CHOICE:
the spec does not say who does). A drill out of service is waited for until its slice has been evacuated (R572). -/
def tokenBy (m : Mod) (p : PkgVer) (s : Slot) (t : Nat) : Option (Nat × Nat) :=
  (tokenDrill m p s t).filter fun d => !hostReserved m d.1 d.2

/-- The drills that cover cached tokens of a chunk, each once (R375). -/
def attnDrills (m : Mod) (p : PkgVer) (s : Slot) : List (Nat × Nat) := ((cachedTokens p s).filterMap (tokenBy m p s)).eraseDups

/-- Whether a query row is one of the chunk in progress. -/
def rowOk (p : PkgVer) (s : Slot) (q : QRow) : Bool := s.chunk != 0 && q.row < (ownTokens p s).length

/-- ATTENTION_PARTIAL (R374, R375): a drill's partial over the cached tokens in its slice, for one query row. A drill that covers no
token returns nothing, and one returns a row's partial once. -/
def attnPartial (m : Mod) (n stack drill : Nat) (q : QRow) (qv : List Word) (hit : Hit) : Mod :=
  match slotOf m n with
  | none => m
  | some s => match slotPkg m s with
    | none => m
    | some p =>
      let mine := (cachedTokens p s).filter fun t => tokenBy m p s t = some (stack, drill)
      if mine.isEmpty || !rowOk p s q || unitsStall m || !drillServes m (stack, drill) ||
         (s.parts.any fun x => x.q = q && x.from' = some (stack, drill)) ||
         (s.state.any fun x => x.q = q && some (stack, drill) ∈ x.taken) then m
      else if hit != .clean then ((cmdOf m s.cmd).map fun c => chunkHit m s c hit).getD m
      else
        let r := partialOver p.pkg.enc.attnScale qv (mine.map (tokenKv m s p.pkg.enc.kvBytes q))
        setSlot m { s with parts := s.parts ++ [⟨q, some (stack, drill), r.1, r.2.1, r.2.2⟩] }

/-- The face's own partial of a query row: over the cached tokens that no drill covers, and the chunk's tokens that the package's
mask lets it attend to (R284, R285). -/
def ownPartial (m : Mod) (p : PkgVer) (s : Slot) (q : QRow) (qv : List Word) : AttnPart :=
  let lo := (s.chunk - 1) * max 1 p.pkg.enc.chunk
  let mine := ((cachedTokens p s).filter fun t => (tokenBy m p s t).isNone) ++
    (ownTokens p s).filter fun t => Config.attends p.pkg.enc.mask q.row (t - lo)
  let r := partialOver p.pkg.enc.attnScale qv (mine.map (tokenKv m s p.pkg.enc.kvBytes q))
  ⟨q, none, r.1, r.2.1, r.2.2⟩

def stateOf (s : Slot) (q : QRow) : AttnState :=
  (s.state.find? fun x => x.q = q).getD ⟨q, [], foldStart.1, foldStart.2.1, foldStart.2.2⟩

/-- A partial folded into its query row's state; the last one gives the row's output, O / L (R286). -/
def foldPart (m : Mod) (p : PkgVer) (s : Slot) (x : AttnPart) : Slot :=
  let st := stateOf s x.q
  let r := fold1 (st.m, st.l, st.o) (x.m, x.l, x.o)
  let st : AttnState := ⟨x.q, x.from' :: st.taken, r.1, r.2.1, r.2.2⟩
  let all := (none :: (attnDrills m p s).map some).all fun k => decide (k ∈ st.taken)
  { s with parts := s.parts.erase x, state := st :: s.state.filter fun y => y.q != x.q
           outs := if all then (x.q, st.o.map fun v => fdiv v st.l) :: s.outs else s.outs }

/-- PARTIAL_FOLD (R286): in order of arrival, a query row's oldest partial that a drill has returned, or the face's own. -/
def partialFoldOp (m : Mod) (n : Nat) (q : QRow) (own : Option (List Word)) : Mod :=
  match slotOf m n with
  | none => m
  | some s => match slotPkg m s with
    | none => m
    | some p =>
      if !rowOk p s q then m
      else match own with
      | some qv => if none ∈ (stateOf s q).taken then m else setSlot m (foldPart m p s (ownPartial m p s q qv))
      | none => match s.parts.find? fun x => x.q = q with
        | none => m
        | some x => setSlot m (foldPart m p s x)

/-! Completion of documents (R289). -/

/-- The document's vector (R289): pooled as the package declares, the mean from an fp32 running sum across chunks in
chunk order, and then normalised where the package says so. -/
def pooled (p : PkgVer) (t draw : Nat) : List Word :=
  let e := p.pkg.enc
  let k := chunksOf p t
  let one (i : Nat) : Word := match e.pooling with
    | 0 => fdiv ((upto k).foldl (fun a j => fadd a (Config.encoded draw j i)) 0#32) (toW (.fin false t 0))
    | 1 => Config.encoded draw 0 i
    | _ => Config.encoded draw (k - 1) i
  let v := (upto e.outDim).map one
  if e.norm then let n := fsqrt (sumSq v); v.map fun x => fdiv x n else v

/-- The bytes of an EMBED vector. -/
def embedBytes (ty : Nat) (v : List Word) : List Byte := padTo 32 (packCodes ty (v.map fun y => (convert ty y .one).1))

/-- DOCUMENT_COMPLETE (R289, R117). -/
def docComplete (m : Mod) (n : Nat) : Mod :=
  match slotOf m n with
  | none => m
  | some s => match slotPkg m s, cmdOf m s.cmd with
    | some p, some c => match c.embed with
      | none => m
      | some w =>
        if s.chunk < chunksOf p s.tokens || !s.parts.isEmpty then m
        else
          let v := pooled p s.tokens m.draws
          let m := { m with draws := m.draws + 1 }
          let m := bump (freeSlot m s) ctlP 0x150
          let bad := match shardOf m (collId c.entry) with
            | some co => opcodeOf c.entry = 0x14 && vecBad true co.ty co.dist v
            | none => false
          if bad || vecBad true 0 0 v then embedFail m c 0x22 s.doc
          else
            let ty := fld c.entry 37 1
            let c := { c with docsDone := c.docsDone + 1, embed := some { w with active := w.active.filter (· != s.doc), vecs := w.vecs ++ [(s.doc, v)] } }
            let m := setCmd m c
            if opcodeOf c.entry = 0x14 then m
            else
              let m := countMarks m (cruP 0) (v.map fun y => (convert ty y .one).2)
              let bs := embedBytes ty v
              let at' := fld c.entry 24 8 + s.doc * bs.length
              writePtr m at' bs
    | _, _ => m

/-- The vector of a document that has completed. -/
def vecOfDoc (w : EmbedW) (i : Nat) : List Word := ((w.vecs.find? fun x => x.1 = i).map (·.2)).getD []

/-- The work of an admitted EMBED: its completion once every vector is written. -/
def embedRun (m : Mod) (cid : Nat) : Mod :=
  match cmdOf m cid with
  | none => m
  | some c => match c.embed with
    | none => m
    | some w =>
      let n := docsN c.entry
      if opcodeOf c.entry != 0x13 || c.docsDone < n then m
      else
        let out := (upto n).flatMap fun i => embedBytes (fld c.entry 37 1) (vecOfDoc w i)
        if outHeld m (fld c.entry 24 8) out.length then m
        else finish m c { status := 0, count := n, crc := (crc32c out).toNat }

/-- The stockpile entries of an EMBED_INSERT, its vectors known (R35, R38, R44, R45). -/
def embedEnts (co : Coll) (c : Cmd) (w : EmbedW) : List SEntry :=
  (upto (docsN c.entry)).map fun i =>
    let (v, nm) := storeVec true co.ty co.dist (vecOfDoc w i)
    ⟨w.pos.getD i 0#32, (docOf c i).key, v, nm, maskAttr w.enable ((docOf c i).attr.getD w.dflt), 0#32, none, true⟩

/-- The work of an admitted EMBED_INSERT: its vectors stored and its record written (R265, R289). -/
def embedInsertRun (m : Mod) (cid : Nat) : Mod :=
  match cmdOf m cid with
  | none => m
  | some c => match c.embed, shardOf m (collId c.entry) with
    | some w, some co =>
      if opcodeOf c.entry != 0x14 || c.docsDone < docsN c.entry || c.lsn.isSome then m
      else
        let es := embedEnts co c w
        let put (x : SEntry) : SEntry := (es.find? fun e => e.pos = x.pos).getD x
        let c := { c with count := es.length }
        record (setCmd (es.foldl (stockWrite co.id) (setColl m { co with stock := co.stock.map put })) c) c (.insert es [] [])
    | _, _ => m

end Sys2Proof.Machine
end

