-- ==== Sys2Proof/Machine/Jobs.lean ====
section
/-! DEFINITION. The work of the remaining commands (chapter 04): FETCH, RUN_FACE, RUN_DRILL, HAUL_HINT, FLUSH, ABORT,
FENCE and MODEL_LOAD, the stop tick of reads, and the drill passes of searches (chapter 11). -/

namespace Sys2Proof.Machine
open Fp

/-! FETCH (R58, R110). -/

/-- The vector that a FETCH sees of a key: its codes, norm, attribute word and write generation. -/
structure Seen where
  inst : Inst
  vec  : List Word
  norm : Word
  attr : BitVec 128
  gen  : Word

def seenNode (s : Segment) (n : Nat) : Option Seen :=
  s.nodes[n]?.map fun x => ⟨.ord (segId s) n, x.vec, x.norm, x.attr, x.wgen⟩

/-- The visible instance of a key in a pinned generation (R51, R53, R54). -/
def seenKey (m : Mod) (c : Coll) (g : Gen) (admTick : Nat) (key : DWord) : Option Seen :=
  let inSeg := g.segs.findSome? fun s => match liveNode c s key with
    | some (.ord _ n) => if mirrorClear m c.id (.ord (segId s) n) then seenNode s n else none
    | _ => none
  inSeg.orElse fun _ => ((visibleStock c g admTick).find? fun e =>
    decide (e.key = key) && !isTomb c (.stock e.pos) && mirrorClear m c.id (.stock e.pos)).map
      fun e => ⟨.stock e.pos, e.vec, e.norm, e.attr, e.wgen⟩

/-- One record of FETCH (R110). -/
def fetchRec (c : Coll) (fp32 : Bool) (key : DWord) (s : Option Seen) : List Byte :=
  let ty := if fp32 then 0 else c.ty
  let zeros := List.replicate c.d 0#32
  let v := match s with
    | some x => if fp32 then expandVec c.ty x.vec else x.vec
    | none => zeros
  toBytes key.toNat 8 ++ toBytes ((s.map (·.gen.toNat)).getD 0) 4 ++
  toBytes (if c.dist = 2 then (s.map (·.norm.toNat)).getD 0 else 0) 4 ++
  toBytes ((s.map (·.attr.toNat)).getD 0) 16 ++ padTo 32 (packCodes ty (v.map (·.toNat)))

/-- The units a drift engine reads for a vector (R448). -/
def countUnits (m : Mod) (c : Coll) (g : Gen) (s : Seen) : Mod :=
  match s.inst with
  | .ord sn n => match segById g sn with
    | none => m
    | some sg =>
      let ch := vecChannel m c sg n
      let us := flashUnits m (vecAddr c sg n) (vecStride c)
      if us.isEmpty then bump m ⟨4, .dft, driftFor m ch⟩ 0x44 else bump m ⟨4, .flc, ch⟩ 0x4C us.length
  | _ => m

/-- The work of an admitted FETCH. It waits until its records can be written, so that they come before its completion (R73). -/
def fetchRun (m : Mod) (cid : Nat) : Mod :=
  match cmdOf m cid with
  | none => m
  | some c => match shardOf m (collId c.entry) with
    | none => m
    | some co => match genOf co c.gen with
      | none => m
      | some g =>
        if opcodeOf c.entry != 0x03 || !c.admitted then m
        else
          let n := fld c.entry 32 2
          let fp32 := fld c.entry 34 1 = 0
          let ks := (upto n).map fun i => c.pl.keys.getD i 0#64
          let seen := ks.map (seenKey m co g c.admTick)
          let hits := seen.filterMap id
          let out := (ks.zip seen).flatMap fun x => fetchRec co fp32 x.1 x.2
          if !outReady m (fld c.entry 24 8) out.length then outClaim m (fld c.entry 24 8) out.length
          else
          let m := hits.foldl (fun m s => countUnits m co g s) m
          finish (writePtr m (fld c.entry 24 8) out) c
            { status := if hits.length = n then 0 else 0x23, count := hits.length, crc := (crc32c out).toNat }

/-! RUN_FACE (R126, R395). -/

/-- The faces a RUN_FACE runs on: the lowest-numbered that are in service and free. -/
def freeFaces (m : Mod) : List Nat :=
  let may (u : UnitId) : Bool := inService m u && mayTake m u 0 0
  ((m.faces.filter fun f => f.cmd.isNone && may (.page (facP f.id)) && may (.page (cruP f.id))).map (·.id))

/-- The local address of an argument block of `n` bytes (R395). -/
def argStart (n : Nat) : Nat := (storeSize - n) / 4096 * 4096

/-! Weights in face-local store (R290, R395), by units of 64 KiB: units 4 to 95 may take them, which leaves the store below to a
program's code and data and the store above to the largest argument block; the largest footprint of a loaded package's programs
stays free. -/

/-- Store units of a face that weights may take. -/
def weightUnits (m : Mod) : List Nat :=
  let f := ((m.pkgs.flatMap fun p => p.pkg.programs).map (·.footprint)).foldl max 0
  (upto (92 - ceilDiv f pageSize)).map (4 + ·)

/-- Store units of a face that hold weights. -/
def heldUnits (ps : List PkgVer) (n : Nat) : List Nat := ((ps.flatMap (·.wface)).filter fun x => x.2.1 = n).map (·.2.2)

/-- A unit of a version's weights. -/
def weightBytes' (p : PkgVer) (i : Nat) : List Byte := (p.pkg.weights.drop (i * pageSize)).take pageSize

/-- What a face's store holds of weights: address and bytes. -/
def faceWeights (m : Mod) (n : Nat) : List (Nat × List Byte) :=
  m.pkgs.flatMap fun p => (p.wface.filter fun x => x.2.1 = n).map fun x => (x.2.2 * pageSize, weightBytes' p x.1)

/-- A face with a program loaded, at its entry state (R395, R401), the weights of its store in their places. -/
def loadFace (f : Face) (cid rank total : Nat) (g : Program) (args : List Byte) (scaleAt pkg : Nat) (ws : List (Nat × List Byte)) : Face :=
  let at' := argStart args.length
  let base := 2 ^ 63 + at'
  let img := (g.code.flatMap fun w => toBytes w.toNat 4) ++ g.data
  let x (i : Nat) : Nat := match i with
    | 1 => base
    | 2 => args.length
    | 3 => rank
    | 4 => total
    | 5 => scaleAt
    | 6 => pkg
    | 30 => base
    | _ => 0
  { f with st := 1, cmd := some cid, rank := rank, prog := g.index, codeLen := 4 * g.code.length
           pc := g.entry, x := (upto 32).map fun i => BitVec.ofNat 64 (x i), v := [], mask := []
           store := cellsSet (cellsSet (ws.foldl (fun c x => cellsSet c x.1 x.2) f.store) 0 img) at' args, used := ceilDiv (img.length + g.footprint) pageSize
           acc := [accZero, accZero], wait := none, xfers := [], skews := 0, outb := [], pstats := [], rpend := [], gpend := []
           doomed := false }

/-- The bytes of a command's argument block. -/
def argBytes (c : Cmd) : List Byte := (upto (fld c.entry 32 4)).map fun i => c.pl.args.getD i 0#8

/-- The work of an admitted RUN_FACE: its program starts once enough faces are free. -/
def runFaceStart (m : Mod) (cid : Nat) : Mod :=
  match cmdOf m cid with
  | none => m
  | some c => match c.run, pkgOf m c (fld c.entry 16 2) with
    | some w, some p => match faceProgram p (fld c.entry 18 2) with
      | none => m
      | some g =>
        let n := fld c.entry 20 2
        let fs := (freeFaces m).take n
        if w.started || opcodeOf c.entry != 0x40 || fs.length < n then m
        else match allocModule m 0 none with
        | none => m
        | some (pg, m) =>
          let at' := pg * pageSize
          let m := writeBytes m at' (p.pkg.scales.flatMap entryBytes)
          let m := (fs.zip (upto n)).foldl (fun m x => match faceOf m x.1 with
            | none => m
            | some f =>
              let m := placed (placed m (.page (facP x.1))) (.page (cruP x.1))
              let m := setRegN (setRegN m (facP x.1) 0x68 0) (facP x.1) 0x6C 0
              snapFace (setFace m (loadFace f cid x.2 n g (argBytes c) at' p.id (faceWeights m x.1))) x.1) m
          setCmd m { c with run := some ⟨true, fs.map .face, [], p.pkg.scales, [], [], at'⟩ }
    | _, _ => m

/-! RUN_DRILL (R126, R351, R354, R380). -/

/-- The drills of a stack that the module may start: the lowest-numbered not out of service and not reserved. -/
def moduleDrills (m : Mod) (s n : Nat) : List (Nat × Nat) :=
  (((m.drills.filter fun d => d.stack = s && !drillOos m s d.n && !hostReserved m s d.n).map fun d => (s, d.n))).take n

/-- A drill's region and argument words as a RUN_DRILL declares them. -/
def declare (d : Drill) (c : Cmd) (g : Program) : Drill :=
  let base := fld c.entry 36 8 % 2 ^ 46
  let len := fld c.entry 44 8
  let args := argBytes c
  let arg (i : Nat) : Nat := ofBytes ((args.drop (4 * i)).take 4)
  let d := (upto 16).foldl (fun d i => setArea d (0x10 + 4 * i) (arg i)) d
  let d := setArea (setArea d 0x50 (base % 2 ^ 32)) 0x54 (base / 2 ^ 32)
  setArea (setArea (setArea d 0x58 (len % 2 ^ 32)) 0x5C (len / 2 ^ 32)) 0 (0x1000 + g.entry)

/-- The work of an admitted RUN_DRILL: its program is loaded and its runs start once the drills are ready. -/
def runDrillStart (m : Mod) (cid : Nat) : Mod :=
  match cmdOf m cid with
  | none => m
  | some c => match c.run, pkgOf m c (fld c.entry 16 2) with
    | some w, some p => match drillProgram p (fld c.entry 18 2) with
      | none => m
      | some g =>
        let ss := (upto 8).filter fun s => bitAt (fld c.entry 20 1) s
        let ds := ss.flatMap fun s => moduleDrills m s (fld c.entry 22 2)
        let free := ds.all fun x => (drillOf m x.1 x.2).any fun d => d.ready && d.cmd.isNone
        if w.started || opcodeOf c.entry != 0x41 || !free || ds.length < ss.length * fld c.entry 22 2 then m
        else
          let m := setCmd m { c with run := some ⟨true, ds.map fun x => .drill x.1 x.2, [], [], [], [], 0⟩ }
          ds.foldl (fun m x => match drillOf m x.1 x.2 with
            | none => m
            | some d => doorbellOk m { declare (loadDrill d p g) c g with cmd := some cid }) m
    | _, _ => m

/-! HAUL_HINT and FLUSH (R127, R128). -/

/-- The pages a HAUL_HINT names. -/
def hintPages (e : BitVec 512) : List Nat := (upto (fld e 24 4)).map fun i => pageNo (fld e 16 8 % 2 ^ 46) + i

/-- One page of a HAUL_HINT: pinned, unpinned, noted for its first write, or moved if it can be. Where the entry sets both pin
and unpin, it pins (DESIGN CHOICE: R127 does not say which wins). -/
def hintPage (c : Cmd) (m : Mod) (pg : Nat) : Mod :=
  let bench := fld c.entry 28 1
  let fl := fld c.entry 29 1
  match pageEnt m pg with
  | none => if inHostWin (pg * pageSize) && fl = 0 then
      { m with mem := { m.mem with hint := (pg, bench) :: m.mem.hint.filter fun h => h.1 != pg } } else m
  | some e =>
    if fl != 0 then setEnt m { e with pin := bitAt fl 0 }
    else if e.bench = bench || !mayMove m e 4 then m
    else match pickLoc m bench none with
    | none => m
    | some l => addMove m (newMove e 4 bench l (isTablePage m pg) (some c.id))

/-- The work of an admitted HAUL_HINT. -/
def hintRun (m : Mod) (cid : Nat) : Mod :=
  match cmdOf m cid with
  | none => m
  | some c =>
    if opcodeOf c.entry != 0x50 || !c.admitted then m
    else match c.left with
    | pg :: rest => if (pageEnt m pg).all (moveRoom m) then hintPage c (setCmd m { c with left := rest }) pg else m
    | [] => if m.mem.moves.any fun v => v.cmd = some cid && !v.done then m
      else finish m c { status := 0, info := c.info }

/-- The write-buffer entries that overlap a FLUSH's range. -/
def flushSet (m : Mod) (e : BitVec 512) : List Nat :=
  let a := fld e 16 8 % 2 ^ 46
  let n := fld e 24 8
  (m.mem.wb.filter fun w => n = 0 || w.gran.any fun g =>
    let at' := w.unit * 4096 + g.1 * 32
    decide (at' < a + n ∧ a < at' + 32)).map (·.seq)

/-- The work of an admitted FLUSH: it completes once what it waits for is programmed. -/
def flushRun (m : Mod) (cid : Nat) : Mod :=
  match cmdOf m cid with
  | none => m
  | some c =>
    if opcodeOf c.entry != 0x51 || !c.admitted then m
    else if m.mem.wb.any fun w => w.seq ∈ c.left then m else finish m c { status := 0 }

/-! FENCE and ABORT (R92, R129). -/

def fenceRun (m : Mod) (cid : Nat) : Mod :=
  match cmdOf m cid with
  | none => m
  | some c =>
    if opcodeOf c.entry != 0x61 || !c.admitted then m
    else if m.cmds.any fun x => x.admitted && x.chute.isSome && decide (x.seq < c.seq) then m
    else finish m c { status := 0 }

/-- The reads that ABORT and a stop tick stop. -/
def stoppable (op : Nat) : Bool := op ∈ [0x01, 0x03, 0x13, 0x30, 0x40, 0x41]

/-- One command stopped with a status. -/
def stopCmd (m : Mod) (c : Cmd) (status info : Nat) : Mod :=
  match opcodeOf c.entry with
  | 0x13 => embedFail m c status info
  | 0x40 | 0x41 => cmdStop m c.id 0xF3 status info
  | _ => finishBad m c status info

/-- The work of an admitted command ended with a status, what it had begun undone; a program of its units exits with a code. -/
def workEnd (m : Mod) (c : Cmd) (status exit : Nat) : Mod :=
  match opcodeOf c.entry with
  | 0x13 | 0x14 => embedFail m c status 0
  | 0x20 => finishBad (closeStep m c) c status 0
  | 0x21 => match c.build, shardOf m (collId c.entry) with
    | some b, some co => buildFail m c co b status 0
    | _, _ => finishBad m c status 0
  | 0x31 => finishBad (updateUndo m c) c status 0
  | 0x40 | 0x41 => cmdStop m c.id exit status 0
  | _ => finishBad m c status 0

def abortTargets (m : Mod) (c : Cmd) : List Cmd :=
  let e := c.entry
  m.cmds.filter fun x => x.id != c.id && x.chute = some (fld e 16 2) &&
    (bitAt (fld e 18 1) 0 || cmdTag x.entry = fld e 20 4) && (!x.admitted || stoppable (opcodeOf x.entry))

/-- ABORT at its admission. -/
def abortAdmit (m : Mod) (c : Cmd) : Mod :=
  let ts := abortTargets m c
  let m := ts.foldl (fun m t => if t.admitted then stopCmd m t 0x12 2 else finishBad m t 0x12 2) m
  finish m c { status := 0, count := ts.length }

/-- STOP_TICK (R86). -/
def stopTickOp (m : Mod) (cid : Nat) : Mod :=
  match cmdOf m cid with
  | none => m
  | some c => if c.admitted && stopped m c && stoppable (opcodeOf c.entry) && opcodeOf c.entry != 0x01
    then stopCmd m c 0x11 0 else m

/-! MODEL_LOAD (R131, R263, R350, R394, R588). -/

/-- Whether a package is signed by a key that the life-cycle state accepts. -/
def keyAccepted (m : Mod) (h : BitVec 256) : Bool :=
  if m.sec.lc = 0 then h = Config.vendorRoot
  else (upto 4).any fun i => !(i ∈ m.sec.revoked) && m.sec.owners.getD i 0#256 != 0#256 && m.sec.owners.getD i 0#256 = h

/-- Whether a program header breaks Table IS-10, or the program its bounds. -/
def programBad (g : Program) : Bool :=
  let code := 4 * g.code.length
  !(g.kind = 1 || g.kind = 2) || 1 < g.flags || 4095 < g.index || g.entry % 4 != 0 || code ≤ g.entry || !g.resv ||
  (g.kind = 1 && 262144 < code + g.data.length) ||
  (g.kind = 2 && (g.footprint != 0 || 12288 < code || 16384 < g.data.length))

/-- Pages for a table, page `p` on die `p mod 4`; none if the benches have no room. -/
def tablePages : Nat → Nat → Mod → Option (List Nat × Mod)
  | 0, _, m => some ([], m)
  | k + 1, p, m => match allocModule m 1 (some (p % 4)) with
    | none => none
    | some (pg, m) => (tablePages k (p + 1) m).map fun r => (pg :: r.1, r.2)

def tablesPages : List TableDesc → Mod → Option (List (List Nat) × Mod)
  | [], m => some ([], m)
  | t :: ts, m => match tablePages (ceilDiv t.rows.length (rowsPerPage t)) 0 m with
    | none => none
    | some (ps, m) => (tablesPages ts m).map fun r => (ps :: r.1, r.2)

/-- A table's rows written to their pages. -/
def writeTable (p : PkgVer) (tno : Nat) (t : TableDesc) (m : Mod) : Mod :=
  (upto t.rows.length).foldl (fun m r => writeBytes m (rowAddr p tno r) (rowBytes t r)) m

/-- The face with the most free store for weights, the lowest-numbered on a tie, and its lowest free unit (DESIGN CHOICE: R290
gives no order). -/
def pickStore (us : List Nat) (ps : List PkgVer) : Option (Nat × Nat) :=
  let free (n : Nat) : Nat := us.length - (heldUnits ps n).length
  let best := (upto 128).foldl (fun b n => if free b < free n then n else b) 0
  (us.find? fun u => !(u ∈ heldUnits ps best)).map fun u => (best, u)

/-- Units of a version's weights placed in free face-local store, as many as fit. -/
def storeWeights (us : List Nat) (others : List PkgVer) : PkgVer → List Nat → PkgVer
  | p, [] => p
  | p, i :: is => match pickStore us (p :: others) with
    | none => p
    | some (n, u) => storeWeights us others { p with wface := p.wface ++ [(i, n, u)] } is

/-- Units of a version's weights placed in bench 1, none if it has no room. -/
def benchWeights : PkgVer → List Nat → Mod → Option (PkgVer × Mod)
  | p, [], m => some (p, m)
  | p, i :: is, m => match allocModule m 1 none with
    | none => none
    | some (pg, m) => benchWeights { p with wpage := p.wpage ++ [(i, pg)] } is (writeBytes m (pg * pageSize) (weightBytes' p i))

/-- The units of a version's weights that are in no face's store. -/
def looseUnits (p : PkgVer) : List Nat :=
  (upto (ceilDiv p.pkg.weights.length pageSize)).filter fun i => !(p.wface.any fun x => x.1 = i)

/-- The weights of a version that no older version of its package holds back move into face-local store (R290); the bench 1 pages
of those that moved are freed. -/
def moveWeights (m : Mod) (p : PkgVer) : Mod :=
  if p.wpage.isEmpty || m.pkgs.any (fun q => q.id = p.id && q.ver < p.ver) then m
  else
    let others := m.pkgs.filter fun q => !(q.id = p.id && q.ver = p.ver)
    let q := storeWeights (weightUnits m) others p (p.wpage.map (·.1))
    let gone := q.wpage.filter fun x => q.wface.any fun y => y.1 = x.1
    let q := { q with wpage := q.wpage.filter fun x => !(x ∈ gone) }
    let m := { m with pkgs := mapIf (fun x => x.id = p.id && x.ver = p.ver) (fun _ => q) m.pkgs }
    (gone.map (·.2)).foldl dropPage m

/-- The weights of a version being loaded placed (R290): while an older version is there, all in bench 1. -/
def placeWeights (m : Mod) (p : PkgVer) : Option (PkgVer × Mod) :=
  let p := if m.pkgs.any fun q => q.id = p.id then p
    else storeWeights (weightUnits { m with pkgs := p :: m.pkgs }) m.pkgs p (looseUnits p)
  benchWeights p (looseUnits p) m

/-- The version number after every version of a package. -/
def nextVer (m : Mod) (id : Nat) : Nat := (m.pkgs.filter fun p => p.id = id).foldl (fun v p => max v p.ver) 0 + 1

/-- The work of an admitted MODEL_LOAD: the package verified, its tables placed, its images and record written. -/
def modelRun (m : Mod) (cid : Nat) : Mod :=
  match cmdOf m cid with
  | none => m
  | some c =>
    if opcodeOf c.entry != 0x73 || !c.admitted || c.lsn.isSome then m
    else match c.pl.pkg with
    | none => finishBad m c 0x20 (badAt 16 0xFFFFFE)
    | some k =>
      let id := fld c.entry 28 2
      if !(k.sigOk && keyAccepted m k.keyHash) then finishBad m c 0x20 (badAt 16 0xFFFFFE)
      else match findIdx' programBad k.programs with
      | some i => finishBad m c 0x20 (badAt 16 i)
      | none =>
      if (pkgCur m id).isSome && !bitAt (fld c.entry 30 1) 0 then finishBad m c 0x20 (badAt 28)
      else
        let m0 := m
        match tablesPages k.tables m with
        | none => m0
        | some (ps, m) =>
          let ver := nextVer m id
          match placeWeights m ⟨id, ver, k, false, ps.map fun l => l.headD 0, ps.flatten, ver, [], []⟩ with
          | none => m0
          | some (p, m) =>
          let m := { m with pkgs := m.pkgs ++ [p] }
          let m := ((upto k.tables.length).zip k.tables).foldl (fun m x => writeTable p x.1 x.2 m) m
          let m := imagePages m ps.flatten
          let m := ps.flatten.foldl (fun m pg => match pageEnt m pg with
            | some e => setEnt m { e with image := true }
            | none => m) m
          let (m, l) := addRecord m (some c) 0 0x73 (.model id ver k)
          setCmd m { c with lsn := some l, count := 0 }

/-- A training step of a running program writes its working scale set, and its adapters where `w` gives bytes, as a new version of
its package, which one ledger record makes current (R293, R312). Tables and unchanged weights are the old version's. -/
def keepRun (m : Mod) (cid : Nat) (w : List Byte) : Mod :=
  match cmdOf m cid with
  | none => m
  | some c => match c.run, pkgOf m c (fld c.entry 16 2) with
    | some r, some p =>
      if !r.started || r.cores.isEmpty then m
      else
        let k := { p.pkg with scales := r.scales, weights := if w.isEmpty then p.pkg.weights else w }
        let q : PkgVer := { p with ver := nextVer m p.id, pkg := k, cur := false }
        match (if w.isEmpty then some (q, m) else placeWeights m { q with wface := [], wpage := [] }) with
        | none => m
        | some (q, m) => (addRecord { m with pkgs := m.pkgs ++ [q] } none 0 0x40 (.model q.id q.ver k)).1
    | _, _ => m

/-- A version made current (R263). -/
def makeCurrent (m : Mod) (id ver : Nat) : Mod :=
  { m with pkgs := mapIf (fun p => p.id = id) (fun p => { p with cur := decide (p.ver = ver) }) m.pkgs }

/-- Whether an admitted command has pinned a package version. -/
def pkgPinned (m : Mod) (p : PkgVer) : Bool :=
  m.cmds.any fun c => c.admitted && c.pkgVer = some p.ver && (match pkgField (opcodeOf c.entry) with
    | some o => decide (fld c.entry o 2 = p.id)
    | none => false)
/-- Package versions that a later one has replaced and that nothing pins are freed (R263), with the pages that no other version
shares; weights that they held back move into face-local store (R290). -/
def sweepPkgs (m : Mod) : Mod :=
  let gone := m.pkgs.filter fun p => !p.cur && !pkgPinned m p && m.pkgs.any fun q => q.id = p.id && q.cur && decide (p.ver < q.ver)
  if gone.isEmpty then m
  else
    let left := m.pkgs.filter fun p => !(p ∈ gone)
    let pgs := (gone.flatMap (·.pages)).eraseDups.filter fun pg => !(left.any fun p => decide (pg ∈ p.pages))
    let ws := (gone.flatMap fun p => p.wpage.map (·.2)).eraseDups.filter fun pg => !(left.any fun p => p.wpage.any fun x => x.2 = pg)
    let m := ws.foldl dropPage (pgs.foldl releasePage { m with pkgs := left })
    (left.filter fun p => gone.any fun q => q.id = p.id).foldl moveWeights m

/-! Walks. -/

/-- A walk's read at a device address, of a node's data, meets an uncorrectable error: the search ends, the segment is degraded,
and the walker's log holds the ordinal (R153, R421). -/
def walkHurt (m : Mod) (x : WalkCtx) (h : Nat × Nat) : Mod :=
  let m := logErr (eccEvent m h.1 .uncorrectable) ⟨x.w.die, .wlk, x.w.inst⟩ 0x02 (x.sg.no * 2 ^ 32 + h.2)
  finishBad (markSeg m (collId x.cmd.entry) x.sg.no true) x.cmd 0x30 0

/-- WALK_START; `hurt` names an uncorrectable granule that it reads: its device address, and the node whose data it holds. -/
def walkStartOp (m : Mod) (cid seg : Nat) (hurt : Option (Nat × Nat)) : Mod :=
  match walkCtx m cid seg, hurt with
  | some x, some h =>
    let w := onWalker m x.w
    if mayStart m x w then walkHurt m { x with w := w } h else m
  | _, _ => walkStart m cid seg

/-- WALK_EXPANSION, with `hurt` as for WALK_START. -/
def walkExpansion (m : Mod) (cid seg : Nat) (hurt : Option (Nat × Nat)) : Mod :=
  match walkCtx m cid seg, hurt with
  | some x, some h => if x.w.st = 1 && !x.sg.degraded then walkHurt m x h else m
  | _, _ => walkExpand m cid seg

/-! Drill passes of searches (R369 to R373). -/

/-- Whether the module may give a drill work. -/
def drillFree (m : Mod) (s n : Nat) : Bool :=
  !unitsStall m && !drillOos m s n && !hostReserved m s n && (drillOf m s n).any fun d => d.ready

/-- The most searches of a stockpile scan pass. -/
def passSize (d l : Nat) : Nat := max 1 (min 8 (24576 / (4 * d + 24 * l)))

/-- The searches of a pass whose drill met an uncorrectable error (R363, R421). -/
def scanHurt (m : Mod) (ids : List Nat) : Mod :=
  ids.foldl (fun m id => match cmdOf m id with
    | some c => finishBad m c 0x30 0
    | none => m) m

/-- The positions whose entries lie in a drill's slice. An entry that bench 1 had no room for is with any drill, and one in the
slice of a host-reserved drill with any drill of its stack (DESIGN CHOICE: R379 has such scans go on at a lower rate). -/
def sliceStock (m : Mod) (co : Coll) (stack drill : Nat) (l : List Word) : List Word :=
  l.filter fun p => ((stockAddr co p).bind (sliceOf m)).all fun x =>
    decide (x = (stack, drill)) || (x.1 = stack && hostReserved m x.1 x.2)

/-- STOCKPILE_SCAN_PASS (R369 to R371). -/
def stockScan (m : Mod) (coll stack drill : Nat) (slice : List Nat) (last hurt : Bool) : Mod :=
  match shardOf m coll with
  | none => m
  | some co =>
    if !drillFree m stack drill then m
    else
      let first := batchOf m coll 1 fun s => s.scan = 1
      let l := ((first.head?.bind (cmdOf m)).bind (·.search)).map fun s => s.k + 16
      let ids := batchOf m coll (passSize co.d (l.getD 0)) fun s => s.scan = 1
      if hurt then scanHurt m ids else ids.foldl (scanOne coll (.drill stack drill) (sliceStock m co stack drill (slice.map (BitVec.ofNat 32))) last) m

/-- The searches of a flat scan pass: one generation, as many as the scan table store holds. -/
def flatBatch (m : Mod) (coll seg : Nat) : List Nat :=
  let all := batchOf m coll m.cmds.length fun s => decide (seg ∈ s.flats)
  match all.head?.bind (cmdOf m) with
  | none => []
  | some c0 =>
    let mm := (((shardOf m coll).bind fun co => genOf co c0.gen).bind fun g => segOf g seg).map (·.m)
    let room := tabSize / (max 1 (mm.getD 1) * 512)
    (all.filter fun id => (cmdOf m id).any fun c => c.gen = c0.gen).take (min 8 room)

/-- The distance tables of a pass written to the scan table stores of the segment's die (R372, R373). -/
def writeTables (m : Mod) (co : Coll) (sg : Segment) (ids : List Nat) : Mod :=
  let tabs := (ids.filterMap fun id => (cmdOf m id).bind (·.search)).map fun sw => (buildTable co.dist co.d sg.m sw.query sg.book).1
  let bytes := tabs.flatMap fun t => t.flatMap fun r => r.flatMap fun w => toBytes w 2
  let put (s : Nat) : Nat × List Host.Cell := (s, cellsSet (tabStore m s) 0 bytes)
  { m with scanTab := [put (2 * sg.die), put (2 * sg.die + 1)] ++ m.scanTab.filter fun t => t.1 / 2 != sg.die }

/-- FLAT_SCAN_PASS (R171, R172, R372). -/
def flatScan (m : Mod) (coll seg : Nat) (hurt : Bool) : Mod :=
  let ids := flatBatch m coll seg
  match ids.head?.bind (cmdOf m), shardOf m coll with
  | some c0, some co => match (genOf co c0.gen).bind (segOf · seg) with
    | none => m
    | some sg =>
      if sg.degraded || unitsStall m || homing m sg then m
      else if hurt then markSeg (scanHurt m ids) coll seg true
      else ids.foldl (flatOne coll seg) (writeTables m co sg ids)
  | _, _ => m

end Sys2Proof.Machine
end

