-- ==== Sys2Proof/Machine/LedgerProg.lean ====
section
/-! DEFINITION. The ledger's groups programmed or failed, what each record then completes (R88, R514, R515), the
publish slot (R508, slot 6), and shards and images as replay rebuilds them (R446, R524). -/

namespace Sys2Proof.Machine

/-- Whether a reset is in progress: commands no longer complete (R508, R523). -/
def resetting (m : Mod) : Bool := m.sys.rst != 0

/-- The completion of a record's command with what the command holds. -/
def finishRec (m : Mod) (r : LRec) : Mod :=
  match r.cmd.bind (cmdOf m) with
  | some c => if c.lsn = some r.lsn then finish m c { status := 0, count := c.count, info := c.info } else m
  | none => m

/-- A merge step's publish durable: its last step completes the job (R245). -/
def stepDurable (m : Mod) (r : LRec) (p : PubRec) : Mod :=
  match r.cmd.bind (cmdOf m) with
  | none => m
  | some c => match c.merge with
    | none => m
    | some w => match shardOf m r.coll with
      | none => m
      | some co =>
        if !lastStep m co w p then m
        else finish (setColl m { co with mergeEnd := some (now m) }) c { status := 0, info := p.gen.no }

/-- A build that is durable keeps no checkpoint. -/
def dropCkpts (m : Mod) (r : LRec) : Mod :=
  match (r.cmd.bind (cmdOf m)).bind (·.build) with
  | some b => (b.ckpts ++ b.prev).foldl releasePage m
  | none => m

/-- What a record's programming does beside its shard (R583, Table TL-4). -/
def progMod (m : Mod) (r : LRec) : Mod :=
  match r.redo with
  | .publish p => if p.step then stepDurable m r p else finishRec m r
  | .built _ => finishRec (dropCkpts m r) r
  | .firmware s => if resetting m then m else
      aditSend (sendIbi (alert { m with
        sec := { m.sec with active := s, trial := true, reverted := false, pendAct := none }, mgt := { m.mgt with update := none } } 3) 0x01#8)
        (.pldm 0x51A [0#8])
  | _ => finishRec m r

/-- One record counts as programmed. -/
def progRecord (m : Mod) (lsn : Nat) : Mod :=
  match recordOf m lsn with
  | none => m
  | some r =>
    let m := setRecord m { r with prog := some (now m) }
    let m := { m with ledger := { m.ledger with last := max m.ledger.last lsn } }
    let m := if regN m ldgP 0x54 < now m - r.tick then setRegN m ldgP 0x54 (min (now m - r.tick) 0xFFFFFFFF) else m
    let m := match shardOf m r.coll with
      | some c => setColl m (progColl c r.redo (now m))
      | none => m
    progMod m r

/-- Records whose last group, and every earlier one, is programmed count as programmed, in lsn order (R514). -/
def progReady (m : Mod) : Mod :=
  let n := progPrefix m.ledger
  let rs := m.ledger.records.filter fun r => r.prog.isNone && (match r.group with | some g => decide (g < n) | none => false)
  (sortBy (fun a b => decide (a < b)) (rs.map (·.lsn))).foldl progRecord m

/-- The data units that a group's two copies program: its header and its records, on the two channels of its pair (R445, R513). -/
def countGroup (m : Mod) (g : Group) : Mod :=
  let n := ceilDiv (g.size + 32) 4096
  bump (bump m ⟨4, .flc, g.ch⟩ 0x50 n) ⟨4, .flc, (g.ch + 16) % 32⟩ 0x50 n

/-- The data units of a group's two copies written to the ledger zone, each encrypted under its own block sequence number (R445, R449). -/
def zoneCopies (m : Mod) (g : Group) : Mod :=
  let n := ceilDiv (g.size + 32) 4096
  let l := m.ledger
  let us := (upto (2 * n)).map fun i => encipher m (ledgerTweak (l.zoneSeq + i)) (Config.groupUnit g.no (i % n))
  { m with ledger := { l with zone := l.zone ++ us, zoneSeq := l.zoneSeq + 2 * n } }

/-- GROUP_PROGRAMMED (R514, R517): ring space is freed, and waiting records enter. -/
def groupProgrammedOp (m : Mod) (g : Nat) : Mod :=
  if m.ledger.groups.any fun x => x.no = g && x.sent && !x.prog then
    let gs := mapIf (fun x => x.no = g) (fun x => { x with prog := true }) m.ledger.groups
    let m := bump { m with ledger := { m.ledger with groups := gs } } ldgP 0x50
    let m := (m.ledger.groups.filter fun x => x.no = g).foldl (fun m x => zoneCopies (countGroup m x) x) m
    enterRing 256 (progReady m)
  else m

/-- GROUP_PROGRAM_FAIL (R515): the group goes to the next healthy pair. -/
def groupFailOp (m : Mod) (g : Nat) : Mod :=
  let f (x : Group) : Group := { x with ch := healthyPair (badChannels m) ((x.ch + 1) % 32) }
  { m with ledger := { m.ledger with groups := mapIf (fun x => x.no = g && x.sent && !x.prog) f m.ledger.groups } }

/-! The publish slot (R508, R258). -/

/-- Versioning records. -/
def versioning : Redo → Bool
  | .publish _ | .create _ | .drop | .schema _ _ _ _ | .model _ _ _ | .retire _ => true
  | _ => false

/-- One versioning record applied. -/
def applyVersion (m : Mod) (lsn : Nat) : Mod :=
  match recordOf m lsn with
  | none => m
  | some r =>
    let m := setRecord m { r with applied := true }
    match r.redo with
    | .model id v _ => makeCurrent m id v
    | x => applyRecord m r.coll x

/-- GENERATION_PUBLISH: the versioning records programmed in an earlier tick, in lsn order. -/
def publishSlot (m : Mod) : Mod :=
  if resetting m then m
  else
    let rs := m.ledger.records.filter fun r => versioning r.redo && !r.applied &&
      (match r.prog with | some t => decide (t < now m) | none => false)
    sweepPkgs (sweepGens ((sortBy (fun a b => decide (a < b)) (rs.map (·.lsn))).foldl applyVersion m))

/-! Shards rebuilt from records (R524, R663). -/

/-- Entries of a record that are not in the stockpile yet. -/
def missingEnts (c : Coll) (es : List SEntry) : List SEntry := es.filter fun e => (entryAt c e.pos).isNone

/-- The tail past every position of a list of entries. -/
def tailPast (t : Word) (es : List SEntry) : Word :=
  es.foldl (fun t e => if posLt t (e.pos + 1#32) then e.pos + 1#32 else t) t

/-- Whether an instance that a record names is in the shard that replay rebuilds: an ordinal that only an unpublished step had
given is not. -/
def known (c : Coll) : Inst → Bool
  | .ord s n => (c.gens.flatMap (·.segs) ++ c.built).any fun x => segId x = s && decide (n < x.nodes.length)
  | _ => true

/-- One record applied to a shard at replay: its admission effects, its programming and its application. -/
def replayColl (co : Option Coll) (r : LRec) : Option Coll :=
  let tick := r.prog.getD 0
  let go (c : Coll) : Coll :=
    let c := match r.redo with
      | .insert es old _ => (old.filter (known c)).foldl tombColl { c with stock := c.stock ++ missingEnts c es, tail := tailPast c.tail es }
      | .delete _ old _ => (old.filter (known c)).foldl tombColl c
      | _ => c
    let c := applyColl (progColl c r.redo tick) r.redo (tick + 1)
    if r.counted then { c with hist := c.recount.getD c.hist, recount := none } else c
  match r.redo, co with
  | .create e, _ => some (go (newColl r.coll r.lsn e))
  | _, c => c.map go

/-- The programmed records of a collection above an lsn, in lsn order. -/
def collRecords (l : Ledger) (coll lsn : Nat) : List LRec :=
  sortBy (fun a b => decide (a.lsn < b.lsn)) (l.records.filter fun r => r.coll = coll && r.prog.isSome && decide (lsn < r.lsn))

def imageOf (l : Ledger) (coll : Nat) : ShardImage := (l.images.find? fun i => i.coll = coll).getD ⟨coll, 0, none⟩

/-- A shard as its image and the records above the image's mark leave it. -/
def shardFrom (l : Ledger) (coll : Nat) : Option Coll :=
  let i := imageOf l coll
  (collRecords l coll i.lsn).foldl replayColl i.val

/-! Image refresh (R446). -/

/-- An image mark put in the ledger. -/
def setImage (m : Mod) (i : ShardImage) : Mod :=
  let m := { m with ledger := { m.ledger with images := i :: m.ledger.images.filter fun x => x.coll != i.coll } }
  (addRecord m none i.coll 0 (.image i.coll i.lsn)).1

/-- Images of every table page, as the durable updates leave them: a page's contents with them alone are imaged, and the page goes
on as it is. -/
def refreshTables (m : Mod) : Mod :=
  let all := m.pkgs.flatMap fun p => p.pages.map fun pg => (p, pg)
  let done := imagePages (all.foldl (fun m x => restorePage m [] x.1 x.2) m) (all.map (·.2)).eraseDups
  { m with regs := done.regs, mem := { m.mem with groups := done.mem.groups, rot := done.mem.rot, nextPage := done.mem.nextPage } }

/-- IMAGE_REFRESH: a shard's images (0: those of table pages) brought up to the last programmed record. It draws BULK credit, and
waits for it (R446, R541). -/
def imageRefreshOp (m : Mod) (coll : Nat) : Mod :=
  let last := m.ledger.last
  let fresh := last ≤ (imageOf m.ledger coll).lsn || (coll != 0 && (shardOf m coll).isNone)
  if resetting m || fresh || !bulkMay m 0#512 then m else
  let m := draw m 3 3 (stepCostOf 0#512)
  if coll = 0 then setImage (refreshTables m) ⟨0, last, none⟩
  else setImage m ⟨coll, last, shardFrom m.ledger coll⟩

end Sys2Proof.Machine
end

