-- ==== Sys2Proof/Machine/LinkOps.lean ====
section
/-! DEFINITION. The link layer of the Velom link and of the fabric ports: flits, replay, credits, training states and
recovery (R455 to R458, R471 to R478, R491, R659). -/

namespace Sys2Proof.Machine

/-! One record for both kinds of link. -/

def linkDown : LinkRec := ⟨0, 0, 0, 0, 0, [], 0, [0, 0, 0], 0, none, 0, 0, 0, none⟩

def linkOf (m : Mod) : Lnk → Option LinkRec
  | .velom => some m.velom.link
  | .port n => (portOf m n).map (·.link)

def setLink (m : Mod) (l : Lnk) (r : LinkRec) : Mod :=
  match l with
  | .velom => { m with velom := { m.velom with link := r } }
  | .port n => match portOf m n with
    | some p => setPort m { p with link := r }
    | none => m

def linkPage : Lnk → Page
  | .velom => vlkP
  | .port n => portP n

/-- What waits for a link sent as far as it goes. -/
def linkFlush (m : Mod) : Lnk → Mod
  | .velom => flushHeld m
  | .port n => portFlush m n

/-- The port field of a link's error records (Table RP-9, code 0x05). -/
def linkNo : Lnk → Nat
  | .velom => 15
  | .port n => n

def countCrc (m : Mod) (l : Lnk) : Mod := match l with
  | .velom => bump m vlkP 0x4C
  | .port n => bump m (portP n) 0x50
def countReplay (m : Mod) (l : Lnk) : Mod := match l with
  | .velom => bump m vlkP 0x50
  | .port n => bump m (portP n) 0x54

/-! Loss of a port (R491). -/

/-- FAB_PORT_NEIGH. -/
def neighWord (m : Mod) (p : Port) : Nat :=
  let ok := match p.heard with | some t => decide (now m < t + 3) | none => false
  bN ok * 2 ^ 31 + bN p.nbOk * 2 ^ 30 + p.nbPort * 2 ^ 16 + p.nbNode

/-- A port drops out of forwarding, and the master is told. -/
def losePort (m : Mod) (n : Nat) : Mod :=
  match portOf m n with
  | none => m
  | some p =>
    if !p.up then m
    else
      let w := neighWord m p
      let m := setPort m { p with up := false, fwd := false, told := false, heard := none, queue := [] }
      notice (bump m (portP n) 0x58) 1 n w

/-! Recovery (R472, R473, R476). -/

/-- A link leaves ACTIVE for RECOVERY; `wide` asks for every lane again. -/
def enterRecovery (m : Mod) (l : Lnk) (wide : Bool) : Mod :=
  match linkOf m l with
  | none => m
  | some r =>
    if r.st != 3 then m
    else
      let r := { r with st := 4, since := now m, out := some (r.out.getD (now m)), repeats := 0, width := if wide then 0 else r.width }
      let m := setLink m l r
      match l with
      | .velom =>
        let m := bump m vlkP 0x54
        { m with velom := { m.velom with ctl := getReg m vlkP 0x40 } }
      | .port n => losePort m n

/-- A protocol error (R473). -/
def protocolError (m : Mod) (l : Lnk) (op tag : Nat) : Mod :=
  enterRecovery (logErr m (linkPage l) 0x12 (op % 256 + tag % 65536 * 256)) l false

def recoveryOp (m : Mod) (l : Lnk) (protocol : Bool) (op : Byte) (tag : BitVec 16) : Mod :=
  match linkOf m l with
  | some r => if r.st != 3 then m else if protocol then protocolError m l op.toNat tag.toNat else enterRecovery m l false
  | none => m

/-- Replay buffers, sequence numbers and credits discarded (R659). -/
def discardLink (r : LinkRec) : LinkRec := { r with tx := 0, rx := 0, replay := [], repeats := 0, credit := [0, 0, 0], ackDue := 0, asked := none }

/-- RECOVERY_FAIL (R471, R475): the third in a row takes the link DOWN. -/
def recoveryFailOp (m : Mod) (l : Lnk) : Mod :=
  match linkOf m l with
  | none => m
  | some r =>
    if r.st != 4 || now m < r.since + 200 then m
    else if r.fails + 1 < 3 then setLink m l { r with fails := r.fails + 1, since := now m }
    else
      let m := setLink m l { discardLink r with st := 5, fails := 0, width := 0, lanes := 0 }
      match l with
      | .velom => requestReset { m with velom := { m.velom with waiting := [], demands := [] } } 3 1
      | .port _ => m

/-- LINK_LOSS_TIMEOUT (R475). -/
def linkLossOp (m : Mod) : Mod :=
  match m.velom.link.out with
  | some t => if m.velom.link.st != 3 && t + 100000 ≤ now m then requestReset m 3 1 else m
  | none => m

/-! Flits (R455, R456). -/

/-- Flits up to a sequence number are acknowledged: they leave the replay buffer. -/
def ackUpTo (r : LinkRec) (seq : Nat) : LinkRec :=
  if seq ∈ r.replay then
    let left := (r.replay.dropWhile (· != seq)).drop 1
    { r with replay := left, repeats := if r.resent ∈ left then r.repeats else 0 }
  else r

/-- A received flit's fields (Table VL-2). -/
def flitHdr (f : List Byte) : Nat := ofBytes (f.take 4)
def flitOk (fecOk : Bool) (f : List Byte) : Bool :=
  fecOk && f.length = 512 && (crc32c (f.take 484)).toNat = ofBytes ((f.drop 484).take 4)

/-- A sound flit. -/
def takeFlit (m : Mod) (l : Lnk) (r : LinkRec) (h : Nat) : Mod :=
  if bits h 30 2 = 3 || bits h 0 5 != 0 then protocolError m l 0 0
  else
    let r := if bitAt h 5 then ackUpTo r (bits h 6 12) else r
    let r := if bits h 30 2 = 1 && bits h 18 12 = r.rx then
        { r with rx := (r.rx + 1) % 4096, asked := none, ackDue := if 31 ≤ r.ackDue then 0 else r.ackDue + 1 }
      else r
    linkFlush (setLink m l r) l

/-- FLIT_RECEIVED: one that fails is discarded, and a retry request names the sequence number expected next (R456). -/
def flitOp (m : Mod) (l : Lnk) (corrected : Nat) (fecOk : Bool) (f : List Byte) : Mod :=
  match linkOf m l with
  | none => m
  | some r =>
    if r.st != 3 then m
    else
      let m := if l = .velom && fecOk && corrected != 0 then bump m vlkP 0x48 else m
      if flitOk fecOk f then takeFlit m l r (flitHdr f)
      else
        let m := countCrc (setLink m l { r with asked := some r.rx }) l
        logErr m (linkPage l) 0x05 (linkNo l + r.rx * 2 ^ 8)

/-- RETRY_REQUEST (R456, R473): the flits from a sequence number on are sent again. -/
def retryOp (m : Mod) (l : Lnk) (seq : Nat) : Mod :=
  match linkOf m l with
  | none => m
  | some r =>
    if r.st != 3 || !(seq ∈ r.replay) then m
    else
      let n := if r.resent = seq then r.repeats + 1 else 1
      let m := setLink (countReplay m l) l { r with repeats := n, resent := seq }
      let m := logErr m (linkPage l) 0x05 (linkNo l + seq * 2 ^ 8)
      if bits m.velom.ctl.toNat 4 4 ≤ n then enterRecovery m l false else m

def ackOp (m : Mod) (l : Lnk) (seq : Nat) : Mod :=
  match linkOf m l with
  | none => m
  | some r => if r.st = 3 then linkFlush (setLink m l (ackUpTo r seq)) l else m

/-- CREDIT_RETURN (R458). -/
def creditOp (m : Mod) (l : Lnk) (lane slots : Nat) : Mod :=
  match linkOf m l with
  | none => m
  | some r => if r.st = 3 then linkFlush (setLink m l { r with credit := modNth r.credit lane (· + slots) }) l else m

/-! Training (R471, R472, R478, R493). -/

/-- Whether a link may train: out of reset, and a port enabled and in service (R620). -/
def mayTrain (m : Mod) (l : Lnk) : Bool :=
  m.sys.rails && m.sys.rst != 1 && m.sys.rst != 2 && (match l with
    | .velom => (m.mgt.test.map (·.1)) != some 2
    | .port n => m.mgt.test != some (1, n) && bitAt (regN m (portP n) 0x40) 0 && !isOut m (.page (portP n)))

def laneCount (v : Nat) : Nat := ((upto 16).filter (bitAt v)).length

/-- LINK_DETECT: a far end on at least 8 lanes, on all 4 of a port. -/
def detectOp (m : Mod) (l : Lnk) (lanes : Nat) : Mod :=
  match linkOf m l with
  | none => m
  | some r =>
    let enough := match l with
      | .velom => 8 ≤ laneCount lanes
      | .port _ => lanes % 16 = 15
    if (r.st = 0 || (r.st = 5 && l != .velom)) && mayTrain m l && enough then setLink m l { r with st := 1, since := now m } else m

/-- LINK_EQUALISED: EQUALISE, or a recovery that reached its end, enters CONFIG. -/
def equalisedOp (m : Mod) (l : Lnk) : Mod :=
  match linkOf m l with
  | none => m
  | some r => if (r.st = 1 || r.st = 4) && mayTrain m l then setLink m l { r with st := 2, since := now m } else m

/-- The width that trained lanes give: all lanes, or 8 of 16 where that is allowed; 0 none. -/
def widthOf (m : Mod) (l : Lnk) (r : LinkRec) (lanes : Nat) : Nat :=
  match l with
  | .port _ => if lanes % 16 = 15 then 4 else 0
  | .velom =>
    let half := lanes % 256 = 255 || lanes / 256 % 256 = 255
    if lanes % 65536 = 65535 && r.width != 8 then 16
    else if half && (bitAt m.velom.ctl.toNat 0) then 8 else 0

/-- LINK_ACTIVE: lane order, width, version and credits are agreed, and held traffic is sent. -/
def activeOp (m : Mod) (l : Lnk) (lanes : Nat) : Mod :=
  match linkOf m l with
  | none => m
  | some r =>
    let w := widthOf m l r lanes
    if r.st != 2 || w = 0 || !mayTrain m l then m
    else
      let fresh := r.credit.all (· = 0) && r.replay.isEmpty && r.tx = 0 && r.rx = 0
      let narrowed := l = .velom && w = 8 && r.width != 8
      let r := { r with st := 3, width := w, lanes := lanes % 65536, fails := 0, out := none, since := now m
                        credit := if fresh then [256, 256, 256] else r.credit }
      let m := setLink m l r
      let m := if narrowed then blockEvt m vlkP else m
      match l with
      | .velom => flushHeld m
      | .port n => match portOf m n with
        | some p => portFlush (setPort { m with fab := { m.fab with idle := none } } { p with up := true, told := false, fwd := false, heard := none }) n
        | none => m

/-- PORT_ENABLE_WRITE (R501, R620): 0 holds the port in DETECT and counts as a loss. -/
def portEnableOp (m : Mod) (n : Nat) (en : Bool) : Mod :=
  match portOf m n with
  | none => m
  | some _ =>
    let m := setRegN m (portP n) 0x40 (bN en)
    if en then m
    else
      let m := losePort m n
      match portOf m n with
      | some p => setPort m { p with link := linkDown }
      | none => m

/-- A port that is not ACTIVE, or that has heard no HELLO for 3 ticks, is lost. -/
def portLossOp (m : Mod) (n : Nat) : Mod :=
  match portOf m n with
  | none => m
  | some p => if p.link.st != 3 || p.heard.getD p.link.since + 3 ≤ now m then losePort m n else m

/-- STALL_DROP (R482): the frame that has waited longest for credit is dropped after stall_ticks. -/
def stallDropOp (m : Mod) (n : Nat) : Mod :=
  match portOf m n with
  | none => m
  | some p => match p.queue with
    | [] => m
    | q :: qs => if q.2 + bits (fabCfg m) 24 8 ≤ now m then bump (setPort m { p with queue := qs }) fabP 0x7C else m

end Sys2Proof.Machine
end

