-- ==== Sys2Proof/Machine/VelomOps.lean ====
section
/-! DEFINITION. Messages of the host over the Velom link (R457 to R470): loads, leases, stores, Recalls and the host-line
cache. Register messages stand in RegView.lean. -/

namespace Sys2Proof.Machine

/-- The link carries new messages (R659). -/
def linkUp (m : Mod) : Bool := m.velom.link.st = 3

/-- Responses other than OK are counted (Table VL-9). -/
def countErr (m : Mod) (status : Nat) : Mod := if status = 0 then m else bump m vlkP 0x64

def ackMsg (m : Mod) (tag status : Nat) : Mod := sendMsg (countErr m status) (.ack tag status)
def replyMsg (m : Mod) (tag status lease : Nat) (data : List Byte) : Mod := sendMsg (countErr m status) (.reply tag status lease data)

/-! Reads (R421, R427). -/

/-- What the check of a read finds is counted and logged where the granule lies (R407, R450). -/
def readEvent (m : Mod) (a : Nat) (e : Ecc) : Mod :=
  match pageEnt m (pageNo a) with
  | none => m
  | some p =>
    if p.bench != 2 then eccEvent m a e
    else
      let f : Page := ⟨4, .flc, p.loc⟩
      match e with
      | .ok => m
      | .corrected => logErr (bump m f 0x54) f 0x03 (a / 4096)
      | .uncorrectable => logErr (bump m f 0x58) f 0x04 (a / 4096)

/-- Whether a range holds a granule known to be uncorrectable, or lies on a failed channel. -/
def rangeLost (m : Mod) (a n : Nat) : Bool :=
  flashLost m a || m.mem.ue.any fun g => a < g + 32 && g < a + n

/-- A held write in the range, or a Recall in progress on one of its lines: the read waits (R359, R464). -/
def readWaits (m : Mod) (a n : Nat) : Bool :=
  (m.drills.any fun d => d.held.any fun w => a < w.1 + 32 && w.1 < a + n) ||
  (m.mem.stalled.any fun w => a < w.1 + 32 && w.1 < a + n) ||
  m.velom.recalls.any fun r => a < r.line * 64 + 64 && r.line * 64 < a + n

/-- A read of device memory answered, with the lease granted. -/
def serveRead (m : Mod) (tag a n lease : Nat) (e : Ecc) : Mod :=
  let allocd := (pageEnt m (pageNo a)).isSome
  if pageNo a ∈ m.mem.retiredPg then replyMsg m tag 3 0 []
  else if allocd && (e = .uncorrectable || rangeLost m a n) then replyMsg (if rangeLost m a n then m else readEvent m a e) tag 3 0 []
  else
    let m := if allocd then readEvent m a e else m
    let m := match pageEnt m (pageNo a) with
      | some p => if p.bench = 2 then bump m ⟨4, .flc, p.loc⟩ 0x4C (flashUnits m a n).length else m
      | none => m
    let m := if lease = 0 then m else setLease m (a / 64) lease
    replyMsg m tag 0 lease (readBytes m a n)

/-- A Load (R459): the module after it, and whether it has been answered. -/
def tryLoad (m : Mod) (tag addr n : Nat) (e : Ecc) : Mod × Bool :=
  if devEnd ≤ addr || addr % 64 != 0 || pageNo addr != pageNo (addr + n - 1) then (replyMsg m tag 1 0 [], true)
  else if readWaits m addr n then (m, false)
  else (serveRead m tag addr n 0 e, true)

/-! Leases (R463, R464). -/

def leaseMax : Nat := 1048576

/-- Whether a line lies in a region that a drill owns (R355). -/
def inOwned (m : Mod) (line : Nat) : Bool :=
  m.drills.any fun d => !d.ready && decide (regionBase d < line * 64 + 64 ∧ line * 64 < regionBase d + regionLen d)

/-- A LoadLease (Table VL-6): the module after it, and whether it has been answered. -/
def tryLease (m : Mod) (tag addr want : Nat) (e : Ecc) : Mod × Bool :=
  if devEnd ≤ addr || addr % 64 != 0 then (replyMsg m tag 1 0 [], true)
  else if !inHostWin addr || inOwned m (addr / 64) then tryLoad m tag addr 64 e
  else if readWaits m addr 64 then (m, false)
  else if leaseOf m (addr / 64) = 0 && leaseMax ≤ m.velom.leases.length then
    match m.velom.leases with
    | [] => (m, false)
    | l :: _ => (if (recallOf m l.line).isSome then m else addRecall m l.line 0 .claim, false)
  else (serveRead m tag addr 64 want e, true)

/-! Writes (R408, R427, R428). -/

/-- The granules of a store with at least one byte enabled. -/
def storeGrans (addr : Nat) (data : List (Option Byte)) : List (Nat × List (Option Byte)) :=
  ((upto (data.length / 32)).map fun i => (addr + 32 * i, (data.drop (32 * i)).take 32)).filter fun g => g.2.any (·.isSome)

/-- A partial write onto an uncorrectable granule, or anything on a lost channel (R408). -/
def storeHurt (m : Mod) (gs : List (Nat × List (Option Byte))) (e : Ecc) : Bool :=
  gs.any fun g => g.2.any (·.isNone) && (e = .uncorrectable || rangeLost m g.1 32)

/-- The host pages of a store allocated; none where R428 refuses it. -/
def allocStore (m : Mod) (addr n : Nat) : Option Mod :=
  (upto (pageNo (addr + n - 1) + 1 - pageNo addr)).foldl (fun o i => o.bind fun m => allocHost m (pageNo addr + i)) (some m)

/-- The enabled bytes written, a partly enabled granule by read-modify-write. -/
def applyStore (m : Mod) (gs : List (Nat × List (Option Byte))) (e : Ecc) : Mod :=
  gs.foldl (fun m g =>
    putMask (if g.2.any (·.isNone) then readEvent m g.1 e else m) g.1 g.2) m

/-- A Store or StoreMask: a line under a Recall waits, as does a Store to a stopped pseudo-channel (R359, R464); then the checks in
order, then the write (Table VL-5). The module after it, and whether it has been answered. -/
def tryStore (m : Mod) (tag addr : Nat) (data : List (Option Byte)) (e : Ecc) : Mod × Bool :=
  let gs := storeGrans addr data
  let pages := (upto (pageNo (addr + data.length - 1) + 1 - pageNo addr)).map fun i => pageNo addr + i
  let lines := (upto (data.length / 64)).map fun i => addr / 64 + i
  if devEnd < addr + data.length || addr % 64 != 0 then (ackMsg m tag 1, true)
  else if !inHostWin addr then (ackMsg (bump m hauP 0x70) tag 2, true)
  else if lines.any fun l => (recallOf m l).isSome then (m, false)
  else match gs.findSome? fun g => stopFor m g.1 with
  | some k => (countStop m k, false)
  | none =>
    if pages.any (· ∈ m.mem.retiredPg) then (ackMsg m tag 3, true)
    else if storeHurt m gs e then
      (ackMsg (if e = .uncorrectable then gs.foldl (fun m g => if g.2.any (·.isNone) then readEvent m g.1 e else m) m else m) tag 3, true)
    else match allocStore m addr data.length with
    | none => (ackMsg (bump m hauP 0x70) tag 4, true)
    | some m => (ackMsg (applyStore m gs e) tag 0, true)

/-! Answers to leases and Recalls (R464 to R467). -/

/-- Dirty data of a line reaches memory: held where a running drill owns the line, applied while one is invalidating
(R354, R467). -/
def dirtyLine (m : Mod) (line : Nat) (d : BitVec 512) : Mod :=
  let bs := toBytes d.toNat 64
  (upto 2).foldl (fun m i =>
    let a := line * 64 + 32 * i
    let g := (bs.drop (32 * i)).take 32
    match ownerOf m a with
    | some o => if o.st = 2 then applyGran m a g else putGran m a g
    | none => putGran m a g) m

/-- What waited for a Recall is served under Table VL-6. -/
def serveWaiter (m : Mod) : Waiter → Mod
  | .read | .claim | .freed => m
  | .write a d => unitLine m a d

/-- A Recall that ends with a lease kept. -/
def endRecall (m : Mod) (r : RecallRec) (keep : Nat) : Mod :=
  let m := setLease { m with velom := { m.velom with recalls := m.velom.recalls.filter fun x => x.line != r.line } } r.line keep
  r.waiters.foldl serveWaiter m

/-- Whether a Recall takes a line back because its page is freed: what comes back is discarded. -/
def recallsFreed (m : Mod) (line : Nat) : Bool := (recallOf m line).any fun r => r.waiters.any (· = .freed)

/-- A line's dirty data taken, its page allocated by the write where it is not there (R428). -/
def takeDirty (m : Mod) (line : Nat) (d : BitVec 512) : Mod :=
  match allocHost m (pageNo (line * 64)) with
  | some m => dirtyLine m line d
  | none => bump m hauP 0x70

/-- SURRENDER (R465, R467): data for a page that was freed meanwhile is discarded. -/
def surrenderOp (m : Mod) (addr : Nat) (dirty : Option (BitVec 512)) : Mod :=
  let line := addr / 64
  if !linkUp m || leaseOf m line = 0 then m
  else
    let take := leaseOf m line = 2 && !recallsFreed m line
    let m := setLease m line 0
    match dirty with
    | some d => if take then takeDirty m line d else m
    | none => m

/-- RECALL_ACK (R464 to R466). The answer to a Recall that timed out comes before that of a later one of its line. -/
def recallAckOp (m : Mod) (addr keep : Nat) (dirty : Option (BitVec 512)) : Mod :=
  let line := addr / 64
  if !linkUp m then m
  else if line ∈ m.velom.late then { m with velom := { m.velom with late := m.velom.late.erase line } }
  else match recallOf m line with
  | none => protocolError m .velom 0x21 0
  | some r =>
    if r.keep < keep then protocolError m .velom 0x21 0
    else
      let had := leaseOf m line
      let m := match dirty with
        | some d => if had = 2 && !recallsFreed m line then takeDirty m line d else m
        | none => m
      endRecall m r (if had = 0 then 0 else keep)

/-- RECALL_TIMEOUT (R466). -/
def recallTimeoutOp (m : Mod) (addr : Nat) : Mod :=
  match recallOf m (addr / 64) with
  | none => m
  | some r =>
    if now m ≤ r.since + 1000 then m
    else
      let m := blockEvt (logErr (bump m vlkP 0x60) vlkP 0x11 (addr / 64)) vlkP
      endRecall { m with velom := { m.velom with late := m.velom.late ++ [r.line] } } r 0

/-! Host memory (R459, R469). -/

def lineMax : Nat := 8192

/-- A demand of the module answered, of one of the given kinds. -/
def answered (m : Mod) (tag : Nat) (kinds : List Nat) : Option (Nat × Mod) :=
  (m.velom.waiting.find? fun w => w.1 = tag && w.2.1 ∈ kinds).map fun w =>
    (if w.2.1 = 2 then w.2.2 / 64 + 1 else 0, { m with velom := { m.velom with waiting := m.velom.waiting.erase w } })

/-- HOST_ACK. -/
def hostAckOp (m : Mod) (tag status : Nat) : Mod :=
  if !linkUp m then m
  else match answered m tag [0] with
  | some r => countErr r.2 status
  | none => protocolError m .velom 0x23 tag

/-- HOST_REPLY: the line of an HLoadKeep is held in the host-line cache. -/
def hostReplyOp (m : Mod) (tag status len : Nat) : Mod :=
  if !linkUp m then m
  else if 16 < len then protocolError m .velom 0x24 tag
  else match answered m tag [1, 2] with
  | none => protocolError m .velom 0x24 tag
  | some (k, m) =>
    let m := countErr m status
    if k = 0 || status != 0 then m
    else
      let ls := m.velom.lines.filter (· != k - 1)
      { m with velom := { m.velom with lines := (if ls.length < lineMax then ls else ls.drop 1) ++ [k - 1] } }

/-- HOST_INV. -/
def hostInvOp (m : Mod) (tag addr : Nat) : Mod :=
  if !linkUp m then m
  else sendMsg { m with velom := { m.velom with lines := m.velom.lines.filter (· != addr / 64) } } (.hostInvAck tag)

end Sys2Proof.Machine
end

