-- ==== Sys2Proof/Machine/UnitOps.lean ====
section
/-! DEFINITION. Units: block restarts and the replay of their work (R519 to R521), leaving and returning to service
(R571 to R576, R619, R620), and unit fault reports (R508 slot 5). -/

namespace Sys2Proof.Machine

/-- The units that a restart acts on (R619). -/
def restartable : UnitId → Bool
  | .page p => p.blk ∈ [.wlk, .rdl, .fac, .cru, .gth, .dft, .hau] || (p.blk = .siv && isQuarry p.die)
  | .drill s n => s < 8 && n < 384
  | .pair n => n < 4

/-- The pages whose units software takes out of service and returns (R573, R620). -/
def oosPage (p : Page) : Bool :=
  pageOk p && (p.blk ∈ [.wlk, .rdl, .fac, .cru, .gth, .dft, .drl] || (p.blk = .siv && isQuarry p.die) || (p.blk = .fab && p.inst < 12))

def safCfg (m : Mod) : Nat := m.saf.cfg.toNat
def restartLimit (m : Mod) : Nat := bits (safCfg m) 0 4

/-! Which work a unit holds. -/

def holdsFace (m : Mod) (n : Nat) : Bool := m.faces.any fun f => f.id = n && f.cmd.isSome
def holdsDrill (m : Mod) (s n : Nat) : Bool := m.drills.any fun d => d.stack = s && d.n = n && !d.ready

/-- Searches whose riddle is this one, and that still need it. -/
def riddleCmds (m : Mod) (die inst : Nat) : List Cmd :=
  m.cmds.filter fun c => match c.search with | some s => s.rdie = die && s.rinst = inst | none => false

/-- Searches with candidates outstanding on a drift engine's channel. -/
def driftCmds (m : Mod) (ch : Nat) : List Cmd :=
  m.cmds.filter fun c => match c.search, shardOf m (collId c.entry) with
    | some s, some co => s.cand.any fun x => match x.2.src with
        | .ord sn n => ((genOf co c.gen).bind (segById · sn)).any fun g => driftFor m (vecChannel m co g n) = ch
        | _ => false
    | _, _ => false

/-- Whether a unit is idle. -/
def unitIdle (m : Mod) : UnitId → Bool
  | .drill s n => !holdsDrill m s n
  | .pair _ => true
  | .page p => match p.blk with
    | .fac | .cru => !holdsFace m (p.die * 32 + p.inst)
    | .wlk | .siv => (walksOn m p.die p.inst).isEmpty
    | .rdl => (riddleCmds m p.die p.inst).isEmpty
    | .dft => (driftCmds m p.inst).isEmpty
    | _ => true

/-! Replay (Table TL-5, R521). -/

/-- A command's work on a unit replayed once: `act` replays it, a second fault ends the command with UNIT_FAULT. -/
def replayOnce (m : Mod) (c : Cmd) (u : UnitId) (act : Mod → Cmd → Mod) : Mod :=
  if u ∈ c.units then stopCmd m c 0x32 0
  else
    let c := { c with units := u :: c.units, replayed := true }
    act (setCmd m c) c

/-- A walk that begins again on another walker of its die (R155). -/
def restartWalk (m : Mod) (ws : List Walk) (w : Walk) : Walk :=
  { w with inst := (pickWalker m ws w.die).getD 16, st := 0, table := [], queue := [], filter := [], visits := 0, list := []
           pfset := [], waste := 0, stop := 0, again := true }

/-- The walks that meet `mine` begin again, placed one after the other. -/
def restartWalks (m : Mod) (mine : Walk → Bool) (ws : List Walk) : List Walk :=
  (ws.foldl (fun (a : List Walk × List Walk) w =>
    if mine w then
      let w := restartWalk m a.2 w
      (a.1 ++ [w], w :: a.2)
    else (a.1 ++ [w], a.2)) ([], [])).1

/-- Every walk that a walker holds begins again; one that did so before ends its search. -/
def replayWalker (m : Mod) (die inst : Nat) : Mod :=
  m.cmds.foldl (fun m c => match c.search with
    | none => m
    | some s =>
      let mine (w : Walk) : Bool := w.die = die && w.inst = inst && w.st = 1
      if !s.walks.any mine then m
      else if s.walks.any fun w => mine w && w.again then finishBad m c 0x32 0
      else
        let ws := restartWalks m mine s.walks
        placeWork (putSearch m { c with replayed := true } { s with walks := ws }) (ws.filter fun w => w.again && w.st = 0)) m

/-- A search that begins again on another riddle, with all its walks and scans; remote lists that have arrived stay. -/
def restartSearch (m : Mod) (c : Cmd) : Mod :=
  match c.search, shardOf m (collId c.entry) with
  | some s, some co =>
    match genOf co c.gen with
    | none => m
    | some g =>
      let b := sBeam c.entry c.level
      let v := sVisits c.entry c.level
      let m := putSearch m c { s with walks := [] }
      let s' : SearchW := { s with
        rinst := pickRiddle m s.rdie, beam := b, budget := v
        walks := if s.flat then [] else (placeWalks m g b v (listLen s.k s.rr)).map fun (w : Walk) => { w with again := true }
        flats := if s.flat then g.segs.map (·.no) else []
        scan := if (visibleStock co g c.admTick).isEmpty then 0 else 1
        scanned := [], slist := [], inbox := (s.inbox ++ s.late).filter fun l => l.kind = 2, held := [], late := [], cand := [], stage := 0
        anyFull := false, nan := 0, widened := false }
      placeSearch (putSearch m c s') s'
  | _, _ => m

/-- A drill's core, program area and scratch wiped (R377). -/
def wipedDrill (d : Drill) : Drill :=
  setArea { d with prog := none, code := [], r := [], q := [], p := [], b := [], scratch := [] } 0x04 0

/-- A drill is wiped, and its program work replayed from its start, on the same drill, where its package marks it replayable
(R377). A drill that the fault took out of service replays nothing. -/
def replayDrill (m : Mod) (s n : Nat) : Mod :=
  match drillOf m s n with
  | none => m
  | some d =>
    if d.ready then setDrill m (wipedDrill d)
    else
      let again := drillAgain m d
      let may := d.replays && !drillOos m s n
      match d.cmd.bind (cmdOf m) with
      | some c =>
        if may then replayOnce m c (.drill s n) fun m _ => setDrill m again
        else cmdStop (setDrill m (wipedDrill d)) c.id 0xF4 0x32 0
      | none => if may then setDrill m again else drillStop (setDrill m (wipedDrill d)) s n 0xF4 4 true

/-- A work unit goes on to another face, from its start (R571). -/
def moveFace (m : Mod) (c : Cmd) (n k : Nat) : Mod :=
  match m.snaps.find? fun x => x.id = n with
  | none => m
  | some g =>
    let g := { g with id := k, skews := ((faceOf m n).map (·.skews)).getD 0 }
    let swap (x : Core) : Core := if x = .face n then .face k else x
    let c := { c with units := .page (facP k) :: c.units, run := c.run.map fun w => { w with cores := w.cores.map swap } }
    let m := placed (placed m (.page (facP k))) (.page (cruP k))
    let m := setFace (setFace (setCmd m c) (face0 n)) g
    { m with snaps := { g with skews := 0 } :: m.snaps.filter fun x => x.id != n && x.id != k }

/-- A face's work unit replayed from its start: on the same face, or on another where the fault took its face or crusher out of
service. An idle face is wiped. -/
def replayFaceUnit (m : Mod) (n : Nat) : Mod :=
  match (faceOf m n).bind fun f => f.cmd.bind (cmdOf m) with
  | some c => replayOnce m c (.page (facP n)) fun m c =>
      if isOut m (.page (facP n)) || isOut m (.page (cruP n)) then
        match freeFaces m with
        | k :: _ => moveFace m c n k
        | [] => stopCmd m c 0x32 0
      else replayFace m n
  | none => setFace m (face0 n)

/-- A move in flight when the haul engine restarts: abandoned, and what a HAUL_HINT asked for is proposed again (R438, Table
TL-5). -/
def restartMove (m : Mod) (v : Move) : Mod :=
  let m := abandonMove m v
  match v.cmd.bind (cmdOf m) with
  | some c => setCmd m { c with left := v.page :: c.left }
  | none => m

/-- The work a restarted unit held. -/
def replayWork (m : Mod) : UnitId → Mod
  | .drill s n => replayDrill m s n
  | .pair _ => { m with adm := { m.adm with held := now m + 64 } }
  | .page p => match p.blk with
    | .fac | .cru => replayFaceUnit m (p.die * 32 + p.inst)
    | .wlk | .siv => replayWalker m p.die p.inst
    | .rdl => (riddleCmds m p.die p.inst).foldl (fun m c => replayOnce m c (.page p) restartSearch) m
    | .dft => (driftCmds m p.inst).foldl (fun m c => replayOnce m c (.page p) fun m _ => m) m
    | .gth => (m.mem.moves.filter fun v => v.table && !v.done && locDie v.srcB v.srcL = p.die).foldl abandonMove m
    | .hau => (m.mem.moves.filter fun v => !v.done).foldl restartMove m
    | _ => m

/-! Out of service (R571, R572). -/

/-- A die on which walks or riddle work can run. -/
def dieServes (m : Mod) (d : Nat) : Bool :=
  (pickWalker m [] d).isSome && (upto 8).any fun i => inService m (.page ⟨d, .rdl, i⟩)

/-- The moves of pages that wait to reach another die, begun where there is room (reason 3 of Table BF-3). A page that is there, or
that is gone, waits no more. -/
def homePages (m : Mod) : Mod :=
  let there (x : Nat × Nat) : Bool := (pageEnt m x.1).all fun e => e.bench = 2 || locDie e.bench e.loc = x.2
  let m := { m with mem := { m.mem with homing := m.mem.homing.filter fun x => !there x } }
  m.mem.homing.foldl (fun m x => match pageEnt m x.1 with
    | none => m
    | some e =>
      if !mayMove m e 3 || !moveRoom m e then m
      else match pickLoc m e.bench (some x.2) with
      | some l => if m.mem.moves.any (fun v => v.bench = e.bench && v.loc = l && !v.done) then m else addMove m (newMove e 3 e.bench l false none)
      | none => m) m

/-- The segments of a die that no walker or no riddle serves are placed on another die; their walks wait until their pages have
moved there (R153, R572). -/
def rehome (m : Mod) (d : Nat) : Mod :=
  if dieServes m d then m
  else match (upto 4).find? fun e => e != d && dieServes m e with
  | none => m
  | some e =>
    let seg (s : Segment) : Segment := if s.die = d then { s with die := e } else s
    let walk (w : Walk) : Walk := if w.die = d && w.st = 0 then { w with die := e, inst := 16 } else w
    let gone := m.colls.flatMap fun c => ((c.gens.flatMap (·.segs) ++ c.built).filter fun s => s.die = d).flatMap fun s => s.pages ++ s.table
    let m := { m with colls := m.colls.map fun (c : Coll) => { c with gens := c.gens.map fun (g : Gen) => { g with segs := g.segs.map seg }, built := c.built.map seg } }
    let m := { m with cmds := m.cmds.map fun (c : Cmd) => { c with search := c.search.map fun (s : SearchW) => { s with walks := s.walks.map walk } } }
    homePages { m with mem := { m.mem with homing := gone.eraseDups.map (fun p => (p, e)) ++ m.mem.homing.filter fun x => !(x.1 ∈ gone) } }

/-- The module pages of a drill's slice move to other bank groups, as many as there is room for (R572). -/
def evacuate (m : Mod) (s n : Nat) : Mod :=
  let mine := m.mem.map.filter fun e => e.bench = 1 && !inHostWin (e.page * pageSize) && sliceOf m (e.page * pageSize) = some (s, n)
  mine.foldl (fun m e =>
    if !moveRoom m e || (moveOf m e.page).isSome || e.pin || e.ring then m
    else match otherGroup m s (locFrame e.loc) with
    | some l => addMove m (newMove e 1 1 l (isTablePage m e.page) none)
    | none => m) m

/-- The evacuations under way go on, and the moves of pages to another die. -/
def goOnMoves (m : Mod) : Mod :=
  homePages (m.units.foldl (fun m r => match r.id with
    | .drill s n => if r.st = 5 then evacuate m s n else m
    | _ => m) m)

/-- A port held in DETECT. -/
def dropPort (m : Mod) (n : Nat) : Mod :=
  match portOf m n with
  | some x => setPort m { x with link := linkDown }
  | none => m

/-- A unit goes out of service. -/
def goOut (m : Mod) (u : UnitId) : Mod :=
  let r := unitRec m u
  let p := unitPage u
  let m := setUnit m { r with st := 5, win := 0, wantOut := false }
  let m := bump (logErr m p 0x1A (recentRestarts m r)) safP 0x6C
  let m := pend m p 4
  let m := if bitAt (safCfg m) 16 then blockEvt m safP else m
  match u with
  | .drill s n => evacuate m s n
  | .page q => match q.blk with
    | .wlk | .siv | .rdl => rehome m q.die
    | .fab => dropPort (losePort m q.inst) q.inst
    | _ => m
  | .pair _ => m

/-- A request of software that waits for its unit to be idle. -/
def takeWanted (m : Mod) : Mod :=
  m.units.foldl (fun m r => if r.wantOut && (r.st = 1 || r.st = 4) && unitIdle m r.id then goOut m r.id else m) m

/-! Restarts (R519, R571, R575, R619). -/

/-- Whether a restart may begin. -/
def mayRestart (m : Mod) (u : UnitId) : Bool :=
  restartable u && (unitState m u = 1 || unitState m u = 4)

/-- A unit is wiped and restarts; at the limit, or by a fault in its ramp, it leaves service. -/
def wipeUnit (fault : Bool) (m : Mod) (u : UnitId) : Mod :=
  if !mayRestart m u then m
  else
    let r := unitRec m u
    let recent := (r.restarts.filter fun t => now m < t + 1000000) ++ [now m]
    let m := bump (setUnit m { r with st := 2, since := now m, restarts := recent }) safP 0x68
    if restartLimit m ≤ recent.length || (fault && r.st = 4) then goOut m u else m

/-- A block restart: the unit is wiped and its work replayed. -/
def beginRestart (m : Mod) (u : UnitId) (fault : Bool) : Mod :=
  if mayRestart m u then replayWork (wipeUnit fault m u) u else m

/-- RESTART (R619): software's write of 1 to BLK_CTL.restart. -/
def restartOp (m : Mod) (p : Page) : Mod :=
  if !pageOk p then m
  else if p.blk = .drl then (upto 384).foldl (fun m n => beginRestart m (.drill (p.die - 8) n) false) m
  else beginRestart m (.page p) false

/-- BLOCK_RESTART_END (R519): the unit is ready again. -/
def restartEnd (m : Mod) (u : UnitId) : Mod :=
  let r := unitRec m u
  if r.st != 2 then m
  else
    let m := setUnit m { r with st := if r.win = 0 then 1 else 4 }
    let m := match u with
      | .pair _ => { m with adm := { m.adm with held := 0 } }
      | _ => m
    pend m (unitPage u) 5

/-- OUT_OF_SERVICE (R571, R620): software's write of 1. -/
def wantOutUnit (m : Mod) (u : UnitId) : Mod :=
  let r := unitRec m u
  if r.st = 1 || r.st = 4 then
    if unitIdle m u then goOut m u else setUnit m { r with wantOut := true }
  else if r.st = 2 then setUnit m { r with wantOut := true }
  else m

def outOp (m : Mod) (p : Page) : Mod :=
  if !oosPage p then m
  else if p.blk = .drl then
    ((upto 384).filter fun n => !hostReserved m (p.die - 8) n).foldl (fun m n => wantOutUnit m (.drill (p.die - 8) n)) m
  else wantOutUnit m (.page p)

/-- RETURN (R573, R575, R576, R620): software's write of 0. -/
def returnUnitOp (m : Mod) (u : UnitId) : Mod :=
  let r := unitRec m u
  if r.st = 5 then
    match u with
    | .page q => if q.blk = .fab then pend (setUnit m { r with st := 1 }) q 4
                 else setUnit m { r with st := 3, since := now m }
    | _ => setUnit m { r with st := 3, since := now m }
  else m

def returnOp (m : Mod) (p : Page) : Mod :=
  if !oosPage p then m
  else if p.blk = .drl then
    ((upto 384).filter fun n => !hostReserved m (p.die - 8) n).foldl (fun m n => returnUnitOp m (.drill (p.die - 8) n)) m
  else returnUnitOp m (.page p)

/-- SELF_TEST_END (R573, R574). -/
def selfTestOp (m : Mod) (u : UnitId) (pass : Bool) (step : Nat) : Mod :=
  let r := unitRec m u
  let p := unitPage u
  if r.st != 3 then m
  else if pass then pend (bump (setUnit m { r with st := 4, win := 1, since := now m, got := 0, pool := 0 }) safP 0x70) p 4
  else pend (bump (logErr (setUnit m { r with st := 5 }) p 0x1B step) safP 0x74) p 4

/-- RAMP_WINDOW (R574): after the tenth window the unit takes its whole share. -/
def rampOp (m : Mod) (u : UnitId) : Mod :=
  let r := unitRec m u
  if r.st != 4 || now m < r.since + 100 * r.win then m
  else if 10 ≤ r.win then setUnit m { r with st := 1, win := 0 }
  else setUnit m { r with win := r.win + 1, got := 0, pool := 0 }

/-! Trips, seams and their failures (R532, R556, R560, R630). -/

/-- Whether a cause leads to SAFE_OFF (R557). -/
def offCause (cause : Nat) : Bool := cause = 1 || cause = 2 || cause = 3 || cause = 6

/-- A trip latched for slot 1; the first one stands. In a safety stop only a cause that leads to SAFE_OFF still counts. -/
def latchTrip (m : Mod) (cause index : Nat) : Mod :=
  if m.saf.trip.isSome || (m.saf.state != 0 && !offCause cause) || !m.sys.rails then m
  else { m with saf := { m.saf with trip := some (cause, index) } }

/-- A rail or seam event in the last 1,000,000 ticks. -/
def recentEvent (m : Mod) (k : Nat) : Bool := m.saf.events.any fun e => e.1 = k && now m < e.2 + 1000000
def noteEvent (m : Mod) (k : Nat) : Mod := { m with saf := { m.saf with events := (k, now m) :: m.saf.events } }

/-- The two ends of a seam: seams 0 to 3 join quarry die `d` and the hub, seams 4 to 7 are Q0–Q1, Q1–Q3, Q3–Q2, Q2–Q0. -/
def seamEnds (s : Nat) : Page × Page :=
  match s with
  | 4 => (⟨0, .sem, 1⟩, ⟨1, .sem, 1⟩)
  | 5 => (⟨1, .sem, 2⟩, ⟨3, .sem, 1⟩)
  | 6 => (⟨3, .sem, 2⟩, ⟨2, .sem, 2⟩)
  | 7 => (⟨2, .sem, 1⟩, ⟨0, .sem, 2⟩)
  | d => (⟨d, .sem, 0⟩, ⟨4, .sem, d⟩)

/-- One end of a failed link check. -/
def seamFail (m : Mod) (p : Page) (replays : Nat) : Mod :=
  goOut (logErrC (bump m p 0x4C) p 3 0x06 (p.inst + min replays 511 * 4)) (.page p)

/-- A seam whose link check fails: a unit fault that both ends report; a second one within 1,000,000 ticks escalates. -/
def seamDown (m : Mod) (s replays : Nat) : Mod :=
  let (a, b) := seamEnds s
  let again := recentEvent m (100 + s)
  let m := noteEvent (seamFail (seamFail m a replays) b replays) (100 + s)
  if again then latchTrip m 4 s else m

/-! Unit fault reports. -/

/-- The chute of the first command that a restart affects, and whether its replay is refused (code 0x1C). -/
def firstAffected (m : Mod) (u : UnitId) : Option Cmd :=
  match u with
  | .drill s n => (drillOf m s n).bind fun d => d.cmd.bind (cmdOf m)
  | .pair _ => none
  | .page p => match p.blk with
    | .fac | .cru => (faceOf m (p.die * 32 + p.inst)).bind fun f => f.cmd.bind (cmdOf m)
    | .wlk | .siv => m.cmds.find? fun c => match c.search with
        | some s => s.walks.any fun w => w.die = p.die && w.inst = p.inst && w.st = 1
        | none => false
    | .rdl => (riddleCmds m p.die p.inst).head?
    | .dft => (driftCmds m p.inst).head?
    | _ => none

def faultDetail (m : Mod) (u : UnitId) : Nat :=
  match firstAffected m u with
  | some c => c.chute.getD 0 + bN (u ∈ c.units) * 2 ^ 12
  | none => 0

/-- An output check disagreement (R566): the search being emitted ends with UNIT_FAULT, and emission waits for both
engines. -/
def checkMismatch (m : Mod) (chute : Nat) : Mod :=
  let m := bump m safP 0x60
  let m := if bitAt (safCfg m) 17 then blockEvt m safP else m
  let m := { m with saf := { m.saf with engines := some (now m + 64) } }
  match m.cmds.find? fun c => c.chute = some chute && (c.search.any fun s => s.stage = 3) with
  | some c => finishBad m c 0x32 0
  | none => m

/-- A unit's fault (R519, R566, R568): the record of what was detected, and the block restart it causes. An error of class 0 or 1
is corrected or recovered, and restarts nothing (Table SF-3). -/
def unitFaultOp (m : Mod) (u : UnitId) (code detail : Nat) : Mod :=
  let p := unitPage u
  let m := if code = 0 || code = 0x1F then m else logErr m p code detail
  if code = 0x0A then checkMismatch m (bits detail 0 12)
  else
    let m := if code = 0x0B then
        let m := bump m safP 0x64
        if bitAt (safCfg m) 17 then blockEvt m safP else m
      else m
    let minor := code != 0 && code != 0x1F && codeClass code ≤ 1
    if minor || !mayRestart m u then m
    else beginRestart (logErr m p 0x1C (faultDetail m u)) u true

/-- UNIT_WATCHDOG (R553): a unit without progress for 2^20 ticks. -/
def unitWatchdogOp (m : Mod) (u : UnitId) : Mod :=
  if mayRestart m u then unitFaultOp m u 0x0C (2 ^ 20) else m

end Sys2Proof.Machine
end

