-- ==== Sys2Proof/Machine/FabricOps.lean ====
section
/-! DEFINITION. The Relvik fabric (chapter 16): path-routed discovery and assignment, routing tables, delivery and
forwarding, the mailbox of the master's host, remote searches and K-split contributions. The layouts of management
payloads are the log's choice where Table FB-2 names fields and no places. -/

namespace Sys2Proof.Machine

/-- A frame in error is dropped, counted, and logged (R479, R480, Table RP-9). -/
def frameDetail (f : Frame) : Nat := fSrc f + fDst f * 2 ^ 12 + fType f * 2 ^ 24
def dropE2e (m : Mod) (f : Frame) : Mod := logErr (bump m fabP 0x74) fabP 0x10 (frameDetail f)
def dropMisrouted (m : Mod) (f : Frame) : Mod := logErr (bump m fabP 0x70) fabP 0x0F (frameDetail f)

/-- Whether a port may bring a frame. -/
def portUp (m : Mod) (n : Nat) : Bool := (portOf m n).any fun p => p.link.st = 3

/-! Path-routed frames (R483, R484). -/

def slotN (f : Frame) (i : Nat) : Nat := (f.data.getD i 0#128).toNat
def pathCount (f : Frame) : Nat := bits (slotN f 0) 0 4
def pathIndex (f : Frame) : Nat := bits (slotN f 0) 4 4
/-- The port in nibble `j` of a path slot. -/
def pathPort (f : Frame) (slot j : Nat) : Nat := bits (slotN f slot) (8 + 4 * j) 4
def setSlot' (f : Frame) (i v : Nat) : Frame := { f with data := f.data.set i (BitVec.ofNat 128 v) }
def setIndex (f : Frame) (i : Nat) : Frame := setSlot' f 0 (setBits (slotN f 0) 4 4 i)
def setReturn (f : Frame) (j port : Nat) : Frame := setSlot' f 1 (setBits (slotN f 1) (8 + 4 * j) 4 port)

/-- One hop spent: none where ttl reaches 0 (R482). -/
def spendTtl (f : Frame) : Option Frame := if fTtl f ≤ 1 then none else some (setHdr f 32 8 (fTtl f - 1))

/-- A request along its forward path leaves this module. -/
def pathForward (m : Mod) (port : Option Nat) (f : Frame) : Mod :=
  if m.fab.node.isNone then m
  else
    let i := pathIndex f
    let f := match port with | some p => setReturn f i p | none => f
    match (if port.isSome then spendTtl f else some f) with
    | none => bump m fabP 0x78
    | some f => portSend m (pathPort f 0 i) (setIndex f (i + 1))

/-- A management frame that this module's host sends to another module is answered once (R481). -/
def awaitHost (m : Mod) (kind : Nat) (f : Frame) : Mod :=
  { m with fab := { m.fab with txs := m.fab.txs ++ [⟨fTag f, fDst f, kind, 0, 0, now m, 0, []⟩] } }

/-- An answer for this module's host: to the mailbox where a request still waits for it, else dropped (R481). A path-routed request
names no node, so its tag alone decides. -/
def answerHost (m : Mod) (kind : Nat) (f : Frame) : Mod :=
  match m.fab.txs.find? fun t => t.kind = kind && t.tag = fTag f && (kind = 3 || t.dst = fSrc f) with
  | none => dropMisrouted m f
  | some t => inboxPut { m with fab := { m.fab with txs := m.fab.txs.erase t } } f

/-- A response along the return path: at the master's module it goes to the mailbox. -/
def pathReturn (m : Mod) (f : Frame) : Mod :=
  let i := pathIndex f - 1
  if m.fab.node.isNone then m
  else if i = 0 then answerHost m 3 (setIndex f 0)
  else match spendTtl f with
  | none => bump m fabP 0x78
  | some f => portSend m (pathPort f 1 i) (setIndex f i)

/-- The answer to a request that ended here: out of its arrival port, or to the own mailbox. -/
def pathAnswer (m : Mod) (port : Option Nat) (q : Frame) (ty : Nat) (data : List (BitVec 128)) : Mod :=
  let x := mkFrame m ty 0xFFF (fTag q) 0 true (q.data.take 2 ++ data)
  match port with
  | none => inboxPut m x
  | some p => portSend m p x

/-- The fabric ID (chapter 16): the first 16 bytes of SHA-512 over the identity public key. -/
def fabricId : Nat := bits (Config.sha512 (toBytes Config.identityKey.toNat 32)).toNat 0 128

/-- FAB_NODE. -/
def nodeWord (m : Mod) : Nat := match m.fab.node with
  | some n => 2 ^ 31 + n
  | none => 0xFFF

/-- FAB_PORT_STAT. -/
def portStat (p : Port) : Nat := p.link.st * 2 ^ 24 + bN p.fwd * 2 ^ 16 + bits p.link.lanes 0 4

/-- The payload of a DISCOVER_RSP. -/
def discoverData (m : Mod) : List (BitVec 128) :=
  slotsOf (toBytes fabricId 16 ++ toBytes (nodeWord m) 4 ++ toBytes m.fab.fabEpoch 4 ++ toBytes 0 8 ++
    m.fab.ports.flatMap fun p => toBytes (portStat p) 4 ++ toBytes (neighWord m p) 4)

/-- A path-routed request: forwarded, or served here by `serve`. -/
def pathRequest (m : Mod) (ty : Nat) (port : Option Nat) (f : Frame) (serve : Mod → Mod) : Mod :=
  if (port.any fun p => !portUp m p) || fType f != ty then m
  else if frameBad f || f.data.length < 2 then dropE2e m f
  else if pathIndex f < pathCount f then pathForward m port f
  else if pathIndex f != pathCount f then m
  else if !crcOk f then dropE2e m f
  else serve m

/-- DISCOVER. -/
def discoverOp (m : Mod) (port : Option Nat) (f : Frame) : Mod :=
  pathRequest m 0x01 port f fun m => pathAnswer m port f 0x02 (discoverData m)

/-- Whether an ASSIGN is accepted (R485). -/
def assignOk (m : Mod) (src epoch : Nat) : Bool :=
  m.fab.node.isNone || (src = m.fab.master && m.fab.fabEpoch ≤ epoch) || (!bitAt (fabCfg m) 16 && m.fab.fabEpoch < epoch)

/-- ASSIGN. -/
def assignOp (m : Mod) (port : Option Nat) (f : Frame) : Mod :=
  pathRequest m 0x03 port f fun m =>
    let v := slotN f 2
    let addr := bits v 0 12
    let epoch := bits v 32 32
    let ok := 2 < f.data.length && assignOk m (fSrc f) epoch
    let m := if ok then { m with fab := { m.fab with assignTo := some (addr, epoch, bits v 64 12) } } else m
    pathAnswer m port f 0x04 (slotsOf (toBytes (if ok then addr else ownNode m) 4 ++ toBytes (bN (!ok)) 1))

/-- DISCOVER_RSP and ASSIGN_RSP on their way back. -/
def pathResponse (m : Mod) (ty : Nat) (port : Option Nat) (f : Frame) : Mod :=
  if (port.any fun p => !portUp m p) || fType f != ty || pathIndex f = 0 then m
  else if frameBad f || f.data.length < 2 then dropE2e m f
  else if pathIndex f = 1 && !crcOk f then dropE2e m f
  else pathReturn m f

/-- The start of the tick after an ASSIGN or a ROUTE_COMMIT (R485, R488, R493). -/
def takeAssign (m : Mod) : Mod :=
  match m.fab.assignTo with
  | none => m
  | some (a, e, ms) => { m with fab := { m.fab with node := some a, fabEpoch := e, master := ms, assignTo := none } }
def takeCommit (m : Mod) : Mod :=
  match m.fab.commit with
  | none => m
  | some (e, ns) =>
    let open' (p : Port) : Port := if p.link.st = 3 && p.told && decide (p.no ∈ ns) then { p with fwd := true } else p
    { m with fab := { m.fab with table := m.fab.shadow, fabEpoch := e, commit := none, ports := m.fab.ports.map open' } }

/-! Delivery (R480, R481, R488, R492). -/

/-- The routing entries of a ROUTE_WR (Table FB-3). -/
def routeEntries (f : Frame) : List Nat := (upto 64).map fun i => bits (slotN f (i / 4)) (32 * (i % 4)) 32
def routeBad (f : Frame) : Bool :=
  f.data.length != 16 || 64 ≤ fPart f || (routeEntries f).any fun e => decide (2 ^ 19 ≤ e) || 4 < bits e 16 3

def answerMgt (m : Mod) (q : Frame) (ok : Bool) : Mod :=
  sendAddr m (mkFrame m 0x07 (fSrc q) (fTag q) 0 true (slotsOf (toBytes (bN (!ok)) 1)))

def takeRoutes (m : Mod) (f : Frame) : Mod :=
  let ok := fSrc f = m.fab.master && !routeBad f
  let put (t : List (Nat × Nat)) : List (Nat × Nat) :=
    ((upto 64).zip (routeEntries f)).foldl (fun t x => mapSet (fun _ => 0) t (64 * fPart f + x.1) x.2) t
  answerMgt (if ok then { m with fab := { m.fab with shadow := put m.fab.shadow } } else m) f ok

def takeRouteCommit (m : Mod) (f : Frame) : Mod :=
  let ok := fSrc f = m.fab.master && f.data.length != 0
  answerMgt (if ok then { m with fab := { m.fab with commit := some (bits (slotN f 0) 0 32, (m.fab.ports.filter (·.told)).map (·.no)) } } else m) f ok

/-- A transaction resent whole, at most three times; then its face stops with a unit fault (R500). -/
def ksResend (m : Mod) (x : FabTx) : Mod :=
  if x.tries < 3 then
    let y := { x with tries := x.tries + 1, sent := now m }
    let m := { m with fab := { m.fab with txs := mapIf (fun t => t = x) (fun _ => y) m.fab.txs } }
    x.frames.foldl sendAddr m
  else unitFaultOp { m with fab := { m.fab with txs := m.fab.txs.filter fun t => t != x } } (.page (facP x.face)) 0 0

/-- A node ends a search before its lists are all there; what still comes is discarded. The search completes in this tick, by
the lowest node that ended it (R498). -/
def searchEnds (m : Mod) (cid node status info : Nat) : Mod :=
  match cmdOf m cid with
  | none => m
  | some c => match c.search with
    | some s => putSearch m c { s with ends := s.ends ++ [(node, status, info)] }
    | none => m

/-- An UNREACH for a transaction of this module: it names the transaction's tag and node (R492, R498, R500). One for each frame of
a contribution that has just been resent adds nothing. -/
def takeUnreach (m : Mod) (f : Frame) : Mod :=
  match m.fab.txs.find? fun t => t.kind != 3 && t.tag = bits (slotN f 0) 32 32 && t.dst = bits (slotN f 0) 0 12 with
  | none => dropMisrouted m f
  | some t =>
    let gone := { m with fab := { m.fab with txs := m.fab.txs.erase t } }
    if t.kind = 1 then (if t.tries != 0 && t.sent = now m then m else ksResend m t)
    else if t.kind = 2 then inboxPut gone f
    else searchEnds gone t.cmd t.dst 0x32 t.dst

/-- A delivered frame takes its effect; frames of longer transactions take theirs once they are whole. -/
def takeFrame (m : Mod) (f : Frame) : Mod :=
  match fType f with
  | 0x05 => takeRoutes m f
  | 0x06 => takeRouteCommit m f
  | 0x07 => answerHost m 2 f
  | 0x08 => inboxPut m f
  | 0x14 => takeUnreach m f
  | _ => m

/-- FRAME_DELIVER (R480): an address-routed frame at its last hop. -/
def deliver (m : Mod) (f : Frame) : Mod :=
  if m.fab.node.isNone || pathRouted (fType f) || fType f = 0x09 then m
  else if frameBad f then dropE2e m f
  else if m.fab.node != some (fDst f) then dropMisrouted m f
  else if !crcOk f then dropE2e m f
  else takeFrame m f

def deliverType (m : Mod) (ty : Nat) (f : Frame) : Mod := if fType f = ty then deliver m f else m
def deliverOn (m : Mod) (port : Nat) (f : Frame) : Mod := if portUp m port then deliver m f else m

/-- FRAME_FORWARD (R482, R489, R492). -/
def forwardOp (m : Mod) (port : Nat) (f : Frame) : Mod :=
  if !portUp m port || m.fab.node.isNone || pathRouted (fType f) || fType f = 0x09 then m
  else if frameBad f then dropE2e m f
  else if m.fab.node = some (fDst f) then m
  else match spendTtl f with
  | none => bump m fabP 0x78
  | some f => (hopSend m f).getD (unreachFor m f)

/-- UNREACH frames of this module for itself, at the next tick. -/
def takeSelf (m : Mod) : Mod :=
  m.fab.self.foldl takeUnreach { m with fab := { m.fab with self := [] } }

/-! Neighbours (R487, R491, R493). -/

/-- HELLO. -/
def helloOp (m : Mod) (port node : Nat) (assigned : Bool) (nport : Nat) : Mod :=
  match portOf m port with
  | none => m
  | some p =>
    if p.link.st != 3 then m
    else
      let p' := { p with nbNode := node, nbOk := assigned, nbPort := nport, heard := some (now m), up := true, told := true }
      let m := setPort m p'
      let m := if p.told then m else notice m (if assigned then 2 else 3) port (neighWord m p')
      if assigned && m.fab.node = some node then notice m 4 port (neighWord m p') else m

/-- The HELLO that every ACTIVE port sends in a tick. -/
def sendHellos (m : Mod) : Mod :=
  (m.fab.ports.filter fun p => p.link.st = 3).foldl (fun m p =>
    portSend m p.no (mkFrame m 0x09 0xFFF 0 0 true (slotsOf (toBytes (nodeWord m) 4 ++ toBytes p.no 1)))) m

/-- ISOLATION_TIMEOUT (R494). -/
def isolationOp (m : Mod) : Mod :=
  match m.fab.idle with
  | some t => if t + 1000000 ≤ now m && m.fab.ports.all (fun p => p.link.st != 3) then
      { m with fab := { m.fab with node := none, assignTo := none } } else m
  | none => m

/-- From which tick no port is ACTIVE. -/
def idleTick (m : Mod) : Mod :=
  let up := m.fab.ports.any fun p => p.link.st = 3
  { m with fab := { m.fab with idle := if up then none else some (m.fab.idle.getD (now m)) } }

/-! The mailbox (R486, R501). -/

/-- The frame staged in FAB_MBX_TX. -/
def stagedFrame (m : Mod) : Frame :=
  let slot (i : Nat) : BitVec 128 := BitVec.ofNat 128 (total ((upto 4).map fun k => regN m fabP (0x800 + 16 * i + 4 * k) * 2 ^ (32 * k)))
  let h := slot 0
  ⟨h, (upto (min 16 (bits h.toNat 42 5))).map fun i => slot (i + 1)⟩

/-- A frame of the mailbox, its source and hop limit set and its CRC sealed, by type. -/
def mbxRoute (m : Mod) (f : Frame) : Mod :=
  match fType f with
  | 0x01 => discoverOp (if pathIndex f < pathCount f then awaitHost m 3 f else m) none f
  | 0x03 => assignOp (if pathIndex f < pathCount f then awaitHost m 3 f else m) none f
  | 0x02 | 0x04 => m
  | _ =>
    if m.fab.node.isNone then m
    else if m.fab.node = some (fDst f) then takeFrame m f
    else
      let m := if fType f = 0x05 || fType f = 0x06 then awaitHost m 2 f else m
      (hopSend m f).getD (unreachFor m f)

/-- FAB_MBX_SEND. -/
def mbxSend (m : Mod) : Mod :=
  let f := stagedFrame m
  if frameBad f || fType f = 0x09 then dropE2e m f
  else mbxRoute m (sealFrame (setHdr (setHdr f 20 12 (ownNode m)) 32 8 (bits (fabCfg m) 8 8)))

def mbxPop (m : Mod) : Mod := { m with fab := { m.fab with inbox := m.fab.inbox.drop 1 } }

/-! Remote searches (R496 to R499). -/

/-- A request as it arrives: its work record, decided in this module's own admission. It does not fan out again. -/
def srchReqOp (m : Mod) (src tag dl gen : Nat) (e : BitVec 512) (pl : Payload) : Mod :=
  if m.fab.node.isNone || opcodeOf e != 0x01 then m
  else
    let e := putFld (putFld (putFld e 8 3 dl) 12 4 gen) 39 1 (sFlags e - bits (sFlags e) 2 1 * 4)
    let c : Cmd := { internalCmd m 0x01 (collId e) 0 with
      entry := e, pl := pl, admitted := false, origin := some (src, tag), verdict := fetchVerdict m e pl
      cfgSeq := (collOf m (collId e)).map (·.cfgSeq) }
    addCmd m c

/-- The status and info that a remote's outcome gives the whole search; none where its list is merged (R498). -/
def remoteEnds (r : RemotePart) : Option (Nat × Nat) :=
  match r.shed with
  | some p => some (0x10, p)
  | none =>
    if r.status = 0x20 || r.status = 0x21 || r.status = 0x22 then some (0x21, r.node)
    else if r.status = 0x24 || r.status = 0x30 then some (r.status, r.node)
    else if r.status = 0x12 || r.status = 0x32 || r.status = 0x33 then some (0x32, r.node)
    else if r.status = 0x11 then some (0x11, 0)
    else none

/-- SRCH_PART. -/
def srchPartOp (m : Mod) (cid : Nat) (r : RemotePart) : Mod :=
  match m.fab.txs.find? fun t => t.tag = r.tag && t.kind = 0 && t.dst = r.node && t.cmd = cid with
  | none => logErr (bump m fabP 0x70) fabP 0x0F (r.node % 4096 + ownNode m * 2 ^ 12 + 0x11 * 2 ^ 24)
  | some t =>
    let m := { m with fab := { m.fab with txs := m.fab.txs.erase t } }
    match cmdOf m cid with
    | none => m
    | some c => match c.search, remoteEnds r with
      | none, _ => m
      | some _, some (st, info) => searchEnds m cid r.node st info
      | some s, none =>
        let es := r.ents.map fun x => mkEnt x.key x.score x.flags x.gen (.remote r.node)
        let s := arrive { s with waitFor := s.waitFor.filter (· != r.node) } ⟨sortBy entLt es, s.k + 16 ≤ es.length, 2⟩
        let m := { m with fab := { m.fab with pins := m.fab.pins ++ [(cid, r.node, r.gen.toNat)] } }
        putSearch m { c with level := if r.reduced then max 1 c.level else c.level } s

/-! K-split contributions over the fabric (R500). -/

/-- KSPLIT_PART (R279, R500): a duplicate is discarded and counted (R278), on face 0's page, since its own face is another module's
(DESIGN CHOICE). -/
def ksplitPartOp (m : Mod) (src tag d k : Nat) (tile : List Word) : Mod :=
  if m.fab.node.isNone || ksBad m d || ksCount m d ≤ k || !ksRoom m (tileAdds m (ksTarget m d) tile none) then m
  else
    let dup := bitAt (ksBitmap m d) k
    let m := (ksAccept m d k tile none (facP 0)).1
    sendAddr m (mkFrame m 0x13 src tag 0 true (slotsOf (toBytes (bN dup) 1)))

/-- KSPLIT_ACK. -/
def ksplitAckOp (m : Mod) (src tag : Nat) : Mod :=
  match m.fab.txs.find? fun t => t.tag = tag && t.kind = 1 && t.dst = src with
  | none => logErr (bump m fabP 0x70) fabP 0x0F (src % 4096 + ownNode m * 2 ^ 12 + 0x13 * 2 ^ 24)
  | some t => { m with fab := { m.fab with txs := m.fab.txs.erase t } }

/-- KSPLIT_RESEND. -/
def ksplitResendOp (m : Mod) (tag : Nat) : Mod :=
  match m.fab.txs.find? fun t => t.tag = tag && t.kind = 1 with
  | none => m
  | some t => if t.sent + 2000 ≤ now m then ksResend m t else m

end Sys2Proof.Machine
end

