-- ==== Sys2Proof/Machine/ResetOps.lean ====
section
/-! DEFINITION. Resets and power: the phases of a device reset, power-on and life-cycle reset, the boot chain, bench load
and replay, and the rails (chapters 17, 20 and 21). -/

namespace Sys2Proof.Machine

/-! Management states. -/

/-- A change of the management state or of the start-up phase is reported (R602). -/
def setMgtState (m : Mod) (st : Nat) : Mod :=
  if m.mgt.state = st then m else sendIbi (platEvent { m with mgt := { m.mgt with state := st } } 101 st) 0x02#8
def setPhase (m : Mod) (ph : Nat) : Mod :=
  if m.sys.phase = ph then m else sendIbi (platEvent { m with sys := { m.sys with phase := ph } } 102 ph) 0x02#8

/-- A running test mode ends with result 3 (R611). -/
def abortTest (m : Mod) : Mod :=
  if m.mgt.test.isSome then { m with mgt := { m.mgt with test := none, testRes := 3, testDet := 0 } } else m

/-- MGT_TEST_STAT over a reset: result 3 if a mode was running, else its reset value (Table RI-15). -/
def clearTest (m : Mod) : Mod :=
  if m.mgt.test.isSome then abortTest m else { m with mgt := { m.mgt with testRes := 0, testDet := 0 } }

/-! What a reset wipes (Table TL-7, R429, R431, R468, R484, R625). -/

/-- The registers that survive every reset: MGT_CFG, and the trip cause and tick (R577, R608). -/
def keptRegs (l : List (Nat × Word)) : List (Nat × Word) :=
  let keep := [pageBase mgtP + 0x44, pageBase safP + 0x48, pageBase safP + 0x4C, pageBase safP + 0x50]
  l.filter fun r => decide (r.1 ∈ keep)

/-- Device memory after a wipe: bench 2 stays as programmed, and the map keeps its pages alone. -/
def wipeMem (x : Mem) : Mem :=
  { x with map := x.map.filter fun e => e.bench = 2, cells := [], wb := [], moves := [], ue := [], hint := [], freeing := []
           retiredPg := [], loaded := false, backoff := [], hotCfg := mem0.hotCfg, stalled := [], homing := [] }

/-- Every SRAM zeroed and every register at its reset value. -/
def wipeModule (m : Mod) : Mod :=
  let m := if m.sys.rst = 0 && m.sys.rails && m.saf.state = 0 then clearTest m else abortTest m
  { m with
    sys := { m.sys with halted := [] }, hbm := m.hbm.map fun (k : Stack) => { k with loaded := false }
    regs := { regs0 with vals := keptRegs m.regs.vals }, inited := false, units := [], chutes := [], adm := adm0, cmds := []
    colls := [], mirror := [], resv := 0, faces := faces0, snaps := [], drills := drills0, svc := [], ksat := [], sats := [], scanTab := [], slots := []
    fab := { fab0 with out := m.fab.out }, velom := { velom0 with out := m.velom.out }, mem := wipeMem m.mem
    pwr := { pwr0 with temp := m.pwr.temp, pred := m.pwr.pred, est := m.pwr.est, starts := m.pwr.starts, resp := m.pwr.resp, ma10 := m.pwr.ma10 }
    saf := { saf0 with failed := m.saf.failed, mcDown := m.saf.mcDown, mcTicks := m.saf.mcTicks, events := m.saf.events }
    sec := { m.sec with locked := false, token := none, nonce := none, spdmM := ⟨false, false, false⟩, spdmW := ⟨false, false, false⟩, pendAct := none }
    ledger := { m.ledger with report := none, stat := 0 } }

/-! Rails (R604 to R607). -/

/-- Every main rail off. -/
def powerOff (m : Mod) (st : Nat) : Mod :=
  let m := wipeModule m
  let m := { m with sys := { m.sys with rails := false, quarryOn := false, rst := 0, want := none } }
  setMgtState (setPhase m 1) st

/-- Records not wholly in the ring never become durable (R524). -/
def dropUnentered (l : Ledger) : Ledger := { l with records := l.records.filter fun r => r.entered = r.len }

/-- The quiesce phase begins (R523): admission and work stop without completions, the ring is closed. -/
def quiesce (m : Mod) : Mod :=
  let m := (if m.saf.state = 0 then clearTest else abortTest) (closeGroup m)
  { m with
    sys := { m.sys with rst := 1, want := none }, inited := false, cmds := [], chutes := [], faces := faces0, snaps := []
    drills := drills0, svc := [], ksat := [], slots := [], resv := 0, mem := { m.mem with moves := [] }
    ledger := { dropUnentered m.ledger with stat := 0 } }

/-- The state a transition leads to, marked pending (R592, step 2). -/
def markPending (m : Mod) : Mod :=
  match m.sec.token with
  | some (_, target, owners) =>
    if m.sys.kind = 3 then { m with sec := { m.sec with pending := some target, owners := if target = 1 then owners else m.sec.owners } } else m
  | none => m

/-- The reset tick (R522, R523, R606): a request that falls into a reset already past its quiesce starts it again at the
boot chain. A module whose replay met a gap takes only requests of the management controller and of a life-cycle transition (R518). -/
def resetBegin (m : Mod) (cause kind : Nat) : Mod :=
  let gap := m.ledger.stat = 4 && !(cause = 7 || kind = 3)
  if !m.sys.rails || (m.sys.rst = 1 && (kind != 3 || m.sys.kind = 2)) || gap then { m with sys := { m.sys with want := none } }
  else
    let mark (m : Mod) : Mod := { m with sys := { m.sys with
      cause := cause, kind := kind, resetTick := now m, refLost := decide (cause = 8), erased := false, want := none } }
    if m.sys.rst = 0 then quiesce (mark m)
    else if m.sys.rst = 1 then mark m
    else
      let m := wipeModule (markPending (mark m))
      setPhase { m with sys := { m.sys with rst := 2, chainFirst := true } } 3

/-- The start of a downward sequence that a running module quiesces for first (R607): it ends in rails that are off, whatever
MAIN_EN does meanwhile. -/
def powerDown (m : Mod) : Mod :=
  let mark (m : Mod) : Mod := { m with sys := { m.sys with kind := 2 } }
  if !m.sys.rails then m
  else if m.sys.rst = 0 then quiesce (mark m)
  else if m.sys.rst = 1 then mark m
  else powerOff m 0

/-- Everything the quiesce phase programs is programmed. -/
def quiesced (m : Mod) : Bool := m.ledger.openG.isNone && (m.ledger.groups.all (·.prog)) && m.mem.wb.isEmpty

/-- QUIESCE_END (R523, R607). -/
def quiesceEndOp (m : Mod) : Mod :=
  if m.sys.rst != 1 || !quiesced m then m
  else if m.sys.kind = 2 then powerOff m 0
  else
    let m := wipeModule (markPending m)
    setPhase { m with sys := { m.sys with rst := 2, chainFirst := false } } 4

/-! Life-cycle transitions (R590 to R593). -/

/-- Whether a transition calls for the media key to be destroyed, and whether a new one follows (Table SE-8). -/
def erases (src dest : Nat) : Bool := !(src = 1 && dest = 2)

/-- Bench 2 and the ledger zone erased (R450, R527). -/
def eraseFlash (m : Mod) : Mod :=
  { m with
    mem := { m.mem with map := [], cells := [], flash := [], wb := [], groups := [] }
    ledger := { ledger0 with nextG := m.ledger.nextG, base := m.ledger.nextG, ch := m.ledger.ch }, pkgs := []
    hbm := List.replicate 8 stack0 }

/-- Steps 4 to 6 of R592: the key, the state fuse, the mark; the token is used up. -/
def transition (m : Mod) (media : BitVec 512) : Mod :=
  match m.sec.pending with
  | none => m
  | some dest =>
    let m := if erases m.sec.lc dest then
        eraseFlash { m with sec := { m.sec with media := if dest = 4 then none else some media }, sys := { m.sys with erased := true } } else m
    let n := if dest = 3 then m.sec.service + 1 else m.sec.service
    let m := { m with sec := { m.sec with lc := dest, service := n, pending := none, token := none } }
    sendIbi (platEvent m 100 dest) 0x02#8

/-- LIFE_CYCLE_RESET: the reset that an accepted token requested begins; once its wipe has run, the transition is made. A reset
that was requested meanwhile goes on at the wipe. -/
def lifeCycleOp (m : Mod) (media : BitVec 512) : Mod :=
  if (m.sys.rst = 0 || m.ledger.stat = 4) && m.sec.token.isSome then resetBegin m 10 3
  else if m.sys.rst = 2 && m.sys.phase = 3 && m.sys.kind != 2 && m.sec.pending.isSome then transition (memoryWipe m) media
  else m

/-- TRANSITION_RESUME: a transition that a power loss interrupted goes on at its wipe (R593). -/
def transitionResume (m : Mod) : Mod :=
  if m.sys.rst = 2 && m.sys.kind = 2 && m.sec.pending.isSome then
    let k := Config.nonce m.sec.nonceNo ++ Config.nonce (m.sec.nonceNo + 1)
    let m := memoryWipe (wipeModule m)
    transition { m with sec := { m.sec with nonceNo := m.sec.nonceNo + 2 } } k
  else m

/-! The boot chain (R579 to R584). -/

/-- Why an image does not pass: SEC_BOOT_ERR.cause, 0 if it passes (R580). -/
def imageFault (m : Mod) (kind : Nat) (i : Image) : Nat :=
  if i.magic != 0x564B4931#32 || i.kind != kind then 5
  else if i.keyHash != Config.vendorRoot then 3
  else if !i.sigOk then 2
  else if !i.bodyOk then 1
  else if i.svn < m.sec.fuseSvn then 4
  else 0

/-- The kinds that are verified: the whole chain at power-on, from the hub first stage at a device reset (R579). -/
def chainKinds (m : Mod) : List Nat := if m.sys.kind = 2 then [5, 1, 2, 3, 4] else [1, 2, 3, 4]

/-- The first image of a slot that fails: its kind and cause. -/
def slotFault (m : Mod) (imgs : List Image) : Option (Nat × Nat) :=
  (chainKinds m).findSome? fun k => match imgs.find? fun i => i.kind = k with
    | none => some (k, 5)
    | some i => if imageFault m k i = 0 then none else some (k, imageFault m k i)

/-- The active slot is given up for the other one (R584). -/
def revertSlot (m : Mod) : Mod :=
  let s := m.sec
  let m := if s.trial then alert m 3 else m
  { m with sec := { m.sec with active := 1 - s.active, reverted := s.reverted || s.trial, trial := false } }

def setBootErr (m : Mod) (kind cause : Nat) (fallback : Bool) : Mod :=
  setRegN m secP 0x50 (kind * 2 ^ 24 + cause * 2 ^ 16 + bN fallback)

/-- The images of the active slot verified and started. -/
def bootSlot (m : Mod) (b : Boot) : Mod :=
  let imgs := b.imgs
  let a := m.sec.active
  let m := { m with sec := { m.sec with slots := m.sec.slots.set a imgs } }
  match slotFault m imgs with
  | none =>
    let run (k : Nat) : BitVec 512 := ((imgs.find? fun i => i.kind = k).map (·.digest)).getD 0#512
    let svn := imgs.foldl (fun v i => min v i.svn) 64
    let m := { m with sec := { m.sec with running := [run 1, run 2, run 3, run 4, run 5], runSvn := svn
                                          invalid := m.sec.invalid.filter (· != a) }
                      sys := { m.sys with found := b.found } }
    if m.sys.chainFirst then setPhase m 4 else setPhase { m with sys := { m.sys with rst := 3 } } 5
  | some (k, c) =>
    let m := { m with sec := { m.sec with invalid := a :: m.sec.invalid.filter (· != a) } }
    let other := !((1 - a) ∈ m.sec.invalid)
    let m := setBootErr m k c other
    if other then revertSlot m else setPhase m 8

/-- The highest tick stamp kept over a power loss, and the first tick after it (R504). -/
def firstTick (m : Mod) : Nat :=
  let l := (m.ledger.records.filter (·.prog.isSome)).map (·.tick) ++ (m.ledger.groups.filter (·.prog)).map (·.tick) ++ m.mgt.elog.map (·.tick)
  if l.isEmpty then 0 else l.foldl max 0 + 1

/-- The main rails are up: the first tick of a power-on (R504, R605). -/
def railsUp (m : Mod) : Mod :=
  let t := firstTick m
  let m := wipeModule m
  let m := { m with
    sys := { m.sys with tick := BitVec.ofNat 64 t, resetTick := t, kind := 2, cause := 9, rst := 2, chainFirst := true, rails := true
                        quarryOn := true, want := none, refLost := false, erased := false }
    saf := { saf0 with mcDown := m.saf.mcDown, mcTicks := m.saf.mcTicks }
    pwr := { m.pwr with starts := [] }, mgt := { m.mgt with retried := false, offCause := 0 } }
  setPhase (setMgtState m 2) 3

/-- BOOT_CHAIN: at the end of the rail sequence, or in its place in a reset; not while RESET_N holds it, nor before a
pending transition has been made (R593, R639). -/
def bootChainOp (m : Mod) (b : Boot) : Mod :=
  let m := if m.mgt.state = 1 && m.sys.phase = 2 then railsUp m else m
  if m.sys.rst != 2 || m.sys.phase != 3 || m.sys.resetNLow || m.sec.pending.isSome then m else bootSlot m b

/-- TRIAL_BOOT_TIMEOUT (R584). -/
def trialTimeoutOp (m : Mod) : Mod :=
  if m.sec.trial && m.sys.rst != 0 && m.sys.resetTick + 12000000 ≤ now m then revertSlot m else m

/-! Wipe, training, bench load (R414, R418, R420, R431). -/

/-- A stack's fault record as its programmed changes leave it. -/
def faultStep (k : Stack) : FaultChange → Stack
  | .spare pc b r s => setRow k { rowRec k pc b r with spare := some s, ce := 0, seen := [], failed := false }
  | .dead pc b s =>
    { k with dead := (pc, b, s) :: k.dead, rows := mapIf (fun r => r.pc = pc && r.bank = b && r.spare = some s) (fun r => { r with spare := none }) k.rows }
  | .retire f => { k with retired := f :: k.retired.filter (· != f) }
  | .mapout pc => { k with out := pc :: k.out.filter (· != pc) }
  | .mapin pc fails => { k with out := k.out.filter (· != pc), retired := fails ++ k.retired.filter fun f => framePc f != pc }

def faultChanges (l : Ledger) (s : Nat) : List FaultChange :=
  l.records.filterMap fun r => match r.redo with
    | .fault s' c => if s' = s && r.prog.isSome then some c else none
    | _ => none

/-- The frames of a pseudo-channel that a memory test found failing. -/
def testFails (t : PcTest) : List Nat := (t.fails.filter fun f => framePc f = t.pc && f < framesPerStack).eraseDups

/-- Whether a memory test lets a mapped-out pseudo-channel return (R420). -/
def testPasses (k : Stack) (t : PcTest) : Bool := decide (t.pc ∈ k.out) && !t.pattern && (testFails t).length ≤ 64

/-- A stack trained: its fault record loaded, the mapped-out pseudo-channels that pass the base die's memory test returned, and the
pseudo-channels marked before mapped out (R414, R419, R420). -/
def trainStack (tests : List PcTest) (m : Mod) (s : Nat) : Mod :=
  let old := stackOf m s
  let k := (faultChanges m.ledger s).foldl faultStep stack0
  let back := tests.filter fun t => t.stack = s && testPasses k t
  let ins := back.map fun t => FaultChange.mapin t.pc (testFails t)
  let fresh := old.marked.filter fun pc => !(pc ∈ k.out)
  let k := ins.foldl faultStep k
  let m := setStack m s { k with out := fresh ++ k.out, loaded := true }
  (ins ++ fresh.map FaultChange.mapout).foldl (fun m c => faultRecord m s c) m

/-- MEMORY_WIPE in its place in a reset (Table TL-7, R376); the stacks are trained after it. -/
def wipeOp (m : Mod) : Mod :=
  if m.sys.rst != 2 || m.sys.phase != 4 then m
  else
    let m := memoryWipe m
    if m.sys.chainFirst then setPhase { m with sys := { m.sys with rst := 3 } } 5 else setPhase m 3

/-- Records that are not programmed leave no trace, and numbering goes on after the last that is (R511, R524). -/
def keepProgrammed (l : Ledger) : Ledger :=
  let rs := l.records.filter (·.prog.isSome)
  let top := (rs.map (·.lsn) ++ l.images.map (·.lsn)).foldl max 0
  { l with records := rs, groups := l.groups.filter (·.prog), openG := none, next := top + 1, last := top }

/-- Package versions whose record is programmed. -/
def keepPkgs (m : Mod) : List PkgVer :=
  m.pkgs.filter fun p => m.ledger.records.any fun r => match r.redo with
    | .model id v _ => id = p.id && v = p.ver
    | _ => false

/-- A table page placed again and read from its image (reason 2); one that no longer fits in bench 1 goes to bench 2, where its
image is its contents (R419, R437). -/
def loadPage (lost : List (Nat × Nat)) (m : Mod) (x : Nat × Nat) : Mod :=
  match pickLoc m 1 (some (x.2 % 4)) with
  | some l => loadImage (placePage m x.1 1 l) lost x.1
  | none => match pickLoc m 2 none with
    | none => m
    | some l =>
      let us := ((imgOf m x.1).map (·.units)).getD []
      let m := placePage m x.1 2 l
      { m with mem := { m.mem with flash := us.foldl putUnit m.mem.flash } }

/-- A bench 1 page of weights placed again, and written from its package (R290). -/
def loadWeights (m : Mod) (x : PkgVer × Nat × Nat) : Mod :=
  if (pageEnt m x.2.2).isSome then m
  else match pickLoc m 1 none with
  | none => m
  | some l => writeBytes (placePage m x.2.2 1 l) (x.2.2 * pageSize) (weightBytes' x.1 x.2.1)

/-- A failed flash channel whose test passes is in service again (R452, R576). -/
def channelBack (m : Mod) (ch : Nat) : Mod :=
  let mc := m.mem
  let f (c : FlashCh) : FlashCh := if c.st = 3 then { c with st := if Config.spareBlocks ≤ c.spare then 2 else 1 } else c
  { m with mem := { mc with channels := modNth mc.channels ch f } }

/-- The other tests of a device reset: flash channels return, control core pairs that fail theirs stay out, and a seam that does not
train fails its link check (R576, R630). After an escalation's reset a seam or a quarry rail that is still down leaves the module
in safety stop (R560). -/
def trainUnits (m : Mod) (t : Training) : Mod :=
  let m := t.chans.foldl channelBack m
  let m := t.pairs.foldl (fun m k => goOut m (.pair k)) m
  let m := if (upto 4).all fun k => isOut m (.pair k) then latchTrip m 5 0 else m
  if m.sys.cause = 6 && !(t.seams.isEmpty && t.rails.isEmpty) then { m with saf := { m.saf with state := 1 } }
  else t.seams.foldl (fun m s => seamDown m s 0) m

/-- BENCH_LOAD, with what the reset's tests found and the image units that cannot be read (R420, R447). -/
def benchLoadOp (m : Mod) (t : Training) (lost : List (Nat × Nat)) : Mod :=
  if m.sys.rst != 3 then m
  else
    let m := { m with ledger := { keepProgrammed m.ledger with stat := 1 } }
    let m := trainUnits ((upto 8).foldl (trainStack t.pcs) m) t
    let m := { m with pkgs := keepPkgs m }
    let m := (m.pkgs.flatMap fun p => (upto p.pages.length).zip p.pages).foldl (fun m x => loadPage lost m (x.2, x.1)) m
    let m := (m.pkgs.flatMap fun p => p.wpage.map fun x => (p, x)).foldl loadWeights m
    setPhase { m with sys := { m.sys with rst := 5 }, mem := { m.mem with loaded := true } } 6

/-! Replay (R511, R524, R252, R528, R529). -/

/-- Collections that programmed records or images name. -/
def replayIds (l : Ledger) : List Nat :=
  ((l.records.filterMap fun r => match r.redo with | .create _ => some r.coll | _ => none) ++
    (l.images.filterMap fun i => i.val.map fun _ => i.coll)).eraseDups

/-- A shard as replay leaves it: the current generation and those whose hold still runs, and the unpublished segments that no
later build has discarded (R254), which bench 2 still holds. -/
def replayShard (m : Mod) (id : Nat) : Option Coll :=
  (shardFrom m.ledger id).bind fun c =>
    if c.dropped then none
    else some { c with gens := c.gens.filter (fun g => g.no = c.cur || heldBy m g), pub := none
                       built := c.built.filter fun s => (pageEnt m (pageNo s.base)).isSome }

/-- The mirror as the tailings of every shard leave it (R233, R567). -/
def mirrorOf (cs : List Coll) : List (BitVec 64 × Nat) :=
  cs.flatMap fun c =>
    ((c.tombs.map fun t => Inst.ord t.1 t.2) ++ c.tombStock.map Inst.stock).filterMap fun i => if tagLeaves c i then none else some (mirrorTag c.id i)

/-- Current package versions: the highest of each package whose record is programmed (R263). -/
def replayPkgs (m : Mod) : Mod :=
  let ver (id : Nat) : Nat := (m.pkgs.filter fun p => p.id = id).foldl (fun v p => max v p.ver) 0
  { m with pkgs := m.pkgs.map fun (p : PkgVer) => { p with cur := decide (p.ver = ver p.id) } }

/-- One entry of the replay report (Table TL-9), its keys apart. -/
structure RepEnt where
  lsn     : Nat
  cmdId   : Nat
  chute   : Option Nat
  opcode  : Nat
  outcome : Nat
  coll    : Nat
  info    : Nat
  keys    : List DWord

/-- Merge steps that a reset rolled back (R244): the newest begin record of a shard with no step publish after it, whose
bounds and target are as the step found them, and whose job had not ended. -/
def openSteps (m : Mod) : List LRec :=
  m.ledger.records.filter fun r => match r.redo, collOf m r.coll with
    | .mergeBegin lo _ t fresh, some c => !r.counted &&
      !(m.ledger.records.any fun x => x.coll = r.coll && decide (r.lsn < x.lsn) && (match x.redo with
        | .publish p => p.step
        | .mergeBegin _ _ _ _ => true
        | _ => false)) && (curGen c).mark = lo && (segOf (curGen c) t).isSome = !fresh
    | _, _ => false

/-- The last checkpoint of every build that has not ended: no later record of the segment, and its pages are still there. -/
def openBuilds (m : Mod) : List LRec :=
  m.ledger.records.filter fun r => match r.redo with
    | .buildCk b _ _ => (collOf m r.coll).isSome && b.ckpts.all (fun p => (pageEnt m p).isSome) &&
      !(m.ledger.records.any fun x => x.coll = r.coll && decide (r.lsn < x.lsn) && (match x.redo with
        | .buildCk b' _ _ => b'.seg = b.seg
        | .built g => g.no = b.seg
        | .drop => true
        | _ => false))
    | _ => false

/-- Whether a build's input is where its pointers name it: in host memory, or in pages that the reset did not wipe. -/
def inputThere (m : Mod) (c : Coll) (e : BitVec 512) : Bool :=
  let n := fld e 40 4
  let at' (b size : Nat) : Bool := !bitAt (fld e b 8) 63 || rangeOk m (fld e b 8 % 2 ^ 46) size
  at' 16 (8 * n) && at' 24 (n * vecStride c) && (fld e 32 8 = 0 || at' 32 (16 * n))

/-- The outcome of a build that a reset met (Table TL-9): 1 resumed, 2 abandoned. -/
def buildOutcome (m : Mod) (r : LRec) (e : BitVec 512) : Nat :=
  match collOf m r.coll with
  | some c => if inputThere m c e then 1 else 2
  | none => 2

/-- What became of a checkpoint's build: that of the open checkpoint of its segment, if there is one. -/
def ckptOutcome (m : Mod) (r : LRec) (seg : Nat) : Nat :=
  ((openBuilds m).findSome? fun x => match x.redo with
    | .buildCk b e _ => if x.coll = r.coll && b.seg = seg && r.lsn ≤ x.lsn then some (buildOutcome m x e) else none
    | _ => none).getD 0

/-- The entry of a host command's record (R529). A merge step's begin record and a build's checkpoint tell what became of the step
and of the build. -/
def recEnt (m : Mod) (r : LRec) : Option RepEnt :=
  let e (outcome info : Nat) (keys : List DWord) : Option RepEnt := some ⟨r.lsn, r.cmdId, r.chute, r.opcode, outcome, r.coll, info, keys⟩
  if r.chute.isNone then none
  else match r.redo with
  | .insert es _ _ => e 0 0 (es.map (·.key))
  | .delete ks _ _ => e 0 0 ks
  | .publish p => e 4 p.gen.no []
  | .built s => e 0 s.no []
  | .update _ _ _ _ _ => e 0 0 []
  | .create _ | .drop | .schema _ _ _ _ | .model _ _ _ | .retire _ => e 4 0 []
  | .mergeBegin _ _ _ _ => e (if (openSteps m).any fun x => x.lsn = r.lsn then 3 else 0) 0 []
  | .buildCk b _ _ => e (ckptOutcome m r b.seg) b.seg []
  | _ => none

/-- A merge step rolled back and run again, as an internal job of its bounds (R244). -/
def rerunMerge (m : Mod) (r : LRec) : Mod :=
  match collOf m r.coll, r.redo with
  | some c, .mergeBegin lo hi t _ =>
    let j := internalCmd m 0x20 r.coll c.cur
    let t := if (segOf (curGen c) t).isSome then t else 0xFF
    bump (addJob m { j with cost := costOf m j j.entry, merge := some { autoJob c with upto := some hi, target := t, repair := lo = hi } }) ctlP 0x118
  | _, _ => m

/-- A build resumed from its checkpoint as an internal job, its bench 1 pages placed again, or abandoned and its reservations
freed where its input was wiped (R252): CTL_BUILD_STAT counts both. -/
def resumeBuild (m : Mod) (r : LRec) : Mod :=
  match r.redo, collOf m r.coll with
  | .buildCk b e pl, some c =>
    let st := regN m ctlP 0x120
    if inputThere m c e then
      let m := b.pages.foldl (mapAt 1 (some b.die)) m
      let w : BuildW := { b with phase := if b.count < fld e 40 4 then 2 else 3, ckTick := now m, table := [] }
      let j := internalCmd m 0x21 r.coll c.cur
      let j := { j with entry := e, pl := pl, build := some w }
      let m := addJob m { j with cost := costOf m j e }
      setRegN m ctlP 0x120 (setBits (setBits st 16 8 (min 255 (bits st 16 8 + 1))) 0 8 b.seg)
    else
      let m := freeBuild m c { internalCmd m 0x21 r.coll c.cur with entry := e } b
      setRegN m ctlP 0x120 (setBits (setBits st 8 8 (min 255 (bits st 8 8 + 1))) 0 8 b.seg)
  | _, _ => m

/-- A shard's bench 1 and bench 0 pages placed again, its index as the images and the records leave it. -/
def placeShard (m : Mod) (c : Coll) : Mod :=
  let segs := c.gens.flatMap (·.segs) ++ c.built
  let m := segs.foldl (fun m s => s.table.foldl (mapAt 0 (some s.die)) (s.pages.foldl (mapAt 1 (some s.die)) m)) m
  purge (c.stock.foldl (stockWrite c.id) m) c.id

/-- The module's bench 2 pages that nothing holds any more: those that rolled-back steps and builds without a checkpoint had
taken (R206, R244). -/
def sweepFlash (m : Mod) : Mod :=
  let kept := (m.colls.flatMap fun c => (namedSegs m c).flatMap (segPgs c)) ++ m.pkgs.flatMap (·.pages) ++
    m.cmds.flatMap fun c => match c.build, collOf m (collId c.entry) with
      | some b, some co => b.ckpts ++ b.prev ++ vecPgs co b.base (fld c.entry 40 4)
      | _, _ => []
  let gone := m.mem.map.filter fun e => e.bench = 2 && !inHostWin (e.page * pageSize) && !(e.page ∈ kept)
  (gone.map (·.page)).foldl releasePage m

/-- The entries of the jobs resumed, rolled back or abandoned. -/
def jobEnts (m : Mod) : List RepEnt :=
  ((openSteps m).map fun r => ⟨r.lsn, r.cmdId, r.chute, r.opcode, 3, r.coll, 0, []⟩) ++
  ((openBuilds m).filterMap fun r => match r.redo with
    | .buildCk b e _ => some ⟨r.lsn, r.cmdId, r.chute, r.opcode, buildOutcome m r e, r.coll, b.seg, []⟩
    | _ => none)

/-- The release mark of the last programmed group. -/
def reportMark (l : Ledger) : Nat := (l.groups.getLast?.map (·.mark)).getD l.next

def repEnts (m : Mod) : List RepEnt :=
  let host := (m.ledger.records.filter fun r => decide (reportMark m.ledger ≤ r.lsn)).filterMap (recEnt m)
  let jobs := (jobEnts m).filter fun j => !(host.any fun e => e.lsn = j.lsn)
  sortBy (fun a b => decide (a.lsn < b.lsn)) (host ++ jobs)

/-- The bytes of an entry whose keys begin at 8-byte unit `off`. -/
def repBytes (x : RepEnt) (off : Nat) : List Byte :=
  toBytes x.lsn 8 ++ toBytes x.cmdId 4 ++ toBytes (x.chute.getD 0xFFFF) 2 ++ toBytes x.opcode 1 ++ toBytes x.outcome 1 ++
  toBytes x.coll 2 ++ toBytes 0 2 ++ toBytes x.info 4 ++ toBytes x.keys.length 4 ++ toBytes off 4

/-- The offset of an entry's first key: after the header, the entries and the earlier keys. -/
def keyOff (es : List RepEnt) (i : Nat) : Nat := (64 + 32 * es.length) / 8 + total ((es.take i).map (·.keys.length))

/-- The report's bytes (Tables TL-8 and TL-9). -/
def reportBytes (m : Mod) (es : List RepEnt) (ready : Nat) : List Byte :=
  let size := 64 + 32 * es.length + 8 * total (es.map (·.keys.length))
  let head := toBytes es.length 4 ++ toBytes size 4 ++ toBytes m.sys.kind 1 ++ toBytes m.sys.cause 1 ++ toBytes (bN m.sys.erased) 1 ++
    toBytes 0 5 ++ toBytes m.sys.resetTick 8 ++ toBytes ready 8 ++ toBytes (reportMark m.ledger) 8 ++ toBytes m.ledger.last 8 ++
    toBytes 0 16
  head ++ ((upto es.length).zip es).flatMap (fun x => repBytes x.2 (keyOff es x.1)) ++ es.flatMap fun x => x.keys.flatMap fun k => toBytes k.toNat 8

/-- How many of a group's two copies cannot be read or fail their CRC. -/
def copyFails (failed : List (Nat × Nat)) (g : Group) : Nat := ((upto 2).filter fun c => decide ((g.no, c) ∈ failed)).length

/-- The groups that replay reads: those before the first whose copies both fail; and whether there is one (R518). -/
def readGroups (l : Ledger) (failed : List (Nat × Nat)) : List Group := l.groups.takeWhile fun g => copyFails failed g < 2
def hasGap (l : Ledger) (failed : List (Nat × Nat)) : Bool := l.groups.any fun g => 2 ≤ copyFails failed g

/-- A group whose one copy replaces the other (R518, Table RP-9). -/
def repairCopy (failed : List (Nat × Nat)) (m : Mod) (g : Group) : Mod :=
  if copyFails failed g = 0 then m else logErr (bump m ldgP 0x58) ldgP 0x07 g.no

/-- The ledger as far as replay reads it. -/
def readable (l : Ledger) (failed : List (Nat × Nat)) : Ledger :=
  let gs := readGroups l failed
  { l with groups := gs, records := l.records.filter fun r => gs.any fun g => some g.no = r.group }

/-- The shards, mirror, packages and table pages as the records that replay reads leave them. -/
def applyRecords (m : Mod) : Mod :=
  let m := { m with colls := (replayIds m.ledger).filterMap (replayShard m) }
  let m := mirrorCheck 0 (replayPkgs { m with mirror := mirrorOf m.colls })
  (m.pkgs.flatMap fun p => p.pages.map fun pg => (p, pg)).foldl (fun m x => replayAdds m x.1 x.2) m

/-- REPLAY, with the copies of groups that cannot be read or fail their CRC (R518): a copy is replaced by the other one; where a
group has lost both, replay stops before it, and the module stays in GAP. -/
def replayOp (m : Mod) (failed : List (Nat × Nat)) : Mod :=
  if m.sys.rst != 5 then m
  else
    let m := (readGroups m.ledger failed).foldl (repairCopy failed) m
    if hasGap m.ledger failed then
      let x := applyRecords { m with ledger := readable m.ledger failed }
      { x with sys := { x.sys with rst := 7 }, ledger := { m.ledger with stat := 4 } }
    else
    let m := applyRecords m
    let es := repEnts m
    let jobs := (openSteps m, openBuilds m)
    let m := jobs.2.foldl resumeBuild (jobs.1.foldl rerunMerge (m.colls.foldl placeShard m))
    let m := sweepFlash m
    let bytes := reportBytes m es 0
    { m with sys := { m.sys with rst := 6 }, ledger := { m.ledger with stat := 2, report := some ⟨0, bytes⟩ } }

/-! Ready (R528, R581, R584). -/

/-- Module pages for the report, in consecutive numbers. -/
def reportPages : Nat → Mod → Mod
  | 0, m => m
  | n + 1, m => reportPages n ((allocModule m 1 none).map (·.2) |>.getD m)

/-- The report written to memory with the tick of ready in it. -/
def publishReport (m : Mod) : Mod :=
  match m.ledger.report with
  | none => m
  | some r =>
    let bs := r.data.take 24 ++ toBytes (now m) 8 ++ r.data.drop 32
    let a := m.mem.nextPage * pageSize
    let m := reportPages (ceilDiv bs.length pageSize) m
    let m := writeBytes m a bs
    { m with ledger := { m.ledger with report := some ⟨a, bs⟩, stat := 3 } }

/-- TCK_LAST_RESET at ready. -/
def lastResetWord (m : Mod) : Word :=
  BitVec.ofNat 32 (m.sys.kind * 2 ^ 28 + m.sys.cause * 2 ^ 24 + min 12000 ((now m - m.sys.resetTick) / 1000))

/-- READY, where the reference is present (R507). -/
def readyOp (m : Mod) : Mod :=
  if m.sys.rst != 6 || !m.sys.refOk then m
  else
    let m := publishReport { m with inited := true }
    let m := { m with
      sys := { m.sys with rst := 0, lastReset := lastResetWord m }
      sec := if m.sec.trial then { m.sec with trial := false, fuseSvn := max m.sec.fuseSvn m.sec.runSvn } else m.sec }
    setPhase m 7

/-- LDG_REPLAY_ACK (R528): the report is freed. -/
def replayAck (m : Mod) : Mod :=
  match m.ledger.report with
  | none => m
  | some r =>
    let pgs := (upto (ceilDiv r.data.length pageSize)).map fun i => pageNo r.addr + i
    pgs.foldl dropPage { m with ledger := { m.ledger with report := none } }

/-! Power (R597, R603 to R608, R639, R640, R644). -/

/-- STANDBY_POWER. -/
def standbyPowerOp (m : Mod) : Mod :=
  if m.mgt.on then m
  else
    let m := { m with
      mgt := { mgt0 with state := 0, elog := m.mgt.elog, restarts := m.mgt.restarts, offCause := m.mgt.offCause } }
    setPhase m 1

/-- STANDBY_LOSS. -/
def standbyLossOp (m : Mod) : Mod :=
  if !m.mgt.on then m
  else
    let m := if m.sys.rails then powerOff m 0 else m
    { m with
      sys := { m.sys with phase := 0 }
      mgt := { mgt0 with on := false, state := 0, elog := m.mgt.elog, restarts := m.mgt.restarts, offCause := m.mgt.offCause } }

/-- Degrees that each sensor trips at (R554), in sixteenths. -/
def tripAt (i : Nat) : Int := if i < 36 then 1680 else if i < 42 then 2000 else 1360

/-- Every sensor in use reads at least 10 °C below its limit (R557, R608). -/
def coolEnough (m : Mod) : Bool := (upto 46).all fun i => decide (i ∈ m.saf.failed) || decide (m.pwr.temp.getD i 0 + 160 ≤ tripAt i)

/-- POWER_ON (R603): the input has stayed at the level given for 10 ms. After a SAFE_OFF every sensor must be cool (R557). -/
def powerOnOp (m : Mod) (mv inlet : Nat) : Mod :=
  if m.mgt.on && m.mgt.state = 0 && !m.sys.rails && !m.sys.switchOpen && m.sys.mainEn && m.mgt.power && 46000 ≤ mv && inlet < 50 &&
     (m.mgt.offCause = 0 || coolEnough m) then
    setPhase (setMgtState { m with sys := { m.sys with mv := mv }, mgt := { m.mgt with retried := false } } 1) 2
  else m

/-- RAIL_FAILURE (R604). -/
def railFailureOp (m : Mod) (rail : Nat) : Mod :=
  if m.mgt.state != 1 || m.sys.phase != 2 then m
  else
    let m := logErrC m mgtP 5 0x17 rail
    if m.mgt.retried then setMgtState (setPhase m 1) 4
    else setPhase { m with mgt := { m.mgt with retried := true } } 1

/-- RAIL_SEQUENCE_RETRY (R604). -/
def railRetryOp (m : Mod) : Mod :=
  if m.mgt.state = 1 && m.sys.phase = 1 && m.mgt.retried then setPhase m 2 else m

/-- MAIN_EN_FALL (R606, R607, R640): a reset request of the same tick is discarded. -/
def mainEnFallOp (m : Mod) : Mod :=
  let m := { m with sys := { m.sys with mainEn := false, want := none } }
  match m.mgt.state with
  | 1 | 4 => setMgtState (setPhase m 1) 0
  | 2 => powerDown m
  | _ => m

/-- MAIN_POWER_EFFECTER (R603, R607, R608): 1 off, 2 on. -/
def mainPowerOp (m : Mod) (v : Nat) : Mod :=
  if !m.mgt.on then m
  else if v = 2 then { m with mgt := { m.mgt with power := true } }
  else if v = 1 then
    let m := { m with mgt := { m.mgt with power := false } }
    match m.mgt.state with
    | 1 | 3 | 4 => setMgtState (setPhase m 1) 0
    | 2 => powerDown m
    | _ => m
  else m

/-- AUTO_RESTART (R608). -/
def autoRestartOp (m : Mod) : Mod :=
  let cfg := regN m mgtP 0x44
  let recent := m.mgt.restarts.filter fun t => now m < t + 86400000000
  if m.mgt.on && m.mgt.state = 3 && (m.mgt.offCause = 1 || m.mgt.offCause = 2) && bitAt cfg 0 && recent.length < bits cfg 8 8 &&
     coolEnough m && m.mgt.update.isNone && m.sys.mainEn && m.mgt.power && !m.sys.switchOpen &&
     46000 ≤ m.sys.mv && decide (m.pwr.temp.getD 46 0 < 800) then
    setPhase (setMgtState { m with mgt := { m.mgt with restarts := now m :: recent, retried := false } } 1) 2
  else m

/-- RESET_N (R639): a pulse shorter than 10 µs is ignored. -/
def resetNOp (m : Mod) (low : Nat) : Mod :=
  if low < 10 then m
  else
    let m := { m with sys := { m.sys with resetNLow := true } }
    if m.sys.mainEn && m.sys.rails then requestReset m 2 1 else m

def resetNRelease (m : Mod) : Mod := { m with sys := { m.sys with resetNLow := false } }

/-- REFERENCE_LOSS (R507). -/
def referenceLossOp (m : Mod) : Mod :=
  if !m.sys.refOk then m
  else
    let m := { m with sys := { m.sys with refOk := false, refLost := true } }
    if m.sys.rails then requestReset (logErr m tckP 0x1C 0) 8 1 else m

def referenceReturnOp (m : Mod) : Mod := { m with sys := { m.sys with refOk := true } }

/-- SUPPLY_BELOW_40V (R546, R606). -/
def below40Op (m : Mod) (mv : Nat) : Mod :=
  if 40000 ≤ mv then m
  else
    let m := { m with sys := { m.sys with mv := mv } }
    if m.mgt.state = 1 then setMgtState (setPhase m 1) 0
    else if !m.sys.rails then m
    else if m.sys.rst = 0 then requestReset m 4 1
    else if m.sys.rst = 1 then m
    else powerOff m 0

/-- INPUT_OVERVOLTAGE and INPUT_SWITCH_CLOSE (R644). -/
def overvoltageOp (m : Mod) (mv : Nat) : Mod :=
  if 60000 < mv then { m with sys := { m.sys with switchOpen := true } } else m
def switchCloseOp (m : Mod) (mv : Nat) : Mod :=
  if m.sys.switchOpen && mv < 58000 then { m with sys := { m.sys with switchOpen := false } } else m

end Sys2Proof.Machine
end

