-- ==== Sys2Proof/Machine/SafetyOps.lean ====
section
/-! DEFINITION. Safety: the stop and what follows it, sensors, current limits, lockstep pairs, the mirror and the seams
(chapter 19, R630). -/

namespace Sys2Proof.Machine

/-! The safety stop (R556, R557). -/

/-- Every record in the ring programmed, and with them the mutations whose record is whole. -/
def ringProgram (m : Mod) : Mod :=
  let m := closeGroup m
  let n := (m.ledger.groups.filter fun g => !g.prog).length
  let m := { m with ledger := { m.ledger with groups := m.ledger.groups.map fun (g : Group) => { g with prog := true } } }
  progReady (bump m ldgP 0x50 n)

/-- A command that a safety stop ends (R132, R556). -/
def safetyEnd (m : Mod) (c : Cmd) : Mod :=
  match opcodeOf c.entry with
  | 0x13 | 0x14 => embedFail m c 0x33 0
  | 0x40 | 0x41 => cmdStop m c.id 0xF3 0x33 0
  | _ => finishBad m c 0x33 0

/-- Step 4: every command left completes with SAFETY_STOP. -/
def safetyEndAll (m : Mod) : Mod :=
  (m.cmds.map (·.id)).foldl (fun m id => match cmdOf m id with
    | some c => safetyEnd m c
    | none => m) m

/-- Host-run drills stop too. -/
def stopHostDrills (m : Mod) : Mod :=
  ((m.drills.filter fun d => !d.ready).map fun d => (d.stack, d.n)).foldl (fun m d =>
    drillEnd (drillStop m d.1 d.2 0xF3 4 false) d.1 d.2) m

/-- The trip cause and tick, in the registers and in the error log store (step 5). -/
def recordTrip (m : Mod) (cause index : Nat) : Mod :=
  let m := setRegN m safP 0x48 (cause * 2 ^ 24 + index % 64 * 2 ^ 8)
  let m := setRegN (setRegN m safP 0x4C (now m % 2 ^ 32)) safP 0x50 (now m / 2 ^ 32)
  logErr m safP 0x19 (cause + index % 64 * 2 ^ 8)

/-- SAFETY_TRIP. -/
def safetyStop (m : Mod) (cause index : Nat) : Mod :=
  if (m.saf.state != 0 && !offCause cause) || !m.sys.rails || cause = 0 || 9 < cause then m
  else
    let m := clearTest { m with saf := { m.saf with trip := none, state := 1 } }
    let m := wbDrain (stopHostDrills (safetyEndAll (ringProgram m)))
    let m := recordTrip { m with svc := [], mem := { m.mem with moves := [] }, mgt := { m.mgt with offCause := cause } } cause index
    if cause = 2 then { m with sys := { m.sys with quarryOn := false }, saf := { m.saf with analog := some (m.saf.analog.getD (now m)) } }
    else if offCause cause then powerOff m 3
    else requestReset { m with saf := { m.saf with state := 2 } } 6 1

/-- ANALOG_TRIP (R555): the quarry and HBM stages fall at once. -/
def analogTripOp (m : Mod) (i : Nat) : Mod :=
  if 42 ≤ i || m.saf.analog.isSome || !m.sys.rails then m
  else latchTrip { m with sys := { m.sys with quarryOn := false }, saf := { m.saf with analog := some (now m) } } 2 i

/-- ANALOG_TRIP_DELAY: 3 ms later the hub and flash stages fall. -/
def analogDelayOp (m : Mod) : Mod :=
  match m.saf.analog with
  | some t => if t + 3000 ≤ now m then powerOff { m with mgt := { m.mgt with offCause := 2 } } 3 else m
  | none => m

/-! Sensors (R533, R554, R558, R602). -/

/-- The sensors of the die of a sensor: its own die's, or for a base die those of the quarry die that drives its stack. -/
def dieSensors (i : Nat) : List Nat :=
  if i < 24 then (upto 6).map fun k => i / 6 * 6 + k
  else if i < 28 then (upto 4).map fun k => 24 + k
  else if i < 36 then (upto 6).map fun k => (i - 28) / 2 * 6 + k
  else []

/-- A sensor differs from the mean of its die, or from the model's estimate, by more than sensor_delta. -/
def implausible (m : Mod) (temp est : List Int) (i : Nat) : Bool :=
  let delta : Int := bits (safCfg m) 8 8 * 16
  let t := temp.getD i 0
  let ref := (dieSensors i).filter fun k => k != i && !(k ∈ m.saf.failed)
  let sum : Int := ref.foldl (fun s k => s + temp.getD k 0) 0
  let n : Int := ref.length
  decide (i < 36) && (decide (delta * n < (t * n - sum).natAbs) || decide (delta < (t - est.getD i 0).natAbs))

/-- The ticks in a row that each sensor has been implausible. -/
def offCounts (m : Mod) (temp est : List Int) : List (Nat × Nat) :=
  let old (i : Nat) : Nat := mapGet (fun _ => 0) m.saf.off i
  ((upto 48).filter (implausible m temp est)).map fun i => (i, old i + 1)

/-- How many of its thresholds a temperature sensor has reached: warning, critical, fatal (Table MG-4). -/
def tempLevel (m : Mod) (i : Nat) (t : Int) : Nat :=
  let fatal : Int := if i < 36 then 1840 else 2160
  bN (decide ((thermTarget m.pwr.therm * 16 : Nat) ≤ t)) + bN (decide (i < 46 ∧ tripAt i ≤ t)) + bN (decide (i < 42 ∧ fatal ≤ t))
def voltLevel (mv : Nat) : Nat := bN (decide (56000 ≤ mv)) + bN (decide (60000 ≤ mv))

/-- Threshold crossings reported by a new sample (R602, R644). -/
def crossings (m : Mod) (x : Sample) : Mod :=
  let m := (upto 48).foldl (fun m i =>
    let l := tempLevel m i (x.temp.getD i 0)
    if l = tempLevel m i (m.pwr.temp.getD i 0) then m else platEvent (alert m 1) (i + 1) l) m
  if voltLevel x.mv = voltLevel m.sys.mv then m else sendIbi (platEvent m 49 (voltLevel x.mv)) 0x02#8

/-- The sensors that reach their limit in a sample, and the base dies whose sensor has failed and whose estimate does. -/
def overLimit (m : Mod) (x : Sample) : List Nat := (upto 46).filter fun i => !(i ∈ m.saf.failed) && decide (tripAt i ≤ x.temp.getD i 0)
def overEst (m : Mod) (x : Sample) : List Nat :=
  ((upto 8).map (28 + ·)).filter fun i => decide (i ∈ m.saf.failed) && decide (1600 ≤ x.est.getD i 0)

/-- SENSOR_SAMPLE. -/
def sensorSampleOp (m : Mod) (x : Sample) : Mod :=
  if !m.mgt.on || m.saf.mcDown then m
  else
    let hits := (overLimit m x).filter (· ∈ m.saf.atLimit) ++ (overEst m x).filter (· ∈ m.saf.estLimit)
    let fell := decide (x.mv < 44000) && decide (44000 ≤ m.sys.mv)
    let m := crossings m x
    let m := { m with
      saf := { m.saf with atLimit := overLimit m x, estLimit := overEst m x, off := offCounts m x.temp x.est }
      pwr := { m.pwr with temp := x.temp, pred := x.pred, est := x.est, ma10 := x.ma10, thermEv := true
                          supplyEv := if fell && m.sys.rails then some x.mv else m.pwr.supplyEv }
      sys := { m.sys with mv := x.mv } }
    let m := if m.sys.rails then dipSample m x.mv else m
    match hits with
    | [] => m
    | i :: _ => latchTrip m 1 i

/-- Every sensor of a quarry die or of the hub has failed. -/
def dieBlind (m : Mod) (i : Nat) : Bool := i < 28 && (dieSensors i).all fun k => decide (k ∈ m.saf.failed)

/-- A sensor marked failed; a die that has lost every sensor escalates (R558). -/
def failSensor (m : Mod) (i : Nat) : Mod :=
  if i ∈ m.saf.failed then m
  else
    let m := logErr { m with saf := { m.saf with failed := i :: m.saf.failed } } safP 0x16 i
    if dieBlind m i then latchTrip m 8 i else m

/-- SENSOR_FAIL (R558). -/
def sensorFailOp (m : Mod) (i : Nat) : Mod :=
  let t := m.pwr.temp.getD i 0
  if 48 ≤ i || !(2 ≤ mapGet (fun _ => 0) m.saf.off i || t < -640 || 2400 < t) then m else failSensor m i

/-- The sensors of dies that differ from the coolant inlet by more than sensor_delta: those that test mode 5 fails (R610). -/
def offInlet (m : Mod) : List Nat :=
  (upto 36).filter fun i => !(i ∈ m.saf.failed) &&
    decide (((bits (safCfg m) 8 8 * 16 : Nat) : Int) < (m.pwr.temp.getD i 0 - m.pwr.temp.getD 46 0).natAbs)

/-! The management controller (R559). -/

/-- MC_LOCKSTEP_MISMATCH. -/
def mcMismatchOp (m : Mod) : Mod :=
  if !m.mgt.on then m
  else
    let recent := m.saf.mcTicks.filter fun t => now m < t + 1000000
    let m := logErr { m with saf := { m.saf with mcDown := true, mcTicks := now m :: recent } } mgtP 0x09 0
    if recent.isEmpty then m else latchTrip m 6 0

/-- MC_RESTART_END. -/
def mcRestartOp (m : Mod) : Mod :=
  if m.saf.mcDown then alert { m with saf := { m.saf with mcDown := false } } 4 else m

/-! Control core pairs (R562 to R564). -/

/-- LOCKSTEP_MISMATCH: the pair restarts; the last pair to go out of service escalates. -/
def lockstepOp (m : Mod) (n : Nat) : Mod :=
  if 4 ≤ n || isOut m (.pair n) then m
  else
    let m := unitFaultOp (bump m safP 0x5C) (.pair n) 0x09 n
    if (upto 4).all fun k => isOut m (.pair k) then latchTrip m 5 0 else m

/-- Control core pairs in service: SAF_STAT.pairs_ok. -/
def pairsOk (m : Mod) : Nat := ((upto 4).filter fun k => !isOut m (.pair k)).length

/-! The mirror (R567). -/

/-- MIRROR_UNCORRECTABLE: emission closes and the rebuild starts; a second error during it escalates. -/
def mirrorErrorOp (m : Mod) : Mod :=
  if m.saf.rebuild then latchTrip m 7 0
  else
    let m := logErr (bump { m with saf := { m.saf with closed := true, rebuild := true } } safP 0x78) safP 0x02 0
    match m.cmds.find? fun c => c.search.any fun s => s.stage = 3 with
    | some c => finishBad m c 0x32 0
    | none => m

/-- MIRROR_REBUILD_END: the mirror holds what the tailings hold, and emission opens. -/
def mirrorBuiltOp (m : Mod) (ok : Bool) : Mod :=
  if !m.saf.rebuild then m
  else if ok then { m with mirror := mirrorOf m.colls, saf := { m.saf with closed := false, rebuild := false } }
  else latchTrip m 7 0

/-! Rails and seams (R532, R560, R561, R630). -/

/-- The units on a rail group, in the order of sensors 52 to 65. -/
def railUnits (r : Nat) : List UnitId :=
  if r ≤ 4 then (allPages.filter fun p => p.die = r && restartable (.page p)).map UnitId.page ++ (if r = 4 then (upto 4).map UnitId.pair else [])
  else if r < 13 then (upto 384).map fun n => .drill (r - 5) n
  else []

/-- The unit that holds the work which a sieve or a crusher shares with its walker or face. -/
def ownsWork : UnitId → Bool
  | .page p => !(p.blk = .siv || p.blk = .cru)
  | _ => true

/-- RAIL_CURRENT_LIMIT: a unit fault of every unit on the rail; a repeat escalates. -/
def railLimitOp (m : Mod) (r : Nat) : Mod :=
  if 14 ≤ r || !m.sys.rails then m
  else
    let again := recentEvent m r
    let m := noteEvent (logErr m pwrP 0x17 r) r
    let us := (railUnits r).filter (mayRestart m)
    let m := (us.filter ownsWork).foldl replayWork (us.foldl (wipeUnit true) m)
    if again then latchTrip m 4 r else m

/-- INPUT_CURRENT_LIMIT. -/
def inputLimitOp (m : Mod) : Mod := latchTrip m 3 0

/-- SEAM_REPLAY: `replays` is how often the transfer has been replayed in a row. -/
def seamReplayOp (m : Mod) (s replays : Nat) : Mod :=
  let a := (seamEnds s).1
  if 8 ≤ s || replays = 0 || !m.sys.rails || isOut m (.page a) then m
  else
    let m := bump (bump m a 0x44) a 0x48
    if replays < 8 then logErrC m a 0 0x06 (a.inst + replays * 4) else seamDown m s replays

end Sys2Proof.Machine
end

