-- ==== Sys2Proof/Machine/Admission.lean ====
section
/-! DEFINITION. Admission (chapter 03): entries fetched, heads decided, the arbiter's choice in a tick, and what each
admitted command starts. -/

namespace Sys2Proof.Machine
open Fp

/-! Host inputs (R101, R469). -/

/-- The lines of the inputs that lie in host memory. -/
def inputLines (l : List (Nat × Nat)) : List Nat :=
  l.flatMap fun x =>
    if x.1 = 0 || bitAt x.1 63 || x.2 = 0 then []
    else (upto ((x.1 + x.2 - 1) / 64 + 1 - x.1 / 64)).map fun i => x.1 / 64 + i

/-- One input line read: from the host-line cache, into it where it has room, or past it. -/
def inputLine (keep : Bool) (m : Mod) (line : Nat) : Mod :=
  if line ∈ m.velom.lines then m
  else if keep && m.velom.lines.length + (m.velom.waiting.filter fun w => w.2.1 = 2).length < lineMax then hostKeep m line
  else hostLoad m (line * 64) 64

def readInputs (keep : Bool) (m : Mod) (l : List (Nat × Nat)) : Mod := (inputLines l).foldl (inputLine keep) m

/-! ENTRY_FETCH (R68, R101). -/

/-- The work record of an entry as it is fetched. -/
def fetchedCmd (m : Mod) (ch slot db : Nat) (e : BitVec 512) (pl : Payload) : Cmd :=
  { internalCmd m 0 0 0 with
    chute := some ch, slot := slot, entry := e, pl := pl, dbTick := db, verdict := fetchVerdict m e pl
    cfgSeq := (collOf m (collId e)).map (·.cfgSeq), admitted := false }

/-- Completion slots that are neither free nor only reserved. -/
def slotFree (m : Mod) (c : ChuteRec) : Bool := decide (c.written + (chuteCmds m c.no).length < c.released + cqDepth c)

/-- Whether the module fetches entries of a chute now. -/
def fetchOpen (m : Mod) (c : ChuteRec) : Bool :=
  m.inited && m.sys.rst = 0 && m.sys.rails && (bitAt c.geom.toNat 31 || linkUp m) && slotFree m c

/-- An entry fetched while the module is in a safety stop: it completes with SAFETY_STOP (R556, R560). -/
def fetchStopped (m : Mod) (ch : ChuteRec) (slot db : Nat) (rest : List (Nat × Nat)) (e : BitVec 512) (pl : Payload) : Mod :=
  let m := setChute m { ch with wait := rest }
  let c := fetchedCmd m ch.no slot db e pl
  let m := finishBad { m with cmds := m.cmds ++ [c], nextCmd := m.nextCmd + 1 } c 0x33 0
  if ch.draining then chuteFree m ch.no else m

/-- The chute's first valid slot not yet fetched is fetched, and it holds `e`. -/
def entryFetchOp (m : Mod) (n : Nat) (e : BitVec 512) (pl : Payload) : Mod :=
  match chuteOf m n with
  | none => m
  | some ch =>
    match ch.wait with
    | [] => m
    | (slot, db) :: rest =>
      let pl := loadPayload m e pl
      if !fetchOpen m ch then m
      else if m.saf.state != 0 then fetchStopped m ch slot db rest e pl
      else if readAtFetch (opcodeOf e) && inputLeased m e pl then recallInputs m e pl
      else
        let m := setChute m { ch with wait := rest }
        let m := if bitAt ch.geom.toNat 31 then m else hostLoad m (ch.sqBase.toNat + 64 * slot) 64
        let c := fetchedCmd m n slot db e pl
        if ch.draining then
          let m := { m with cmds := m.cmds ++ [c], nextCmd := m.nextCmd + 1 }
          chuteFree (finishBad m c 0x12 1) n
        else
          let m := if readAtFetch (opcodeOf e) then readInputs false m (inputsOf m e pl) else m
          { m with cmds := m.cmds ++ [c], nextCmd := m.nextCmd + 1 }

/-! What holds a head back before it is decided (R69, R91, R92, R245, R255). -/

/-- Commands of the head's chute that come before it and have not completed. -/
def earlier (m : Mod) (c : Cmd) : List Cmd :=
  match c.chute with
  | some n => (chuteCmds m n).filter fun x => x.id < c.id
  | none => []

def waitsFor (m : Mod) (c : Cmd) : Bool :=
  let op := opcodeOf c.entry
  (fenceBefore c.entry && (!(earlier m c).isEmpty || ((c.chute.bind (chuteOf m)).bind (·.doneAt)) = some (now m))) || (earlier m c).any (fun x => opcodeOf x.entry = 0x61) ||
  (op = 0x22 && (collOf m (collId c.entry)).any fun co => co.pub.isSome) || (op = 0x20 && ((mergeCmd m (collId c.entry)).isSome || (collOf m (collId c.entry)).any fun co => co.mergeEnd = some (now m)))

/-! Step 1 and 2 of R661. -/

def badColl : Option Fin := some { status := 0x21 }

def collCheck (m : Mod) (e : BitVec 512) : Option Fin :=
  if !needsColl (opcodeOf e) then none
  else if opcodeOf e = 0x70 then (if (shardOf m (collId e)).isSome then badColl else none)
  else match collOf m (collId e) with
  | none => badColl
  | some c => if opcodeOf e = 0x71 && c.dropping then badColl else none

/-- A collection-wide search (Table CM-2). -/
def isWide (e : BitVec 512) : Bool := bitAt (sFlags e) 2
/-- A search that this module fans out. -/
def isHomeSearch (c : Cmd) : Bool := opcodeOf c.entry = 0x01 && isWide c.entry && c.origin.isNone
def isHome (m : Mod) (c : Coll) : Bool := c.home = 0xFFF || m.fab.node = some c.home

/-- The series record that a continued collection-wide pass names (R499). -/
def seriesOf (m : Mod) (e : BitVec 512) : Option Series :=
  m.fab.series.find? fun s => s.coll = collId e && s.homeGen = genField e &&
    some (orderKey s.score s.key) = boundOf e

def genCheck (m : Mod) (c : Cmd) : Option Fin :=
  let e := c.entry
  let g := genField e
  match collOf m (collId e) with
  | none => none
  | some co =>
    if !(opcodeOf e = 0x01 || opcodeOf e = 0x03) || g = 0 then none
    else if co.cur < g then bad 12
    else match genOf co g with
    | none => some { status := 0x24 }
    | some x =>
      if x.retired || !(g = co.cur || pinned m co.id g || heldBy m x) then some { status := 0x24 }
      else if isHomeSearch c && bitAt (sFlags e) 1 && (seriesOf m e).isNone then some { status := 0x24 }
      else none

/-! Step 4 of R661. -/

def pkgCheck (m : Mod) (e : BitVec 512) (k : PkgVer → Option Fin) : Option Fin :=
  match pkgField (opcodeOf e) with
  | none => none
  | some o => match pkgCur m (fld e o 2) with
    | none => bad o
    | some p => k p

/-- Faces a RUN_FACE may use. -/
def facesUp (m : Mod) : Nat :=
  (m.faces.filter fun f => inService m (.page (facP f.id)) && inService m (.page (cruP f.id))).length

def mapBad (l : List (BitVec 16)) : Bool := l.isEmpty || 4096 < l.length || l.any fun x => decide (4096 ≤ x.toNat)

def embedInsertCheck (m : Mod) (co : Coll) (c : Cmd) (p : PkgVer) : Option Fin :=
  let ks := (upto (docsN c.entry)).map fun i => (docOf c i).key
  match keyFault true ks with
  | some i => bad 16 i
  | none => if p.pkg.enc.outDim != co.d then bad 26 else insertCheck m co ks ks.length true

def opCheck (m : Mod) (c : Cmd) : Option Fin :=
  let e := c.entry
  let onColl (k : Coll → Option Fin) : Option Fin := (collOf m (collId e)).bind k
  match opcodeOf e with
  | 0x01 => onColl fun co => if isHomeSearch c && !isHome m co then bad 39 else none
  | 0x10 => onColl fun co => insertCheck m co c.pl.keys c.pl.keys.length true
  | 0x11 => onColl fun co => insertCheck m co c.pl.keys c.pl.keys.length false
  | 0x13 => pkgCheck m e fun _ => none
  | 0x14 => onColl fun co => pkgCheck m e (embedInsertCheck m co c)
  | 0x20 => onColl fun co => mergeCheck m co e
  | 0x21 => onColl fun co => buildCheck m co e
  | 0x22 => onColl fun co => (publishCheck co e).orElse fun _ => if fld e 56 8 != 0 && mapBad c.pl.shardMap then bad 56 else none
  | 0x23 => onColl fun co => retireCheck co e
  | 0x30 | 0x31 => pkgCheck m e fun p => if (tableOf p (fld e 18 1)).isNone then bad 18 else none
  | 0x40 => pkgCheck m e fun p =>
    if (faceProgram p (fld e 18 2)).isNone then bad 18 else if facesUp m < fld e 20 2 then bad 20 else none
  | 0x41 => pkgCheck m e fun p =>
    if (drillProgram p (fld e 18 2)).isNone then bad 18
    else if ((upto 8).filter (bitAt (fld e 20 1))).any fun s => (moduleDrills m s (fld e 22 2)).length < fld e 22 2 then bad 22
    else none
  | _ => none

/-- state_check (R661). -/
def stateCheck (m : Mod) (c : Cmd) : Option Fin :=
  (collCheck m c.entry).orElse fun _ => (genCheck m c).orElse fun _ =>
    match payloadVerdict m c with
    | some (s, i) => some { status := s, info := i }
    | none => opCheck m c

/-- The checks of a head: its form (R72, R99), then its state. A request of the fabric was checked by its home. -/
def headCheck (m : Mod) (c : Cmd) : Option Fin :=
  match (if c.origin.isSome then none else entryFault m c.entry) with
  | some i => some { status := 0x20, info := i }
  | none => (stateCheck m c).orElse fun _ => if inputHurt m c.entry c.pl then some { status := 0x30 } else none

/-! The service-rate model (R79 to R82). -/

/-- Percent of a pool's rate that a class is promised (R80). -/
def promised (m : Mod) (cls : Nat) : Nat := if cls = 0 then 100 else 100 - bits m.adm.reserve.toNat 0 8

/-- Ticks until a pool's backlog is served. -/
def poolTicks (m : Mod) (cls p : Nat) : Nat :=
  let b := m.adm.backlog.getD p 0
  let r := m.adm.rate.getD p 0 * promised m cls
  if b = 0 then 0 else if r = 0 then 0xFFFFFFFF else ceilDiv (b * 10000) r

/-- predict(e), as a completion can report it. -/
def predict (m : Mod) (c : Cmd) (e : BitVec 512) (cls : Nat) : Nat :=
  let k := costOf m c e
  let t := ((upto 16).filter fun p => k.getD p 0 != 0).foldl (fun t p => max t (poolTicks m cls p)) 0
  min 0xFFFFFFFF (t + Config.latency e)

/-- The least effort reduction that meets the deadline, if any does. -/
def levelFor (m : Mod) (c : Cmd) : Option Nat :=
  let cls := classOf c.entry
  if cls = 3 then some 0
  else (if elastic c.entry then [0, 1, 2] else [0]).find? fun l =>
    decide (now m + predict m c (reducedEntry c.entry l) cls ≤ c.dbTick + deadlineOf c.entry)

/-! Why a head is deferred (R83, R87, R197, R446, R517, R567). -/

/-- The counter that a deferral raises, or none where no register counts it. -/
def deferral (m : Mod) (c : Cmd) (cost : List Nat) : Option (Option (Page × Nat)) :=
  let op := opcodeOf c.entry
  let cls := classOf c.entry
  if m.saf.closed && (op = 0x01 || op = 0x03) then some none
  else if !creditOk m op cls (energyOf m (if isJob op then stepCostOf c.entry else cost)) then some (some (chuP, 0x78))
  else if cls = 3 && !bulkRoom m cost then some none
  else if mirrorFree m < tagsNeeded m c.entry c.pl then some (some (ctlP, 0x10C))
  else if isMutation op && (ringFull m || zoneFull m) then some (some (ldgP, 0x5C))
  else none

/-! What an admitted command starts. -/

/-- The other nodes of a collection's pinned map (R495, R496). -/
def otherNodes (m : Mod) (co : Coll) : List Nat :=
  sortBy (fun a b => decide (a < b)) ((co.shardMap.map (·.toNat)).eraseDups.filter fun n => m.fab.node != some n)

/-- The frames of one SRCH_REQ (R496). -/
def reqFrames (m : Mod) (dst tag : Nat) (e : BitVec 512) (pl : Payload) : List Frame :=
  let bytes := toBytes e.toNat 64 ++ (pl.query.flatMap fun w => toBytes w.toNat 4) ++ (if fld e 56 8 = 0 then [] else pl.filter)
  let s := slotsOf bytes
  let n := ceilDiv s.length 16
  (upto n).map fun i => mkFrame m 0x10 dst tag i (i + 1 = n) ((s.drop (16 * i)).take 16)

/-- The request to one node: its deadline, and the generation its series record holds. -/
def fanOutTo (c : Cmd) (m : Mod) (node : Nat) : Mod :=
  let dl := match c.stop with
    | some t => max 1 (t - now m - bits (fabCfg m) 0 8)
    | none => 0
  let g := (((seriesOf m c.entry).bind fun s => s.gens.find? fun x => x.1 = node).map (·.2)).getD 0
  let tag := m.fab.tag
  let fs := reqFrames m node tag (putFld (putFld c.entry 8 3 dl) 12 4 (if bitAt (sFlags c.entry) 1 then g else 0)) c.pl
  let m := { m with fab := { m.fab with tag := (tag + 1) % 2 ^ 32, txs := m.fab.txs ++ [⟨tag, node, 0, c.id, 0, now m, 0, fs⟩] } }
  fs.foldl sendAddr m

def searchAdmit (m : Mod) (c : Cmd) : Mod :=
  match collOf m (collId c.entry) with
  | none => m
  | some co => match genOf co c.gen with
    | none => m
    | some g =>
      let s := startSearch m co g c.entry c.pl c.level
      let nodes := if isHomeSearch c then otherNodes m co else []
      let m := putSearch (if s.flat then bump m sivP 0x44 else m) c { s with waitFor := nodes }
      let m := placeSearch m s
      let m := nodes.foldl (fanOutTo c) m
      if isHomeSearch c then bump m fabP 0x84 else m

/-- EMBED_INSERT takes its stockpile positions (R28, R230); their vectors follow. -/
def embedInsertAdmit (m : Mod) (c : Cmd) : Mod :=
  match collOf m (collId c.entry) with
  | none => m
  | some co =>
    let n := docsN c.entry
    let ent (i : Nat) : SEntry :=
      ⟨co.tail + BitVec.ofNat 32 i, (docOf c i).key, [], 0#32, maskAttr co.enable ((docOf c i).attr.getD co.dflt), 0#32, none, true⟩
    setCmd (setColl m (putEntries co ((upto n).map ent))) { c with embed := some (startEmbed c.entry (positions co n) co.enable co.dflt) }

def startWork (m : Mod) (c : Cmd) : Mod :=
  match opcodeOf c.entry with
  | 0x01 => searchAdmit m c
  | 0x10 => insertAdmit m c
  | 0x11 => upsertAdmit m c
  | 0x12 => deleteAdmit m c
  | 0x13 => setCmd m { c with embed := some (startEmbed c.entry [] 0 0#128) }
  | 0x14 => embedInsertAdmit m c
  | 0x20 => mergeAdmit m c
  | 0x21 => buildAdmit m c
  | 0x22 => publishAdmit m c
  | 0x23 => retireAdmit m c
  | 0x31 => setCmd m { c with upd := some ⟨false, 0, []⟩ }
  | 0x40 | 0x41 => setCmd m { c with run := some ⟨false, [], [], [], [], [], 0⟩ }
  | 0x50 => setCmd m { c with left := hintPages c.entry }
  | 0x51 => setCmd m { c with left := flushSet m c.entry }
  | 0x60 => abortAdmit m c
  | 0x70 => createAdmit m c
  | 0x71 => dropAdmit m c
  | 0x72 => schemaAdmit m c
  | _ => m

/-! The admission of an entry (Table EX-8). -/

/-- The generation a command pins (R31, R102); 0 where its opcode pins none. -/
def pinGen (m : Mod) (e : BitVec 512) : Nat :=
  match collOf m (collId e) with
  | none => 0
  | some co => if !pinsGen (opcodeOf e) then 0 else if genField e != 0 then genField e else co.cur

/-- The version of the package that a command pins (R31). -/
def pinPkg (m : Mod) (e : BitVec 512) : Option Nat :=
  (pkgField (opcodeOf e)).bind fun o => (pkgCur m (fld e o 2)).map (·.ver)

/-- The stop tick (R86). -/
def stopTickOf (m : Mod) (c : Cmd) : Option Nat :=
  if hasStop (opcodeOf c.entry) && classOf c.entry != 3 then some (c.dbTick + deadlineOf c.entry - m.adm.margin) else none

/-- A command's work record as it is admitted. -/
def pinCmd (m : Mod) (c : Cmd) (lvl : Nat) (cost : List Nat) : Cmd :=
  { c with
    admitted := true, seq := m.adm.seq, admTick := now m, gen := pinGen m c.entry, pkgVer := pinPkg m c.entry
    stop := stopTickOf m c, level := lvl, cost := cost }

/-- Its cost in the pools, its class's grant and its energy (R76, R79, R537); a job draws grant and energy step by step
(R87). -/
def charge (m : Mod) (c : Cmd) (cost : List Nat) : Mod :=
  let cls := classOf c.entry
  let op := opcodeOf c.entry
  let m := addBacklog (if isJob op then m else draw m cls (creditClass op cls) cost) cls cost
  { m with adm := { m.adm with seq := m.adm.seq + 1 } }

/-- A decision counted against the limits of the tick (R74). -/
def noteDec (m : Mod) (c : Cmd) : Mod := { m with adm := { m.adm with decs := c.chute.getD 4096 :: m.adm.decs } }

def admitCmd (m : Mod) (c : Cmd) (lvl : Nat) (cost : List Nat) : Mod :=
  let c' := pinCmd m c lvl cost
  let m := setCmd (charge m c cost) c'
  let m := if lvl = 0 then m else bump m chuP 0x74
  let m := readInputs true m ((if readAtFetch (opcodeOf c.entry) then [] else inputsOf m c.entry c.pl) ++ docInputs c.entry c.pl)
  startWork m c'

/-! One head. -/

/-- What deciding a head came to. -/
inductive Dec where
  | waits
  | deferred
  | decided
  deriving DecidableEq, Repr

/-- SHED (R80, R81). -/
def shed (m : Mod) (c : Cmd) (info : Nat) : Mod := bump (finishBad (noteDec m c) c 0x10 info) chuP 0x70

/-- What time, credit and room make of a well-formed head that its state admits: shed with its info, deferred with the
counter that shows it, or admitted at an effort level. -/
inductive Timed where
  | shed (info : Nat)
  | defers (counter : Option (Page × Nat))
  | admits (level : Nat)
  deriving DecidableEq, Repr

def timed (m : Mod) (c : Cmd) : Timed :=
  let cls := classOf c.entry
  if cls != 3 && c.dbTick + deadlineOf c.entry ≤ now m then .shed 0xFFFFFFFF
  else match levelFor m c with
  | none => .shed (predict m c c.entry cls)
  | some l => match deferral m c (costOf m c (reducedEntry c.entry l)) with
    | some k => .defers k
    | none => .admits l

/-- A deferral is counted (R83); one for want of credit shows in PWR_STAT. -/
def countDeferral (m : Mod) (c : Cmd) : Option (Page × Nat) → Mod
  | some (p, r) =>
    let short := p = chuP && r = 0x78 && !(lowerPaused m && 2 ≤ classOf c.entry)
    bump { m with pwr := { m.pwr with short := m.pwr.short || short } } p r
  | none => m

def decideTimed (m : Mod) (c : Cmd) : Mod × Dec :=
  match timed m c with
  | .shed info => (shed m c info, .decided)
  | .defers k => (countDeferral m c k, .deferred)
  | .admits l => (admitCmd (noteDec m c) c l (costOf m c (reducedEntry c.entry l)), .decided)

/-- A head with its inputs as they are read now. -/
def withInputs (m : Mod) (c : Cmd) : Cmd := { c with pl := headPayload m c }

/-- The admission decision for one chute head; an input leased to the host for writing is recalled first. -/
def decideHead (m : Mod) (c : Cmd) : Mod × Dec :=
  let c := withInputs m c
  if waitsFor m c then (m, .waits)
  else if inputLeased m c.entry c.pl then (recallInputs m c.entry c.pl, .deferred)
  else match headCheck m c with
  | some f => (finish (noteDec m c) c f, .decided)
  | none => decideTimed m c

/-! The arbiter (R74 to R78, R564). -/

/-- Whether admission acts in this tick. -/
def admissionOpen (m : Mod) : Bool :=
  m.inited && m.sys.rails && m.sys.rst = 0 && m.saf.state = 0 && m.adm.held ≤ now m && !testQuiet m &&
  (upto 4).any fun k => !isOut m (.pair k) && !(k ∈ m.sys.halted)

/-- The limits of R74, as R564 scales them. -/
def tickLimit (m : Mod) : Nat := 256 * pairsOk m / 4
def chuteLimit (m : Mod) : Nat := tickLimit m / 8

/-- A chute's head: the first command of its ring order that is not admitted (R69). -/
def chuteHead (m : Mod) (n : Nat) : Option Cmd := m.cmds.find? fun c => c.chute = some n && !c.admitted

/-- Every head: those of the chutes, and the requests of the fabric. -/
def heads (m : Mod) : List Cmd :=
  m.chutes.filterMap (fun c => chuteHead m c.no) ++ m.cmds.filter fun c => c.origin.isSome && !c.admitted

/-- A class's weight in force (R76, R95). -/
def weightOf (m : Mod) (cls : Nat) : Nat := max 1 (bits m.adm.weights.toNat (8 * (cls - 1)) 8)

/-- Whether BULK is below its floor of the window's capacity (R77). -/
def bulkShort (m : Mod) : Bool :=
  decide (m.adm.granted.getD 3 0 * 100 < capacity m * bits m.adm.reserve.toNat 8 8)

/-- Whether class `a` has received less of its share than class `b`. -/
def shareLt (m : Mod) (a b : Nat) : Bool :=
  decide (m.adm.granted.getD a 0 * weightOf m b < m.adm.granted.getD b 0 * weightOf m a)

/-- The class that decides next among those with heads. -/
def nextClass (m : Mod) (cs : List Nat) : Option Nat :=
  if 0 ∈ cs then some 0
  else if 3 ∈ cs && bulkShort m then some 3
  else match [1, 2, 3].filter (· ∈ cs) with
  | [] => none
  | k :: ks => some (ks.foldl (fun a b => if shareLt m b a then b else a) k)

/-- The arbiter's running choice: the module as it would stand, the commands chosen with what was decided of their time and
credit, and the heads that cannot go on. -/
structure Arb where
  mod    : Mod
  chosen : List (Nat × Timed)
  stuck  : List Nat

/-- Whether the tick's limits leave a command's chute a decision (R74). -/
def mayDecide (m : Mod) (c : Cmd) : Bool :=
  decide (m.adm.decs.length < tickLimit m) && (match c.chute with
    | some n => decide ((m.adm.decs.filter (· = n)).length < chuteLimit m)
    | none => true)

/-- The head that decides next. -/
def nextHead (a : Arb) : Option Cmd :=
  let hs := (heads a.mod).filter fun c => !(c.id ∈ a.stuck) && mayDecide a.mod c
  (nextClass a.mod (hs.map fun c => classOf c.entry)).bind fun k => hs.find? fun c => classOf c.entry = k

/-- Pass 1: the heads that this tick decides, chosen class by class. -/
def arbitrate : Nat → Arb → Arb
  | 0, a => a
  | fuel + 1, a => match nextHead a with
    | none => a
    | some c => match decideHead a.mod c with
      | (m', .decided) => arbitrate fuel { a with mod := m', chosen := a.chosen ++ [(c.id, timed a.mod (withInputs a.mod c))] }
      | _ => arbitrate fuel { a with stuck := c.id :: a.stuck }

/-- The order of R29; requests of the fabric come after the chutes. -/
def admitsBefore (a b : Cmd) : Bool :=
  let k (c : Cmd) : Nat := c.chute.getD 4096
  decide (k a < k b) || (k a = k b && decide (a.id < b.id))

/-- Pass 2: one chosen command takes effect, if it is still a head. Its state is checked as it stands then (R509); its time
and credit were decided in pass 1, and only its mirror tags must still be there (R235). -/
def applyOne (m : Mod) (x : Nat × Timed) : Mod :=
  match (heads m).find? fun c => c.id = x.1 with
  | none => m
  | some c =>
    let c := withInputs m c
    if waitsFor m c || inputLeased m c.entry c.pl then m
    else match headCheck m c, x.2 with
    | some f, _ => finish (noteDec m c) c f
    | none, .shed info => shed m c info
    | none, .admits l =>
      if mirrorFree m < tagsNeeded m c.entry c.pl then countDeferral m c (some (ctlP, 0x10C))
      else admitCmd (noteDec m c) c l (costOf m c (reducedEntry c.entry l))
    | none, .defers _ => (decideTimed m c).1

/-- Heads that the arbiter met and deferred: their counters are raised once in the tick. -/
def applyStuck (m : Mod) (id : Nat) : Mod :=
  match (heads m).find? fun c => c.id = id with
  | some c => match decideHead m c with
    | (m', .deferred) => m'
    | _ => m
  | none => m

/-- ADMISSION. -/
def admissionOp (m : Mod) : Mod :=
  if !admissionOpen m then m
  else
    let a := arbitrate (2 * m.cmds.length + 1) ⟨m, [], []⟩
    let picked := sortBy admitsBefore (m.cmds.filter fun c => a.chosen.any fun x => x.1 = c.id)
    let order := picked.filterMap fun c => a.chosen.find? fun x => x.1 = c.id
    a.stuck.reverse.foldl applyStuck (order.foldl applyOne m)

/-- The row of one opcode: the head of a chute decided, where it carries that opcode. -/
def headOp (m : Mod) (op chute : Nat) : Mod :=
  if !admissionOpen m then m
  else match chuteHead m chute with
  | some c => if opcodeOf c.entry = op && mayDecide m c then (decideHead m c).1 else m
  | none => m

end Sys2Proof.Machine
end

