-- ==== Sys2Proof/Machine/Emission.lean ====
section
/-! DEFINITION. The emission of a search: the output check, the result entries and the completion (chapters 04 and 06),
and the series record of a collection-wide pass (R499). -/

namespace Sys2Proof.Machine
open Fp

/-- The output check (R54, R184): entries the mirror passes, in order, until `n` have; and how many it dropped. -/
def checkOut (m : Mod) (cid n : Nat) : List REnt → Nat × List REnt
  | [] => (0, [])
  | e :: es =>
    if n = 0 then (0, [])
    else if mirrorClear m cid e.src then
      let (d, r) := checkOut m cid (n - 1) es
      (d, e :: r)
    else
      let (d, r) := checkOut m cid n es
      (d + 1, r)

/-- SEARCH's info field (R109, Table CH-3). -/
def searchInfo (c : Cmd) (s : SearchW) : Nat :=
  bN s.flat + bN s.widened * 2 + bN s.dlStop * 4 + min 255 s.nan * 2 ^ 8 + c.level * 2 ^ 16

/-- DONE, DONE_SHORT or DONE_DEGRADED (R82, R176). -/
def searchStatus (c : Cmd) (k n : Nat) : Nat := if c.level != 0 then 2 else if n < k then 1 else 0

/-- The result bytes: valid entries, then padding (R49, R108). -/
def resultBytes (gen k : Nat) (es : List REnt) : List Byte :=
  (es.flatMap fun e => entBytes e.key e.score e.flags e.gen.toNat) ++ (List.replicate (k - es.length) (padBytes gen)).flatten

/-- The series record of a collection-wide pass that completed (R499): it replaces the one its pass named. -/
def keepSeries (m : Mod) (c : Cmd) (es : List REnt) : Mod :=
  let old := if bitAt (sFlags c.entry) 1 then seriesOf m c.entry else none
  let gens := (m.fab.pins.filter fun p => p.1 = c.id).map (·.2)
  let live (s : Series) : Bool := some s != old && (shardOf m s.coll).any fun co => (genOf co s.homeGen).isSome
  let rest := m.fab.series.filter live
  let rest := match es.getLast? with
    | some e => (⟨collId c.entry, c.gen, e.score, e.key, gens⟩ : Series) :: rest
    | none => rest
  { m with fab := { m.fab with series := rest.take 4096, pins := m.fab.pins.filter fun p => p.1 != c.id } }

/-- A local search completes: its results written, counted and reported. -/
def emitLocal (m : Mod) (c : Cmd) (s : SearchW) (es : List REnt) : Mod :=
  let st := searchStatus c s.k es.length
  let out := resultBytes c.gen s.k es
  let dup := st = 1 && s.anyFull
  let m := if st = 1 then bump m sivP 0x4C else m
  let m := if dup then bump m (riddlePage s) 0x50 else m
  let m := if isHomeSearch c then keepSeries m c es else m
  let m := writePtr m (fld c.entry 24 8) out
  finish m c { status := st, info := searchInfo c s, count := es.length, crc := (crc32c out).toNat, short := dup }

/-- A search for another module returns its entries, segment_local clear (R185, R497). -/
def emitRemote (m : Mod) (c : Cmd) (node tag : Nat) (es : List REnt) : Mod :=
  let ents := es.map fun e => entBytes e.key e.score (e.flags &&& 0xFB#8) e.gen.toNat
  retireCmd (sendPart m node tag (bN (c.level != 0)) 0 c.gen 0 ents) c

/-- EMISSION: closed while the mirror is rebuilt (R567) or the check engines restart (R566). -/
def emissionOp (m : Mod) (cid : Nat) : Mod :=
  match cmdOf m cid with
  | none => m
  | some c => match c.search with
    | none => m
    | some s =>
      if s.stage != 3 || m.saf.closed || m.saf.engines.isSome then m
      else if s.held.any fun e => e.crc != entCrc e.key e.score e.flags e.gen e.src then
        unitFaultOp m (.page (riddlePage s)) 0x0B (c.chute.getD 0)
      else if c.origin.isNone && !outReady m (fld c.entry 24 8) (16 * s.k) then outClaim m (fld c.entry 24 8) (16 * s.k)
      else
        let n := if c.origin.isSome then s.k + 16 else s.k
        let (drops, es) := checkOut m (collId c.entry) n s.held
        let m := bump (bump m (riddlePage s) 0x40) (riddlePage s) 0x4C drops
        let m := { m with pwr := { m.pwr with queries := m.pwr.queries + 1 } }
        match c.origin with
        | some (node, tag) => emitRemote m c node tag es
        | none => emitLocal m c s es

end Sys2Proof.Machine
end

