-- ==== Sys2Proof/Machine/TickOps.lean ====
section
/-! DEFINITION. The tick boundary: what ends with the old tick, and the latched events of the new one in slot order (R503,
R505, R508). -/

namespace Sys2Proof.Machine

/-- The searches that a remote node ended in this tick (R498). -/
def finishEnds (m : Mod) : Mod :=
  m.cmds.foldl (fun m c => match (c.search.map (·.ends)).getD [] with
    | [] => m
    | e :: es =>
      let x := es.foldl (fun b y => if y.1 < b.1 then y else b) e
      finishBad m c x.2.1 x.2.2) m

/-- The end of a tick: searches that a remote ended complete, commands that a tag mismatch or an exception has ended complete, a tick with a face below full duty is counted, the open group closes, and waiting records enter the
ring, and generations and packages that nothing pins any more are freed (R261, R263, R320, R400, R513, R517, R543). -/
def endTick (m : Mod) : Mod :=
  let m := if lowestDuty m < 100 then bump m pwrP 0x9C else m
  enterRing 256 (closeGroup (sweepPkgs (sweepGens (finishRuns (endSkews (finishEnds m))))))

/-- Every link answers what it has received (R456). -/
def clearAcks (m : Mod) : Mod :=
  { m with
    velom := { m.velom with link := { m.velom.link with ackDue := 0 } }
    fab := { m.fab with ports := m.fab.ports.map fun (p : Port) => { p with link := { p.link with ackDue := 0 } } } }

/-- The counter advances; settings written in the last tick take effect (R11, R76, R158, R163). -/
def newTick (m : Mod) : Mod :=
  { m with
    sys := { m.sys with tick := m.sys.tick + 1#64 }
    regs := { m.regs with sent := [], ups := [], sets := [], lost := [] }
    adm := { m.adm with decs := [], margin := bits (regN m ⟨0, .wlk, 0⟩ 0x40) 8 8, policy := getReg m sivP 0x40 }
    saf := { m.saf with cfg := getReg m safP 0x40, engines := match m.saf.engines with
      | some t => if t ≤ now m + 1 then none else some t
      | none => none } }

/-- Slot 1: a safety trip. -/
def slotTrip (m : Mod) : Mod :=
  match m.saf.trip with
  | some (c, i) => safetyStop m c i
  | none => m

/-- Slot 2: the reset request that stood at the boundary, unless MAIN_EN has fallen (R640). -/
def slotReset (want : Option (Nat × Nat)) (m : Mod) : Mod :=
  match want with
  | some (c, k) => if m.sys.mainEn then resetBegin m c k else { m with sys := { m.sys with want := none } }
  | none => m

/-- Slot 3: a supply event. -/
def slotSupply (m : Mod) : Mod :=
  match m.pwr.supplyEv with
  | some v => supplyEvent { m with pwr := { m.pwr with supplyEv := none } } v
  | none => m

/-- Slot 4: a thermal event. -/
def slotThermal (m : Mod) : Mod :=
  if m.pwr.thermEv then thermalCheck { m with pwr := { m.pwr with thermEv := false } } else m

/-- Slots 1 to 6. -/
def tickSlots (want : Option (Nat × Nat)) (m : Mod) : Mod :=
  publishSlot (slotThermal (slotSupply (slotReset want (slotTrip m))))

/-- What the fabric does at a tick (R485, R487, R488, R491, R494). -/
def fabricTick (m : Mod) : Mod := idleTick (takeSelf (sendHellos (takeCommit (takeAssign m))))

/-- What follows from the tick in the module's units. -/
def unitTick (m : Mod) : Mod := goOnMoves (takeWanted (sweepFreed m))

/-- TICK. With the main rails off the hub's counter stands still. -/
def tickOp (m : Mod) : Mod :=
  if !m.sys.rails then m
  else
    let m := endTick m
    let want := m.sys.want
    let m := tickSlots want (clearAcks (newTick m))
    if m.sys.rails then sampleAll (unitTick (fabricTick m)) else m

end Sys2Proof.Machine
end

