-- ==== Sys2Proof/Machine/SecOps.lean ====
section
/-! DEFINITION. The security block: nonces and tokens (R590 to R592), the register lock (R595), and the SPDM responder (R585
to R587). -/

namespace Sys2Proof.Machine

/-! Windows. -/

/-- Bytes of a window of 32-bit registers of the SEC page. -/
def windowBytes (m : Mod) (base n : Nat) : List Byte :=
  ((upto (ceilDiv n 4)).flatMap fun i => toBytes (regN m secP (base + 4 * i)) 4).take n

def putWindow (m : Mod) (base : Nat) (bs : List Byte) : Mod :=
  (upto (ceilDiv bs.length 4)).foldl (fun m i => setRegN m secP (base + 4 * i) (ofBytes ((bs.drop (4 * i)).take 4))) m

def part (bs : List Byte) (o n : Nat) : Nat := ofBytes ((bs.drop o).take n)

/-- SEC_LOCK (R595). -/
def secLockOp (m : Mod) (v : Nat) : Mod := if bitAt v 0 then { m with sec := { m.sec with locked := true } } else m

/-- A fresh nonce (R591). -/
def newNonce (m : Mod) : Mod :=
  { m with sec := { m.sec with nonce := some (Config.nonce m.sec.nonceNo), nonceNo := m.sec.nonceNo + 1 } }

/-! Tokens. -/

/-- The hash of a public key (R578). -/
def keyHash (pk : List Byte) : BitVec 256 := BitVec.ofNat 256 (bits (Config.sha512 pk).toNat 0 256)

/-- An owner slot that is set and not revoked. -/
def ownerLive (m : Mod) (i : Nat) : Bool := !(i ∈ m.sec.revoked) && m.sec.owners.getD i 0#256 != 0#256

/-- Whether a key hash carries owner authority, and of which slots. -/
def ownerSlots (m : Mod) (h : BitVec 256) : List Nat := (upto 4).filter fun i => ownerLive m i && decide (m.sec.owners.getD i 0#256 = h)

/-- The authorities that Table SE-8 asks of a transition: owner, vendor root; none where no such transition exists. -/
def needs (src dest : Nat) : Option (Bool × Bool) :=
  match src, dest with
  | 0, 1 => some (false, true)
  | 1, 2 => some (true, false)
  | 1, 3 | 2, 3 => some (true, true)
  | 3, 2 => some (true, false)
  | 0, 4 => some (false, true)
  | 1, 4 | 2, 4 | 3, 4 => some (true, false)
  | _, _ => none

/-- The layout of a token (Table SE-9) and its length. -/
def tokenMalformed (t : List Byte) : Bool :=
  let ty := part t 0 1
  let target := part t 1 1
  let sigs := part t 2 1
  !(sigs = 1 || sigs = 2) || t.length != 180 + 96 * sigs || part t 3 1 != 0 || !(ty = 1 || ty = 2) ||
  (if ty = 1 then decide (4 < target) else decide (3 < target)) || (!(ty = 1 && target = 1) && part t 52 128 != 0)

/-- The key hashes of a token's signatures. -/
def signers (t : List Byte) : List (BitVec 256) := (upto (part t 2 1)).map fun i => keyHash ((t.drop (180 + 96 * i)).take 32)

/-- Whether the signatures carry the authority that the token asks for. -/
def authorised (m : Mod) (t : List Byte) : Bool :=
  let hs := signers t
  let target := part t 1 1
  if part t 0 1 = 2 then ownerLive m target && hs.any fun h => (ownerSlots m h).any (· != target)
  else match needs m.sec.lc target with
    | none => false
    | some (owner, vendor) =>
      (!owner || hs.any fun h => !(ownerSlots m h).isEmpty) && (!vendor || hs.any (· = Config.vendorRoot))

/-- SEC_TOKEN_STAT.result for a token (Table SE-11), its checks in the order layout, fabric ID, nonce, signatures, service
limit, authority. -/
def tokenResult (m : Mod) (t : List Byte) (sigOk : List Bool) : Nat :=
  if tokenMalformed t then 6
  else if part t 4 16 != fabricId then 3
  else if (m.sec.nonce.map (·.toNat)) != some (part t 20 32) then 2
  else if !((upto (part t 2 1)).all fun i => sigOk.getD i false) then 1
  else if part t 0 1 = 1 && part t 1 1 = 3 && (needs m.sec.lc 3).isSome && 16 ≤ m.sec.service then 5
  else if !authorised m t then 4
  else 0

/-- What an accepted token does: a revocation takes effect at once, a transition requests its reset. -/
def acceptToken (m : Mod) (t : List Byte) : Mod :=
  let m := { m with sec := { m.sec with nonce := none } }
  if part t 0 1 = 2 then { m with sec := { m.sec with revoked := part t 1 1 :: m.sec.revoked } }
  else
    let owners := (upto 4).map fun i => BitVec.ofNat 256 (part t (52 + 32 * i) 32)
    requestReset { m with sec := { m.sec with token := some (1, part t 1 1, owners) } } 10 3

/-- TOKEN_SUBMIT (R591). -/
def tokenSubmitOp (m : Mod) (sigOk : List Bool) : Mod :=
  let t := windowBytes m 0x200 (bits (regN m secP 0x54) 0 9)
  let r := tokenResult m t sigOk
  let m := setRegN m secP 0x58 (r * 2 ^ 28)
  if r = 0 then acceptToken m t else m

/-! SPDM. -/

def setSpdm (m : Mod) (s : SpdmState) : Transport → Mod
  | .mctp => { m with sec := { m.sec with spdmM := s } }
  | .window => { m with sec := { m.sec with spdmW := s } }

/-- A response sent on its transport: an MCTP message, or the window with its length (R586, R596). -/
def spdmReply (m : Mod) (t : Transport) (data : List Byte) : Mod :=
  match t with
  | .mctp => aditSend (sendIbi m 0x01#8) (.spdm .mctp data)
  | .window => setRegN (putWindow m 0x400 (data.take 1024)) secP 0x5C (min data.length 1024)

/-- An ERROR response. -/
def spdmErr (code : Nat) : List Byte := [0x13#8, 0x7F#8, BitVec.ofNat 8 code, 0#8]

/-- Whether the transport is served: the window while the rails are on; over MCTP the management controller answers Busy
while the hub is not running (R600). -/
def spdmServe (m : Mod) (t : Transport) (f : SpdmState → Mod × List Byte) : Mod :=
  match t with
  | .window => if !m.sys.rails then m else let (m, d) := f m.sec.spdmW; spdmReply m .window d
  | .mctp =>
    if !m.mgt.on || m.saf.mcDown || m.mgt.addr.isNone then m
    else if !m.inited then spdmReply m .mctp (spdmErr 0x03)
    else let (m, d) := f m.sec.spdmM; spdmReply m .mctp d

def getVersionOp (m : Mod) (t : Transport) : Mod :=
  spdmServe m t fun _ => (setSpdm m ⟨true, false, false⟩ t, [0x10#8, 0x04#8, 0#8, 0#8, 0#8, 1#8, 0#8, 0x13#8])

def getCapsOp (m : Mod) (t : Transport) : Mod :=
  spdmServe m t fun s =>
    if !s.version then (m, spdmErr 0x04)
    else (setSpdm m ⟨true, true, false⟩ t, [0x13#8, 0x61#8, 0#8, 0#8, 0#8, 0#8, 0#8, 0#8] ++ toBytes 0x36 4 ++ toBytes 1024 4 ++ toBytes 1024 4)

/-- Ed25519 and SHA-512 are agreed where the requester offers them. -/
def negotiateOp (m : Mod) (t : Transport) (asym hash : Nat) : Mod :=
  spdmServe m t fun s =>
    if !s.caps then (m, spdmErr 0x04)
    else
      let a := asym &&& 0x200
      let h := hash &&& 0x4
      (setSpdm m { s with algs := a != 0 && h != 0 } t,
        [0x13#8, 0x63#8, 0#8, 0#8] ++ toBytes 36 2 ++ [1#8, 0#8] ++ toBytes 8 4 ++ toBytes a 4 ++ toBytes h 4 ++ List.replicate 16 0#8)

def hashBytes (bs : List Byte) : List Byte := toBytes (Config.sha512 bs).toNat 64
def signBytes (bs : List Byte) : List Byte := toBytes (Config.sign (Config.sha512 bs)).toNat 64

def getDigestsOp (m : Mod) (t : Transport) : Mod :=
  spdmServe m t fun s => if !s.algs then (m, spdmErr 0x04) else (m, [0x13#8, 0x01#8, 1#8, 1#8] ++ hashBytes Config.certChain)

def getCertOp (m : Mod) (t : Transport) (slot off len : Nat) : Mod :=
  spdmServe m t fun s =>
    if !s.algs then (m, spdmErr 0x04)
    else if slot != 0 || Config.certChain.length ≤ off then (m, spdmErr 0x01)
    else
      let p := (Config.certChain.drop off).take (min len 1016)
      (m, [0x13#8, 0x02#8, 0#8, 0#8] ++ toBytes p.length 2 ++ toBytes (Config.certChain.length - off - p.length) 2 ++ p)

/-- The end of a signed response: a fresh nonce, no opaque data, and the identity key's signature over the requester's
nonce and the response before it. -/
def signed (m : Mod) (nonce : BitVec 256) (body : List Byte) : Mod × List Byte :=
  let n := Config.nonce m.sec.nonceNo
  let b := body ++ toBytes n.toNat 32 ++ [0#8, 0#8]
  ({ m with sec := { m.sec with nonceNo := m.sec.nonceNo + 1 } }, b ++ signBytes (toBytes nonce.toNat 32 ++ b))

def challengeOp (m : Mod) (t : Transport) (slot : Nat) (nonce : BitVec 256) : Mod :=
  spdmServe m t fun s =>
    if !s.algs then (m, spdmErr 0x04)
    else if slot != 0 then (m, spdmErr 0x01)
    else signed m nonce ([0x13#8, 0x03#8, 0#8, 1#8] ++ hashBytes Config.certChain)

/-- The digest over the current model packages, in ascending ID (Table SE-6). -/
def packageDigest (m : Mod) : List Byte :=
  let ps := sortBy (fun (a b : PkgVer) => decide (a.id < b.id)) (m.pkgs.filter (·.cur))
  hashBytes (ps.flatMap fun p => toBytes p.pkg.digest.toNat 64)

/-- Type and value of a measurement block (Table SE-6). -/
def measurement (m : Mod) (i : Nat) : Nat × List Byte :=
  let s := m.sec
  match i with
  | 1 => (0x00, toBytes Config.romDigest.toNat 64)
  | 7 => (0x82, [s.lc, s.service, total ((upto 4).map fun k => bN (s.owners.getD k 0#256 != 0#256) * 2 ^ k),
      total ((upto 4).map fun k => bN (decide (k ∈ s.revoked)) * 2 ^ k), bN s.locked].map (BitVec.ofNat 8))
  | 8 => (0x83, [s.fuseSvn, s.active, bN s.trial, bN s.reverted].map (BitVec.ofNat 8))
  | 9 => (0x03, packageDigest m)
  | k => (0x01, toBytes (s.running.getD (k - 2) 0#512).toNat 64)

def measBlock (m : Mod) (i : Nat) : List Byte :=
  let (ty, v) := measurement m i
  toBytes i 1 ++ [1#8] ++ toBytes (v.length + 3) 2 ++ toBytes ty 1 ++ toBytes v.length 2 ++ v

def getMeasOp (m : Mod) (t : Transport) (idx : Nat) (nonce : BitVec 256) : Mod :=
  spdmServe m t fun s =>
    if !s.algs then (m, spdmErr 0x04)
    else if 9 < idx && idx != 0xFF then (m, spdmErr 0x01)
    else
      let bs := if idx = 0 then [] else if idx = 0xFF then (upto 9).map fun i => measBlock m (i + 1) else [measBlock m idx]
      let r := bs.flatten
      signed m nonce ([0x13#8, 0x60#8] ++ toBytes (if idx = 0 then 9 else 0) 1 ++ [0#8] ++ toBytes bs.length 1 ++ toBytes r.length 3 ++ r)

/-- The request that the SPDM window holds. -/
def windowRequest (m : Mod) : List Byte := windowBytes m 0x400 (bits (regN m secP 0x5C) 0 11)

/-- SPDM_GO: the request in the window is served by its code (Table SE-5). -/
def spdmGoOp (m : Mod) : Mod :=
  let q := windowRequest m
  if q.length < 4 then spdmServe m .window fun _ => (m, spdmErr 0x01)
  else match part q 1 1 with
    | 0x84 => getVersionOp m .window
    | 0xE1 => getCapsOp m .window
    | 0xE3 => negotiateOp m .window (part q 8 4) (part q 12 4)
    | 0x81 => getDigestsOp m .window
    | 0x82 => getCertOp m .window (part q 2 1) (part q 4 2) (part q 6 2)
    | 0x83 => challengeOp m .window (part q 2 1) (BitVec.ofNat 256 (part q 4 32))
    | 0xE0 => getMeasOp m .window (part q 3 1) (BitVec.ofNat 256 (part q 4 32))
    | _ => spdmServe m .window fun _ => (m, spdmErr 0x07)

end Sys2Proof.Machine
end

