-- ==== Sys2Proof/Machine/MgtOps.lean ====
section
/-! DEFINITION. The management controller: the adit port, MCTP and PLDM, sensors and effecters, firmware update, test modes
and the debug UART (chapter 21, R582, R583, R594). -/

namespace Sys2Proof.Machine

/-! The adit port (R598). -/

/-- The controller answers: it has power and is not restarting (R559, R597). -/
def mgtUp (m : Mod) : Bool := m.mgt.on && !m.saf.mcDown

/-- A CCC that the port obeys whether or not it has an address (a broadcast may carry it). -/
def i3cDo (m : Mod) (f : Mgt → Mgt) : Mod := if mgtUp m then { m with mgt := f m.mgt } else m

/-- A direct CCC, answered only with an address. -/
def i3cAnswer (m : Mod) (d : List Byte) : Mod := if mgtUp m && m.mgt.addr.isSome then aditSend m (.i3c d) else m

def be2 (n : Nat) : List Byte := [BitVec.ofNat 8 (n / 256), BitVec.ofNat 8 n]

def entdaaOp (m : Mod) (a : BitVec 7) : Mod :=
  if mgtUp m && m.mgt.addr.isNone then
    aditSend { m with mgt := { m.mgt with addr := some a } } (.i3c (toBytes Config.provisionalId.toNat 6 ++ [0x06#8, 0x00#8]))
  else m
def setnewdaOp (m : Mod) (a : BitVec 7) : Mod :=
  if mgtUp m && m.mgt.addr.isSome then { m with mgt := { m.mgt with addr := some a } } else m
def rstdaaOp (m : Mod) : Mod := i3cDo m fun g => { g with addr := none, eid := 0#8 }
def getpidOp (m : Mod) : Mod := i3cAnswer m (toBytes Config.provisionalId.toNat 6)
def getstatusOp (m : Mod) : Mod := i3cAnswer { m with draws := m.draws + 1 } (toBytes (Config.i3cStatus m.draws).toNat 2)
def getmwlOp (m : Mod) : Mod := i3cAnswer m (be2 m.mgt.mwl)
def getmrlOp (m : Mod) : Mod := i3cAnswer m (be2 m.mgt.mrl ++ [1#8])
def setmwlOp (m : Mod) (n : Nat) : Mod := i3cDo m fun g => if n ≤ 256 then { g with mwl := n } else g
def setmrlOp (m : Mod) (n : Nat) : Mod := i3cDo m fun g => if n ≤ 256 then { g with mrl := n } else g
def ibiOp (m : Mod) (events : Nat) (on : Bool) : Mod := i3cDo m fun g => if bitAt events 0 then { g with ibi := on } else g
def rstactOp (m : Mod) (a : Byte) : Mod := i3cDo m fun g => if a = 0#8 then { g with rstAct := some 0#8 } else g

/-! MCTP control messages (R599). -/

/-- A message for the bus owner, with its IBI. -/
def mgtSend (m : Mod) (r : Resp) : Mod := aditSend (sendIbi m 0x01#8) r
def mgtServes (m : Mod) : Bool := mgtUp m && m.mgt.addr.isSome
def mctpAnswer (m : Mod) (d : List Byte) : Mod := if mgtServes m then mgtSend m (.mctp d) else m

def setEidOp (m : Mod) (e : Byte) : Mod :=
  if !mgtServes m then m
  else if e = 0#8 || e = 0xFF#8 then mctpAnswer m [0x02#8]
  else mctpAnswer { m with mgt := { m.mgt with eid := e } } [0#8, 0#8, e, 0#8]
def getEidOp (m : Mod) : Mod := mctpAnswer m [0#8, m.mgt.eid, 0#8, 0#8]
def getUuidOp (m : Mod) : Mod := mctpAnswer m (0#8 :: toBytes (Config.uuid fabricId).toNat 16)
def mctpVersionsOp (m : Mod) : Mod := mctpAnswer m (0#8 :: Config.mctpVersions)
def mctpTypesOp (m : Mod) : Mod := mctpAnswer m [0#8, 3#8, 0x00#8, 0x01#8, 0x05#8]

/-! PLDM base (R600). -/

/-- A PLDM response: the command, its completion code and its data. -/
def pldmAnswer (m : Mod) (cmd cc : Nat) (d : List Byte) : Mod :=
  if mgtServes m then mgtSend m (.pldm cmd (BitVec.ofNat 8 cc :: d)) else m

/-- A request that changes the module before it is answered. -/
def pldmDo (m : Mod) (cmd : Nat) (f : Mod → Mod × Nat) : Mod :=
  if mgtServes m then let (m, cc) := f m; pldmAnswer m cmd cc [] else m

/-- The commands served, by type (Table MG-3). -/
def pldmCommands (ty : Nat) : List Nat :=
  match ty with
  | 0 => [1, 2, 3, 4, 5]
  | 2 => [0x04, 0x11, 0x21, 0x31, 0x39, 0x50, 0x51]
  | 4 => [1, 2]
  | 5 => [0x01, 0x02, 0x10, 0x13, 0x14, 0x15, 0x16, 0x17, 0x18, 0x1A, 0x1B, 0x1C, 0x1D]
  | _ => []
def bitmapOf (l : List Nat) (n : Nat) : List Byte := toBytes (total (l.map fun k => 2 ^ k)) n

def getTidOp (m : Mod) : Mod := pldmAnswer m 0x002 0 [m.mgt.tid]
def setTidOp (m : Mod) (t : Byte) : Mod := pldmDo m 0x001 fun m => ({ m with mgt := { m.mgt with tid := t } }, 0)
def pldmVersionOp (m : Mod) (ty : Byte) : Mod :=
  if (pldmCommands ty.toNat).isEmpty then pldmAnswer m 0x003 0x05 [] else pldmAnswer m 0x003 0 (toBytes (Config.pldmVersion ty).toNat 4)
def pldmTypesOp (m : Mod) : Mod := pldmAnswer m 0x004 0 (bitmapOf [0, 2, 4, 5] 8)
def pldmCommandsOp (m : Mod) (ty : Nat) : Mod :=
  if (pldmCommands ty).isEmpty then pldmAnswer m 0x005 0x05 [] else pldmAnswer m 0x005 0 (bitmapOf (pldmCommands ty) 32)

/-! Sensors and effecters (R601). -/

/-- Whether a unit is one end of a seam. -/
def isSeamEnd : UnitId → Bool
  | .page p => p.blk = .sem
  | _ => false

/-- Units out of service: SAF_STAT.units_oos. Beside the units with a record these are the flash channels that have failed, the
pseudo-channels mapped out, and each seam once for both its ends (R20). -/
def unitsOut (m : Mod) : Nat :=
  (m.units.filter fun r => (r.st = 5 || r.st = 3) && !isSeamEnd r.id).length +
  ((upto 8).filter fun s => isOut m (.page (seamEnds s).1) || isOut m (.page (seamEnds s).2)).length +
  (m.mem.channels.filter fun c => c.st = 3).length + total (m.hbm.map fun k => k.out.length)

/-- Bench 1 frames in service. -/
def framesOk (m : Mod) : Nat := total ((upto 8).map fun s => stackFrames m s)

/-- Whether a numeric sensor's source has power. -/
def sensorPowered (m : Mod) (id : Nat) : Bool := m.sys.rails || (37 ≤ id && id ≤ 51)

/-- A numeric sensor's value: 1/16 °C, mV, 10 mA, W, J, or a count. -/
def sensorValue (m : Mod) (id : Nat) : Int :=
  let p := m.pwr
  if id ≤ 48 then p.temp.getD (id - 1) 0
  else match id with
    | 49 => (m.sys.mv : Int)
    | 50 => (p.ma10 : Int)
    | 51 => ((m.sys.mv * p.ma10 / 100000 : Nat) : Int)
    | 66 => ((p.ingest / 1000000 : Nat) : Int)
    | 67 => ((p.query / 1000000 : Nat) : Int)
    | 68 => ((p.other / 1000000 : Nat) : Int)
    | 69 => ((p.idle / 1000000 : Nat) : Int)
    | 70 => (p.docs : Int)
    | 71 => (p.queries : Int)
    | 72 => (framesOk m : Int)
    | 73 => (freeB2 m : Int)
    | 74 => (unitsOut m : Int)
    | k => ((p.railE.getD (k - 52) 0 / 100 : Nat) : Int)

/-- The thresholds of a sensor: warning, critical, fatal (Table MG-4, R644). -/
def thresholds (m : Mod) (id : Nat) : List Int :=
  if id = 49 then [56000, 60000]
  else if id ≤ 48 then
    let i := id - 1
    [((thermTarget m.pwr.therm * 16 : Nat) : Int)] ++ (if i < 46 then [tripAt i] else []) ++
      (if i < 36 then [1840] else if i < 42 then [2160] else [])
  else []

/-- 0 a numeric sensor, 1 a state sensor, 2 a state effecter. -/
def pdrKind (id : Nat) : Option Nat :=
  if 1 ≤ id && id ≤ 74 then some 0 else if 100 ≤ id && id ≤ 102 then some 1 else if 200 ≤ id && id ≤ 202 then some 2 else none

def int4 (v : Int) : List Byte := toBytes (v % 4294967296).toNat 4

def pdrInfoOp (m : Mod) : Mod := pldmAnswer m 0x250 0 (0#8 :: toBytes 80 4)
def getPdrOp (m : Mod) (id : Nat) : Mod :=
  match pdrKind id with
  | none => pldmAnswer m 0x251 0x82 []
  | some k => pldmAnswer m 0x251 0 (toBytes id 2 ++ toBytes k 1 ++ (thresholds m id).flatMap int4)
def sensorReadingOp (m : Mod) (id : Nat) : Mod :=
  if id = 0 || 74 < id then pldmAnswer m 0x211 0x80 []
  else if sensorPowered m id then pldmAnswer m 0x211 0 (0#8 :: int4 (sensorValue m id))
  else pldmAnswer m 0x211 0 [2#8]
def stateReadingOp (m : Mod) (id : Nat) : Mod :=
  match id with
  | 100 => pldmAnswer m 0x221 0 [0#8, BitVec.ofNat 8 m.sec.lc]
  | 101 => pldmAnswer m 0x221 0 [0#8, BitVec.ofNat 8 m.mgt.state]
  | 102 => pldmAnswer m 0x221 0 [0#8, BitVec.ofNat 8 m.sys.phase]
  | _ => pldmAnswer m 0x221 0x80 []

/-- No numeric effecter exists (Table MG-4). -/
def numericEffecterOp (m : Mod) (_id : Nat) (_v : Word) : Mod := pldmAnswer m 0x231 0x80 []

def powerEffecterOp (m : Mod) (v : Nat) : Mod :=
  pldmDo m 0x239 fun m => if v = 1 || v = 2 then (mainPowerOp m v, 0) else (m, 0x81)
def resetEffecterOp (m : Mod) (v : Nat) : Mod :=
  pldmDo m 0x239 fun m => if v = 1 then (if m.sys.rails then requestReset m 7 1 else m, 0) else (m, 0x81)
def eventReceiverOp (m : Mod) (e : Byte) : Mod :=
  pldmDo m 0x204 fun m => ({ m with mgt := { m.mgt with receiver := if e = 0#8 then none else some e } }, 0)

/-! FRU data (R2, R600, R650). -/

def ascii (s : List Nat) : List Byte := s.map (BitVec.ofNat 8)
/-- "WMT-VQ640-F32-B0" or "WMT-VQ640-F16-B0" (Table SC-1). -/
def orderingCode : List Byte :=
  ascii [0x57, 0x4D, 0x54, 0x2D, 0x56, 0x51, 0x36, 0x34, 0x30, 0x2D, 0x46] ++
    ascii (if Config.isF32 then [0x33, 0x32] else [0x31, 0x36]) ++ ascii [0x2D, 0x42, 0x30]
/-- The FRU record: ordering code, stepping B0, serial number, flash capacity in TB, manufacture date. -/
def fruRecord : List Byte :=
  orderingCode ++ ascii [0x42, 0x30] ++ toBytes Config.serial.toNat 8 ++ toBytes (if Config.isF32 then 32 else 16) 1 ++
    toBytes Config.madeOn.toNat 4
def fruMetaOp (m : Mod) : Mod := pldmAnswer m 0x401 0 (toBytes fruRecord.length 4 ++ toBytes 1 2)
def fruTableOp (m : Mod) : Mod := pldmAnswer m 0x402 0 fruRecord

/-! Firmware update (R582, R583, R609). -/

def deviceIdsOp (m : Mod) : Mod := pldmAnswer m 0x501 0 Config.deviceIds
/-- The component versions of both slots (kind, version in slot A, version in slot B). -/
def firmwareParamsOp (m : Mod) : Mod :=
  let ver (s k : Nat) : Nat := (((m.sec.slots.getD s []).find? fun i => i.kind = k).map (·.version)).getD 0
  pldmAnswer m 0x502 0 ([BitVec.ofNat 8 m.sec.active] ++ (upto 5).flatMap fun k =>
    toBytes (k + 1) 1 ++ toBytes (ver 0 (k + 1)) 4 ++ toBytes (ver 1 (k + 1)) 4)

def setUpdate (m : Mod) (u : Option Update) : Mod := { m with mgt := { m.mgt with update := u } }

def requestUpdateOp (m : Mod) : Mod :=
  pldmDo m 0x510 fun m =>
    if m.mgt.update.isSome then (m, 0x81)
    else if m.sys.phase = 7 || m.sys.phase = 8 then (setUpdate m (some ⟨[], none, none, [], false⟩), 0)
    else (m, 0x8A)

/-- A step of an update: refused outside one. -/
def updateDo (m : Mod) (cmd : Nat) (f : Mod → Update → Mod × Nat) : Mod :=
  pldmDo m cmd fun m => match m.mgt.update with
    | none => (m, 0x80)
    | some u => f m u

def passTableOp (m : Mod) (cs : List Nat) : Mod :=
  updateDo m 0x513 fun m u =>
    if u.cur.isSome || !(cs.all fun k => 1 ≤ k && k ≤ 5) then (m, 0x84) else (setUpdate m (some { u with comps := cs, done := [] }), 0)

def updateComponentOp (m : Mod) (kind : Nat) : Mod :=
  updateDo m 0x514 fun m u =>
    if u.cur.isSome || !(kind ∈ u.comps) then (m, 0x84) else (setUpdate m (some { u with cur := some kind, got := none }), 0)

/-- The agent's answer to RequestFirmwareData: the image is written into the inactive slot. -/
def firmwareDataOp (m : Mod) (img : Image) : Mod :=
  match m.mgt.update with
  | some u =>
    if !mgtServes m || u.cur.isNone then m
    else
      let s := 1 - m.sec.active
      let rest := (m.sec.slots.getD s []).filter fun i => some i.kind != u.cur
      setUpdate { m with sec := { m.sec with slots := m.sec.slots.set s (img :: rest) } } (some { u with got := some img })
  | none => m

/-- VERIFY_COMPLETE: the module reports what its check of the component found. -/
def verifyOp (m : Mod) : Mod :=
  match m.mgt.update with
  | none => m
  | some u => match u.cur, u.got with
    | some k, some img =>
      if !mgtServes m then m
      else if imageFault m k img = 0 then
        let m := setUpdate { m with sec := { m.sec with invalid := m.sec.invalid.filter (· != 1 - m.sec.active) } }
          (some { u with cur := none, got := none, done := k :: u.done })
        mgtSend m (.pldm 0x517 [0#8])
      else
        let s := 1 - m.sec.active
        let m := setUpdate { m with sec := { m.sec with invalid := s :: m.sec.invalid.filter (· != s) } } none
        mgtSend m (.pldm 0x517 [1#8])
    | _, _ => m

/-- ACTIVATE_FIRMWARE (R583): the response comes when the activation record is programmed. -/
def activateOp (m : Mod) : Mod :=
  match m.mgt.update with
  | none => pldmAnswer m 0x51A 0x80 []
  | some u =>
    if !mgtServes m then m
    else if u.cur.isSome || u.comps.isEmpty || !(u.comps.all fun k => decide (k ∈ u.done)) then pldmAnswer m 0x51A 0x85 []
    else if !m.inited || m.sys.rst != 0 || m.sec.pendAct.isSome then pldmAnswer m 0x51A 0x84 []
    else
      let s := 1 - m.sec.active
      (addRecord { m with sec := { m.sec with pendAct := some s } } none 0 0 (.firmware s)).1

/-- The update state (idle, learning, ready, download, activate). -/
def updateState (m : Mod) : Nat :=
  match m.mgt.update with
  | none => 0
  | some u => if m.sec.pendAct.isSome then 6 else if u.cur.isSome then 3 else if u.comps.isEmpty then 1 else 2
def updateStatusOp (m : Mod) : Mod := pldmAnswer m 0x51B 0 [BitVec.ofNat 8 (updateState m)]
def cancelComponentOp (m : Mod) : Mod :=
  updateDo m 0x51C fun m u => if u.cur.isSome then (setUpdate m (some { u with cur := none, got := none }), 0) else (m, 0x84)
def cancelUpdateOp (m : Mod) : Mod := updateDo m 0x51D fun m _ => (setUpdate m none, 0)

/-! Test modes (R610, R611). -/

/-- The conditions of Table MG-7. -/
def testAllowed (m : Mod) (mode target : Nat) (effecter : Bool) : Bool :=
  m.sys.rails && m.mgt.test.isNone && match mode with
    | 1 => decide (target ≤ 11)
    | 2 => effecter && m.chutes.isEmpty
    | 3 => m.chutes.isEmpty && m.sec.lc != 2
    | 4 => true
    | 5 => m.chutes.isEmpty
    | _ => false

/-- Bench 1's contents destroyed: every byte of its pages is a free value. -/
def scramble (m : Mod) : Mod :=
  let ps := m.mem.map.filter fun e => e.bench = 1
  let f (l : List Host.Cell) (e : PageEnt) : List Host.Cell :=
    cellsSet l (e.page * pageSize) ((upto pageSize).map fun i => Config.undefinedByte (m.draws + e.page * pageSize + i))
  { m with mem := { m.mem with cells := ps.foldl f m.mem.cells }, draws := m.draws + 1 }

/-- A test mode starts, or is refused with result 2. -/
def testStartOp (m : Mod) (mode target : Nat) (effecter : Bool) : Mod :=
  if !testAllowed m mode target effecter then { m with mgt := { m.mgt with testRes := 2 } }
  else
    let m := { m with mgt := { m.mgt with test := some (mode, target), testRes := 0, testDet := 0 } }
    match mode with
    | 1 => dropPort (losePort m target) target
    | 2 => { m with velom := { m.velom with link := { discardLink m.velom.link with st := 0, out := some (now m) } } }
    | 3 => scramble m
    | _ => m

/-- A test mode's result and detail. -/
def testDone (m : Mod) (pass : Bool) (detail : Nat) : Mod :=
  { m with mgt := { m.mgt with test := none, testRes := if pass then 0 else 1, testDet := min detail 0xFFFFFFF } }

/-- TEST_MODE_END (Table MG-7): mode 3 marks pseudo-channels and ends with a device reset, mode 4 counts what its scan met, and mode 5
fails the sensors that do not agree with the coolant inlet. -/
def testEndOp (m : Mod) (pass : Bool) (detail : Nat) (found : TestFound) : Mod :=
  match m.mgt.test with
  | none => m
  | some (3, _) =>
    requestReset (testDone ((found.pcs.filter fun x => x.1 < 8 && x.2 < 32).foldl (fun m x => markPc m x.1 x.2) m) pass detail) 7 1
  | some (4, _) =>
    let count (off : Nat) (m : Mod) (x : Nat × Nat) : Mod := if x.1 < 32 then bump m ⟨4, .flc, x.1⟩ off x.2 else m
    testDone (found.uncorr.foldl (count 0x58) (found.corr.foldl (count 0x54) m)) pass (total (found.uncorr.map (·.2)))
  | some (5, _) =>
    let bad := offInlet m
    testDone (bad.foldl failSensor m) bad.isEmpty bad.length
  | some _ => testDone m pass detail

def testEffecterOp (m : Mod) (mode target : Nat) : Mod := pldmDo m 0x239 fun m => (testStartOp m mode target true, 0)

end Sys2Proof.Machine
end

