-- ==== Sys2Proof/Machine/RegView.lean ====
section
/-! DEFINITION. The register window as software sees it: what each register reads, what a read does beside (R9, R591, R628,
R633), and what each write does (R5 to R10, R462, R614 to R626). -/

namespace Sys2Proof.Machine

/-! The common header (R617 to R622). -/

/-- The units of the stack behind a DRL page that software may take out of service (R620). -/
def drlUnits (m : Mod) (p : Page) : List UnitId :=
  ((upto 384).filter fun n => !hostReserved m (p.die - 8) n).map fun n => .drill (p.die - 8) n

/-- No unit stands behind the page (Table RP-5). -/
def noUnit (p : Page) : Bool := (p.blk = .siv && isHub p.die) || (p.blk = .fab && p.inst = 12)

/-- BLK_CTL.out_of_service (R573, R620). -/
def pageOut (m : Mod) (p : Page) : Bool :=
  match p.blk with
  | .drl => let us := drlUnits m p; !us.isEmpty && us.all (isOut m)
  | .flc => (chanOf m p.inst).st = 3
  | .sem | .hbm => isOut m (.page p)
  | _ => oosPage p && isOut m (.page p)

/-- BLK_STAT.state. A DRL page shows the furthest state that all its stack's drills share, or else in service. -/
def pageState (m : Mod) (p : Page) : Nat :=
  if noUnit p then 6
  else if p.blk = .drl then
    let ss := (drlUnits m p).map (unitState m)
    match ss with
    | [] => bN m.inited
    | s :: rest => if rest.all (· = s) then s else bN m.inited
  else if p.blk = .flc && pageOut m p then 5
  else unitState m (.page p)

/-- BLK_STAT.restarts: on a DRL page those of all its drills. -/
def pageRestarts (m : Mod) (p : Page) : Nat :=
  let own (r : UnitRec) : Bool := match r.id with
    | .page q => q = p
    | .drill s _ => p = drlP s
    | .pair _ => false
  min 15 (total ((m.units.filter own).map (recentRestarts m)))

/-- BLK_STAT.share. -/
def pageShare (m : Mod) (p : Page) : Nat :=
  match pageState m p with
  | 1 => 100
  | 4 => if p.blk = .drl then ((drlUnits m p).map (unitShare m)).foldl min 100 else unitShare m (.page p)
  | _ => 0

def blkEnable (m : Mod) (p : Page) : Bool := if p.blk = .chu then chuOn m else m.inited

def header (m : Mod) (p : Page) (r : Nat) : Nat :=
  match r with
  | 0x00 => blkId p
  | 0x08 => blkCap p
  | 0x0C => bN (blkEnable m p) + bN (pageOut m p) * 4
  | 0x10 => pageState m p * 2 ^ 28 + pageRestarts m p * 2 ^ 24 + pageShare m p * 2 ^ 16 + bN (errPage m p).lost
  | 0x24 => (errPage m p).live.word.toNat % 2 ^ 32
  | _ => regN m p r

/-! Live values by block. -/

def lo32 (v : Nat) : Nat := v % 2 ^ 32
def hi32 (v : Nat) : Nat := v / 2 ^ 32 % 2 ^ 32
def bitSum (l : List Nat) : Nat := total (l.eraseDups.map fun i => 2 ^ i)
/-- The word `k` of a value. -/
def wordOf (v k : Nat) : Nat := bits v (32 * k) 32

/-- Pages whose event output is asserted: CTL_EVT_DIE, _BLK and _INST (R626). -/
def evtPages (m : Mod) : List Page := (pendPages m).filter (evOut m)
/-- The block number under which an instance appears, and its slot. -/
def evtBlk (p : Page) : Nat := blkNum p.blk + p.inst / 16
def evtDie (m : Mod) : Nat := bitSum ((evtPages m).map (·.die))
def evtBlks (m : Mod) : Nat :=
  bitSum (((evtPages m).filter fun p => p.die = bits (regN m ctlP 0x44) 0 4).map evtBlk)
def evtInsts (m : Mod) : Nat :=
  bitSum (((evtPages m).filter fun p => p.die = bits (regN m ctlP 0x44) 0 4 && evtBlk p = bits (regN m ctlP 0x44) 8 5).map (·.inst % 16))

/-- CTL_BUILD_STAT: the builds running, over what resumption and checkpoints stored. -/
def buildStat (m : Mod) : Nat :=
  setBits (regN m ctlP 0x120) 24 8 (min 255 (m.cmds.filter fun c => c.build.isSome).length)

/-- CTL_ENC_STAT. -/
def encStat (m : Mod) : Nat :=
  let w := total (m.cmds.map fun c => match c.embed with | some e => e.waiting.length | none => 0)
  min w 0xFFFF * 2 ^ 16 + min 8 m.slots.length

def ctlView (m : Mod) (r : Nat) : Nat :=
  match r with
  | 0x40 => evtDie m
  | 0x48 => evtBlks m
  | 0x4C => evtInsts m
  | 0x108 => mirrorUsed m
  | 0x120 => buildStat m
  | 0x140 => encStat m
  | 0x148 => kvUsed m
  | _ => regN m ctlP r

def tckView (m : Mod) (r : Nat) : Nat :=
  match r with
  | 0x40 => lo32 (now m)
  | 0x44 => hi32 (now m)
  | 0x48 => bN m.sys.refOk + bN m.sys.refLost * 2
  | 0x50 => m.sys.lastReset.toNat
  | 0x54 => lo32 m.sys.resetTick
  | 0x58 => hi32 m.sys.resetTick
  | _ => regN m tckP r

def ldgView (m : Mod) (r : Nat) : Nat :=
  let addr := (m.ledger.report.map (·.addr)).getD 0
  match r with
  | 0x40 => m.ledger.stat
  | 0x44 => lo32 m.ledger.last
  | 0x48 => hi32 m.ledger.last
  | 0x4C => ceilDiv (unprogBytes m.ledger) 1024
  | 0x60 => lo32 addr
  | 0x64 => hi32 addr
  | 0x68 => (m.ledger.report.map (·.data.length)).getD 0
  | _ => regN m ldgP r

/-- FAC_STAT.state (Table FA-8): a running face is draining while a set drains and no tile has started in the other. -/
def faceState (f : Face) : Nat := if f.st = 1 && f.acc.any (·.drain) && !(f.acc.any (·.begun)) then 2 else f.st

/-- Store units of a face in use: its program's and those of weights (Table FA-6). -/
def faceUsed (m : Mod) (f : Face) : Nat := min 112 (f.used + (heldUnits m.pkgs f.id).eraseDups.length)

/-- FAC_STAT and FAC_LOCAL_USED (Tables FA-7, FA-8); with the rails on a face's throttle is its duty. -/
def facView (m : Mod) (p : Page) (r : Nat) : Nat :=
  let f := (faceOf m (p.die * 32 + p.inst)).getD (face0 0)
  match r with
  | 0x44 => faceState f * 2 ^ 24 + faceDuty m p.die * 2 ^ 16 + f.prog % 4096
  | 0x64 => faceUsed m f
  | _ => regN m p r

/-- CRU_STAT.state (Table CR-10). -/
def crusherState (f : Face) : Nat := if f.doomed then 4 else (f.acc.map fun s => if s.drain then s.mode else 0).foldl max 0

def cruView (m : Mod) (p : Page) (r : Nat) : Nat :=
  let f := (faceOf m (p.die * 32 + p.inst)).getD (face0 0)
  if r = 0x44 then f.ltag % 256 * 2 ^ 24 + f.fmt % 16 * 2 ^ 16 + crusherState f else regN m p r

/-- WLK_CTX_STAT (Table GW-8). -/
def walkStat (m : Mod) (p : Page) : Nat :=
  let on := m.cmds.flatMap fun c => match c.search, shardOf m (collId c.entry) with
    | some s, some co => (s.walks.filter fun x => x.die = p.die && x.inst = p.inst && x.st = 1).map fun x =>
        ((((genOf co c.gen).bind (segOf · x.seg)).map (·.m)).getD 0, x)
    | _, _ => []
  let tab := ceilDiv (total (on.map fun x => x.1 * 512)) 16384
  let fil := ceilDiv (total (on.map fun x => x.2.fbits / 8)) 16384
  min 64 on.length * 2 ^ 16 + (128 - tab) * 2 ^ 8 + (64 - fil)

/-- GTH_STAT: table-page migrations of a die in flight. -/
def gthStat (m : Mod) (p : Page) : Nat :=
  min 4 (m.mem.moves.filter fun v => v.table && !v.done && v.reason = 5 && locDie v.bench v.loc = p.die).length * 2 ^ 8

def hbmView (m : Mod) (p : Page) (r : Nat) : Nat :=
  let s := 2 * p.die + p.inst
  let k := if (stackOf m s).loaded then stackOf m s else stack0
  let pc := bits (regN m p 0x58) 0 5
  let used := (k.rows.filter fun x => x.pc = pc && x.spare.isSome).length + (k.dead.filter fun x => x.1 = pc).length
  match r with
  | 0x44 => k.out.length * 2 ^ 16 + k.marked.length * 2 ^ 8 + (if !k.loaded then 0 else if k.marked.isEmpty then 1 else 2)
  | 0x48 => bitSum k.out
  | 0x4C => bitSum k.marked
  | 0x50 => if k.loaded then stackFrames m s else 0x129F00
  | 0x54 => k.retired.length
  | 0x5C => if k.loaded then
      min 0xFFFF (k.retired.filter fun f => framePc f = pc).length * 2 ^ 16 + (384 - used) * 2 ^ 7 +
        bN (decide (pc ∈ k.pattern)) * 2 + bN (decide (pc ∈ k.marked)) else 0xC000
  | _ => regN m p r

/-- The bits of 32 drills, from a test. -/
def drillBits (m : Mod) (s w : Nat) (f : Drill → Bool) : Nat :=
  bitSum ((m.drills.filter fun d => d.stack = s && d.n / 32 = w && f d).map (·.n % 32))

/-- DRL_STAT (Table DR-9). -/
def drlStat (m : Mod) (s : Nat) : Nat :=
  let ds := m.drills.filter fun d => d.stack = s
  (ds.filter fun d => !d.ready).length * 2 ^ 23 + ((upto 32).map (heldCount m s)).foldl max 0 * 2 ^ 14 +
    min 0x3FFF (m.svc.filter fun x => x.stack = s).length

def drlView (m : Mod) (p : Page) (r : Nat) : Nat :=
  let s := p.die - 8
  if 0x800 ≤ r then
    match drillOf m s (mbxSel m s ((r - 0x800) / 256)) with
    | some d => areaWord (if unitState m (.drill s d.n) = 2 then { d with st := 6 } else d) (r % 256)
    | none => 0
  else if 0x40 ≤ r && r < 0x70 then drillBits m s ((r - 0x40) / 4) fun d => d.ready || drillOos m s d.n
  else if 0xD0 ≤ r && r < 0x100 then drillBits m s ((r - 0xD0) / 4) fun d => drillOos m s d.n
  else if r = 0xA4 then drlStat m s
  else regN m p r

/-- Write-buffer entries that ledger commits hold, of the 512 reserved for them: both copies of each group sent (R441, R445). -/
def ledgerEnts (m : Mod) : Nat :=
  min 512 (total ((m.ledger.groups.filter fun g => g.sent && !g.prog).map fun g => 2 * ceilDiv (32 + g.size) 4096))

def hauView (m : Mod) (r : Nat) : Nat :=
  match r with
  | 0x44 => (m.mem.moves.filter fun v => !v.done).length
  | 0x48 => if m.mem.loaded then freeB0 m else 0
  | 0x4C => if m.mem.loaded then freeB1 m else 0
  | 0x50 => if m.mem.loaded then freeB2 m else 0
  | 0x58 => if m.mem.loaded then hostUsed m else 0
  | 0x68 => if m.mem.loaded then m.mem.wb.length + ledgerEnts m else 0
  | 0x6C => if m.mem.loaded then zoneFill m else 0
  | _ => regN m hauP r

/-- FLC_FREE_PAGES: a channel's share of bench 2, less what it holds. -/
def chanFree (m : Mod) (ch : Nat) : Nat :=
  if !chanTakes m ch then 0
  else b2Total / 32 - (m.mem.map.filter fun e => e.bench = 2 && e.loc = ch).length

def flcView (m : Mod) (p : Page) (r : Nat) : Nat :=
  let c := chanOf m p.inst
  match r with
  | 0x40 => min 4 c.pkgs * 2 ^ 8 + (if m.mem.loaded then c.st else 0)
  | 0x44 => if m.mem.loaded then min 255 c.wear * 2 ^ 24 + (Config.spareBlocks - c.spare) * 100 / max 1 Config.spareBlocks * 2 ^ 16 + min 0xFFFF c.bad
            else 0
  | 0x48 => if m.mem.loaded then chanFree m p.inst else 0
  | _ => regN m p r

/-- DFT_OUTSTANDING: candidates whose reads are in flight on the channel. -/
def driftLeft (m : Mod) (ch : Nat) : Nat :=
  min 256 (total ((driftCmds m ch).map fun c => match c.search with | some s => s.cand.length | none => 0))

def vlkView (m : Mod) (r : Nat) : Nat :=
  match r with
  | 0x44 => m.velom.link.st * 2 ^ 24 + m.velom.link.width * 2 ^ 16 + m.velom.link.lanes % 65536
  | 0x58 => m.velom.leases.length
  | _ => regN m vlkP r

def fabView (m : Mod) (p : Page) (r : Nat) : Nat :=
  if p.inst != 12 then
    match portOf m p.inst, r with
    | some x, 0x44 => portStat x
    | some x, 0x48 => neighWord m x
    | _, _ => regN m p r
  else if 0xA00 ≤ r then
    match m.fab.inbox with
    | [] => 0
    | f :: _ => if r < 0xA10 then wordOf f.hdr.toNat ((r - 0xA00) / 4) else wordOf (slotN f ((r - 0xA10) / 16)) (r % 16 / 4)
  else match r with
    | 0x40 => nodeWord m
    | 0x44 => m.fab.fabEpoch
    | 0x48 => m.fab.master
    | 0x50 | 0x54 | 0x58 | 0x5C => wordOf fabricId ((r - 0x50) / 4)
    | 0x64 =>
      let s := regN m p 0x60
      routeGet (if bitAt s 31 then m.fab.shadow else m.fab.table) (bits s 0 12)
    | 0x68 => min 64 m.fab.inbox.length * 2 ^ 16
    | _ => regN m p r

/-- SEM_STAT (Table RP-11): the die at the other end, and whether the seam is up. -/
def semPeer (p : Page) : Nat :=
  if isHub p.die then p.inst
  else match p.die, p.inst with
    | _, 0 => 4
    | 0, 1 => 1
    | 0, _ => 2
    | 1, 1 => 0
    | 1, _ => 3
    | 2, 1 => 0
    | 2, _ => 3
    | _, 1 => 1
    | _, _ => 2
def semView (m : Mod) (p : Page) (r : Nat) : Nat :=
  if r = 0x40 then semPeer p * 2 ^ 8 + (if isOut m (.page p) then 2 else bN m.mem.loaded) else regN m p r

/-- PWR_STAT.state (Table PW-5). -/
def pwrState (m : Mod) : Nat :=
  if m.sys.want.isSome then 4 else if m.pwr.dip.isSome then 3 else if m.pwr.hot then 2
  else bN m.pwr.short

/-- The first of sensors 0 to 45 with the hottest prediction. -/
def hotIndex (m : Mod) : Nat :=
  ((upto 46).find? fun i => !(i ∈ m.saf.failed) && m.pwr.pred.getD i (-640) = hottest m m.pwr.pred).getD 0
def celsius (t : Int) : Nat := (t / 16).toNat

def pwrView (m : Mod) (r : Nat) : Nat :=
  let p := m.pwr
  let e (v : Nat) (lo : Nat) : Nat := if r = lo then lo32 v else hi32 v
  match r with
  | 0x48 => lowestDuty m * 2 ^ 16 + min 3 (recentDips m).length * 2 ^ 8 + pwrState m
  | 0x4C => m.sys.mv % 65536 + min 0xFFFF p.ma10 * 2 ^ 16
  | 0x50 => min 0xFFFF p.lastW + min 0xFFFF p.maxW * 2 ^ 16
  | 0x54 => min 0xFFFF (p.grant / 1000) + min 0xFFFF (p.credit.toNat / 1000) * 2 ^ 16
  | 0x58 => p.burst / 1000
  | 0x5C => hotIndex m * 2 ^ 16 + celsius (hottest m p.pred) % 256 * 2 ^ 8 + celsius (hottest m p.temp) % 256
  | 0x64 => (p.temp.getD (bits (regN m pwrP 0x60) 0 6) 0 % 4294967296).toNat
  | 0x68 | 0x6C => e (p.ingest / 1000) 0x68
  | 0x70 | 0x74 => e (p.query / 1000) 0x70
  | 0x78 | 0x7C => e (p.other / 1000) 0x78
  | 0x80 | 0x84 => e (p.idle / 1000) 0x80
  | 0x88 | 0x8C => e p.docs 0x88
  | 0x90 | 0x94 => e p.queries 0x90
  | _ => regN m pwrP r

def safView (m : Mod) (r : Nat) : Nat :=
  match r with
  | 0x44 => pairsOk m * 2 ^ 24 + min 255 (unitsOut m) * 2 ^ 16 + bitSum ((upto 4).filter fun n => isOut m (.pair n)) * 2 ^ 8 +
      bN m.saf.rebuild * 8 + bN m.saf.mcDown * 4 + m.saf.state
  | 0x54 => bitSum (m.saf.failed.filter (· < 32))
  | 0x58 => bitSum ((m.saf.failed.filter (32 ≤ ·)).map (· - 32))
  | _ => regN m safP r

/-- A word of a window, zero beyond its current length (R596). -/
def windowWord (m : Mod) (r base len : Nat) : Nat :=
  regN m secP r % 2 ^ (8 * min 4 (len - (r - base)))

def secView (m : Mod) (r : Nat) : Nat :=
  let s := m.sec
  if 0x400 ≤ r then windowWord m r 0x400 (bits (regN m secP 0x5C) 0 11)
  else if 0x200 ≤ r then windowWord m r 0x200 (bits (regN m secP 0x54) 0 9)
  else if 0x60 ≤ r then wordOf ((s.nonce.map (·.toNat)).getD 0) ((r - 0x60) / 4)
  else match r with
    | 0x40 => s.lc * 2 ^ 29 + s.service * 2 ^ 24 + bN s.pending.isSome * 2 ^ 23 + bN s.reverted * 2 ^ 22 + bN s.trial * 2 ^ 21 +
        s.active * 2 ^ 20 + bitSum ((upto 4).filter (ownerLive m)) * 2 ^ 16
    | 0x44 => bN s.locked
    | 0x4C => s.runSvn * 2 ^ 8 + s.fuseSvn
    | _ => regN m secP r

/-- The record MGT_ELOG_SEL selects, in byte order: log word, then tick stamp. -/
def elogWord (m : Mod) (k : Nat) : Nat :=
  match m.mgt.elog[bits (regN m mgtP 0x5C) 0 12]? with
  | some x => wordOf (x.word.toNat + x.tick * 2 ^ 64) k
  | none => 0

def mgtView (m : Mod) (r : Nat) : Nat :=
  let g := m.mgt
  match r with
  | 0x40 => g.state * 2 ^ 29 + m.sys.phase * 2 ^ 25 + min 255 (g.restarts.filter fun t => now m < t + 86400000000).length * 2 ^ 8 +
      ((g.addr.map (·.toNat)).getD 0)
  | 0x48 => g.eid.toNat
  | 0x4C => g.alert
  | 0x58 => bN g.test.isSome * 2 ^ 31 + g.testRes * 2 ^ 28 + g.testDet
  | 0x60 | 0x64 | 0x68 | 0x6C => elogWord m ((r - 0x60) / 4)
  | 0x70 => g.elog.length
  | _ => regN m mgtP r

/-- What a register reads. Registers that no table lists read zero (R6, R631). -/
def view (m : Mod) (p : Page) (r : Nat) : Nat :=
  if r < 0x40 then (if (rowAt p r).isSome then header m p r else 0)
  else if p.blk = .drl && 0x800 ≤ r then drlView m p r
  else match rowAt p r with
    | none => 0
    | some w =>
      if w.acc = .wo then 0
      else match p.blk with
        | .chu => if r = 0x7C then m.chutes.length else regN m p r
        | .ctl => ctlView m r
        | .tck => tckView m r
        | .ldg => ldgView m r
        | .fac => facView m p r
        | .cru => cruView m p r
        | .wlk => if r = 0x44 then walkStat m p else regN m p r
        | .gth => if r = 0x44 then gthStat m p else regN m p r
        | .hbm => hbmView m p r
        | .drl => drlView m p r
        | .hau => hauView m r
        | .flc => flcView m p r
        | .dft => if r = 0x48 then driftLeft m p.inst else regN m p r
        | .vlk => vlkView m r
        | .fab => fabView m p r
        | .sem => semView m p r
        | .pwr => pwrView m r
        | .saf => safView m r
        | .sec => secView m r
        | .mgt => mgtView m r
        | .siv | .rdl => regN m p r

/-! Reads and their effects. -/

/-- The `_HI` register of a read-only `_LO` register (R633). -/
def hiOf (p : Page) (r : Nat) : Option Nat :=
  match p.blk, r with
  | .tck, 0x40 => some 0x44
  | .tck, 0x54 => some 0x58
  | .ldg, 0x44 => some 0x48
  | .ldg, 0x60 => some 0x64
  | .pwr, 0x68 => some 0x6C
  | .pwr, 0x70 => some 0x74
  | .pwr, 0x78 => some 0x7C
  | .pwr, 0x80 => some 0x84
  | .pwr, 0x88 => some 0x8C
  | .pwr, 0x90 => some 0x94
  | .saf, 0x4C => some 0x50
  | .saf, 0x54 => some 0x58
  | .drl, r => if 0x800 ≤ r && r % 256 = 0x60 then some (r + 4) else none
  | _, _ => none

/-- The last read of a `_LO` register by a reader latched its partner. -/
def latchHi (m : Mod) (w : Reader) (p : Page) (r : Nat) : Mod :=
  match hiOf p r with
  | none => m
  | some h =>
    let k := (w, pageBase p + h)
    { m with regs := { m.regs with hi := (k, BitVec.ofNat 32 (view m p h)) :: m.regs.hi.filter fun x => x.1 != k } }

/-- A read of BLK_ERR_LOG_LO (R628). -/
def latchErr (m : Mod) (w : Reader) (p : Page) : Mod :=
  let e := errPage m p
  setErrPage m { e with latch := (w, e.live) :: e.latch.filter (·.1 != w), seen := true, lost := false }

/-- What a read of a register does to the module. -/
def readEffect (m : Mod) (w : Reader) (p : Page) (r : Nat) : Mod :=
  match rowAt p r with
  | some x =>
    if x.acc = .rc then readCounter m p r
    else if r = 0x24 then latchErr m w p
    else latchHi m w p r
  | none => latchHi m w p r

/-- The value a read returns, after the effect of the read where that comes first. -/
def readValue (m : Mod) (w : Reader) (p : Page) (r : Nat) : Nat :=
  let e := latchOf (errPage m p) w
  match r with
  | 0x28 => hi32 e.word.toNat
  | 0x2C => lo32 e.tick
  | 0x30 => hi32 e.tick
  | _ => match m.regs.hi.find? fun x => x.1 = (w, pageBase p + r) with
    | some x => x.2.toNat
    | none => if (rowAt p r).any fun x => x.acc = .rc then beforeTick m p r else view m p r

/-- A register read: the value and the module after it. SEC_NONCE0 renews the nonce first (R591). -/
def regRead (m : Mod) (w : Reader) (off : Nat) : Nat × Mod :=
  match pageAt off with
  | none => (0, m)
  | some (p, r) =>
    let m := if p.blk = .sec && r = 0x60 then newNonce m else m
    (readValue m w p r, readEffect m w p r)

/-! Writes. -/

/-- BLK_EVT_PEND and BLK_EVT_EN (R621, R624): a write that leaves the output asserted counts as a rise. -/
def evtWrite (m : Mod) (p : Page) (en : Bool) (v : Word) : Mod :=
  let m := writePlain m p (if en then 0x18 else 0x14) v
  if evOut m p then risen { m with regs := { m.regs with level := p :: m.regs.level.filter (· != p) } } p else m

/-- BLK_CTL (R618 to R620). -/
def ctlWrite (m : Mod) (p : Page) (v : Nat) : Mod :=
  let m := if bitAt v 1 then restartOp m p else m
  if bitAt v 2 then outOp m p else returnOp m p

/-- WLK_CFG (R158): dl_margin is one value on all 64 pages. -/
def wlkWrite (m : Mod) (die inst : Nat) (v : Word) : Mod :=
  let p : Page := ⟨die, .wlk, inst⟩
  if !pageOk p || !fieldsOk p 0x40 v.toNat then m
  else
    let margin := bits v.toNat 8 8
    let m := (upto 4).foldl (fun m d => (upto 16).foldl (fun m i =>
      setRegN m ⟨d, .wlk, i⟩ 0x40 (setBits (regN m ⟨d, .wlk, i⟩ 0x40) 8 8 margin)) m) m
    setRegN m p 0x40 (v.toNat &&& 0xFF10)

/-- CHU_CMD (Table CH-6). -/
def chuCmd (m : Mod) (v : Nat) : Mod :=
  match bits v 28 4 with
  | 1 => chuteCreate m (bits v 0 12)
  | 2 => chuteDestroy m (bits v 0 12)
  | 3 => chuteQuery m (bits v 0 12)
  | _ => m

/-- TCK_RESET (R522). -/
def tckReset (m : Mod) (code : Nat) : Mod := if code = 0xD5 && m.sys.rails then requestReset m 1 1 else m

/-- FAB_PORT_CTL (R478, R620). -/
def portWrite (m : Mod) (n v : Nat) : Mod :=
  let m := portEnableOp m n (bitAt v 0)
  if bitAt v 8 then enterRecovery m (.port n) true else m

/-- VLK_CTL (R476). -/
def vlkWrite (m : Mod) (v : Word) : Mod :=
  if !fieldsOk vlkP 0x40 v.toNat then m
  else
    let m := writePlain m vlkP 0x40 v
    if bitAt v.toNat 8 then enterRecovery m .velom true else m

/-- SEC_TOKEN_CTL: the signatures of the token in the window as they verify (R591). -/
def tokenSigs (m : Mod) : List Bool :=
  let t := windowBytes m 0x200 (bits (regN m secP 0x54) 0 9)
  (upto 2).map fun i => Config.verifies ((t.drop (180 + 96 * i)).take 32) ((t.drop (212 + 96 * i)).take 64) (t.take 180)
def tokenWrite (m : Mod) (v : Word) : Mod :=
  if !fieldsOk secP 0x54 v.toNat then m
  else
  let m := writePlain m secP 0x54 v
  if bitAt v.toNat 31 then tokenSubmitOp m (tokenSigs m) else m

def spdmWrite (m : Mod) (v : Word) : Mod :=
  if !fieldsOk secP 0x5C v.toNat then m
  else
    let m := writePlain m secP 0x5C v
    if bitAt v.toNat 31 then spdmGoOp m else m

/-- MGT_TEST_CTL (R610, R612). -/
def testWrite (m : Mod) (v : Word) : Mod :=
  if !fieldsOk mgtP 0x54 v.toNat then m
  else
  let m := writePlain m mgtP 0x54 v
  if bitAt v.toNat 31 then testStartOp m (bits v.toNat 24 4) (bits v.toNat 0 4) false else m

/-- MGT_ALERT (R8, R602). -/
def alertWrite (m : Mod) (v : Word) : Mod :=
  { m with mgt := { m.mgt with alert := m.mgt.alert &&& (0x1F - (v &&& ~~~ setNow m mgtP 0x4C).toNat % 32) } }

/-- A write to a block-specific register with behaviour of its own; none where the write is a plain one. -/
def specialWrite (m : Mod) (p : Page) (r : Nat) (v : Word) : Option Mod :=
  let n := v.toNat
  let at' (k : Nat) (t : Mod) : Option Mod := if r = k then some t else none
  match p.blk with
  | .chu => ((at' 0x40 (sqDoorbell m (bits n 20 12) (bits n 0 16))).or (at' 0x44 (cqDoorbell m (bits n 20 12) (bits n 0 16)))).or (at' 0x48 (chuCmd m n))
  | .tck => at' 0x4C (tckReset m (bits n 0 8))
  | .ldg => at' 0x6C (replayAck m)
  | .wlk => at' 0x40 (wlkWrite m p.die p.inst v)
  | .hau => at' 0x5C (hauFreeOp m (bits n 0 28))
  | .drl =>
    ((at' 0xA8 (hostResWrite m (p.die - 8) v)).or (at' 0xAC (loadCmd m (p.die - 8) 0 v))).or
      (if 0x800 ≤ r then some (mailboxWrite m (p.die - 8) ((r - 0x800) / 256) (r % 256) v) else none)
  | .vlk => at' 0x40 (vlkWrite m v)
  | .fab =>
    if p.inst = 12 then (at' 0x68 (if bitAt n 0 then mbxSend m else m)).or (at' 0x6C (mbxPop m))
    else at' 0x40 (portWrite m p.inst n)
  | .sec => ((at' 0x44 (secLockOp m n)).or (at' 0x54 (tokenWrite m v))).or (at' 0x5C (spdmWrite m v))
  | .mgt => (at' 0x4C (alertWrite m v)).or (at' 0x54 (testWrite m v))
  | _ => none

/-- A register write (R6, R7, R10, R462). -/
def regWrite (m : Mod) (off : Nat) (v : Word) : Mod :=
  match pageAt off with
  | none => m
  | some (p, r) =>
    if r = 0x0C then ctlWrite m p v.toNat
    else if r = 0x14 then evtWrite m p false v
    else if r = 0x18 then evtWrite m p true v
    else (specialWrite m p r v).getD (writePlain m p r v)

/-! RegRd and RegWr (R5, R459, R462, R615). -/

/-- The status of a register access (Table VL-5). -/
def regStatus (off width : Nat) : Nat :=
  if 2 ^ 28 ≤ off || (5 ≤ bits off 24 4 && bits off 24 4 ≤ 7) then 1
  else if width != 4 || off % 4 != 0 then 2
  else 0

def serveRegRd (m : Mod) (tag off width : Nat) : Mod :=
  let s := regStatus off width
  if s != 0 then replyMsg m tag s 0 []
  else
    let (v, m) := regRead m .link off
    replyMsg m tag 0 0 (toBytes v 4)

def serveRegWr (m : Mod) (tag off width : Nat) (v : Word) : Mod :=
  let s := regStatus off width
  ackMsg (if s = 0 then regWrite m off v else m) tag s

/-! The debug UART (R594). -/

/-- DEBUG_UART_ACCESS, in SERVICE with the main rails on. -/
def debugOp (m : Mod) (r : DbgReq) : Mod :=
  if m.sec.lc != 3 || !m.sys.rails then m
  else match r with
  | .readReg off =>
    let (v, m) := regRead m .mc off.toNat
    aditSend m (.uart (toBytes v 4))
  | .writeReg off v => regWrite m off.toNat v
  | .readMem a n => aditSend m (.uart (readBytes m a.toNat n))
  | .writeMem a d => writeBytes m a.toNat d
  | .haltPair n => if n < 4 then { m with sys := { m.sys with halted := n :: m.sys.halted.filter (· != n) } } else m

end Sys2Proof.Machine
end

