-- ==== Sys2Proof/Machine/CmdChute.lean ====
section
/-! DEFINITION. Chutes: doorbells, creation and teardown, fetching and admission (chapter 03). -/

namespace Sys2Proof.Machine

/-- ENTRY_FETCH (R101). -/
def execEntryFetch (chute : Nat) (entry : BitVec 512) (pl : Payload) (s : State) : Host.Outcome State Fault Refusal :=
  .next { s with mod := entryFetchOp s.mod chute entry pl }

/-- ADMISSION (R74). -/
def execAdmission (s : State) : Host.Outcome State Fault Refusal := .next { s with mod := admissionOp s.mod }

/-- CHU_SQ_DB (R67). -/
def execChuSqDb (chute : BitVec 12) (index : BitVec 16) (s : State) : Host.Outcome State Fault Refusal :=
  .next { s with mod := sqDoorbell s.mod chute.toNat index.toNat }

/-- CHU_CQ_DB (R96). -/
def execChuCqDb (chute : BitVec 12) (index : BitVec 16) (s : State) : Host.Outcome State Fault Refusal :=
  .next { s with mod := cqDoorbell s.mod chute.toNat index.toNat }

/-- CREATE (R60). -/
def execCreate (chute : BitVec 12) (s : State) : Host.Outcome State Fault Refusal :=
  .next { s with mod := chuteCreate s.mod chute.toNat }

/-- DESTROY (R64). -/
def execDestroy (chute : BitVec 12) (s : State) : Host.Outcome State Fault Refusal :=
  .next { s with mod := chuteDestroy s.mod chute.toNat }

/-- QUERY (R94). -/
def execQuery (chute : BitVec 12) (s : State) : Host.Outcome State Fault Refusal :=
  .next { s with mod := chuteQuery s.mod chute.toNat }

/-- CHUTE_DRAINED (R64). -/
def execChuteDrained (chute : Nat) (s : State) : Host.Outcome State Fault Refusal :=
  .next { s with mod := chuteFree s.mod chute }

/-- COALESCING_TIMER (R94). -/
def execCoalescingTimer (chute : Nat) (s : State) : Host.Outcome State Fault Refusal :=
  .next { s with mod := coalesceTimer s.mod chute }

/-- CHU_WEIGHTS_WRITE (R95). -/
def execChuWeightsWrite (reserve : Bool) (v : Word) (s : State) : Host.Outcome State Fault Refusal :=
  .next { s with mod := writePlain s.mod chuP (if reserve then 0x6C else 0x68) v }

end Sys2Proof.Machine
end

