-- ==== Sys2Proof/Machine/DemandOps.lean ====
section
/-! DEFINITION. The host's demands in the order of their arrival (R460): one that must wait holds up those behind it. -/

namespace Sys2Proof.Machine

/-- One demand, if nothing holds it up: the module after it, and whether it has been answered. -/
def tryDemand (m : Mod) : Demand → Mod × Bool
  | .load tag a n e => tryLoad m tag a n e
  | .lease tag a want e => tryLease m tag a want e
  | .store tag a d e => tryStore m tag a d e
  | .regRd tag off w => (serveRegRd m tag off w, true)
  | .regWr tag off w v => (serveRegWr m tag off w v, true)

/-- A demand that arrives: served at once, or queued behind those that wait. -/
def hostDemand (m : Mod) (d : Demand) : Mod :=
  let keep (m : Mod) : Mod := { m with velom := { m.velom with demands := m.velom.demands ++ [d] } }
  if !linkUp m then m
  else if !m.velom.demands.isEmpty then keep m
  else
    let r := tryDemand m d
    if r.2 then r.1 else keep r.1

/-- Demands that waited, served in order as far as nothing holds them up; the fuel bounds their number. -/
def serveDemands : Nat → Mod → Mod
  | 0, m => m
  | n + 1, m => match m.velom.demands with
    | [] => m
    | d :: _ =>
      let r := tryDemand m d
      if r.2 then serveDemands n { r.1 with velom := { r.1.velom with demands := r.1.velom.demands.drop 1 } } else r.1

def retryDemands (m : Mod) : Mod := serveDemands m.velom.demands.length m

/-- LOAD. -/
def loadOp (m : Mod) (tag addr n : Nat) (e : Ecc) : Mod := hostDemand m (.load tag addr n e)

/-- LOAD_LEASE: a lease of neither kind is a reserved field (R457, R473). -/
def leaseOp (m : Mod) (tag addr want : Nat) (e : Ecc) : Mod :=
  if linkUp m && (want = 0 || want = 3) then protocolError m .velom 0x02 tag else hostDemand m (.lease tag addr want e)

/-- STORE: whole lines in 4 to 16 slots. -/
def storeLines (m : Mod) (tag addr : Nat) (d : List (BitVec 128)) : Mod :=
  if linkUp m && (d.length % 4 != 0 || d.length = 0 || 16 < d.length) then protocolError m .velom 0x04 tag
  else hostDemand m (.store tag addr ((d.flatMap fun x => toBytes x.toNat 16).map some) .ok)

/-- STORE_MASK: one line with its byte enables. -/
def storeMasked (m : Mod) (tag addr : Nat) (en line : Nat) (e : Ecc) : Mod :=
  let bs := toBytes line 64
  hostDemand m (.store tag addr ((upto 64).map fun i => if bitAt en i then bs[i]? else none) e)

def regRdOp (m : Mod) (tag off width : Nat) : Mod := hostDemand m (.regRd tag off width)
def regWrOp (m : Mod) (tag off width : Nat) (v : Word) : Mod := hostDemand m (.regWr tag off width v)

end Sys2Proof.Machine
end

