-- ==== Sys2Proof/Machine/CmdDrill.lean ====
section
/-! DEFINITION. Drills as the host and the module start and stop them (chapter 11). -/

namespace Sys2Proof.Machine

/-- DRL_HOST_RES_WRITE (R379). -/
def execDrlHostResWrite (stack : Nat) (v : Word) (s : State) : Host.Outcome State Fault Refusal :=
  .next { s with mod := hostResWrite s.mod stack v }

/-- DRL_LOAD_CMD (R351). -/
def execDrlLoadCmd (stack window : Nat) (v : Word) (s : State) : Host.Outcome State Fault Refusal :=
  .next { s with mod := loadCmd s.mod stack window v }

/-- DRL_CMD_DB (R353). -/
def execDrlCmdDb (stack drill : Nat) (seq : BitVec 16) (mailbox : Bool) (s : State) : Host.Outcome State Fault Refusal :=
  .next { s with mod := doorbellOp s.mod stack drill seq.toNat mailbox }

/-- DRILL_RUN_START (R354). -/
def execDrillRunStart (stack drill : Nat) (s : State) : Host.Outcome State Fault Refusal :=
  .next { s with mod := runStart s.mod stack drill }

/-- DRILL_RUN_END (R354). -/
def execDrillRunEnd (stack drill : Nat) (s : State) : Host.Outcome State Fault Refusal :=
  .next { s with mod := retryDemands (drillEnd s.mod stack drill) }

/-- DRILL_WATCHDOG (R356). -/
def execDrillWatchdog (stack drill : Nat) (s : State) : Host.Outcome State Fault Refusal :=
  .next { s with mod := watchdogOp s.mod stack drill }

/-- MEMORY_WIPE (R376). -/
def execMemoryWipe (s : State) : Host.Outcome State Fault Refusal := .next { s with mod := wipeOp s.mod }

end Sys2Proof.Machine
end

