-- ==== Sys2Proof/Machine/CmdEncode.lean ====
section
/-! DEFINITION. Encoding of documents (chapter 08). -/

namespace Sys2Proof.Machine

/-- DOCUMENT_ENTER_SLOT (R287). -/
def execDocumentEnterSlot (cmd doc : Nat) (s : State) : Host.Outcome State Fault Refusal :=
  .next { s with mod := enterSlot s.mod cmd doc }

/-- CHUNK_ENCODE (R284). -/
def execChunkEncode (slot : SlotRead) (s : State) : Host.Outcome State Fault Refusal :=
  .next { s with mod := Machine.chunkEncode s.mod slot.slot slot.hit }

/-- ATTENTION_PARTIAL (R374). -/
def execAttentionPartial (slot stack drill layer : Nat) (spot : HeadRow) (q : List Word) (hit : Hit) (s : State) : Host.Outcome State Fault Refusal :=
  .next { s with mod := attnPartial s.mod slot stack drill ⟨layer, spot.head, spot.row⟩ q hit }

/-- PARTIAL_FOLD (R286). -/
def execPartialFold (slot layer : Nat) (spot : HeadRow) (own : Option (List Word)) (s : State) : Host.Outcome State Fault Refusal :=
  .next { s with mod := partialFoldOp s.mod slot ⟨layer, spot.head, spot.row⟩ own }

/-- DOCUMENT_COMPLETE (R289). -/
def execDocumentComplete (slot : Nat) (s : State) : Host.Outcome State Fault Refusal :=
  .next { s with mod := docComplete s.mod slot }

end Sys2Proof.Machine
end

