-- ==== Sys2Proof/Machine/CmdFabric.lean ====
section
/-! DEFINITION. The Relvik fabric (chapter 16). -/

namespace Sys2Proof.Machine

/-- FAB_MBX_SEND (R486). -/
def execFabMbxSend (s : State) : Host.Outcome State Fault Refusal := .next { s with mod := mbxSend s.mod }

/-- FAB_MBX_POP (R501). -/
def execFabMbxPop (_v : Word) (s : State) : Host.Outcome State Fault Refusal := .next { s with mod := mbxPop s.mod }

/-- DISCOVER (R483). -/
def execDiscover (port : Option Nat) (f : Frame) (s : State) : Host.Outcome State Fault Refusal :=
  .next { s with mod := discoverOp s.mod port f }

/-- DISCOVER_RSP (R486). -/
def execDiscoverRsp (port : Option Nat) (f : Frame) (s : State) : Host.Outcome State Fault Refusal :=
  .next { s with mod := pathResponse s.mod 0x02 port f }

/-- ASSIGN (R485). -/
def execAssign (port : Option Nat) (f : Frame) (s : State) : Host.Outcome State Fault Refusal :=
  .next { s with mod := assignOp s.mod port f }

/-- ASSIGN_RSP (R486). -/
def execAssignRsp (port : Option Nat) (f : Frame) (s : State) : Host.Outcome State Fault Refusal :=
  .next { s with mod := pathResponse s.mod 0x04 port f }

/-- ROUTE_WR (R488). -/
def execRouteWr (f : Frame) (s : State) : Host.Outcome State Fault Refusal :=
  .next { s with mod := deliverType s.mod 0x05 f }

/-- ROUTE_COMMIT (R488). -/
def execRouteCommit (f : Frame) (s : State) : Host.Outcome State Fault Refusal :=
  .next { s with mod := deliverType s.mod 0x06 f }

/-- MGT_RSP (R488). -/
def execMgtRsp (f : Frame) (s : State) : Host.Outcome State Fault Refusal := .next { s with mod := deliverType s.mod 0x07 f }

/-- NOTICE (R493). -/
def execNotice (f : Frame) (s : State) : Host.Outcome State Fault Refusal := .next { s with mod := deliverType s.mod 0x08 f }

/-- HELLO (R487). -/
def execHello (port : Nat) (node : BitVec 12) (assigned : Bool) (nport : BitVec 4) (s : State) : Host.Outcome State Fault Refusal :=
  .next { s with mod := helloOp s.mod port node.toNat assigned nport.toNat }

/-- FRAME_FORWARD (R482). -/
def execFrameForward (port : Nat) (f : Frame) (s : State) : Host.Outcome State Fault Refusal :=
  .next { s with mod := forwardOp s.mod port f }

/-- FRAME_DELIVER (R480). -/
def execFrameDeliver (port : Nat) (f : Frame) (s : State) : Host.Outcome State Fault Refusal :=
  .next { s with mod := deliverOn s.mod port f }

/-- UNREACH (R492). -/
def execUnreach (f : Frame) (s : State) : Host.Outcome State Fault Refusal :=
  .next { s with mod := deliverType s.mod 0x14 f }

/-- ISOLATION_TIMEOUT (R494). -/
def execIsolationTimeout (s : State) : Host.Outcome State Fault Refusal := .next { s with mod := isolationOp s.mod }

/-- SRCH_REQ (R497). -/
def execSrchReq (src tag : Nat) (dl : Nat) (gen : Word) (entry : BitVec 512) (pl : Payload) (s : State) : Host.Outcome State Fault Refusal :=
  .next { s with mod := srchReqOp s.mod src tag dl gen.toNat entry pl }

/-- SRCH_PART (R498). -/
def execSrchPart (cmd : Nat) (r : RemotePart) (s : State) : Host.Outcome State Fault Refusal :=
  .next { s with mod := srchPartOp s.mod cmd r }

/-- KSPLIT_PART (R500). -/
def execKsplitPart (src tag desc contributor : Nat) (tile : List Word) (s : State) : Host.Outcome State Fault Refusal :=
  .next { s with mod := ksplitPartOp s.mod src tag desc contributor tile }

/-- KSPLIT_ACK (R500). -/
def execKsplitAck (src tag : Nat) (_dup : Bool) (s : State) : Host.Outcome State Fault Refusal :=
  .next { s with mod := ksplitAckOp s.mod src tag }

/-- KSPLIT_RESEND (R500). -/
def execKsplitResend (tag : Nat) (s : State) : Host.Outcome State Fault Refusal :=
  .next { s with mod := ksplitResendOp s.mod tag }

end Sys2Proof.Machine
end

