-- ==== Sys2Proof/Machine/CmdHost.lean ====
section
/-! DEFINITION. Messages of the host on the Velom link (chapter 15). -/

namespace Sys2Proof.Machine

/-- LOAD (R459). -/
def execLoad (tag : BitVec 16) (addr : DWord) (size : BitVec 2) (ecc : Ecc) (s : State) : Host.Outcome State Fault Refusal :=
  .next { s with mod := loadOp s.mod tag.toNat addr.toNat (64 * (size.toNat + 1)) ecc }

/-- LOAD_LEASE (R463). -/
def execLoadLease (tag : BitVec 16) (addr : DWord) (want : BitVec 2) (ecc : Ecc) (s : State) : Host.Outcome State Fault Refusal :=
  .next { s with mod := leaseOp s.mod tag.toNat addr.toNat want.toNat ecc }

/-- STORE (R428). -/
def execStore (tag : BitVec 16) (addr : DWord) (data : List (BitVec 128)) (s : State) : Host.Outcome State Fault Refusal :=
  .next { s with mod := storeLines s.mod tag.toNat addr.toNat data }

/-- STORE_MASK (R408). -/
def execStoreMask (tag : BitVec 16) (addr : DWord) (en : BitVec 64) (line : BitVec 512) (ecc : Ecc) (s : State) : Host.Outcome State Fault Refusal :=
  .next { s with mod := storeMasked s.mod tag.toNat addr.toNat en.toNat line.toNat ecc }

/-- REG_RD (R462). -/
def execRegRd (tag : BitVec 16) (off : DWord) (width : Nat) (s : State) : Host.Outcome State Fault Refusal :=
  .next { s with mod := regRdOp s.mod tag.toNat off.toNat width }

/-- REG_WR (R460). -/
def execRegWr (tag : BitVec 16) (off : DWord) (width : Nat) (v : Word) (s : State) : Host.Outcome State Fault Refusal :=
  .next { s with mod := regWrOp s.mod tag.toNat off.toNat width v }

/-- HOST_INV (R469). -/
def execHostInv (tag : BitVec 16) (addr : DWord) (s : State) : Host.Outcome State Fault Refusal :=
  .next { s with mod := hostInvOp s.mod tag.toNat addr.toNat }

/-- SURRENDER (R465). -/
def execSurrender (addr : DWord) (dirty : Option (BitVec 512)) (s : State) : Host.Outcome State Fault Refusal :=
  .next { s with mod := retryDemands (surrenderOp s.mod addr.toNat dirty) }

/-- RECALL_ACK (R465). -/
def execRecallAck (addr : DWord) (keep : BitVec 2) (dirty : Option (BitVec 512)) (s : State) : Host.Outcome State Fault Refusal :=
  .next { s with mod := retryDemands (recallAckOp s.mod addr.toNat keep.toNat dirty) }

/-- RECALL_TIMEOUT (R466). -/
def execRecallTimeout (addr : DWord) (s : State) : Host.Outcome State Fault Refusal :=
  .next { s with mod := retryDemands (recallTimeoutOp s.mod addr.toNat) }

/-- HOST_ACK (R459). -/
def execHostAck (tag : BitVec 16) (status : Byte) (s : State) : Host.Outcome State Fault Refusal :=
  .next { s with mod := hostAckOp s.mod tag.toNat status.toNat }

/-- HOST_REPLY (R459). -/
def execHostReply (tag : BitVec 16) (status : Byte) (data : List (BitVec 128)) (s : State) : Host.Outcome State Fault Refusal :=
  .next { s with mod := hostReplyOp s.mod tag.toNat status.toNat data.length }

end Sys2Proof.Machine
end

