-- ==== Sys2Proof/Machine/CmdIndex.lean ====
section
/-! DEFINITION. Generations, merges and builds (chapter 07). -/

namespace Sys2Proof.Machine

/-- MERGE_STEP (R243). -/
def execMergeStep (coll : Nat) (s : State) : Host.Outcome State Fault Refusal :=
  .next { s with mod := mergeStepOp s.mod coll }

/-- AUTOMATIC_MERGE (R246). -/
def execAutomaticMerge (coll : Nat) (s : State) : Host.Outcome State Fault Refusal :=
  .next { s with mod := autoMerge s.mod coll }

/-- BUILD_CHECKPOINT (R251). -/
def execBuildCheckpoint (cmd : Nat) (s : State) : Host.Outcome State Fault Refusal :=
  .next { s with mod := buildCkpt s.mod cmd }

/-- HISTOGRAM_RECOUNT_END (R168). -/
def execHistogramRecountEnd (coll : Nat) (s : State) : Host.Outcome State Fault Refusal :=
  .next { s with mod := recountEnd s.mod coll }

/-- GENERATION_FREED (R261). -/
def execGenerationFreed (coll : Nat) (gen : Word) (s : State) : Host.Outcome State Fault Refusal :=
  .next { s with mod := genFree s.mod coll gen.toNat }

/-- HOLD_EXPIRY (R261). -/
def execHoldExpiry (coll : Nat) (gen : Word) (s : State) : Host.Outcome State Fault Refusal :=
  .next { s with mod := holdEnd s.mod coll gen.toNat }

end Sys2Proof.Machine
end

