-- ==== Sys2Proof/Machine/CmdLedger.lean ====
section
/-! DEFINITION. The ledger: groups, their programming and image refresh (chapters 14 and 17). -/

namespace Sys2Proof.Machine

/-- RECORD_ENTER_RING (R517). -/
def execRecordEnterRing (s : State) : Host.Outcome State Fault Refusal := .next { s with mod := enterRing 256 s.mod }

/-- GROUP_CLOSE (R513). -/
def execGroupClose (s : State) : Host.Outcome State Fault Refusal := .next { s with mod := closeGroup s.mod }

/-- GROUP_PROGRAMMED (R514). -/
def execGroupProgrammed (group : Nat) (s : State) : Host.Outcome State Fault Refusal :=
  .next { s with mod := groupProgrammedOp s.mod group }

/-- GROUP_PROGRAM_FAIL (R515). -/
def execGroupProgramFail (group : Nat) (s : State) : Host.Outcome State Fault Refusal :=
  .next { s with mod := groupFailOp s.mod group }

/-- IMAGE_REFRESH (R446). -/
def execImageRefresh (coll : Nat) (s : State) : Host.Outcome State Fault Refusal :=
  .next { s with mod := imageRefreshOp s.mod coll }

end Sys2Proof.Machine
end

