-- ==== Sys2Proof/Machine/CmdLink.lean ====
section
/-! DEFINITION. Flit links: the Velom link and the fabric ports (chapters 15 and 16). -/

namespace Sys2Proof.Machine

/-- FLIT_RECEIVED (R455). -/
def execFlitReceived (l : Lnk) (corrected : Nat) (fecOk : Bool) (flit : List Byte) (s : State) : Host.Outcome State Fault Refusal :=
  .next { s with mod := flitOp s.mod l corrected fecOk flit }

/-- RETRY_REQUEST (R456). -/
def execRetryRequest (l : Lnk) (seq : BitVec 12) (s : State) : Host.Outcome State Fault Refusal :=
  .next { s with mod := retryOp s.mod l seq.toNat }

/-- ACKNOWLEDGEMENT (R456). -/
def execAcknowledgement (l : Lnk) (seq : BitVec 12) (s : State) : Host.Outcome State Fault Refusal :=
  .next { s with mod := ackOp s.mod l seq.toNat }

/-- CREDIT_RETURN (R458). -/
def execCreditReturn (l : Lnk) (lane : Nat) (slots : Nat) (s : State) : Host.Outcome State Fault Refusal :=
  .next { s with mod := creditOp s.mod l lane slots }

/-- LINK_DETECT (R471). -/
def execLinkDetect (l : Lnk) (lanes : BitVec 16) (s : State) : Host.Outcome State Fault Refusal :=
  .next { s with mod := detectOp s.mod l lanes.toNat }

/-- LINK_EQUALISED (R471). -/
def execLinkEqualised (l : Lnk) (s : State) : Host.Outcome State Fault Refusal := .next { s with mod := equalisedOp s.mod l }

/-- LINK_ACTIVE (R471). -/
def execLinkActive (l : Lnk) (lanes : BitVec 16) (s : State) : Host.Outcome State Fault Refusal :=
  .next { s with mod := activeOp s.mod l lanes.toNat }

/-- RECOVERY (R473). -/
def execRecovery (l : Lnk) (protocol : Bool) (op : Byte) (tag : BitVec 16) (s : State) : Host.Outcome State Fault Refusal :=
  .next { s with mod := recoveryOp s.mod l protocol op tag }

/-- RECOVERY_FAIL (R471). -/
def execRecoveryFail (l : Lnk) (s : State) : Host.Outcome State Fault Refusal :=
  .next { s with mod := recoveryFailOp s.mod l }

/-- LINK_LOSS_TIMEOUT (R475). -/
def execLinkLossTimeout (s : State) : Host.Outcome State Fault Refusal := .next { s with mod := linkLossOp s.mod }

/-- PORT_RETRAIN (R478). -/
def execPortRetrain (port : Nat) (s : State) : Host.Outcome State Fault Refusal :=
  .next { s with mod := enterRecovery s.mod (.port port) true }

/-- PORT_ENABLE_WRITE (R620). -/
def execPortEnableWrite (port : Nat) (en : Bool) (s : State) : Host.Outcome State Fault Refusal :=
  .next { s with mod := portEnableOp s.mod port en }

/-- RETRAIN (R476). -/
def execRetrain (s : State) : Host.Outcome State Fault Refusal := .next { s with mod := enterRecovery s.mod .velom true }

/-- PORT_LOSS (R491). -/
def execPortLoss (port : Nat) (s : State) : Host.Outcome State Fault Refusal := .next { s with mod := portLossOp s.mod port }

/-- STALL_DROP (R482). -/
def execStallDrop (port : Nat) (s : State) : Host.Outcome State Fault Refusal :=
  .next { s with mod := stallDropOp s.mod port }

end Sys2Proof.Machine
end

