-- ==== Sys2Proof/Machine/CmdMedia.lean ====
section
/-! DEFINITION. Stacked memory, benches and flash (chapters 10, 13 and 14). -/

namespace Sys2Proof.Machine

/-- WRITE_BUFFER_PROGRAM (R442). -/
def execWriteBufferProgram (unit : Nat) (s : State) : Host.Outcome State Fault Refusal :=
  .next { s with mod := wbProgramOp s.mod unit }

/-- SECTOR_ADD (R366). -/
def execSectorAdd (stack : Nat) (ecc : Ecc) (s : State) : Host.Outcome State Fault Refusal :=
  .next { s with mod := sectorAddOp s.mod stack ecc }

/-- KSPLIT_ACCEPT (R365). -/
def execKsplitAccept (face : Nat) (desc contributor : Nat) (tile : List Word) (s : State) : Host.Outcome State Fault Refusal :=
  .next { s with mod := ksAcceptOp s.mod face desc contributor tile }

/-- HAUL_COPY (R434). -/
def execHaulCopy (page : Nat) (ecc : Ecc) (s : State) : Host.Outcome State Fault Refusal :=
  .next { s with mod := haulCopyOp s.mod page ecc }

/-- HAUL_SWITCH (R435). -/
def execHaulSwitch (page : Nat) (s : State) : Host.Outcome State Fault Refusal :=
  .next { s with mod := haulSwitchOp s.mod page }

/-- HAUL_RELEASE (R436). -/
def execHaulRelease (page : Nat) (s : State) : Host.Outcome State Fault Refusal :=
  .next { s with mod := haulReleaseOp s.mod page }

/-- DEMOTION (R432). -/
def execDemotion (s : State) : Host.Outcome State Fault Refusal := .next { s with mod := demotionOp s.mod }

/-- HOT_PAGE_WINDOW (R342). -/
def execHotPageWindow (die : Nat) (s : State) : Host.Outcome State Fault Refusal :=
  .next { s with mod := hotWindowOp s.mod die }

/-- TABLE_PAGE_SWITCH (R342). -/
def execTablePageSwitch (page : Nat) (s : State) : Host.Outcome State Fault Refusal :=
  .next { s with mod := tableSwitchOp s.mod page }

/-- PAGE_REBUILD (R422). -/
def execPageRebuild (page : Nat) (src : RebuildFrom) (s : State) : Host.Outcome State Fault Refusal :=
  .next { s with mod := rebuildOp s.mod page src.seg src.lost }

/-- ROW_REMAP (R412). -/
def execRowRemap (stack pc bank row : Nat) (s : State) : Host.Outcome State Fault Refusal :=
  .next { s with mod := rowRemapOp s.mod stack pc bank row }

/-- FRAME_RETIREMENT (R415). -/
def execFrameRetirement (stack : Nat) (frame : FrameTest) (s : State) : Host.Outcome State Fault Refusal :=
  .next { s with mod := frameRetire s.mod stack frame.frame frame.pattern }

/-- PATROL_SCRUB (R409). -/
def execPatrolScrub (stack frame granule : Nat) (ecc : Ecc) (s : State) : Host.Outcome State Fault Refusal :=
  .next { s with mod := scrubOp s.mod stack frame granule ecc }

/-- FLASH_BLOCK_FAILURE (R451). -/
def execFlashBlockFailure (block : BlockWear) (s : State) : Host.Outcome State Fault Refusal :=
  .next { s with mod := blockFail s.mod block.ch block.wear }

/-- FLASH_CHANNEL_FAILURE (R452). -/
def execFlashChannelFailure (ch : Nat) (s : State) : Host.Outcome State Fault Refusal :=
  .next { s with mod := channelFail s.mod ch }

/-- HAU_FREE (R428). -/
def execHauFree (idx : BitVec 28) (s : State) : Host.Outcome State Fault Refusal :=
  .next { s with mod := hauFreeOp s.mod idx.toNat }

end Sys2Proof.Machine
end

