-- ==== Sys2Proof/Machine/CmdMgt.lean ====
section
/-! DEFINITION. The management controller on the adit port: I3C, MCTP, PLDM and firmware update (chapter 21). -/

namespace Sys2Proof.Machine

/-- ENTDAA (R598). -/
def execEntdaa (addr : BitVec 7) (s : State) : Host.Outcome State Fault Refusal :=
  .next { s with mod := entdaaOp s.mod addr }

/-- SETNEWDA (R598). -/
def execSetnewda (addr : BitVec 7) (s : State) : Host.Outcome State Fault Refusal :=
  .next { s with mod := setnewdaOp s.mod addr }

/-- RSTDAA (R598). -/
def execRstdaa (s : State) : Host.Outcome State Fault Refusal := .next { s with mod := rstdaaOp s.mod }

/-- GETPID (R598). -/
def execGetpid (s : State) : Host.Outcome State Fault Refusal := .next { s with mod := getpidOp s.mod }

/-- GETBCR (R598). -/
def execGetbcr (s : State) : Host.Outcome State Fault Refusal := .next { s with mod := i3cAnswer s.mod [0x06#8] }

/-- GETDCR (R598). -/
def execGetdcr (s : State) : Host.Outcome State Fault Refusal := .next { s with mod := i3cAnswer s.mod [0x00#8] }

/-- GETSTATUS (R598). -/
def execGetstatus (s : State) : Host.Outcome State Fault Refusal := .next { s with mod := getstatusOp s.mod }

/-- GETMWL (R598). -/
def execGetmwl (s : State) : Host.Outcome State Fault Refusal := .next { s with mod := getmwlOp s.mod }

/-- SETMWL (R598). -/
def execSetmwl (len : BitVec 16) (s : State) : Host.Outcome State Fault Refusal :=
  .next { s with mod := setmwlOp s.mod len.toNat }

/-- GETMRL (R598). -/
def execGetmrl (s : State) : Host.Outcome State Fault Refusal := .next { s with mod := getmrlOp s.mod }

/-- SETMRL (R598). -/
def execSetmrl (len : BitVec 16) (s : State) : Host.Outcome State Fault Refusal :=
  .next { s with mod := setmrlOp s.mod len.toNat }

/-- ENEC (R598). -/
def execEnec (events : Byte) (s : State) : Host.Outcome State Fault Refusal :=
  .next { s with mod := ibiOp s.mod events.toNat true }

/-- DISEC (R598). -/
def execDisec (events : Byte) (s : State) : Host.Outcome State Fault Refusal :=
  .next { s with mod := ibiOp s.mod events.toNat false }

/-- RSTACT (R598). -/
def execRstact (action : Byte) (s : State) : Host.Outcome State Fault Refusal :=
  .next { s with mod := rstactOp s.mod action }

/-- SET_ENDPOINT_ID (R599). -/
def execSetEndpointId (eid : Byte) (s : State) : Host.Outcome State Fault Refusal :=
  .next { s with mod := setEidOp s.mod eid }

/-- GET_ENDPOINT_ID (R599). -/
def execGetEndpointId (s : State) : Host.Outcome State Fault Refusal := .next { s with mod := getEidOp s.mod }

/-- GET_ENDPOINT_UUID (R599). -/
def execGetEndpointUuid (s : State) : Host.Outcome State Fault Refusal := .next { s with mod := getUuidOp s.mod }

/-- GET_MCTP_VERSION_SUPPORT (R599). -/
def execGetMctpVersionSupport (s : State) : Host.Outcome State Fault Refusal := .next { s with mod := mctpVersionsOp s.mod }

/-- GET_MESSAGE_TYPE_SUPPORT (R599). -/
def execGetMessageTypeSupport (s : State) : Host.Outcome State Fault Refusal := .next { s with mod := mctpTypesOp s.mod }

/-- GET_TID (R600). -/
def execGetTid (s : State) : Host.Outcome State Fault Refusal := .next { s with mod := getTidOp s.mod }

/-- SET_TID (R600). -/
def execSetTid (tid : Byte) (s : State) : Host.Outcome State Fault Refusal := .next { s with mod := setTidOp s.mod tid }

/-- GET_PLDM_VERSION (R600). -/
def execGetPldmVersion (ty : Byte) (s : State) : Host.Outcome State Fault Refusal :=
  .next { s with mod := pldmVersionOp s.mod ty }

/-- GET_PLDM_TYPES (R600). -/
def execGetPldmTypes (s : State) : Host.Outcome State Fault Refusal := .next { s with mod := pldmTypesOp s.mod }

/-- GET_PLDM_COMMANDS (R600). -/
def execGetPldmCommands (ty : Byte) (s : State) : Host.Outcome State Fault Refusal :=
  .next { s with mod := pldmCommandsOp s.mod ty.toNat }

/-- GET_PDR_REPOSITORY_INFO (R601). -/
def execGetPdrRepositoryInfo (s : State) : Host.Outcome State Fault Refusal := .next { s with mod := pdrInfoOp s.mod }

/-- GET_PDR (R601). -/
def execGetPdr (id : Nat) (s : State) : Host.Outcome State Fault Refusal := .next { s with mod := getPdrOp s.mod id }

/-- GET_SENSOR_READING (R601). -/
def execGetSensorReading (id : Nat) (s : State) : Host.Outcome State Fault Refusal :=
  .next { s with mod := sensorReadingOp s.mod id }

/-- GET_STATE_SENSOR_READINGS (R601). -/
def execGetStateSensorReadings (id : Nat) (s : State) : Host.Outcome State Fault Refusal :=
  .next { s with mod := stateReadingOp s.mod id }

/-- SET_NUMERIC_EFFECTER_VALUE (R600). -/
def execSetNumericEffecterValue (id : Nat) (v : Word) (s : State) : Host.Outcome State Fault Refusal :=
  .next { s with mod := numericEffecterOp s.mod id v }

/-- MAIN_POWER_EFFECTER (R603). -/
def execMainPowerEffecter (v : Byte) (s : State) : Host.Outcome State Fault Refusal :=
  .next { s with mod := powerEffecterOp s.mod v.toNat }

/-- RESET_EFFECTER (R601). -/
def execResetEffecter (v : Byte) (s : State) : Host.Outcome State Fault Refusal :=
  .next { s with mod := resetEffecterOp s.mod v.toNat }

/-- TEST_MODE_EFFECTER (R610). -/
def execTestModeEffecter (mode target : Nat) (s : State) : Host.Outcome State Fault Refusal :=
  .next { s with mod := testEffecterOp s.mod mode target }

/-- SET_EVENT_RECEIVER (R602). -/
def execSetEventReceiver (eid : Byte) (s : State) : Host.Outcome State Fault Refusal :=
  .next { s with mod := eventReceiverOp s.mod eid }

/-- GET_FRU_RECORD_TABLE_METADATA (R600). -/
def execGetFruRecordTableMetadata (s : State) : Host.Outcome State Fault Refusal := .next { s with mod := fruMetaOp s.mod }

/-- GET_FRU_RECORD_TABLE (R2). -/
def execGetFruRecordTable (s : State) : Host.Outcome State Fault Refusal := .next { s with mod := fruTableOp s.mod }

/-- QUERY_DEVICE_IDENTIFIERS (R600). -/
def execQueryDeviceIdentifiers (s : State) : Host.Outcome State Fault Refusal := .next { s with mod := deviceIdsOp s.mod }

/-- GET_FIRMWARE_PARAMETERS (R600). -/
def execGetFirmwareParameters (s : State) : Host.Outcome State Fault Refusal :=
  .next { s with mod := firmwareParamsOp s.mod }

/-- REQUEST_UPDATE (R609). -/
def execRequestUpdate (s : State) : Host.Outcome State Fault Refusal := .next { s with mod := requestUpdateOp s.mod }

/-- PASS_COMPONENT_TABLE (R582). -/
def execPassComponentTable (comps : List Nat) (s : State) : Host.Outcome State Fault Refusal :=
  .next { s with mod := passTableOp s.mod comps }

/-- UPDATE_COMPONENT (R582). -/
def execUpdateComponent (kind : Nat) (s : State) : Host.Outcome State Fault Refusal :=
  .next { s with mod := updateComponentOp s.mod kind }

/-- REQUEST_FIRMWARE_DATA (R582). -/
def execRequestFirmwareData (img : Image) (s : State) : Host.Outcome State Fault Refusal :=
  .next { s with mod := firmwareDataOp s.mod img }

/-- VERIFY_COMPLETE (R582). -/
def execVerifyComplete (s : State) : Host.Outcome State Fault Refusal := .next { s with mod := verifyOp s.mod }

/-- ACTIVATE_FIRMWARE (R583). -/
def execActivateFirmware (s : State) : Host.Outcome State Fault Refusal := .next { s with mod := activateOp s.mod }

/-- GET_STATUS (R600). -/
def execGetStatus (s : State) : Host.Outcome State Fault Refusal := .next { s with mod := updateStatusOp s.mod }

/-- CANCEL_UPDATE_COMPONENT (R600). -/
def execCancelUpdateComponent (s : State) : Host.Outcome State Fault Refusal :=
  .next { s with mod := cancelComponentOp s.mod }

/-- CANCEL_UPDATE (R609). -/
def execCancelUpdate (s : State) : Host.Outcome State Fault Refusal := .next { s with mod := cancelUpdateOp s.mod }

end Sys2Proof.Machine
end

