-- ==== Sys2Proof/Machine/CmdOpcode.lean ====
section
/-! DEFINITION. The opcodes of chapter 04: each decides the head of a chute that carries it, or does the work of one
  admitted. -/

namespace Sys2Proof.Machine

/-- The work of an admitted command ends with MEDIA_ERROR, where its record has not been written (R421). -/
def mediaEnd (m : Mod) (c : Cmd) : Mod :=
  if c.lsn.isSome || opcodeOf c.entry = 0x61 then m else workEnd m c 0x30 0xF8

/-- A tag mismatch in the work of an admitted command: met by a face that runs it, or in a build's work unit, which is replayed
once (R320). -/
def skewEnd (m : Mod) (c : Cmd) (n want got group : Nat) : Mod :=
  match opcodeOf c.entry, c.build with
  | 0x40, _ => if (faceOf m n).any fun f => f.cmd = some c.id then skewAt m n want got group else m
  | 0x21, some b =>
    let m := skewSeen m n (b.skews != 0) want got group
    if b.skews = 0 then setCmd m { c with build := some { b with skews := 1 } }
    else match shardOf m (collId c.entry) with
    | some co => buildFail m c co b 0x31 0
    | none => m
  | _, _ => m

/-- The work of an opcode's row: the head of a chute decided, where it carries the opcode, or the work of an admitted command of
it. -/
def partOp (m : Mod) (op : Nat) (p : Part) (run : Mod → Nat → Mod) : Mod :=
  match p with
  | .head chute => headOp m op chute
  | .run cid hit => match cmdOf m cid with
    | none => m
    | some c =>
      if !c.admitted || opcodeOf c.entry != op then m
      else match hit with
      | .clean => run m cid
      | .hurt => mediaEnd m c
      | .skew n want got group => skewEnd m c n want got group

/-- A merge job takes its next step (R243, R245). -/
def mergeRun (m : Mod) (cid : Nat) : Mod :=
  match cmdOf m cid with
  | some c => mergeStepOp m (collId c.entry)
  | none => m

/-- SEARCH (R150). -/
def execSearch (chute : Nat) (s : State) : Host.Outcome State Fault Refusal :=
  .next { s with mod := headOp s.mod 0x01 chute }

/-- FETCH (R110). -/
def execFetch (part : Part) (s : State) : Host.Outcome State Fault Refusal :=
  .next { s with mod := partOp s.mod 0x03 part fetchRun }

/-- INSERT (R112). -/
def execInsert (chute : Nat) (s : State) : Host.Outcome State Fault Refusal :=
  .next { s with mod := headOp s.mod 0x10 chute }

/-- UPSERT (R57). -/
def execUpsert (chute : Nat) (s : State) : Host.Outcome State Fault Refusal :=
  .next { s with mod := headOp s.mod 0x11 chute }

/-- DELETE (R53). -/
def execDelete (chute : Nat) (s : State) : Host.Outcome State Fault Refusal :=
  .next { s with mod := headOp s.mod 0x12 chute }

/-- EMBED (R289). -/
def execEmbed (part : Part) (s : State) : Host.Outcome State Fault Refusal :=
  .next { s with mod := partOp s.mod 0x13 part embedRun }

/-- EMBED_INSERT (R265). -/
def execEmbedInsert (part : Part) (s : State) : Host.Outcome State Fault Refusal :=
  .next { s with mod := partOp s.mod 0x14 part embedInsertRun }

/-- MERGE_STOCKPILE (R245). -/
def execMergeStockpile (part : Part) (s : State) : Host.Outcome State Fault Refusal :=
  .next { s with mod := partOp s.mod 0x20 part mergeRun }

/-- BUILD_SEGMENT (R249). -/
def execBuildSegment (part : Part) (s : State) : Host.Outcome State Fault Refusal :=
  .next { s with mod := partOp s.mod 0x21 part buildRun }

/-- PUBLISH (R256). -/
def execPublish (chute : Nat) (s : State) : Host.Outcome State Fault Refusal :=
  .next { s with mod := headOp s.mod 0x22 chute }

/-- RETIRE_GEN (R123). -/
def execRetireGen (chute : Nat) (s : State) : Host.Outcome State Fault Refusal :=
  .next { s with mod := headOp s.mod 0x23 chute }

/-- TABLE_LOOKUP (R331). -/
def execTableLookup (part : Part) (s : State) : Host.Outcome State Fault Refusal :=
  .next { s with mod := partOp s.mod 0x30 part lookupRun }

/-- TABLE_UPDATE (R335). -/
def execTableUpdate (part : Part) (s : State) : Host.Outcome State Fault Refusal :=
  .next { s with mod := partOp s.mod 0x31 part updateRun }

/-- RUN_FACE (R395). -/
def execRunFace (part : FacePart) (s : State) : Host.Outcome State Fault Refusal :=
  .next { s with mod := partOp s.mod 0x40 part.part fun m cid => match part.keep with
    | some w => keepRun m cid w
    | none => runFaceStart m cid }

/-- RUN_DRILL (R351). -/
def execRunDrill (part : Part) (s : State) : Host.Outcome State Fault Refusal :=
  .next { s with mod := partOp s.mod 0x41 part runDrillStart }

/-- HAUL_HINT (R127). -/
def execHaulHint (part : Part) (s : State) : Host.Outcome State Fault Refusal :=
  .next { s with mod := partOp s.mod 0x50 part hintRun }

/-- FLUSH (R128). -/
def execFlush (part : Part) (s : State) : Host.Outcome State Fault Refusal :=
  .next { s with mod := partOp s.mod 0x51 part flushRun }

/-- ABORT (R129). -/
def execAbort (chute : Nat) (s : State) : Host.Outcome State Fault Refusal := .next { s with mod := headOp s.mod 0x60 chute }

/-- FENCE (R92). -/
def execFence (part : Part) (s : State) : Host.Outcome State Fault Refusal :=
  .next { s with mod := partOp s.mod 0x61 part fenceRun }

/-- COLLECTION_CREATE (R130). -/
def execCollectionCreate (chute : Nat) (s : State) : Host.Outcome State Fault Refusal :=
  .next { s with mod := headOp s.mod 0x70 chute }

/-- COLLECTION_DROP (R25). -/
def execCollectionDrop (chute : Nat) (s : State) : Host.Outcome State Fault Refusal :=
  .next { s with mod := headOp s.mod 0x71 chute }

/-- SCHEMA_SET (R45). -/
def execSchemaSet (chute : Nat) (s : State) : Host.Outcome State Fault Refusal :=
  .next { s with mod := headOp s.mod 0x72 chute }

/-- MODEL_LOAD (R131). -/
def execModelLoad (part : Part) (s : State) : Host.Outcome State Fault Refusal :=
  .next { s with mod := partOp s.mod 0x73 part modelRun }

end Sys2Proof.Machine
end

