-- ==== Sys2Proof/Machine/CmdQuad.lean ====
section
/-! DEFINITION. SIMD and bank instructions of drills (chapters 11 and 12). -/

namespace Sys2Proof.Machine

/-- QARITH (R392). -/
def execQarith (stack drill : Nat) (w : BitVec 26) (s : State) : Host.Outcome State Fault Refusal :=
  .next { s with mod := qarithRun s.mod stack drill w }

/-- QFUNC (R392). -/
def execQfunc (stack drill : Nat) (w : BitVec 26) (s : State) : Host.Outcome State Fault Refusal :=
  .next { s with mod := qfuncRun s.mod stack drill w }

/-- QCMP (R392). -/
def execQcmp (stack drill : Nat) (w : BitVec 26) (s : State) : Host.Outcome State Fault Refusal :=
  .next { s with mod := qcmpRun s.mod stack drill w }

/-- QRED (R392). -/
def execQred (stack drill : Nat) (w : BitVec 26) (s : State) : Host.Outcome State Fault Refusal :=
  .next { s with mod := qredRun s.mod stack drill w }

/-- QCVT (R392). -/
def execQcvt (stack drill : Nat) (w : SkewWord) (s : State) : Host.Outcome State Fault Refusal :=
  .next { s with mod := qcvtRun s.mod stack drill w.w w.skew }

/-- QMOV (R392). -/
def execQmov (stack drill : Nat) (w : BitVec 26) (s : State) : Host.Outcome State Fault Refusal :=
  .next { s with mod := qmovRun s.mod stack drill w }

/-- BLD (R392). -/
def execBld (stack drill : Nat) (w : BitVec 26) (ecc : Ecc) (s : State) : Host.Outcome State Fault Refusal :=
  .next { s with mod := bldRun s.mod stack drill w ecc }

/-- BST (R392). -/
def execBst (stack drill : Nat) (w : BitVec 26) (s : State) : Host.Outcome State Fault Refusal :=
  .next { s with mod := bstRun s.mod stack drill w }

/-- BSTW (R362). -/
def execBstw (stack drill : Nat) (w : BitVec 26) (ecc : Ecc) (s : State) : Host.Outcome State Fault Refusal :=
  .next { s with mod := bstwRun s.mod stack drill w ecc }

/-- QLD (R392). -/
def execQld (stack drill : Nat) (w : BitVec 26) (s : State) : Host.Outcome State Fault Refusal :=
  .next { s with mod := qldRun s.mod stack drill w }

/-- QST (R392). -/
def execQst (stack drill : Nat) (w : BitVec 26) (s : State) : Host.Outcome State Fault Refusal :=
  .next { s with mod := qstRun s.mod stack drill w }

/-- QTBL (R373). -/
def execQtbl (stack drill : Nat) (w : BitVec 26) (s : State) : Host.Outcome State Fault Refusal :=
  .next { s with mod := qtblRun s.mod stack drill w }

/-- LINS (R393). -/
def execLins (stack drill : Nat) (rd rs1 rs2 : BitVec 5) (funct : BitVec 11) (s : State) : Host.Outcome State Fault Refusal :=
  .next { s with mod := linsRun s.mod stack drill rd rs1 rs2 funct }

end Sys2Proof.Machine
end

