-- ==== Sys2Proof/Machine/CmdReg.lean ====
section
/-! DEFINITION. Registers with behaviour of their own (chapters 22 and 17). -/

namespace Sys2Proof.Machine

/-- WLK_CFG_WRITE (R158). -/
def execWlkCfgWrite (die inst : Nat) (v : Word) (s : State) : Host.Outcome State Fault Refusal :=
  .next { s with mod := wlkWrite s.mod die inst v }

/-- REGISTER_WRITE (R10). -/
def execRegisterWrite (off : BitVec 28) (v : Word) (s : State) : Host.Outcome State Fault Refusal :=
  .next { s with mod := regWrite s.mod off.toNat v }

/-- RC_READ (R9). -/
def execRcRead (ask : RegAsk) (s : State) : Host.Outcome State Fault Refusal :=
  .next { s with mod := (regRead s.mod ask.who ask.off.toNat).2 }

/-- LO_READ (R633). -/
def execLoRead (ask : RegAsk) (s : State) : Host.Outcome State Fault Refusal :=
  .next { s with mod := (regRead s.mod ask.who ask.off.toNat).2 }

/-- BLK_ERR_LOG_LO_READ (R628). -/
def execBlkErrLogLoRead (ask : LogAsk) (s : State) : Host.Outcome State Fault Refusal :=
  .next { s with mod := latchErr s.mod ask.who ask.page }

/-- BLK_EVT_PEND_WRITE (R624). -/
def execBlkEvtPendWrite (p : Page) (en : Bool) (v : Word) (s : State) : Host.Outcome State Fault Refusal :=
  .next { s with mod := evtWrite s.mod p en v }

/-- BLOCK_EVENT_RISE (R623). -/
def execBlockEventRise (p : Page) (s : State) : Host.Outcome State Fault Refusal := .next { s with mod := sampleEvt s.mod p }

/-- TCK_RESET (R522). -/
def execTckReset (code : Byte) (s : State) : Host.Outcome State Fault Refusal :=
  .next { s with mod := Machine.tckReset s.mod code.toNat }

/-- LDG_REPLAY_ACK (R528). -/
def execLdgReplayAck (_v : Word) (s : State) : Host.Outcome State Fault Refusal := .next { s with mod := replayAck s.mod }

end Sys2Proof.Machine
end

