-- ==== Sys2Proof/Machine/CmdReset.lean ====
section
/-! DEFINITION. Resets, bring-up and the supply (chapters 17, 20 and 21). -/

namespace Sys2Proof.Machine

/-- REFERENCE_LOSS (R507). -/
def execReferenceLoss (s : State) : Host.Outcome State Fault Refusal := .next { s with mod := referenceLossOp s.mod }

/-- REFERENCE_RETURN (R507). -/
def execReferenceReturn (s : State) : Host.Outcome State Fault Refusal := .next { s with mod := referenceReturnOp s.mod }

/-- RESET_N (R639). -/
def execResetN (lowTicks : Nat) (s : State) : Host.Outcome State Fault Refusal :=
  .next { s with mod := resetNOp s.mod lowTicks }

/-- RESET_N_RELEASE (R639). -/
def execResetNRelease (s : State) : Host.Outcome State Fault Refusal := .next { s with mod := Machine.resetNRelease s.mod }

/-- MAIN_EN_FALL (R607). -/
def execMainEnFall (s : State) : Host.Outcome State Fault Refusal := .next { s with mod := mainEnFallOp s.mod }

/-- STANDBY_POWER (R597). -/
def execStandbyPower (s : State) : Host.Outcome State Fault Refusal := .next { s with mod := standbyPowerOp s.mod }

/-- STANDBY_LOSS (R597). -/
def execStandbyLoss (s : State) : Host.Outcome State Fault Refusal := .next { s with mod := standbyLossOp s.mod }

/-- POWER_ON (R603). -/
def execPowerOn (mv inlet : Nat) (s : State) : Host.Outcome State Fault Refusal :=
  .next { s with mod := powerOnOp s.mod mv inlet }

/-- RAIL_FAILURE (R604). -/
def execRailFailure (rail : Nat) (s : State) : Host.Outcome State Fault Refusal :=
  .next { s with mod := railFailureOp s.mod rail }

/-- RAIL_SEQUENCE_RETRY (R604). -/
def execRailSequenceRetry (s : State) : Host.Outcome State Fault Refusal := .next { s with mod := railRetryOp s.mod }

/-- AUTO_RESTART (R608). -/
def execAutoRestart (s : State) : Host.Outcome State Fault Refusal := .next { s with mod := autoRestartOp s.mod }

/-- DEVICE_RESET (R523). -/
def execDeviceReset (cause : Nat) (s : State) : Host.Outcome State Fault Refusal :=
  .next { s with mod := resetBegin s.mod cause 1 }

/-- QUIESCE_END (R523). -/
def execQuiesceEnd (s : State) : Host.Outcome State Fault Refusal := .next { s with mod := quiesceEndOp s.mod }

/-- BOOT_CHAIN (R579). -/
def execBootChain (boot : Boot) (s : State) : Host.Outcome State Fault Refusal :=
  .next { s with mod := bootChainOp s.mod boot }

/-- BENCH_LOAD (R431). -/
def execBenchLoad (s : State) : Host.Outcome State Fault Refusal :=
  .next { s with mod := benchLoadOp s.mod s.mod.sys.found.training s.mod.sys.found.lost }

/-- REPLAY (R524). -/
def execReplay (s : State) : Host.Outcome State Fault Refusal :=
  .next { s with mod := replayOp s.mod s.mod.sys.found.copies }

/-- READY (R528). -/
def execReady (s : State) : Host.Outcome State Fault Refusal := .next { s with mod := readyOp s.mod }

/-- TRIAL_BOOT_TIMEOUT (R584). -/
def execTrialBootTimeout (s : State) : Host.Outcome State Fault Refusal := .next { s with mod := trialTimeoutOp s.mod }

end Sys2Proof.Machine
end

