-- ==== Sys2Proof/Machine/CmdSafety.lean ====
section
/-! DEFINITION. Safety: trips, sensors, current limits and the mirror (chapter 19). -/

namespace Sys2Proof.Machine

/-- MIRROR_UNCORRECTABLE (R567). -/
def execMirrorUncorrectable (s : State) : Host.Outcome State Fault Refusal := .next { s with mod := mirrorErrorOp s.mod }

/-- MIRROR_REBUILD_END (R567). -/
def execMirrorRebuildEnd (ok : Bool) (s : State) : Host.Outcome State Fault Refusal :=
  .next { s with mod := mirrorBuiltOp s.mod ok }

/-- SEAM_REPLAY (R630). -/
def execSeamReplay (seam : Nat) (replays : Nat) (s : State) : Host.Outcome State Fault Refusal :=
  .next { s with mod := seamReplayOp s.mod seam replays }

/-- SENSOR_SAMPLE (R554). -/
def execSensorSample (x : Sample) (s : State) : Host.Outcome State Fault Refusal :=
  .next { s with mod := sensorSampleOp s.mod x }

/-- SENSOR_FAIL (R558). -/
def execSensorFail (sensor : Nat) (s : State) : Host.Outcome State Fault Refusal :=
  .next { s with mod := sensorFailOp s.mod sensor }

/-- SAFETY_TRIP (R556). -/
def execSafetyTrip (cause index : Nat) (s : State) : Host.Outcome State Fault Refusal :=
  .next { s with mod := safetyStop s.mod cause index }

/-- ANALOG_TRIP (R555). -/
def execAnalogTrip (sensor : Nat) (s : State) : Host.Outcome State Fault Refusal :=
  .next { s with mod := analogTripOp s.mod sensor }

/-- ANALOG_TRIP_DELAY (R555). -/
def execAnalogTripDelay (s : State) : Host.Outcome State Fault Refusal := .next { s with mod := analogDelayOp s.mod }

/-- MC_LOCKSTEP_MISMATCH (R559). -/
def execMcLockstepMismatch (s : State) : Host.Outcome State Fault Refusal := .next { s with mod := mcMismatchOp s.mod }

/-- MC_RESTART_END (R559). -/
def execMcRestartEnd (s : State) : Host.Outcome State Fault Refusal := .next { s with mod := mcRestartOp s.mod }

/-- RAIL_CURRENT_LIMIT (R560). -/
def execRailCurrentLimit (rail : Nat) (s : State) : Host.Outcome State Fault Refusal :=
  .next { s with mod := railLimitOp s.mod rail }

/-- INPUT_CURRENT_LIMIT (R561). -/
def execInputCurrentLimit (s : State) : Host.Outcome State Fault Refusal := .next { s with mod := inputLimitOp s.mod }

end Sys2Proof.Machine
end

