-- ==== Sys2Proof/Machine/CmdScalar.lean ====
section
/-! DEFINITION. Scalar instructions of faces and drills (chapter 12, Table IS-3 and Table IS-4). -/

namespace Sys2Proof.Machine

/-- An op code that faces and drills number differently (Tables IS-3 and IS-5). -/
def coreOp (c : Core) (face drill : Nat) : Nat :=
  match c with
  | .face _ => face
  | .drill _ _ => drill

/-- ALU (R382). -/
def execAlu (c : Core) (rd rs1 rs2 : BitVec 5) (funct : BitVec 11) (s : State) : Host.Outcome State Fault Refusal :=
  .next { s with mod := aluRun s.mod c rd rs1 rs2 funct }

/-- ADDI (R382). -/
def execAddi (c : Core) (rd rs1 : BitVec 5) (imm : BitVec 16) (s : State) : Host.Outcome State Fault Refusal :=
  .next { s with mod := addiRun s.mod c rd rs1 imm }

/-- ANDI (R382). -/
def execAndi (c : Core) (rd rs1 : BitVec 5) (imm : BitVec 16) (s : State) : Host.Outcome State Fault Refusal :=
  .next { s with mod := andiRun s.mod c rd rs1 imm }

/-- ORI (R382). -/
def execOri (c : Core) (rd rs1 : BitVec 5) (imm : BitVec 16) (s : State) : Host.Outcome State Fault Refusal :=
  .next { s with mod := oriRun s.mod c rd rs1 imm }

/-- XORI (R382). -/
def execXori (c : Core) (rd rs1 : BitVec 5) (imm : BitVec 16) (s : State) : Host.Outcome State Fault Refusal :=
  .next { s with mod := xoriRun s.mod c rd rs1 imm }

/-- LUI (R382). -/
def execLui (c : Core) (rd rs1 : BitVec 5) (imm : BitVec 16) (s : State) : Host.Outcome State Fault Refusal :=
  .next { s with mod := luiRun s.mod c rd rs1 imm }

/-- SHI (R382). -/
def execShi (c : Core) (rd rs1 : BitVec 5) (imm : BitVec 16) (s : State) : Host.Outcome State Fault Refusal :=
  .next { s with mod := shiRun s.mod c rd rs1 imm }

/-- LD (R384). -/
def execLd (face : Nat) (rd rs1 : BitVec 5) (imm : BitVec 16) (s : State) : Host.Outcome State Fault Refusal :=
  .next { s with mod := loadRun s.mod (.face face) (encI 0x08 rd rs1 imm) rd rs1 imm 8 false }

/-- LW (R384). -/
def execLw (c : Core) (rd rs1 : BitVec 5) (imm : BitVec 16) (s : State) : Host.Outcome State Fault Refusal :=
  .next { s with mod := loadRun s.mod c (encI (coreOp c 0x09 0x08) rd rs1 imm) rd rs1 imm 4 true }

/-- SD (R384). -/
def execSd (face : Nat) (rd rs1 : BitVec 5) (imm : BitVec 16) (s : State) : Host.Outcome State Fault Refusal :=
  .next { s with mod := storeRun s.mod (.face face) (encI 0x0a rd rs1 imm) rd rs1 imm 8 }

/-- SW (R384). -/
def execSw (c : Core) (rd rs1 : BitVec 5) (imm : BitVec 16) (s : State) : Host.Outcome State Fault Refusal :=
  .next { s with mod := storeRun s.mod c (encI 0x0b rd rs1 imm) rd rs1 imm 4 }

/-- LH (R391). -/
def execLh (stack drill : Nat) (rd rs1 : BitVec 5) (imm : BitVec 16) (s : State) : Host.Outcome State Fault Refusal :=
  .next { s with mod := loadRun s.mod (.drill stack drill) (encI 0x09 rd rs1 imm) rd rs1 imm 2 true }

/-- LBU (R391). -/
def execLbu (stack drill : Nat) (rd rs1 : BitVec 5) (imm : BitVec 16) (s : State) : Host.Outcome State Fault Refusal :=
  .next { s with mod := loadRun s.mod (.drill stack drill) (encI 0x0a rd rs1 imm) rd rs1 imm 1 false }

/-- SH (R391). -/
def execSh (stack drill : Nat) (rd rs1 : BitVec 5) (imm : BitVec 16) (s : State) : Host.Outcome State Fault Refusal :=
  .next { s with mod := storeRun s.mod (.drill stack drill) (encI 0x0c rd rs1 imm) rd rs1 imm 2 }

/-- SB (R391). -/
def execSb (stack drill : Nat) (rd rs1 : BitVec 5) (imm : BitVec 16) (s : State) : Host.Outcome State Fault Refusal :=
  .next { s with mod := storeRun s.mod (.drill stack drill) (encI 0x0d rd rs1 imm) rd rs1 imm 1 }

/-- BEQ (R383). -/
def execBeq (c : Core) (rs1 rs2 : BitVec 5) (off : BitVec 16) (s : State) : Host.Outcome State Fault Refusal :=
  .next { s with mod := branchRun s.mod c 0x10 rs1 rs2 off takeEq }

/-- BNE (R383). -/
def execBne (c : Core) (rs1 rs2 : BitVec 5) (off : BitVec 16) (s : State) : Host.Outcome State Fault Refusal :=
  .next { s with mod := branchRun s.mod c 0x11 rs1 rs2 off takeNe }

/-- BLT (R383). -/
def execBlt (c : Core) (rs1 rs2 : BitVec 5) (off : BitVec 16) (s : State) : Host.Outcome State Fault Refusal :=
  .next { s with mod := branchRun s.mod c 0x12 rs1 rs2 off takeLt }

/-- BGE (R383). -/
def execBge (c : Core) (rs1 rs2 : BitVec 5) (off : BitVec 16) (s : State) : Host.Outcome State Fault Refusal :=
  .next { s with mod := branchRun s.mod c 0x13 rs1 rs2 off takeGe }

/-- BLTU (R383). -/
def execBltu (c : Core) (rs1 rs2 : BitVec 5) (off : BitVec 16) (s : State) : Host.Outcome State Fault Refusal :=
  .next { s with mod := branchRun s.mod c 0x14 rs1 rs2 off takeLtu }

/-- BGEU (R383). -/
def execBgeu (c : Core) (rs1 rs2 : BitVec 5) (off : BitVec 16) (s : State) : Host.Outcome State Fault Refusal :=
  .next { s with mod := branchRun s.mod c 0x15 rs1 rs2 off takeGeu }

/-- JAL (R383). -/
def execJal (c : Core) (off : BitVec 26) (s : State) : Host.Outcome State Fault Refusal :=
  .next { s with mod := jalRun s.mod c off }

/-- JALR (R383). -/
def execJalr (c : Core) (rd rs1 : BitVec 5) (imm : BitVec 16) (s : State) : Host.Outcome State Fault Refusal :=
  .next { s with mod := jalrRun s.mod c rd rs1 imm }

/-- EXIT (R386). -/
def execExit (c : Core) (rd rs1 : BitVec 5) (s : State) : Host.Outcome State Fault Refusal :=
  .next { s with mod := exitRun s.mod c rd rs1 }

/-- STEP (R386). -/
def execStep (face : Nat) (rd rs1 : BitVec 5) (s : State) : Host.Outcome State Fault Refusal :=
  .next { s with mod := syncRun s.mod face rd rs1 true }

/-- BARRIER (R386). -/
def execBarrier (face : Nat) (rd rs1 : BitVec 5) (s : State) : Host.Outcome State Fault Refusal :=
  .next { s with mod := syncRun s.mod face rd rs1 false }

/-- CSRR (R385). -/
def execCsrr (c : Core) (rd rs1 : BitVec 5) (n : BitVec 8) (s : State) : Host.Outcome State Fault Refusal :=
  .next { s with mod := csrrRun s.mod c rd rs1 n }

/-- SETB (R391). -/
def execSetb (stack drill : Nat) (rd rs1 : BitVec 5) (k : BitVec 4) (s : State) : Host.Outcome State Fault Refusal :=
  .next { s with mod := setbRun s.mod stack drill rd rs1 k }

end Sys2Proof.Machine
end

