-- ==== Sys2Proof/Machine/CmdSearch.lean ====
section
/-! DEFINITION. The work of searches (chapters 05, 06 and 11). -/

namespace Sys2Proof.Machine

/-- WALK_START (R133). -/
def execWalkStart (cmd : Nat) (seg : SegRead) (s : State) : Host.Outcome State Fault Refusal :=
  .next { s with mod := walkStartOp s.mod cmd seg.seg seg.hurt }

/-- WALK_EXPANSION (R141). -/
def execWalkExpansion (cmd seg : Nat) (hurt : Option (Nat × Nat)) (s : State) : Host.Outcome State Fault Refusal :=
  .next { s with mod := Machine.walkExpansion s.mod cmd seg hurt }

/-- WALK_END (R142). -/
def execWalkEnd (cmd seg : Nat) (s : State) : Host.Outcome State Fault Refusal :=
  .next { s with mod := Machine.walkEnd s.mod cmd seg }

/-- STOCKPILE_SCAN_PASS (R369). -/
def execStockpileScanPass (coll stack drill : Nat) (slice : List Nat) (last hurt : Bool) (s : State) : Host.Outcome State Fault Refusal :=
  .next { s with mod := stockScan s.mod coll stack drill slice last hurt }

/-- FLAT_SCAN_PASS (R372). -/
def execFlatScanPass (coll seg : Nat) (hurt : Bool) (s : State) : Host.Outcome State Fault Refusal :=
  .next { s with mod := flatScan s.mod coll seg hurt }

/-- RIDDLE_MERGE (R183). -/
def execRiddleMerge (cmd : Nat) (s : State) : Host.Outcome State Fault Refusal :=
  .next { s with mod := Machine.riddleMerge s.mod cmd }

/-- RERANK (R152). -/
def execRerank (cmd idx : Nat) (ecc : Ecc) (s : State) : Host.Outcome State Fault Refusal :=
  .next { s with mod := rerankOp s.mod cmd idx ecc }

/-- EMISSION (R184). -/
def execEmission (cmd : Nat) (s : State) : Host.Outcome State Fault Refusal := .next { s with mod := emissionOp s.mod cmd }

/-- SEARCH_STOP_TICK (R154). -/
def execSearchStopTick (cmd : Nat) (s : State) : Host.Outcome State Fault Refusal :=
  .next { s with mod := searchStop s.mod cmd }

/-- STOP_TICK (R86). -/
def execStopTick (cmd : Nat) (s : State) : Host.Outcome State Fault Refusal := .next { s with mod := stopTickOp s.mod cmd }

end Sys2Proof.Machine
end

