-- ==== Sys2Proof/Machine/CmdSec.lean ====
section
/-! DEFINITION. Security and life cycle, and the test modes (chapters 20 and 21). -/

namespace Sys2Proof.Machine

/-- SEC_LOCK (R595). -/
def execSecLock (v : Word) (s : State) : Host.Outcome State Fault Refusal := .next { s with mod := secLockOp s.mod v.toNat }

/-- SEC_NONCE0_READ (R591). -/
def execSecNonce0Read (s : State) : Host.Outcome State Fault Refusal := .next { s with mod := newNonce s.mod }

/-- TOKEN_SUBMIT (R591). -/
def execTokenSubmit (sigOk : List Bool) (s : State) : Host.Outcome State Fault Refusal :=
  .next { s with mod := tokenSubmitOp s.mod sigOk }

/-- LIFE_CYCLE_RESET (R592). -/
def execLifeCycleReset (media : BitVec 512) (s : State) : Host.Outcome State Fault Refusal :=
  .next { s with mod := lifeCycleOp s.mod media }

/-- TRANSITION_RESUME (R593). -/
def execTransitionResume (s : State) : Host.Outcome State Fault Refusal :=
  .next { s with mod := Machine.transitionResume s.mod }

/-- SPDM_GO (R586). -/
def execSpdmGo (s : State) : Host.Outcome State Fault Refusal := .next { s with mod := spdmGoOp s.mod }

/-- TEST_MODE_START (R610). -/
def execTestModeStart (mode target : Nat) (s : State) : Host.Outcome State Fault Refusal :=
  .next { s with mod := testStartOp s.mod mode target false }

/-- TEST_MODE_END (R610). -/
def execTestModeEnd (pass : Bool) (res : TestResult) (s : State) : Host.Outcome State Fault Refusal :=
  .next { s with mod := testEndOp s.mod pass res.detail.toNat res.found }

/-- DEBUG_UART_ACCESS (R594). -/
def execDebugUartAccess (r : DbgReq) (s : State) : Host.Outcome State Fault Refusal :=
  .next { s with mod := debugOp s.mod r }

end Sys2Proof.Machine
end

