-- ==== Sys2Proof/Machine/CmdSpdm.lean ====
section
/-! DEFINITION. SPDM on both transports (chapter 20). -/

namespace Sys2Proof.Machine

/-- GET_VERSION (R586). -/
def execGetVersion (tr : Transport) (s : State) : Host.Outcome State Fault Refusal :=
  .next { s with mod := getVersionOp s.mod tr }

/-- GET_CAPABILITIES (R586). -/
def execGetCapabilities (tr : Transport) (s : State) : Host.Outcome State Fault Refusal :=
  .next { s with mod := getCapsOp s.mod tr }

/-- NEGOTIATE_ALGORITHMS (R586). -/
def execNegotiateAlgorithms (tr : Transport) (asym hash : Word) (s : State) : Host.Outcome State Fault Refusal :=
  .next { s with mod := negotiateOp s.mod tr asym.toNat hash.toNat }

/-- GET_DIGESTS (R586). -/
def execGetDigests (tr : Transport) (s : State) : Host.Outcome State Fault Refusal :=
  .next { s with mod := getDigestsOp s.mod tr }

/-- GET_CERTIFICATE (R585). -/
def execGetCertificate (tr : Transport) (slot off len : Nat) (s : State) : Host.Outcome State Fault Refusal :=
  .next { s with mod := getCertOp s.mod tr slot off len }

/-- CHALLENGE (R586). -/
def execChallenge (tr : Transport) (slot : Nat) (nonce : BitVec 256) (s : State) : Host.Outcome State Fault Refusal :=
  .next { s with mod := challengeOp s.mod tr slot nonce }

/-- GET_MEASUREMENTS (R587). -/
def execGetMeasurements (tr : Transport) (idx : Nat) (nonce : BitVec 256) (s : State) : Host.Outcome State Fault Refusal :=
  .next { s with mod := getMeasOp s.mod tr idx nonce }

end Sys2Proof.Machine
end

