-- ==== Sys2Proof/Machine/CmdTensor.lean ====
section
/-! DEFINITION. Tensor and transfer instructions of faces (chapters 08, 09 and 12). -/

namespace Sys2Proof.Machine

/-- TDESC (R390). -/
def execTdesc (face : Nat) (w : BitVec 26) (s : State) : Host.Outcome State Fault Refusal :=
  .next { s with mod := tdescRun s.mod face w }

/-- TORG (R390). -/
def execTorg (face : Nat) (w : BitVec 26) (s : State) : Host.Outcome State Fault Refusal :=
  .next { s with mod := torgRun s.mod face w }

/-- TMMA (R270). -/
def execTmma (face : Nat) (w : BitVec 26) (s : State) : Host.Outcome State Fault Refusal :=
  .next { s with mod := tmmaRun s.mod face w }

/-- TDRAIN (R280). -/
def execTdrain (face : Nat) (w : SkewWord) (s : State) : Host.Outcome State Fault Refusal :=
  .next { s with mod := tdrainRun s.mod face w.w w.skew }

/-- DRAIN_END (R275). -/
def execDrainEnd (face : Nat) (set : Bool) (s : State) : Host.Outcome State Fault Refusal :=
  .next { s with mod := drainEndOp s.mod face set }

/-- TPART (R278). -/
def execTpart (face : Nat) (w : PartWord) (s : State) : Host.Outcome State Fault Refusal :=
  .next { s with mod := tpartRun s.mod face w.w w.owner }

/-- TFIN (R281). -/
def execTfin (face : Nat) (w : SkewWord) (s : State) : Host.Outcome State Fault Refusal :=
  .next { s with mod := tfinRun s.mod face w.w w.skew }

/-- TSTAT (R274). -/
def execTstat (face : Nat) (w : BitVec 26) (s : State) : Host.Outcome State Fault Refusal :=
  .next { s with mod := tstatRun s.mod face w }

/-- XFER (R390). -/
def execXfer (face : Nat) (rd rs1 rs2 : BitVec 5) (funct : BitVec 11) (s : State) : Host.Outcome State Fault Refusal :=
  .next { s with mod := xferRun s.mod face rd rs1 rs2 funct }

/-- XWAIT (R390). -/
def execXwait (face : Nat) (w : BitVec 26) (s : State) : Host.Outcome State Fault Refusal :=
  .next { s with mod := xwaitRun s.mod face w }

end Sys2Proof.Machine
end

