-- ==== Sys2Proof/Machine/CmdTime.lean ====
section
/-! DEFINITION. Time: the tick, the window and the slots that a tick runs (chapters 17 and 18). -/

namespace Sys2Proof.Machine

/-- TICK (R503); the host's demands that waited go on where they can (R460). -/
def execTick (s : State) : Host.Outcome State Fault Refusal := .next { s with mod := retryDemands (tickOp s.mod) }

/-- WINDOW_START (R536). -/
def execWindowStart (w : WinMeas) (s : State) : Host.Outcome State Fault Refusal :=
  .next { s with mod := Machine.windowStart s.mod w }

/-- GENERATION_PUBLISH (R258). -/
def execGenerationPublish (s : State) : Host.Outcome State Fault Refusal := .next { s with mod := publishSlot s.mod }

/-- THERMAL_EVENT (R534). -/
def execThermalEvent (sensor : Nat) (celsius : Int) (s : State) : Host.Outcome State Fault Refusal :=
  .next { s with mod := Machine.thermalEvent s.mod sensor celsius }

/-- THERMAL_MODEL_REFINE (R533). -/
def execThermalModelRefine (resp : List Nat) (s : State) : Host.Outcome State Fault Refusal :=
  .next { s with mod := { s.mod with pwr := { s.mod.pwr with resp := resp } } }

/-- PEAK_STALL (R540). -/
def execPeakStall (s : State) : Host.Outcome State Fault Refusal := .next { s with mod := Machine.peakStall s.mod }

/-- SUPPLY_EVENT (R543). -/
def execSupplyEvent (mv : Nat) (s : State) : Host.Outcome State Fault Refusal :=
  .next { s with mod := Machine.supplyEvent s.mod mv }

/-- SUPPLY_DIP_END (R544). -/
def execSupplyDipEnd (s : State) : Host.Outcome State Fault Refusal := .next { s with mod := dipEnd s.mod }

/-- DIP_TIMEOUT (R545). -/
def execDipTimeout (s : State) : Host.Outcome State Fault Refusal := .next { s with mod := Machine.dipTimeout s.mod }

/-- SUPPLY_BELOW_40V (R546). -/
def execSupplyBelow40v (mv : Nat) (s : State) : Host.Outcome State Fault Refusal :=
  .next { s with mod := below40Op s.mod mv }

/-- INPUT_OVERVOLTAGE (R644). -/
def execInputOvervoltage (mv : Nat) (s : State) : Host.Outcome State Fault Refusal :=
  .next { s with mod := overvoltageOp s.mod mv }

/-- INPUT_SWITCH_CLOSE (R644). -/
def execInputSwitchClose (mv : Nat) (s : State) : Host.Outcome State Fault Refusal :=
  .next { s with mod := switchCloseOp s.mod mv }

end Sys2Proof.Machine
end

