-- ==== Sys2Proof/Machine/DamageOps.lean ====
section
/-! DEFINITION. Uncorrectable words of the ledger ring and of the work records (R569), and the reports of faults that a unit
makes (R508, slot 5). -/

namespace Sys2Proof.Machine

/-! The ledger ring. -/

/-- Records with bytes in the ring that are not programmed, in lsn order. -/
def ringRecs (l : Ledger) : List LRec := l.records.filter fun r => r.prog.isNone && 0 < r.entered

/-- The first record from which a word of the ring is damaged: the ring's words are counted from its oldest record that is not
programmed (DESIGN CHOICE: R569 does not say how they are numbered). -/
def damagedLsn (l : Ledger) (w : Nat) : Option Nat :=
  ((ringRecs l).foldl (fun (a : Nat × Option Nat) r =>
    (a.1 + r.entered, a.2.orElse fun _ => if 8 * w < a.1 + r.entered then some r.lsn else none)) (0, none)).2

/-- An instance that a failed mutation had tombstoned is live again; a pending publish reserves its tag again. -/
def revive (cid : Nat) (m : Mod) (i : Inst) : Mod :=
  match shardOf m cid with
  | none => m
  | some c =>
    let c' : Coll := match i with
      | .ord s n => if (s, n) ∈ c.reborn then { c with reborn := c.reborn.filter (· != (s, n)) } else { c with tombs := c.tombs.filter (· != (s, n)) }
      | .stock p => { c with tombStock := c.tombStock.filter (· != p) }
      | .remote _ => c
    let held := (pendPub m c).any fun p => !p.step && decide (i ∈ p.superseded)
    setColl { m with mirror := m.mirror.erase (mirrorTag cid i), resv := m.resv + bN held } c'

/-- A publish that will not become durable: its pages, its tags, and the tombstones of ordinals that only it gave. -/
def dropPublish (m : Mod) (c : Coll) : Mod :=
  let m := dropPub m c
  let tags := c.reborn.map fun x => mirrorTag c.id (.ord x.1 x.2)
  setColl { m with mirror := m.mirror.filter fun t => !(t ∈ tags) } { c with pub := none, reborn := [] }

/-- What a record's command did at its admission, undone. -/
def undoRec (m : Mod) (r : LRec) : Mod :=
  match r.redo with
  | .insert es old _ => old.reverse.foldl (revive r.coll) (dropBatch m r.coll (es.map (·.pos)))
  | .delete _ old _ => old.reverse.foldl (revive r.coll) m
  | .publish _ => match shardOf m r.coll with
    | some c => if c.pub = some r.lsn then dropPublish m c else m
    | none => m
  | .create _ => { m with colls := m.colls.filter fun c => c.id != r.coll || c.made }
  | .drop => match shardOf m r.coll with
    | some c => setColl m { c with dropping := false }
    | none => m
  | .model id v _ =>
    let gone := m.pkgs.filter fun p => p.id = id && p.ver = v
    let left := m.pkgs.filter fun p => !(p.id = id && p.ver = v)
    let pgs := (gone.flatMap fun p => p.pages ++ p.wpage.map (·.2)).eraseDups.filter fun pg =>
      !(left.any fun p => decide (pg ∈ p.pages) || p.wpage.any fun x => x.2 = pg)
    pgs.foldl releasePage { m with pkgs := left }
  | _ => m

/-- The ledger without the records from an lsn on that are not programmed. -/
def cutLedger (l : Ledger) (lsn : Nat) : Ledger :=
  let left := l.records.filter fun r => r.prog.isSome || r.lsn < lsn
  let kept (n : Nat) : Bool := left.any fun r => r.prog.isNone && r.group.any fun k => n ≤ k
  let count (n : Nat) : Nat := (left.filter fun r => r.group = some n).length
  let gone := ((l.groups.filter fun g => !g.prog && !kept g.no) ++ (l.openG.toList.filter fun g => !kept g.no)).map (·.no)
  { l with
    records := left
    groups := (l.groups.filter fun g => !(g.no ∈ gone)).map fun g => if g.prog then g else { g with count := count g.no }
    openG := (l.openG.filter fun g => kept g.no).map fun g => { g with count := count g.no }
    nextG := gone.foldl min l.nextG }

/-- A record of no command, written again. -/
def addAgain (m : Mod) (r : LRec) : Mod := (addRecord m none r.coll r.opcode r.redo).1

/-- An uncorrectable word of the ring: every mutation from the damaged record onward completes with MEDIA_ERROR, and its positions
stay unused (R230, R569). Records of no command are written again. -/
def ringDamage (m : Mod) (w : Nat) : Mod :=
  match damagedLsn m.ledger w with
  | none => m
  | some lsn =>
    let bad := m.ledger.records.filter fun r => r.prog.isNone && lsn ≤ r.lsn
    let m := bad.reverse.foldl undoRec m
    let m := { m with ledger := cutLedger m.ledger lsn }
    let m := (bad.filterMap (·.cmd)).eraseDups.foldl (fun m id => match cmdOf m id with
      | some c => workEnd m c 0x30 0xF8
      | none => m) m
    (bad.filter fun r => r.cmd.isNone).foldl addAgain m

/-! Work records. -/

/-- Whether a command's mutation record is programmed. -/
def recordDone (m : Mod) (c : Cmd) : Bool := (c.lsn.bind (recordOf m)).any fun r => r.prog.isSome

/-- An uncorrectable word of a work record: the command completes with UNIT_FAULT, or with DONE where its record is programmed. -/
def workDamage (m : Mod) (cid : Nat) : Mod :=
  match cmdOf m cid with
  | none => m
  | some c => if recordDone m c then finish m c { status := 0, count := c.count, info := c.info } else workEnd m c 0x32 0xF4

/-- UNIT_FAULT_REPORT. Code 0x02 of the ledger names a word of its ring, and of the control core pairs the work record of a command;
any other report is a fault of its unit. -/
def faultReport (m : Mod) (u : UnitId) (code detail : Nat) : Mod :=
  if code = 0x02 && u = .page ldgP then ringDamage (logErr m ldgP 0x02 detail) detail
  else if code = 0x02 && u = .page ctlP then workDamage (logErr m ctlP 0x02 detail) detail
  else unitFaultOp m u code detail

end Sys2Proof.Machine
end

