-- ==== Sys2Proof/Machine/CmdUnit.lean ====
section
/-! DEFINITION. Service states, restarts and faults of units (chapters 17, 19 and 22). -/

namespace Sys2Proof.Machine

/-- RESTART (R619). -/
def execRestart (p : Page) (s : State) : Host.Outcome State Fault Refusal := .next { s with mod := restartOp s.mod p }

/-- OUT_OF_SERVICE (R571). -/
def execOutOfService (p : Page) (s : State) : Host.Outcome State Fault Refusal := .next { s with mod := outOp s.mod p }

/-- RETURN (R573). -/
def execReturnUnit (p : Page) (s : State) : Host.Outcome State Fault Refusal := .next { s with mod := returnOp s.mod p }

/-- SELF_TEST_END (R573). -/
def execSelfTestEnd (u : UnitId) (pass : Bool) (step : Nat) (s : State) : Host.Outcome State Fault Refusal :=
  .next { s with mod := selfTestOp s.mod u pass step }

/-- RAMP_WINDOW (R574). -/
def execRampWindow (u : UnitId) (s : State) : Host.Outcome State Fault Refusal := .next { s with mod := rampOp s.mod u }

/-- UNIT_FAULT_REPORT (R519). -/
def execUnitFaultReport (u : UnitId) (code : BitVec 5) (detail : BitVec 41) (s : State) : Host.Outcome State Fault Refusal :=
  .next { s with mod := faultReport s.mod u code.toNat detail.toNat }

/-- BLOCK_RESTART_END (R519). -/
def execBlockRestartEnd (u : UnitId) (s : State) : Host.Outcome State Fault Refusal :=
  .next { s with mod := restartEnd s.mod u }

/-- UNIT_WATCHDOG (R553). -/
def execUnitWatchdog (u : UnitId) (s : State) : Host.Outcome State Fault Refusal :=
  .next { s with mod := unitWatchdogOp s.mod u }

/-- LOCKSTEP_MISMATCH (R562). -/
def execLockstepMismatch (pair : Nat) (s : State) : Host.Outcome State Fault Refusal :=
  .next { s with mod := lockstepOp s.mod pair }

end Sys2Proof.Machine
end

