-- ==== Sys2Proof/Machine/CmdVector.lean ====
section
/-! DEFINITION. Vector instructions of faces (chapter 12). -/

namespace Sys2Proof.Machine

/-- VECTOR_ARITHMETIC (R387). -/
def execVectorArithmetic (face : Nat) (vd vs1 vs2 : BitVec 5) (mask : BitVec 3) (funct : BitVec 8) (s : State) : Host.Outcome State Fault Refusal :=
  .next { s with mod := vecArith s.mod face vd vs1 vs2 mask funct }

/-- VECTOR_FUNCTION (R387). -/
def execVectorFunction (face : Nat) (vd vs1 vs2 : BitVec 5) (mask : BitVec 3) (funct : BitVec 8) (s : State) : Host.Outcome State Fault Refusal :=
  .next { s with mod := vecFunct s.mod face vd vs1 vs2 mask funct }

/-- VECTOR_COMPARE (R387). -/
def execVectorCompare (face : Nat) (vd vs1 vs2 : BitVec 5) (mask : BitVec 3) (funct : BitVec 8) (s : State) : Host.Outcome State Fault Refusal :=
  .next { s with mod := vecCompare s.mod face vd vs1 vs2 mask funct }

/-- VECTOR_REDUCE (R388). -/
def execVectorReduce (face : Nat) (vd vs1 vs2 : BitVec 5) (mask : BitVec 3) (funct : BitVec 8) (s : State) : Host.Outcome State Fault Refusal :=
  .next { s with mod := vecReduce s.mod face vd vs1 vs2 mask funct }

/-- VECTOR_CONVERT (R389). -/
def execVectorConvert (face : Nat) (vd vs1 vs2 : BitVec 5) (mask : BitVec 3) (funct : SkewFunct) (s : State) : Host.Outcome State Fault Refusal :=
  .next { s with mod := vecConvertChecked s.mod face vd vs1 vs2 mask funct.funct funct.skew }

/-- VECTOR_MOVE (R387). -/
def execVectorMove (face : Nat) (vd vs1 vs2 : BitVec 5) (mask : BitVec 3) (funct : BitVec 8) (s : State) : Host.Outcome State Fault Refusal :=
  .next { s with mod := vecMove s.mod face vd vs1 vs2 mask funct }

/-- VLD (R387). -/
def execVld (face : Nat) (vd rs1 : BitVec 5) (imm : BitVec 16) (s : State) : Host.Outcome State Fault Refusal :=
  .next { s with mod := vldRun s.mod face vd rs1 imm }

/-- VST (R387). -/
def execVst (face : Nat) (vd rs1 : BitVec 5) (imm : BitVec 16) (s : State) : Host.Outcome State Fault Refusal :=
  .next { s with mod := vstRun s.mod face vd rs1 imm }

end Sys2Proof.Machine
end

