-- ==== Sys2Proof/Machine/Dispatch.lean ====
section
/-! DEFINITION. The dispatch of commands to their meanings: one arm for each row of the table. -/

namespace Sys2Proof.Machine

/-- The effect of one command on everything but the queue. -/
def exec (i : Instr) (s : State) : Host.Outcome State Fault Refusal :=
  match i with
  | .tick => Sys2Proof.Machine.execTick s
  | .windowStart w => Sys2Proof.Machine.execWindowStart w s
  | .entryFetch chute entry pl => Sys2Proof.Machine.execEntryFetch chute entry pl s
  | .admission => Sys2Proof.Machine.execAdmission s
  | .search chute => Sys2Proof.Machine.execSearch chute s
  | .fetch part => Sys2Proof.Machine.execFetch part s
  | .insert chute => Sys2Proof.Machine.execInsert chute s
  | .upsert chute => Sys2Proof.Machine.execUpsert chute s
  | .delete chute => Sys2Proof.Machine.execDelete chute s
  | .embed part => Sys2Proof.Machine.execEmbed part s
  | .embedInsert part => Sys2Proof.Machine.execEmbedInsert part s
  | .mergeStockpile part => Sys2Proof.Machine.execMergeStockpile part s
  | .buildSegment part => Sys2Proof.Machine.execBuildSegment part s
  | .publish chute => Sys2Proof.Machine.execPublish chute s
  | .retireGen chute => Sys2Proof.Machine.execRetireGen chute s
  | .tableLookup part => Sys2Proof.Machine.execTableLookup part s
  | .tableUpdate part => Sys2Proof.Machine.execTableUpdate part s
  | .runFace part => Sys2Proof.Machine.execRunFace part s
  | .runDrill part => Sys2Proof.Machine.execRunDrill part s
  | .haulHint part => Sys2Proof.Machine.execHaulHint part s
  | .flush part => Sys2Proof.Machine.execFlush part s
  | .abort chute => Sys2Proof.Machine.execAbort chute s
  | .fence part => Sys2Proof.Machine.execFence part s
  | .collectionCreate chute => Sys2Proof.Machine.execCollectionCreate chute s
  | .collectionDrop chute => Sys2Proof.Machine.execCollectionDrop chute s
  | .schemaSet chute => Sys2Proof.Machine.execSchemaSet chute s
  | .modelLoad part => Sys2Proof.Machine.execModelLoad part s
  | .generationPublish => Sys2Proof.Machine.execGenerationPublish s
  | .mergeStep coll => Sys2Proof.Machine.execMergeStep coll s
  | .automaticMerge coll => Sys2Proof.Machine.execAutomaticMerge coll s
  | .buildCheckpoint cmd => Sys2Proof.Machine.execBuildCheckpoint cmd s
  | .histogramRecountEnd coll => Sys2Proof.Machine.execHistogramRecountEnd coll s
  | .generationFreed coll gen => Sys2Proof.Machine.execGenerationFreed coll gen s
  | .holdExpiry coll gen => Sys2Proof.Machine.execHoldExpiry coll gen s
  | .walkStart cmd seg => Sys2Proof.Machine.execWalkStart cmd seg s
  | .walkExpansion cmd seg hurt => Sys2Proof.Machine.execWalkExpansion cmd seg hurt s
  | .walkEnd cmd seg => Sys2Proof.Machine.execWalkEnd cmd seg s
  | .stockpileScanPass coll stack drill slice last hurt => Sys2Proof.Machine.execStockpileScanPass coll stack drill slice last hurt s
  | .flatScanPass coll seg hurt => Sys2Proof.Machine.execFlatScanPass coll seg hurt s
  | .riddleMerge cmd => Sys2Proof.Machine.execRiddleMerge cmd s
  | .rerank cmd idx ecc => Sys2Proof.Machine.execRerank cmd idx ecc s
  | .emission cmd => Sys2Proof.Machine.execEmission cmd s
  | .searchStopTick cmd => Sys2Proof.Machine.execSearchStopTick cmd s
  | .stopTick cmd => Sys2Proof.Machine.execStopTick cmd s
  | .documentEnterSlot cmd doc => Sys2Proof.Machine.execDocumentEnterSlot cmd doc s
  | .chunkEncode slot => Sys2Proof.Machine.execChunkEncode slot s
  | .attentionPartial slot stack drill layer spot q hit => Sys2Proof.Machine.execAttentionPartial slot stack drill layer spot q hit s
  | .partialFold slot layer spot own => Sys2Proof.Machine.execPartialFold slot layer spot own s
  | .documentComplete slot => Sys2Proof.Machine.execDocumentComplete slot s
  | .recordEnterRing => Sys2Proof.Machine.execRecordEnterRing s
  | .groupClose => Sys2Proof.Machine.execGroupClose s
  | .groupProgrammed group => Sys2Proof.Machine.execGroupProgrammed group s
  | .groupProgramFail group => Sys2Proof.Machine.execGroupProgramFail group s
  | .imageRefresh coll => Sys2Proof.Machine.execImageRefresh coll s
  | .writeBufferProgram unit => Sys2Proof.Machine.execWriteBufferProgram unit s
  | .sectorAdd stack ecc => Sys2Proof.Machine.execSectorAdd stack ecc s
  | .ksplitAccept face desc contributor tile => Sys2Proof.Machine.execKsplitAccept face desc contributor tile s
  | .haulCopy page ecc => Sys2Proof.Machine.execHaulCopy page ecc s
  | .haulSwitch page => Sys2Proof.Machine.execHaulSwitch page s
  | .haulRelease page => Sys2Proof.Machine.execHaulRelease page s
  | .demotion => Sys2Proof.Machine.execDemotion s
  | .hotPageWindow die => Sys2Proof.Machine.execHotPageWindow die s
  | .tablePageSwitch page => Sys2Proof.Machine.execTablePageSwitch page s
  | .pageRebuild page src => Sys2Proof.Machine.execPageRebuild page src s
  | .rowRemap stack pc bank row => Sys2Proof.Machine.execRowRemap stack pc bank row s
  | .frameRetirement stack frame => Sys2Proof.Machine.execFrameRetirement stack frame s
  | .patrolScrub stack frame granule ecc => Sys2Proof.Machine.execPatrolScrub stack frame granule ecc s
  | .flashBlockFailure block => Sys2Proof.Machine.execFlashBlockFailure block s
  | .flashChannelFailure ch => Sys2Proof.Machine.execFlashChannelFailure ch s
  | .chuSqDb chute index => Sys2Proof.Machine.execChuSqDb chute index s
  | .chuCqDb chute index => Sys2Proof.Machine.execChuCqDb chute index s
  | .create chute => Sys2Proof.Machine.execCreate chute s
  | .destroy chute => Sys2Proof.Machine.execDestroy chute s
  | .query chute => Sys2Proof.Machine.execQuery chute s
  | .chuteDrained chute => Sys2Proof.Machine.execChuteDrained chute s
  | .coalescingTimer chute => Sys2Proof.Machine.execCoalescingTimer chute s
  | .chuWeightsWrite reserve v => Sys2Proof.Machine.execChuWeightsWrite reserve v s
  | .wlkCfgWrite die inst v => Sys2Proof.Machine.execWlkCfgWrite die inst v s
  | .registerWrite off v => Sys2Proof.Machine.execRegisterWrite off v s
  | .rcRead ask => Sys2Proof.Machine.execRcRead ask s
  | .loRead ask => Sys2Proof.Machine.execLoRead ask s
  | .blkErrLogLoRead ask => Sys2Proof.Machine.execBlkErrLogLoRead ask s
  | .blkEvtPendWrite p en v => Sys2Proof.Machine.execBlkEvtPendWrite p en v s
  | .blockEventRise p => Sys2Proof.Machine.execBlockEventRise p s
  | .tckReset code => Sys2Proof.Machine.execTckReset code s
  | .ldgReplayAck v => Sys2Proof.Machine.execLdgReplayAck v s
  | .restart p => Sys2Proof.Machine.execRestart p s
  | .outOfService p => Sys2Proof.Machine.execOutOfService p s
  | .returnUnit p => Sys2Proof.Machine.execReturnUnit p s
  | .selfTestEnd u pass step => Sys2Proof.Machine.execSelfTestEnd u pass step s
  | .rampWindow u => Sys2Proof.Machine.execRampWindow u s
  | .hauFree idx => Sys2Proof.Machine.execHauFree idx s
  | .drlHostResWrite stack v => Sys2Proof.Machine.execDrlHostResWrite stack v s
  | .drlLoadCmd stack window v => Sys2Proof.Machine.execDrlLoadCmd stack window v s
  | .drlCmdDb stack drill seq mailbox => Sys2Proof.Machine.execDrlCmdDb stack drill seq mailbox s
  | .drillRunStart stack drill => Sys2Proof.Machine.execDrillRunStart stack drill s
  | .drillRunEnd stack drill => Sys2Proof.Machine.execDrillRunEnd stack drill s
  | .drillWatchdog stack drill => Sys2Proof.Machine.execDrillWatchdog stack drill s
  | .memoryWipe => Sys2Proof.Machine.execMemoryWipe s
  | .secLock v => Sys2Proof.Machine.execSecLock v s
  | .secNonce0Read => Sys2Proof.Machine.execSecNonce0Read s
  | .tokenSubmit sigOk => Sys2Proof.Machine.execTokenSubmit sigOk s
  | .lifeCycleReset media => Sys2Proof.Machine.execLifeCycleReset media s
  | .spdmGo => Sys2Proof.Machine.execSpdmGo s
  | .fabMbxSend => Sys2Proof.Machine.execFabMbxSend s
  | .fabMbxPop v => Sys2Proof.Machine.execFabMbxPop v s
  | .portRetrain port => Sys2Proof.Machine.execPortRetrain port s
  | .portEnableWrite port en => Sys2Proof.Machine.execPortEnableWrite port en s
  | .retrain => Sys2Proof.Machine.execRetrain s
  | .testModeStart mode target => Sys2Proof.Machine.execTestModeStart mode target s
  | .testModeEnd pass res => Sys2Proof.Machine.execTestModeEnd pass res s
  | .flitReceived l corrected fecOk flit => Sys2Proof.Machine.execFlitReceived l corrected fecOk flit s
  | .retryRequest l seq => Sys2Proof.Machine.execRetryRequest l seq s
  | .acknowledgement l seq => Sys2Proof.Machine.execAcknowledgement l seq s
  | .creditReturn l lane slots => Sys2Proof.Machine.execCreditReturn l lane slots s
  | .linkDetect l lanes => Sys2Proof.Machine.execLinkDetect l lanes s
  | .linkEqualised l => Sys2Proof.Machine.execLinkEqualised l s
  | .linkActive l lanes => Sys2Proof.Machine.execLinkActive l lanes s
  | .recovery l protocol op tag => Sys2Proof.Machine.execRecovery l protocol op tag s
  | .recoveryFail l => Sys2Proof.Machine.execRecoveryFail l s
  | .linkLossTimeout => Sys2Proof.Machine.execLinkLossTimeout s
  | .load tag addr size ecc => Sys2Proof.Machine.execLoad tag addr size ecc s
  | .loadLease tag addr want ecc => Sys2Proof.Machine.execLoadLease tag addr want ecc s
  | .store tag addr data => Sys2Proof.Machine.execStore tag addr data s
  | .storeMask tag addr en line ecc => Sys2Proof.Machine.execStoreMask tag addr en line ecc s
  | .regRd tag off width => Sys2Proof.Machine.execRegRd tag off width s
  | .regWr tag off width v => Sys2Proof.Machine.execRegWr tag off width v s
  | .hostInv tag addr => Sys2Proof.Machine.execHostInv tag addr s
  | .surrender addr dirty => Sys2Proof.Machine.execSurrender addr dirty s
  | .recallAck addr keep dirty => Sys2Proof.Machine.execRecallAck addr keep dirty s
  | .recallTimeout addr => Sys2Proof.Machine.execRecallTimeout addr s
  | .hostAck tag status => Sys2Proof.Machine.execHostAck tag status s
  | .hostReply tag status data => Sys2Proof.Machine.execHostReply tag status data s
  | .discover port f => Sys2Proof.Machine.execDiscover port f s
  | .discoverRsp port f => Sys2Proof.Machine.execDiscoverRsp port f s
  | .assign port f => Sys2Proof.Machine.execAssign port f s
  | .assignRsp port f => Sys2Proof.Machine.execAssignRsp port f s
  | .routeWr f => Sys2Proof.Machine.execRouteWr f s
  | .routeCommit f => Sys2Proof.Machine.execRouteCommit f s
  | .mgtRsp f => Sys2Proof.Machine.execMgtRsp f s
  | .notice f => Sys2Proof.Machine.execNotice f s
  | .hello port node assigned nport => Sys2Proof.Machine.execHello port node assigned nport s
  | .portLoss port => Sys2Proof.Machine.execPortLoss port s
  | .frameForward port f => Sys2Proof.Machine.execFrameForward port f s
  | .frameDeliver port f => Sys2Proof.Machine.execFrameDeliver port f s
  | .stallDrop port => Sys2Proof.Machine.execStallDrop port s
  | .unreach f => Sys2Proof.Machine.execUnreach f s
  | .isolationTimeout => Sys2Proof.Machine.execIsolationTimeout s
  | .srchReq src tag dl gen entry pl => Sys2Proof.Machine.execSrchReq src tag dl gen entry pl s
  | .srchPart cmd r => Sys2Proof.Machine.execSrchPart cmd r s
  | .ksplitPart src tag desc contributor tile => Sys2Proof.Machine.execKsplitPart src tag desc contributor tile s
  | .ksplitAck src tag dup => Sys2Proof.Machine.execKsplitAck src tag dup s
  | .ksplitResend tag => Sys2Proof.Machine.execKsplitResend tag s
  | .unitFaultReport u code detail => Sys2Proof.Machine.execUnitFaultReport u code detail s
  | .blockRestartEnd u => Sys2Proof.Machine.execBlockRestartEnd u s
  | .unitWatchdog u => Sys2Proof.Machine.execUnitWatchdog u s
  | .lockstepMismatch pair => Sys2Proof.Machine.execLockstepMismatch pair s
  | .mirrorUncorrectable => Sys2Proof.Machine.execMirrorUncorrectable s
  | .mirrorRebuildEnd ok => Sys2Proof.Machine.execMirrorRebuildEnd ok s
  | .seamReplay seam replays => Sys2Proof.Machine.execSeamReplay seam replays s
  | .sensorSample x => Sys2Proof.Machine.execSensorSample x s
  | .sensorFail sensor => Sys2Proof.Machine.execSensorFail sensor s
  | .safetyTrip cause index => Sys2Proof.Machine.execSafetyTrip cause index s
  | .analogTrip sensor => Sys2Proof.Machine.execAnalogTrip sensor s
  | .analogTripDelay => Sys2Proof.Machine.execAnalogTripDelay s
  | .mcLockstepMismatch => Sys2Proof.Machine.execMcLockstepMismatch s
  | .mcRestartEnd => Sys2Proof.Machine.execMcRestartEnd s
  | .railCurrentLimit rail => Sys2Proof.Machine.execRailCurrentLimit rail s
  | .inputCurrentLimit => Sys2Proof.Machine.execInputCurrentLimit s
  | .thermalEvent sensor celsius => Sys2Proof.Machine.execThermalEvent sensor celsius s
  | .thermalModelRefine resp => Sys2Proof.Machine.execThermalModelRefine resp s
  | .peakStall => Sys2Proof.Machine.execPeakStall s
  | .supplyEvent mv => Sys2Proof.Machine.execSupplyEvent mv s
  | .supplyDipEnd => Sys2Proof.Machine.execSupplyDipEnd s
  | .dipTimeout => Sys2Proof.Machine.execDipTimeout s
  | .supplyBelow40v mv => Sys2Proof.Machine.execSupplyBelow40v mv s
  | .inputOvervoltage mv => Sys2Proof.Machine.execInputOvervoltage mv s
  | .inputSwitchClose mv => Sys2Proof.Machine.execInputSwitchClose mv s
  | .referenceLoss => Sys2Proof.Machine.execReferenceLoss s
  | .resetN lowTicks => Sys2Proof.Machine.execResetN lowTicks s
  | .resetNRelease => Sys2Proof.Machine.execResetNRelease s
  | .mainEnFall => Sys2Proof.Machine.execMainEnFall s
  | .standbyPower => Sys2Proof.Machine.execStandbyPower s
  | .powerOn mv inlet => Sys2Proof.Machine.execPowerOn mv inlet s
  | .railFailure rail => Sys2Proof.Machine.execRailFailure rail s
  | .autoRestart => Sys2Proof.Machine.execAutoRestart s
  | .deviceReset cause => Sys2Proof.Machine.execDeviceReset cause s
  | .quiesceEnd => Sys2Proof.Machine.execQuiesceEnd s
  | .bootChain boot => Sys2Proof.Machine.execBootChain boot s
  | .benchLoad => Sys2Proof.Machine.execBenchLoad s
  | .replay => Sys2Proof.Machine.execReplay s
  | .ready => Sys2Proof.Machine.execReady s
  | .transitionResume => Sys2Proof.Machine.execTransitionResume s
  | .alu c rd rs1 rs2 funct => Sys2Proof.Machine.execAlu c rd rs1 rs2 funct s
  | .addi c rd rs1 imm => Sys2Proof.Machine.execAddi c rd rs1 imm s
  | .andi c rd rs1 imm => Sys2Proof.Machine.execAndi c rd rs1 imm s
  | .ori c rd rs1 imm => Sys2Proof.Machine.execOri c rd rs1 imm s
  | .xori c rd rs1 imm => Sys2Proof.Machine.execXori c rd rs1 imm s
  | .lui c rd rs1 imm => Sys2Proof.Machine.execLui c rd rs1 imm s
  | .shi c rd rs1 imm => Sys2Proof.Machine.execShi c rd rs1 imm s
  | .ld face rd rs1 imm => Sys2Proof.Machine.execLd face rd rs1 imm s
  | .lw c rd rs1 imm => Sys2Proof.Machine.execLw c rd rs1 imm s
  | .sd face rd rs1 imm => Sys2Proof.Machine.execSd face rd rs1 imm s
  | .sw c rd rs1 imm => Sys2Proof.Machine.execSw c rd rs1 imm s
  | .lh stack drill rd rs1 imm => Sys2Proof.Machine.execLh stack drill rd rs1 imm s
  | .lbu stack drill rd rs1 imm => Sys2Proof.Machine.execLbu stack drill rd rs1 imm s
  | .sh stack drill rd rs1 imm => Sys2Proof.Machine.execSh stack drill rd rs1 imm s
  | .sb stack drill rd rs1 imm => Sys2Proof.Machine.execSb stack drill rd rs1 imm s
  | .beq c rs1 rs2 off => Sys2Proof.Machine.execBeq c rs1 rs2 off s
  | .bne c rs1 rs2 off => Sys2Proof.Machine.execBne c rs1 rs2 off s
  | .blt c rs1 rs2 off => Sys2Proof.Machine.execBlt c rs1 rs2 off s
  | .bge c rs1 rs2 off => Sys2Proof.Machine.execBge c rs1 rs2 off s
  | .bltu c rs1 rs2 off => Sys2Proof.Machine.execBltu c rs1 rs2 off s
  | .bgeu c rs1 rs2 off => Sys2Proof.Machine.execBgeu c rs1 rs2 off s
  | .jal c off => Sys2Proof.Machine.execJal c off s
  | .jalr c rd rs1 imm => Sys2Proof.Machine.execJalr c rd rs1 imm s
  | .exit c rd rs1 => Sys2Proof.Machine.execExit c rd rs1 s
  | .step face rd rs1 => Sys2Proof.Machine.execStep face rd rs1 s
  | .barrier face rd rs1 => Sys2Proof.Machine.execBarrier face rd rs1 s
  | .csrr c rd rs1 n => Sys2Proof.Machine.execCsrr c rd rs1 n s
  | .setb stack drill rd rs1 k => Sys2Proof.Machine.execSetb stack drill rd rs1 k s
  | .vectorArithmetic face vd vs1 vs2 mask funct => Sys2Proof.Machine.execVectorArithmetic face vd vs1 vs2 mask funct s
  | .vectorFunction face vd vs1 vs2 mask funct => Sys2Proof.Machine.execVectorFunction face vd vs1 vs2 mask funct s
  | .vectorCompare face vd vs1 vs2 mask funct => Sys2Proof.Machine.execVectorCompare face vd vs1 vs2 mask funct s
  | .vectorReduce face vd vs1 vs2 mask funct => Sys2Proof.Machine.execVectorReduce face vd vs1 vs2 mask funct s
  | .vectorConvert face vd vs1 vs2 mask funct => Sys2Proof.Machine.execVectorConvert face vd vs1 vs2 mask funct s
  | .vectorMove face vd vs1 vs2 mask funct => Sys2Proof.Machine.execVectorMove face vd vs1 vs2 mask funct s
  | .vld face vd rs1 imm => Sys2Proof.Machine.execVld face vd rs1 imm s
  | .vst face vd rs1 imm => Sys2Proof.Machine.execVst face vd rs1 imm s
  | .tdesc face w => Sys2Proof.Machine.execTdesc face w s
  | .torg face w => Sys2Proof.Machine.execTorg face w s
  | .tmma face w => Sys2Proof.Machine.execTmma face w s
  | .tdrain face w => Sys2Proof.Machine.execTdrain face w s
  | .drainEnd face set => Sys2Proof.Machine.execDrainEnd face set s
  | .tpart face w => Sys2Proof.Machine.execTpart face w s
  | .tfin face w => Sys2Proof.Machine.execTfin face w s
  | .tstat face w => Sys2Proof.Machine.execTstat face w s
  | .xfer face rd rs1 rs2 funct => Sys2Proof.Machine.execXfer face rd rs1 rs2 funct s
  | .xwait face w => Sys2Proof.Machine.execXwait face w s
  | .qarith stack drill w => Sys2Proof.Machine.execQarith stack drill w s
  | .qfunc stack drill w => Sys2Proof.Machine.execQfunc stack drill w s
  | .qcmp stack drill w => Sys2Proof.Machine.execQcmp stack drill w s
  | .qred stack drill w => Sys2Proof.Machine.execQred stack drill w s
  | .qcvt stack drill w => Sys2Proof.Machine.execQcvt stack drill w s
  | .qmov stack drill w => Sys2Proof.Machine.execQmov stack drill w s
  | .bld stack drill w ecc => Sys2Proof.Machine.execBld stack drill w ecc s
  | .bst stack drill w => Sys2Proof.Machine.execBst stack drill w s
  | .bstw stack drill w ecc => Sys2Proof.Machine.execBstw stack drill w ecc s
  | .qld stack drill w => Sys2Proof.Machine.execQld stack drill w s
  | .qst stack drill w => Sys2Proof.Machine.execQst stack drill w s
  | .qtbl stack drill w => Sys2Proof.Machine.execQtbl stack drill w s
  | .lins stack drill rd rs1 rs2 funct => Sys2Proof.Machine.execLins stack drill rd rs1 rs2 funct s
  | .entdaa addr => Sys2Proof.Machine.execEntdaa addr s
  | .setnewda addr => Sys2Proof.Machine.execSetnewda addr s
  | .rstdaa => Sys2Proof.Machine.execRstdaa s
  | .getpid => Sys2Proof.Machine.execGetpid s
  | .getbcr => Sys2Proof.Machine.execGetbcr s
  | .getdcr => Sys2Proof.Machine.execGetdcr s
  | .getstatus => Sys2Proof.Machine.execGetstatus s
  | .getmwl => Sys2Proof.Machine.execGetmwl s
  | .setmwl len => Sys2Proof.Machine.execSetmwl len s
  | .getmrl => Sys2Proof.Machine.execGetmrl s
  | .setmrl len => Sys2Proof.Machine.execSetmrl len s
  | .enec events => Sys2Proof.Machine.execEnec events s
  | .disec events => Sys2Proof.Machine.execDisec events s
  | .rstact action => Sys2Proof.Machine.execRstact action s
  | .setEndpointId eid => Sys2Proof.Machine.execSetEndpointId eid s
  | .getEndpointId => Sys2Proof.Machine.execGetEndpointId s
  | .getEndpointUuid => Sys2Proof.Machine.execGetEndpointUuid s
  | .getMctpVersionSupport => Sys2Proof.Machine.execGetMctpVersionSupport s
  | .getMessageTypeSupport => Sys2Proof.Machine.execGetMessageTypeSupport s
  | .getTid => Sys2Proof.Machine.execGetTid s
  | .setTid tid => Sys2Proof.Machine.execSetTid tid s
  | .getPldmVersion ty => Sys2Proof.Machine.execGetPldmVersion ty s
  | .getPldmTypes => Sys2Proof.Machine.execGetPldmTypes s
  | .getPldmCommands ty => Sys2Proof.Machine.execGetPldmCommands ty s
  | .getPdrRepositoryInfo => Sys2Proof.Machine.execGetPdrRepositoryInfo s
  | .getPdr id => Sys2Proof.Machine.execGetPdr id s
  | .getSensorReading id => Sys2Proof.Machine.execGetSensorReading id s
  | .getStateSensorReadings id => Sys2Proof.Machine.execGetStateSensorReadings id s
  | .setNumericEffecterValue id v => Sys2Proof.Machine.execSetNumericEffecterValue id v s
  | .mainPowerEffecter v => Sys2Proof.Machine.execMainPowerEffecter v s
  | .resetEffecter v => Sys2Proof.Machine.execResetEffecter v s
  | .testModeEffecter mode target => Sys2Proof.Machine.execTestModeEffecter mode target s
  | .setEventReceiver eid => Sys2Proof.Machine.execSetEventReceiver eid s
  | .getFruRecordTableMetadata => Sys2Proof.Machine.execGetFruRecordTableMetadata s
  | .getFruRecordTable => Sys2Proof.Machine.execGetFruRecordTable s
  | .queryDeviceIdentifiers => Sys2Proof.Machine.execQueryDeviceIdentifiers s
  | .getFirmwareParameters => Sys2Proof.Machine.execGetFirmwareParameters s
  | .requestUpdate => Sys2Proof.Machine.execRequestUpdate s
  | .passComponentTable comps => Sys2Proof.Machine.execPassComponentTable comps s
  | .updateComponent kind => Sys2Proof.Machine.execUpdateComponent kind s
  | .requestFirmwareData img => Sys2Proof.Machine.execRequestFirmwareData img s
  | .verifyComplete => Sys2Proof.Machine.execVerifyComplete s
  | .activateFirmware => Sys2Proof.Machine.execActivateFirmware s
  | .getStatus => Sys2Proof.Machine.execGetStatus s
  | .cancelUpdateComponent => Sys2Proof.Machine.execCancelUpdateComponent s
  | .cancelUpdate => Sys2Proof.Machine.execCancelUpdate s
  | .getVersion tr => Sys2Proof.Machine.execGetVersion tr s
  | .getCapabilities tr => Sys2Proof.Machine.execGetCapabilities tr s
  | .negotiateAlgorithms tr asym hash => Sys2Proof.Machine.execNegotiateAlgorithms tr asym hash s
  | .getDigests tr => Sys2Proof.Machine.execGetDigests tr s
  | .getCertificate tr slot off len => Sys2Proof.Machine.execGetCertificate tr slot off len s
  | .challenge tr slot nonce => Sys2Proof.Machine.execChallenge tr slot nonce s
  | .getMeasurements tr idx nonce => Sys2Proof.Machine.execGetMeasurements tr idx nonce s
  | .referenceReturn => Sys2Proof.Machine.execReferenceReturn s
  | .standbyLoss => Sys2Proof.Machine.execStandbyLoss s
  | .trialBootTimeout => Sys2Proof.Machine.execTrialBootTimeout s
  | .railSequenceRetry => Sys2Proof.Machine.execRailSequenceRetry s
  | .debugUartAccess r => Sys2Proof.Machine.execDebugUartAccess r s

end Sys2Proof.Machine
end

