-- ==== Sys2Proof/Safety.lean ====
section
/-! DEFINITION. What claims call a sound state: the canonical form of memory, and the ranges that the fuses and the
security store keep. -/

namespace Sys2Proof.Machine

/-- A memory in its one form: addresses strictly rising, no entry equal to what an unlisted address reads as. -/
def Memory.wf (l : List Host.Cell) : Bool := mapWf cellDflt l

/-- Command `c` completes at `s`: a next state, its queue as before, of whose module `P` holds. -/
def Gives (c : Instr) (s : State) (P : Mod → Prop) : Prop := ∃ t, exec c s = .next t ∧ t.pending = s.pending ∧ P t.mod

/-! Heads and records, as claims name them. -/

/-- Admission is open and has a decision left in the tick, and it admits the head of a chute, which carries `op`, at effort level
`l`; `c` is the head with its inputs as they are read now (R74, R101, R661). -/
def Admits (m : Mod) (op chute : Nat) (c : Cmd) (l : Nat) : Prop :=
  admissionOpen m = true ∧ (∃ h, chuteHead m chute = some h ∧ mayDecide m h = true ∧ c = withInputs m h) ∧ opcodeOf c.entry = op ∧
  waitsFor m c = false ∧ inputLeased m c.entry c.pl = false ∧ headCheck m c = none ∧ timed m c = .admits l

/-- `t` holds the work record of head `c` as admitted, with what it pins (R31, R85, R86), and `P` holds of it. -/
def AdmittedAs (m t : Mod) (c : Cmd) (l : Nat) (P : Cmd → Prop) : Prop :=
  ∃ d, cmdOf t c.id = some d ∧ d.admitted = true ∧ d.entry = c.entry ∧ d.pl = c.pl ∧ d.seq = m.adm.seq ∧
  d.admTick = now m ∧ d.gen = pinGen m c.entry ∧ d.pkgVer = pinPkg m c.entry ∧ d.stop = stopTickOf m c ∧ d.level = l ∧ P d ∧
  t.adm.seq = m.adm.seq + 1

/-- Command `cid` is admitted, carries `op`, and its work record is `c`. -/
def Running (m : Mod) (cid op : Nat) (c : Cmd) : Prop := cmdOf m cid = some c ∧ c.admitted = true ∧ opcodeOf c.entry = op

/-- Every record's lsn lies below the next one, and the records stand in rising lsn order (R511). -/
def ledgerOrdered (l : Ledger) : Prop :=
  (∀ r ∈ l.records, r.lsn < l.next) ∧ l.records.Pairwise fun a b => a.lsn < b.lsn

/-- `t` holds one record more than `m`, of command `c`, with the next lsn (R511, R512). -/
def RecordWritten (m t : Mod) (c : Cmd) (coll op : Nat) (redo : Redo) : Prop :=
  t.ledger.next = m.ledger.next + 1 ∧ ∃ r ∈ t.ledger.records, r.lsn = m.ledger.next ∧ r.redo = redo ∧ r.cmd = some c.id ∧
  r.coll = coll ∧ r.opcode = op ∧ r.prog = none

/-- `t` holds one record more than `m`, of no command, with the next lsn: a stack's fault record (R414). -/
def FaultWritten (m t : Mod) (stack : Nat) (f : FaultChange) : Prop :=
  t.ledger.next = m.ledger.next + 1 ∧ ∃ r ∈ t.ledger.records, r.lsn = m.ledger.next ∧ r.redo = .fault stack f ∧ r.cmd = none

/-! Device memory as claims read it. -/

/-- Every byte of device memory reads the same. -/
def ReadsSame (m t : Mod) : Prop := ∀ a, readByte t a = readByte m a

/-- The write buffer as its writers leave it (R441): whole granules, each of a unit at most once in an entry, and no
arrival number twice. -/
def wbSound (b : List WbEnt) : Prop :=
  (b.map (·.seq)).Nodup ∧ ∀ w ∈ b, (w.gran.map (·.1)).Nodup ∧ ∀ g ∈ w.gran, g.1 < 128 ∧ g.2.length = 32

/-- The write buffer of `m` as it stands: sound, each number below the next one, and of pages in flash alone (R441, R442). -/
def wbHeld (m : Mod) : Prop :=
  wbSound m.mem.wb ∧ ∀ w ∈ m.mem.wb, w.seq < m.mem.wbSeq ∧ ∃ e, pageEnt m (w.unit / 16) = some e ∧ e.bench = 2

/-- What a move has copied and logged is its page as it reads now: for each granule, the last contents listed (R434). -/
def moveSound (m : Mod) (v : Move) : Prop :=
  (∀ g ∈ v.dest ++ v.log, g.1 < 2048 ∧ g.2.length = 32) ∧
  ∀ i, i < 2048 → ((v.dest ++ v.log).filter fun g => g.1 = i).getLast?.map (·.2) = some (readGran m (v.page * pageSize + i * 32))

/-! The cores of chapters 11 and 12, as claims name them. -/

/-- The core that an instruction of Tables IS-3 to IS-5 and IS-9 runs on, and the word that encodes it (R382, Table IS-1). -/
def coreInstr : Instr → Option (Core × Word)
  | .alu c rd a b f => some (c, encR 0x00 rd a b f)
  | .addi c rd a i => some (c, encI 0x01 rd a i)
  | .andi c rd a i => some (c, encI 0x02 rd a i)
  | .ori c rd a i => some (c, encI 0x03 rd a i)
  | .xori c rd a i => some (c, encI 0x04 rd a i)
  | .lui c rd a i => some (c, encI 0x05 rd a i)
  | .shi c rd a i => some (c, encI 0x06 rd a i)
  | .ld n rd a i => some (.face n, encI 0x08 rd a i)
  | .lw (.face n) rd a i => some (.face n, encI 0x09 rd a i)
  | .lw (.drill k n) rd a i => some (.drill k n, encI 0x08 rd a i)
  | .sd n rd a i => some (.face n, encI 0x0A rd a i)
  | .sw c rd a i => some (c, encI 0x0B rd a i)
  | .lh k n rd a i => some (.drill k n, encI 0x09 rd a i)
  | .lbu k n rd a i => some (.drill k n, encI 0x0A rd a i)
  | .sh k n rd a i => some (.drill k n, encI 0x0C rd a i)
  | .sb k n rd a i => some (.drill k n, encI 0x0D rd a i)
  | .beq c a b o => some (c, encI 0x10 a b o)
  | .bne c a b o => some (c, encI 0x11 a b o)
  | .blt c a b o => some (c, encI 0x12 a b o)
  | .bge c a b o => some (c, encI 0x13 a b o)
  | .bltu c a b o => some (c, encI 0x14 a b o)
  | .bgeu c a b o => some (c, encI 0x15 a b o)
  | .jal c o => some (c, encJ 0x18 o)
  | .jalr c rd a i => some (c, encI 0x19 rd a i)
  | .exit c rd a => some (c, encI 0x1C rd a 0x0000#16)
  | .step n rd a => some (.face n, encI 0x1C rd a 0x0001#16)
  | .barrier n rd a => some (.face n, encI 0x1C rd a 0x0002#16)
  | .csrr c rd a i => some (c, encI 0x1C rd a (BitVec.ofNat 16 (0x100 + i.toNat)))
  | .setb k n rd a i => if i.toNat < 8 then some (.drill k n, encI 0x1C rd a (BitVec.ofNat 16 (0x10 + i.toNat))) else none
  | .vectorArithmetic n d a b k f => some (.face n, encV 0x20 d a b k f)
  | .vectorFunction n d a b k f => some (.face n, encV 0x21 d a b k f)
  | .vectorCompare n d a b k f => some (.face n, encV 0x22 d a b k f)
  | .vectorReduce n d a b k f => some (.face n, encV 0x23 d a b k f)
  | .vectorConvert n d a b k f => some (.face n, encV 0x24 d a b k f.funct)
  | .vectorMove n d a b k f => some (.face n, encV 0x25 d a b k f)
  | .vld n d a i => some (.face n, encI 0x28 d a i)
  | .vst n d a i => some (.face n, encI 0x29 d a i)
  | .tdesc n w => some (.face n, encJ 0x30 w)
  | .torg n w => some (.face n, encJ 0x31 w)
  | .tmma n w => some (.face n, encJ 0x32 w)
  | .tdrain n w => some (.face n, encJ 0x33 w.w)
  | .tpart n w => some (.face n, encJ 0x34 w.w)
  | .tfin n w => some (.face n, encJ 0x35 w.w)
  | .tstat n w => some (.face n, encJ 0x36 w)
  | .xfer n rd a b f => some (.face n, encR 0x38 rd a b f)
  | .xwait n w => some (.face n, encJ 0x39 w)
  | .qarith k n w => some (.drill k n, encJ 0x20 w)
  | .qfunc k n w => some (.drill k n, encJ 0x21 w)
  | .qcmp k n w => some (.drill k n, encJ 0x22 w)
  | .qred k n w => some (.drill k n, encJ 0x23 w)
  | .qcvt k n w => some (.drill k n, encJ 0x24 w.w)
  | .qmov k n w => some (.drill k n, encJ 0x25 w)
  | .bld k n w _ => some (.drill k n, encJ 0x28 w)
  | .bst k n w => some (.drill k n, encJ 0x29 w)
  | .bstw k n w _ => some (.drill k n, encJ 0x2A w)
  | .qld k n w => some (.drill k n, encJ 0x2B w)
  | .qst k n w => some (.drill k n, encJ 0x2C w)
  | .qtbl k n w => some (.drill k n, encJ 0x2D w)
  | .lins k n rd a b f => some (.drill k n, encR 0x2E rd a b f)
  | _ => none

/-- Core `c` runs instruction `i` next: the word at its pc is the instruction's, and its fields are not reserved (R383). -/
def Issues (m : Mod) (i : Instr) (c : Core) : Prop :=
  ∃ w, coreInstr i = some (c, w) ∧ coreWord m c = some (some w) ∧ coreBad c w = false

/-- `t` is `m` but for face `n`, which is `g`. -/
def FaceBecomes (m t : Mod) (n : Nat) (g : Face) : Prop :=
  t = { m with faces := t.faces } ∧ faceOf t n = some g ∧ ∀ k, k ≠ n → faceOf t k = faceOf m k

/-- `t` is `m` but for drill `n` of stack `k`, which is `g`. -/
def DrillBecomes (m t : Mod) (k n : Nat) (g : Drill) : Prop :=
  t = { m with drills := t.drills } ∧ drillOf t k n = some g ∧ ∀ a b, (a, b) ≠ (k, n) → drillOf t a b = drillOf m a b

/-- The scalar registers of a core are 32 (Tables IS-2 and IS-8a). -/
def RegsWhole (m : Mod) : Core → Prop
  | .face n => ∀ f, faceOf m n = some f → f.x.length = 32
  | .drill k n => ∀ d, drillOf m k n = some d → d.r.length = 32

/-- An address as a core's pc holds it: 23 bits in a face, 32 in a drill. -/
def pcOf (c : Core) (p : Int) : Nat := match c with
  | .face _ => (p % 8388608).toNat
  | .drill _ _ => (p % 4294967296).toNat

/-- `t` is `m` but for core `c`, whose scalar register `rd` is `v` (register 0 is never written) and whose pc is `p`. -/
def ScalarWrites (m t : Mod) (c : Core) (rd v p : Nat) : Prop :=
  getPc t c = p ∧ (∀ k, getX t c k = if k = rd ∧ rd ≠ 0 then v % 2 ^ coreW c else getX m c k) ∧
  match c with
  | .face n => ∃ f g, faceOf m n = some f ∧ FaceBecomes m t n g ∧ g = { f with x := g.x, pc := p }
  | .drill k n => ∃ d g, drillOf m k n = some d ∧ DrillBecomes m t k n g ∧ g = { d with r := g.r, pc := p }

/-- Every memory is in its one form: the benches, flash by rising unit number, the stores of the faces and of their work records, the drills'
scratch, and the scan tables. -/
def memoriesWf (m : Mod) : Prop :=
  Memory.wf m.mem.cells = true ∧ m.mem.flash.Pairwise (fun a b => a.no < b.no) ∧ (∀ f ∈ m.faces ++ m.snaps, Memory.wf f.store = true) ∧
  (∀ d ∈ m.drills, Memory.wf d.scratch = true) ∧ ∀ e ∈ m.scanTab, Memory.wf e.2 = true

/-- The cores have the registers of Tables IS-2 and IS-8a: no face number twice, 32 scalar registers, 256 lanes and mask bits
and two accumulator sets in a face; 16 lanes and predicate bits in a drill, and 32 scalar registers while it runs. -/
def coresWhole (m : Mod) : Prop :=
  (m.faces.map (·.id)).Nodup ∧
  (∀ f ∈ m.faces ++ m.snaps, f.x.length = 32 ∧ f.acc.length = 2 ∧ (∀ e ∈ f.v, e.2.length = 256) ∧ ∀ e ∈ f.mask, e.2.length = 256) ∧
  ∀ d ∈ m.drills, (d.ready = false → d.ended = false → d.st = 3 → d.r.length = 32) ∧ (∀ e ∈ d.q, e.2.length = 16) ∧
    ∀ e ∈ d.p, e.2.length = 16

/-- What waits to reach memory is whole granules: writes held for drills and those not accepted yet (R359), the write buffer (R441), copies and logs of
moves (R434); and there are eight stacks and 32 flash channels. -/
def buffersWhole (m : Mod) : Prop :=
  wbHeld m ∧ (∀ d ∈ m.drills, ∀ h ∈ d.held, h.2.length = 32) ∧ (∀ w ∈ m.mem.stalled, w.2.length = 32) ∧
  (∀ v ∈ m.mem.moves, ∀ g ∈ v.dest ++ v.log, g.1 < 2048 ∧ g.2.length = 32) ∧ m.hbm.length = 8 ∧ m.mem.channels.length = 32

/-! The fuses and the security store (R590 to R593). -/

/-- The transitions of Table SE-8, from state to state. -/
def transitionExists (src dest : Nat) : Prop :=
  (src, dest) ∈ [(0, 1), (1, 2), (1, 3), (2, 3), (3, 2), (0, 4), (1, 4), (2, 4), (3, 4)]

/-- A transition that Table SE-8 has, into SERVICE only below its limit of 16 entries. -/
def transitionOk (k : Sec) (dest : Nat) : Prop := transitionExists k.lc dest ∧ (dest = 3 → k.service < 16)

/-- The life cycle is in a state of Table SE-7, SERVICE was entered at most 16 times, and what is pending or accepted is a
transition that exists. -/
def lifeCycleLegal (k : Sec) : Prop :=
  k.lc ≤ 4 ∧ k.service ≤ 16 ∧ (∀ d, k.pending = some d → transitionOk k d) ∧
  (∀ t, k.token = some t → transitionOk k t.2.1 ∧ t.2.2.length = 4) ∧ k.owners.length = 4

/-- What fuses allow: a revocation stays, and a count never falls. -/
def fusesAdvance (a b : Sec) : Prop := a.fuseSvn ≤ b.fuseSvn ∧ a.service ≤ b.service ∧ a.revoked ⊆ b.revoked

end Sys2Proof.Machine
end

