-- ==== Sys2Proof/Certificates/Slice0/Obligations.lean ====
section
/-! DEFINITION. The statements for the provers, each a proposition about the model that its docstring puts in words. -/

open Sys2Proof Sys2Proof.Machine

/-- For every command c, waiting commands rest and module m: a step with c in front of rest is exec of c on the state
whose queue is rest. On an empty queue a step answers the state as it is: the model's choice (log entry 1).
(95_what_each_step_holds.md) -/
def Obligations.StepRunsTheFrontCommand : Prop :=
  (∀ (c : Instr) (rest : List Instr) (m : Mod), step ⟨c :: rest, m⟩ = exec c ⟨rest, m⟩) ∧ ∀ m : Mod, step ⟨[], m⟩ = .next ⟨[], m⟩

/-- For every command c and state s, exec c s is a next state whose queue is the queue of s: no command faults and none is
refused. The model's reading (log entry 3) of R10, by which an input out of range is ignored. (R10, 00_scope.md) -/
def Obligations.NoCommandStopsTheModule : Prop :=
  ∀ (c : Instr) (s : State), ∃ t, exec c s = .next t ∧ t.pending = s.pending

/-- At State.reset: the tick is 0 with the reference present, no chute, command or collection exists, the mirror and the
ledger are empty and the next lsn is 1, the fabric address is unassigned (0xFFF in FAB_NODE and FAB_MASTER), all 3,072
drills are ready, and the registers CHU_WEIGHTS, WLK_CFG, FAC_CFG, DRL_CFG, PWR_CFG, SAF_CFG, MGT_CFG and HBM_CFG hold
their stated reset values. Rests on log entry 5 for the moment that State.reset names. (R504, 22_register_pages.md,
23_register_index.md, 17_tick_ledger_and_resets.md) -/
def Obligations.ResetLeavesTheStatedValues : Prop :=
  State.reset.pending = [] ∧ now State.reset.mod = 0 ∧ State.reset.mod.sys.refOk = true ∧
  State.reset.mod.chutes = [] ∧ State.reset.mod.cmds = [] ∧ State.reset.mod.colls = [] ∧ State.reset.mod.mirror = [] ∧
  State.reset.mod.ledger.records = [] ∧ State.reset.mod.ledger.next = 1 ∧
  State.reset.mod.fab.node = none ∧ State.reset.mod.fab.master = 0xFFF ∧
  State.reset.mod.drills.length = 3072 ∧ (State.reset.mod.drills.all fun d => d.ready) = true ∧
  State.reset.mod.faces.length = 128 ∧
  getReg State.reset.mod chuP 0x68 = 0x10408#32 ∧ getReg State.reset.mod ⟨0, .wlk, 0⟩ 0x40 = 0x1410#32 ∧
  getReg State.reset.mod (facP 0) 0x40 = 1#32 ∧ getReg State.reset.mod (drlP 0) 0xA0 = 0x140003#32 ∧
  getReg State.reset.mod pwrP 0x40 = 0x5DC1E0F#32 ∧ getReg State.reset.mod safP 0x40 = 0x30F03#32 ∧
  getReg State.reset.mod mgtP 0x44 = 0x301#32 ∧ getReg State.reset.mod ⟨0, .hbm, 0⟩ 0x40 = 0x180807#32

/-- At State.reset the life-cycle state is one of Table SE-7, SERVICE was entered at most 16 times, and nothing is pending
that Table SE-8 does not have; the ledger is in order; every memory list is in its one form; the cores have their
registers, and nothing waits to reach memory but whole granules. Each is what the invariant statements of tier 3 start
from. (R590, R581, R511, 20_security_and_lifecycle.md) -/
def Obligations.ResetMeetsEveryInvariant : Prop :=
  lifeCycleLegal State.reset.mod.sec ∧ ledgerOrdered State.reset.mod.ledger ∧ memoriesWf State.reset.mod ∧
  coresWhole State.reset.mod ∧ buffersWhole State.reset.mod

/-- For every state s whose life cycle is legal (a state of Table SE-7, at most 16 entries into SERVICE, and every pending
or accepted transition one of Table SE-8, into SERVICE only below the limit): if a step answers the next state t, the
life cycle of t is legal, and its state is that of s or the end of a transition that Table SE-8 has from there. (R589,
R590, 20_security_and_lifecycle.md) -/
def Obligations.OnlyTableTransitionsHappen : Prop :=
  ∀ s t : State, lifeCycleLegal s.mod.sec → step s = .next t →
    lifeCycleLegal t.mod.sec ∧ (t.mod.sec.lc = s.mod.sec.lc ∨ transitionExists s.mod.sec.lc t.mod.sec.lc)

/-- For every state s whose life cycle is legal and DECOMMISSIONED (4), and every number of steps n: a run of n steps that
answers t leaves t DECOMMISSIONED, since Table SE-8 has no transition from there. (R589, R590,
20_security_and_lifecycle.md) -/
def Obligations.DecommissionedIsForEver : Prop :=
  ∀ (n : Nat) (s t : State), lifeCycleLegal s.mod.sec → s.mod.sec.lc = 4 →
    Host.Core.run Sys2Proof.core n s = Host.Outcome.next t → t.mod.sec.lc = 4

/-- For every state s and its next state t: the SVN fuses and the count of SERVICE entries of t are at least those of s,
and every owner slot revoked in s is revoked in t. Fuses are one-time. (R590, R581, 20_security_and_lifecycle.md) -/
def Obligations.FusesOnlyAdvance : Prop :=
  ∀ s t : State, step s = .next t → fusesAdvance s.mod.sec t.mod.sec

/-- For every command c but LIFE_CYCLE_RESET and TRANSITION_RESUME and every state s: exec c s answers a next state with
the life-cycle state and the count of SERVICE entries of s. (R590, R581, 20_security_and_lifecycle.md) -/
def Obligations.LifeCycleMovesByTransitionAlone : Prop :=
  ∀ (c : Instr) (s : State), (∀ k, c ≠ .lifeCycleReset k) → c ≠ .transitionResume →
    Gives c s fun t => t.sec.lc = s.mod.sec.lc ∧ t.sec.service = s.mod.sec.service

/-- The window (R536): the grant and the burst allowance that the last window's measurement leaves, the credit from them,
shares renewed, and what software wrote to the power settings and weights in force. (R79, R95, R535, R536, R539) -/
def Obligations.WindowStartSettlesTheLastWindow : Prop :=
  ∀ (s : State) (w : WinMeas), Gives (.windowStart w) s fun t =>
    t.pwr.grant = grantOf t ∧
    t.pwr.credit = (t.pwr.grant : Int) - (settle s.mod.pwr.grant w.input s.mod.pwr.burst s.mod.pwr.drawn).2 ∧
    t.pwr.burst = (settle s.mod.pwr.grant w.input s.mod.pwr.burst s.mod.pwr.drawn).1 ∧
    t.pwr.cfg = getReg s.mod pwrP 0x40 ∧ t.pwr.therm = getReg s.mod pwrP 0x44 ∧
    t.adm.weights = getReg s.mod chuP 0x68 ∧ t.adm.reserve = getReg s.mod chuP 0x6C ∧
    t.adm.granted = [0, 0, 0, 0] ∧ t.adm.bulkE = 0 ∧ t.pwr.peak = 100 ∧ t.pwr.stall = false ∧ t.pwr.short = false ∧
    (∀ p, p < 16 → t.adm.rate.getD p 0 = (7 * s.mod.adm.rate.getD p 0 + w.done.getD p 0) / 8) ∧
    t = { s.mod with pwr := t.pwr, adm := t.adm }

/-- A thermal prediction, the refined model, and the current-limit stall: what each sets, and nothing beside it. Supply
dips and the input (R543 to R546, R644): a dip begins and keeps its lowest input, it ends in the tick after its
hundredth sample above 45 V in a row, a fall in that tick begins a new one, a dip that lasts requests a reset of cause
5, an input below 40 V one of cause 4, and the switch opens above 60 V and closes below 58 V. (R533, R534, R536, R540,
R543, R544, R545, R546, R644) -/
def Obligations.HeatPeakAndSupplyCommandsSetTheirState : Prop :=
  ∀ s : State,
    (∀ i c, 46 ≤ i → Gives (.thermalEvent i c) s fun t => t = s.mod) ∧
    (∀ i c, i < 46 → s.mod.pwr.hot = false →
      hottest s.mod (s.mod.pwr.pred.set i (c * 16)) ≤ thermTarget s.mod.pwr.therm * 16 →
      Gives (.thermalEvent i c) s fun t => t = { s.mod with pwr := { s.mod.pwr with pred := s.mod.pwr.pred.set i (c * 16) } }) ∧
    (∀ i c, i < 46 → s.mod.pwr.hot = false →
      thermTarget s.mod.pwr.therm * 16 < hottest s.mod (s.mod.pwr.pred.set i (c * 16)) →
      Gives (.thermalEvent i c) s fun t => t.pwr.hot = true ∧ t.pwr.grant = grantOf t ∧
        t.pwr.credit - t.pwr.grant = s.mod.pwr.credit - s.mod.pwr.grant ∧ t = { s.mod with pwr := t.pwr }) ∧
    (∀ r, Gives (.thermalModelRefine r) s fun t => t = { s.mod with pwr := { s.mod.pwr with resp := r } }) ∧
    (50 < s.mod.pwr.peak → Gives .peakStall s fun t => 50 ≤ t.pwr.peak ∧ t.pwr.peak < s.mod.pwr.peak ∧
      t = { s.mod with pwr := { s.mod.pwr with peak := t.pwr.peak } }) ∧
    (s.mod.pwr.peak ≤ 50 → s.mod.pwr.stall = false → Gives .peakStall s fun t => t.pwr.stall = true ∧ t.pwr.peak = s.mod.pwr.peak ∧
      regN t pwrP 0xA0 = min (regN s.mod pwrP 0xA0 + 1) 0xFFFFFFFF ∧ t = { s.mod with pwr := t.pwr, regs := t.regs }) ∧
    (∀ mv, 44000 ≤ mv → Gives (.supplyEvent mv) s fun t => t = s.mod) ∧
    (∀ mv d, mv < 44000 → s.mod.pwr.dip = some d → dipDue s.mod d = true → Gives (.supplyEvent mv) s fun t =>
      t.pwr.dip = some ⟨now s.mod, 0, mv, none⟩ ∧ t.sys.mv = mv ∧ t.ledger.openG = none ∧
      t = { s.mod with pwr := { s.mod.pwr with dip := t.pwr.dip, starts := t.pwr.starts }, sys := t.sys, ledger := t.ledger, regs := t.regs, mgt := t.mgt }) ∧
    (∀ mv d, mv < 44000 → s.mod.pwr.dip = some d → dipDue s.mod d = false → Gives (.supplyEvent mv) s fun t =>
      t.pwr.dip = some { d with count := 0, low := min d.low mv, full := none } ∧ t.sys.mv = mv ∧ t.ledger.openG = none ∧
      t = { s.mod with pwr := { s.mod.pwr with dip := t.pwr.dip }, sys := { s.mod.sys with mv := mv }, ledger := t.ledger }) ∧
    (∀ mv, mv < 44000 → s.mod.pwr.dip = none → Gives (.supplyEvent mv) s fun t =>
      t.pwr.dip = some ⟨now s.mod, 0, mv, none⟩ ∧ t.ledger.openG = none ∧
      regN t pwrP 0x98 = min (regN s.mod pwrP 0x98 + 1) 0xFFFFFFFF ∧
      (3 ≤ (recentDips s.mod).length + 1 → s.mod.sys.want = none → t.sys.want = some (5, 1)) ∧
      t = { s.mod with pwr := { s.mod.pwr with dip := t.pwr.dip, starts := t.pwr.starts }, sys := t.sys, ledger := t.ledger, regs := t.regs }) ∧
    (∀ d, s.mod.pwr.dip = some d → dipDue s.mod d = false → Gives .supplyDipEnd s fun t => t = s.mod) ∧
    (∀ d, s.mod.pwr.dip = some d → dipDue s.mod d = true → Gives .supplyDipEnd s fun t =>
      t.pwr = { s.mod.pwr with dip := none } ∧ t = { s.mod with pwr := t.pwr, regs := t.regs, mgt := t.mgt }) ∧
    (∀ d, s.mod.pwr.dip = some d → d.first + 100000 ≤ now s.mod → s.mod.sys.rst = 0 → s.mod.sys.want = none →
      Gives .dipTimeout s fun t => t = { s.mod with sys := { s.mod.sys with want := some (5, 1) } }) ∧
    (∀ mv, mv < 40000 → s.mod.sys.rails = true → s.mod.mgt.state = 2 → s.mod.sys.rst = 0 → s.mod.sys.want = none →
      Gives (.supplyBelow40v mv) s fun t => t = { s.mod with sys := { s.mod.sys with mv := mv, want := some (4, 1) } }) ∧
    (∀ mv, 60000 < mv → Gives (.inputOvervoltage mv) s fun t => t = { s.mod with sys := { s.mod.sys with switchOpen := true } }) ∧
    (∀ mv, mv < 58000 → s.mod.sys.switchOpen = true →
      Gives (.inputSwitchClose mv) s fun t => t = { s.mod with sys := { s.mod.sys with switchOpen := false } })

/-- For every state with the Velom link ACTIVE, and every register read or write whose width is not 4 bytes or whose
offset is not a multiple of 4: the command completes with one response of status other than OK, and no register but
VLK_ERR_RSP, the counter of such responses, changes. Behind demands that wait it is queued, and gets the same response
when it is served. (R5) -/
def Obligations.MisalignedRegisterAccessChangesNothing : Prop :=
  ∀ (s : State) (tag : BitVec 16) (off : DWord) (width : Nat) (v : Word), linkUp s.mod = true →
    width ≠ 4 ∨ off.toNat % 4 ≠ 0 →
    (s.mod.velom.demands = [] →
      Gives (.regRd tag off width) s (fun t => (∃ st, st ≠ 0 ∧ t = replyMsg s.mod tag.toNat st 0 []) ∧
        ∀ p r, pageBase p + r ≠ pageBase vlkP + 0x64 → getReg t p r = getReg s.mod p r) ∧
      Gives (.regWr tag off width v) s (fun t => (∃ st, st ≠ 0 ∧ t = ackMsg s.mod tag.toNat st) ∧
        ∀ p r, pageBase p + r ≠ pageBase vlkP + 0x64 → getReg t p r = getReg s.mod p r)) ∧
    (s.mod.velom.demands ≠ [] →
      Gives (.regRd tag off width) s (fun t =>
        t = { s.mod with velom := { s.mod.velom with demands := s.mod.velom.demands ++ [.regRd tag.toNat off.toNat width] } }) ∧
      Gives (.regWr tag off width v) s (fun t =>
        t = { s.mod with velom := { s.mod.velom with demands := s.mod.velom.demands ++ [.regWr tag.toNat off.toNat width v] } })) ∧
    ∀ m : Mod, ∃ st, st ≠ 0 ∧ tryDemand m (.regRd tag.toNat off.toNat width) = (replyMsg m tag.toNat st 0 [], true) ∧
      tryDemand m (.regWr tag.toNat off.toNat width v) = (ackMsg m tag.toNat st, true)

/-- For every register of access W1C but MGT_ALERT and every page that exists: a hardware event sets bits of it and a
write of any value in the same tick leaves those bits set, in either order. For MGT_ALERT the same of the alert
causes. (R8) -/
def Obligations.AnEventBeatsItsClear : Prop :=
  ∀ (s : State) (off : BitVec 28) (p : Page) (r : Nat) (w : RegRow) (v e : Word), pageAt off.toNat = some (p, r) →
    rowAt p r = some w → w.acc = .w1c →
    (¬ (p.blk = .mgt ∧ r = 0x4C) →
      Gives (.registerWrite off v) { s with mod := raiseBits s.mod p r e } (fun t => getReg t p r &&& e = e) ∧
      Gives (.registerWrite off v) s (fun t => getReg (raiseBits t p r e) p r &&& e = e)) ∧
    (p.blk = .mgt ∧ r = 0x4C → ∀ b, b < 5 → s.mod.sys.rails = true →
      Gives (.registerWrite off v) { s with mod := alert s.mod b } (fun t => bitAt t.mgt.alert b = true) ∧
      Gives (.registerWrite off v) s (fun t => bitAt (alert t b).mgt.alert b = true))

/-- For every state whose RWL fields are not locked: a write to CHU_WEIGHTS or CHU_RESERVE leaves the weights and the
reserve in force as they are, sets the register where every field is in its range and otherwise leaves it whole; the
next WINDOW_START puts the registers in force. (R95) -/
def Obligations.ShareSettingsWaitForTheWindow : Prop :=
  ∀ (s : State) (reserve : Bool) (v : Word), s.mod.sec.locked = false →
    Gives (.chuWeightsWrite reserve v) s (fun t => t.adm = s.mod.adm ∧
      (fieldsOk chuP (if reserve then 0x6C else 0x68) v.toNat = true →
        getReg t chuP (if reserve then 0x6C else 0x68) = v &&& (if reserve then 0xFFFF#32 else 0xFFFFFF#32)) ∧
      (fieldsOk chuP (if reserve then 0x6C else 0x68) v.toNat = false → t = s.mod) ∧
      t = { s.mod with regs := t.regs }) ∧
    ∀ w, Gives (.windowStart w) s fun t => t.adm.weights = getReg s.mod chuP 0x68 ∧ t.adm.reserve = getReg s.mod chuP 0x6C

/-- CHU_SQ_DB on a live chute whose new tail is in range and whose slots are free makes the slots from the old tail on
valid and waiting, stamped with the tick; on an absent chute, a draining one, out of range or where the ring has no
room it changes only CHU_DB_ERR (cause 1, 2 or 3) and the block event. CHU_CQ_DB releases the entries below the new
head with their records, or is recorded with cq 1. No other chute changes. (R66, R67, R96, R516, R660) -/
def Obligations.DoorbellsMoveTheirRings : Prop :=
  ∀ (s : State) (n : BitVec 12) (i : BitVec 16),
    (∀ c, chuteOf s.mod n.toNat = some c →
      let d := sqDepth c
      let slots := (List.range ((i.toNat + d - c.tail) % d)).map fun k => (c.tail + k) % d
      c.draining = false → i.toNat < d → (∀ x ∈ slots, x ∉ c.valid) → c.valid.length + slots.length ≤ d →
      Gives (.chuSqDb n i) s fun t =>
        chuteOf t n.toNat = some { c with tail := i.toNat, valid := c.valid ++ slots, wait := c.wait ++ slots.map fun x => (x, now s.mod) } ∧
        (∀ k, k ≠ n.toNat → chuteOf t k = chuteOf s.mod k) ∧ t = { s.mod with chutes := t.chutes }) ∧
    (∀ cause, (chuteOf s.mod n.toNat = none ∧ cause = 1) ∨
        (∃ c, chuteOf s.mod n.toNat = some c ∧ c.draining = true ∧ cause = 2) ∨
        (∃ c, chuteOf s.mod n.toNat = some c ∧ c.draining = false ∧ (let d := sqDepth c
          let slots := (List.range ((i.toNat + d - c.tail) % d)).map fun k => (c.tail + k) % d
          d ≤ i.toNat ∨ (∃ x ∈ slots, x ∈ c.valid) ∨ d < c.valid.length + slots.length) ∧ cause = 3) →
      Gives (.chuSqDb n i) s fun t =>
        getReg t chuP 0x80 = BitVec.ofNat 32 (n.toNat * 2 ^ 20 + cause * 2 ^ 18) ∧ bitAt (regN t chuP 0x14) 6 = true ∧
        t = { s.mod with regs := t.regs }) ∧
    (∀ c, chuteOf s.mod n.toNat = some c → i.toNat < cqDepth c →
      let step := (i.toNat + cqDepth c - c.released % cqDepth c) % cqDepth c
      c.released + step ≤ c.written →
      Gives (.chuCqDb n i) s fun t =>
        chuteOf t n.toNat = some { c with released := c.released + step, rel := c.rel.filter fun r => c.released + step ≤ r.1 } ∧
        (∀ k, k ≠ n.toNat → chuteOf t k = chuteOf s.mod k) ∧ t = { s.mod with chutes := t.chutes }) ∧
    (∀ cause, (chuteOf s.mod n.toNat = none ∧ cause = 1) ∨
        (∃ c, chuteOf s.mod n.toNat = some c ∧ (cqDepth c ≤ i.toNat ∨
          c.written < c.released + (i.toNat + cqDepth c - c.released % cqDepth c) % cqDepth c) ∧ cause = 3) →
      Gives (.chuCqDb n i) s fun t =>
        getReg t chuP 0x80 = BitVec.ofNat 32 (n.toNat * 2 ^ 20 + cause * 2 ^ 18 + 2 ^ 17) ∧ bitAt (regN t chuP 0x14) 6 = true ∧
        t = { s.mod with regs := t.regs })

/-- With the CHU page enabled: CREATE of a free number with legal rings and no test mode makes the chute of the staged
registers, empty, and reports result 0; a bad geometry is reported with 2, a bad ring with 3, a test mode 2, 3 or 5
with IN_USE; on a chute that exists it reports IN_USE or DRAINING, and QUERY and DESTROY of none report 4. QUERY loads
the staging registers. DESTROY of a chute whose commands are all admitted makes it draining and reports busy while one
is left. A drained chute goes with its last completion. The coalescing timer sends the chute's event and restarts the
count. No other chute changes. (R60, R61, R62, R64, R94, R589, R611) -/
def Obligations.ChutesAreCreatedQueriedAndTornDown : Prop :=
  ∀ (s : State) (n : BitVec 12), chuOn s.mod = true →
    (let g := getReg s.mod chuP 0x60
     let sq := bits g.toNat 0 5
     let cq := bits g.toNat 8 5
     let rings := ringOk s.mod (bitAt g.toNat 31) (pairReg s.mod chuP 0x50) (64 * 2 ^ sq) &&
       ringOk s.mod (bitAt g.toNat 30) (pairReg s.mod chuP 0x58) (32 * 2 ^ cq)
     let reports (c : Instr) (res : Nat) : Prop := Gives c s fun t => getReg t chuP 0x4C = BitVec.ofNat 32 (res * 2 ^ 28 + n.toNat) ∧
       t = { s.mod with regs := t.regs }
     chuteOf s.mod n.toNat = none →
     reports (.query n) 4 ∧ reports (.destroy n) 4 ∧
     (∀ mode x, s.mod.mgt.test = some (mode, x) → (mode = 2 ∨ mode = 3 ∨ mode = 5) → reports (.create n) 1) ∧
     (s.mod.mgt.test = none → ¬ (4 ≤ sq ∧ sq ≤ cq ∧ cq ≤ 16) → reports (.create n) 2) ∧
     (s.mod.mgt.test = none → 4 ≤ sq → sq ≤ cq → cq ≤ 16 → rings = false → reports (.create n) 3) ∧
     (s.mod.mgt.test = none → 4 ≤ sq → sq ≤ cq → cq ≤ 16 → rings = true → Gives (.create n) s fun t =>
       chuteOf t n.toNat = some ⟨n.toNat, false, BitVec.ofNat 64 (pairReg s.mod chuP 0x50), BitVec.ofNat 64 (pairReg s.mod chuP 0x58), g,
         getReg s.mod chuP 0x64, 0, [], [], 0, 0, 0, none, [], none⟩ ∧
       (∀ k, k ≠ n.toNat → chuteOf t k = chuteOf s.mod k) ∧ getReg t chuP 0x4C = BitVec.ofNat 32 n.toNat ∧
       t = { s.mod with chutes := t.chutes, regs := t.regs, mem := { s.mod.mem with map := t.mem.map, moves := t.mem.moves, backoff := t.mem.backoff } })) ∧
    (∀ c, chuteOf s.mod n.toNat = some c →
      (c.draining = true → Gives (.destroy n) s fun t => getReg t chuP 0x4C = BitVec.ofNat 32 (5 * 2 ^ 28 + n.toNat) ∧
        t = { s.mod with regs := t.regs }) ∧
      Gives (.create n) s (fun t => getReg t chuP 0x4C = BitVec.ofNat 32 ((if c.draining then 5 else 1) * 2 ^ 28 + n.toNat) ∧
        t = { s.mod with regs := t.regs }) ∧
      Gives (.query n) s (fun t => pairReg t chuP 0x50 = c.sqBase.toNat ∧ pairReg t chuP 0x58 = c.cqBase.toNat ∧
        getReg t chuP 0x60 = c.geom ∧ getReg t chuP 0x64 = c.evt ∧ getReg t chuP 0x4C = BitVec.ofNat 32 n.toNat ∧
        t = { s.mod with regs := t.regs }) ∧
      (c.draining = false → (∀ x ∈ chuteCmds s.mod n.toNat, x.admitted = true) → chuteCmds s.mod n.toNat ≠ [] →
        Gives (.destroy n) s fun t => chuteOf t n.toNat = some { c with draining := true } ∧
          (∀ k, k ≠ n.toNat → chuteOf t k = chuteOf s.mod k) ∧ getReg t chuP 0x4C = BitVec.ofNat 32 (2 ^ 31 + n.toNat) ∧
          t = { s.mod with chutes := t.chutes, regs := t.regs }) ∧
      (c.draining = true → chuteCmds s.mod n.toNat = [] → c.wait = [] →
        Gives (.chuteDrained n.toNat) s fun t => chuteOf t n.toNat = none ∧ (∀ k, k ≠ n.toNat → chuteOf t k = chuteOf s.mod k) ∧
          t = { s.mod with chutes := t.chutes, regs := t.regs, mem := { s.mod.mem with map := t.mem.map } }) ∧
      (∀ f, c.first = some f → bits c.evt.toNat 0 8 ≠ 0 → f + bits c.evt.toNat 0 8 ≤ now s.mod →
        Gives (.coalescingTimer n.toNat) s fun t => chuteOf t n.toNat = some { c with counted := 0, first := none } ∧
          (∀ k, k ≠ n.toNat → chuteOf t k = chuteOf s.mod k) ∧ bits c.evt.toNat 16 12 ∈ t.regs.sent ∧
          t = { s.mod with chutes := t.chutes, regs := { s.mod.regs with sent := t.regs.sent }, velom := t.velom }))

/-- On a live chute that may fetch (the module ready, its ring reachable, a completion slot free) whose first waiting slot
is named: the slot no longer waits, and one unadmitted work record is added with the next number, the chute, the slot,
the doorbell's tick, the entry, its payload with what device pointers name read from device memory, and the verdict of
the checks made at fetch; nothing but the command table, the chute and the link changes. Where a line of an input read
at fetch is leased to the host for writing it is recalled first. In a safety stop, and on a draining chute, the entry
completes and no record stays. A chute that may not fetch changes nothing. (R64, R68, R101, R469, R556) -/
def Obligations.AnEntryIsFetchedIntoAWorkRecord : Prop :=
  ∀ (s : State) (n slot db : Nat) (rest : List (Nat × Nat)) (e : BitVec 512) (pl : Payload) (ch : ChuteRec),
    chuteOf s.mod n = some ch → ch.wait = (slot, db) :: rest →
    let p := loadPayload s.mod e pl
    let leased := readAtFetch (opcodeOf e) && inputLeased s.mod e p
    (fetchOpen s.mod ch = false → Gives (.entryFetch n e pl) s fun t => t = s.mod) ∧
    (fetchOpen s.mod ch = true → s.mod.saf.state ≠ 0 → ch.draining = false → Gives (.entryFetch n e pl) s fun t =>
      t.cmds = s.mod.cmds.filter (·.id != s.mod.nextCmd) ∧ t.nextCmd = s.mod.nextCmd + 1 ∧
      ∃ d, chuteOf t n = some d ∧ d.written = ch.written + 1 ∧ d.wait = rest ∧ slot ∉ d.valid) ∧
    (fetchOpen s.mod ch = true → s.mod.saf.state = 0 → leased = true → Gives (.entryFetch n e pl) s fun t =>
      t = recallInputs s.mod e p ∧ t.cmds = s.mod.cmds ∧ t.chutes = s.mod.chutes) ∧
    (fetchOpen s.mod ch = true → s.mod.saf.state = 0 → leased = false → ch.draining = true → Gives (.entryFetch n e pl) s fun t =>
      t.cmds = s.mod.cmds.filter (·.id != s.mod.nextCmd) ∧ t.nextCmd = s.mod.nextCmd + 1) ∧
    (fetchOpen s.mod ch = true → s.mod.saf.state = 0 → leased = false → ch.draining = false →
      Gives (.entryFetch n e pl) s fun t => ∃ c, t.cmds = s.mod.cmds ++ [c] ∧ t.nextCmd = s.mod.nextCmd + 1 ∧
        c.id = s.mod.nextCmd ∧ c.chute = some n ∧ c.slot = slot ∧ c.entry = e ∧ c.pl = p ∧ c.dbTick = db ∧ c.admitted = false ∧
        c.verdict = fetchVerdict s.mod e p ∧ c.cfgSeq = (collOf s.mod (collId e)).map (·.cfgSeq) ∧
        chuteOf t n = some { ch with wait := rest } ∧ (∀ k, k ≠ n → chuteOf t k = chuteOf s.mod k) ∧
        t = { s.mod with cmds := t.cmds, nextCmd := t.nextCmd, chutes := t.chutes, velom := t.velom })

/-- For every state whose ledger records stand in strictly rising lsn order, all below the next lsn: a step that answers t
leaves the records of t so. Records enter with the next lsn; programming, resets and wipes only mark or remove them.
(R511, R514, R517) -/
def Obligations.LedgerRecordsStayInLsnOrder : Prop :=
  ∀ s t : State, ledgerOrdered s.mod.ledger → step s = .next t → ledgerOrdered t.mod.ledger

/-- For every state in which the only command not admitted is a chute's head c: ADMISSION answers the state that the row
of c's opcode answers for that chute (shown for each row that names a chute). ADMISSION completes in every state: with
admission closed, or every command admitted, it changes nothing; a lone FETCH, EMBED, TABLE_LOOKUP, RUN_FACE or
RUN_DRILL that passes its checks is then admitted with its pins. The arbiter, its limits and the order of R29 change
nothing where one head stands alone. (R69, R74, R75, R78, R661) -/
def Obligations.AdmissionDecidesALoneHeadAsItsRowDoes : Prop :=
  ∀ (s : State),
    (admissionOpen s.mod = false ∨ (∀ c ∈ s.mod.cmds, c.admitted = true) → Gives .admission s fun t => t = s.mod) ∧
    ∀ (c : Cmd) (n : Nat), s.mod.cmds.filter (fun x => !x.admitted) = [c] → c.chute = some n → c.origin = none →
    (chuteOf s.mod n).isSome = true →
    (∀ p l, ∀ op ∈ [0x03, 0x13, 0x30, 0x40, 0x41], Admits s.mod op n p l → Gives .admission s fun t => AdmittedAs s.mod t p l fun _ => True) ∧
    ∀ x ∈ [(0x01, Instr.search n), (0x03, .fetch (.head n)), (0x10, .insert n), (0x11, .upsert n), (0x12, .delete n),
        (0x13, .embed (.head n)), (0x14, .embedInsert (.head n)), (0x20, .mergeStockpile (.head n)), (0x21, .buildSegment (.head n)),
        (0x22, .publish n), (0x23, .retireGen n), (0x30, .tableLookup (.head n)), (0x31, .tableUpdate (.head n)),
        (0x40, .runFace ⟨.head n, none⟩), (0x41, .runDrill (.head n)), (0x50, .haulHint (.head n)), (0x51, .flush (.head n)),
        (0x60, .abort n), (0x61, .fence (.head n)), (0x70, .collectionCreate n), (0x71, .collectionDrop n), (0x72, .schemaSet n),
        (0x73, .modelLoad (.head n))],
      opcodeOf c.entry = x.1 → exec .admission s = exec x.2 s

/-- When admission admits the head of a chute (its checks passed, its deadline, credit and room met), the row of its
opcode marks its work record admitted with the next sequence number, the tick, the generation and package version it
pins, and its stop tick. SEARCH then holds one walk per segment of the pinned generation (or one flat scan per
segment) and a stockpile scan where the shard has visible entries; EMBED holds its documents; RUN_FACE and RUN_DRILL
wait for their units. No shard, mirror, ledger, memory or core changes. (R31, R74, R86, R102, R150, R171) -/
def Obligations.ReadHeadsAreAdmittedWithTheirPins : Prop :=
  ∀ (s : State) (n : Nat) (c : Cmd) (l : Nat),
    (∀ co g, Admits s.mod 0x01 n c l → collOf s.mod (collId c.entry) = some co → genOf co (pinGen s.mod c.entry) = some g →
      Gives (.search n) s fun t => t.colls = s.mod.colls ∧ t.mirror = s.mod.mirror ∧ t.ledger = s.mod.ledger ∧ t.mem = s.mod.mem ∧
        AdmittedAs s.mod t c l fun d => ∃ w, d.search = some w ∧ w.k = sK c.entry ∧ w.stage = 0 ∧
          w.walks.map (·.seg) = (if w.flat then [] else g.segs.map (·.no)) ∧ w.flats = (if w.flat then g.segs.map (·.no) else []) ∧
          w.scan = (if (visibleStock co g (now s.mod)).isEmpty then 0 else 1)) ∧
    (∀ x ∈ [(0x03, Instr.fetch (.head n), fun _ : Cmd => True), (0x30, .tableLookup (.head n), fun _ => True),
        (0x13, .embed (.head n), fun d => d.embed = some (startEmbed c.entry [] 0 0#128)),
        (0x40, .runFace ⟨.head n, none⟩, fun d => d.run = some ⟨false, [], [], [], [], [], 0⟩),
        (0x41, .runDrill (.head n), fun d => d.run = some ⟨false, [], [], [], [], [], 0⟩)],
      Admits s.mod x.1 n c l → Gives x.2.1 s fun t => AdmittedAs s.mod t c l x.2.2 ∧
        t = { s.mod with cmds := t.cmds, adm := t.adm, pwr := t.pwr, velom := t.velom, regs := t.regs })

/-- When admission admits the head: INSERT and UPSERT append the batch's entries at the stockpile tail, UPSERT and DELETE
tombstone every instance of the named live keys in the tailings and the mirror (an ordinal that a pending merge step
reuses is held as tombstoned again), and each writes one ledger record of its command with the next lsn; EMBED_INSERT
takes its stockpile positions and waits for its vectors; TABLE_UPDATE waits for its adds. The premise on the ledger's
lsn order is LedgerRecordsStayInLsnOrder. (R28, R53, R57, R111, R112, R230, R234, R265, R335) -/
def Obligations.BatchesChangeTheStockpileAndTakeARecord : Prop :=
  ∀ (s : State) (n : Nat) (c : Cmd) (l : Nat) (co : Coll), ledgerOrdered s.mod.ledger →
    collOf s.mod (collId c.entry) = some co → shardOf s.mod (collId c.entry) = some co →
    let gone (t : Mod) (d : Coll) : Prop := ∀ i ∈ batchInsts s.mod co c.pl.keys,
      (isTomb d i = true ∨ ∃ a b, i = .ord a b ∧ (a, b) ∈ d.reborn) ∧
      (pendPub s.mod co = none → isTomb d i = true ∧ mirrorClear t co.id i = false)
    (Admits s.mod 0x10 n c l → Gives (.insert n) s fun t =>
      (∃ d, collOf t co.id = some d ∧ d = { putEntries co (batchEnts co c.entry c.pl) with stockPgs := d.stockPgs }) ∧
      t.mirror = s.mod.mirror ∧
      AdmittedAs s.mod t c l (fun d => d.count = c.pl.keys.length ∧ d.lsn = some s.mod.ledger.next) ∧
      RecordWritten s.mod t c co.id 0x10 (.insert (batchEnts co c.entry c.pl) [] [])) ∧
    (Admits s.mod 0x11 n c l → Gives (.upsert n) s fun t =>
      (∃ d, collOf t co.id = some d ∧ d.stock = co.stock ++ batchEnts co c.entry c.pl ∧ gone t d) ∧
      AdmittedAs s.mod t c l (fun d => d.count = c.pl.keys.length ∧ d.lsn = some s.mod.ledger.next ∧
        d.info = c.pl.keys.length - liveCount s.mod co c.pl.keys) ∧
      RecordWritten s.mod t c co.id 0x11 (.insert (batchEnts co c.entry c.pl) (batchInsts s.mod co c.pl.keys)
        (batchGone s.mod co c.pl.keys))) ∧
    (Admits s.mod 0x12 n c l → Gives (.delete n) s fun t =>
      (∃ d, collOf t co.id = some d ∧ d.stock = co.stock ∧ gone t d) ∧
      AdmittedAs s.mod t c l (fun d => d.count = liveCount s.mod co c.pl.keys ∧ d.lsn = some s.mod.ledger.next ∧
        d.info = c.pl.keys.eraseDups.length - liveCount s.mod co c.pl.keys) ∧
      RecordWritten s.mod t c co.id 0x12 (.delete (c.pl.keys.eraseDups.filter (keyLive s.mod co)) (batchInsts s.mod co c.pl.keys)
        (batchGone s.mod co c.pl.keys))) ∧
    (Admits s.mod 0x14 n c l → Gives (.embedInsert (.head n)) s fun t =>
      (∃ d, collOf t co.id = some d ∧ d.tail = co.tail + BitVec.ofNat 32 (docsN c.entry) ∧
        d.stock.map (·.pos) = co.stock.map (·.pos) ++ positions co (docsN c.entry)) ∧ t.ledger = s.mod.ledger ∧
      AdmittedAs s.mod t c l fun d => d.embed = some (startEmbed c.entry (positions co (docsN c.entry)) co.enable co.dflt)) ∧
    (Admits s.mod 0x31 n c l → Gives (.tableUpdate (.head n)) s fun t =>
      AdmittedAs s.mod t c l (fun d => d.upd = some ⟨false, 0, []⟩) ∧ t.mem = s.mod.mem ∧ t.ledger = s.mod.ledger)

/-- When admission admits the head: CREATE adds a shard with the command's dimension, type, distance and home that does
not exist yet, DROP marks the shard as dropping, SCHEMA_SET and RETIRE_GEN leave the shard for the publish slot,
PUBLISH holds the shard's publish pending, and each writes one ledger record with the next lsn that says what the
publish slot is to apply. The premise on the ledger's lsn order is LedgerRecordsStayInLsnOrder. (R22, R25, R45, R123,
R130, R255, R256) -/
def Obligations.CollectionCommandsTakeOneRecord : Prop :=
  ∀ (s : State) (n : Nat) (c : Cmd) (l : Nat), ledgerOrdered s.mod.ledger →
    let e := c.entry
    let rec' (t : Mod) (op : Nat) (r : Redo) : Prop := RecordWritten s.mod t c (collId e) op r ∧
      AdmittedAs s.mod t c l fun d => d.lsn = some s.mod.ledger.next
    (Admits s.mod 0x70 n c l → Gives (.collectionCreate n) s fun t => rec' t 0x70 (.create e) ∧
      ∃ d, t.colls = s.mod.colls ++ [d] ∧ d.id = collId e ∧ d.d = fld e 16 2 ∧ d.ty = fld e 18 1 ∧ d.dist = fld e 19 1 ∧
        d.home = fld e 22 2 ∧ d.made = false ∧ d.stock = []) ∧
    (∀ co, collOf s.mod (collId e) = some co → Admits s.mod 0x71 n c l → Gives (.collectionDrop n) s fun t => rec' t 0x71 .drop ∧
      collOf t co.id = some { co with dropping := true }) ∧
    (Admits s.mod 0x72 n c l → Gives (.schemaSet n) s fun t =>
      rec' t 0x72 (.schema (fld e 16 1) (fld e 17 1) (BitVec.ofNat 128 (fld e 32 16)) (bitAt (fld e 18 1) 0)) ∧ t.colls = s.mod.colls) ∧
    (Admits s.mod 0x23 n c l → Gives (.retireGen n) s fun t => rec' t 0x23 (.retire (fld e 16 4)) ∧ t.colls = s.mod.colls) ∧
    (∀ co, collOf s.mod (collId e) = some co → Admits s.mod 0x22 n c l → Gives (.publish n) s fun t =>
      collOf t co.id = some { co with pub := some s.mod.ledger.next } ∧ ∃ p, rec' t 0x22 (.publish p) ∧ p.gen = publishGen co e ∧
        p.superseded = supersedeSet s.mod co (newlyLive co e) ∧ p.hold = fld e 52 4 ∧ p.step = false ∧
        p.freed = clearedOrds co e ∧ p.map = (if fld e 56 8 = 0 then none else some c.pl.shardMap) ∧
        t.resv = s.mod.resv + p.superseded.length)

/-- When admission admits the head: a merge holds the job of its entry, or completes at once where it has nothing to do; a
build whose pages can be reserved holds its segment, the die with the most free bench 1, code and graph parameters,
the schema pinned, in phase 1, with its pages; HAUL_HINT holds its pages, FLUSH the write-buffer entries it waits for;
FENCE and MODEL_LOAD are admitted; ABORT completes at once, and every command of its target that was not admitted is
gone. (R92, R127, R128, R129, R131, R240, R241, R249) -/
def Obligations.JobsAreAdmittedWithTheirWork : Prop :=
  ∀ (s : State) (n : Nat) (c : Cmd) (l : Nat),
    let e := c.entry
    (∀ co, Admits s.mod 0x20 n c l → collOf s.mod (collId e) = some co → Gives (.mergeStockpile (.head n)) s fun t =>
      if mergeIdle s.mod co (mergeJob co e) then cmdOf t c.id = none
      else AdmittedAs s.mod t c l fun d => d.merge = some (mergeJob co e)) ∧
    (∀ co, Admits s.mod 0x21 n c l → collOf s.mod (collId e) = some co →
      let m := dropBuilt s.mod co (fld e 44 1)
      (reserveBuild m co (fld e 40 4) (buildM e) (buildDegree e) (roomiest m)).isSome = true →
      Gives (.buildSegment (.head n)) s fun t => AdmittedAs s.mod t c l fun d => ∃ b, d.build = some b ∧ b.seg = fld e 44 1 ∧
        b.m = buildM e ∧ b.degree = buildDegree e ∧ b.phase = 1 ∧ b.count = 0 ∧ b.die = roomiest m ∧
        b.pages.length = idxPages (fld e 40 4) (buildM e) (buildDegree e) ∧ b.enable = co.enable ∧ b.signed = co.signed ∧
        b.dflt = co.dflt) ∧
    (Admits s.mod 0x50 n c l → Gives (.haulHint (.head n)) s fun t => AdmittedAs s.mod t c l fun d => d.left = hintPages e) ∧
    (Admits s.mod 0x51 n c l → Gives (.flush (.head n)) s fun t => AdmittedAs s.mod t c l fun d => d.left = flushSet s.mod e) ∧
    (Admits s.mod 0x61 n c l → Gives (.fence (.head n)) s fun t => AdmittedAs s.mod t c l fun _ => True) ∧
    (Admits s.mod 0x73 n c l → Gives (.modelLoad (.head n)) s fun t => AdmittedAs s.mod t c l fun _ => True) ∧
    (Admits s.mod 0x60 n c l → Gives (.abort n) s fun t =>
      ∀ x ∈ t.cmds, x.id ≠ c.id ∧ ∀ y ∈ abortTargets s.mod c, y.admitted = false → x.id ≠ y.id)

/-- For a command of a live chute whose completion ring lies in host memory: its completion writes, by one HStore to the
next place of the ring, the 32 bytes of Table CH-2 (cmd_id, chute, status, flags, generation, count, crc, info, tick
and the phase of this pass), the chute counts one entry more and frees the slot, and the command's record is gone. The
chutes of other numbers keep their records. (R59, R63, R73, R88) -/
def Obligations.CompletionsReachTheirChute : Prop :=
  ∀ (m : Mod) (c : Cmd) (f : Fin) (n : Nat) (ch : ChuteRec), c.chute = some n → chuteOf m n = some ch → c.origin = none →
    bitAt ch.geom.toNat 30 = false →
    let e := toBytes (cmdTag c.entry) 4 ++ toBytes n 2 ++ toBytes f.status 1 ++ toBytes (bN f.short * 4 + bN c.replayed * 2) 1 ++
      toBytes (f.gen.getD c.gen) 4 ++ toBytes f.count 4 ++ toBytes f.crc 4 ++ toBytes f.info 4 ++ toBytes (now m) 4 ++
      toBytes (now m / 2 ^ 32) 3 ++ toBytes (1 - ch.written / cqDepth ch % 2) 1
    e.length = 32 ∧
    (∃ tag, Msg.hstore tag (ch.cqBase.toNat + 32 * (ch.written % cqDepth ch)) e ∈
      (finish m c f).velom.out ++ (finish m c f).velom.held) ∧
    (finish m c f).cmds = m.cmds.filter (fun x => x.id != c.id) ∧
    (∃ ch', chuteOf (finish m c f) n = some ch' ∧ ch'.written = ch.written + 1 ∧ ch'.doneAt = some (now m) ∧
      ch'.valid = ch.valid.filter (· != c.slot) ∧ ch'.tail = ch.tail ∧ ch'.released = ch.released) ∧
    ∀ k, k ≠ n → chuteOf (finish m c f) k = chuteOf m k

/-- FETCH writes one record per named key, in order, with the instance visible at its pins or zeros, and completes DONE or
NOT_FOUND with the count of keys found and the CRC of the bytes; while a lease or a drill holds a line of its buffer
it asks for the Recalls and waits (R73). TABLE_LOOKUP maps each index to its row, pools the rows of each bag in fp32
with their weights, converts, writes the bags and completes DONE with their count. EMBED completes once every
document's vector is written and none of them is held back. Nothing else changes but counters and page access counts.
(R58, R73, R110, R289, R331, R332, R333) -/
def Obligations.AdmittedReadsComplete : Prop :=
  ∀ (s : State) (cid : Nat) (c : Cmd),
    let e := c.entry
    (∀ co g, Running s.mod cid 0x03 c → shardOf s.mod (collId e) = some co → genOf co c.gen = some g →
      let ks := (List.range (fld e 32 2)).map fun i => c.pl.keys.getD i 0#64
      let seen := ks.map (seenKey s.mod co g c.admTick)
      let out := (ks.zip seen).flatMap fun x => fetchRec co (decide (fld e 34 1 = 0)) x.1 x.2
      let k := (seen.filterMap id).length
      Gives (.fetch (.run cid .clean)) s fun t =>
        if outReady s.mod (fld e 24 8) out.length then ∃ m, m = { s.mod with regs := m.regs } ∧
          t = finish (writePtr m (fld e 24 8) out) c
            { status := (if k = fld e 32 2 then 0 else 0x23), count := k, crc := (crc32c out).toNat }
        else t = outClaim s.mod (fld e 24 8) out.length) ∧
    (∀ p d, Running s.mod cid 0x30 c → pkgOf s.mod c (fld e 16 2) = some p → tableOf p (fld e 18 1) = some d →
      offsetFault c.pl.offsets (fld e 56 2) (fld e 28 4) = none →
      let ix := (List.range (fld e 28 4)).map fun j => c.pl.indices.getD j 0#64
      unitsStall s.mod = false → (uniqueRows p (fld e 18 1) ix).any (rowHurt s.mod p) = false →
      let wt (j : Nat) : Word := if fld e 32 8 = 0 then oneW else if fld e 19 1 = 0 then c.pl.weights.getD j 0#32
        else codeVal d.ty (c.pl.weights.getD j 0#32).toNat .one
      let o (i : Nat) : Nat := (c.pl.offsets.getD i 0#32).toNat
      let bag (b : Nat) : List Word := poolBag ((List.range (o (b + 1) - o b)).map fun i =>
        (wt (o b + i), rowOf s.mod c.admTick p (fld e 18 1) d (ix.getD (o b + i) 0#64))) d.w
      let out := ((List.range (fld e 56 2)).map bag).flatMap fun r =>
        padTo 32 (packCodes (fld e 58 1) (r.map fun y => (convert (fld e 58 1) y .one).1))
      outReady s.mod (fld e 48 8) out.length = true →
      Gives (.tableLookup (.run cid .clean)) s fun t => ∃ m, m = { s.mod with regs := m.regs, mem := { s.mod.mem with map := m.mem.map } } ∧
        t = finish (writePtr m (fld e 48 8) out) c { status := 0, count := fld e 56 2, crc := (crc32c out).toNat }) ∧
    (∀ w, Running s.mod cid 0x13 c → c.embed = some w → docsN e ≤ c.docsDone →
      let out := (List.range (docsN e)).flatMap fun i => embedBytes (fld e 37 1) (vecOfDoc w i)
      outHeld s.mod (fld e 24 8) out.length = false →
      Gives (.embed (.run cid .clean)) s fun t => t = finish s.mod c { status := 0, count := docsN e, crc := (crc32c out).toNat })

/-- A command's work that meets an uncorrectable error ends with MEDIA_ERROR, what it had begun undone, unless its record
is written. FENCE completes in the first tick in which no command admitted before it remains; FLUSH when every write-
buffer entry it waits for is programmed; HAUL_HINT, with no page left to handle and no move of its own in flight, with
its count of moved pages in info; a page that it pins or unpins has its pin set so and nothing else changes but its
list. (R92, R127, R128, R421) -/
def Obligations.AdmittedWaitsComplete : Prop :=
  ∀ (s : State) (cid : Nat) (c : Cmd),
    (∀ x ∈ [(0x03, Instr.fetch (.run cid .hurt)), (0x13, .embed (.run cid .hurt)), (0x14, .embedInsert (.run cid .hurt)),
        (0x20, .mergeStockpile (.run cid .hurt)), (0x21, .buildSegment (.run cid .hurt)), (0x30, .tableLookup (.run cid .hurt)),
        (0x31, .tableUpdate (.run cid .hurt)), (0x40, .runFace ⟨.run cid .hurt, none⟩), (0x41, .runDrill (.run cid .hurt)),
        (0x50, .haulHint (.run cid .hurt)), (0x51, .flush (.run cid .hurt)), (0x73, .modelLoad (.run cid .hurt))],
      Running s.mod cid x.1 c → c.lsn = none → Gives x.2 s fun t => t = workEnd s.mod c 0x30 0xF8) ∧
    (Running s.mod cid 0x61 c → (∀ x ∈ s.mod.cmds, x.admitted = true → x.chute.isSome = true → c.seq ≤ x.seq) →
      Gives (.fence (.run cid .clean)) s fun t => t = finish s.mod c { status := 0 }) ∧
    (Running s.mod cid 0x51 c → (∀ w ∈ s.mod.mem.wb, w.seq ∉ c.left) →
      Gives (.flush (.run cid .clean)) s fun t => t = finish s.mod c { status := 0 }) ∧
    (Running s.mod cid 0x50 c → c.left = [] → (∀ v ∈ s.mod.mem.moves, v.cmd = some cid → v.done = true) →
      Gives (.haulHint (.run cid .clean)) s fun t => t = finish s.mod c { status := 0, info := c.info }) ∧
    (∀ pg rest e, Running s.mod cid 0x50 c → c.left = pg :: rest → pageEnt s.mod pg = some e → moveRoom s.mod e = true →
      fld c.entry 29 1 ≠ 0 →
      Gives (.haulHint (.run cid .clean)) s fun t => pageEnt t pg = some { e with pin := bitAt (fld c.entry 29 1) 0 } ∧
        (∀ q, q ≠ pg → pageEnt t q = pageEnt s.mod q) ∧ cmdOf t cid = some { c with left := rest } ∧
        t = { s.mod with cmds := t.cmds, mem := { s.mod.mem with map := t.mem.map } })

/-- RUN_FACE loads the program and its argument block into the lowest-numbered free faces and starts them at the program's
entry; RUN_DRILL loads the program into the selected drills and starts its declared run; MODEL_LOAD with an accepted
signature and legal programs whose tables and weights find room adds the next version of the package, not yet current,
every unit of its weights in a face's store or in bench 1 (all in bench 1 while an older version is there), and writes
its ledger record; it rejects a package whose signature does not verify, or whose ID is in use without replace, with
BAD_COMMAND. The premise on the ledger's lsn order is LedgerRecordsStayInLsnOrder. (R126, R131, R290, R351, R354,
R395, R588) -/
def Obligations.ProgramsAndPackagesStart : Prop :=
  ∀ (s : State) (cid : Nat) (c : Cmd),
    let e := c.entry
    (∀ w p g q, Running s.mod cid 0x40 c → c.run = some w → w.started = false → pkgOf s.mod c (fld e 16 2) = some p →
      faceProgram p (fld e 18 2) = some g → fld e 20 2 ≤ (freeFaces s.mod).length → allocModule s.mod 0 none = some q →
      Gives (.runFace ⟨.run cid .clean, none⟩) s fun t =>
        (∃ d, cmdOf t cid = some d ∧ d.run = some ⟨true, ((freeFaces s.mod).take (fld e 20 2)).map .face, [], p.pkg.scales, [], [], q.1 * pageSize⟩) ∧
        ∀ k ∈ (freeFaces s.mod).take (fld e 20 2), ∃ f, faceOf t k = some f ∧ f.st = 1 ∧ f.cmd = some cid ∧ f.prog = g.index ∧
          f.pc = g.entry ∧ f.codeLen = 4 * g.code.length ∧ faceX f 2 = (argBytes c).length ∧ faceX f 4 = fld e 20 2 % 2 ^ 64) ∧
    (∀ w p g, Running s.mod cid 0x41 c → c.run = some w → w.started = false → pkgOf s.mod c (fld e 16 2) = some p →
      drillProgram p (fld e 18 2) = some g →
      let ss := (List.range 8).filter fun k => bitAt (fld e 20 1) k
      let ds := ss.flatMap fun k => moduleDrills s.mod k (fld e 22 2)
      (∀ x ∈ ds, ∃ d, drillOf s.mod x.1 x.2 = some d ∧ d.ready = true ∧ d.cmd = none) → ss.length * fld e 22 2 ≤ ds.length →
      Gives (.runDrill (.run cid .clean)) s fun t =>
        (∃ d, cmdOf t cid = some d ∧ d.run = some ⟨true, ds.map fun x => .drill x.1 x.2, [], [], [], [], 0⟩) ∧
        ∀ x ∈ ds, ∃ d, drillOf t x.1 x.2 = some d ∧ d.ready = false ∧ d.cmd = some cid ∧ d.code = g.code) ∧
    (∀ k, Running s.mod cid 0x73 c → c.lsn = none → c.pl.pkg = some k → (k.sigOk && keyAccepted s.mod k.keyHash) = false →
      Gives (.modelLoad (.run cid .clean)) s fun t => t = finish s.mod c { status := 0x20, info := badAt 16 0xFFFFFE }) ∧
    (∀ k, Running s.mod cid 0x73 c → c.lsn = none → c.pl.pkg = some k →
      (k.sigOk && keyAccepted s.mod k.keyHash) = true → (∀ g ∈ k.programs, programBad g = false) →
      let id := fld e 28 2
      ((pkgCur s.mod id).isSome = true → bitAt (fld e 30 1) 0 = false →
        Gives (.modelLoad (.run cid .clean)) s fun t => t = finish s.mod c { status := 0x20, info := badAt 28 0xFFFFFF }) ∧
      ∀ r q, ledgerOrdered s.mod.ledger → ((pkgCur s.mod id).isSome = true → bitAt (fld e 30 1) 0 = true) →
        tablesPages k.tables s.mod = some r →
        placeWeights r.2 ⟨id, nextVer s.mod id, k, false, r.1.map fun l => l.headD 0, r.1.flatten, nextVer s.mod id, [], []⟩ = some q →
        Gives (.modelLoad (.run cid .clean)) s fun t => t.pkgs = s.mod.pkgs ++ [q.1] ∧ q.1.id = id ∧ q.1.pkg = k ∧ q.1.cur = false ∧
          (∀ p ∈ s.mod.pkgs, p.id = id → p.ver < q.1.ver) ∧ q.1.pages = r.1.flatten ∧
          (∀ i, i < ceilDiv k.weights.length pageSize → (∃ x ∈ q.1.wface, x.1 = i) ∨ ∃ x ∈ q.1.wpage, x.1 = i) ∧
          ((∃ p ∈ s.mod.pkgs, p.id = id) → q.1.wface = []) ∧
          RecordWritten s.mod t c 0 0x73 (.model id q.1.ver k) ∧ ∃ d, cmdOf t cid = some d ∧ d.lsn = some s.mod.ledger.next)

/-- EMBED_INSERT, its documents complete, fills its stockpile positions with the vectors and writes one ledger record of
them; TABLE_UPDATE enters its sector adds on stacked memory into the service queue; MERGE_STOCKPILE takes the step
that MERGE_STEP takes; BUILD_SEGMENT draws BULK share for its step and passes from its codebook to its ingest, ingests
vectors or fails at one it must reject, and, in its image phase, records the segment built from its inputs. The
premise on the ledger's lsn order is LedgerRecordsStayInLsnOrder. (R245, R249, R265, R289, R335, R337) -/
def Obligations.AdmittedMutationsWork : Prop :=
  ∀ (s : State) (cid : Nat) (c : Cmd),
    let e := c.entry
    (∀ w co, ledgerOrdered s.mod.ledger → Running s.mod cid 0x14 c → c.embed = some w → shardOf s.mod (collId e) = some co →
      docsN e ≤ c.docsDone → c.lsn = none →
      Gives (.embedInsert (.run cid .clean)) s fun t => RecordWritten s.mod t c (collId e) 0x14 (.insert (embedEnts co c w) [] []) ∧
        (∃ d, cmdOf t cid = some d ∧ d.lsn = some s.mod.ledger.next ∧ d.count = docsN e) ∧
        ∃ co', shardOf t (collId e) = some co' ∧ co'.stock.length = co.stock.length ∧
          ∀ x ∈ co'.stock, x ∈ co.stock ∨ x ∈ embedEnts co c w) ∧
    (∀ u p d, Running s.mod cid 0x31 c → c.upd = some u → u.queued = false → pkgOf s.mod c (fld e 16 2) = some p →
      tableOf p (fld e 18 1) = some d →
      let as := updateAdds s.mod p (fld e 18 1) c.pl.indices (deltasOf e c.pl d) (some cid)
      unitsStall s.mod = false → as ≠ [] → (∀ a ∈ as, a.stack < 8) →
      Gives (.tableUpdate (.run cid .clean)) s fun t => t.svc = s.mod.svc ++ as ∧
        (∃ d, cmdOf t cid = some d ∧ d.upd = some ⟨true, as.length, []⟩ ∧ d.count = fld e 28 4) ∧
        t = { s.mod with cmds := t.cmds, svc := t.svc, regs := t.regs }) ∧
    (Running s.mod cid 0x20 c → ∃ t, exec (.mergeStockpile (.run cid .clean)) s = .next t ∧ exec (.mergeStep (collId e)) s = .next t) ∧
    (∀ b co, Running s.mod cid 0x21 c → c.build = some b → collOf s.mod (collId e) = some co → ckptDue s.mod b = false →
      ringFull s.mod = false → stepMay s.mod e = true →
      let c' := { c with cost := (drawStep s.mod c).2.cost }
      let k := min (fld e 40 4) (b.count + buildBatch)
      (b.phase = 1 → Gives (.buildSegment (.run cid .clean)) s fun t =>
        cmdOf t cid = some { c' with build := some { b with phase := 2, skews := 0 } } ∧
        t = { s.mod with cmds := t.cmds, pwr := t.pwr, adm := t.adm }) ∧
      (b.phase = 2 → ingestFault co c.pl k = none → Gives (.buildSegment (.run cid .clean)) s fun t =>
        cmdOf t cid = some { c' with build := some { b with count := k, phase := if k = fld e 40 4 then 3 else 2, skews := 0 } }) ∧
      (∀ x, b.phase = 2 → ingestFault co c.pl k = some x → Gives (.buildSegment (.run cid .clean)) s fun t =>
        t = buildFail (drawStep s.mod c).1 c' co b x.1 x.2) ∧
      (b.phase = 5 → ledgerOrdered s.mod.ledger → Gives (.buildSegment (.run cid .clean)) s fun t =>
        RecordWritten s.mod t c (collId e) 0x21 (.built (buildSeg s.mod co c b)) ∧
        ∃ d, cmdOf t cid = some d ∧ d.build = some { b with phase := 6 } ∧ d.count = fld e 40 4 ∧ d.info = b.seg ∧ d.lsn = some s.mod.ledger.next))

/-- For a shard's merge job: with nothing left to do it completes DONE with the current generation; past a limit, or with
its target no longer live, it ends with BAD_COMMAND; otherwise MERGE_STEP draws BULK share and writes the step's begin
record, which names its fold range and target; once that record is programmed and the benches have room for the pages
it changes, the step folds every foldable entry of the range in position order and writes the publish record of the
next generation, whose watermark is the end of the range; without room it waits; a step whose target changed under it
rolls back. AUTOMATIC_MERGE starts an internal job where one is due and the BULK backlog has room. The premise on the
ledger's lsn order is LedgerRecordsStayInLsnOrder. (R23, R201, R240, R241, R242, R243, R244, R246) -/
def Obligations.MergeStepsFoldTheStockpile : Prop :=
  ∀ (s : State) (coll : Nat) (c : Coll), collOf s.mod coll = some c →
    (∀ cmd w, mergeCmd s.mod coll = some cmd → cmd.merge = some w →
      let lo := (curGen c).mark
      let hi := stepHi s.mod c w
      let n := (foldable c lo hi).length
      let tg := stepTarget c w n
      let t' := if tg = 256 then (freeSegNo s.mod c).getD 0 else tg
      let there := tg = 256 ∨ (segOf (curGen c) tg).isSome = true
      (w.step = none → ringFull s.mod = false → mergeDone c w tg = true →
        Gives (.mergeStep coll) s fun t => t = finish s.mod cmd { status := 0, info := c.cur }) ∧
      (w.step = none → ringFull s.mod = false → mergeDone c w tg = false → ¬ there ∨ pastLimit s.mod c w n = true →
        Gives (.mergeStep coll) s fun t => t = finish s.mod cmd { status := 0x20, info := badAt 20 0xFFFFFF }) ∧
      (w.step = none → ringFull s.mod = false → mergeDone c w tg = false → there → pastLimit s.mod c w n = false →
        w.repair = true ∨ lo ≠ hi → stepMay s.mod cmd.entry = true → ledgerOrdered s.mod.ledger →
        Gives (.mergeStep coll) s fun t => RecordWritten s.mod t cmd coll 0x20 (.mergeBegin lo hi t' (tg = 256)) ∧ t.colls = s.mod.colls ∧
          cmdOf t cmd.id = some { (drawStep s.mod cmd).2 with
            merge := some { w with step := some (lo, hi, t', s.mod.ledger.next), fresh := tg = 256, rmax := regN s.mod ctlP 0x104 } }) ∧
      (∀ a b k l, w.step = some (a, b, k, l) → w.pub = none → ((recordOf s.mod l).bind (·.prog)).isSome = true → c.pub = none →
        c.cur ≠ 0xFFFFFFFF →
        (∀ sg, segOf (curGen c) k = some sg → w.fresh = false →
          let r := stepSeg s.mod c sg a b w.rmax
          ledgerOrdered s.mod.ledger → Gives (.mergeStep coll) s fun t =>
            match copySeg s.mod c sg r.1 (r.2.1.map (·.2.2)) with
            | none => t = s.mod
            | some q =>
              let p := stepPub c q.1 b r.2.1 r.2.2
              p.gen.no = c.cur + 1 ∧ p.gen.mark = b ∧ p.folded.map (·.1) = (foldable c a b).map (·.pos) ∧
              RecordWritten s.mod t cmd coll 0x20 (.publish p) ∧ shardOf t coll = some { c with pub := some s.mod.ledger.next } ∧
              cmdOf t cmd.id = some { cmd with merge := some { w with pub := some s.mod.ledger.next } }) ∧
        ((segOf (curGen c) k).isSome = w.fresh → Gives (.mergeStep coll) s fun t =>
          cmdOf t cmd.id = some { cmd with merge := some { w with step := none } } ∧ t = { s.mod with cmds := t.cmds }))) ∧
    (autoDue s.mod c = false → Gives (.automaticMerge coll) s fun t => t = s.mod) ∧
    (autoDue s.mod c = true →
      let j := { internalCmd s.mod 0x20 coll c.cur with merge := some (autoJob c) }
      let cost := costOf s.mod j j.entry
      Gives (.automaticMerge coll) s fun t => (bulkRoom s.mod cost = false → t = s.mod) ∧ (bulkRoom s.mod cost = true →
        t.cmds = s.mod.cmds ++ [{ j with cost := cost }] ∧ j.id = s.mod.nextCmd ∧ j.chute = none ∧ j.admitted = true ∧
        opcodeOf j.entry = 0x20 ∧ regN t ctlP 0x110 = min (regN s.mod ctlP 0x110 + 1) 0xFFFFFFFF ∧
        t = { s.mod with
          cmds := t.cmds, nextCmd := s.mod.nextCmd + 1, regs := t.regs
          adm := { s.mod.adm with seq := s.mod.adm.seq + 1, backlog := addCost s.mod.adm.backlog cost, bulk := addCost s.mod.adm.bulk cost } }))

/-- GENERATION_PUBLISH applies every versioning record that was programmed in an earlier tick; a publish that stands alone
makes its generation current. GENERATION_FREED takes out a generation that is not current, not pinned and not held,
and no other; HOLD_EXPIRY frees it once its hold's last tick is past. HISTOGRAM_RECOUNT_END puts the recounted
histogram in place for good. BUILD_CHECKPOINT, when due and with room in bench 2, writes its pages and its record and
names its segment. The premise on the ledger's lsn order is LedgerRecordsStayInLsnOrder. (R168, R251, R258, R261,
R508) -/
def Obligations.GenerationsApplyHoldAndFree : Prop :=
  ∀ (s : State),
    let due (m : Mod) (r : LRec) : Bool := versioning r.redo && !r.applied && (r.prog.any fun p => decide (p < now m))
    (resetting s.mod = true → Gives .generationPublish s fun t => t = s.mod) ∧
    (resetting s.mod = false → ledgerOrdered s.mod.ledger →
      Gives .generationPublish s fun t => t.ledger.records.filter (due t) = [] ∧
        (∀ r p c, s.mod.ledger.records.filter (due s.mod) = [r] → r.redo = .publish p → shardOf s.mod r.coll = some c →
          c.dropped = false →
          ∃ c', shardOf t r.coll = some c' ∧ c'.cur = p.gen.no ∧ c'.pub = none ∧ p.gen ∈ c'.gens ∧ c'.epoch = p.gen.epoch)) ∧
    (∀ coll c h, shardOf s.mod coll = some c → c.recount = some h → Gives (.histogramRecountEnd coll) s fun t =>
      shardOf t coll = some { c with hist := h, recount := none } ∧ t = { s.mod with colls := t.colls, ledger := t.ledger } ∧
      (∀ r ∈ t.ledger.records, ∀ en sg df, r.coll = coll → r.applied = true → r.redo = .schema en sg df true → r.counted = true) ∧
      ∀ i ∈ t.ledger.images, ∀ v, i.coll = coll → i.val = some v → v.recount = none) ∧
    (∀ coll g c x, shardOf s.mod coll = some c → genOf c (BitVec.toNat g) = some x →
      (g.toNat = c.cur ∨ pinned s.mod coll g.toNat = true ∨ heldBy s.mod x = true →
        Gives (.generationFreed coll g) s fun t => t = s.mod) ∧
      (g.toNat ≠ c.cur → pinned s.mod coll g.toNat = false → heldBy s.mod x = false → c.dropped = false →
        Gives (.generationFreed coll g) s fun t => ∃ c', shardOf t coll = some c' ∧ c'.cur = c.cur ∧
          c'.gens = c.gens.filter fun y => y.no != g.toNat) ∧
      (g.toNat ≠ c.cur → pinned s.mod coll g.toNat = false → heldBy s.mod x = false → c.dropped = true →
        (∀ y ∈ c.gens, y.no = g.toNat) → Gives (.generationFreed coll g) s fun t => shardOf t coll = none) ∧
      (∀ h, x.hold = some h → now s.mod ≤ h → Gives (.holdExpiry coll g) s fun t => t = s.mod) ∧
      (∀ h, x.hold = some h → h < now s.mod →
        (∃ t, exec (.holdExpiry coll g) s = .next t ∧ exec (.generationFreed coll g) s = .next t) ∧
        (g.toNat ≠ c.cur → pinned s.mod coll g.toNat = false → c.dropped = false →
          Gives (.holdExpiry coll g) s fun t => ∃ c', shardOf t coll = some c' ∧ c'.gens = c.gens.filter fun y => y.no != g.toNat))) ∧
    (∀ cid c b, cmdOf s.mod cid = some c → c.build = some b →
      (ckptDue s.mod b = false → Gives (.buildCheckpoint cid) s fun t => t = s.mod) ∧
      (ckptDue s.mod b = true → allocPages 2 none (ckptPages b (fld c.entry 40 4)) s.mod = none →
        Gives (.buildCheckpoint cid) s fun t => t = s.mod) ∧
      (∀ q, ckptDue s.mod b = true → allocPages 2 none (ckptPages b (fld c.entry 40 4)) s.mod = some q →
        ledgerOrdered s.mod.ledger → b.seg < 256 → Gives (.buildCheckpoint cid) s fun t =>
        let b' := { b with ckpt := b.count, ckTick := now s.mod, ckpts := q.1, prev := b.ckpts }
        RecordWritten s.mod t c (collId c.entry) 0x21 (.buildCk b' c.entry c.pl) ∧
        cmdOf t cid = some { c with build := some b' } ∧ bits (regN t ctlP 0x120) 0 8 = b.seg ∧ t.colls = s.mod.colls))

/-- WALK_START, with pool room and its turn, builds the distance table of the query and scores the entry set without
counting visits; with no pool room it waits. WALK_EXPANSION of a running walk counts at most one visit per neighbour
and stops at the budget; an uncorrectable read in either ends the search and marks the segment degraded. WALK_END at
the budget, with nothing left to expand, or at the stop tick, which the search's info then shows, hands the walk list
to the riddle; a restarted walk at its stop tick ends the search with DEADLINE; before that it changes nothing. (R133,
R139, R142, R143, R153, R154, R155) -/
def Obligations.WalksTakeTheirSteps : Prop :=
  ∀ (s : State) (cid seg : Nat) (x : WalkCtx), walkCtx s.mod cid seg = some x →
    let p : Page := ⟨x.w.die, .wlk, x.w.inst⟩
    let tb := buildTable x.co.dist x.co.d x.sg.m x.sw.query x.sg.book
    let holds (t : Mod) (sw : SearchW) : Prop := cmdOf t cid = some { x.cmd with search := some sw } ∧
      t = { s.mod with regs := t.regs, cmds := t.cmds }
    let ended (t : Mod) : Prop := cmdOf t cid = none ∧
      ∃ co', shardOf t (collId x.cmd.entry) = some co' ∧ ∀ g ∈ co'.gens, ∀ y ∈ g.segs, y.no = seg → y.degraded = true
    let ended' (t : Mod) (dl : Bool) : Prop := ∃ w sw, holds t sw ∧ w ∈ sw.walks ∧ w.seg = seg ∧ w.st = 2 ∧
      sw.inbox = (arrive x.sw (walkList x.sg x.w)).inbox ∧ sw.dlStop = (x.sw.dlStop || dl) ∧
      regN t p 0x48 = min (regN s.mod p 0x48 + 1) 0xFFFFFFFF
    (inService s.mod (walkerUnit x.w.die x.w.inst) = true →
      (mayStart s.mod x x.w = false → ∀ a, Gives (.walkStart cid ⟨seg, a⟩) s fun t => t = s.mod) ∧
      (mayStart s.mod x x.w = true → Gives (.walkStart cid ⟨seg, none⟩) s fun t =>
        ∃ w sw, holds t sw ∧ w ∈ sw.walks ∧ w.seg = seg ∧ w.st = 1 ∧ w.table = tb.1 ∧ w.scale = tb.2.1 ∧ w.visits = x.w.visits) ∧
      (mayStart s.mod x x.w = true → ∀ a, Gives (.walkStart cid ⟨seg, some a⟩) s ended)) ∧
    (∀ q, x.w.st = 1 → x.w.stop = 0 → x.sg.degraded = false → stopped s.mod x.cmd = false → unitsStall s.mod = false →
      x.w.queue.find? (fun y => !y.done) = some q → x.w.visits ≤ x.w.budget →
      Gives (.walkExpansion cid seg none) s fun t => ∃ w sw, holds t sw ∧ w ∈ sw.walks ∧ w.seg = seg ∧ w.st = 1 ∧
        x.w.visits ≤ w.visits ∧ w.visits ≤ w.budget ∧ w.budget = x.w.budget ∧
        w.visits ≤ x.w.visits + ((x.sg.nodes[q.node]?.map (·.adj)).getD []).length ∧ (w.stop = 1 → w.visits = w.budget) ∧
        regN t p 0x50 = min (regN s.mod p 0x50 + 1) 0xFFFFFFFF ∧
        regN t p 0x4C = min (regN s.mod p 0x4C + (w.visits - x.w.visits)) 0xFFFFFFFF) ∧
    (∀ a, x.w.st = 1 → x.sg.degraded = false → Gives (.walkExpansion cid seg (some a)) s ended) ∧
    (x.w.st = 1 →
      (x.w.stop = 1 ∨ x.w.visits = x.w.budget ∨ (∀ q ∈ x.w.queue, q.done = true) → Gives (.walkEnd cid seg) s fun t => ended' t false) ∧
      (x.w.stop ≠ 1 → x.w.visits ≠ x.w.budget → (∃ q ∈ x.w.queue, q.done = false) →
        (stopped s.mod x.cmd = false → Gives (.walkEnd cid seg) s fun t => t = s.mod) ∧
        (stopped s.mod x.cmd = true → x.w.again = false → Gives (.walkEnd cid seg) s fun t => ended' t true) ∧
        (stopped s.mod x.cmd = true → x.w.again = true → Gives (.walkEnd cid seg) s fun t => t = finish s.mod x.cmd { status := 0x11 })))

/-- For a held list in riddle order with no key twice, and any partial list: the merged list is in riddle order, holds no
key twice, is no longer than its bound, holds only entries of the two lists, admits no entry with a NaN score and no
entry that a continued pass's bound excludes; and where it is shorter than its length, every key of an admitted entry
is in it. (That an entry is kept over its duplicate by score, then generation, then arrival is betterDup.) (R177,
R178, R182, R187) -/
def Obligations.RiddleListsStayOrderedDistinctAndTrimmed : Prop :=
  ∀ (held es : List REnt) (bound : Option Nat) (len : Nat),
    held.Pairwise (fun a b => entLt b a = false) → (held.map (·.key)).Nodup →
    let r := (mergeList held es bound len).1
    let ok (e : REnt) : Prop := Fp.isNan e.score = false ∧ ∀ b, bound = some b → b < orderKey e.score e.key
    r.Pairwise (fun a b => entLt b a = false) ∧ (r.map (·.key)).Nodup ∧ r.length ≤ len ∧
    (∀ e ∈ r, e ∈ held ∨ (e ∈ es ∧ ok e)) ∧
    (r.length < len → ∀ e ∈ es, ok e → ∃ x ∈ r, x.key = e.key ∧ betterDup x e = false) ∧
    (mergeList held es bound len).2.2 = (es.filter fun e => Fp.isNan e.score).length

/-- STOCKPILE_SCAN_PASS on a free drill scores, for the search of its pass before its stop tick, the visible entries of
its slice once, without tombstoned or filtered ones, and hands the list over when every visible entry is met; on a
drill not free it changes nothing; an uncorrectable error ends its searches. FLAT_SCAN_PASS hands each search of its
pass one list of the segment's passing, live nodes. RIDDLE_MERGE merges the first list that waits, but a remote list,
and a stockpile list of a search that re-ranks, are kept for the last merge. RERANK replaces a candidate by its exact
score, or ends the search on an uncorrectable unit that it reads. (R150, R152, R153, R171, R183, R187, R369, R372) -/
def Obligations.ScansAndRerankFeedTheRiddle : Prop :=
  ∀ (s : State) (coll : Nat) (co : Coll), shardOf s.mod coll = some co →
    (∀ st dr sl la hu, drillFree s.mod st dr = false → Gives (.stockpileScanPass coll st dr sl la hu) s fun t => t = s.mod) ∧
    (∀ st dr sl la, drillFree s.mod st dr = true →
      let first := batchOf s.mod coll 1 fun w => w.scan = 1
      let l := ((first.head?.bind (cmdOf s.mod)).bind (·.search)).map fun w => w.k + 16
      let ids := batchOf s.mod coll (passSize co.d (l.getD 0)) fun w => w.scan = 1
      (Gives (.stockpileScanPass coll st dr sl la true) s fun t => ∀ i ∈ ids, cmdOf t i = none) ∧
      ∀ i c w g, ids = [i] → cmdOf s.mod i = some c → c.search = some w → genOf co c.gen = some g → stopped s.mod c = false →
        let vis := visibleStock co g c.admTick
        let mine := sliceStock s.mod co st dr (sl.map (BitVec.ofNat 32))
        let w' := scanSlice co vis w mine
        (∀ e ∈ w'.slist, e ∈ w.slist ∨ ∃ y ∈ vis, e.key = y.key ∧ y.pos ∈ mine ∧ y.pos ∉ w.scanned ∧
          isTomb co (.stock y.pos) = false ∧ e.score = exactScore co.dist w.query (expandVec co.ty y.vec) ∧ e.src = .stock y.pos) ∧
        w'.slist.length ≤ w.k + 16 ∧
        Gives (.stockpileScanPass coll st dr sl la false) s fun t =>
          t = putSearch (addSats s.mod (.drill st dr) (scanSats co vis w mine)) c (if la then scanDone w' vis else w')) ∧
    (∀ i c w g sg seg, flatBatch s.mod coll seg = [i] → cmdOf s.mod i = some c → c.search = some w → genOf co c.gen = some g →
      segOf g seg = some sg → sg.degraded = false → stopped s.mod c = false → unitsStall s.mod = false → homing s.mod sg = false →
      (flatList co sg w).ents.length ≤ listLen w.k w.rr ∧
      (∀ e ∈ (flatList co sg w).ents, ∃ n y, sg.nodes[n]? = some y ∧ e.key = y.key ∧ e.src = .ord (segId sg) n ∧
        filterTest w.enable w.signed w.filter y.attr = true ∧ isTomb co (.ord (segId sg) n) = false) ∧
      Gives (.flatScanPass coll seg false) s fun t => t = putSearch (flatSats (writeTables s.mod co sg [i]) co sg w) c
        (arrive { w with flats := w.flats.filter (· != seg) } (flatList co sg w))) ∧
    (∀ cid c w l ls, cmdOf s.mod cid = some c → c.search = some w → w.inbox = l :: ls → l.kind ≠ 2 → (l.kind = 1 → w.rr = 0) →
      let r := mergeInto s.mod { w with inbox := ls } l (listLen w.k w.rr)
      r.2.held = (mergeList w.held l.ents w.bound (listLen w.k w.rr)).1 ∧ r.2.inbox = ls ∧ r.1 = { s.mod with regs := r.1.regs } ∧
      Gives (.riddleMerge cid) s fun t => t = advance r.1 c r.2) ∧
    (∀ cid c w l ls, cmdOf s.mod cid = some c → c.search = some w → w.inbox = l :: ls → l.kind = 2 ∨ (l.kind = 1 ∧ w.rr ≠ 0) →
      Gives (.riddleMerge cid) s fun t => t = advance s.mod c
        { w with inbox := ls, late := w.late ++ [l], anyFull := w.anyFull || l.full }) ∧
    (∀ cid c w idx e sn n sg, cmdOf s.mod cid = some c → c.search = some w → collId c.entry = coll →
      w.cand.find? (fun y => y.1 = idx) = some (idx, e) → e.src = .ord sn n → (genOf co c.gen).bind (segById · sn) = some sg →
      unitsStall s.mod = false →
      (flashUnits s.mod (vecAddr co sg n) (vecStride co) ≠ [] → Gives (.rerank cid idx .uncorrectable) s fun t => cmdOf t cid = none) ∧
      Gives (.rerank cid idx .ok) s fun t => ∃ m w', m = { s.mod with regs := m.regs, units := m.units, sats := m.sats } ∧
        t = advance m c w' ∧
        w'.cand = w.cand.filter (fun y => y.1 != idx) ∧
        w'.held = (mergeList w.held [{ mkEnt e.key (exactScore co.dist w.query (expandVec co.ty ((sg.nodes[n]?.map (·.vec)).getD [])))
          0x0C#8 e.gen e.src with seq := w.arrived }] w.bound (w.k + 16)).1)

/-- EMISSION of a final list, with the output check open: the entries that the tailings mirror passes, in riddle order, at
most k, then padding to k entries, are written and the command completes with their count, its status and the CRC of
the bytes; it waits while a lease or a drill holds a line of its buffer; an entry whose riddle CRC fails faults the
riddle; while the check is closed nothing happens. SEARCH_STOP_TICK before the stop tick does nothing; at it, the
search finalises from what it holds, or completes with DEADLINE where a restarted walk is unfinished or the check
engines restart. STOP_TICK completes the other reads with DEADLINE. (R49, R54, R73, R86, R108, R109, R154, R155, R184,
R566, R568) -/
def Obligations.EmissionChecksAndStopTicksFinalise : Prop :=
  ∀ (s : State) (cid : Nat) (c : Cmd), cmdOf s.mod cid = some c →
    (∀ w, c.search = some w → w.stage = 3 → s.mod.saf.engines = none →
      (s.mod.saf.closed = true → Gives (.emission cid) s fun t => t = s.mod) ∧
      (s.mod.saf.closed = false → (∃ e ∈ w.held, e.crc ≠ entCrc e.key e.score e.flags e.gen e.src) →
        Gives (.emission cid) s fun t => t = unitFaultOp s.mod (.page (riddlePage w)) 0x0B (c.chute.getD 0)) ∧
      (s.mod.saf.closed = false → (∀ e ∈ w.held, e.crc = entCrc e.key e.score e.flags e.gen e.src) → c.origin = none →
        outReady s.mod (fld c.entry 24 8) (16 * w.k) = false →
        Gives (.emission cid) s fun t => t = outClaim s.mod (fld c.entry 24 8) (16 * w.k)) ∧
      (s.mod.saf.closed = false → (∀ e ∈ w.held, e.crc = entCrc e.key e.score e.flags e.gen e.src) → c.origin = none →
        outReady s.mod (fld c.entry 24 8) (16 * w.k) = true → isHomeSearch c = false →
        let es := (w.held.filter fun e => mirrorClear s.mod (collId c.entry) e.src).take w.k
        let out := resultBytes c.gen w.k es
        let st := searchStatus c w.k es.length
        out.length = 16 * w.k ∧
        Gives (.emission cid) s fun t => ∃ m, m = { s.mod with regs := m.regs, pwr := { s.mod.pwr with queries := s.mod.pwr.queries + 1 } } ∧
          t = finish (writePtr m (fld c.entry 24 8) out) c
            { status := st, info := searchInfo c w, count := es.length, crc := (crc32c out).toNat, short := st = 1 && w.anyFull })) ∧
    (∀ w, c.search = some w → (stopped s.mod c = false → Gives (.searchStopTick cid) s fun t => t = s.mod) ∧
      (stopped s.mod c = true → w.stage = 3 → Gives (.searchStopTick cid) s fun t =>
        t = if s.mod.saf.engines.isSome then finish s.mod c { status := 0x11 } else s.mod) ∧
      (stopped s.mod c = true → w.stage ≠ 3 → w.waitFor = [] →
        ((∃ y ∈ w.walks, y.again = true ∧ y.st ≠ 2) → Gives (.searchStopTick cid) s fun t => t = finish s.mod c { status := 0x11 }) ∧
        ((∀ y ∈ w.walks, y.again = true → y.st = 2) → Gives (.searchStopTick cid) s fun t => ∃ w',
          cmdOf t cid = some { c with search := some w' } ∧ w'.stage = 3 ∧ w'.dlStop = true ∧ w'.cand = [] ∧ w'.inbox = [] ∧ w'.late = [] ∧
          w'.flats = [] ∧ w'.scan = 2 ∧ (∀ y ∈ w'.walks, y.st = 2) ∧ w'.held.length ≤ w.k + 16 ∧
          t = { s.mod with regs := t.regs, cmds := t.cmds }))) ∧
    (stopped s.mod c = false → Gives (.stopTick cid) s fun t => t = s.mod) ∧
    (c.admitted = true → stopped s.mod c = true →
      (opcodeOf c.entry = 0x03 ∨ opcodeOf c.entry = 0x30 → Gives (.stopTick cid) s fun t => t = finish s.mod c { status := 0x11 }) ∧
      (opcodeOf c.entry = 0x13 → Gives (.stopTick cid) s fun t => t = embedFail s.mod c 0x11 0) ∧
      (opcodeOf c.entry = 0x40 ∨ opcodeOf c.entry = 0x41 → Gives (.stopTick cid) s fun t => t = cmdStop s.mod c.id 0xF3 0x11 0))

/-- DOCUMENT_ENTER_SLOT for the document whose turn it is: one too large for the cache ends its command with BAD_COMMAND
and its index, one for which the cache area has no room is counted once in CTL_KV_WAITS, and else a free slot is taken
with its cache pages, spread over the stacks. CHUNK_ENCODE advances a slot by one chunk while one is left and every
partial is folded; a first tag mismatch encodes the chunk again, a second ends the command. ATTENTION_PARTIAL adds a
drill's partial over the cached tokens in its slice, nothing where it has none, or ends the command on an
uncorrectable error; PARTIAL_FOLD folds a query row's oldest partial, or the face's own, and the last one gives the
row's output O / L; DOCUMENT_COMPLETE frees the slot and stores the vector, or ends the command where the vector is
not valid. (R117, R284, R285, R286, R287, R288, R289, R320, R374, R375) -/
def Obligations.DocumentsPassThroughSlots : Prop :=
  ∀ (s : State),
    (∀ cid i c w p, cmdOf s.mod cid = some c → c.embed = some w → pkgOf s.mod c (embedPkg c.entry) = some p → i ∈ w.waiting →
      firstDoc s.mod c i = true →
      let n := docTokens c i
      let k := kvPages p.pkg n
      (textDocs c.entry = true → 2097152 < n ∨ kvTooBig s.mod p.pkg n = true →
        Gives (.documentEnterSlot cid i) s fun t => t = embedFail s.mod c 0x20 (badAt 16 i)) ∧
      (n ≤ 2097152 → kvTooBig s.mod p.pkg n = false → s.mod.slots.length < 8 →
        (kvLimit s.mod < (kvUsed s.mod + k) * pageSize → i ∉ w.waited → Gives (.documentEnterSlot cid i) s fun t =>
          regN t ctlP 0x14C = min (regN s.mod ctlP 0x14C + 1) 0xFFFFFFFF ∧
          cmdOf t cid = some { c with embed := some { w with waited := i :: w.waited } } ∧
          t = { s.mod with cmds := t.cmds, regs := t.regs }) ∧
        (∀ r, (kvUsed s.mod + k) * pageSize ≤ kvLimit s.mod → reservePages k 0 s.mod = some r →
          Gives (.documentEnterSlot cid i) s fun t => (∃ x, t.slots = s.mod.slots ++ [x] ∧ x.cmd = cid ∧ x.doc = i ∧ x.pages = r.1 ∧
            x.pages.length = k ∧ x.chunk = 0 ∧ x.tokens = n ∧ x.parts = [] ∧ x.no < 8 ∧ ∀ y ∈ s.mod.slots, y.no ≠ x.no) ∧
            cmdOf t cid = some { c with embed := some { w with waiting := w.waiting.filter (· != i), active := w.active ++ [i] } } ∧
            t = { s.mod with cmds := t.cmds, mem := t.mem, slots := t.slots }))) ∧
    (∀ no x p, slotOf s.mod no = some x → slotPkg s.mod x = some p →
      (∀ h, chunksOf p x.tokens ≤ x.chunk ∨ x.parts ≠ [] → Gives (.chunkEncode ⟨no, h⟩) s fun t => t = s.mod) ∧
      (x.chunk < chunksOf p x.tokens → x.parts = [] →
        (Gives (.chunkEncode ⟨no, .clean⟩) s fun t =>
          slotOf t no = some { x with chunk := x.chunk + 1, skews := 0, parts := [], state := [], outs := [] }) ∧
        ∀ c, cmdOf s.mod x.cmd = some c →
          (Gives (.chunkEncode ⟨no, .hurt⟩) s fun t => t = embedFail s.mod c 0x30 0) ∧
          ∀ f want got gr, (x.skews = 0 → Gives (.chunkEncode ⟨no, .skew f want got gr⟩) s fun t =>
              slotOf t no = some { x with skews := 1 } ∧ t.mem = s.mod.mem ∧ t.cmds = s.mod.cmds) ∧
            (x.skews ≠ 0 → Gives (.chunkEncode ⟨no, .skew f want got gr⟩) s fun t =>
              t = embedFail (skewSeen s.mod f true want got gr) c 0x31 0)) ∧
      (∀ st dr ly hd rw qv, rowOk p x ⟨ly, hd, rw⟩ = true → unitsStall s.mod = false →
        let q : QRow := ⟨ly, hd, rw⟩
        let mine := (cachedTokens p x).filter fun k => tokenBy s.mod p x k = some (st, dr)
        (mine = [] → ∀ h, Gives (.attentionPartial no st dr ly ⟨hd, rw⟩ qv h) s fun t => t = s.mod) ∧
        (mine ≠ [] → drillServes s.mod (st, dr) = true → (∀ y ∈ x.parts, ¬ (y.q = q ∧ y.from' = some (st, dr))) →
          (∀ y ∈ x.state, y.q = q → some (st, dr) ∉ y.taken) →
          let r := partialOver p.pkg.enc.attnScale qv (mine.map (tokenKv s.mod x p.pkg.enc.kvBytes q))
          (Gives (.attentionPartial no st dr ly ⟨hd, rw⟩ qv .clean) s fun t => t = { s.mod with slots := t.slots } ∧
            slotOf t no = some { x with parts := x.parts ++ [⟨q, some (st, dr), r.1, r.2.1, r.2.2⟩] }) ∧
          ∀ c, cmdOf s.mod x.cmd = some c → Gives (.attentionPartial no st dr ly ⟨hd, rw⟩ qv .hurt) s fun t => t = embedFail s.mod c 0x30 0)) ∧
      (∀ ly hd rw own y, rowOk p x ⟨ly, hd, rw⟩ = true →
        let q : QRow := ⟨ly, hd, rw⟩
        let st := stateOf x q
        (match own with
          | some qv => none ∉ st.taken ∧ y = ownPartial s.mod p x q qv
          | none => x.parts.find? (fun z => z.q = q) = some y) →
        Gives (.partialFold no ly ⟨hd, rw⟩ own) s fun t => t = { s.mod with slots := t.slots } ∧
          ∃ z, slotOf t no = some z ∧ z.parts = x.parts.erase y ∧ z.chunk = x.chunk ∧
            (let r := fold1 (st.m, st.l, st.o) (y.m, y.l, y.o)
             stateOf z q = ⟨q, y.from' :: st.taken, r.1, r.2.1, r.2.2⟩ ∧
             ((∀ k ∈ none :: (attnDrills s.mod p x).map some, k ∈ y.from' :: st.taken) →
               (q, r.2.2.map fun v => Fp.fdiv v r.2.1) ∈ z.outs))) ∧
      (∀ c w, cmdOf s.mod x.cmd = some c → c.embed = some w → chunksOf p x.tokens ≤ x.chunk → x.parts = [] →
        let v := pooled p x.tokens s.mod.draws
        (vecBad true 0 0 v = true → Gives (.documentComplete no) s fun t => cmdOf t x.cmd = none ∧ slotOf t no = none) ∧
        (vecBad true 0 0 v = false → opcodeOf c.entry = 0x13 → Gives (.documentComplete no) s fun t => slotOf t no = none ∧
          (let w' : EmbedW := { w with active := w.active.filter (· != x.doc), vecs := w.vecs ++ [(x.doc, v)] }
           cmdOf t x.cmd = some { c with docsDone := c.docsDone + 1, embed := some w' }) ∧
          regN t ctlP 0x150 = min (regN s.mod ctlP 0x150 + 1) 0xFFFFFFFF)))

/-- RECORD_ENTER_RING keeps the unprogrammed bytes within 8 MiB and every record's lsn; GROUP_CLOSE sends the open group
to a healthy pair of channels; GROUP_PROGRAM_FAIL sends it to another; GROUP_PROGRAMMED counts exactly the records
whose last group and every earlier one are programmed, completes an insert whose record is among them, and leaves
every command whose record is not; IMAGE_REFRESH, where BULK credit lets it, brings a shard's image, or those of the
table pages, to the last programmed record. The premise on the ledger's lsn order is LedgerRecordsStayInLsnOrder.
(R88, R445, R446, R513, R514, R515, R517, R541) -/
def Obligations.LedgerGroupsCarryRecordsToFlash : Prop :=
  ∀ (s : State),
    let healthy (c : Nat) : Prop := c < 32 ∧ c ∉ badChannels s.mod ∧ (c + 16) % 32 ∉ badChannels s.mod
    (Gives .recordEnterRing s fun t => t.ledger.records.map (·.lsn) = s.mod.ledger.records.map (·.lsn) ∧
      (unprogBytes s.mod.ledger ≤ ringMax → unprogBytes t.ledger ≤ ringMax) ∧ t = { s.mod with ledger := t.ledger }) ∧
    (s.mod.ledger.openG = none → Gives .groupClose s fun t => t = s.mod) ∧
    (∀ g, s.mod.ledger.openG = some g → Gives .groupClose s fun t => t.ledger.openG = none ∧
      (∃ x, t.ledger.groups = s.mod.ledger.groups ++ [x] ∧ x.no = g.no ∧ x.first = g.first ∧ x.count = g.count ∧ x.size = g.size ∧
        x.sent = true ∧ x.mark = releaseMark s.mod ∧ x.tick = now s.mod ∧ ((∃ c, healthy c) → healthy x.ch)) ∧
      t.ledger.records = s.mod.ledger.records ∧ t = { s.mod with ledger := t.ledger }) ∧
    (∀ g, Gives (.groupProgramFail g) s fun t => t.ledger.records = s.mod.ledger.records ∧
      t.ledger.groups.map (fun x => (x.no, x.prog)) = s.mod.ledger.groups.map (fun x => (x.no, x.prog)) ∧
      ((∃ c, healthy c) → ∀ x ∈ t.ledger.groups, x.no = g → x.sent = true → x.prog = false → healthy x.ch) ∧
      t = { s.mod with ledger := t.ledger }) ∧
    (∀ g, ledgerOrdered s.mod.ledger → (s.mod.ledger.groups.any fun x => x.no = g && x.sent && !x.prog) = true →
      let gs := s.mod.ledger.groups.map fun x => if x.no = g then { x with prog := true } else x
      let ready (r : LRec) : Prop := r.prog = none ∧ ∃ k, r.group = some k ∧ k < progPrefix { s.mod.ledger with groups := gs }
      Gives (.groupProgrammed g) s fun t => regN t ldgP 0x50 = min (regN s.mod ldgP 0x50 + 1) 0xFFFFFFFF ∧
        (∀ r ∈ s.mod.ledger.records, ready r → ∃ x ∈ t.ledger.records, x.lsn = r.lsn ∧ x.prog = some (now s.mod)) ∧
        (∀ r ∈ s.mod.ledger.records, ¬ ready r → ∃ x ∈ t.ledger.records, x.lsn = r.lsn ∧ x.prog = r.prog) ∧
        (∀ r es old gn c, r ∈ s.mod.ledger.records → ready r → r.redo = .insert es old gn → r.cmd = some c.id → cmdOf s.mod c.id = some c →
          c.lsn = some r.lsn → cmdOf t c.id = none) ∧
        ∀ c l, cmdOf s.mod c.id = some c → c.merge = none → c.lsn = some l →
          (∀ r ∈ s.mod.ledger.records, r.lsn = l → ¬ ready r) → cmdOf t c.id = some c) ∧
    (∀ coll, resetting s.mod = true ∨ s.mod.ledger.last ≤ (imageOf s.mod.ledger coll).lsn ∨ bulkMay s.mod 0#512 = false →
      Gives (.imageRefresh coll) s fun t => t = s.mod) ∧
    (∀ coll, resetting s.mod = false → (imageOf s.mod.ledger coll).lsn < s.mod.ledger.last → bulkMay s.mod 0#512 = true →
      (coll = 0 → Gives (.imageRefresh 0) s fun t => imageOf t.ledger 0 = ⟨0, s.mod.ledger.last, none⟩ ∧ ReadsSame s.mod t ∧
        t.mem.map = s.mod.mem.map ∧ t.colls = s.mod.colls) ∧
      (coll ≠ 0 → (shardOf s.mod coll).isSome = true →
        Gives (.imageRefresh coll) s fun t => imageOf t.ledger coll = ⟨coll, s.mod.ledger.last, shardFrom s.mod.ledger coll⟩ ∧
          (∀ k, k ≠ coll → imageOf t.ledger k = imageOf s.mod.ledger k) ∧ t = { s.mod with ledger := t.ledger, pwr := t.pwr, adm := t.adm }))

/-- HAUL_COPY copies the next run of granules in ascending order and changes no byte, and leaves the bandwidth to a move
whose reason stands higher; on an uncorrectable granule it abandons the move. HAUL_SWITCH, and TABLE_PAGE_SWITCH for a
page that takes adds, flips the page to its destination in bench 0 or bench 1: where copy and log are the page's
contents (moveSound), every byte of device memory reads as before. HAUL_RELEASE waits for the commands admitted before
the switch. DEMOTION and HOT_PAGE_WINDOW propose moves of pages that may move, the latter under the GTH_HOT_CFG of its
window, and takes the next. (R342, R345, R423, R432, R433, R434, R435, R436) -/
def Obligations.PageMovesKeepEveryByte : Prop :=
  ∀ (s : State) (pg : Nat),
    (∀ v, moveOf s.mod pg = some v → v.ended = none → yields s.mod v = true → ∀ e, Gives (.haulCopy pg e) s fun t => t = s.mod) ∧
    (∀ v, moveOf s.mod pg = some v → v.ended = none → yields s.mod v = false →
      let k := min copyRun (2048 - v.copied)
      let at' (i : Nat) : Nat := pg * pageSize + (v.copied + i) * 32
      leaseHeld s.mod (at' 0) (k * 32) = false →
      ((∀ i, i < k → eccAt s.mod (at' i) .ok = .ok) → eccAt s.mod (at' 0) .ok = .ok → Gives (.haulCopy pg .ok) s fun t => ReadsSame s.mod t ∧
        moveOf t pg = some { v with copied := v.copied + k, dest := v.dest ++ (List.range k).map (fun i => (v.copied + i, readGran s.mod (at' i))),
                                    ended := (if v.copied + k = 2048 then some (now s.mod) else none) } ∧
        t = { s.mod with mem := { s.mod.mem with moves := t.mem.moves }, regs := t.regs }) ∧
      (v.reason ≠ 1 → 0 < k → Gives (.haulCopy pg .uncorrectable) s fun t => moveOf t pg = none ∧ t.mem.map = s.mod.mem.map ∧
        ReadsSame s.mod t)) ∧
    (∀ v e, moveOf s.mod pg = some v → pageEnt s.mod pg = some e → moveSound s.mod v → cleanMove s.mod v e = false →
      maySwitch s.mod v e = true → v.bench < 2 →
      (v.table = false → Gives (.haulSwitch pg) s fun t => ReadsSame s.mod t ∧ pageEnt t pg = some { e with bench := v.bench, loc := v.loc } ∧
        (∀ q, q ≠ pg → pageEnt t q = pageEnt s.mod q) ∧ moveOf t pg = none ∧
        regN t hauP 0x60 = min (regN s.mod hauP 0x60 + 1) 0xFFFFFFFF) ∧
      (v.table = true → Gives (.tablePageSwitch pg) s fun t => ReadsSame s.mod t ∧
        pageEnt t pg = some { e with bench := v.bench, loc := v.loc } ∧ (∀ q, q ≠ pg → pageEnt t q = pageEnt s.mod q) ∧ moveOf t pg = none)) ∧
    (∀ v e, moveOf s.mod pg = some v → pageEnt s.mod pg = some e → maySwitch s.mod v e = false →
      Gives (.haulSwitch pg) s fun t => t = s.mod) ∧
    (∀ v, s.mod.mem.moves.find? (fun x => x.page = pg && x.done) = some v → v.table = false → inHostWin (pg * pageSize) = false →
      ((∃ c ∈ s.mod.cmds, c.admitted = true ∧ c.admTick < v.switch) → Gives (.haulRelease pg) s fun t => t = s.mod) ∧
      ((∀ c ∈ s.mod.cmds, c.admitted = true → v.switch ≤ c.admTick) → locFrame v.srcL ∉ (stackOf s.mod (locStack v.srcL)).retiring →
        Gives (.haulRelease pg) s fun t => t.mem.moves = s.mod.mem.moves.filter (fun x => !(x.page = pg && x.done)) ∧
          t = { s.mod with mem := { s.mod.mem with moves := t.mem.moves } })) ∧
    (bitAt (regN s.mod hauP 0x40) 0 = false → Gives .demotion s fun t => t = s.mod) ∧
    (∀ e l, bitAt (regN s.mod hauP 0x40) 0 = true →
      freeB1 s.mod * 100 < bits (regN s.mod hauP 0x40) 16 8 * total ((List.range 8).map (stackFrames s.mod)) →
      coldest s.mod = some e → pickLoc s.mod 2 none = some l → moveRoom s.mod e = true →
      mayMove s.mod e 6 = true ∧ e.bench = 1 ∧ Gives .demotion s fun t =>
        t.mem.moves = s.mod.mem.moves ++ [newMove e 6 2 l (isTablePage s.mod e.page) none] ∧
        t = { s.mod with mem := { s.mod.mem with moves := t.mem.moves, draws := s.mod.mem.draws + 1 } }) ∧
    ∀ die, Gives (.hotPageWindow die) s fun t => ReadsSame s.mod t ∧
      (∀ e ∈ t.mem.map, isTablePage t e.page = true → e.bench ≠ 2 → locDie e.bench e.loc = die → e.count = 0) ∧
      (∀ v ∈ t.mem.moves, v ∈ s.mod.mem.moves ∨ (v.reason = 5 ∧ v.bench = 0 ∧ v.table = true ∧
        ∃ e, pageEnt s.mod v.page = some e ∧ bits (s.mod.mem.hotCfg.getD die 0#32).toNat 16 8 * 1024 ≤ e.count)) ∧
      t = { s.mod with mem := { s.mod.mem with
        map := t.mem.map, moves := t.mem.moves, draws := t.mem.draws
        hotCfg := s.mod.mem.hotCfg.set die (getReg s.mod ⟨die, .gth, 0⟩ 0x40) } }

/-- ROW_REMAP of a failed row gives it the lowest free spare of its bank, counts it and writes the stack's fault record; a
row that has not failed, or that others of its tick precede, is left alone; with no spare free its frame enters
RETIRING. FRAME_RETIREMENT moves the frame's page away where another bank group has room, retires a pinned page with
its frame, and takes an empty frame out of service with its fault record; a base die's report of an uncorrectable
pattern marks the pseudo-channel. PATROL_SCRUB counts what it finds where scrubbing is on, and does nothing where it
is off. The premise on the ledger's lsn order is LedgerRecordsStayInLsnOrder. (R407, R409, R410, R412, R413, R414,
R415, R416, R418) -/
def Obligations.FailingRowsAndFramesAreReplaced : Prop :=
  ∀ (s : State) (k : Nat), k < s.mod.hbm.length →
    let ks := stackOf s.mod k
    (∀ pc bank row, (rowRec ks pc bank row).failed = false → Gives (.rowRemap k pc bank row) s fun t => t = s.mod) ∧
    (∀ pc bank row, earlierRow s.mod k (rowRec ks pc bank row) = true → Gives (.rowRemap k pc bank row) s fun t => t = s.mod) ∧
    (∀ pc bank row x, earlierRow s.mod k (rowRec ks pc bank row) = false → (rowRec ks pc bank row).failed = true → (rowRec ks pc bank row).spare = none → freeSpare ks pc bank = some x →
      ledgerOrdered s.mod.ledger → Gives (.rowRemap k pc bank row) s fun t => FaultWritten s.mod t k (.spare pc bank row x) ∧
        rowRec (stackOf t k) pc bank row = { rowRec ks pc bank row with spare := some x, ce := 0, seen := [], failed := false } ∧
        regN t (hbmP k) 0x68 = min (regN s.mod (hbmP k) 0x68 + 1) 0xFFFFFFFF ∧ ReadsSame s.mod t) ∧
    (∀ pc bank row, earlierRow s.mod k (rowRec ks pc bank row) = false → (rowRec ks pc bank row).failed = true →
      (rowRec ks pc bank row).spare = none → freeSpare ks pc bank = none →
      Gives (.rowRemap k pc bank row) s fun t => rowFrame pc bank row ∈ (stackOf t k).retiring ++ (stackOf t k).retired ∧
        (rowRec (stackOf t k) pc bank row).failed = false) ∧
    (∀ f, f ∉ ks.retiring → Gives (.frameRetirement k ⟨f, false⟩) s fun t => t = s.mod) ∧
    (∀ f, f ∈ ks.retiring → s.mod.mem.map.find? (fun e => e.bench = 1 && e.loc = k * 2 ^ 21 + f) = none → ledgerOrdered s.mod.ledger →
      Gives (.frameRetirement k ⟨f, false⟩) s fun t => f ∈ (stackOf t k).retired ∧ f ∉ (stackOf t k).retiring ∧
        (∃ r ∈ t.ledger.records, r.lsn = s.mod.ledger.next ∧ r.redo = .fault k (.retire f)) ∧ ReadsSame s.mod t) ∧
    (∀ f e, f ∈ ks.retiring → s.mod.mem.map.find? (fun e => e.bench = 1 && e.loc = k * 2 ^ 21 + f) = some e → e.ring = false →
      inRunRegion s.mod e.page = false → moveOf s.mod e.page = none →
      (e.pin = true ∨ otherGroup s.mod k f = none → Gives (.frameRetirement k ⟨f, false⟩) s fun t => e.page ∈ t.mem.retiredPg ∧
        f ∈ (stackOf t k).retired) ∧
      (∀ l, e.pin = false → otherGroup s.mod k f = some l → moveRoom s.mod e = true → Gives (.frameRetirement k ⟨f, false⟩) s fun t =>
        t.mem.moves = s.mod.mem.moves ++ [newMove e 1 1 l (isTablePage s.mod e.page) none] ∧ t.hbm = s.mod.hbm ∧ ReadsSame s.mod t)) ∧
    (∀ f, f ∉ ks.retiring → Gives (.frameRetirement k ⟨f, true⟩) s fun t => framePc f ∈ (stackOf t k).pattern ∧
      framePc f ∈ (stackOf t k).marked) ∧
    (∀ f g e, bitAt (regN s.mod (hbmP k) 0x40) 0 = false → Gives (.patrolScrub k f g e) s fun t => t = s.mod) ∧
    (∀ f g, bitAt (regN s.mod (hbmP k) 0x40) 0 = true → f < framesPerStack → g < 2048 →
      (∀ x ∈ s.mod.mem.map, ¬ (x.bench = 1 ∧ x.loc = k * 2 ^ 21 + f)) →
      (Gives (.patrolScrub k f g .ok) s fun t => t = s.mod) ∧
      (Gives (.patrolScrub k f g .corrected) s fun t => regN t (hbmP k) 0x60 = min (regN s.mod (hbmP k) 0x60 + 1) 0xFFFFFFFF ∧
        (rowRec (stackOf t k) (framePc f) (granBank f g) (granRow f g)).ce = (rowRec ks (framePc f) (granBank f g) (granRow f g)).ce + 1) ∧
      (Gives (.patrolScrub k f g .uncorrectable) s fun t => regN t (hbmP k) 0x64 = min (regN s.mod (hbmP k) 0x64 + 1) 0xFFFFFFFF ∧
        (rowRec (stackOf t k) (framePc f) (granBank f g) (granRow f g)).failed = true))

/-- WRITE_BUFFER_PROGRAM merges the oldest entry of a unit into flash and no byte of memory reads differently.
FLASH_BLOCK_FAILURE takes a spare block or makes the channel read-only; FLASH_CHANNEL_FAILURE fails the channel and
moves module pages only to channels that take pages. PAGE_REBUILD clears a page's uncorrectable granules where it has
an image, which a page still clean takes its bytes from; a unit of a parity group that cannot be read is rebuilt from
the rest. HAU_FREE frees a page that nothing uses, or marks it. SECTOR_ADD applies the stack's first add whose granule
no running program owns, and KSPLIT_ACCEPT takes a tile whole or not at all, once for each contributor. (R89, R276,
R278, R365, R366, R422, R428, R442, R447, R449, R451, R452) -/
def Obligations.FlashBuffersAndAddsTakeEffect : Prop :=
  ∀ (s : State),
    (∀ u w, s.mod.mem.wb.find? (fun x => x.unit = u) = some w → wbSound s.mod.mem.wb → Gives (.writeBufferProgram u) s fun t =>
      ReadsSame s.mod t ∧ t.mem.wb = s.mod.mem.wb.filter (fun x => x.seq != w.seq) ∧ t.mem.cells = s.mod.mem.cells) ∧
    (∀ ch, ch < 32 → s.mod.mem.channels.length = 32 → (chanOf s.mod ch).st < 2 → ∀ wear, Gives (.flashBlockFailure ⟨ch, wear⟩) s fun t =>
      let c := chanOf s.mod ch
      let spent := min (c.spare + 1) Config.spareBlocks
      chanOf t ch = { c with wear := max c.wear wear, bad := c.bad + 1, spare := spent, st := (if Config.spareBlocks ≤ spent then 2 else c.st) } ∧
      (∀ k, k ≠ ch → chanOf t k = chanOf s.mod k) ∧ ReadsSame s.mod t) ∧
    (∀ ch, ch < 32 → s.mod.mem.channels.length = 32 → (chanOf s.mod ch).st ≠ 3 → Gives (.flashChannelFailure ch) s fun t =>
      chanOf t ch = { chanOf s.mod ch with st := 3 } ∧ (∀ k, k ≠ ch → chanOf t k = chanOf s.mod k) ∧
      ∀ e ∈ t.mem.map, ∃ x ∈ s.mod.mem.map, e = { x with loc := e.loc } ∧ (e.loc = x.loc ∨ (chanOf t e.loc).st < 2)) ∧
    (∀ pg e x, pageEnt s.mod pg = some e → e.bench = 1 → imgOf s.mod pg = some x → x.units.length = 16 →
      (∀ p ∈ s.mod.pkgs, pg ∉ p.pages) → (∀ a ∈ s.mod.mem.ue, a % 32 = 0) →
      Gives (.pageRebuild pg ⟨none, []⟩) s fun t => (∀ a ∈ t.mem.ue, a ∈ s.mod.mem.ue ∧ pageNo a ≠ pg) ∧
        (∀ a, pageNo a ≠ pg → readByte t a = readByte s.mod a) ∧
        (e.image = true → ∀ a ∈ s.mod.mem.ue, pageNo a = pg → imageGran s.mod [] pg (a % pageSize / 32) = some (readGran t a)) ∧
        t = { s.mod with mem := { s.mod.mem with ue := t.mem.ue, cells := t.mem.cells } }) ∧
    (∀ pgs pg u, pgs.Nodup → pg ∈ pgs → (∀ p ∈ pgs, p < s.mod.mem.nextPage) → u < 16 →
      let t := imageGroup s.mod pgs
      imageUnit t [] pg u = some (pageUnit s.mod (pg * 16 + u)) ∧ imageUnit t [(pg, u)] pg u = some (pageUnit s.mod (pg * 16 + u))) ∧
    (∀ (ix : BitVec 28) e, pageEnt s.mod (pageNo hostBase + ix.toNat) = some e →
      let pg := pageNo hostBase + ix.toNat
      (e.ring = true ∨ namedByCmd s.mod pg = true ∨ inRunRegion s.mod pg = true → Gives (.hauFree ix) s fun t =>
        pg ∈ t.mem.freeing ∧ t = { s.mod with mem := { s.mod.mem with freeing := t.mem.freeing } }) ∧
      (e.ring = false → namedByCmd s.mod pg = false → inRunRegion s.mod pg = false → Gives (.hauFree ix) s fun t =>
        pageEnt t pg = none ∧ (∀ q, q ≠ pg → pageEnt t q = pageEnt s.mod q) ∧ ∀ a, pageNo a = pg → readByte t a = 0#8)) ∧
    (∀ st, (∀ x ∈ s.mod.svc, x.stack = st → (ownerOf s.mod x.addr).isSome = true) → Gives (.sectorAdd st .ok) s fun t => t = s.mod) ∧
    (∀ st x, s.mod.svc.find? (fun y => y.stack = st && (ownerOf s.mod y.addr).isNone) = some x → eccAt s.mod x.addr .ok = .ok → x.cmd = none → unitsStall s.mod = false →
      (Gives (.sectorAdd st .ok) s fun t => t.svc = s.mod.svc.erase x ∧ t = bump (ksAdd { s.mod with svc := s.mod.svc.erase x } x) (drlP st) 0xCC) ∧
      Gives (.sectorAdd st .uncorrectable) s fun t => t.svc = s.mod.svc.erase x ∧ ReadsSame s.mod t) ∧
    (∀ f d k tile, f < 128 → ksBad s.mod d = false → k < ksCount s.mod d →
      let adds := tileAdds s.mod (ksTarget s.mod d) tile ((faceOf s.mod f).bind (·.cmd))
      (ksRoom s.mod adds = false → Gives (.ksplitAccept f d k tile) s fun t => t = s.mod) ∧
      (ksRoom s.mod adds = true → bitAt (ksBitmap s.mod d) k = true →
        Gives (.ksplitAccept f d k tile) s fun t => t = bump s.mod (facP f) 0x60) ∧
      (ksRoom s.mod adds = true → bitAt (ksBitmap s.mod d) k = false → (∀ a ∈ adds, a.stack < 8) →
        Gives (.ksplitAccept f d k tile) s fun t =>
          t = { writeBytes s.mod (d + 16) (toBytes (ksBitmap s.mod d + 2 ^ k) 128) with svc := s.mod.svc ++ adds }))

/-- REGISTER_WRITE: an offset with no register, and a read-only register, change nothing; a plain read-write register with
a field out of range changes nothing, else takes the written bits of its mask, no other register changing, and under
the lock keeps its locked bits and takes the others, which is counted. RC_READ returns the count before this tick's
increments and leaves those. LO_READ latches the partner that the reader's next read returns. WLK_CFG_WRITE sets
dl_margin on all 64 pages. BLK_ERR_LOG_LO_READ latches the record for its reader. Event writes and rises send the
page's Evt where host_en is 1. TCK_RESET requests a reset for its code alone; LDG_REPLAY_ACK frees the report. (R6,
R7, R8, R9, R10, R158, R522, R528, R623, R624, R628, R633) -/
def Obligations.RegistersFollowTheirAccessCodes : Prop :=
  ∀ (s : State),
    (∀ off v, pageAt (BitVec.toNat off) = none → Gives (.registerWrite off v) s fun t => t = s.mod) ∧
    (∀ off v p r, pageAt (BitVec.toNat off) = some (p, r) → r ∉ [0x0C, 0x14, 0x18] → specialWrite s.mod p r v = none →
      (rowAt p r = none → Gives (.registerWrite off v) s fun t => t = s.mod) ∧
      ∀ w, rowAt p r = some w → (w.acc = .ro → Gives (.registerWrite off v) s fun t => t = s.mod) ∧
        (w.acc = .rw ∨ w.acc = .rwl → fieldsOk p r v.toNat = false → Gives (.registerWrite off v) s fun t => t = s.mod) ∧
        (w.acc = .rw ∨ w.acc = .rwl → fieldsOk p r v.toNat = true → s.mod.sec.locked = false ∨ lockMask p r = 0 →
          Gives (.registerWrite off v) s fun t => getReg t p r = v &&& BitVec.ofNat 32 w.mask ∧
            (∀ q k, pageBase q + k ≠ pageBase p + r → getReg t q k = getReg s.mod q k) ∧ t = { s.mod with regs := t.regs }) ∧
        (w.acc = .rw ∨ w.acc = .rwl → fieldsOk p r v.toNat = true → s.mod.sec.locked = true → lockMask p r ≠ 0 →
          Gives (.registerWrite off v) s fun t =>
            (let lk := BitVec.ofNat 32 (lockMask p r)
             getReg t p r = (v &&& BitVec.ofNat 32 w.mask &&& ~~~ lk) ||| (getReg s.mod p r &&& lk)) ∧
            regN t secP 0x48 = min (regN s.mod secP 0x48 + 1) 0xFFFFFFFF)) ∧
    (∀ off p r w who, pageAt (BitVec.toNat off) = some (p, r) → rowAt p r = some w → w.acc = .rc →
      (Gives (.rcRead ⟨off, who⟩) s fun t => regN t p r = min (upNow s.mod p r) 0xFFFFFFFF ∧
        (∀ q k, pageBase q + k ≠ pageBase p + r → getReg t q k = getReg s.mod q k)) ∧
      ((∀ x ∈ s.mod.regs.hi, x.1 ≠ (who, pageBase p + r)) →
        (regRead s.mod who off.toNat).1 = regN s.mod p r + lostNow s.mod p r - upNow s.mod p r)) ∧
    (∀ off p r h who, pageAt (BitVec.toNat off) = some (p, r) → hiOf p r = some h → (∀ w, rowAt p r = some w → w.acc ≠ .rc) → r ≠ 0x24 →
      Gives (.loRead ⟨off, who⟩) s fun t => (∀ o, pageAt o = some (p, h) → (regRead t who o).1 = view s.mod p h % 2 ^ 32) ∧
        t = { s.mod with regs := t.regs }) ∧
    (∀ p who, let e := errPage s.mod p
      Gives (.blkErrLogLoRead ⟨p, who⟩) s fun t =>
        errPage t p = { e with latch := (who, e.live) :: e.latch.filter (·.1 != who), seen := true, lost := false } ∧
        (∀ q, q ≠ p → errPage t q = errPage s.mod q) ∧ t = { s.mod with regs := t.regs }) ∧
    (∀ die inst v, die < 4 → inst < 16 → Gives (.wlkCfgWrite die inst v) s fun t =>
      (bits v.toNat 8 8 < 4 → t = s.mod) ∧ (4 ≤ bits v.toNat 8 8 → (∀ d i, d < 4 → i < 16 →
        bits (regN t ⟨d, .wlk, i⟩ 0x40) 8 8 = bits v.toNat 8 8 ∧ bitAt (regN t ⟨d, .wlk, i⟩ 0x40) 4 =
          (if d = die ∧ i = inst then bitAt v.toNat 4 else bitAt (regN s.mod ⟨d, .wlk, i⟩ 0x40) 4)) ∧ t = { s.mod with regs := t.regs })) ∧
    (∀ p v, Gives (.blkEvtPendWrite p false v) s fun t => getReg t p 0x14 = getReg s.mod p 0x14 &&& ~~~ (v &&& ~~~ setNow s.mod p 0x14)) ∧
    (∀ p v, Gives (.blkEvtPendWrite p true v) s fun t => getReg t p 0x18 = v &&& 0x7F#32 ∧ getReg t p 0x14 = getReg s.mod p 0x14) ∧
    (∀ p en v, bitAt (regN s.mod p 0x1C) 31 = true → bits (regN s.mod p 0x1C) 0 12 ∉ s.mod.regs.sent →
      Gives (.blkEvtPendWrite p en v) s fun t => if evOut t p = true then Msg.evt (bits (regN s.mod p 0x1C) 0 12) ∈ t.velom.out ++ t.velom.held
        else t.velom = s.mod.velom) ∧
    (∀ p, evOut s.mod p = true → p ∈ s.mod.regs.level → Gives (.blockEventRise p) s fun t => t = s.mod) ∧
    (∀ p, evOut s.mod p = true → p ∉ s.mod.regs.level → bitAt (regN s.mod p 0x1C) 31 = true →
      bits (regN s.mod p 0x1C) 0 12 ∉ s.mod.regs.sent → Gives (.blockEventRise p) s fun t => p ∈ t.regs.level ∧
        Msg.evt (bits (regN s.mod p 0x1C) 0 12) ∈ t.velom.out ++ t.velom.held) ∧
    (∀ c, c ≠ 0xD5#8 → Gives (.tckReset c) s fun t => t = s.mod) ∧
    (s.mod.sys.rails = true → s.mod.sys.want = none → Gives (.tckReset 0xD5#8) s fun t =>
      t = { s.mod with sys := { s.mod.sys with want := some (1, 1) } }) ∧
    (∀ v, s.mod.ledger.report = none → Gives (.ldgReplayAck v) s fun t => t = s.mod) ∧
    (∀ v r, s.mod.ledger.report = some r → Gives (.ldgReplayAck v) s fun t => t.ledger = { s.mod.ledger with report := none } ∧
      ∀ i, i * pageSize < r.data.length → pageEnt t (pageNo r.addr + i) = none)

/-- RESTART and a unit fault of a unit in service put it in restart and count it, or take it out of service at the limit;
of one in its ramp a fault takes it out; of another unit both are without effect, as a report of class 0 or 1 is but
for its record. BLOCK_RESTART_END makes the unit ready again. OUT_OF_SERVICE of an idle unit takes it out and counts
it, of a busy one it waits; RETURN starts the self-test, SELF_TEST_END starts the ramp or leaves the unit out,
RAMP_WINDOW raises its share by a tenth until it is whole. A lockstep mismatch restarts the pair; a watchdog is a
fault report of code 0x0C. (R519, R553, R562, R571, R573, R574, R575, R619, R620) -/
def Obligations.UnitsLeaveAndReturnToService : Prop :=
  ∀ (s : State),
    let recent (u : UnitId) : List Nat := ((unitRec s.mod u).restarts.filter fun t => now s.mod < t + 1000000) ++ [now s.mod]
    (∀ p, mayRestart s.mod (.page p) = false → p.blk ≠ .drl → Gives (.restart p) s fun t => t = s.mod) ∧
    (∀ p, pageOk p = true → p.blk ≠ .drl → mayRestart s.mod (.page p) = true → (recent (.page p)).length < restartLimit s.mod →
      Gives (.restart p) s fun t => unitState t (.page p) = 2 ∧ regN t safP 0x68 = min (regN s.mod safP 0x68 + 1) 0xFFFFFFFF) ∧
    (∀ (u : UnitId) (code : BitVec 5) (d : BitVec 41), code ≠ 0#5 → code ≠ 0x1F#5 → code ≠ 0x0A#5 → code ≠ 0x0B#5 →
      ¬ (code = 2#5 ∧ (u = .page ldgP ∨ u = .page ctlP)) →
      (mayRestart s.mod u = false ∨ codeClass code.toNat ≤ 1 → Gives (.unitFaultReport u code d) s fun t => t = logErr s.mod (unitPage u) code.toNat d.toNat) ∧
      (mayRestart s.mod u = true → 2 ≤ codeClass code.toNat → Gives (.unitFaultReport u code d) s fun t => regN t safP 0x68 = min (regN s.mod safP 0x68 + 1) 0xFFFFFFFF ∧
        unitState t u = (if restartLimit s.mod ≤ (recent u).length ∨ unitState s.mod u = 4 then 5 else 2))) ∧
    (∀ (u : UnitId) (ch : BitVec 41), Gives (.unitFaultReport u 0x0A#5 ch) s fun t => t.saf.engines = some (now s.mod + 64) ∧
      regN t safP 0x60 = min (regN s.mod safP 0x60 + 1) 0xFFFFFFFF ∧ t.units = s.mod.units) ∧
    (∀ u, mayRestart s.mod u = true → exec (.unitWatchdog u) s = exec (.unitFaultReport u 0x0C#5 0x100000#41) s) ∧
    (∀ u, mayRestart s.mod u = false → Gives (.unitWatchdog u) s fun t => t = s.mod) ∧
    (∀ n, 4 ≤ n ∨ isOut s.mod (.pair n) = true → Gives (.lockstepMismatch n) s fun t => t = s.mod) ∧
    (∀ n, n < 4 → unitState s.mod (.pair n) = 1 → (recent (.pair n)).length < restartLimit s.mod → Gives (.lockstepMismatch n) s fun t =>
      unitState t (.pair n) = 2 ∧ t.adm.held = now s.mod + 64 ∧ regN t safP 0x5C = min (regN s.mod safP 0x5C + 1) 0xFFFFFFFF ∧
      t.saf.trip = s.mod.saf.trip) ∧
    (∀ u, unitState s.mod u ≠ 2 → Gives (.blockRestartEnd u) s fun t => t = s.mod) ∧
    (∀ u, unitState s.mod u = 2 → Gives (.blockRestartEnd u) s fun t => unitState t u = (if (unitRec s.mod u).win = 0 then 1 else 4) ∧
      bitAt (regN t (unitPage u) 0x14) 5 = true) ∧
    (∀ p, oosPage p = false → Gives (.outOfService p) s (fun t => t = s.mod) ∧ Gives (.returnUnit p) s fun t => t = s.mod) ∧
    (∀ p, oosPage p = true → p.blk ≠ .drl → p.blk ≠ .fab →
      (unitState s.mod (.page p) = 1 ∨ unitState s.mod (.page p) = 4 → Gives (.outOfService p) s fun t =>
        (unitIdle s.mod (.page p) = true → unitState t (.page p) = 5 ∧ unitShare t (.page p) = 0 ∧
          regN t safP 0x6C = min (regN s.mod safP 0x6C + 1) 0xFFFFFFFF) ∧
        (unitIdle s.mod (.page p) = false → unitRec t (.page p) = { unitRec s.mod (.page p) with wantOut := true } ∧
          t = { s.mod with units := t.units })) ∧
      (unitState s.mod (.page p) ≠ 5 → Gives (.returnUnit p) s fun t => t = s.mod) ∧
      (unitState s.mod (.page p) = 5 → Gives (.returnUnit p) s fun t =>
        unitRec t (.page p) = { unitRec s.mod (.page p) with st := 3, since := now s.mod } ∧ t = { s.mod with units := t.units })) ∧
    (∀ u pass k, unitState s.mod u ≠ 3 → Gives (.selfTestEnd u pass k) s fun t => t = s.mod) ∧
    (∀ u k, unitState s.mod u = 3 →
      (Gives (.selfTestEnd u true k) s fun t => unitState t u = 4 ∧ unitShare t u = 10 ∧ (unitRec t u).since = now s.mod ∧
        regN t safP 0x70 = min (regN s.mod safP 0x70 + 1) 0xFFFFFFFF ∧ t = { s.mod with units := t.units, regs := t.regs }) ∧
      Gives (.selfTestEnd u false k) s fun t => unitState t u = 5 ∧ regN t safP 0x74 = min (regN s.mod safP 0x74 + 1) 0xFFFFFFFF) ∧
    (∀ u, unitState s.mod u ≠ 4 ∨ now s.mod < (unitRec s.mod u).since + 100 * (unitRec s.mod u).win →
      Gives (.rampWindow u) s fun t => t = s.mod) ∧
    (∀ u, unitState s.mod u = 4 → (unitRec s.mod u).since + 100 * (unitRec s.mod u).win ≤ now s.mod → Gives (.rampWindow u) s fun t =>
      ((unitRec s.mod u).win < 10 → unitState t u = 4 ∧ unitShare t u = 10 * ((unitRec s.mod u).win + 1)) ∧
      (10 ≤ (unitRec s.mod u).win → unitState t u = 1 ∧ unitShare t u = 100) ∧ t = { s.mod with units := t.units })

/-- DRL_HOST_RES changes only unlocked, in range, and while every drill it moves is ready. DRL_LOAD_CMD loads the program
of the current package into its drill, or reports why not. A doorbell that meets every condition of R353 clears ready
and advances seq; any other sets db_err alone. DRILL_RUN_START starts an owned region's run at its entry;
DRILL_RUN_END sets ready and clears what the run held; DRILL_WATCHDOG stops a run past its limit with exit 0xF2.
MEMORY_WIPE in its place in a reset makes every byte of bench 1 zero. (R351, R353, R354, R376, R379, R380) -/
def Obligations.DrillRunsAreReservedStartedAndEnded : Prop :=
  ∀ (s : State) (k : Nat),
    (∀ v, s.mod.sec.locked = true → Gives (.drlHostResWrite k v) s fun t => regN t (drlP k) 0xA8 = regN s.mod (drlP k) 0xA8) ∧
    (∀ v, s.mod.sec.locked = false → 4 < bits v.toNat 0 3 → Gives (.drlHostResWrite k v) s fun t => t = s.mod) ∧
    (∀ v, s.mod.sec.locked = false → bits v.toNat 0 3 ≤ 4 → (∀ d ∈ s.mod.drills, d.stack = k → d.ready = true) →
      Gives (.drlHostResWrite k v) s fun t => regN t (drlP k) 0xA8 = bits v.toNat 0 3 ∧ t = { s.mod with regs := t.regs }) ∧
    (∀ v d, s.mod.sec.locked = false → bits v.toNat 0 3 ≤ 4 → d ∈ s.mod.drills → d.stack = k → d.ready = false → hostReserved s.mod k d.n = true →
      d.n % 12 < 12 - bits v.toNat 0 3 → Gives (.drlHostResWrite k v) s fun t => regN t (drlP k) 0xA8 = regN s.mod (drlP k) 0xA8 ∧
        regN t secP 0x48 = min (regN s.mod secP 0x48 + 1) 0xFFFFFFFF) ∧
    (∀ w (v : Word), let id := ((drillOf s.mod k (mbxSel s.mod k w)).map fun d => areaN d 0x10 % 65536).getD 0
      (pkgCur s.mod id = none → Gives (.drlLoadCmd k w v) s fun t => regN t (drlP k) 0xB0 = 1 * 2 ^ 28 ∧ t = { s.mod with regs := t.regs }) ∧
      ∀ p, pkgCur s.mod id = some p → (drillProgram p (bits v.toNat 16 12) = none → Gives (.drlLoadCmd k w v) s fun t =>
          regN t (drlP k) 0xB0 = 2 * 2 ^ 28 ∧ t = { s.mod with regs := t.regs }) ∧
        ∀ g d, drillProgram p (bits v.toNat 16 12) = some g → bitAt v.toNat 31 = false → drillOf s.mod k (bits v.toNat 0 9) = some d →
          d.ready = true → hostReserved s.mod k d.n = true → Gives (.drlLoadCmd k w v) s fun t => regN t (drlP k) 0xB0 = 0 ∧
            drillOf t k (bits v.toNat 0 9) = some (loadDrill d p g) ∧ t = { s.mod with regs := t.regs, drills := t.drills }) ∧
    (∀ n d, drillOf s.mod k n = some d →
      (∀ (q : BitVec 16) mb, let ok := d.ready = true ∧ q.toNat = (d.seq + 1) % 65536 ∧ regionOk s.mod d mb = true ∧ entryOk d = true ∧
          (mb = true → hostReserved s.mod k n = true) ∧ drillOos s.mod k n = false ∧ d.cmd = none
        (ok → Gives (.drlCmdDb k n q mb) s fun t => (∃ x, drillOf t k n = some x ∧ x.ready = false ∧ x.seq = (d.seq + 1) % 65536 ∧
          x.region = areaRegion d ∧ x.started = now s.mod ∧ x.dbErr = false) ∧
          regN t (drlP k) 0xB4 = min (regN s.mod (drlP k) 0xB4 + 1) 0xFFFFFFFF) ∧
        (¬ ok → Gives (.drlCmdDb k n q mb) s fun t => drillOf t k n = some { d with dbErr := true } ∧ t = { s.mod with drills := t.drills })) ∧
      (d.ready = true ∨ d.st ≠ 2 ∨ unitState s.mod (.drill k n) = 2 ∨ regionClear s.mod d = false → Gives (.drillRunStart k n) s fun t => t = s.mod) ∧
      (d.ready = false → d.st = 2 → unitState s.mod (.drill k n) ≠ 2 → regionClear s.mod d = true → Gives (.drillRunStart k n) s fun t =>
        drillOf t k n = some { drillEntry d with st := 3, fault := false, exit := 0, skews := 0 } ∧ t = { s.mod with drills := t.drills }) ∧
      (d.ready = false → d.ended = true → d.cmd = none → d.held = [] → s.mod.velom.demands = [] → s.mod.mem.stalled = [] → s.mod.mem.freeing = [] →
        Gives (.drillRunEnd k n) s fun t => (∃ x, drillOf t k n = some x ∧ x.ready = true ∧ x.ended = false ∧ x.exit = d.exit ∧ x.held = []) ∧
          bitAt (regN t (drlP k) (0x70 + 4 * (n / 32))) (n % 32) = true ∧ ReadsSame s.mod t) ∧
      (d.ready = false → d.ended = false → d.st = 3 → d.started + 2 ^ bits d.cfg 16 5 < now s.mod → Gives (.drillWatchdog k n) s fun t =>
        (∃ x, drillOf t k n = some x ∧ x.ended = true ∧ x.fault = true ∧ x.exit = exitOf 0x20 ∧ x.st = 4) ∧
        regN t (drlP k) 0xC8 = min (regN s.mod (drlP k) 0xC8 + 1) 0xFFFFFFFF) ∧
      (now s.mod ≤ d.started + 2 ^ bits d.cfg 16 5 → Gives (.drillWatchdog k n) s fun t => t = s.mod)) ∧
    (s.mod.sys.rst ≠ 2 ∨ s.mod.sys.phase ≠ 4 → Gives .memoryWipe s fun t => t = s.mod) ∧
    (s.mod.sys.rst = 2 → s.mod.sys.phase = 4 → Gives .memoryWipe s fun t => t.mem.ue = [] ∧ t.mem.map = s.mod.mem.map ∧
      (∀ a e, pageEnt s.mod (pageNo a) = some e → readByte t a = if e.bench = 1 then 0#8 else readByte s.mod a) ∧
      (if s.mod.sys.chainFirst = true then t.sys.rst = 3 ∧ t.sys.phase = 5 else t.sys.rst = 2 ∧ t.sys.phase = 3))

/-- SEC_LOCK sets the lock and never clears it. SEC_NONCE0_READ draws a fresh nonce. A token takes effect only if its
nonce is the one last read and every signature verifies; it then uses the nonce up and either revokes its owner slot
or requests the life-cycle reset; any other token leaves only its result. LIFE_CYCLE_RESET and TRANSITION_RESUME make
the pending transition in the wipe. The debug UART acts only in SERVICE. A test mode whose conditions do not hold is
refused with result 2; its end stores the result; mode 3 marks the pseudo-channels it found and requests a reset, mode
5 fails the sensors that disagree with the coolant inlet. (R591, R592, R593, R594, R595, R610) -/
def Obligations.SecurityCommandsActWithinTheirRules : Prop :=
  ∀ (s : State),
    (∀ v, Gives (.secLock v) s fun t => t = { s.mod with sec := { s.mod.sec with locked := s.mod.sec.locked || bitAt v.toNat 0 } }) ∧
    (Gives .secNonce0Read s fun t =>
      t = { s.mod with sec := { s.mod.sec with nonce := some (Config.nonce s.mod.sec.nonceNo), nonceNo := s.mod.sec.nonceNo + 1 } }) ∧
    (∀ sg, let tok := windowBytes s.mod 0x200 (bits (regN s.mod secP 0x54) 0 9)
      let r := tokenResult s.mod tok sg
      (r = 0 → s.mod.sec.nonce.map (·.toNat) = some (part tok 20 32) ∧ (∀ i, i < part tok 2 1 → sg.getD i false = true) ∧
        part tok 4 16 = fabricId) ∧
      Gives (.tokenSubmit sg) s fun t => regN t secP 0x58 = r * 2 ^ 28 ∧
        (r ≠ 0 → t = { s.mod with regs := t.regs }) ∧
        (r = 0 → part tok 0 1 = 2 → t = { s.mod with regs := t.regs, sec :=
          { s.mod.sec with nonce := none, revoked := part tok 1 1 :: s.mod.sec.revoked } }) ∧
        (r = 0 → part tok 0 1 = 1 → t.sec.nonce = none ∧ t.sys.want = some (10, 3) ∧
          (∃ ow, t.sec.token = some (1, part tok 1 1, ow) ∧ ow.length = 4) ∧ t.sec.lc = s.mod.sec.lc ∧
          t = { s.mod with regs := t.regs, sec := t.sec, sys := t.sys })) ∧
    (∀ md, s.mod.sys.rst = 0 → s.mod.sec.token.isSome = true → Gives (.lifeCycleReset md) s fun t => t = resetBegin s.mod 10 3) ∧
    (∀ md, s.mod.sys.rst = 0 → s.mod.sec.token = none → Gives (.lifeCycleReset md) s fun t => t = s.mod) ∧
    (∀ md d, s.mod.sys.rst = 2 → s.mod.sys.phase = 3 → s.mod.sys.kind ≠ 2 → s.mod.sec.pending = some d →
      s.mod.ledger.stat ≠ 4 ∨ s.mod.sec.token = none → Gives (.lifeCycleReset md) s fun t =>
      t.sec.lc = d ∧ t.sec.pending = none ∧ t.sec.token = none ∧ t.sec.service = s.mod.sec.service + (if d = 3 then 1 else 0) ∧
      t.sec.media = (if s.mod.sec.lc = 1 ∧ d = 2 then s.mod.sec.media else if d = 4 then none else some md) ∧
      (¬ (s.mod.sec.lc = 1 ∧ d = 2) → t.mem.flash = [] ∧ t.mem.groups = [] ∧ t.ledger.records = [] ∧ t.pkgs = [] ∧ t.sys.erased = true)) ∧
    (s.mod.sec.pending = none → Gives .transitionResume s fun t => t = s.mod) ∧
    (∀ d, s.mod.sys.rst = 2 → s.mod.sys.kind = 2 → s.mod.sec.pending = some d → Gives .transitionResume s fun t =>
      t.sec.lc = d ∧ t.sec.pending = none ∧ t.sec.token = none ∧ t.sec.service = s.mod.sec.service + (if d = 3 then 1 else 0) ∧
      (¬ (s.mod.sec.lc = 1 ∧ d = 2) → t.mem.flash = [] ∧ t.ledger.records = [] ∧ (d = 4 → t.sec.media = none))) ∧
    (∀ r, s.mod.sec.lc ≠ 3 → Gives (.debugUartAccess r) s fun t => t = s.mod) ∧
    (s.mod.sec.lc = 3 → s.mod.sys.rails = true →
      (∀ off v, exec (.debugUartAccess (.writeReg off v)) s = exec (.registerWrite off v) s) ∧
      (∀ off, Gives (.debugUartAccess (.readReg off)) s fun t =>
        t = aditSend (regRead s.mod .mc off.toNat).2 (.uart (toBytes (regRead s.mod .mc off.toNat).1 4))) ∧
      (∀ a n, Gives (.debugUartAccess (.readMem a n)) s fun t => t = aditSend s.mod (.uart (readBytes s.mod a.toNat n))) ∧
      (∀ a d, Gives (.debugUartAccess (.writeMem a d)) s fun t => t = writeBytes s.mod a.toNat d) ∧
      (∀ n, n < 4 → Gives (.debugUartAccess (.haltPair n)) s fun t => n ∈ t.sys.halted ∧ t = { s.mod with sys := { s.mod.sys with halted := t.sys.halted } })) ∧
    (∀ md tg, testAllowed s.mod md tg false = false → Gives (.testModeStart md tg) s fun t =>
      t = { s.mod with mgt := { s.mod.mgt with testRes := 2 } }) ∧
    (∀ md tg, s.mod.mgt.test.isSome = true ∨ s.mod.sys.rails = false ∨ md = 2 ∨ md = 0 ∨ 5 < md → testAllowed s.mod md tg false = false) ∧
    (∀ md tg, testAllowed s.mod md tg false = true → Gives (.testModeStart md tg) s fun t => t.mgt.test = some (md, tg) ∧ t.mgt.testRes = 0 ∧
      t.mgt.testDet = 0 ∧ (md = 4 ∨ md = 5 → t = { s.mod with mgt := t.mgt }) ∧
      (md = 3 → t = { s.mod with mgt := t.mgt, mem := { s.mod.mem with cells := t.mem.cells }, draws := s.mod.draws + 1 })) ∧
    (∀ ps dt fd, s.mod.mgt.test = none → Gives (.testModeEnd ps ⟨dt, fd⟩) s fun t => t = s.mod) ∧
    (∀ ps dt fd md tg, s.mod.mgt.test = some (md, tg) →
      let done (ok : Bool) (n : Nat) (g : Mgt) : Mgt := { g with test := none, testRes := (if ok = true then 0 else 1), testDet := min n 0xFFFFFFF }
      (md ≠ 3 → md ≠ 4 → md ≠ 5 → Gives (.testModeEnd ps ⟨dt, fd⟩) s fun t => t = { s.mod with mgt := done ps (BitVec.toNat dt) s.mod.mgt }) ∧
      (md = 3 → s.mod.sys.want = none → s.mod.hbm.length = 8 → Gives (.testModeEnd ps ⟨dt, fd⟩) s fun t => t.mgt = done ps dt.toNat t.mgt ∧
        t.sys = { s.mod.sys with want := some (7, 1) } ∧ ∀ x ∈ fd.pcs, x.1 < 8 → x.2 < 32 → x.2 ∈ (stackOf t x.1).marked) ∧
      (md = 4 → Gives (.testModeEnd ps ⟨dt, fd⟩) s fun t =>
        t = { s.mod with mgt := done ps (total (fd.uncorr.map (·.2))) s.mod.mgt, regs := t.regs }) ∧
      (md = 5 → Gives (.testModeEnd ps ⟨dt, fd⟩) s fun t => t.mgt = done (offInlet s.mod).isEmpty (offInlet s.mod).length t.mgt ∧
        ∀ i ∈ offInlet s.mod, i ∈ t.saf.failed))

/-- On an ACTIVE link: a flit that fails its CRC is counted and logged, and the sequence number expected next is asked for
again; a sound one advances the receive sequence number where it carries the next payload, and frees what it
acknowledges; a malformed one and RECOVERY leave ACTIVE; a retry counts a replay and recovers at the limit; an
acknowledgement frees the replay buffer up to its number; a credit return adds slots. Training goes DETECT, EQUALISE,
CONFIG, ACTIVE, with the width the trained lanes give. The third failed recovery takes the link DOWN, and 100,000
ticks out of ACTIVE request a reset. A lost or disabled port stops forwarding; a stalled frame is dropped and counted.
On a link not ACTIVE the flit commands do nothing. (R455, R456, R458, R471, R472, R473, R475, R476, R478, R482, R491,
R620) -/
def Obligations.LinksTrainCarryReplayAndRecover : Prop :=
  ∀ (s : State),
    (∀ l r, linkOf s.mod l = some r →
      let quiet : Prop := match l with | .velom => s.mod.velom.held = [] | .port n => ∀ p, portOf s.mod n = some p → p.queue = []
      let cnt (t : Mod) (v q : Nat) : Prop := match l with
        | .velom => regN t vlkP v = min (regN s.mod vlkP v + 1) 0xFFFFFFFF
        | .port n => regN t (portP n) q = min (regN s.mod (portP n) q + 1) 0xFFFFFFFF
      let out (wide : Bool) : LinkRec :=
        { r with st := 4, since := now s.mod, out := some (r.out.getD (now s.mod)), repeats := 0, width := if wide then 0 else r.width }
      (r.st ≠ 3 → ∀ c, (∀ k d f, c = .flitReceived l k d f → Gives c s fun t => t = s.mod) ∧
        (∀ q, c = .retryRequest l q ∨ c = .acknowledgement l q → Gives c s fun t => t = s.mod) ∧
        (∀ n k, c = .creditReturn l n k → Gives c s fun t => t = s.mod) ∧
        (∀ p o g, c = .recovery l p o g → Gives c s fun t => t = s.mod)) ∧
      (r.st = 3 →
        (∀ k d f, flitOk d f = false → Gives (.flitReceived l k d f) s fun t => linkOf t l = some { r with asked := some r.rx } ∧
          cnt t 0x4C 0x50 ∧ t = { setLink s.mod l { r with asked := some r.rx } with regs := t.regs }) ∧
        (∀ f, flitOk true f = true → bits (flitHdr f) 30 2 = 3 ∨ bits (flitHdr f) 0 5 ≠ 0 →
          exec (.flitReceived l 0 true f) s = exec (.recovery l true 0#8 0#16) s) ∧
        (∀ f, flitOk true f = true → bits (flitHdr f) 30 2 ≠ 3 → bits (flitHdr f) 0 5 = 0 → Gives (.flitReceived l 0 true f) s fun t =>
          (∃ x, linkOf t l = some x ∧ x.st = 3 ∧
            x.rx = if bits (flitHdr f) 30 2 = 1 ∧ bits (flitHdr f) 18 12 = r.rx then (r.rx + 1) % 4096 else r.rx) ∧
          (quiet → bitAt (flitHdr f) 5 = false → bits (flitHdr f) 30 2 ≠ 1 → t = setLink s.mod l r)) ∧
        (∀ (q : BitVec 12), q.toNat ∉ r.replay → Gives (.retryRequest l q) s fun t => t = s.mod) ∧
        (∀ (q : BitVec 12), q.toNat ∈ r.replay → let n := if r.resent = q.toNat then r.repeats + 1 else 1
          Gives (.retryRequest l q) s fun t => cnt t 0x50 0x54 ∧
            linkOf t l = some (if bits s.mod.velom.ctl.toNat 4 4 ≤ n then { out false with resent := q.toNat } else { r with repeats := n, resent := q.toNat })) ∧
        (∀ (q : BitVec 12) a b, r.replay = a ++ q.toNat :: b → q.toNat ∉ a → quiet → Gives (.acknowledgement l q) s fun t =>
          t = setLink s.mod l { r with replay := b, repeats := if r.resent ∈ b then r.repeats else 0 }) ∧
        (∀ (q : BitVec 12), q.toNat ∉ r.replay → quiet → Gives (.acknowledgement l q) s fun t => t = setLink s.mod l r) ∧
        (∀ n k, quiet → Gives (.creditReturn l n k) s fun t => t = setLink s.mod l { r with credit := modNth r.credit n (· + k) }) ∧
        (∀ o g, Gives (.recovery l false o g) s fun t => linkOf t l = some (out false)) ∧
        (∀ o g, Gives (.recovery l true o g) s fun t => linkOf t l = some (out false) ∧
          regN t (linkPage l) 0x20 = min (regN s.mod (linkPage l) 0x20 + 1) 0xFFFFFFFF) ∧
        (l = .velom → Gives .retrain s fun t => linkOf t l = some (out true) ∧ t.velom.ctl = getReg s.mod vlkP 0x40) ∧
        ∀ n, l = .port n → Gives (.portRetrain n) s fun t => linkOf t l = some (out true) ∧ ∀ x, portOf t n = some x → x.link.st = 4) ∧
      (∀ v, let enough : Prop := match l with | .velom => 8 ≤ laneCount (BitVec.toNat v) | .port _ => BitVec.toNat v % 16 = 15
        let mayStart := (r.st = 0 ∨ r.st = 5 ∧ l ≠ .velom) ∧ mayTrain s.mod l = true ∧ enough
        (mayStart → Gives (.linkDetect l v) s fun t => t = setLink s.mod l { r with st := 1, since := now s.mod }) ∧
        (¬ mayStart → Gives (.linkDetect l v) s fun t => t = s.mod)) ∧
      (mayTrain s.mod l = true → r.st = 1 ∨ r.st = 4 → Gives (.linkEqualised l) s fun t => t = setLink s.mod l { r with st := 2, since := now s.mod }) ∧
      (mayTrain s.mod l = false ∨ r.st ≠ 1 ∧ r.st ≠ 4 → Gives (.linkEqualised l) s fun t => t = s.mod) ∧
      (∀ v, mayTrain s.mod l = false ∨ r.st ≠ 2 ∨ widthOf s.mod l r (BitVec.toNat v) = 0 → Gives (.linkActive l v) s fun t => t = s.mod) ∧
      (∀ v w, mayTrain s.mod l = true → r.st = 2 → 0 < w → widthOf s.mod l r (BitVec.toNat v) = w → Gives (.linkActive l v) s fun t =>
        (∃ x, linkOf t l = some x ∧ x.st = 3 ∧ x.width = w ∧ x.fails = 0 ∧ x.out = none ∧ x.rx = r.rx) ∧
        (l = .velom → w = 8 → r.width ≠ 8 → bitAt (regN t vlkP 0x14) 6 = true) ∧
        (∀ n, l = .port n → t.fab.idle = none ∧ ∃ x, portOf t n = some x ∧ x.up = true ∧ x.fwd = false ∧ x.told = false ∧ x.heard = none)) ∧
      (r.st ≠ 4 ∨ now s.mod < r.since + 200 → Gives (.recoveryFail l) s fun t => t = s.mod) ∧
      (r.st = 4 → r.since + 200 ≤ now s.mod → r.fails < 2 → Gives (.recoveryFail l) s fun t =>
        t = setLink s.mod l { r with fails := r.fails + 1, since := now s.mod }) ∧
      (r.st = 4 → r.since + 200 ≤ now s.mod → 2 ≤ r.fails → Gives (.recoveryFail l) s fun t =>
        linkOf t l = some { discardLink r with st := 5, fails := 0, width := 0, lanes := 0 } ∧
        (l = .velom → t.velom.waiting = [] ∧ t.velom.demands = [] ∧ (s.mod.sys.want = none → t.sys.want = some (3, 1))))) ∧
    (∀ v r, let half : Prop := v % 256 = 255 ∨ v / 256 % 256 = 255
      (v % 65536 = 65535 → r.width ≠ 8 → widthOf s.mod .velom r v = 16) ∧
      (v % 65536 ≠ 65535 ∨ r.width = 8 → half → bitAt s.mod.velom.ctl.toNat 0 = true → widthOf s.mod .velom r v = 8) ∧
      (v % 65536 ≠ 65535 ∨ r.width = 8 → ¬ half ∨ bitAt s.mod.velom.ctl.toNat 0 = false → widthOf s.mod .velom r v = 0) ∧
      ∀ n, widthOf s.mod (.port n) r v = if v % 16 = 15 then 4 else 0) ∧
    (let late := ∃ t, s.mod.velom.link.out = some t ∧ s.mod.velom.link.st ≠ 3 ∧ t + 100000 ≤ now s.mod
     (late → s.mod.sys.want = none → Gives .linkLossTimeout s fun t => t = { s.mod with sys := { s.mod.sys with want := some (3, 1) } }) ∧
     (¬ late → Gives .linkLossTimeout s fun t => t = s.mod)) ∧
    (∀ n p, portOf s.mod n = some p →
      (Gives (.portEnableWrite n true) s fun t => t = setRegN s.mod (portP n) 0x40 1) ∧
      (Gives (.portEnableWrite n false) s fun t => regN t (portP n) 0x40 = 0 ∧
        ∃ x, portOf t n = some x ∧ x.link = linkDown ∧ (p.up = true → x.up = false ∧ x.fwd = false ∧ x.queue = [])) ∧
      (let lost := p.link.st ≠ 3 ∨ p.heard.getD p.link.since + 3 ≤ now s.mod
       (lost → p.up = true → Gives (.portLoss n) s fun t => regN t (portP n) 0x58 = min (regN s.mod (portP n) 0x58 + 1) 0xFFFFFFFF ∧
          ∃ x, portOf t n = some x ∧ x.up = false ∧ x.fwd = false ∧ x.queue = [] ∧ x.link = p.link) ∧
       (¬ lost ∨ p.up = false → Gives (.portLoss n) s fun t => t = s.mod)) ∧
      (p.queue = [] → Gives (.stallDrop n) s fun t => t = s.mod) ∧
      ∀ q qs, p.queue = q :: qs →
        (q.2 + bits (fabCfg s.mod) 24 8 ≤ now s.mod → Gives (.stallDrop n) s fun t => portOf t n = some { p with queue := qs } ∧
          regN t fabP 0x7C = min (regN s.mod fabP 0x7C + 1) 0xFFFFFFFF) ∧
        (now s.mod < q.2 + bits (fabCfg s.mod) 24 8 → Gives (.stallDrop n) s fun t => t = s.mod)) 

/-- With the link ACTIVE: a demand behind others that wait joins them in order. LOAD answers BAD_ADDRESS outside the
device range or across a page, MEDIA for an uncorrectable granule or a retired page, waits for a held write or a
Recall, and else answers the bytes. LOAD_LEASE does the same and grants the lease it names in the host window, and
with 1,048,576 leases held recalls the oldest. STORE and STORE_MASK outside the host window are refused and counted;
in it they write exactly their enabled bytes, no other byte of memory changing, wait for a Recall or a stopped pseudo-
channel, or answer MEDIA or NO_ROOM. RegRd and RegWr answer BAD_ADDRESS and BAD_SIZE, and else do the register access.
With the link not ACTIVE nothing happens. (R5, R359, R421, R426, R427, R428, R459, R460, R462, R463, R464, R615) -/
def Obligations.HostAccessesReadWriteAndAnswer : Prop :=
  ∀ (s : State) (tag : BitVec 16) (addr : DWord),
    let sent (t : Mod) (x : Msg) : Prop := x ∈ t.velom.out ++ t.velom.held
    let a := addr.toNat
    let line := a / 64
    let counted (t : Mod) : Prop := regN t vlkP 0x64 = min (regN s.mod vlkP 0x64 + 1) 0xFFFFFFFF
    let queued (t : Mod) (d : Demand) : Prop := t = { s.mod with velom := { s.mod.velom with demands := s.mod.velom.demands ++ [d] } }
    let whole (d : List (BitVec 128)) : Prop := d.length % 4 = 0 ∧ d ≠ [] ∧ d.length ≤ 16
    let wide (d : List (BitVec 128)) : List (Option Byte) := (d.flatMap fun x => toBytes x.toNat 16).map some
    let part (en : BitVec 64) (l : BitVec 512) : List (Option Byte) :=
      (upto 64).map fun i => if bitAt en.toNat i then (toBytes l.toNat 64)[i]? else none
    (s.mod.velom.link.st ≠ 3 →
      (∀ n e, Gives (.load tag addr n e) s fun t => t = s.mod) ∧ (∀ w e, Gives (.loadLease tag addr w e) s fun t => t = s.mod) ∧
      (∀ d, Gives (.store tag addr d) s fun t => t = s.mod) ∧ (∀ en l e, Gives (.storeMask tag addr en l e) s fun t => t = s.mod) ∧
      (∀ w, Gives (.regRd tag addr w) s fun t => t = s.mod) ∧ ∀ w v, Gives (.regWr tag addr w v) s fun t => t = s.mod) ∧
    (s.mod.velom.link.st = 3 →
      (∀ (w : BitVec 2) e, w = 0#2 ∨ w = 3#2 → Gives (.loadLease tag addr w e) s fun t => t.velom.link.st = 4) ∧
      (∀ d, ¬ whole d → Gives (.store tag addr d) s fun t => t.velom.link.st = 4)) ∧
    (s.mod.velom.link.st = 3 → s.mod.velom.demands ≠ [] →
      (∀ (z : BitVec 2) e, Gives (.load tag addr z e) s fun t => queued t (.load tag.toNat a (64 * (z.toNat + 1)) e)) ∧
      (∀ (w : BitVec 2) e, w = 1#2 ∨ w = 2#2 → Gives (.loadLease tag addr w e) s fun t => queued t (.lease tag.toNat a w.toNat e)) ∧
      (∀ d, whole d → Gives (.store tag addr d) s fun t => queued t (.store tag.toNat a (wide d) .ok)) ∧
      (∀ en l e, Gives (.storeMask tag addr en l e) s fun t => queued t (.store tag.toNat a (part en l) e)) ∧
      (∀ w, Gives (.regRd tag addr w) s fun t => queued t (.regRd tag.toNat a w)) ∧
      ∀ w v, Gives (.regWr tag addr w v) s fun t => queued t (.regWr tag.toNat a w v)) ∧
    (s.mod.velom.link.st = 3 → s.mod.velom.demands = [] →
      (∀ (z : BitVec 2) e, let n := 64 * (z.toNat + 1)
        let bad := devEnd ≤ a ∨ a % 64 ≠ 0 ∨ pageNo a ≠ pageNo (a + n - 1)
        (bad → Gives (.load tag addr z e) s fun t => sent t (.reply tag.toNat 1 0 []) ∧ counted t ∧
          t = { s.mod with regs := t.regs, velom := t.velom }) ∧
        (¬ bad → readWaits s.mod a n = true → Gives (.load tag addr z e) s fun t => queued t (.load tag.toNat a n e)) ∧
        (¬ bad → readWaits s.mod a n = false →
          (pageNo a ∈ s.mod.mem.retiredPg → Gives (.load tag addr z e) s fun t => sent t (.reply tag.toNat 3 0 []) ∧ counted t ∧
            t = { s.mod with regs := t.regs, velom := t.velom }) ∧
          (pageNo a ∉ s.mod.mem.retiredPg →
            (pageEnt s.mod (pageNo a) = none → Gives (.load tag addr z e) s fun t =>
              t = sendMsg s.mod (.reply tag.toNat 0 0 (List.replicate n 0#8))) ∧
            (allocated s.mod a = true → e = .uncorrectable ∨ rangeLost s.mod a n = true → Gives (.load tag addr z e) s fun t =>
              sent t (.reply tag.toNat 3 0 []) ∧ counted t ∧ ReadsSame s.mod t) ∧
            (allocated s.mod a = true → e ≠ .uncorrectable → rangeLost s.mod a n = false → Gives (.load tag addr z e) s fun t =>
              sent t (.reply tag.toNat 0 0 (readBytes s.mod a n)) ∧ ReadsSame s.mod t ∧
              (e = .ok → t = { s.mod with velom := t.velom, regs := t.regs }))))) ∧
      (∀ (w : BitVec 2) e, w = 1#2 ∨ w = 2#2 → a < devEnd → a % 64 = 0 →
        (readWaits s.mod a 64 = true → Gives (.loadLease tag addr w e) s fun t => queued t (.lease tag.toNat a w.toNat e)) ∧
        (readWaits s.mod a 64 = false →
          (inHostWin a = false ∨ inOwned s.mod line = true → exec (.loadLease tag addr w e) s = exec (.load tag addr 0#2 e) s) ∧
          (inHostWin a = true → inOwned s.mod line = false →
            (∀ l ls, leaseOf s.mod line = 0 → s.mod.velom.leases = l :: ls → leaseMax ≤ s.mod.velom.leases.length →
              recallOf s.mod l.line = none → Gives (.loadLease tag addr w e) s fun t => sent t (.recall (l.line * 64) 0) ∧
              recallOf t l.line = some ⟨l.line, 0, now s.mod, [.claim]⟩ ∧ t.velom.leases = s.mod.velom.leases ∧
              t.velom.demands = [.lease tag.toNat a w.toNat e]) ∧
            (leaseOf s.mod line ≠ 0 ∨ s.mod.velom.leases.length < leaseMax → pageNo a ∉ s.mod.mem.retiredPg →
              e ≠ .uncorrectable → rangeLost s.mod a 64 = false → Gives (.loadLease tag addr w e) s fun t =>
              leaseOf t line = w.toNat ∧ (∀ k, k ≠ line → leaseOf t k = leaseOf s.mod k) ∧ ReadsSame s.mod t ∧
              sent t (.reply tag.toNat 0 w.toNat (readBytes s.mod a 64)))))) ∧
      (∀ c data e, (∃ d, c = .store tag addr d ∧ whole d ∧ data = wide d ∧ e = .ok) ∨ (∃ en l, c = .storeMask tag addr en l e ∧ data = part en l) →
        let n := data.length
        let gs := storeGrans a data
        let recalled := ∃ k, line ≤ k ∧ k < line + n / 64 ∧ (recallOf s.mod k).isSome = true
        let stop := gs.findSome? fun g => stopFor s.mod g.1
        (devEnd < a + n ∨ a % 64 ≠ 0 → Gives c s fun t => sent t (.ack tag.toNat 1) ∧ counted t ∧ ReadsSame s.mod t) ∧
        (a + n ≤ devEnd → a % 64 = 0 →
          (inHostWin a = false → Gives c s fun t => sent t (.ack tag.toNat 2) ∧ counted t ∧ ReadsSame s.mod t ∧
            regN t hauP 0x70 = min (regN s.mod hauP 0x70 + 1) 0xFFFFFFFF) ∧
          (inHostWin a = true → recalled → Gives c s fun t => queued t (.store tag.toNat a data e)) ∧
          (∀ k, inHostWin a = true → ¬ recalled → stop = some k → Gives c s fun t =>
            t.velom.demands = [.store tag.toNat a data e] ∧ t.velom.out = s.mod.velom.out ∧ ReadsSame s.mod t) ∧
          (inHostWin a = true → ¬ recalled → stop = none →
            (((∃ i, i < n ∧ pageNo (a + i) ∈ s.mod.mem.retiredPg) ∨ storeHurt s.mod gs e = true) → Gives c s fun t =>
              sent t (.ack tag.toNat 3) ∧ counted t ∧ ReadsSame s.mod t) ∧
            ((∀ i, i < n → pageNo (a + i) ∉ s.mod.mem.retiredPg) → storeHurt s.mod gs e = false →
              (allocStore s.mod a n = none → Gives c s fun t => sent t (.ack tag.toNat 4) ∧ counted t ∧ ReadsSame s.mod t ∧
                regN t hauP 0x70 = min (regN s.mod hauP 0x70 + 1) 0xFFFFFFFF) ∧
              ∀ u, allocStore s.mod a n = some u → wbHeld s.mod →
                (∀ i, i < n → stopFor u ((a + i) / 32 * 32) = none ∧ ownerOf u ((a + i) / 32 * 32) = none) → Gives c s fun t =>
                sent t (.ack tag.toNat 0) ∧ (∀ x, x < a ∨ a + n ≤ x → readByte t x = readByte s.mod x) ∧
                ∀ i, i < n → allocated t (a + i) = true ∧ readByte t (a + i) = (data.getD i none).getD (readByte s.mod (a + i)))))) ∧
      (∀ w, regStatus a w ≠ 0 → (Gives (.regRd tag addr w) s fun t => sent t (.reply tag.toNat (regStatus a w) 0 []) ∧ counted t ∧
          t = { s.mod with regs := t.regs, velom := t.velom }) ∧
        ∀ v, Gives (.regWr tag addr w v) s fun t => sent t (.ack tag.toNat (regStatus a w)) ∧ counted t ∧
          t = { s.mod with regs := t.regs, velom := t.velom }) ∧
      (∀ w, 2 ^ 28 ≤ a → regStatus a w = 1) ∧ (∀ w, a < 2 ^ 24 → w ≠ 4 ∨ a % 4 ≠ 0 → regStatus a w = 2) ∧
      (regStatus a 4 = 0 → (Gives (.regRd tag addr 4) s fun t =>
          t = sendMsg (regRead s.mod .link a).2 (.reply tag.toNat 0 0 (toBytes (regRead s.mod .link a).1 4))) ∧
        ∀ v u, exec (.registerWrite (BitVec.ofNat 28 a) v) s = .next u → Gives (.regWr tag addr 4 v) s fun t =>
          t = sendMsg u.mod (.ack tag.toNat 0)))

/-- SURRENDER of a line leased ends the lease; dirty data of a write lease reaches memory, no other byte changing, and of
a page freed meanwhile is discarded; of a line not leased it does nothing. RECALL_ACK ends the Recall with the lease
kept, and dirty data reaches memory, and a load that waited is answered; one for a late line is used up, and any other
is a protocol error. RECALL_TIMEOUT after 1,000 ticks ends the Recall without a lease, counts it, and expects a late
answer. HOST_ACK and HOST_REPLY end the demand with their tag, a status other than OK being counted, HLoadKeep holding
its line in at most 8,192; one for no demand is a protocol error. HOST_INV drops the line and answers. (R459, R463,
R464, R465, R466, R467, R469) -/
def Obligations.LeasesRecallsAndHostLinesFollowTheirRules : Prop :=
  ∀ (s : State),
    let sent (t : Mod) (x : Msg) : Prop := x ∈ t.velom.out ++ t.velom.held
    let up := s.mod.velom.link.st = 3
    let idle := s.mod.velom.demands = []
    (∀ (addr : DWord) d, ¬ up ∨ leaseOf s.mod (addr.toNat / 64) = 0 → idle → Gives (.surrender addr d) s fun t => t = s.mod) ∧
    (∀ (addr : DWord), idle → let line := addr.toNat / 64
      let free (u : Mod) (j : Nat) : Prop := match ownerOf u (line * 64 + 32 * j) with
        | some o => o.st = 2
        | none => stopFor u (line * 64 + 32 * j) = none
      let page := allocHost s.mod (pageNo (line * 64))
      let written (t : Mod) (d : BitVec 512) : Prop := ∀ x, readByte t x =
        if line * 64 ≤ x ∧ x < line * 64 + 64 then (toBytes d.toNat 64).getD (x % 64) 0#8 else readByte s.mod x
      (up → leaseOf s.mod line ≠ 0 → Gives (.surrender addr none) s fun t => leaseOf t line = 0 ∧
        (∀ k, k ≠ line → leaseOf t k = leaseOf s.mod k) ∧ t = setLease s.mod line 0) ∧
      (∀ d, up → leaseOf s.mod line = 2 → recallsFreed s.mod line = false →
        (∀ u, page = some u → wbHeld s.mod → free u 0 → free u 1 → Gives (.surrender addr (some d)) s fun t => leaseOf t line = 0 ∧ written t d) ∧
        (page = none → Gives (.surrender addr (some d)) s fun t => t = bump (setLease s.mod line 0) hauP 0x70)) ∧
      (∀ d, up → leaseOf s.mod line ≠ 0 → leaseOf s.mod line ≠ 2 ∨ recallsFreed s.mod line = true →
        Gives (.surrender addr (some d)) s fun t => t = setLease s.mod line 0) ∧
      (∀ k d, up → recallOf s.mod line = none → line ∉ s.mod.velom.late → Gives (.recallAck addr k d) s fun t => t.velom.link.st = 4) ∧
      (∀ k d, up → line ∈ s.mod.velom.late → Gives (.recallAck addr k d) s fun t =>
        t = { s.mod with velom := { s.mod.velom with late := s.mod.velom.late.erase line } }) ∧
      (∀ r (k : BitVec 2) d, up → line ∉ s.mod.velom.late → recallOf s.mod line = some r →
        (r.keep < k.toNat → Gives (.recallAck addr k d) s fun t => t.velom.link.st = 4 ∧ t.velom.leases = s.mod.velom.leases) ∧
        (k.toNat ≤ r.keep → r.waiters = [] →
          (∀ u, page = some u → free u 0 ∧ free u 1) → wbHeld s.mod → Gives (.recallAck addr k d) s fun t =>
          leaseOf t line = (if leaseOf s.mod line = 0 then 0 else k.toNat) ∧ recallOf t line = none ∧
          (∀ j, j ≠ line → leaseOf t j = leaseOf s.mod j ∧ recallOf t j = recallOf s.mod j) ∧
          (∀ b, d = some b → leaseOf s.mod line = 2 → page.isSome = true → written t b) ∧
          (d = none ∨ leaseOf s.mod line ≠ 2 ∨ page = none → ReadsSame s.mod t))) ∧
      (recallOf s.mod line = none → Gives (.recallTimeout addr) s fun t => t = s.mod) ∧
      (∀ r, recallOf s.mod line = some r →
        (now s.mod ≤ r.since + 1000 → Gives (.recallTimeout addr) s fun t => t = s.mod) ∧
        (r.since + 1000 < now s.mod → r.waiters = [] → Gives (.recallTimeout addr) s fun t =>
          recallOf t line = none ∧ leaseOf t line = 0 ∧ t.velom.late = s.mod.velom.late ++ [line] ∧ bitAt (regN t vlkP 0x14) 6 = true ∧
          regN t vlkP 0x60 = min (regN s.mod vlkP 0x60 + 1) 0xFFFFFFFF ∧ t = { s.mod with regs := t.regs, velom := t.velom }))) ∧
    (∀ (addr : DWord) (k : BitVec 2) r g, let a := addr.toNat / 64 * 64
      up → addr.toNat / 64 ∉ s.mod.velom.late → recallOf s.mod (addr.toNat / 64) = some r → k.toNat ≤ r.keep → r.waiters = [] →
      (∀ q ∈ s.mod.velom.recalls, q.line = addr.toNat / 64) → (∀ d ∈ s.mod.drills, d.held = []) → s.mod.mem.stalled = [] →
      s.mod.velom.demands = [.load g a 64 .ok] → a < devEnd → pageNo a ∉ s.mod.mem.retiredPg → rangeLost s.mod a 64 = false →
      Gives (.recallAck addr k none) s fun t => t.velom.demands = [] ∧ sent t (.reply g 0 0 (readBytes s.mod a 64)) ∧ ReadsSame s.mod t) ∧
    (¬ up → ∀ tag, (∀ a, Gives (.hostInv tag a) s fun t => t = s.mod) ∧ (∀ x, Gives (.hostAck tag x) s fun t => t = s.mod) ∧
      (∀ x d, Gives (.hostReply tag x d) s fun t => t = s.mod) ∧ ∀ a k d, idle → Gives (.recallAck a k d) s fun t => t = s.mod) ∧
    (let countedBad (t : Mod) (x : Byte) : Prop := t.regs = (if x = 0#8 then s.mod else bump s.mod vlkP 0x64).regs
    ∀ (tag : BitVec 16), up →
      (∀ (a : DWord), Gives (.hostInv tag a) s fun t => t.velom.lines = s.mod.velom.lines.filter (· != a.toNat / 64) ∧
        sent t (.hostInvAck tag.toNat) ∧ t = { s.mod with velom := t.velom }) ∧
      (∀ x, (∀ w ∈ s.mod.velom.waiting, w.1 = tag.toNat → w.2.1 ≠ 0) → Gives (.hostAck tag x) s fun t => t.velom.link.st = 4 ∧
        t.velom.waiting = s.mod.velom.waiting) ∧
      (∀ x w, w ∈ s.mod.velom.waiting → w.1 = tag.toNat → w.2.1 = 0 → (∀ v ∈ s.mod.velom.waiting, v.1 = tag.toNat → v = w) →
        Gives (.hostAck tag x) s fun t => countedBad t x ∧
          t = { s.mod with velom := { s.mod.velom with waiting := s.mod.velom.waiting.erase w }, regs := t.regs }) ∧
      (∀ x (d : List (BitVec 128)), 16 < d.length ∨ (∀ w ∈ s.mod.velom.waiting, w.1 = tag.toNat → w.2.1 ≠ 1 ∧ w.2.1 ≠ 2) →
        Gives (.hostReply tag x d) s fun t => t.velom.link.st = 4 ∧ t.velom.waiting = s.mod.velom.waiting) ∧
      (∀ x (d : List (BitVec 128)) w, d.length ≤ 16 → w ∈ s.mod.velom.waiting → w.1 = tag.toNat → w.2.1 = 1 ∨ w.2.1 = 2 →
        (∀ v ∈ s.mod.velom.waiting, v.1 = tag.toNat → v = w) → Gives (.hostReply tag x d) s fun t =>
          t.velom.waiting = s.mod.velom.waiting.erase w ∧
          (w.2.1 = 1 ∨ x ≠ 0#8 → t.velom.lines = s.mod.velom.lines) ∧
          (w.2.1 = 2 → x = 0#8 → w.2.2 / 64 ∈ t.velom.lines ∧ (s.mod.velom.lines.length ≤ lineMax → t.velom.lines.length ≤ lineMax)) ∧
          countedBad t x ∧ t = { s.mod with velom := t.velom, regs := t.regs }))

/-- SAFETY_TRIP ends every command and run, empties the queues, drains the write buffer, and records its cause, tick and
log record; causes 1, 3 and 6 take the main rails off, cause 2 the quarry stages, the others request a reset. In a
safety stop only causes 1, 2, 3 and 6 still count. ANALOG_TRIP takes the quarry stages off at once; ANALOG_TRIP_DELAY
the rest 3,000 ticks later. SENSOR_SAMPLE takes the readings and latches a trip for a sensor at its limit in two
samples; SENSOR_FAIL takes a sensor out of use, and trips when its die has none left. MIRROR_UNCORRECTABLE closes
emission and starts the rebuild, MIRROR_REBUILD_END opens it. SEAM_REPLAY counts; eight in a row take both ends out of
service. A second RAIL_CURRENT_LIMIT or seam failure in 1,000,000 ticks, a second MC_LOCKSTEP_MISMATCH, a mirror error
during its rebuild, and INPUT_CURRENT_LIMIT each latch their trip; the first trip latched stands. MC_RESTART_END
raises its alert. (R554, R555, R556, R557, R558, R559, R560, R561, R567, R577, R630) -/
def Obligations.TripsStopTheModuleAndSensorsRaiseThem : Prop :=
  ∀ (s : State),
    let off (c : Nat) : Prop := c = 1 ∨ c = 2 ∨ c = 3 ∨ c = 6
    let free (c : Nat) : Prop := s.mod.saf.trip = none ∧ (s.mod.saf.state = 0 ∨ off c) ∧ s.mod.sys.rails = true
    let latches (c : Instr) (cause i : Nat) : Prop :=
      (free cause → Gives c s fun t => t = { s.mod with saf := { s.mod.saf with trip := some (cause, i) } }) ∧
      (¬ free cause → Gives c s fun t => t = s.mod)
    latches .inputCurrentLimit 3 0 ∧
    (∀ c i, (s.mod.saf.state ≠ 0 ∧ ¬ off c) ∨ s.mod.sys.rails = false ∨ c = 0 ∨ 9 < c → Gives (.safetyTrip c i) s fun t => t = s.mod) ∧
    (∀ c i, s.mod.saf.state = 0 ∨ off c → s.mod.sys.rails = true → 1 ≤ c → c ≤ 9 → Gives (.safetyTrip c i) s fun t =>
      t.cmds = [] ∧ (∀ d ∈ t.drills, d.ready = true) ∧ t.svc = [] ∧ t.mem.moves = [] ∧ t.mem.wb = [] ∧ t.saf.trip = none ∧
      regN t safP 0x48 = c * 2 ^ 24 + i % 64 * 2 ^ 8 ∧ regN t safP 0x4C = now s.mod % 2 ^ 32 ∧ t.mgt.offCause = c ∧
      (∃ r ∈ t.mgt.elog, recCode r = 0x19 ∧ recClass r = 5 ∧ r.tick = now s.mod) ∧
      (c = 1 ∨ c = 3 ∨ c = 6 → t.sys.rails = false ∧ t.sys.quarryOn = false ∧ t.mgt.state = 3) ∧
      (c = 2 → t.sys.quarryOn = false ∧ t.saf.analog.isSome = true ∧ t.sys.rails = true) ∧
      (c = 4 ∨ c = 5 ∨ 7 ≤ c → t.saf.state = 2 ∧ t.sys.want.isSome = true ∧ t.sys.rails = true)) ∧
    (∀ i, 42 ≤ i ∨ s.mod.saf.analog.isSome = true ∨ s.mod.sys.rails = false → Gives (.analogTrip i) s fun t => t = s.mod) ∧
    (∀ i, i < 42 → s.mod.saf.analog = none → s.mod.sys.rails = true → Gives (.analogTrip i) s fun t => t.sys.quarryOn = false ∧
      t.saf.analog = some (now s.mod) ∧ (free 2 → t.saf.trip = some (2, i)) ∧ (¬ free 2 → t.saf.trip = s.mod.saf.trip) ∧
      t = { s.mod with sys := { s.mod.sys with quarryOn := false }, saf := t.saf }) ∧
    ((∀ a, s.mod.saf.analog = some a → now s.mod < a + 3000) → Gives .analogTripDelay s fun t => t = s.mod) ∧
    (∀ a, s.mod.saf.analog = some a → a + 3000 ≤ now s.mod → Gives .analogTripDelay s fun t => t.sys.rails = false ∧ t.mgt.state = 3 ∧
      t.mgt.offCause = 2 ∧ t.cmds = [] ∧ t.mem.cells = []) ∧
    (∀ x, s.mod.mgt.on = false ∨ s.mod.saf.mcDown = true → Gives (.sensorSample x) s fun t => t = s.mod) ∧
    (∀ x, s.mod.mgt.on = true → s.mod.saf.mcDown = false →
      let hits := (overLimit s.mod x).filter (· ∈ s.mod.saf.atLimit) ++ (overEst s.mod x).filter (· ∈ s.mod.saf.estLimit)
      Gives (.sensorSample x) s fun t => t.pwr.temp = x.temp ∧ t.pwr.pred = x.pred ∧ t.pwr.est = x.est ∧ t.sys.mv = x.mv ∧
        t.pwr.thermEv = true ∧ t.saf.atLimit = overLimit s.mod x ∧ (hits = [] → t.saf.trip = s.mod.saf.trip) ∧
        (∀ i l, hits = i :: l → (free 1 → t.saf.trip = some (1, i)) ∧ (¬ free 1 → t.saf.trip = s.mod.saf.trip)) ∧
        (x.mv < 44000 → 44000 ≤ s.mod.sys.mv → s.mod.sys.rails = true → t.pwr.supplyEv = some x.mv) ∧
        t = { s.mod with regs := t.regs, mgt := t.mgt, saf := t.saf, pwr := t.pwr, sys := { s.mod.sys with mv := x.mv } }) ∧
    (∀ x i, i ∈ overLimit s.mod x ↔ i < 46 ∧ i ∉ s.mod.saf.failed ∧
      (if i < 36 then 1680 else if i < 42 then 2000 else 1360) ≤ x.temp.getD i 0) ∧
    (∀ i, let t := s.mod.pwr.temp.getD i 0
      let fails := i < 48 ∧ i ∉ s.mod.saf.failed ∧ (2 ≤ mapGet (fun _ => 0) s.mod.saf.off i ∨ t < -640 ∨ 2400 < t)
      (¬ fails → Gives (.sensorFail i) s fun t => t = s.mod) ∧
      (fails → Gives (.sensorFail i) s fun t => t.saf.failed = i :: s.mod.saf.failed ∧
        (∃ r, recCode r = 0x16 ∧ recClass r = 4 ∧ r.tick = now s.mod ∧ t.mgt.elog = elogPut s.mod.mgt.elog r) ∧
        (dieBlind t i = true → free 8 → t.saf.trip = some (8, i)) ∧ (dieBlind t i = false → t.saf.trip = s.mod.saf.trip) ∧
        t = { s.mod with regs := t.regs, mgt := t.mgt, saf := t.saf })) ∧
    (s.mod.mgt.on = false → Gives .mcLockstepMismatch s fun t => t = s.mod) ∧
    (s.mod.mgt.on = true → Gives .mcLockstepMismatch s fun t => t.saf.mcDown = true ∧ now s.mod ∈ t.saf.mcTicks ∧
      ((∃ a ∈ s.mod.saf.mcTicks, now s.mod < a + 1000000) → free 6 → t.saf.trip = some (6, 0)) ∧
      ((∀ a ∈ s.mod.saf.mcTicks, a + 1000000 ≤ now s.mod) → t.saf.trip = s.mod.saf.trip)) ∧
    (s.mod.saf.mcDown = false → Gives .mcRestartEnd s fun t => t = s.mod) ∧
    (s.mod.saf.mcDown = true → Gives .mcRestartEnd s fun t => t.saf = { s.mod.saf with mcDown := false } ∧ bitAt t.mgt.alert 4 = true) ∧
    (s.mod.saf.rebuild = true → latches .mirrorUncorrectable 7 0 ∧ latches (.mirrorRebuildEnd false) 7 0 ∧
      Gives (.mirrorRebuildEnd true) s fun t => t.mirror = mirrorOf s.mod.colls ∧
        t = { s.mod with mirror := t.mirror, saf := { s.mod.saf with closed := false, rebuild := false } }) ∧
    (s.mod.saf.rebuild = false → (∀ ok, Gives (.mirrorRebuildEnd ok) s fun t => t = s.mod) ∧
      ((∀ c ∈ s.mod.cmds, ∀ w, c.search = some w → w.stage ≠ 3) → Gives .mirrorUncorrectable s fun t =>
        t.saf = { s.mod.saf with closed := true, rebuild := true } ∧ regN t safP 0x78 = min (regN s.mod safP 0x78 + 1) 0xFFFFFFFF ∧
        t = { s.mod with regs := t.regs, saf := t.saf }) ∧
      ∀ c w, s.mod.cmds.find? (fun c => c.search.any fun w => w.stage = 3) = some c → c.search = some w → Gives .mirrorUncorrectable s fun t =>
        t.saf = { s.mod.saf with closed := true, rebuild := true } ∧ cmdOf t c.id = none) ∧
    (∀ r, 14 ≤ r ∨ s.mod.sys.rails = false → Gives (.railCurrentLimit r) s fun t => t = s.mod) ∧
    (∀ r, r < 14 → s.mod.sys.rails = true → Gives (.railCurrentLimit r) s fun t => (r, now s.mod) ∈ t.saf.events ∧
      (∀ u ∈ railUnits r, mayRestart s.mod u = true → unitState t u = 2 ∨ unitState t u = 5) ∧
      (recentEvent s.mod r = true → s.mod.saf.state = 0 → t.saf.trip.isSome = true)) ∧
    (∀ i n, 8 ≤ i ∨ n = 0 ∨ s.mod.sys.rails = false ∨ isOut s.mod (.page (seamEnds i).1) = true →
      Gives (.seamReplay i n) s fun t => t = s.mod) ∧
    (∀ i n, i < 8 → 1 ≤ n → s.mod.sys.rails = true → isOut s.mod (.page (seamEnds i).1) = false → let a := (seamEnds i).1
      Gives (.seamReplay i n) s fun t => regN t a 0x48 = min (regN s.mod a 0x48 + 1) 0xFFFFFFFF ∧
        (n < 8 → t = { s.mod with regs := t.regs }) ∧
        (8 ≤ n → unitState t (.page a) = 5 ∧ unitState t (.page (seamEnds i).2) = 5 ∧ (100 + i, now s.mod) ∈ t.saf.events ∧
          (recentEvent s.mod (100 + i) = true → s.mod.saf.state = 0 → t.saf.trip.isSome = true) ∧
          (recentEvent s.mod (100 + i) = false → t.saf.trip = s.mod.saf.trip)))

/-- TICK with the rails on advances the counter by one, takes the settings written, stops on a latched trip with its cause
recorded, and begins a latched reset with its cause and tick, which a module in GAP ignores but for cause 7 and life-
cycle resets; with the rails off it does nothing. Host demands that waited are then tried again. The loss of the
reference and RESET_N of 10 ticks or more request a reset. MAIN_EN_FALL discards a latched reset and quiesces a
running module. STANDBY_POWER and STANDBY_LOSS start and stop the management controller, and the error log stays.
POWER_ON and AUTO_RESTART start the rails only if every condition holds; a rail failure is retried once. (R503, R507,
R508, R557, R597, R603, R604, R605, R606, R607, R608, R639) -/
def Obligations.TicksAndPowerFollowTheirSequences : Prop :=
  ∀ (s : State),
    let wants (c k : Nat) (t : Mod) : Prop := s.mod.sys.rails = true → s.mod.sys.want = none → t.sys.want = some (c, k)
    (Gives .tick s fun t => t = retryDemands (tickOp s.mod)) ∧
    (s.mod.sys.rails = false → s.mod.velom.demands = [] → Gives .tick s fun t => t = s.mod) ∧
    (s.mod.sys.rails = true → s.mod.velom.demands = [] → Gives .tick s fun t => t.sys.tick = s.mod.sys.tick + 1#64 ∧
      (s.mod.saf.trip = none → s.mod.sys.want = none → t.adm.margin = bits (regN s.mod ⟨0, .wlk, 0⟩ 0x40) 8 8 ∧
        t.adm.policy = getReg s.mod sivP 0x40 ∧ t.saf.cfg = getReg s.mod safP 0x40 ∧ t.sys.rst = s.mod.sys.rst) ∧
      (∀ c i, s.mod.saf.trip = some (c, i) → s.mod.saf.state = 0 ∨ c = 1 ∨ c = 2 ∨ c = 3 ∨ c = 6 → 1 ≤ c → c ≤ 9 → t.saf.trip = none ∧ t.cmds = [] ∧
        regN t safP 0x48 = c * 2 ^ 24 + i % 64 * 2 ^ 8) ∧
      (∀ c k, s.mod.saf.trip = none → s.mod.sys.want = some (c, k) → s.mod.sys.mainEn = true → s.mod.sys.rst = 0 →
        s.mod.ledger.stat ≠ 4 → t.sys.rst = 1 ∧ t.sys.cause = c ∧ t.sys.kind = k ∧ t.sys.resetTick = now t ∧ t.cmds = [] ∧ t.chutes = []) ∧
      (∀ c k, s.mod.saf.trip = none → s.mod.sys.want = some (c, k) → s.mod.ledger.stat = 4 → c ≠ 7 → k ≠ 3 → t.sys.rst = s.mod.sys.rst) ∧
      (s.mod.saf.trip = none → s.mod.sys.mainEn = false → s.mod.sys.want.isSome = true → t.sys.rst = s.mod.sys.rst)) ∧
    (s.mod.sys.refOk = false → Gives .referenceLoss s fun t => t = s.mod) ∧
    (s.mod.sys.refOk = true → Gives .referenceLoss s fun t => t.sys.refOk = false ∧ t.sys.refLost = true ∧ wants 8 1 t) ∧
    (Gives .referenceReturn s fun t => t = { s.mod with sys := { s.mod.sys with refOk := true } }) ∧
    (∀ n, n < 10 → Gives (.resetN n) s fun t => t = s.mod) ∧
    (∀ n, 10 ≤ n → Gives (.resetN n) s fun t => t.sys.resetNLow = true ∧ (s.mod.sys.mainEn = true → wants 2 1 t) ∧
      t = { s.mod with sys := t.sys }) ∧
    (Gives .resetNRelease s fun t => t = { s.mod with sys := { s.mod.sys with resetNLow := false } }) ∧
    (Gives .mainEnFall s fun t => t.sys.mainEn = false ∧ t.sys.want = none ∧
      (s.mod.mgt.state = 1 ∨ s.mod.mgt.state = 4 → t.mgt.state = 0 ∧ t.sys.phase = 1) ∧
      (s.mod.mgt.state = 2 → s.mod.sys.rails = true → s.mod.sys.rst = 0 → t.sys.rst = 1 ∧ t.sys.kind = 2 ∧ t.cmds = [] ∧ t.chutes = []) ∧
      (s.mod.mgt.state = 2 → s.mod.sys.rails = true → s.mod.sys.rst = 1 → t.sys.rst = 1 ∧ t.sys.kind = 2) ∧
      (s.mod.mgt.state = 2 → s.mod.sys.rails = true → 2 ≤ s.mod.sys.rst → t.sys.rails = false ∧ t.mgt.state = 0)) ∧
    (s.mod.mgt.on = true → Gives .standbyPower s fun t => t = s.mod) ∧
    (s.mod.mgt.on = false → Gives .standbyPower s fun t => t.mgt.on = true ∧ t.mgt.state = 0 ∧ t.sys.phase = 1 ∧ t.mgt.power = true ∧
      t.mgt.elog = s.mod.mgt.elog ∧ t.mgt.addr = none) ∧
    (s.mod.mgt.on = false → Gives .standbyLoss s fun t => t = s.mod) ∧
    (s.mod.mgt.on = true → Gives .standbyLoss s fun t => t.mgt.on = false ∧ t.sys.rails = false ∧ t.sys.phase = 0 ∧
      t.mgt.elog = s.mod.mgt.elog ∧ t.sec.lc = s.mod.sec.lc ∧ t.mem.flash = s.mod.mem.flash) ∧
    (let cool := ∀ i, i < 46 → i ∈ s.mod.saf.failed ∨ s.mod.pwr.temp.getD i 0 + 160 ≤ tripAt i
     let ready := s.mod.mgt.on = true ∧ s.mod.sys.switchOpen = false ∧ s.mod.sys.mainEn = true ∧ s.mod.mgt.power = true
     (∀ mv inlet, let may := ready ∧ s.mod.mgt.state = 0 ∧ s.mod.sys.rails = false ∧ 46000 ≤ mv ∧ inlet < 50 ∧ (s.mod.mgt.offCause = 0 ∨ cool)
      (may → Gives (.powerOn mv inlet) s fun t => t.mgt.state = 1 ∧ t.sys.phase = 2 ∧ t.sys.mv = mv ∧ t.mgt.retried = false ∧
        t = { s.mod with sys := t.sys, mgt := t.mgt }) ∧
      (¬ may → Gives (.powerOn mv inlet) s fun t => t = s.mod)) ∧
     (let recent := s.mod.mgt.restarts.filter fun t => now s.mod < t + 86400000000
      let cfg := regN s.mod mgtP 0x44
      let may := ready ∧ s.mod.mgt.state = 3 ∧ (s.mod.mgt.offCause = 1 ∨ s.mod.mgt.offCause = 2) ∧ bitAt cfg 0 = true ∧
        recent.length < bits cfg 8 8 ∧ cool ∧ s.mod.mgt.update = none ∧ 46000 ≤ s.mod.sys.mv ∧ s.mod.pwr.temp.getD 46 0 < 800
      (may → Gives .autoRestart s fun t => t.mgt.state = 1 ∧ t.sys.phase = 2 ∧ t.mgt.restarts = now s.mod :: recent ∧
        t = { s.mod with sys := t.sys, mgt := t.mgt }) ∧
      (¬ may → Gives .autoRestart s fun t => t = s.mod))) ∧
    (∀ r, s.mod.mgt.state ≠ 1 ∨ s.mod.sys.phase ≠ 2 → Gives (.railFailure r) s fun t => t = s.mod) ∧
    (∀ r, s.mod.mgt.state = 1 → s.mod.sys.phase = 2 → Gives (.railFailure r) s fun t => t.sys.phase = 1 ∧
      (s.mod.mgt.retried = false → t.mgt.retried = true ∧ t.mgt.state = 1) ∧ (s.mod.mgt.retried = true → t.mgt.state = 4) ∧
      ∃ x ∈ t.mgt.elog, recCode x = 0x17 ∧ recClass x = 5 ∧ x.tick = now s.mod) ∧
    (s.mod.mgt.state ≠ 1 ∨ s.mod.sys.phase ≠ 1 ∨ s.mod.mgt.retried = false → Gives .railSequenceRetry s fun t => t = s.mod) ∧
    (s.mod.mgt.state = 1 → s.mod.sys.phase = 1 → s.mod.mgt.retried = true → Gives .railSequenceRetry s fun t => t.sys.phase = 2 ∧
      t.mgt.state = 1 ∧ t = { s.mod with sys := t.sys, mgt := t.mgt })

/-- DEVICE_RESET from operation begins the quiesce: no command and no half-entered record stays; during a later phase it
wipes again; a module in GAP takes it with cause 7 alone. QUIESCE_END waits for the programming, then wipes: every
register but MGT_CFG and the trip record is at its reset value, bench 2 reads as before, and the lock is off.
BOOT_CHAIN of a power-on starts the counter past every stamp kept; an image that does not pass leaves the running
digests and marks its slot invalid. BENCH_LOAD keeps the programmed records and every retired frame that no memory
test returns, maps in a pseudo-channel that passes its test, and stays in safety stop after an escalation with a seam
or rail still down. REPLAY with no group lost rebuilds the shards from the records, which stay, repairs each group's
one bad copy, and counts it in LDG_CRC_REPAIRS; with both copies of a group lost it stops before it in GAP. READY
opens the module and advances the fuse after a trial boot. TRIAL_BOOT_TIMEOUT goes back to the other slot. (R504,
R505, R511, R518, R522, R523, R528, R579, R580, R581, R584, R625) -/
def Obligations.ResetsQuiesceWipeBootLoadReplayAndOpen : Prop :=
  ∀ (s : State),
    let gap (c : Nat) : Prop := s.mod.ledger.stat = 4 ∧ c ≠ 7
    let wiped (t : Mod) : Prop := (∀ p r, getReg t p r =
        if pageBase p + r ∈ [pageBase mgtP + 0x44, pageBase safP + 0x48, pageBase safP + 0x4C, pageBase safP + 0x50] then getReg s.mod p r
        else BitVec.ofNat 32 (resetAt (pageBase p + r))) ∧
      t.cmds = [] ∧ t.chutes = [] ∧ t.colls = [] ∧ t.mem.cells = [] ∧ t.mem.moves = [] ∧ t.sec.locked = false ∧ t.inited = false ∧
      t.sec.lc = s.mod.sec.lc ∧ t.mem.flash = s.mod.mem.flash
    (∀ c, s.mod.sys.rails = false ∨ s.mod.sys.rst = 1 ∨ gap c → Gives (.deviceReset c) s fun t =>
      t = { s.mod with sys := { s.mod.sys with want := none } }) ∧
    (∀ c, s.mod.sys.rails = true → s.mod.sys.rst = 0 → ¬ gap c → Gives (.deviceReset c) s fun t => t.cmds = [] ∧ t.chutes = [] ∧ t.mem.moves = [] ∧
      t.sys = { s.mod.sys with rst := 1, want := none, cause := c, kind := 1, resetTick := now s.mod, refLost := decide (c = 8), erased := false } ∧
      t.ledger.records = s.mod.ledger.records.filter (fun r => r.entered = r.len) ∧ ReadsSame s.mod t ∧ t.sec = s.mod.sec) ∧
    (∀ c, s.mod.sys.rails = true → 2 ≤ s.mod.sys.rst → ¬ gap c → Gives (.deviceReset c) s fun t => wiped t ∧ t.sys.rst = 2 ∧ t.sys.phase = 3 ∧
      t.sys.cause = c ∧ t.sys.resetTick = now s.mod) ∧
    (s.mod.sys.rst ≠ 1 ∨ quiesced s.mod = false → Gives .quiesceEnd s fun t => t = s.mod) ∧
    (s.mod.sys.rst = 1 → quiesced s.mod = true → Gives .quiesceEnd s fun t => wiped t ∧
      (s.mod.sys.kind ≠ 2 → t.sys.rst = 2 ∧ t.sys.phase = 4 ∧
        ∀ a e, pageEnt s.mod (pageNo a) = some e → e.bench = 2 → readByte t a = readByte s.mod a) ∧
      (s.mod.sys.kind = 2 → t.sys.rails = false ∧ t.mgt.state = 0)) ∧
    (∀ l fd, s.mod.mgt.state ≠ 1 ∨ s.mod.sys.phase ≠ 2 →
      (s.mod.sys.rst ≠ 2 ∨ s.mod.sys.phase ≠ 3 ∨ s.mod.sys.resetNLow = true ∨ s.mod.sec.pending.isSome = true →
        Gives (.bootChain ⟨l, fd⟩) s fun t => t = s.mod) ∧
      (s.mod.sys.rst = 2 → s.mod.sys.phase = 3 → s.mod.sys.resetNLow = false → s.mod.sec.pending = none →
        (slotFault s.mod l = none → Gives (.bootChain ⟨l, fd⟩) s fun t => t.sec.running.length = 5 ∧ t.sys.found = fd ∧ s.mod.sec.active ∉ t.sec.invalid ∧
          t.sec.active = s.mod.sec.active ∧ (s.mod.sys.chainFirst = true → t.sys.phase = 4 ∧ t.sys.rst = 2) ∧
          (s.mod.sys.chainFirst = false → t.sys.phase = 5 ∧ t.sys.rst = 3)) ∧
        (∀ k i, k ∈ chainKinds s.mod → l.find? (fun i => i.kind = k) = some i →
          i.sigOk = false ∨ i.bodyOk = false ∨ i.svn < s.mod.sec.fuseSvn ∨ i.keyHash ≠ Config.vendorRoot ∨ i.magic ≠ 0x564B4931#32 →
          Gives (.bootChain ⟨l, fd⟩) s fun t => t.sec.running = s.mod.sec.running ∧ s.mod.sec.active ∈ t.sec.invalid ∧ t.sys.rst = 2 ∧
            (1 - s.mod.sec.active ∉ s.mod.sec.invalid → s.mod.sec.active ≤ 1 → t.sec.active = 1 - s.mod.sec.active ∧ t.sys.phase = 3) ∧
            (1 - s.mod.sec.active ∈ s.mod.sec.invalid → s.mod.sec.active ≤ 1 → t.sec.active = s.mod.sec.active ∧ t.sys.phase = 8)))) ∧
    (∀ l fd, s.mod.mgt.state = 1 → s.mod.sys.phase = 2 → Gives (.bootChain ⟨l, fd⟩) s fun t => t.sys.rails = true ∧ t.sys.kind = 2 ∧ t.sys.cause = 9 ∧
      t.mgt.state = 2 ∧ t.sys.tick = BitVec.ofNat 64 (firstTick s.mod) ∧ (∀ r ∈ s.mod.ledger.records, r.prog.isSome = true → r.tick < firstTick s.mod) ∧
      (∀ g ∈ s.mod.ledger.groups, g.prog = true → g.tick < firstTick s.mod) ∧
      ∀ r ∈ s.mod.mgt.elog, r.tick < firstTick s.mod) ∧
    (s.mod.sys.rst ≠ 3 → Gives .benchLoad s fun t => t = s.mod) ∧
    (∀ tr, tr = s.mod.sys.found.training → s.mod.sys.rst = 3 → s.mod.hbm.length = 8 → Gives .benchLoad s fun t =>
      t.sys.rst = 5 ∧ t.sys.phase = 6 ∧ t.mem.loaded = true ∧
      (∀ r ∈ s.mod.ledger.records, r.prog.isSome = true → ∃ x ∈ t.ledger.records, x.lsn = r.lsn ∧ x.redo = r.redo ∧ x.prog = r.prog) ∧
      (∀ x ∈ t.ledger.records, x.prog.isSome = true ∨ (∃ k pc, x.redo = .fault k (.mapout pc)) ∨ ∃ k pc l, x.redo = .fault k (.mapin pc l)) ∧
      (∀ i, i < 8 → (stackOf t i).loaded = true ∧
        (∀ r ∈ s.mod.ledger.records, ∀ f, r.prog.isSome = true → r.redo = .fault i (.retire f) →
          (∀ x ∈ s.mod.ledger.records, ∀ pc l, x.redo ≠ .fault i (.mapin pc l)) →
          (∀ p ∈ tr.pcs, p.stack = i → p.pc ≠ framePc f) → f ∈ (stackOf t i).retired) ∧
        ∀ p, tr.pcs.filter (fun q => q.stack = i && q.pc = p.pc) = [p] →
          testPasses ((faultChanges s.mod.ledger i).foldl faultStep stack0) p = true →
          p.pc ∉ (stackOf t i).out ∧ ∀ f ∈ testFails p, f ∈ (stackOf t i).retired) ∧
      (∀ ch ∈ tr.chans, (t.mem.channels.map (·.st))[ch]? ≠ some 3) ∧
      (s.mod.sys.cause = 6 → tr.seams ≠ [] ∨ tr.rails ≠ [] → t.saf.state = 1) ∧ t.colls = s.mod.colls ∧ t.sec = s.mod.sec) ∧
    (s.mod.sys.rst ≠ 5 → Gives .replay s fun t => t = s.mod) ∧
    (∀ failed, failed = s.mod.sys.found.copies → s.mod.sys.rst = 5 → hasGap s.mod.ledger failed = true → Gives .replay s fun t => t.sys.rst = 7 ∧
      t.ledger = { s.mod.ledger with stat := 4 } ∧ t.colls = (replayIds (readable s.mod.ledger failed)).filterMap
        (replayShard { s.mod with ledger := readable s.mod.ledger failed }) ∧ t.sec = s.mod.sec) ∧
    (∀ failed, failed = s.mod.sys.found.copies → s.mod.sys.rst = 5 → hasGap s.mod.ledger failed = false → Gives .replay s fun t => t.sys.rst = 6 ∧
      t.ledger.stat = 2 ∧ t.ledger.records = s.mod.ledger.records ∧ t.ledger.report.isSome = true ∧
      (let cs := (replayIds s.mod.ledger).filterMap (replayShard s.mod)
       (∀ c ∈ t.colls, c.dropped = false ∧ c.pub = none ∧ ∃ d ∈ cs, d.id = c.id ∧ d.gens = c.gens ∧ d.cur = c.cur) ∧
       (∀ d ∈ cs, ∃ c ∈ t.colls, c.id = d.id) ∧ (∀ x ∈ t.mirror, x ∈ mirrorOf cs)) ∧
      regN t ldgP 0x58 = min (regN s.mod ldgP 0x58 + (s.mod.ledger.groups.filter fun g => copyFails failed g ≠ 0).length) 0xFFFFFFFF ∧
      t.sec = s.mod.sec) ∧
    (s.mod.sys.rst ≠ 6 ∨ s.mod.sys.refOk = false → Gives .ready s fun t => t = s.mod) ∧
    (s.mod.sys.rst = 6 → s.mod.sys.refOk = true → Gives .ready s fun t => t.sys.rst = 0 ∧ t.sys.phase = 7 ∧ t.inited = true ∧
      t.sys.lastReset = lastResetWord s.mod ∧ fusesAdvance s.mod.sec t.sec ∧ t.sec.trial = false ∧
      (s.mod.sec.trial = true → t.sec.fuseSvn = max s.mod.sec.fuseSvn s.mod.sec.runSvn) ∧ t.colls = s.mod.colls ∧
      t.ledger.records = s.mod.ledger.records) ∧
    (let late := s.mod.sec.trial = true ∧ s.mod.sys.rst ≠ 0 ∧ s.mod.sys.resetTick + 12000000 ≤ now s.mod
     (late → Gives .trialBootTimeout s fun t =>
      t.sec = { s.mod.sec with active := 1 - s.mod.sec.active, reverted := true, trial := false } ∧ t.sys = s.mod.sys) ∧
     (¬ late → Gives .trialBootTimeout s fun t => t = s.mod))

/-- A path-routed request whose path goes on leaves on the port its path names with one hop spent, its index raised and
its arrival port noted for the return; at its end DISCOVER is answered, and ASSIGN sets the address for the next tick
exactly when the module is unassigned, or the recorded master sends no older epoch, or takeover is allowed with a
newer one. Responses step back along the return path to the mailbox of the master's module, where a request of their
tag still waits. A frame with a reserved field, or at its end with a wrong CRC, is dropped and counted; one out of
hops is counted. HELLO records the neighbour and reports a clash to the master. FAB_MBX_SEND sends the staged frame
under the own address, its CRC sealed; FAB_MBX_POP frees an entry. A module isolated for 1,000,000 ticks loses its
address. (R479, R480, R482, R483, R484, R485, R486, R487, R492, R493, R494, R501) -/
def Obligations.PathRoutedFramesDiscoverAndAssign : Prop :=
  ∀ (s : State),
    let offered (t : Mod) (n : Nat) (f : Frame) : Prop := (n, f) ∈ t.fab.out ∨ ∃ p, portOf t n = some p ∧ ∃ k, (f, k) ∈ p.queue
    let lost (t : Mod) (r : Nat) : Prop := regN t fabP r = min (regN s.mod fabP r + 1) 0xFFFFFFFF ∧ t = { s.mod with regs := t.regs }
    let takes := bitAt (fabCfg s.mod) 17 = true ∧ s.mod.fab.inbox.length < 64
    let boxed (t : Mod) (k : FabTx) (f : Frame) : Prop :=
      t = { s.mod with fab := { s.mod.fab with inbox := t.fab.inbox, txs := s.mod.fab.txs.erase k } } ∧ t.fab.inbox = if takes then s.mod.fab.inbox ++ [f] else s.mod.fab.inbox
    (∀ v, Gives (.fabMbxPop v) s fun t => t = { s.mod with fab := { s.mod.fab with inbox := s.mod.fab.inbox.drop 1 } }) ∧
    (let f := stagedFrame s.mod
     (frameBad f = true ∨ fType f = 9 → Gives .fabMbxSend s fun t => lost t 0x74) ∧
     (frameBad f = false → 5 ≤ fType f → fType f ≠ 9 → (s.mod.fab.node = none → Gives .fabMbxSend s fun t => t = s.mod) ∧
      ∀ d, s.mod.fab.node = some d → d < 2 ^ 12 → d ≠ fDst f → let u := liveHops s.mod (routeGet s.mod.fab.table (fDst f))
        (u ≠ [] → Gives .fabMbxSend s fun t => ∃ n ∈ u, ∃ x, offered t n x ∧ fSrc x = d ∧ fDst x = fDst f ∧ fType x = fType f ∧
          x.data = f.data ∧ crcOk x = true) ∧
        (u = [] → fType f ≠ 0x14 → Gives .fabMbxSend s fun t => ∃ x, t.fab.self = s.mod.fab.self ++ [x] ∧ fType x = 0x14 ∧ fTag x = fTag f ∧
          bits (slotN x 0) 0 12 = fDst f ∧ bits (slotN x 0) 32 32 = fTag f ∧ crcOk x = true))) ∧
    (∀ port f ty c, (ty = 1 ∧ c = Instr.discover port f ∨ ty = 3 ∧ c = .assign port f) →
      let up := ∀ p, port = some p → portUp s.mod p = true
      (fType f ≠ ty ∨ ¬ up → Gives c s fun t => t = s.mod) ∧
      (fType f = ty → up → frameBad f = true ∨ f.data.length < 2 → Gives c s fun t => lost t 0x74) ∧
      (fType f = ty → up → frameBad f = false → 2 ≤ f.data.length →
        (pathCount f < pathIndex f → Gives c s fun t => t = s.mod) ∧
        (pathIndex f < pathCount f → s.mod.fab.node = none → Gives c s fun t => t = s.mod) ∧
        (pathIndex f < pathCount f → s.mod.fab.node.isSome = true → port.isSome = true → fTtl f ≤ 1 → Gives c s fun t => lost t 0x78) ∧
        (∀ p, pathIndex f < pathCount f → s.mod.fab.node.isSome = true → port = some p → p < 16 → 2 ≤ fTtl f →
          portUp s.mod (pathPort f 0 (pathIndex f)) = true → Gives c s fun t => ∃ x, offered t (pathPort f 0 (pathIndex f)) x ∧
            pathIndex x = pathIndex f + 1 ∧ fTtl x = fTtl f - 1 ∧ pathPort x 1 (pathIndex f) = p ∧ x.data.drop 2 = f.data.drop 2) ∧
        (pathIndex f = pathCount f → crcOk f = false → Gives c s fun t => lost t 0x74))) ∧
    (∀ port f, fType f = 1 ∨ fType f = 3 → (∀ p, port = some p → portUp s.mod p = true) → frameBad f = false → 2 ≤ f.data.length →
      pathIndex f = pathCount f → crcOk f = true → s.mod.fab.ports.length ≤ 12 → (∀ d, s.mod.fab.node = some d → d < 4096) →
      let answers (t : Mod) (ty : Nat) : Prop := ∃ x, fType x = ty ∧ fTag x = fTag f ∧ x.data.take 2 = f.data.take 2 ∧ crcOk x = true ∧
        (∀ p, port = some p → offered t p x) ∧ (port = none → t.fab.inbox = if takes then s.mod.fab.inbox ++ [x] else s.mod.fab.inbox)
      (fType f = 1 → Gives (.discover port f) s fun t => answers t 0x02 ∧ t.fab.node = s.mod.fab.node ∧ t.fab.assignTo = s.mod.fab.assignTo) ∧
      (fType f = 3 → let e := bits (slotN f 2) 32 32
        let ok := 3 ≤ f.data.length ∧ (s.mod.fab.node = none ∨ fSrc f = s.mod.fab.master ∧ s.mod.fab.fabEpoch ≤ e ∨
          bitAt (fabCfg s.mod) 16 = false ∧ s.mod.fab.fabEpoch < e)
        Gives (.assign port f) s fun t => answers t 0x04 ∧ t.fab.node = s.mod.fab.node ∧
          (ok → t.fab.assignTo = some (bits (slotN f 2) 0 12, e, bits (slotN f 2) 64 12)) ∧
          (¬ ok → t.fab.assignTo = s.mod.fab.assignTo))) ∧
    (∀ port f ty c, (ty = 2 ∧ c = Instr.discoverRsp port f ∨ ty = 4 ∧ c = .assignRsp port f) →
      let up := ∀ p, port = some p → portUp s.mod p = true
      (fType f ≠ ty ∨ ¬ up ∨ pathIndex f = 0 → Gives c s fun t => t = s.mod) ∧
      (fType f = ty → up → 1 ≤ pathIndex f → frameBad f = true ∨ f.data.length < 2 ∨ pathIndex f = 1 ∧ crcOk f = false →
        Gives c s fun t => lost t 0x74) ∧
      (fType f = ty → up → frameBad f = false → 2 ≤ f.data.length →
        (pathIndex f = 1 → crcOk f = true → s.mod.fab.node = none → Gives c s fun t => t = s.mod) ∧
        (pathIndex f = 1 → crcOk f = true → s.mod.fab.node.isSome = true → (∀ k ∈ s.mod.fab.txs, ¬ (k.kind = 3 ∧ k.tag = fTag f)) →
          Gives c s fun t => lost t 0x70) ∧
        (∀ k, pathIndex f = 1 → crcOk f = true → s.mod.fab.node.isSome = true →
          s.mod.fab.txs.find? (fun k => k.kind = 3 && k.tag = fTag f) = some k → Gives c s fun t => boxed t k (setIndex f 0)) ∧
        (2 ≤ pathIndex f → s.mod.fab.node.isSome = true → fTtl f ≤ 1 → Gives c s fun t => lost t 0x78) ∧
        (2 ≤ pathIndex f → s.mod.fab.node.isSome = true → 2 ≤ fTtl f → portUp s.mod (pathPort f 1 (pathIndex f - 1)) = true →
          Gives c s fun t => ∃ x, offered t (pathPort f 1 (pathIndex f - 1)) x ∧ pathIndex x = pathIndex f - 1 ∧ fTtl x = fTtl f - 1 ∧
            x.data.drop 1 = f.data.drop 1))) ∧
    (∀ n (d : BitVec 12) a (k : BitVec 4), (∀ p, portOf s.mod n = some p → p.link.st ≠ 3) → Gives (.hello n d a k) s fun t => t = s.mod) ∧
    (∀ n (d : BitVec 12) a (k : BitVec 4) p, portOf s.mod n = some p → p.link.st = 3 →
      let q : Port := { p with nbNode := d.toNat, nbOk := a, nbPort := k.toNat, heard := some (now s.mod), up := true, told := true }
      let clash := a = true ∧ s.mod.fab.node = some d.toNat
      Gives (.hello n d a k) s fun t => (∃ x : Port, portOf t n = some { q with link := x.link, queue := x.queue } ∧ x.link.st = 3) ∧
        (p.told = true → ¬ clash → t = setPort s.mod q) ∧
        (p.told = true → clash → t = notice (setPort s.mod q) 4 n (neighWord (setPort s.mod q) q))) ∧
    (let alone := ∃ k, s.mod.fab.idle = some k ∧ k + 1000000 ≤ now s.mod ∧ ∀ p ∈ s.mod.fab.ports, p.link.st ≠ 3
     (alone → Gives .isolationTimeout s fun t => t = { s.mod with fab := { s.mod.fab with node := none, assignTo := none } }) ∧
     (¬ alone → Gives .isolationTimeout s fun t => t = s.mod))

/-- At its last hop a frame with a reserved field or a wrong CRC, or for another address, is dropped and counted. ROUTE_WR
from the recorded master writes 64 entries of the shadow table and no other, ROUTE_COMMIT from it stands for the next
tick, NOTICE goes to the mailbox, and so does MGT_RSP where its request waits. FRAME_FORWARD spends a hop and sends on
a live next hop, counts a frame out of hops, and answers UNREACH where no hop is live. SRCH_REQ enters as a command to
be decided here, SRCH_PART adds its list or ends the search, each once. A KSPLIT_PART contribution is accepted once,
KSPLIT_ACK ends its transaction, UNREACH and the 2,000-tick timer of KSPLIT_RESEND resend it at most three times, and
then its face stops with a unit fault. (R480, R482, R488, R489, R492, R493, R496, R497, R498, R499, R500) -/
def Obligations.AddressedFramesAreDeliveredForwardedAndAnswered : Prop :=
  ∀ (s : State),
    let offered (t : Mod) (n : Nat) (f : Frame) : Prop := (n, f) ∈ t.fab.out ∨ ∃ p, portOf t n = some p ∧ ∃ k, (f, k) ∈ p.queue
    let lost (t : Mod) (r : Nat) : Prop := regN t fabP r = min (regN s.mod fabP r + 1) 0xFFFFFFFF ∧ t = { s.mod with regs := t.regs }
    let left (k : FabTx) : List FabTx := s.mod.fab.txs.erase k
    let takes := bitAt (fabCfg s.mod) 17 = true ∧ s.mod.fab.inbox.length < 64
    let boxed (t : Mod) (k : FabTx) (f : Frame) : Prop := t = { s.mod with fab := { s.mod.fab with inbox := t.fab.inbox, txs := left k } } ∧
      t.fab.inbox = if takes then s.mod.fab.inbox ++ [f] else s.mod.fab.inbox
    let unreach (t : Mod) : Prop := ∃ x, t.fab.self = s.mod.fab.self ++ [x] ∧ fType x = 0x14 ∧
      t = { s.mod with fab := { s.mod.fab with self := t.fab.self } }
    let again (k : FabTx) : List FabTx :=
      s.mod.fab.txs.map fun x => if x = k then { k with tries := k.tries + 1, sent := now s.mod } else x
    (∀ f, ∀ x ∈ [(0x05, Instr.routeWr f), (0x06, .routeCommit f), (0x07, .mgtRsp f), (0x08, .notice f), (0x14, .unreach f)],
      (fType f ≠ x.1 ∨ s.mod.fab.node = none → Gives x.2 s fun t => t = s.mod) ∧
      (fType f = x.1 → s.mod.fab.node.isSome = true → frameBad f = true → Gives x.2 s fun t => lost t 0x74) ∧
      (fType f = x.1 → s.mod.fab.node.isSome = true → frameBad f = false → s.mod.fab.node ≠ some (fDst f) → Gives x.2 s fun t => lost t 0x70) ∧
      (fType f = x.1 → s.mod.fab.node = some (fDst f) → frameBad f = false → crcOk f = false → Gives x.2 s fun t => lost t 0x74) ∧
      (∀ n, fType f = x.1 → portUp s.mod n = true → exec (.frameDeliver n f) s = exec x.2 s)) ∧
    (∀ n f, portUp s.mod n = false ∨ pathRouted (fType f) = true → Gives (.frameDeliver n f) s fun t => t = s.mod) ∧
    (∀ f, s.mod.fab.node = some (fDst f) → frameBad f = false → crcOk f = true →
      (fType f = 0x05 → Gives (.routeWr f) s fun t => t.fab.table = s.mod.fab.table ∧
        (fSrc f = s.mod.fab.master → routeBad f = false → (∀ d, routeGet t.fab.shadow d =
          if 64 * fPart f ≤ d ∧ d < 64 * fPart f + 64 then bits (slotN f ((d % 64) / 4)) (32 * (d % 4)) 32 else routeGet s.mod.fab.shadow d)) ∧
        (fSrc f ≠ s.mod.fab.master ∨ routeBad f = true → t.fab.shadow = s.mod.fab.shadow)) ∧
      (fType f = 0x06 → Gives (.routeCommit f) s fun t => t.fab.table = s.mod.fab.table ∧
        (fSrc f = s.mod.fab.master → f.data ≠ [] → t.fab.commit =
          some (bits (slotN f 0) 0 32, (s.mod.fab.ports.filter fun p => p.told).map fun p => p.no)) ∧
        (fSrc f ≠ s.mod.fab.master ∨ f.data = [] → t.fab.commit = s.mod.fab.commit)) ∧
      (fType f = 0x08 → Gives (.notice f) s fun t => t = { s.mod with fab := { s.mod.fab with inbox := if takes then s.mod.fab.inbox ++ [f] else s.mod.fab.inbox } }) ∧
      (fType f = 0x07 →
        ((∀ k ∈ s.mod.fab.txs, ¬ (k.kind = 2 ∧ k.tag = fTag f ∧ k.dst = fSrc f)) → Gives (.mgtRsp f) s fun t => lost t 0x70) ∧
        ∀ k, s.mod.fab.txs.find? (fun k => k.kind = 2 && k.tag = fTag f && k.dst = fSrc f) = some k → Gives (.mgtRsp f) s fun t => boxed t k f) ∧
      (fType f = 0x14 → let tag := bits (slotN f 0) 32 32
        let node := bits (slotN f 0) 0 12
        ((∀ k ∈ s.mod.fab.txs, ¬ (k.kind ≠ 3 ∧ k.tag = tag ∧ k.dst = node)) → Gives (.unreach f) s fun t => lost t 0x70) ∧
        ∀ k, s.mod.fab.txs.find? (fun k => k.kind != 3 && k.tag = tag && k.dst = node) = some k →
          (k.kind = 1 → k.tries ≠ 0 → k.sent = now s.mod → Gives (.unreach f) s fun t => t = s.mod) ∧
          (k.kind = 1 → k.tries = 0 ∨ k.sent ≠ now s.mod → k.tries < 3 → Gives (.unreach f) s fun t => t.fab.txs = again k) ∧
          (k.kind = 2 → Gives (.unreach f) s fun t => boxed t k f) ∧
          (∀ c w, k.kind = 0 → cmdOf s.mod k.cmd = some c → c.search = some w → Gives (.unreach f) s fun t => t.fab.txs = left k ∧
            cmdOf t k.cmd = some { c with search := some { w with ends := w.ends ++ [(k.dst, 0x32, k.dst)] } }))) ∧
    (∀ n f, portUp s.mod n = false ∨ s.mod.fab.node = none ∨ pathRouted (fType f) = true ∨ fType f = 9 →
      Gives (.frameForward n f) s fun t => t = s.mod) ∧
    (∀ n f, portUp s.mod n = true → s.mod.fab.node.isSome = true → pathRouted (fType f) = false → fType f ≠ 9 →
      let u := liveHops s.mod (routeGet s.mod.fab.table (fDst f))
      (frameBad f = true → Gives (.frameForward n f) s fun t => lost t 0x74) ∧
      (frameBad f = false → s.mod.fab.node = some (fDst f) → Gives (.frameForward n f) s fun t => t = s.mod) ∧
      (frameBad f = false → s.mod.fab.node ≠ some (fDst f) → fTtl f ≤ 1 → Gives (.frameForward n f) s fun t => lost t 0x78) ∧
      (frameBad f = false → s.mod.fab.node ≠ some (fDst f) → 2 ≤ fTtl f → u ≠ [] → Gives (.frameForward n f) s fun t =>
        ∃ k ∈ u, ∃ x, offered t k x ∧ fTtl x = fTtl f - 1 ∧ fDst x = fDst f ∧ x.data = f.data ∧ fCrc x = fCrc f) ∧
      (frameBad f = false → s.mod.fab.node ≠ some (fDst f) → 2 ≤ fTtl f → u = [] → Gives (.frameForward n f) s fun t =>
        (fType f = 0x14 → t = s.mod) ∧ (fType f ≠ 0x14 → s.mod.fab.node = some (fSrc f) → unreach t) ∧
        (fType f ≠ 0x14 → s.mod.fab.node ≠ some (fSrc f) → liveHops s.mod (routeGet s.mod.fab.table (fSrc f)) = [] → t = s.mod) ∧
        (fType f ≠ 0x14 → s.mod.fab.node ≠ some (fSrc f) → liveHops s.mod (routeGet s.mod.fab.table (fSrc f)) ≠ [] →
          regN t fabP 0x80 = min (regN s.mod fabP 0x80 + 1) 0xFFFFFFFF))) ∧
    (∀ src tag d g e p, s.mod.fab.node = none ∨ opcodeOf e ≠ 0x01 → Gives (.srchReq src tag d g e p) s fun t => t = s.mod) ∧
    (∀ src tag d g e p, s.mod.fab.node.isSome = true → opcodeOf e = 0x01 → Gives (.srchReq src tag d g e p) s fun t =>
      ∃ c, t.cmds = s.mod.cmds ++ [c] ∧ c.id = s.mod.nextCmd ∧ c.origin = some (src, tag) ∧ c.admitted = false ∧ c.chute = none ∧ c.pl = p ∧
        opcodeOf c.entry = 0x01 ∧ collId c.entry = collId e ∧ t = { s.mod with cmds := t.cmds, nextCmd := s.mod.nextCmd + 1, adm := t.adm }) ∧
    (∀ cid r, s.mod.fab.txs.find? (fun k => k.tag = r.tag && k.kind = 0 && k.dst = r.node && k.cmd = cid) = none →
      Gives (.srchPart cid r) s fun t => lost t 0x70) ∧
    (∀ cid r k c w, s.mod.fab.txs.find? (fun k => k.tag = r.tag && k.kind = 0 && k.dst = r.node && k.cmd = cid) = some k →
      cmdOf s.mod cid = some c → c.search = some w →
      (∀ st i, remoteEnds r = some (st, i) → Gives (.srchPart cid r) s fun t => t.fab.txs = left k ∧
        cmdOf t cid = some { c with search := some { w with ends := w.ends ++ [(r.node, st, i)] } }) ∧
      (remoteEnds r = none → Gives (.srchPart cid r) s fun t => t.fab.txs = left k ∧
        t.fab.pins = s.mod.fab.pins ++ [(cid, r.node, r.gen.toNat)] ∧ ∃ d v l, cmdOf t cid = some d ∧ d.search = some v ∧
        v.inbox = w.inbox ++ [l] ∧ v.waitFor = w.waitFor.filter (· != r.node) ∧ l.ents.length = r.ents.length ∧
        l.full = decide (w.k + 16 ≤ r.ents.length) ∧ (∀ x ∈ l.ents, x.src = .remote r.node) ∧ l.ents.Pairwise fun a b => entLt b a = false)) ∧
    let room (d : Nat) (l : List Word) : Prop := ksRoom s.mod (tileAdds s.mod (ksTarget s.mod d) l none) = true
    (∀ src tag d k l, s.mod.fab.node = none ∨ ksBad s.mod d = true ∨ ksCount s.mod d ≤ k ∨ ¬ room d l →
      Gives (.ksplitPart src tag d k l) s fun t => t = s.mod) ∧
    (∀ src tag d k l, s.mod.fab.node.isSome = true → ksBad s.mod d = false → k < ksCount s.mod d →
      room d l → Gives (.ksplitPart src tag d k l) s fun t =>
        (bitAt (ksBitmap s.mod d) k = true → t.mem = s.mod.mem ∧ t.svc = s.mod.svc ∧
          regN t (facP 0) 0x60 = min (regN s.mod (facP 0) 0x60 + 1) 0xFFFFFFFF) ∧
        (bitAt (ksBitmap s.mod d) k = false → let u := (ksAccept s.mod d k l none (facP 0)).1
          t.mem = u.mem ∧ t.svc = u.svc)) ∧
    (∀ src tag b, (∀ k ∈ s.mod.fab.txs, ¬ (k.tag = tag ∧ k.kind = 1 ∧ k.dst = src)) → Gives (.ksplitAck src tag b) s fun t => lost t 0x70) ∧
    (∀ src tag b k, s.mod.fab.txs.find? (fun k => k.tag = tag && k.kind = 1 && k.dst = src) = some k →
      Gives (.ksplitAck src tag b) s fun t => t = { s.mod with fab := { s.mod.fab with txs := left k } }) ∧
    (∀ tag, (∀ k ∈ s.mod.fab.txs, k.tag = tag → k.kind = 1 → now s.mod < k.sent + 2000) → Gives (.ksplitResend tag) s fun t => t = s.mod) ∧
    (∀ tag k, s.mod.fab.txs.find? (fun k => k.tag = tag && k.kind = 1) = some k → k.sent + 2000 ≤ now s.mod →
      (k.tries < 3 → Gives (.ksplitResend tag) s fun t => t.fab.txs = again k) ∧
      (3 ≤ k.tries → Gives (.ksplitResend tag) s fun t =>
        t = unitFaultOp { s.mod with fab := { s.mod.fab with txs := s.mod.fab.txs.filter (· != k) } } (.page (facP k.face)) 0 0))

/-- With the controller running, a CCC sets the address, lengths, IBI enable or reset action it names, and a direct one is
answered where the target has an address. Every MCTP and PLDM request is answered once the target has an address, with
the identity, TID, versions, PDR, sensor value, state, FRU data or update state it asks for, and a bad request with
its completion code, changing nothing else. Effecters switch the main power, request a reset and start a test mode. An
update is accepted in phases 7 and 8 alone; its components are listed, taken into the inactive slot, verified, and
activated by a ledger record. Without power, during a controller restart, or without an address, nothing happens.
(R559, R582, R583, R597, R598, R599, R600, R601, R602, R603, R609, R610) -/
def Obligations.ManagementRequestsAreAnsweredAndTakeEffect : Prop :=
  ∀ (s : State),
    let g := s.mod.mgt
    let up := g.on = true ∧ s.mod.saf.mcDown = false
    let serves := up ∧ g.addr.isSome = true
    let with' (x : Mgt) : Mod := { s.mod with mgt := x }
    let takes (c : Instr) (x : Mgt) : Prop := (up → Gives c s fun t => t = with' x) ∧ (¬ up → Gives c s fun t => t = s.mod)
    let tells (c : Instr) (d : List Byte) : Prop := (serves → Gives c s fun t => t = with' { g with resp := g.resp ++ [.i3c d] }) ∧
      (¬ serves → Gives c s fun t => t = s.mod)
    let replies (c : Instr) (u : Mod) (r : Resp) : Prop :=
      (serves → Gives c s fun t => r ∈ t.mgt.resp ∧ t = { u with mgt := { u.mgt with resp := t.mgt.resp } }) ∧
      (¬ serves → Gives c s fun t => t = s.mod)
    let refuses (c : Instr) (code : Nat) (cc : Byte) : Prop := replies c s.mod (.pldm code [cc])
    let updates (u : Update) : Mod := with' { g with update := some u }
    (∀ a, (up ∧ g.addr = none → Gives (.entdaa a) s fun t => t.mgt.addr = some a ∧
        t = with' { g with addr := some a, resp := g.resp ++ [.i3c (toBytes Config.provisionalId.toNat 6 ++ [0x06#8, 0x00#8])] }) ∧
      (¬ (up ∧ g.addr = none) → Gives (.entdaa a) s fun t => t = s.mod) ∧
      (serves → Gives (.setnewda a) s fun t => t = with' { g with addr := some a }) ∧ (¬ serves → Gives (.setnewda a) s fun t => t = s.mod)) ∧
    takes .rstdaa { g with addr := none, eid := 0#8 } ∧
    (∀ n : BitVec 16, takes (.setmwl n) (if n.toNat ≤ 256 then { g with mwl := n.toNat } else g) ∧
      takes (.setmrl n) (if n.toNat ≤ 256 then { g with mrl := n.toNat } else g)) ∧
    (∀ e : Byte, takes (.enec e) (if bitAt e.toNat 0 = true then { g with ibi := true } else g) ∧
      takes (.disec e) (if bitAt e.toNat 0 = true then { g with ibi := false } else g) ∧
      takes (.rstact e) (if e = 0#8 then { g with rstAct := some 0#8 } else g)) ∧
    tells .getpid (toBytes Config.provisionalId.toNat 6) ∧ tells .getbcr [0x06#8] ∧ tells .getdcr [0x00#8] ∧
    tells .getmwl [BitVec.ofNat 8 (g.mwl / 256), BitVec.ofNat 8 g.mwl] ∧
    tells .getmrl [BitVec.ofNat 8 (g.mrl / 256), BitVec.ofNat 8 g.mrl, 1#8] ∧
    (serves → Gives .getstatus s fun t =>
      t.mgt = { g with resp := g.resp ++ [.i3c (toBytes (Config.i3cStatus s.mod.draws).toNat 2)] }) ∧
    (Gives .getstatus s fun t => t = { s.mod with mgt := t.mgt, draws := s.mod.draws + 1 }) ∧
    (∀ e : Byte, (e = 0#8 ∨ e = 0xFF#8 → replies (.setEndpointId e) s.mod (.mctp [0x02#8])) ∧
      (e ≠ 0#8 → e ≠ 0xFF#8 → replies (.setEndpointId e) (with' { g with eid := e }) (.mctp [0#8, 0#8, e, 0#8]))) ∧
    replies .getEndpointId s.mod (.mctp [0#8, g.eid, 0#8, 0#8]) ∧
    replies .getEndpointUuid s.mod (.mctp (0#8 :: toBytes (Config.uuid fabricId).toNat 16)) ∧
    replies .getMctpVersionSupport s.mod (.mctp (0#8 :: Config.mctpVersions)) ∧
    replies .getMessageTypeSupport s.mod (.mctp [0#8, 3#8, 0x00#8, 0x01#8, 0x05#8]) ∧
    replies .getTid s.mod (.pldm 0x002 [0#8, g.tid]) ∧ (∀ x, replies (.setTid x) (with' { g with tid := x }) (.pldm 0x001 [0#8])) ∧
    (∀ y : Byte, (y.toNat ∉ [0, 2, 4, 5] → refuses (.getPldmVersion y) 0x003 0x05#8 ∧ refuses (.getPldmCommands y) 0x005 0x05#8) ∧
      (y.toNat ∈ [0, 2, 4, 5] → replies (.getPldmVersion y) s.mod (.pldm 0x003 (0#8 :: toBytes (Config.pldmVersion y).toNat 4)) ∧
        replies (.getPldmCommands y) s.mod (.pldm 0x005 (0#8 :: bitmapOf (pldmCommands y.toNat) 32)))) ∧
    replies .getPldmTypes s.mod (.pldm 0x004 (0#8 :: toBytes 0x35 8)) ∧ replies .getPdrRepositoryInfo s.mod (.pldm 0x250 (0#8 :: 0#8 :: toBytes 80 4)) ∧
    (∀ i, (pdrKind i = none → refuses (.getPdr i) 0x251 0x82#8) ∧
      (∀ k, pdrKind i = some k → ∃ d, replies (.getPdr i) s.mod (.pldm 0x251 ([0#8] ++ toBytes i 2 ++ toBytes k 1 ++ d))) ∧
      (i = 0 ∨ 74 < i → refuses (.getSensorReading i) 0x211 0x80#8) ∧
      (1 ≤ i → i ≤ 74 → s.mod.sys.rails = true ∨ 37 ≤ i ∧ i ≤ 51 →
        replies (.getSensorReading i) s.mod (.pldm 0x211 ([0#8, 0#8] ++ int4 (sensorValue s.mod i)))) ∧
      (1 ≤ i → i ≤ 74 → s.mod.sys.rails = false → i < 37 ∨ 51 < i → replies (.getSensorReading i) s.mod (.pldm 0x211 [0#8, 2#8])) ∧
      (i < 100 ∨ 102 < i → refuses (.getStateSensorReadings i) 0x221 0x80#8) ∧ ∀ v, refuses (.setNumericEffecterValue i v) 0x231 0x80#8) ∧
    replies (.getStateSensorReadings 100) s.mod (.pldm 0x221 [0#8, 0#8, BitVec.ofNat 8 s.mod.sec.lc]) ∧
    replies (.getStateSensorReadings 101) s.mod (.pldm 0x221 [0#8, 0#8, BitVec.ofNat 8 g.state]) ∧
    replies (.getStateSensorReadings 102) s.mod (.pldm 0x221 [0#8, 0#8, BitVec.ofNat 8 s.mod.sys.phase]) ∧
    replies (.mainPowerEffecter 2#8) (with' { g with power := true }) (.pldm 0x239 [0#8]) ∧
    (serves → Gives (.mainPowerEffecter 1#8) s fun t => t.mgt.power = false ∧ Resp.pldm 0x239 [0#8] ∈ t.mgt.resp ∧
      (g.state = 1 ∨ g.state = 3 ∨ g.state = 4 → t.mgt.state = 0 ∧ t.sys.phase = 1) ∧
      (g.state = 2 → s.mod.sys.rails = true → s.mod.sys.rst = 0 → t.sys.rst = 1 ∧ t.sys.kind = 2 ∧ t.cmds = [])) ∧
    (∀ v, v ≠ 1#8 → v ≠ 2#8 → refuses (.mainPowerEffecter v) 0x239 0x81#8) ∧ (∀ v, v ≠ 1#8 → refuses (.resetEffecter v) 0x239 0x81#8) ∧
    (s.mod.sys.rails = true → s.mod.sys.want = none →
      replies (.resetEffecter 1#8) { s.mod with sys := { s.mod.sys with want := some (7, 1) } } (.pldm 0x239 [0#8])) ∧
    (∀ md tg u, md ≠ 2 → exec (.testModeStart md tg) s = .next u → replies (.testModeEffecter md tg) u.mod (.pldm 0x239 [0#8])) ∧
    (∀ tg, serves → s.mod.sys.rails = true → g.test = none → s.mod.chutes = [] → Gives (.testModeEffecter 2 tg) s fun t =>
      t.mgt.test = some (2, tg) ∧ t.velom.link.st = 0 ∧ t.velom.link.replay = []) ∧
    (∀ e, replies (.setEventReceiver e) (with' { g with receiver := if e = 0#8 then none else some e }) (.pldm 0x204 [0#8])) ∧
    replies .getFruRecordTableMetadata s.mod (.pldm 0x401 (0#8 :: (toBytes fruRecord.length 4 ++ toBytes 1 2))) ∧
    replies .getFruRecordTable s.mod (.pldm 0x402 (0#8 :: fruRecord)) ∧ replies .queryDeviceIdentifiers s.mod (.pldm 0x501 (0#8 :: Config.deviceIds)) ∧
    (∃ d, replies .getFirmwareParameters s.mod (.pldm 0x502 (0#8 :: BitVec.ofNat 8 s.mod.sec.active :: d)) ∧ d.length = 45) ∧
    replies .getStatus s.mod (.pldm 0x51B [0#8, BitVec.ofNat 8 (updateState s.mod)]) ∧
    (g.update.isSome = true → refuses .requestUpdate 0x510 0x81#8) ∧
    (g.update = none → s.mod.sys.phase ≠ 7 → s.mod.sys.phase ≠ 8 → refuses .requestUpdate 0x510 0x8A#8) ∧
    (g.update = none → s.mod.sys.phase = 7 ∨ s.mod.sys.phase = 8 → replies .requestUpdate (updates ⟨[], none, none, [], false⟩) (.pldm 0x510 [0#8])) ∧
    (g.update = none → (∀ cs, refuses (.passComponentTable cs) 0x513 0x80#8) ∧ (∀ k, refuses (.updateComponent k) 0x514 0x80#8) ∧
      (∀ i, Gives (.requestFirmwareData i) s fun t => t = s.mod) ∧ (Gives .verifyComplete s fun t => t = s.mod) ∧
      refuses .activateFirmware 0x51A 0x80#8 ∧ refuses .cancelUpdateComponent 0x51C 0x80#8 ∧ refuses .cancelUpdate 0x51D 0x80#8) ∧
    (∀ u, g.update = some u → let idle := 1 - s.mod.sec.active
      replies .cancelUpdate (with' { g with update := none }) (.pldm 0x51D [0#8]) ∧
      (u.cur.isSome = true → replies .cancelUpdateComponent (updates { u with cur := none, got := none }) (.pldm 0x51C [0#8])) ∧
      (u.cur = none → refuses .cancelUpdateComponent 0x51C 0x84#8 ∧ (∀ i, Gives (.requestFirmwareData i) s fun t => t = s.mod) ∧
        Gives .verifyComplete s fun t => t = s.mod) ∧
      (∀ cs, (u.cur = none ∧ (∀ k ∈ cs, 1 ≤ k ∧ k ≤ 5) →
          replies (.passComponentTable cs) (updates { u with comps := cs, done := [] }) (.pldm 0x513 [0#8])) ∧
        (¬ (u.cur = none ∧ (∀ k ∈ cs, 1 ≤ k ∧ k ≤ 5)) → refuses (.passComponentTable cs) 0x513 0x84#8)) ∧
      (∀ k, (u.cur = none ∧ k ∈ u.comps → replies (.updateComponent k) (updates { u with cur := some k, got := none }) (.pldm 0x514 [0#8])) ∧
        (¬ (u.cur = none ∧ k ∈ u.comps) → refuses (.updateComponent k) 0x514 0x84#8)) ∧
      (∀ k i, u.cur = some k → serves → idle < s.mod.sec.slots.length → Gives (.requestFirmwareData i) s fun t =>
        t.mgt = { g with update := some { u with got := some i } } ∧
        t.sec.slots.getD idle [] = i :: (s.mod.sec.slots.getD idle []).filter (fun x => x.kind != k) ∧ t.sec.active = s.mod.sec.active) ∧
      (∀ k i, u.cur = some k → u.got = some i → serves →
        (imageFault s.mod k i = 0 → Gives .verifyComplete s fun t => Resp.pldm 0x517 [0#8] ∈ t.mgt.resp ∧
          t.mgt.update = some { u with cur := none, got := none, done := k :: u.done } ∧ idle ∉ t.sec.invalid) ∧
        (imageFault s.mod k i ≠ 0 → Gives .verifyComplete s fun t => Resp.pldm 0x517 [1#8] ∈ t.mgt.resp ∧ t.mgt.update = none ∧
          idle ∈ t.sec.invalid)) ∧
      (let whole := u.cur = none ∧ u.comps ≠ [] ∧ ∀ k ∈ u.comps, k ∈ u.done
       let now' := s.mod.inited = true ∧ s.mod.sys.rst = 0 ∧ s.mod.sec.pendAct = none
       (¬ whole → refuses .activateFirmware 0x51A 0x85#8) ∧ (whole → ¬ now' → refuses .activateFirmware 0x51A 0x84#8) ∧
       (whole → now' → serves → Gives .activateFirmware s fun t => t.sec = { s.mod.sec with pendAct := some idle } ∧ t.mgt = g ∧
        t.ledger.next = s.mod.ledger.next + 1 ∧ ∃ r ∈ t.ledger.records, r.lsn = s.mod.ledger.next ∧ r.redo = .firmware idle)))

/-- GET_VERSION starts a transport's negotiation afresh; GET_CAPABILITIES needs it, NEGOTIATE_ALGORITHMS needs the
capabilities and agrees Ed25519 and SHA-512 where offered, and digests, certificate, challenge and measurements need
the algorithms: out of order each is answered with ERROR 0x04. A slot but 0, an offset past the chain, and an index
but 0 to 9 and 0xFF are answered with ERROR 0x01. A signed answer carries a fresh nonce. The window is served while
the rails are on; MCTP answers Busy until the hub is initialised. SPDM_GO serves the request that the window holds by
its code. (R585, R586, R587, R596, R600) -/
def Obligations.SpdmIsServedInOrderOnBothTransports : Prop :=
  ∀ (s : State) (tr : Transport),
    let rec' (m : Mod) : SpdmState := match tr with | .mctp => m.sec.spdmM | .window => m.sec.spdmW
    let st := rec' s.mod
    let hears := match tr with
      | .mctp => s.mod.mgt.on = true ∧ s.mod.saf.mcDown = false ∧ s.mod.mgt.addr.isSome = true
      | .window => s.mod.sys.rails = true
    let serves := hears ∧ (tr = .mctp → s.mod.inited = true)
    let answered (t : Mod) (d : List Byte) : Prop := (match tr with
      | .mctp => Resp.spdm .mctp d ∈ t.mgt.resp ∧ t.regs = s.mod.regs
      | .window => regN t secP 0x5C = min d.length 1024 ∧ windowBytes t 0x400 (min d.length 1024) = d.take 1024 ∧ t.mgt = s.mod.mgt) ∧
      t = { s.mod with regs := t.regs, mgt := t.mgt, sec := t.sec }
    let same (t : Mod) : Prop := t.sec = s.mod.sec
    let errs (c : Instr) (e : Byte) : Prop := serves → Gives c s fun t => answered t [0x13#8, 0x7F#8, e, 0#8] ∧ same t
    (∀ c, (c = .getVersion tr ∨ c = .getCapabilities tr ∨ (∃ a h, c = .negotiateAlgorithms tr a h) ∨ c = .getDigests tr ∨
        (∃ a b l, c = .getCertificate tr a b l) ∨ (∃ a n, c = .challenge tr a n) ∨ ∃ i n, c = .getMeasurements tr i n) →
      (¬ hears → Gives c s fun t => t = s.mod) ∧
      (hears → ¬ serves → Gives c s fun t => answered t [0x13#8, 0x7F#8, 0x03#8, 0#8] ∧ same t)) ∧
    (serves → Gives (.getVersion tr) s fun t => rec' t = ⟨true, false, false⟩ ∧ t.sec.nonceNo = s.mod.sec.nonceNo ∧
      answered t [0x10#8, 0x04#8, 0#8, 0#8, 0#8, 1#8, 0#8, 0x13#8]) ∧
    (st.version = false → errs (.getCapabilities tr) 0x04#8) ∧
    (st.version = true → serves → Gives (.getCapabilities tr) s fun t => rec' t = ⟨true, true, false⟩ ∧
      ∃ d, answered t ([0x13#8, 0x61#8] ++ d) ∧ d.length = 18) ∧
    (∀ a h, (st.caps = false → errs (.negotiateAlgorithms tr a h) 0x04#8) ∧
      (st.caps = true → serves → Gives (.negotiateAlgorithms tr a h) s fun t =>
        rec' t = { st with algs := a.getLsbD 9 && h.getLsbD 2 } ∧ ∃ d, answered t ([0x13#8, 0x63#8] ++ d) ∧ d.length = 34)) ∧
    (st.algs = false → errs (.getDigests tr) 0x04#8 ∧ (∀ a b l, errs (.getCertificate tr a b l) 0x04#8) ∧
      (∀ a n, errs (.challenge tr a n) 0x04#8) ∧ ∀ i n, errs (.getMeasurements tr i n) 0x04#8) ∧
    (st.algs = true →
      (serves → Gives (.getDigests tr) s fun t => answered t ([0x13#8, 0x01#8, 1#8, 1#8] ++ hashBytes Config.certChain) ∧ same t) ∧
      (∀ a b l, (a ≠ 0 ∨ Config.certChain.length ≤ b → errs (.getCertificate tr a b l) 0x01#8) ∧
        (a = 0 → b < Config.certChain.length → serves → Gives (.getCertificate tr a b l) s fun t => same t ∧
          let p := (Config.certChain.drop b).take (min l 1016)
          answered t ([0x13#8, 0x02#8, 0#8, 0#8] ++ toBytes p.length 2 ++ toBytes (Config.certChain.length - b - p.length) 2 ++ p))) ∧
      (∀ a n, (a ≠ 0 → errs (.challenge tr a n) 0x01#8) ∧
        (a = 0 → serves → Gives (.challenge tr a n) s fun t => t.sec = { s.mod.sec with nonceNo := s.mod.sec.nonceNo + 1 } ∧
          let b := [0x13#8, 0x03#8, 0#8, 1#8] ++ hashBytes Config.certChain ++ toBytes (Config.nonce s.mod.sec.nonceNo).toNat 32 ++ [0#8, 0#8]
          answered t (b ++ signBytes (toBytes n.toNat 32 ++ b)))) ∧
      (∀ i n, (9 < i → i ≠ 0xFF → errs (.getMeasurements tr i n) 0x01#8) ∧
        (i ≤ 9 ∨ i = 0xFF → serves → Gives (.getMeasurements tr i n) s fun t => t.sec = { s.mod.sec with nonceNo := s.mod.sec.nonceNo + 1 } ∧
          ∃ d, answered t d ∧ d.take 2 = [0x13#8, 0x60#8] ∧ (i = 0 → d.take 5 = [0x13#8, 0x60#8, 9#8, 0#8, 0#8]) ∧
            (1 ≤ i → i ≤ 9 → ∃ r, d = [0x13#8, 0x60#8, 0#8, 0#8, 1#8] ++ toBytes (measBlock s.mod i).length 3 ++ measBlock s.mod i ++ r)))) ∧
    (tr = .window → let q := windowRequest s.mod
      (s.mod.sys.rails = false → Gives .spdmGo s fun t => t = s.mod) ∧
      (q.length < 4 → errs .spdmGo 0x01#8) ∧
      (4 ≤ q.length → (part q 1 1 = 0x84 → exec .spdmGo s = exec (.getVersion .window) s) ∧
        (part q 1 1 = 0xE1 → exec .spdmGo s = exec (.getCapabilities .window) s) ∧
        (part q 1 1 = 0xE3 → exec .spdmGo s =
          exec (.negotiateAlgorithms .window (BitVec.ofNat 32 (part q 8 4)) (BitVec.ofNat 32 (part q 12 4))) s) ∧
        (part q 1 1 = 0x81 → exec .spdmGo s = exec (.getDigests .window) s) ∧
        (part q 1 1 = 0x82 → exec .spdmGo s = exec (.getCertificate .window (part q 2 1) (part q 4 2) (part q 6 2)) s) ∧
        (part q 1 1 = 0x83 → exec .spdmGo s = exec (.challenge .window (part q 2 1) (BitVec.ofNat 256 (part q 4 32))) s) ∧
        (part q 1 1 = 0xE0 → exec .spdmGo s = exec (.getMeasurements .window (part q 3 1) (BitVec.ofNat 256 (part q 4 32))) s) ∧
        (part q 1 1 ∉ [0x84, 0xE1, 0xE3, 0x81, 0x82, 0x83, 0xE0] → errs .spdmGo 0x07#8)))

/-- A running core executes an instruction only if the word at its pc is the instruction's encoding; any other word
changes nothing, a reserved word raises cause 0x01, a pc outside the code or not a multiple of 4 cause 0x02, and a
core that does not run does nothing. An exception stops the core with the exit of its cause, keeps its registers, and
saves the cause: a face in FAC_EXC_CAUSE and FAC_EXC_PC, with its copies performed and every other face of its command
stopped; a drill in RET31 and the fault words, counted in 0xC8. EXIT ends with rs1[7:0], at most 0xEF, and a face's
partner that waits takes cause 0x08. STEP and BARRIER wait for every face of the command, then all go on; with a
partner gone they raise 0x08. (R382, R383, R386, R397, R398) -/
def Obligations.CoresIssueTheWordAtTheirPc : Prop :=
  ∀ (s : State),
    let exitCode (x : Nat) : Nat := if x = 0x20 then 0xF2 else if 0x10 ≤ x then 0xF1 else 0xF0
    (∀ i c w, coreInstr i = some (c, w) →
      let runs : Prop := s.mod.sys.quarryOn = true ∧ match c with
        | .face n => ∃ f, faceOf s.mod n = some f ∧ unitState s.mod (.page (facP n)) ≠ 2 ∧ unitState s.mod (.page (cruP n)) ≠ 2 ∧
            f.cmd.isSome = true ∧ f.doomed = false ∧ f.wait = none ∧ 1 ≤ f.st ∧ f.st ≤ 3
        | .drill k n => s.mod.pwr.stall = false ∧ ∃ d, drillOf s.mod k n = some d ∧ unitState s.mod (.drill k n) ≠ 2 ∧ d.ready = false ∧ d.ended = false ∧ d.st = 3
      let word : Option Word := match c with
        | .face n => (faceOf s.mod n).bind fun f => if f.pc < f.codeLen ∧ f.pc % 4 = 0
            then some (BitVec.ofNat 32 (ofBytes ((upto 4).map fun j => cellGet f.store (f.pc + j)))) else none
        | .drill k n => (drillOf s.mod k n).bind fun d => if 0x1000 ≤ d.pc ∧ d.pc % 4 = 0 then d.code[(d.pc - 0x1000) / 4]? else none
      (¬ runs → Gives i s fun t => t = s.mod) ∧
      (runs → word = none → Gives i s fun t => t = coreExc s.mod c 0x02) ∧
      ∀ v, runs → word = some v → (coreBad c v = true → Gives i s fun t => t = coreExc s.mod c 0x01) ∧
        (coreBad c v = false → v ≠ w → Gives i s fun t => t = s.mod)) ∧
    (∀ k n d x a, k < 8 → drillOf s.mod k n = some d → let t := coreExc s.mod (.drill k n) x a
      ∃ y : Drill, drillOf t k n = some y ∧ y = { d with ended := true, fault := true, st := 4, exit := exitCode x, area := y.area } ∧
        areaN y 0xFC = x % 256 ∧ areaN y 0x60 = a % 2 ^ 32 ∧ areaN y 0x64 % 2 ^ 14 = a / 2 ^ 32 % 2 ^ 14 ∧
        regN t (drlP k) 0xC8 = min (regN s.mod (drlP k) 0xC8 + 1) 0xFFFFFFFF ∧ t.mem = s.mod.mem ∧ t.faces = s.mod.faces ∧
        ∀ b e, (b, e) ≠ (k, n) → drillOf t b e = drillOf s.mod b e) ∧
    (∀ n f x, x < 256 → x ≠ 0x20 → faceOf s.mod n = some f → let t := coreExc s.mod (.face n) x
      (∃ y : Face, faceOf t n = some y ∧ y = { f with st := 4, cmd := none, wait := none, xfers := [], outb := [], pstats := [], rpend := [], gpend := [], last := f.prog, doomed := false, store := y.store } ∧
        (f.xfers = [] → y.store = f.store)) ∧
      regN t (facP n) 0x68 = exitCode x * 2 ^ 24 + x ∧ regN t (facP n) 0x6C = (if x = 0 then 0 else f.pc % 2 ^ 23) ∧
      ∀ k g, k ≠ n → faceOf s.mod k = some g → g.cmd = f.cmd → f.cmd.isSome = true →
        ∃ y : Face, faceOf t k = some y ∧ y.st = 0 ∧ y.cmd = none ∧ y.wait = none) ∧
    (∀ k n rd rs1 d, Issues s.mod (.exit (.drill k n) rd rs1) (.drill k n) → drillOf s.mod k n = some d →
      Gives (.exit (.drill k n) rd rs1) s fun t =>
        DrillBecomes s.mod t k n { d with exit := min (drillR d rs1.toNat % 256) 0xEF, st := 4, fault := false, ended := true }) ∧
    (∀ n rd rs1 f, Issues s.mod (.exit (.face n) rd rs1) (.face n) → faceOf s.mod n = some f →
      let code := min (faceX f rs1.toNat % 256) 0xEF
      Gives (.exit (.face n) rd rs1) s fun t =>
        (∃ y : Face, faceOf t n = some y ∧ y = { f with st := 0, cmd := none, wait := none, xfers := [], outb := [], pstats := [], rpend := [], gpend := [], last := f.prog, doomed := false, store := y.store }) ∧
        (∀ k g, k ≠ n → k < 128 → faceOf s.mod k = some g → g.cmd = f.cmd → g.wait.isSome = true →
          regN t (facP k) 0x68 = 0xF0 * 2 ^ 24 + 0x08 ∧ ∃ y : Face, faceOf t k = some y ∧ y.st = 4 ∧ y.cmd = none) ∧
        ∀ cid q w, f.cmd = some cid → cmdOf s.mod cid = some q → q.run = some w → w.cores.filter (· != .face n) ≠ [] →
          (∀ g ∈ s.mod.faces, g.cmd = f.cmd → g.id ≠ n → g.wait = none) →
          (cmdOf t cid).bind (·.run) = some { w with cores := w.cores.filter (· != .face n), exits := w.exits ++ [(.face n, code)], rsums := putSums w.rsums f.rpend, grads := f.gpend.foldl addGrad w.grads }) ∧
    (∀ n rd rs1 f b, let i := if b then Instr.step n rd rs1 else .barrier n rd rs1
      Issues s.mod i (.face n) → faceOf s.mod n = some f → (s.mod.faces.map (·.id)).Nodup →
      let gone := ∃ cid q w, f.cmd = some cid ∧ cmdOf s.mod cid = some q ∧ q.run = some w ∧ w.exits ≠ []
      let met := ∀ k g, k ≠ n → faceOf s.mod k = some g → g.cmd = f.cmd → g.wait = some (f.pc, b)
      (gone → Gives i s fun t => t = coreExc s.mod (.face n) 0x08) ∧
      (¬ gone → ¬ met → Gives i s fun t => FaceBecomes s.mod t n { f with wait := some (f.pc, b) }) ∧
      (¬ gone → met → Gives i s fun t =>
        ∀ k g, faceOf s.mod k = some g → (g.cmd = f.cmd → ∃ y : Face, faceOf t k = some y ∧
          y = { g with wait := none, pc := (g.pc + 4) % 2 ^ 23, outb := [], pstats := [], rpend := [], gpend := [], skews := 0 }) ∧
          (g.cmd ≠ f.cmd → faceOf t k = some g)))

/-- On either core, with the word at its pc the instruction's: ALU, the immediate forms, LUI and SHI write rd with the
wrapped result of their operation at the core's width, and register 0 is never written; a branch goes to pc + 4 ×
offset where its comparison holds and to pc + 4 else; JAL links in x31, JALR in rd, and its target, read before the
link, has bits [1:0] clear; CSRR reads the tick, the stop tick, the number, the flags or the drill's run number (the
cycle counts are free values); SETB sets one bank base. Every other register, memory and core is unchanged. (R382,
R383, R385, R391, R396) -/
def Obligations.ScalarInstructionsWriteOneRegister : Prop :=
  ∀ (s : State) (c : Core), RegsWhole s.mod c →
    let W := coreW c
    let x (r : BitVec 5) : BitVec W := BitVec.ofNat W (getX s.mod c r.toNat)
    let pc := getPc s.mod c
    let writes (i : Instr) (rd : BitVec 5) (v : BitVec W) : Prop := Issues s.mod i c →
      Gives i s fun t => ScalarWrites s.mod t c rd.toNat v.toNat (pcOf c (pc + 4))
    let branch (i : Instr) (off : BitVec 16) (p : Prop) : Prop := Issues s.mod i c →
      (p → Gives i s fun t => ScalarWrites s.mod t c 0 0 (pcOf c (pc + 4 * off.toInt))) ∧
      (¬ p → Gives i s fun t => ScalarWrites s.mod t c 0 0 (pcOf c (pc + 4)))
    let reads (rd a : BitVec 5) (n : BitVec 8) (v : Nat) : Prop := Issues s.mod (.csrr c rd a n) c →
      Gives (.csrr c rd a n) s fun t => ScalarWrites { s.mod with draws := s.mod.draws + 1 } t c rd.toNat v (pcOf c (pc + 4))
    (∀ rd a b : BitVec 5, let alu (f : BitVec 11) (v : BitVec W) : Prop := writes (.alu c rd a b f) rd v
      let k := (x b).toNat % 64
      alu 0x000#11 (x a + x b) ∧ alu 0x001#11 (x a - x b) ∧ alu 0x002#11 (x a &&& x b) ∧ alu 0x003#11 (x a ||| x b) ∧
      alu 0x004#11 (x a ^^^ x b) ∧ alu 0x005#11 (x a <<< k) ∧ alu 0x006#11 (x a >>> k) ∧ alu 0x007#11 ((x a).sshiftRight k) ∧
      alu 0x008#11 (BitVec.ofNat W (bN ((x a).slt (x b)))) ∧ alu 0x009#11 (BitVec.ofNat W (bN ((x a).ult (x b)))) ∧
      alu 0x00A#11 (x a * x b) ∧ alu 0x00B#11 (BitVec.ofNat W ((x a).toNat * (x b).toNat / 2 ^ W))) ∧
    (∀ (rd a : BitVec 5) (imm : BitVec 16), let e := imm.signExtend W
      let k := imm.toNat % 64
      writes (.addi c rd a imm) rd (x a + e) ∧ writes (.andi c rd a imm) rd (x a &&& e) ∧ writes (.ori c rd a imm) rd (x a ||| e) ∧
      writes (.xori c rd a imm) rd (x a ^^^ e) ∧ writes (.lui c rd a imm) rd (e <<< 16) ∧
      (imm.toNat / 64 = 0 → writes (.shi c rd a imm) rd (x a <<< k)) ∧
      (imm.toNat / 64 = 1 → writes (.shi c rd a imm) rd (x a >>> k)) ∧
      (imm.toNat / 64 = 2 → writes (.shi c rd a imm) rd ((x a).sshiftRight k))) ∧
    (∀ (a b : BitVec 5) (off : BitVec 16),
      branch (.beq c a b off) off (x a = x b) ∧ branch (.bne c a b off) off (x a ≠ x b) ∧
      branch (.blt c a b off) off ((x a).toInt < (x b).toInt) ∧ branch (.bge c a b off) off ((x b).toInt ≤ (x a).toInt) ∧
      branch (.bltu c a b off) off ((x a).toNat < (x b).toNat) ∧ branch (.bgeu c a b off) off ((x b).toNat ≤ (x a).toNat)) ∧
    (∀ off : BitVec 26, Issues s.mod (.jal c off) c →
      Gives (.jal c off) s fun t => ScalarWrites s.mod t c 31 (pc + 4) (pcOf c (pc + 4 * off.toInt))) ∧
    (∀ (rd a : BitVec 5) (imm : BitVec 16), Issues s.mod (.jalr c rd a imm) c → let target := (x a + imm.signExtend W).toNat
      Gives (.jalr c rd a imm) s fun t => ScalarWrites s.mod t c rd.toNat (pc + 4) (pcOf c (target / 4 * 4 : Nat))) ∧
    (∀ rd a : BitVec 5, let cmd := match c with
        | .face n => ((faceOf s.mod n).bind (·.cmd)).bind (cmdOf s.mod)
        | .drill k n => ((drillOf s.mod k n).bind (·.cmd)).bind (cmdOf s.mod)
      let stop := (cmd.bind (·.stop)).getD 0
      reads rd a 0#8 (now s.mod % 2 ^ 32) ∧ reads rd a 1#8 (now s.mod / 2 ^ 32 % 2 ^ 32) ∧ reads rd a 2#8 (stop % 2 ^ 32) ∧
      reads rd a 3#8 (stop / 2 ^ 32 % 2 ^ 32) ∧
      (∀ n, c = .face n → reads rd a 4#8 (n / 32 * 2 ^ 8 + n % 32) ∧ reads rd a 5#8 (Config.cycles s.mod.draws) ∧
        reads rd a 6#8 (regN s.mod (facP n) 0x48)) ∧
      (∀ k n d, c = .drill k n → drillOf s.mod k n = some d → reads rd a 4#8 n ∧ reads rd a 5#8 (d.seq % 2 ^ 16) ∧
        reads rd a 6#8 (Config.cycles s.mod.draws))) ∧
    (∀ k n d (rd a : BitVec 5) (b : BitVec 4), c = .drill k n → drillOf s.mod k n = some d →
      (8 ≤ b.toNat → Gives (.setb k n rd a b) s fun t => t = s.mod) ∧
      (b.toNat < 8 → Issues s.mod (.setb k n rd a b) c → Gives (.setb k n rd a b) s fun t => ∃ y : Drill,
        DrillBecomes s.mod t k n y ∧ y = { d with b := y.b, pc := pcOf c (pc + 4) } ∧
        ∀ j, drillB y j = if j = b.toNat then (x a).toNat + (x rd).toNat % 2 ^ 14 * 2 ^ 32 else drillB d j))

/-- LD and LW of a face read, SD and SW write, 8 or 4 bytes of its own store at rs1 + imm; an address that is not local,
out of range or not aligned raises cause 0x10, and a load of bytes that a drain is writing waits. LW, LH and LBU of a
drill read, and SW, SH and SB write, scratch; beyond 0x8100 or misaligned they raise 0x10 with the address saved, and
a store to the command area below its return words raises 0x13. LW and LH extend the sign, LBU does not. A store
changes exactly its bytes, a load exactly rd. (R384, R390, R391, R397) -/
def Obligations.ScalarAccessesStayInLocalStore : Prop :=
  ∀ (s : State),
    let byteOf (v k : Nat) : Byte := BitVec.ofNat 8 (v / 2 ^ (8 * k))
    (∀ n f (rd a : BitVec 5) (imm : BitVec 16), faceOf s.mod n = some f → f.x.length = 32 →
      let at' := (BitVec.ofNat 64 (faceX f a.toNat) + imm.signExtend 64).toNat
      let o := at' % 2 ^ 23
      let bad (k : Nat) : Prop := bitAt at' 63 = false ∨ bits at' 23 40 ≠ 0 ∨ 0x700000 < o + k ∨ at' % k ≠ 0
      let busy (k : Nat) : Prop := ∃ q ∈ f.acc, q.drain = true ∧ at' < q.hi ∧ q.lo < at' + k
      let load (i : Instr) (k : Nat) (v : BitVec 64) : Prop := Issues s.mod i (.face n) →
        (bad k → Gives i s fun t => t = coreExc s.mod (.face n) 0x10) ∧
        (¬ bad k → busy k → Gives i s fun t => t = s.mod) ∧
        (¬ bad k → ¬ busy k → Gives i s fun t => ScalarWrites s.mod t (.face n) rd.toNat v.toNat (pcOf (.face n) (f.pc + 4)))
      let store (i : Instr) (k : Nat) : Prop := Issues s.mod i (.face n) →
        (bad k → Gives i s fun t => t = coreExc s.mod (.face n) 0x10) ∧
        (¬ bad k → Gives i s fun t => ∃ y : Face, FaceBecomes s.mod t n y ∧ y = { f with store := y.store, pc := pcOf (.face n) (f.pc + 4) } ∧
          ∀ j, cellGet y.store j = if o ≤ j ∧ j < o + k then byteOf (faceX f rd.toNat) (j - o) else cellGet f.store j)
      let le (k : Nat) : Nat := ofBytes ((upto k).map fun j => cellGet f.store (o + j))
      load (.ld n rd a imm) 8 (BitVec.ofNat 64 (le 8)) ∧ load (.lw (.face n) rd a imm) 4 ((BitVec.ofNat 32 (le 4)).signExtend 64) ∧
      store (.sd n rd a imm) 8 ∧ store (.sw (.face n) rd a imm) 4) ∧
    (∀ k n d (rd a : BitVec 5) (imm : BitVec 16), drillOf s.mod k n = some d → d.r.length = 32 →
      let c : Core := .drill k n
      let at' := (BitVec.ofNat 32 (drillR d a.toNat) + imm.signExtend 32).toNat
      let out (b : Nat) : Prop := 0x8100 < at' + b ∨ at' % b ≠ 0
      let load (i : Instr) (b : Nat) (v : BitVec 32) : Prop := Issues s.mod i c →
        (out b → Gives i s fun t => t = coreExc s.mod c 0x10 at') ∧
        (¬ out b → Gives i s fun t => ScalarWrites s.mod t c rd.toNat v.toNat (pcOf c (d.pc + 4)))
      let store (i : Instr) (b : Nat) : Prop := Issues s.mod i c →
        (out b → Gives i s fun t => t = coreExc s.mod c 0x10 at') ∧
        (¬ out b → 0x8000 ≤ at' → at' < 0x8080 → Gives i s fun t => t = coreExc s.mod c 0x13 at') ∧
        (¬ out b → at' < 0x8000 ∨ 0x8080 ≤ at' → Gives i s fun t => ∃ y : Drill, DrillBecomes s.mod t k n y ∧
          y = { d with scratch := y.scratch, area := y.area, pc := pcOf c (d.pc + 4) } ∧ (at' < 0x8000 → y.area = d.area) ∧
          (0x8080 ≤ at' → y.scratch = d.scratch) ∧
          ∀ j, scratchByte y j = if at' ≤ j ∧ j < at' + b then byteOf (drillR d rd.toNat) (j - at') else scratchByte d j)
      let le (b : Nat) : Nat := ofBytes (scratchRead d at' b)
      load (.lw c rd a imm) 4 (BitVec.ofNat 32 (le 4)) ∧ load (.lh k n rd a imm) 2 ((BitVec.ofNat 16 (le 2)).signExtend 32) ∧
      load (.lbu k n rd a imm) 1 (BitVec.ofNat 32 (le 1)) ∧ store (.sw c rd a imm) 4 ∧ store (.sh k n rd a imm) 2 ∧ store (.sb k n rd a imm) 1)

/-- With the word at a face's pc the instruction's: arithmetic and functions write to each lane of vd whose mask bit is
set the result of their funct, and keep the others; a compare writes the lanes of its mask, mask 0 excepted; a
reduction folds the active lanes in ascending order into a scalar register, +0 where there is none; a convert expands
codes exactly, or reports the tag mismatch that its check finds, or packs them at scale 1 into the low bytes, a
reserved format raising 0x03; a move broadcasts, selects or extracts. VLD and VST move 1 KiB at a local address of 32
bytes' alignment, else 0x10; VLD waits for a drain of its bytes. Nothing else of the face, and no other core, changes.
VEXTR past lane 255 takes a free value (log). (R383, R384, R387, R388, R389, R390) -/
def Obligations.VectorInstructionsActPerActiveLane : Prop :=
  ∀ (s : State) (n : Nat) (f : Face), faceOf s.mod n = some f → f.x.length = 32 →
    (∀ e ∈ f.v, e.2.length = 256) → (∀ e ∈ f.mask, e.2.length = 256) →
    let c : Core := .face n
    let pc := pcOf c (f.pc + 4)
    let lane (r : BitVec 5) (i : Nat) : Word := (faceV f r.toNat).getD i 0#32
    let on (k : BitVec 3) (i : Nat) : Bool := (faceM f k.toNat).getD i false
    let does (i : Instr) (P : Mod → Prop) : Prop := Issues s.mod i c → Gives i s P
    let sets (i : Instr) (vd : BitVec 5) (g : Nat → Word) : Prop := does i fun t => ∃ y : Face,
      FaceBecomes s.mod t n y ∧ y = { f with v := y.v, pc := pc } ∧ (∀ j, j ≠ vd.toNat → faceV y j = faceV f j) ∧
      (faceV y vd.toNat).length = 256 ∧ ∀ i, i < 256 → (faceV y vd.toNat).getD i 0#32 = g i
    (∀ (d a b : BitVec 5) (k : BitVec 3),
      let ar (fn : BitVec 8) (g : Word → Word → Word → Word) : Prop :=
        sets (.vectorArithmetic n d a b k fn) d fun i => if on k i then g (lane d i) (lane a i) (lane b i) else lane d i
      let fu (fn : BitVec 8) (g : Word → Word) : Prop :=
        sets (.vectorFunction n d a b k fn) d fun i => if on k i then g (lane a i) else lane d i
      let cmp (fn : BitVec 8) (g : Word → Word → Bool) : Prop := does (.vectorCompare n d a b k fn) fun t => ∃ y : Face,
        FaceBecomes s.mod t n y ∧ y = { f with mask := y.mask, pc := pc } ∧ (∀ j, j ≠ d.toNat ∨ d = 0#5 → faceM y j = faceM f j) ∧
        (d ≠ 0#5 → ∀ i, i < 256 → (faceM y d.toNat).getD i false =
          if on k i then g (lane a i) (lane b i) else (faceM f d.toNat).getD i false)
      let scalar (i : Instr) (v : Word) : Prop := does i fun t => ScalarWrites s.mod t c d.toNat v.toNat pc
      let act := ((upto 256).filter (on k)).map (lane a)
      let red (fn : BitVec 8) (g : Word → List Word → Word) : Prop :=
        scalar (.vectorReduce n d a b k fn) (match act with | [] => 0#32 | x :: r => g x r)
      ar 0x00#8 (fun _ x y => Fp.fadd x y) ∧ ar 0x01#8 (fun _ x y => Fp.fsub x y) ∧ ar 0x02#8 (fun _ x y => Fp.fmul x y) ∧
      ar 0x03#8 (fun z x y => Fp.fma x y z) ∧ ar 0x04#8 (fun _ x y => Fp.fmax x y) ∧ ar 0x05#8 (fun _ x y => Fp.fmin x y) ∧
      ar 0x06#8 (fun _ x y => Fp.fdiv x y) ∧ ar 0x10#8 (fun _ x y => x + y) ∧ ar 0x11#8 (fun _ x y => x - y) ∧
      ar 0x12#8 (fun _ x y => x &&& y) ∧ ar 0x13#8 (fun _ x y => x >>> (y.toNat % 32)) ∧
      fu 0x00#8 Fp.fexp ∧ fu 0x01#8 Fp.ftanh ∧ fu 0x02#8 Fp.flog2 ∧ fu 0x03#8 Fp.frcp ∧ fu 0x04#8 Fp.frsqrt ∧ fu 0x05#8 Fp.fsqrt ∧
      fu 0x06#8 (fun x => if Fp.isNan x then 0x7FC00000#32 else x &&& 0x7FFFFFFF#32) ∧
      fu 0x07#8 (fun x => if Fp.isNan x then 0x7FC00000#32 else x ^^^ 0x80000000#32) ∧
      cmp 0x00#8 Fp.feq ∧ cmp 0x01#8 Fp.flt ∧ cmp 0x02#8 Fp.fle ∧
      red 0x00#8 (fun x r => r.foldl Fp.fadd x) ∧ red 0x01#8 (fun x r => r.foldl Fp.fmax x) ∧ red 0x02#8 (fun x r => r.foldl Fp.fmin x) ∧
      red 0x03#8 (fun x r => amaxOf (x :: r)) ∧
      (∀ (fn : BitVec 8) (sk : Option TagSkew), let ty := fn.toNat % 16
        let i := Instr.vectorConvert n d a b k ⟨fn, sk⟩
        let old := laneBytes (faceV f d.toNat)
        let met := isScaled ty = true ∧ fn.getLsbD 4 = false ∧ sk.isSome = true
        (∀ x, isScaled ty = true → fn.getLsbD 4 = false → sk = some x → does i fun t => t = skewAt s.mod n x.want x.got x.group) ∧
        (9 < ty → does i fun t => t = coreExc s.mod c 0x03) ∧
        (ty ≤ 9 → ¬ met → fn.getLsbD 4 = false →
          sets i d fun j => if on k j then expandCode ty (unpackCode ty (laneBytes (faceV f a.toNat)) j) else lane d j) ∧
        (ty ≤ 9 → fn.getLsbD 4 = true → does i fun t => ∃ y : Face, FaceBecomes s.mod t n y ∧ y = { f with v := y.v, pc := pc } ∧
          (∀ j, j ≠ d.toNat → faceV y j = faceV f j) ∧ let new := laneBytes (faceV y d.toNat)
          new.length = 1024 ∧ (∀ j, 32 * fmtBits ty ≤ j → j < 1024 → new.getD j 0#8 = 0#8) ∧
          ∀ j, j < 256 → unpackCode ty new j =
            if on k j then (convert ty (lane a j) .one).1 % 2 ^ fmtBits ty else unpackCode ty old j)) ∧
      sets (.vectorMove n d a b k 0x00#8) d (fun i => if on k i then BitVec.ofNat 32 (faceX f a.toNat) else lane d i) ∧
      sets (.vectorMove n d a b k 0x01#8) d (fun i =>
        if on k i && !(faceM f (b.toNat % 8)).getD i false then lane a i else lane d i) ∧
      (faceX f b.toNat < 256 → scalar (.vectorMove n d a b k 0x02#8) ((faceV f a.toNat).getD (faceX f b.toNat) 0#32)) ∧
      (256 ≤ faceX f b.toNat → scalar (.vectorMove n d a b k 0x02#8) (Config.laneOut (faceV f a.toNat) (faceX f b.toNat)))) ∧
    (∀ (d a : BitVec 5) (imm : BitVec 16), let at' := (BitVec.ofNat 64 (faceX f a.toNat) + imm.signExtend 64 * 1024#64).toNat
      let o := at' % 2 ^ 23
      let bad : Prop := bitAt at' 63 = false ∨ bits at' 23 40 ≠ 0 ∨ 0x700000 < o + 1024 ∨ at' % 32 ≠ 0
      let busy : Prop := ∃ q ∈ f.acc, q.drain = true ∧ at' < q.hi ∧ q.lo < at' + 1024
      (bad → (does (.vld n d a imm) fun t => t = coreExc s.mod c 0x10) ∧ does (.vst n d a imm) fun t => t = coreExc s.mod c 0x10) ∧
      (¬ bad → busy → does (.vld n d a imm) fun t => t = s.mod) ∧
      (¬ bad → ¬ busy → sets (.vld n d a imm) d fun i => BitVec.ofNat 32 (ofBytes ((upto 4).map fun j => cellGet f.store (o + 4 * i + j)))) ∧
      (¬ bad → does (.vst n d a imm) fun t => ∃ y : Face, FaceBecomes s.mod t n y ∧ y = { f with store := y.store, pc := pc } ∧
        ∀ j, cellGet y.store j = if o ≤ j ∧ j < o + 1024 then BitVec.ofNat 8 ((lane d ((j - o) / 4)).toNat / 2 ^ (8 * ((j - o) % 4)))
          else cellGet f.store j))

/-- With the word at a face's pc the instruction's: TDESC loads a descriptor with origin (0, 0) or raises 0x03, 0x07 or
its access cause; TORG sets the origin. TMMA waits, counted once, for the drain of its set, raises its operand's cause
or reports a tag mismatch, else replaces each of the 4,096 totals by its accumulation in R270's order and ORs the
flags. TDRAIN and TFIN report the tag mismatch that their checks find, or put the epilogue's results into the output
tile: in fp32, bf16 and fp16 each element's code stands at its place and every other byte reads as before; the set
drains and the flags are counted. DRAIN_END ends a drain. TPART adds its tile once and tells whether it completed the
bitmap, or sends it to the node that owns the descriptor (what x(xs_q) then holds is free: log); TSTAT gives the
flags; XFER queues a copy and XWAIT performs the copies. Reads wait for the host's write lease, and stop the command
on an uncorrectable granule. (R270, R271, R272, R273, R274, R275, R278, R280, R297, R318, R365, R390) -/
def Obligations.TensorInstructionsAccumulateAndDrain : Prop :=
  ∀ (s : State) (n : Nat) (f : Face), faceOf s.mod n = some f → f.x.length = 32 → f.acc.length = 2 →
    let c : Core := .face n
    let pc := pcOf c (f.pc + 4)
    let P := facP n
    let does (i : Instr) (Q : Mod → Prop) : Prop := Issues s.mod i c → Gives i s Q
    let raises (i : Instr) (x : Nat) : Prop := does i fun t => t = coreExc s.mod c x
    let waits (i : Instr) : Prop := does i fun t => FaceBecomes s.mod t n { f with st := 3 }
    let stops (i : Instr) : Prop := ∀ cid, f.cmd = some cid → does i fun t => t = cmdStop s.mod cid 0xF4 0x30 0
    let counts (t : Mod) (r : Nat) : Prop := regN t P r = min (regN s.mod P r + 1) 0xFFFFFFFF
    let emits (i : Instr) (ti si ea : Nat) (tile : Nat → Word) : Prop := does i fun t => ∃ y : Face, faceOf t n = some y ∧
      (∀ k, k ≠ n → faceOf t k = faceOf s.mod k) ∧ y.st = 1 ∧ y.pc = pc ∧ y.x = f.x ∧ y.v = f.v ∧ (accOf y si).drain = true ∧
      (accOf y si).tile = (accOf f si).tile ∧ accOf y (1 - si) = accOf f (1 - si) ∧ t.mem = s.mod.mem ∧ t.drills = s.mod.drills ∧
      counts t 0x4C ∧ getReg t P 0x48 = getReg s.mod P 0x48 ||| BitVec.ofNat 32 (accOf y si).flags ∧
      let e := readEpi (faceRead s.mod f ea 80)
      let d := faceTd f ti
      let wb := fmtBits d.fmt / 8
      let place (i j : Nat) : Nat := let q := stored d (d.row + i) (d.col + j)
        d.base + q.1 * d.stride + wb * q.2
      let inside (i j : Nat) : Prop := i < 64 ∧ j < 64 ∧ inTensor d (stored d (d.row + i) (d.col + j)) = true
      d.fmt ≤ 2 → wb * d.cols ≤ d.stride →
        (∀ i j, inside i j → faceRead s.mod y (place i j) wb = toBytes (convert d.fmt
          (epiElem s.mod f e (rsOf s.mod f (accOf f si) i) (tile (64 * i + j)) (d.row + i) (d.col + j)) .one).1 wb) ∧
        ∀ b, b < 2 ^ 46 ∨ (2 ^ 63 ≤ b ∧ b < 2 ^ 63 + 2 ^ 23) → (∀ i j, inside i j → b < place i j ∨ place i j + wb ≤ b) →
          faceRead s.mod y b 1 = faceRead s.mod f b 1
    (∀ set, let q := accOf f (bN set)
      (q.drain = false → Gives (.drainEnd n set) s fun t => t = s.mod) ∧
      (q.drain = true → Gives (.drainEnd n set) s fun t =>
        FaceBecomes s.mod t n { f with acc := f.acc.set (bN set) { q with drain := false, lo := 0, hi := 0, mode := 0 } })) ∧
    (∀ w : BitVec 26, let at' := faceX f (tP w)
      let bs := faceRead s.mod f at' 32
      let ok := faceAccess s.mod at' 32 1 = none ∧ leaseWaits s.mod at' 32 = false ∧ readHurt s.mod at' 32 = false
      let set (i : Instr) (Q : TDesc → Prop) : Prop := does i fun t => ∃ y : Face, FaceBecomes s.mod t n y ∧
        y = { f with td := y.td, pc := pc } ∧ (∀ j, j ≠ tA w → faceTd y j = faceTd f j) ∧ Q (faceTd y (tA w))
      (∀ x, faceAccess s.mod at' 32 1 = some x → raises (.tdesc n w) x) ∧
      (faceAccess s.mod at' 32 1 = none → leaseWaits s.mod at' 32 = true → does (.tdesc n w) fun t => t = recallRange s.mod at' 32) ∧
      (faceAccess s.mod at' 32 1 = none → leaseWaits s.mod at' 32 = false → readHurt s.mod at' 32 = true → stops (.tdesc n w)) ∧
      (ok → 9 < u bs 16 1 % 16 → raises (.tdesc n w) 0x03) ∧
      (let wrong := u bs 12 4 % 32 ≠ 0 ∨ u bs 8 2 = 0 ∨ u bs 10 2 = 0 ∨ 32 ≤ u bs 16 1 ∨ u bs 20 4 ≠ 0
       (ok → u bs 16 1 % 16 ≤ 9 → wrong → raises (.tdesc n w) 0x07) ∧
       (ok → u bs 16 1 % 16 ≤ 9 → ¬ wrong → set (.tdesc n w) fun d => d.base = u bs 0 8 ∧ d.rows = u bs 8 2 ∧ d.cols = u bs 10 2 ∧
        d.stride = u bs 12 4 ∧ d.fmt = u bs 16 1 % 16 ∧ d.transp = bitAt (u bs 16 1) 4 ∧ d.t0 = u bs 17 1 ∧ d.entry = u bs 18 2 ∧
        d.scales = u bs 24 8 ∧ d.row = 0 ∧ d.col = 0 ∧ d.addr = at' ∧ d.done = [])) ∧
      set (.torg n w) fun d => d = { faceTd f (tA w) with row := faceX f (tP w), col := faceX f (tQ w) }) ∧
    (∀ w : BitVec 26, let i := Instr.tmma n w
      let q := accOf f (tSet w)
      let A := faceTd f (tA w)
      let B := faceTd f (tB w)
      let k0 := faceX f (tP w)
      let K := faceX f (tQ w)
      let start := tZero w = true ∨ q.begun = false
      let busy := q.drain = true ∨ (start ∧ bitAt (regN s.mod P 0x40) 0 = false ∧ ∃ p ∈ f.acc, p.drain = true)
      let bad := (operandBad s.mod f A k0).orElse fun _ => operandBad s.mod f B k0
      let leased := ∃ r ∈ tensorRanges A ++ tensorRanges B, leaseWaits s.mod r.1 r.2 = true
      let hurt := tensorHurt s.mod A = true ∨ tensorHurt s.mod B = true
      let tag := (tagFault s.mod f A (groupsOf A A.row 64 (A.col + k0) K)).orElse fun _ =>
        tagFault s.mod f B (groupsOf B (B.row + k0) K B.col 64)
      (busy → f.st = 3 → does i fun t => t = s.mod) ∧
      (busy → f.st ≠ 3 → does i fun t => faceOf t n = some { f with st := 3 } ∧ counts t 0x58 ∧ t = { s.mod with faces := t.faces, regs := t.regs }) ∧
      (¬ busy → (∀ x, bad = some x → raises i x) ∧ (bad = none →
        (leased → does i fun t => t.faces = s.mod.faces ∧ t.mem = s.mod.mem) ∧ (¬ leased → hurt → stops i) ∧
        (¬ leased → ¬ hurt → (∀ x g k, tag = some (x, g, k) → does i fun t => t = skewAt s.mod n x g k) ∧
          (tag = none → does i fun t => ∃ y : Face, FaceBecomes s.mod t n y ∧ y = { f with acc := y.acc, st := 1, pc := pc } ∧
            accOf y (1 - tSet w) = accOf f (1 - tSet w) ∧ let r := accOf y (tSet w)
            r.drain = false ∧ (start → r.begun = true ∧ r.cfg = regN s.mod P 0x40 ∧ r.cru = regN s.mod (cruP n) 0x40) ∧ r.tile.length = 4096 ∧ r.flags = ((if tZero w then 0 else q.flags) ||| r.flags) ∧
            ∀ a b, a < 64 → b < 64 → r.tile.getD (64 * a + b) 0#32 = (elemAcc
              (fun k => elemAt s.mod f A (A.row + a) (A.col + k)) (fun k => elemAt s.mod f B (B.row + k) (B.col + b))
              (fun k => blockExp s.mod f A (okEntry s.mod f A) (A.row + a) (A.col + k))
              (fun k => blockExp s.mod f B (okEntry s.mod f B) (B.row + k) (B.col + b)) k0 K
              (if tZero w then 0#32 else q.tile.getD (64 * a + b) 0#32)).1))))) ∧
    (∀ w : BitVec 26, let q := accOf f (tSet w)
      let bad := outBad s.mod f (faceTd f (tA w)) (faceX f (tP w))
      (∀ sk, (q.drain = true → waits (.tdrain n ⟨w, sk⟩)) ∧ (∀ x, q.drain = false → bad = some x → raises (.tdrain n ⟨w, sk⟩) x) ∧
        (∀ x, q.drain = false → bad = none → outSkew f (tA w) sk = some x → does (.tdrain n ⟨w, sk⟩) fun t => t = skewAt s.mod n x.want x.got x.group) ∧
        (q.drain = false → bad = none → outSkew f (tA w) sk = none →
          emits (.tdrain n ⟨w, sk⟩) (tA w) (tSet w) (faceX f (tP w)) fun p => q.tile.getD p 0#32)) ∧
      (q.drain = true → does (.tstat n w) fun t => t = s.mod) ∧
      (q.drain = false → does (.tstat n w) fun t => ScalarWrites s.mod t c (tQ w) q.flags pc)) ∧
    (∀ (w : BitVec 26) (ow : Option Nat), let q := accOf f (tSet w)
      let d := faceX f (tP w)
      let i := Instr.tpart n ⟨w, ow⟩
      let own := ow = none ∨ ow = s.mod.fab.node
      let reach := isLocal d = false ∧ faceAccess s.mod d 144 1 = none
      let room := ksRoom s.mod (tileAdds s.mod (ksTarget s.mod d) q.tile f.cmd) = true
      let r := ksAccept s.mod d f.rank q.tile f.cmd P
      let ends (t : Mod) (v : Nat) : Prop := ∃ y : Face, faceOf t n = some y ∧ y.pc = pc ∧ (accOf y (tSet w)).drain = true ∧
        (tQ w ≠ 0 → faceX y (tQ w) = v % 2 ^ 64) ∧ (∀ j, j ≠ tQ w → faceX y j = faceX f j) ∧ counts t 0x5C ∧ counts t 0x4C
      (q.drain = true → waits i) ∧ (q.drain = false → isLocal d = true → raises i 0x07) ∧
      (q.drain = false → own →
        (∀ x, isLocal d = false → faceAccess s.mod d 144 1 = some x → raises i x) ∧
        (reach → ksBad s.mod d = true ∨ ksCount s.mod d ≤ f.rank → raises i 0x07) ∧
        (reach → ksBad s.mod d = false → f.rank < ksCount s.mod d → ¬ room → does i fun t => t = s.mod) ∧
        (reach → ksBad s.mod d = false → f.rank < ksCount s.mod d → room → does i fun t => ends t (bN r.2) ∧ t.mem = r.1.mem ∧
          t.svc = r.1.svc ∧ (bitAt (ksBitmap s.mod d) f.rank = true → t.mem = s.mod.mem ∧ t.svc = s.mod.svc ∧ counts t 0x60 ∧ r.2 = false))) ∧
      (∀ node, q.drain = false → ow = some node → ow ≠ s.mod.fab.node → isLocal d = false →
        (bits d 46 17 ≠ 0 → raises i 0x11) ∧
        (bits d 46 17 = 0 → s.mod.fab.node = none → does i fun t => t = s.mod) ∧
        (bits d 46 17 = 0 → s.mod.fab.node.isSome = true → does i fun t => ends t (bN (Config.ksLast s.mod.draws)) ∧ t.mem = s.mod.mem ∧
          t.svc = s.mod.svc ∧ t.draws = s.mod.draws + 1 ∧ ∃ x, t.fab.txs = s.mod.fab.txs ++ [x] ∧ x.tag = s.mod.fab.tag ∧ x.dst = node ∧
            x.kind = 1 ∧ x.face = n ∧ x.sent = now s.mod ∧ x.tries = 0 ∧ x.frames.length = 65))) ∧
    (∀ (w : BitVec 26) (sk : Option TagSkew), let q := accOf f (tSet w)
      let d := faceX f (tP w)
      let i := Instr.tfin n ⟨w, sk⟩
      let split := isLocal d = false ∧ faceAccess s.mod d 144 1 = none ∧ ksBad s.mod d = false
      let bad := outBad s.mod f (faceTd f (tA w)) (faceX f (tQ w))
      let k := ksTarget s.mod d
      let pend := ∃ p ∈ s.mod.svc, k ≤ p.addr ∧ p.addr < k + 16384
      let goes := split ∧ bad = none ∧ q.drain = false ∧ ¬ pend
      (isLocal d = true → raises i 0x07) ∧
      (∀ x, isLocal d = false → faceAccess s.mod d 144 1 = some x → raises i x) ∧
      (isLocal d = false → faceAccess s.mod d 144 1 = none → ksBad s.mod d = true → raises i 0x07) ∧
      (∀ x, split → bad = some x → raises i x) ∧ (split → bad = none → q.drain = true → waits i) ∧
      (split → bad = none → q.drain = false → pend → does i fun t => t = s.mod) ∧
      (goes → readHurt s.mod k 16384 = true → stops i) ∧
      (∀ x, goes → readHurt s.mod k 16384 = false → outSkew f (tA w) sk = some x → does i fun t => t = skewAt s.mod n x.want x.got x.group) ∧
      (goes → readHurt s.mod k 16384 = false → outSkew f (tA w) sk = none →
        (emits i (tA w) (tSet w) (faceX f (tQ w)) fun p => BitVec.ofNat 32 (recN s.mod (k + 4 * p) 4)) ∧
        does i fun t => (∀ a, a ∈ t.ksat ↔ a ∈ s.mod.ksat ∧ ¬ (k ≤ a ∧ a < k + 16384)) ∧
          ((∃ a ∈ s.mod.ksat, k ≤ a ∧ a < k + 16384) → bitAt (regN t P 0x48) 0 = true))) ∧
    (∀ (rd a b : BitVec 5) (fn : BitVec 11), let i := Instr.xfer n rd a b fn
      let dst := faceX f rd.toNat
      let src := faceX f a.toNat
      let len := faceX f b.toNat
      let bad := (faceAccess s.mod src len 32).orElse fun _ => faceAccess s.mod dst len 32
      (len % 32 ≠ 0 → raises i 0x10) ∧ (∀ x, len % 32 = 0 → bad = some x → raises i x) ∧
      (len % 32 = 0 → bad = none → does i fun t => FaceBecomes s.mod t n { f with xfers := f.xfers ++ [(src, dst, len)], pc := pc })) ∧
    (∀ w : BitVec 26, let i := Instr.xwait n w
      let leased := ∃ x ∈ f.xfers, leaseWaits s.mod x.1 x.2.2 = true
      let hurt := ∃ x ∈ f.xfers, readHurt s.mod x.1 x.2.2 = true
      (leased → does i fun t => t.faces = s.mod.faces ∧ t.mem = s.mod.mem) ∧ (¬ leased → hurt → stops i) ∧
      (¬ leased → ¬ hurt → does i fun t => ∃ y : Face, FaceBecomes s.mod t n y ∧
        y = { f with store := y.store, outb := y.outb, xfers := [], pc := pc } ∧ (f.xfers = [] → y.store = f.store ∧ y.outb = f.outb) ∧
        ∀ src dst len, f.xfers = [(src, dst, len)] → faceAccess s.mod dst len 32 = none →
          faceRead s.mod y dst len = faceRead s.mod f src len))

/-- With the word at a drill's pc the instruction's: QARITH, QFUNC and QCVT, where no tag mismatch is met, write the
active lanes of their register and keep the others, QCMP a predicate, QRED a scalar, QMOV broadcasts or extracts. BLD
reads 64 bytes of the slice; BST writes exactly 64 and BSTW exactly 4 within the region; outside the slice or
misaligned raises 0x12, a retired page 0x11, outside the region 0x13, with the address saved. An uncorrectable granule
stops the drill with exit 0xF8 and is marked; a corrected one is counted. QLD and QST move 64 bytes of scratch; QTBL
reads fp16 table entries or raises 0x14; LINS inserts in order, dropping the last of a full list. (R347, R348, R361,
R362, R363, R373, R391, R392, R393, R397, R416) -/
def Obligations.DrillInstructionsComputeAndAccessTheirSlice : Prop :=
  ∀ (s : State) (k n : Nat) (d : Drill), drillOf s.mod k n = some d → d.r.length = 32 →
    (∀ e ∈ d.q, e.2.length = 16) → (∀ e ∈ d.p, e.2.length = 16) →
    let c : Core := .drill k n
    let pc := pcOf c (d.pc + 4)
    let lane (r i : Nat) : Word := (drillQ d r).getD i 0#32
    let does (i : Instr) (P : Mod → Prop) : Prop := Issues s.mod i c → Gives i s P
    let raises (i : Instr) (x a : Nat) : Prop := does i fun t => t = coreExc s.mod c x a
    let setsIn (y : Drill) (r : Nat) (g : Nat → Word) : Prop := (∀ j, j ≠ r → drillQ y j = drillQ d j) ∧
      (drillQ y r).length = 16 ∧ ∀ i, i < 16 → (drillQ y r).getD i 0#32 = g i
    let sets (i : Instr) (r : Nat) (g : Nat → Word) : Prop := does i fun t => ∃ y : Drill, DrillBecomes s.mod t k n y ∧
      y = { d with q := y.q, pc := pc } ∧ setsIn y r g
    let eccStop (i : Instr) (g : Nat) : Prop := does i fun t => g ∈ t.mem.ue ∧ ReadsSame s.mod t ∧
      regN t (drlP k) 0xC0 = min (regN s.mod (drlP k) 0xC0 + 1) 0xFFFFFFFF ∧
      ∃ y : Drill, drillOf t k n = some y ∧ y = { d with exit := 0xF8, st := 5, fault := true, ended := true, area := y.area } ∧
        areaN y 0x60 = g % 2 ^ 32
    let corr (t : Mod) (a : Nat) (e : Ecc) : Prop := eccAt s.mod a e = .corrected →
      regN t (drlP k) 0xC4 = min (regN s.mod (drlP k) 0xC4 + 1) 0xFFFFFFFF
    let moves (t : Mod) : Prop := drillOf t k n = some { d with pc := pc } ∧ t.faces = s.mod.faces ∧
      ∀ a b, (a, b) ≠ (k, n) → drillOf t a b = drillOf s.mod a b
    (∀ w : BitVec 26, let on (i : Nat) : Bool := (drillP d (qPred w)).getD i false
      let D := qD w
      let wide (r : Nat) : Nat := r + 16 * bits (qFunct w) 11 1
      let ar (fn : Nat) (g : Word → Word → Word → Word) : Prop := qFunct w = fn →
        sets (.qarith k n w) D fun i => if on i then g (lane D i) (lane (qS1 w) i) (lane (qS2 w) i) else lane D i
      let cmp (fn : Nat) (g : Word → Word → Bool) : Prop := qFunct w = fn → does (.qcmp k n w) fun t => ∃ y : Drill,
        DrillBecomes s.mod t k n y ∧ y = { d with p := y.p, pc := pc } ∧ (∀ j, j ≠ D ∨ D = 0 → drillP y j = drillP d j) ∧
        (D ≠ 0 → ∀ i, i < 16 → (drillP y D).getD i false = if on i then g (lane (qS1 w) i) (lane (qS2 w) i) else (drillP d D).getD i false)
      let scalar (i : Instr) (v : Word) : Prop := does i fun t => ScalarWrites s.mod t c (wide D) v.toNat pc
      let act := ((upto 16).filter on).map (lane (qS1 w))
      ar 0x000 (fun _ x y => Fp.fadd x y) ∧ ar 0x001 (fun _ x y => Fp.fsub x y) ∧ ar 0x002 (fun _ x y => Fp.fmul x y) ∧
      ar 0x003 (fun z x y => Fp.fma x y z) ∧ ar 0x004 (fun _ x y => Fp.fmax x y) ∧ ar 0x005 (fun _ x y => Fp.fmin x y) ∧
      ar 0x010 (fun _ x y => x + y) ∧ ar 0x012 (fun _ x y => x &&& y) ∧
      sets (.qfunc k n w) D (fun i => if on i then Fp.fexp (lane (qS1 w) i) else lane D i) ∧
      cmp 0x000 Fp.feq ∧ cmp 0x001 Fp.flt ∧ cmp 0x002 Fp.fle ∧
      (qFunct w % 2048 = 0 → scalar (.qred k n w) (match act with | [] => 0#32 | x :: r => r.foldl Fp.fadd x)) ∧
      (qFunct w % 2048 = 1 → scalar (.qred k n w) (match act with | [] => 0#32 | x :: r => r.foldl Fp.fmax x)) ∧
      (∀ (sk : Option TagSkew) x, isScaled (qFunct w) = true → sk = some x → does (.qcvt k n ⟨w, sk⟩) fun t => t = drillSkew s.mod k n x) ∧
      (∀ sk : Option TagSkew, isScaled (qFunct w) = false ∨ sk = none → sets (.qcvt k n ⟨w, sk⟩) D fun i =>
        if on i then expandCode (qFunct w) (unpackCode (qFunct w) (laneBytes (drillQ d (qS1 w))) i) else lane D i) ∧
      (qFunct w % 2048 = 0 → sets (.qmov k n w) D fun i => if on i then BitVec.ofNat 32 (drillR d (wide (qS1 w))) else lane D i) ∧
      (qFunct w % 2048 = 1 → scalar (.qmov k n w) (lane (qS1 w) (qS2 w))) ∧
      (let at' (i : Nat) : Nat := drillR d (qS2 w + 16) + 2 * (lane (qS1 w) i).toNat
       let past := ∃ i, i < 16 ∧ on i = true ∧ 0x200000 < at' i + 2
       (past → raises (.qtbl k n w) 0x14 0) ∧
       (¬ past → sets (.qtbl k n w) D fun i => if on i then expandCode 2 (ofBytes [cellGet (tabStore s.mod k) (at' i),
          cellGet (tabStore s.mod k) (at' i + 1)]) else lane D i))) ∧
    (∀ (w : BitVec 26) (e : Ecc), let addr (m : Int) : Nat := (((drillB d (mBk w) : Int) + drillR d (mRs w) + m * mImm w) % 70368744177664).toNat
      let mine (a : Nat) : Prop := sliceOf s.mod a = some (k, n)
      let inside (a b : Nat) : Prop := regionBase d ≤ a ∧ a + b ≤ regionBase d + regionLen d
      let a := addr 32
      let gone (a b : Nat) : Prop := pageNo a ∈ s.mod.mem.retiredPg ∨ pageNo (a + b - 1) ∈ s.mod.mem.retiredPg
      let out (a b align : Nat) : Prop := a % align ≠ 0 ∨ (¬ gone a b ∧ (¬ mine a ∨ ¬ mine (a + b - 1)))
      let bad := a % 32 ≠ 0 ∨ gone a 64 ∨ ¬ mine a ∨ ¬ mine (a + 63)
      let v := addr 4
      let bad4 := v % 4 ≠ 0 ∨ gone v 4 ∨ ¬ mine v ∨ ¬ mine (v + 3)
      let low := eccAt s.mod a e = .uncorrectable
      let high := a + 32 ∈ s.mod.mem.ue
      (out a 64 32 → raises (.bld k n w e) 0x12 a ∧ raises (.bst k n w) 0x12 a) ∧ (out v 4 4 → raises (.bstw k n w e) 0x12 v) ∧
      (a % 32 = 0 → gone a 64 → raises (.bld k n w e) 0x11 a ∧ raises (.bst k n w) 0x11 a) ∧
      (v % 4 = 0 → gone v 4 → raises (.bstw k n w e) 0x11 v) ∧
      (¬ bad → low → eccStop (.bld k n w e) a) ∧ (¬ bad → ¬ low → high → eccStop (.bld k n w e) (a + 32)) ∧
      (¬ bad → ¬ low → ¬ high → does (.bld k n w e) fun t => corr t a e ∧ t.mem = s.mod.mem ∧ t.faces = s.mod.faces ∧
        ∃ y : Drill, drillOf t k n = some y ∧ y = { d with q := y.q, pc := pc } ∧
          setsIn y (mQ w) fun i => BitVec.ofNat 32 (ofBytes (readBytes s.mod (a + 4 * i) 4))) ∧
      (¬ bad → ¬ inside a 64 → raises (.bst k n w) 0x13 a) ∧
      (¬ bad → inside a 64 → does (.bst k n w) fun t => moves t ∧
        ∀ b, readByte t b = if a ≤ b ∧ b < a + 64 then BitVec.ofNat 8 ((lane (mQ w) ((b - a) / 4)).toNat / 2 ^ (8 * ((b - a) % 4)))
          else readByte s.mod b) ∧
      (¬ bad4 → ¬ inside v 4 → raises (.bstw k n w e) 0x13 v) ∧
      (¬ bad4 → inside v 4 → eccAt s.mod v e = .uncorrectable → eccStop (.bstw k n w e) (v / 32 * 32)) ∧
      (¬ bad4 → inside v 4 → eccAt s.mod v e ≠ .uncorrectable → does (.bstw k n w e) fun t => moves t ∧ corr t v e ∧
        ∀ b, readByte t b = if v ≤ b ∧ b < v + 4 then BitVec.ofNat 8 ((lane (mQ w) 0).toNat / 2 ^ (8 * (b - v))) else readByte s.mod b)) ∧
    (∀ w : BitVec 26, let a := (((drillR d (mRs w) : Int) + 64 * mImm w) % 4294967296).toNat
      let out := 0x8100 < a + 64 ∨ a % 64 ≠ 0
      (out → raises (.qld k n w) 0x10 a ∧ raises (.qst k n w) 0x10 a) ∧
      (¬ out → sets (.qld k n w) (mQ w) fun i => BitVec.ofNat 32 (ofBytes (scratchRead d (a + 4 * i) 4))) ∧
      (¬ out → 0x8000 ≤ a → a < 0x8080 → raises (.qst k n w) 0x13 a) ∧
      (¬ out → a < 0x8000 ∨ 0x8080 ≤ a → does (.qst k n w) fun t => ∃ y : Drill, DrillBecomes s.mod t k n y ∧
        y = { d with scratch := y.scratch, area := y.area, pc := pc } ∧ ∀ j, scratchByte y j = if a ≤ j ∧ j < a + 64
          then BitVec.ofNat 8 ((lane (mQ w) ((j - a) / 4)).toNat / 2 ^ (8 * ((j - a) % 4))) else scratchByte d j)) ∧
    (∀ (rd ra rb : BitVec 5) (fn : BitVec 11), let i := Instr.lins k n rd ra rb fn
      let a := drillR d rd.toNat
      let cap := ofBytes (scratchRead d a 2)
      let cnt := min cap (ofBytes (scratchRead d (a + 2) 2))
      let out (b : Nat) : Prop := 0x8100 < a + b ∨ a % 4 ≠ 0
      let shut (b : Nat) : Prop := 0x8000 < a + b ∧ a < 0x8080
      let x : LEnt := (BitVec.ofNat 32 (drillR d ra.toNat), BitVec.ofNat 64 (drillR d rb.toNat + drillR d ((rb.toNat + 1) % 32) * 2 ^ 32),
        BitVec.ofNat 32 (drillR d 29))
      let old := (upto cnt).map fun j => readLEnt d (a + 8 + 16 * j)
      let last := old.getD (cnt - 1) x
      (out 8 → raises i 0x10 a) ∧ (¬ out 8 → shut 8 → raises i 0x13 a) ∧
      (¬ out 8 → ¬ shut 8 → out (8 + 16 * cap) → raises i 0x10 a) ∧
      (¬ out 8 → ¬ shut 8 → ¬ out (8 + 16 * cap) → shut (8 + 16 * cap) → raises i 0x13 a) ∧
      (¬ out 8 → ¬ shut 8 → ¬ out (8 + 16 * cap) → ¬ shut (8 + 16 * cap) → does i fun t => ∃ y : Drill, DrillBecomes s.mod t k n y ∧
        y = { d with scratch := y.scratch, area := y.area, pc := pc } ∧ let len := min cap (cnt + 1)
        let new := (upto len).map fun j => readLEnt y (a + 8 + 16 * j)
        ofBytes (scratchRead y (a + 2) 2) = len ∧ (∀ e ∈ new, e = x ∨ e ∈ old) ∧
        (∀ j, j < a + 2 ∨ a + 4 ≤ j ∧ j < a + 8 ∨ a + 8 + 16 * len ≤ j → scratchByte y j = scratchByte d j) ∧
        (old.Pairwise (fun p q => lentLt q p = false) → new.Pairwise (fun p q => lentLt q p = false) ∧
          (cnt < cap → x ∈ new ∧ ∀ e ∈ old, e ∈ new) ∧ (0 < cap → cnt = cap → lentLt x last = true → x ∈ new ∧ ∀ e ∈ old.dropLast, e ∈ new) ∧
          (cnt = cap → lentLt x last = false → new = old))))

/-- For every state s whose memories are in their one form (the benches, flash, the local stores of faces and of their
work records, the drills' scratch and the scan tables: addresses strictly rising, no byte listed that an unlisted
address reads as): if a step answers t, the memories of t are. Equal memories are then equal data, whatever command
ran. (R427, R384, R391, R373, 14_benches_and_flash.md) -/
def Obligations.EveryStepKeepsTheMemoriesInTheirForm : Prop :=
  ∀ s t : State, memoriesWf s.mod → step s = .next t → memoriesWf t.mod

/-- For every state s in which each face has 32 scalar registers, 256 lanes and mask bits and two accumulator sets, no
face number stands twice, each drill has 16 lanes and, while it runs, 32 registers, and the held writes, the write
buffer (no arrival number twice, pages in flash alone) and the copies and logs of moves are whole granules, with 8
stacks and 32 flash channels: if a step answers t, t is such a state. The premises of the statements on instructions,
stores and media are parts of it. (R359, R434, R441, R442, R402, 12_instruction_sets.md) -/
def Obligations.EveryStepKeepsCoresAndBuffersWhole : Prop :=
  ∀ s t : State, coresWhole s.mod → buffersWhole s.mod → step s = .next t → coresWhole t.mod ∧ buffersWhole t.mod
end

