-- ==== Sys2Proof/Laws/Maps.lean ====
section
/-! SUPPORT. The laws of sparse maps and of memory lists: what is written reads back, every other key reads as before,
and the canonical form is kept. -/

namespace Sys2Proof.Laws

open Sys2Proof.Machine

variable {β : Type}

theorem find_filter_ne (l : List (Nat × β)) (k j : Nat) (h : j ≠ k) :
    (l.filter fun e => e.1 != k).find? (fun e => e.1 = j) = l.find? fun e => e.1 = j := by
  induction l with
  | nil => rfl
  | cons e l ih =>
    by_cases hk : e.1 = k
    · have : e.1 ≠ j := fun hj => h (hj.symm.trans hk)
      simpa [List.filter_cons, hk, List.find?_cons, Ne.symm h] using ih
    · by_cases hj : e.1 = j <;> simp_all

theorem mapGet_mapErase_ne (d : Nat → β) (l : List (Nat × β)) (k j : Nat) (h : j ≠ k) :
    mapGet d (mapErase l k) j = mapGet d l j := by
  simp only [mapGet, mapErase, find_filter_ne l k j h]

theorem mapGet_mapErase_self (d : Nat → β) (l : List (Nat × β)) (k : Nat) : mapGet d (mapErase l k) k = d k := by
  have : (l.filter fun e => e.1 != k).find? (fun e => decide (e.1 = k)) = none := by
    rw [List.find?_eq_none]; intro e he; simpa using (List.mem_filter.1 he).2
  simp only [mapGet, mapErase, this]

theorem find_mapInsert_ne (l : List (Nat × β)) (k j : Nat) (v : β) (h : j ≠ k) :
    (mapInsert l k v).find? (fun e => e.1 = j) = l.find? fun e => e.1 = j := by
  induction l with
  | nil => simp [mapInsert, Ne.symm h]
  | cons e l ih =>
    simp only [mapInsert]
    split
    · simp [List.find?_cons, Ne.symm h]
    · simp only [List.find?_cons]; split <;> simp_all

theorem find_mapInsert_self (l : List (Nat × β)) (k : Nat) (v : β) (h : ∀ e ∈ l, e.1 ≠ k) :
    (mapInsert l k v).find? (fun e => e.1 = k) = some (k, v) := by
  induction l with
  | nil => simp [mapInsert]
  | cons e l ih =>
    simp only [mapInsert]
    split
    · simp
    · have := h e (by simp)
      simp [this, ih fun x hx => h x (by simp [hx])]

theorem mapErase_keys (l : List (Nat × β)) (k : Nat) : ∀ e ∈ mapErase l k, e.1 ≠ k := by
  intro e he; simpa using (List.mem_filter.1 he).2

/-- What a map reads at the key that was set. -/
theorem mapGet_mapSet_self [DecidableEq β] (d : Nat → β) (l : List (Nat × β)) (k : Nat) (v : β) :
    mapGet d (mapSet d l k v) k = v := by
  unfold mapSet
  split
  · rw [mapGet_mapErase_self, ‹v = d k›]
  · simp only [mapGet, mapPut, find_mapInsert_self _ k v (mapErase_keys l k)]

/-- What a map reads at every other key. -/
theorem mapGet_mapSet_ne [DecidableEq β] (d : Nat → β) (l : List (Nat × β)) (k j : Nat) (v : β) (h : j ≠ k) :
    mapGet d (mapSet d l k v) j = mapGet d l j := by
  unfold mapSet
  split
  · exact mapGet_mapErase_ne d l k j h
  · unfold mapGet
    rw [mapPut, find_mapInsert_ne _ _ _ _ h, mapErase, find_filter_ne l k j h]

/-- A read of a map after one key was set. -/
theorem mapGet_mapSet [DecidableEq β] (d : Nat → β) (l : List (Nat × β)) (k j : Nat) (v : β) :
    mapGet d (mapSet d l k v) j = if j = k then v else mapGet d l j := by
  split
  · subst_vars; exact mapGet_mapSet_self ..
  · exact mapGet_mapSet_ne _ _ _ _ _ ‹_›

theorem mapRising_filter (p : Nat × β → Bool) (l : List (Nat × β)) (lo : Nat) (h : mapRising lo l = true) :
    mapRising lo (l.filter p) = true := by
  have weaken : ∀ (l : List (Nat × β)) (a b : Nat), a ≤ b → mapRising b l = true → mapRising a l = true := by
    intro l a b hab hb
    cases l with
    | nil => rfl
    | cons e l => simp only [mapRising, Bool.and_eq_true, decide_eq_true_eq] at *; exact ⟨by omega, hb.2⟩
  induction l generalizing lo with
  | nil => rfl
  | cons e l ih =>
    simp only [mapRising, Bool.and_eq_true, decide_eq_true_eq] at h
    simp only [List.filter_cons]
    split
    · simp only [mapRising, Bool.and_eq_true, decide_eq_true_eq]; exact ⟨h.1, ih _ h.2⟩
    · exact weaken _ _ _ (by omega) (ih _ h.2)

theorem mapRising_mapInsert (l : List (Nat × β)) (k lo : Nat) (v : β) (hk : lo ≤ k) (hne : ∀ e ∈ l, e.1 ≠ k)
    (h : mapRising lo l = true) : mapRising lo (mapInsert l k v) = true := by
  induction l generalizing lo with
  | nil => simp [mapInsert, mapRising, hk]
  | cons e l ih =>
    simp only [mapRising, Bool.and_eq_true, decide_eq_true_eq] at h
    have hek := hne e (by simp)
    simp only [mapInsert]
    split
    · simp only [mapRising, Bool.and_eq_true, decide_eq_true_eq]; exact ⟨hk, by omega, h.2⟩
    · simp only [mapRising, Bool.and_eq_true, decide_eq_true_eq]
      exact ⟨h.1, ih _ (by omega) (fun x hx => hne x (by simp [hx])) h.2⟩

theorem mem_mapInsert (l : List (Nat × β)) (k : Nat) (v : β) (e : Nat × β) (h : e ∈ mapInsert l k v) :
    e = (k, v) ∨ e ∈ l := by
  induction l with
  | nil => simpa [mapInsert] using h
  | cons x l ih =>
    simp only [mapInsert] at h
    split at h
    · simpa using h
    · rcases List.mem_cons.1 h with h | h
      · simp [h]
      · rcases ih h with h | h <;> simp [h]

/-- Entries taken out of a canonical map leave it canonical. -/
theorem mapWf_filter [DecidableEq β] (d : Nat → β) (l : List (Nat × β)) (p : Nat × β → Bool) (h : mapWf d l = true) :
    mapWf d (l.filter p) = true := by
  simp only [mapWf, Bool.and_eq_true, List.all_eq_true, decide_eq_true_eq] at *
  exact ⟨mapRising_filter p l 0 h.1, fun e he => h.2 e (List.mem_filter.1 he).1⟩

/-- Setting a key keeps the canonical form. -/
theorem mapWf_mapSet [DecidableEq β] (d : Nat → β) (l : List (Nat × β)) (k : Nat) (v : β) (h : mapWf d l = true) :
    mapWf d (mapSet d l k v) = true := by
  have he : mapWf d (mapErase l k) = true := mapWf_filter d l _ h
  unfold mapSet
  split
  · exact he
  · simp only [mapWf, Bool.and_eq_true, List.all_eq_true, decide_eq_true_eq] at *
    refine ⟨mapRising_mapInsert _ _ _ _ (Nat.zero_le k) (mapErase_keys l k) he.1, fun e hm => ?_⟩
    rcases mem_mapInsert _ _ _ _ hm with h | h
    · subst h; assumption
    · exact he.2 e h

/-! Memory lists. -/

/-- A byte written reads back; every other byte reads as before. -/
theorem cellGet_cellSet (l : List Host.Cell) (a j : Nat) (b : Byte) :
    cellGet (cellSet l a b) j = if j = a then b else cellGet l j := mapGet_mapSet ..

theorem wf_nil : Memory.wf [] = true := rfl

theorem wf_cellSet (l : List Host.Cell) (a : Nat) (b : Byte) (h : Memory.wf l = true) : Memory.wf (cellSet l a b) = true :=
  mapWf_mapSet _ _ _ _ h

theorem wf_cellsSet (bs : List Byte) (l : List Host.Cell) (a : Nat) (h : Memory.wf l = true) :
    Memory.wf (cellsSet l a bs) = true := by
  induction bs generalizing l a with
  | nil => exact h
  | cons b bs ih => exact ih _ _ (wf_cellSet l a b h)

theorem wf_filter (l : List Host.Cell) (p : Host.Cell → Bool) (h : Memory.wf l = true) : Memory.wf (l.filter p) = true :=
  mapWf_filter _ _ _ h

/-- What a run of bytes written leaves at every address. -/
theorem cellGet_cellsSet (bs : List Byte) (l : List Host.Cell) (a j : Nat) :
    cellGet (cellsSet l a bs) j = if h : a ≤ j ∧ j < a + bs.length then bs[j - a]'(by omega) else cellGet l j := by
  induction bs generalizing l a with
  | nil =>
    have : ¬ (a ≤ j ∧ j < a) := by omega
    simp [cellsSet, this]
  | cons b bs ih =>
    simp only [cellsSet, ih, cellGet_cellSet, List.length_cons]
    by_cases h : a + 1 ≤ j ∧ j < a + 1 + bs.length
    · have h' : a ≤ j ∧ j < a + (bs.length + 1) := by omega
      simp only [h, h', and_self, dite_true]
      have : j - a = (j - (a + 1)) + 1 := by omega
      simp [this]
    · by_cases hj : j = a
      · subst hj; simp
      · have h' : ¬ (a ≤ j ∧ j < a + (bs.length + 1)) := by omega
        simp only [h, h', dite_false, hj, ite_false]

end Sys2Proof.Laws
end

