-- ==== Sys2Proof/Laws/State.lean ====
section
/-! SUPPORT. The small lemmas of State: for each update of one part of the module, one lemma per other part, true by
rfl, and what the part itself reads as. -/

namespace Sys2Proof.Laws

open Sys2Proof.Machine

theorem state_ext (s t : State) (h : s.pending = t.pending) (g : s.mod = t.mod) : s = t := by
  cases s; cases t; simp_all

/-! Registers. -/

theorem getReg_setReg (m : Mod) (p q : Page) (r k : Nat) (v : Word) :
    getReg (setReg m p r v) q k = if pageBase q + k = pageBase p + r then v else getReg m q k := mapGet_mapSet ..

@[simp] theorem getReg_setReg_self (m : Mod) (p : Page) (r : Nat) (v : Word) : getReg (setReg m p r v) p r = v := by
  simp [getReg_setReg]

@[simp] theorem getReg_setRegN_self (m : Mod) (p : Page) (r v : Nat) : getReg (setRegN m p r v) p r = BitVec.ofNat 32 v := by
  simp [setRegN]

/-- A counter saturates at 0xFFFF_FFFF. -/
theorem regN_bump (m : Mod) (p : Page) (r n : Nat) : regN (bump m p r n) p r = min (regN m p r + n) 0xFFFFFFFF := by
  unfold bump regN
  rw [getReg_setRegN_self, BitVec.toNat_ofNat]
  apply Nat.mod_eq_of_lt
  omega

/-! setReg changes `regs` alone. -/

@[simp] theorem setReg_sys (m : Mod) (p : Page) (r : Nat) (v : Word) : (setReg m p r v).sys = m.sys := rfl
@[simp] theorem setReg_inited (m : Mod) (p : Page) (r : Nat) (v : Word) : (setReg m p r v).inited = m.inited := rfl
@[simp] theorem setReg_units (m : Mod) (p : Page) (r : Nat) (v : Word) : (setReg m p r v).units = m.units := rfl
@[simp] theorem setReg_chutes (m : Mod) (p : Page) (r : Nat) (v : Word) : (setReg m p r v).chutes = m.chutes := rfl
@[simp] theorem setReg_adm (m : Mod) (p : Page) (r : Nat) (v : Word) : (setReg m p r v).adm = m.adm := rfl
@[simp] theorem setReg_cmds (m : Mod) (p : Page) (r : Nat) (v : Word) : (setReg m p r v).cmds = m.cmds := rfl
@[simp] theorem setReg_nextCmd (m : Mod) (p : Page) (r : Nat) (v : Word) : (setReg m p r v).nextCmd = m.nextCmd := rfl
@[simp] theorem setReg_colls (m : Mod) (p : Page) (r : Nat) (v : Word) : (setReg m p r v).colls = m.colls := rfl
@[simp] theorem setReg_mirror (m : Mod) (p : Page) (r : Nat) (v : Word) : (setReg m p r v).mirror = m.mirror := rfl
@[simp] theorem setReg_resv (m : Mod) (p : Page) (r : Nat) (v : Word) : (setReg m p r v).resv = m.resv := rfl
@[simp] theorem setReg_ledger (m : Mod) (p : Page) (r : Nat) (v : Word) : (setReg m p r v).ledger = m.ledger := rfl
@[simp] theorem setReg_pkgs (m : Mod) (p : Page) (r : Nat) (v : Word) : (setReg m p r v).pkgs = m.pkgs := rfl
@[simp] theorem setReg_faces (m : Mod) (p : Page) (r : Nat) (v : Word) : (setReg m p r v).faces = m.faces := rfl
@[simp] theorem setReg_snaps (m : Mod) (p : Page) (r : Nat) (v : Word) : (setReg m p r v).snaps = m.snaps := rfl
@[simp] theorem setReg_drills (m : Mod) (p : Page) (r : Nat) (v : Word) : (setReg m p r v).drills = m.drills := rfl
@[simp] theorem setReg_svc (m : Mod) (p : Page) (r : Nat) (v : Word) : (setReg m p r v).svc = m.svc := rfl
@[simp] theorem setReg_ksat (m : Mod) (p : Page) (r : Nat) (v : Word) : (setReg m p r v).ksat = m.ksat := rfl
@[simp] theorem setReg_sats (m : Mod) (p : Page) (r : Nat) (v : Word) : (setReg m p r v).sats = m.sats := rfl
@[simp] theorem setReg_scanTab (m : Mod) (p : Page) (r : Nat) (v : Word) : (setReg m p r v).scanTab = m.scanTab := rfl
@[simp] theorem setReg_slots (m : Mod) (p : Page) (r : Nat) (v : Word) : (setReg m p r v).slots = m.slots := rfl
@[simp] theorem setReg_fab (m : Mod) (p : Page) (r : Nat) (v : Word) : (setReg m p r v).fab = m.fab := rfl
@[simp] theorem setReg_velom (m : Mod) (p : Page) (r : Nat) (v : Word) : (setReg m p r v).velom = m.velom := rfl
@[simp] theorem setReg_mem (m : Mod) (p : Page) (r : Nat) (v : Word) : (setReg m p r v).mem = m.mem := rfl
@[simp] theorem setReg_hbm (m : Mod) (p : Page) (r : Nat) (v : Word) : (setReg m p r v).hbm = m.hbm := rfl
@[simp] theorem setReg_pwr (m : Mod) (p : Page) (r : Nat) (v : Word) : (setReg m p r v).pwr = m.pwr := rfl
@[simp] theorem setReg_saf (m : Mod) (p : Page) (r : Nat) (v : Word) : (setReg m p r v).saf = m.saf := rfl
@[simp] theorem setReg_sec (m : Mod) (p : Page) (r : Nat) (v : Word) : (setReg m p r v).sec = m.sec := rfl
@[simp] theorem setReg_mgt (m : Mod) (p : Page) (r : Nat) (v : Word) : (setReg m p r v).mgt = m.mgt := rfl
@[simp] theorem setReg_draws (m : Mod) (p : Page) (r : Nat) (v : Word) : (setReg m p r v).draws = m.draws := rfl

/-! setRegN changes `regs` alone. -/

@[simp] theorem setRegN_sys (m : Mod) (p : Page) (r v : Nat) : (setRegN m p r v).sys = m.sys := rfl
@[simp] theorem setRegN_inited (m : Mod) (p : Page) (r v : Nat) : (setRegN m p r v).inited = m.inited := rfl
@[simp] theorem setRegN_units (m : Mod) (p : Page) (r v : Nat) : (setRegN m p r v).units = m.units := rfl
@[simp] theorem setRegN_chutes (m : Mod) (p : Page) (r v : Nat) : (setRegN m p r v).chutes = m.chutes := rfl
@[simp] theorem setRegN_adm (m : Mod) (p : Page) (r v : Nat) : (setRegN m p r v).adm = m.adm := rfl
@[simp] theorem setRegN_cmds (m : Mod) (p : Page) (r v : Nat) : (setRegN m p r v).cmds = m.cmds := rfl
@[simp] theorem setRegN_nextCmd (m : Mod) (p : Page) (r v : Nat) : (setRegN m p r v).nextCmd = m.nextCmd := rfl
@[simp] theorem setRegN_colls (m : Mod) (p : Page) (r v : Nat) : (setRegN m p r v).colls = m.colls := rfl
@[simp] theorem setRegN_mirror (m : Mod) (p : Page) (r v : Nat) : (setRegN m p r v).mirror = m.mirror := rfl
@[simp] theorem setRegN_resv (m : Mod) (p : Page) (r v : Nat) : (setRegN m p r v).resv = m.resv := rfl
@[simp] theorem setRegN_ledger (m : Mod) (p : Page) (r v : Nat) : (setRegN m p r v).ledger = m.ledger := rfl
@[simp] theorem setRegN_pkgs (m : Mod) (p : Page) (r v : Nat) : (setRegN m p r v).pkgs = m.pkgs := rfl
@[simp] theorem setRegN_faces (m : Mod) (p : Page) (r v : Nat) : (setRegN m p r v).faces = m.faces := rfl
@[simp] theorem setRegN_snaps (m : Mod) (p : Page) (r v : Nat) : (setRegN m p r v).snaps = m.snaps := rfl
@[simp] theorem setRegN_drills (m : Mod) (p : Page) (r v : Nat) : (setRegN m p r v).drills = m.drills := rfl
@[simp] theorem setRegN_svc (m : Mod) (p : Page) (r v : Nat) : (setRegN m p r v).svc = m.svc := rfl
@[simp] theorem setRegN_ksat (m : Mod) (p : Page) (r v : Nat) : (setRegN m p r v).ksat = m.ksat := rfl
@[simp] theorem setRegN_sats (m : Mod) (p : Page) (r v : Nat) : (setRegN m p r v).sats = m.sats := rfl
@[simp] theorem setRegN_scanTab (m : Mod) (p : Page) (r v : Nat) : (setRegN m p r v).scanTab = m.scanTab := rfl
@[simp] theorem setRegN_slots (m : Mod) (p : Page) (r v : Nat) : (setRegN m p r v).slots = m.slots := rfl
@[simp] theorem setRegN_fab (m : Mod) (p : Page) (r v : Nat) : (setRegN m p r v).fab = m.fab := rfl
@[simp] theorem setRegN_velom (m : Mod) (p : Page) (r v : Nat) : (setRegN m p r v).velom = m.velom := rfl
@[simp] theorem setRegN_mem (m : Mod) (p : Page) (r v : Nat) : (setRegN m p r v).mem = m.mem := rfl
@[simp] theorem setRegN_hbm (m : Mod) (p : Page) (r v : Nat) : (setRegN m p r v).hbm = m.hbm := rfl
@[simp] theorem setRegN_pwr (m : Mod) (p : Page) (r v : Nat) : (setRegN m p r v).pwr = m.pwr := rfl
@[simp] theorem setRegN_saf (m : Mod) (p : Page) (r v : Nat) : (setRegN m p r v).saf = m.saf := rfl
@[simp] theorem setRegN_sec (m : Mod) (p : Page) (r v : Nat) : (setRegN m p r v).sec = m.sec := rfl
@[simp] theorem setRegN_mgt (m : Mod) (p : Page) (r v : Nat) : (setRegN m p r v).mgt = m.mgt := rfl
@[simp] theorem setRegN_draws (m : Mod) (p : Page) (r v : Nat) : (setRegN m p r v).draws = m.draws := rfl

/-! noteUp changes `regs` alone. -/

@[simp] theorem noteUp_sys (m : Mod) (p : Page) (r n : Nat) : (noteUp m p r n).sys = m.sys := rfl
@[simp] theorem noteUp_inited (m : Mod) (p : Page) (r n : Nat) : (noteUp m p r n).inited = m.inited := rfl
@[simp] theorem noteUp_units (m : Mod) (p : Page) (r n : Nat) : (noteUp m p r n).units = m.units := rfl
@[simp] theorem noteUp_chutes (m : Mod) (p : Page) (r n : Nat) : (noteUp m p r n).chutes = m.chutes := rfl
@[simp] theorem noteUp_adm (m : Mod) (p : Page) (r n : Nat) : (noteUp m p r n).adm = m.adm := rfl
@[simp] theorem noteUp_cmds (m : Mod) (p : Page) (r n : Nat) : (noteUp m p r n).cmds = m.cmds := rfl
@[simp] theorem noteUp_nextCmd (m : Mod) (p : Page) (r n : Nat) : (noteUp m p r n).nextCmd = m.nextCmd := rfl
@[simp] theorem noteUp_colls (m : Mod) (p : Page) (r n : Nat) : (noteUp m p r n).colls = m.colls := rfl
@[simp] theorem noteUp_mirror (m : Mod) (p : Page) (r n : Nat) : (noteUp m p r n).mirror = m.mirror := rfl
@[simp] theorem noteUp_resv (m : Mod) (p : Page) (r n : Nat) : (noteUp m p r n).resv = m.resv := rfl
@[simp] theorem noteUp_ledger (m : Mod) (p : Page) (r n : Nat) : (noteUp m p r n).ledger = m.ledger := rfl
@[simp] theorem noteUp_pkgs (m : Mod) (p : Page) (r n : Nat) : (noteUp m p r n).pkgs = m.pkgs := rfl
@[simp] theorem noteUp_faces (m : Mod) (p : Page) (r n : Nat) : (noteUp m p r n).faces = m.faces := rfl
@[simp] theorem noteUp_snaps (m : Mod) (p : Page) (r n : Nat) : (noteUp m p r n).snaps = m.snaps := rfl
@[simp] theorem noteUp_drills (m : Mod) (p : Page) (r n : Nat) : (noteUp m p r n).drills = m.drills := rfl
@[simp] theorem noteUp_svc (m : Mod) (p : Page) (r n : Nat) : (noteUp m p r n).svc = m.svc := rfl
@[simp] theorem noteUp_ksat (m : Mod) (p : Page) (r n : Nat) : (noteUp m p r n).ksat = m.ksat := rfl
@[simp] theorem noteUp_sats (m : Mod) (p : Page) (r n : Nat) : (noteUp m p r n).sats = m.sats := rfl
@[simp] theorem noteUp_scanTab (m : Mod) (p : Page) (r n : Nat) : (noteUp m p r n).scanTab = m.scanTab := rfl
@[simp] theorem noteUp_slots (m : Mod) (p : Page) (r n : Nat) : (noteUp m p r n).slots = m.slots := rfl
@[simp] theorem noteUp_fab (m : Mod) (p : Page) (r n : Nat) : (noteUp m p r n).fab = m.fab := rfl
@[simp] theorem noteUp_velom (m : Mod) (p : Page) (r n : Nat) : (noteUp m p r n).velom = m.velom := rfl
@[simp] theorem noteUp_mem (m : Mod) (p : Page) (r n : Nat) : (noteUp m p r n).mem = m.mem := rfl
@[simp] theorem noteUp_hbm (m : Mod) (p : Page) (r n : Nat) : (noteUp m p r n).hbm = m.hbm := rfl
@[simp] theorem noteUp_pwr (m : Mod) (p : Page) (r n : Nat) : (noteUp m p r n).pwr = m.pwr := rfl
@[simp] theorem noteUp_saf (m : Mod) (p : Page) (r n : Nat) : (noteUp m p r n).saf = m.saf := rfl
@[simp] theorem noteUp_sec (m : Mod) (p : Page) (r n : Nat) : (noteUp m p r n).sec = m.sec := rfl
@[simp] theorem noteUp_mgt (m : Mod) (p : Page) (r n : Nat) : (noteUp m p r n).mgt = m.mgt := rfl
@[simp] theorem noteUp_draws (m : Mod) (p : Page) (r n : Nat) : (noteUp m p r n).draws = m.draws := rfl

/-! noteSet changes `regs` alone. -/

@[simp] theorem noteSet_sys (m : Mod) (p : Page) (r : Nat) (w : Word) : (noteSet m p r w).sys = m.sys := rfl
@[simp] theorem noteSet_inited (m : Mod) (p : Page) (r : Nat) (w : Word) : (noteSet m p r w).inited = m.inited := rfl
@[simp] theorem noteSet_units (m : Mod) (p : Page) (r : Nat) (w : Word) : (noteSet m p r w).units = m.units := rfl
@[simp] theorem noteSet_chutes (m : Mod) (p : Page) (r : Nat) (w : Word) : (noteSet m p r w).chutes = m.chutes := rfl
@[simp] theorem noteSet_adm (m : Mod) (p : Page) (r : Nat) (w : Word) : (noteSet m p r w).adm = m.adm := rfl
@[simp] theorem noteSet_cmds (m : Mod) (p : Page) (r : Nat) (w : Word) : (noteSet m p r w).cmds = m.cmds := rfl
@[simp] theorem noteSet_nextCmd (m : Mod) (p : Page) (r : Nat) (w : Word) : (noteSet m p r w).nextCmd = m.nextCmd := rfl
@[simp] theorem noteSet_colls (m : Mod) (p : Page) (r : Nat) (w : Word) : (noteSet m p r w).colls = m.colls := rfl
@[simp] theorem noteSet_mirror (m : Mod) (p : Page) (r : Nat) (w : Word) : (noteSet m p r w).mirror = m.mirror := rfl
@[simp] theorem noteSet_resv (m : Mod) (p : Page) (r : Nat) (w : Word) : (noteSet m p r w).resv = m.resv := rfl
@[simp] theorem noteSet_ledger (m : Mod) (p : Page) (r : Nat) (w : Word) : (noteSet m p r w).ledger = m.ledger := rfl
@[simp] theorem noteSet_pkgs (m : Mod) (p : Page) (r : Nat) (w : Word) : (noteSet m p r w).pkgs = m.pkgs := rfl
@[simp] theorem noteSet_faces (m : Mod) (p : Page) (r : Nat) (w : Word) : (noteSet m p r w).faces = m.faces := rfl
@[simp] theorem noteSet_snaps (m : Mod) (p : Page) (r : Nat) (w : Word) : (noteSet m p r w).snaps = m.snaps := rfl
@[simp] theorem noteSet_drills (m : Mod) (p : Page) (r : Nat) (w : Word) : (noteSet m p r w).drills = m.drills := rfl
@[simp] theorem noteSet_svc (m : Mod) (p : Page) (r : Nat) (w : Word) : (noteSet m p r w).svc = m.svc := rfl
@[simp] theorem noteSet_ksat (m : Mod) (p : Page) (r : Nat) (w : Word) : (noteSet m p r w).ksat = m.ksat := rfl
@[simp] theorem noteSet_sats (m : Mod) (p : Page) (r : Nat) (w : Word) : (noteSet m p r w).sats = m.sats := rfl
@[simp] theorem noteSet_scanTab (m : Mod) (p : Page) (r : Nat) (w : Word) : (noteSet m p r w).scanTab = m.scanTab := rfl
@[simp] theorem noteSet_slots (m : Mod) (p : Page) (r : Nat) (w : Word) : (noteSet m p r w).slots = m.slots := rfl
@[simp] theorem noteSet_fab (m : Mod) (p : Page) (r : Nat) (w : Word) : (noteSet m p r w).fab = m.fab := rfl
@[simp] theorem noteSet_velom (m : Mod) (p : Page) (r : Nat) (w : Word) : (noteSet m p r w).velom = m.velom := rfl
@[simp] theorem noteSet_mem (m : Mod) (p : Page) (r : Nat) (w : Word) : (noteSet m p r w).mem = m.mem := rfl
@[simp] theorem noteSet_hbm (m : Mod) (p : Page) (r : Nat) (w : Word) : (noteSet m p r w).hbm = m.hbm := rfl
@[simp] theorem noteSet_pwr (m : Mod) (p : Page) (r : Nat) (w : Word) : (noteSet m p r w).pwr = m.pwr := rfl
@[simp] theorem noteSet_saf (m : Mod) (p : Page) (r : Nat) (w : Word) : (noteSet m p r w).saf = m.saf := rfl
@[simp] theorem noteSet_sec (m : Mod) (p : Page) (r : Nat) (w : Word) : (noteSet m p r w).sec = m.sec := rfl
@[simp] theorem noteSet_mgt (m : Mod) (p : Page) (r : Nat) (w : Word) : (noteSet m p r w).mgt = m.mgt := rfl
@[simp] theorem noteSet_draws (m : Mod) (p : Page) (r : Nat) (w : Word) : (noteSet m p r w).draws = m.draws := rfl

/-! setLost changes `regs` alone. -/

@[simp] theorem setLost_sys (m : Mod) (p : Page) (r n : Nat) : (setLost m p r n).sys = m.sys := rfl
@[simp] theorem setLost_inited (m : Mod) (p : Page) (r n : Nat) : (setLost m p r n).inited = m.inited := rfl
@[simp] theorem setLost_units (m : Mod) (p : Page) (r n : Nat) : (setLost m p r n).units = m.units := rfl
@[simp] theorem setLost_chutes (m : Mod) (p : Page) (r n : Nat) : (setLost m p r n).chutes = m.chutes := rfl
@[simp] theorem setLost_adm (m : Mod) (p : Page) (r n : Nat) : (setLost m p r n).adm = m.adm := rfl
@[simp] theorem setLost_cmds (m : Mod) (p : Page) (r n : Nat) : (setLost m p r n).cmds = m.cmds := rfl
@[simp] theorem setLost_nextCmd (m : Mod) (p : Page) (r n : Nat) : (setLost m p r n).nextCmd = m.nextCmd := rfl
@[simp] theorem setLost_colls (m : Mod) (p : Page) (r n : Nat) : (setLost m p r n).colls = m.colls := rfl
@[simp] theorem setLost_mirror (m : Mod) (p : Page) (r n : Nat) : (setLost m p r n).mirror = m.mirror := rfl
@[simp] theorem setLost_resv (m : Mod) (p : Page) (r n : Nat) : (setLost m p r n).resv = m.resv := rfl
@[simp] theorem setLost_ledger (m : Mod) (p : Page) (r n : Nat) : (setLost m p r n).ledger = m.ledger := rfl
@[simp] theorem setLost_pkgs (m : Mod) (p : Page) (r n : Nat) : (setLost m p r n).pkgs = m.pkgs := rfl
@[simp] theorem setLost_faces (m : Mod) (p : Page) (r n : Nat) : (setLost m p r n).faces = m.faces := rfl
@[simp] theorem setLost_snaps (m : Mod) (p : Page) (r n : Nat) : (setLost m p r n).snaps = m.snaps := rfl
@[simp] theorem setLost_drills (m : Mod) (p : Page) (r n : Nat) : (setLost m p r n).drills = m.drills := rfl
@[simp] theorem setLost_svc (m : Mod) (p : Page) (r n : Nat) : (setLost m p r n).svc = m.svc := rfl
@[simp] theorem setLost_ksat (m : Mod) (p : Page) (r n : Nat) : (setLost m p r n).ksat = m.ksat := rfl
@[simp] theorem setLost_sats (m : Mod) (p : Page) (r n : Nat) : (setLost m p r n).sats = m.sats := rfl
@[simp] theorem setLost_scanTab (m : Mod) (p : Page) (r n : Nat) : (setLost m p r n).scanTab = m.scanTab := rfl
@[simp] theorem setLost_slots (m : Mod) (p : Page) (r n : Nat) : (setLost m p r n).slots = m.slots := rfl
@[simp] theorem setLost_fab (m : Mod) (p : Page) (r n : Nat) : (setLost m p r n).fab = m.fab := rfl
@[simp] theorem setLost_velom (m : Mod) (p : Page) (r n : Nat) : (setLost m p r n).velom = m.velom := rfl
@[simp] theorem setLost_mem (m : Mod) (p : Page) (r n : Nat) : (setLost m p r n).mem = m.mem := rfl
@[simp] theorem setLost_hbm (m : Mod) (p : Page) (r n : Nat) : (setLost m p r n).hbm = m.hbm := rfl
@[simp] theorem setLost_pwr (m : Mod) (p : Page) (r n : Nat) : (setLost m p r n).pwr = m.pwr := rfl
@[simp] theorem setLost_saf (m : Mod) (p : Page) (r n : Nat) : (setLost m p r n).saf = m.saf := rfl
@[simp] theorem setLost_sec (m : Mod) (p : Page) (r n : Nat) : (setLost m p r n).sec = m.sec := rfl
@[simp] theorem setLost_mgt (m : Mod) (p : Page) (r n : Nat) : (setLost m p r n).mgt = m.mgt := rfl
@[simp] theorem setLost_draws (m : Mod) (p : Page) (r n : Nat) : (setLost m p r n).draws = m.draws := rfl

/-! bump changes `regs` alone. -/

@[simp] theorem bump_sys (m : Mod) (p : Page) (r n : Nat) : (bump m p r n).sys = m.sys := rfl
@[simp] theorem bump_inited (m : Mod) (p : Page) (r n : Nat) : (bump m p r n).inited = m.inited := rfl
@[simp] theorem bump_units (m : Mod) (p : Page) (r n : Nat) : (bump m p r n).units = m.units := rfl
@[simp] theorem bump_chutes (m : Mod) (p : Page) (r n : Nat) : (bump m p r n).chutes = m.chutes := rfl
@[simp] theorem bump_adm (m : Mod) (p : Page) (r n : Nat) : (bump m p r n).adm = m.adm := rfl
@[simp] theorem bump_cmds (m : Mod) (p : Page) (r n : Nat) : (bump m p r n).cmds = m.cmds := rfl
@[simp] theorem bump_nextCmd (m : Mod) (p : Page) (r n : Nat) : (bump m p r n).nextCmd = m.nextCmd := rfl
@[simp] theorem bump_colls (m : Mod) (p : Page) (r n : Nat) : (bump m p r n).colls = m.colls := rfl
@[simp] theorem bump_mirror (m : Mod) (p : Page) (r n : Nat) : (bump m p r n).mirror = m.mirror := rfl
@[simp] theorem bump_resv (m : Mod) (p : Page) (r n : Nat) : (bump m p r n).resv = m.resv := rfl
@[simp] theorem bump_ledger (m : Mod) (p : Page) (r n : Nat) : (bump m p r n).ledger = m.ledger := rfl
@[simp] theorem bump_pkgs (m : Mod) (p : Page) (r n : Nat) : (bump m p r n).pkgs = m.pkgs := rfl
@[simp] theorem bump_faces (m : Mod) (p : Page) (r n : Nat) : (bump m p r n).faces = m.faces := rfl
@[simp] theorem bump_snaps (m : Mod) (p : Page) (r n : Nat) : (bump m p r n).snaps = m.snaps := rfl
@[simp] theorem bump_drills (m : Mod) (p : Page) (r n : Nat) : (bump m p r n).drills = m.drills := rfl
@[simp] theorem bump_svc (m : Mod) (p : Page) (r n : Nat) : (bump m p r n).svc = m.svc := rfl
@[simp] theorem bump_ksat (m : Mod) (p : Page) (r n : Nat) : (bump m p r n).ksat = m.ksat := rfl
@[simp] theorem bump_sats (m : Mod) (p : Page) (r n : Nat) : (bump m p r n).sats = m.sats := rfl
@[simp] theorem bump_scanTab (m : Mod) (p : Page) (r n : Nat) : (bump m p r n).scanTab = m.scanTab := rfl
@[simp] theorem bump_slots (m : Mod) (p : Page) (r n : Nat) : (bump m p r n).slots = m.slots := rfl
@[simp] theorem bump_fab (m : Mod) (p : Page) (r n : Nat) : (bump m p r n).fab = m.fab := rfl
@[simp] theorem bump_velom (m : Mod) (p : Page) (r n : Nat) : (bump m p r n).velom = m.velom := rfl
@[simp] theorem bump_mem (m : Mod) (p : Page) (r n : Nat) : (bump m p r n).mem = m.mem := rfl
@[simp] theorem bump_hbm (m : Mod) (p : Page) (r n : Nat) : (bump m p r n).hbm = m.hbm := rfl
@[simp] theorem bump_pwr (m : Mod) (p : Page) (r n : Nat) : (bump m p r n).pwr = m.pwr := rfl
@[simp] theorem bump_saf (m : Mod) (p : Page) (r n : Nat) : (bump m p r n).saf = m.saf := rfl
@[simp] theorem bump_sec (m : Mod) (p : Page) (r n : Nat) : (bump m p r n).sec = m.sec := rfl
@[simp] theorem bump_mgt (m : Mod) (p : Page) (r n : Nat) : (bump m p r n).mgt = m.mgt := rfl
@[simp] theorem bump_draws (m : Mod) (p : Page) (r n : Nat) : (bump m p r n).draws = m.draws := rfl

/-! raiseBits changes `regs` alone. -/

@[simp] theorem raiseBits_sys (m : Mod) (p : Page) (r : Nat) (w : Word) : (raiseBits m p r w).sys = m.sys := rfl
@[simp] theorem raiseBits_inited (m : Mod) (p : Page) (r : Nat) (w : Word) : (raiseBits m p r w).inited = m.inited := rfl
@[simp] theorem raiseBits_units (m : Mod) (p : Page) (r : Nat) (w : Word) : (raiseBits m p r w).units = m.units := rfl
@[simp] theorem raiseBits_chutes (m : Mod) (p : Page) (r : Nat) (w : Word) : (raiseBits m p r w).chutes = m.chutes := rfl
@[simp] theorem raiseBits_adm (m : Mod) (p : Page) (r : Nat) (w : Word) : (raiseBits m p r w).adm = m.adm := rfl
@[simp] theorem raiseBits_cmds (m : Mod) (p : Page) (r : Nat) (w : Word) : (raiseBits m p r w).cmds = m.cmds := rfl
@[simp] theorem raiseBits_nextCmd (m : Mod) (p : Page) (r : Nat) (w : Word) : (raiseBits m p r w).nextCmd = m.nextCmd := rfl
@[simp] theorem raiseBits_colls (m : Mod) (p : Page) (r : Nat) (w : Word) : (raiseBits m p r w).colls = m.colls := rfl
@[simp] theorem raiseBits_mirror (m : Mod) (p : Page) (r : Nat) (w : Word) : (raiseBits m p r w).mirror = m.mirror := rfl
@[simp] theorem raiseBits_resv (m : Mod) (p : Page) (r : Nat) (w : Word) : (raiseBits m p r w).resv = m.resv := rfl
@[simp] theorem raiseBits_ledger (m : Mod) (p : Page) (r : Nat) (w : Word) : (raiseBits m p r w).ledger = m.ledger := rfl
@[simp] theorem raiseBits_pkgs (m : Mod) (p : Page) (r : Nat) (w : Word) : (raiseBits m p r w).pkgs = m.pkgs := rfl
@[simp] theorem raiseBits_faces (m : Mod) (p : Page) (r : Nat) (w : Word) : (raiseBits m p r w).faces = m.faces := rfl
@[simp] theorem raiseBits_snaps (m : Mod) (p : Page) (r : Nat) (w : Word) : (raiseBits m p r w).snaps = m.snaps := rfl
@[simp] theorem raiseBits_drills (m : Mod) (p : Page) (r : Nat) (w : Word) : (raiseBits m p r w).drills = m.drills := rfl
@[simp] theorem raiseBits_svc (m : Mod) (p : Page) (r : Nat) (w : Word) : (raiseBits m p r w).svc = m.svc := rfl
@[simp] theorem raiseBits_ksat (m : Mod) (p : Page) (r : Nat) (w : Word) : (raiseBits m p r w).ksat = m.ksat := rfl
@[simp] theorem raiseBits_sats (m : Mod) (p : Page) (r : Nat) (w : Word) : (raiseBits m p r w).sats = m.sats := rfl
@[simp] theorem raiseBits_scanTab (m : Mod) (p : Page) (r : Nat) (w : Word) : (raiseBits m p r w).scanTab = m.scanTab := rfl
@[simp] theorem raiseBits_slots (m : Mod) (p : Page) (r : Nat) (w : Word) : (raiseBits m p r w).slots = m.slots := rfl
@[simp] theorem raiseBits_fab (m : Mod) (p : Page) (r : Nat) (w : Word) : (raiseBits m p r w).fab = m.fab := rfl
@[simp] theorem raiseBits_velom (m : Mod) (p : Page) (r : Nat) (w : Word) : (raiseBits m p r w).velom = m.velom := rfl
@[simp] theorem raiseBits_mem (m : Mod) (p : Page) (r : Nat) (w : Word) : (raiseBits m p r w).mem = m.mem := rfl
@[simp] theorem raiseBits_hbm (m : Mod) (p : Page) (r : Nat) (w : Word) : (raiseBits m p r w).hbm = m.hbm := rfl
@[simp] theorem raiseBits_pwr (m : Mod) (p : Page) (r : Nat) (w : Word) : (raiseBits m p r w).pwr = m.pwr := rfl
@[simp] theorem raiseBits_saf (m : Mod) (p : Page) (r : Nat) (w : Word) : (raiseBits m p r w).saf = m.saf := rfl
@[simp] theorem raiseBits_sec (m : Mod) (p : Page) (r : Nat) (w : Word) : (raiseBits m p r w).sec = m.sec := rfl
@[simp] theorem raiseBits_mgt (m : Mod) (p : Page) (r : Nat) (w : Word) : (raiseBits m p r w).mgt = m.mgt := rfl
@[simp] theorem raiseBits_draws (m : Mod) (p : Page) (r : Nat) (w : Word) : (raiseBits m p r w).draws = m.draws := rfl

/-! setErrPage changes `regs` alone. -/

@[simp] theorem setErrPage_sys (m : Mod) (e : ErrPage) : (setErrPage m e).sys = m.sys := rfl
@[simp] theorem setErrPage_inited (m : Mod) (e : ErrPage) : (setErrPage m e).inited = m.inited := rfl
@[simp] theorem setErrPage_units (m : Mod) (e : ErrPage) : (setErrPage m e).units = m.units := rfl
@[simp] theorem setErrPage_chutes (m : Mod) (e : ErrPage) : (setErrPage m e).chutes = m.chutes := rfl
@[simp] theorem setErrPage_adm (m : Mod) (e : ErrPage) : (setErrPage m e).adm = m.adm := rfl
@[simp] theorem setErrPage_cmds (m : Mod) (e : ErrPage) : (setErrPage m e).cmds = m.cmds := rfl
@[simp] theorem setErrPage_nextCmd (m : Mod) (e : ErrPage) : (setErrPage m e).nextCmd = m.nextCmd := rfl
@[simp] theorem setErrPage_colls (m : Mod) (e : ErrPage) : (setErrPage m e).colls = m.colls := rfl
@[simp] theorem setErrPage_mirror (m : Mod) (e : ErrPage) : (setErrPage m e).mirror = m.mirror := rfl
@[simp] theorem setErrPage_resv (m : Mod) (e : ErrPage) : (setErrPage m e).resv = m.resv := rfl
@[simp] theorem setErrPage_ledger (m : Mod) (e : ErrPage) : (setErrPage m e).ledger = m.ledger := rfl
@[simp] theorem setErrPage_pkgs (m : Mod) (e : ErrPage) : (setErrPage m e).pkgs = m.pkgs := rfl
@[simp] theorem setErrPage_faces (m : Mod) (e : ErrPage) : (setErrPage m e).faces = m.faces := rfl
@[simp] theorem setErrPage_snaps (m : Mod) (e : ErrPage) : (setErrPage m e).snaps = m.snaps := rfl
@[simp] theorem setErrPage_drills (m : Mod) (e : ErrPage) : (setErrPage m e).drills = m.drills := rfl
@[simp] theorem setErrPage_svc (m : Mod) (e : ErrPage) : (setErrPage m e).svc = m.svc := rfl
@[simp] theorem setErrPage_ksat (m : Mod) (e : ErrPage) : (setErrPage m e).ksat = m.ksat := rfl
@[simp] theorem setErrPage_sats (m : Mod) (e : ErrPage) : (setErrPage m e).sats = m.sats := rfl
@[simp] theorem setErrPage_scanTab (m : Mod) (e : ErrPage) : (setErrPage m e).scanTab = m.scanTab := rfl
@[simp] theorem setErrPage_slots (m : Mod) (e : ErrPage) : (setErrPage m e).slots = m.slots := rfl
@[simp] theorem setErrPage_fab (m : Mod) (e : ErrPage) : (setErrPage m e).fab = m.fab := rfl
@[simp] theorem setErrPage_velom (m : Mod) (e : ErrPage) : (setErrPage m e).velom = m.velom := rfl
@[simp] theorem setErrPage_mem (m : Mod) (e : ErrPage) : (setErrPage m e).mem = m.mem := rfl
@[simp] theorem setErrPage_hbm (m : Mod) (e : ErrPage) : (setErrPage m e).hbm = m.hbm := rfl
@[simp] theorem setErrPage_pwr (m : Mod) (e : ErrPage) : (setErrPage m e).pwr = m.pwr := rfl
@[simp] theorem setErrPage_saf (m : Mod) (e : ErrPage) : (setErrPage m e).saf = m.saf := rfl
@[simp] theorem setErrPage_sec (m : Mod) (e : ErrPage) : (setErrPage m e).sec = m.sec := rfl
@[simp] theorem setErrPage_mgt (m : Mod) (e : ErrPage) : (setErrPage m e).mgt = m.mgt := rfl
@[simp] theorem setErrPage_draws (m : Mod) (e : ErrPage) : (setErrPage m e).draws = m.draws := rfl

/-! sendMsg changes `velom` alone. -/

@[simp] theorem sendMsg_sys (m : Mod) (x : Msg) : (sendMsg m x).sys = m.sys := rfl
@[simp] theorem sendMsg_regs (m : Mod) (x : Msg) : (sendMsg m x).regs = m.regs := rfl
@[simp] theorem sendMsg_inited (m : Mod) (x : Msg) : (sendMsg m x).inited = m.inited := rfl
@[simp] theorem sendMsg_units (m : Mod) (x : Msg) : (sendMsg m x).units = m.units := rfl
@[simp] theorem sendMsg_chutes (m : Mod) (x : Msg) : (sendMsg m x).chutes = m.chutes := rfl
@[simp] theorem sendMsg_adm (m : Mod) (x : Msg) : (sendMsg m x).adm = m.adm := rfl
@[simp] theorem sendMsg_cmds (m : Mod) (x : Msg) : (sendMsg m x).cmds = m.cmds := rfl
@[simp] theorem sendMsg_nextCmd (m : Mod) (x : Msg) : (sendMsg m x).nextCmd = m.nextCmd := rfl
@[simp] theorem sendMsg_colls (m : Mod) (x : Msg) : (sendMsg m x).colls = m.colls := rfl
@[simp] theorem sendMsg_mirror (m : Mod) (x : Msg) : (sendMsg m x).mirror = m.mirror := rfl
@[simp] theorem sendMsg_resv (m : Mod) (x : Msg) : (sendMsg m x).resv = m.resv := rfl
@[simp] theorem sendMsg_ledger (m : Mod) (x : Msg) : (sendMsg m x).ledger = m.ledger := rfl
@[simp] theorem sendMsg_pkgs (m : Mod) (x : Msg) : (sendMsg m x).pkgs = m.pkgs := rfl
@[simp] theorem sendMsg_faces (m : Mod) (x : Msg) : (sendMsg m x).faces = m.faces := rfl
@[simp] theorem sendMsg_snaps (m : Mod) (x : Msg) : (sendMsg m x).snaps = m.snaps := rfl
@[simp] theorem sendMsg_drills (m : Mod) (x : Msg) : (sendMsg m x).drills = m.drills := rfl
@[simp] theorem sendMsg_svc (m : Mod) (x : Msg) : (sendMsg m x).svc = m.svc := rfl
@[simp] theorem sendMsg_ksat (m : Mod) (x : Msg) : (sendMsg m x).ksat = m.ksat := rfl
@[simp] theorem sendMsg_sats (m : Mod) (x : Msg) : (sendMsg m x).sats = m.sats := rfl
@[simp] theorem sendMsg_scanTab (m : Mod) (x : Msg) : (sendMsg m x).scanTab = m.scanTab := rfl
@[simp] theorem sendMsg_slots (m : Mod) (x : Msg) : (sendMsg m x).slots = m.slots := rfl
@[simp] theorem sendMsg_fab (m : Mod) (x : Msg) : (sendMsg m x).fab = m.fab := rfl
@[simp] theorem sendMsg_mem (m : Mod) (x : Msg) : (sendMsg m x).mem = m.mem := rfl
@[simp] theorem sendMsg_hbm (m : Mod) (x : Msg) : (sendMsg m x).hbm = m.hbm := rfl
@[simp] theorem sendMsg_pwr (m : Mod) (x : Msg) : (sendMsg m x).pwr = m.pwr := rfl
@[simp] theorem sendMsg_saf (m : Mod) (x : Msg) : (sendMsg m x).saf = m.saf := rfl
@[simp] theorem sendMsg_sec (m : Mod) (x : Msg) : (sendMsg m x).sec = m.sec := rfl
@[simp] theorem sendMsg_mgt (m : Mod) (x : Msg) : (sendMsg m x).mgt = m.mgt := rfl
@[simp] theorem sendMsg_draws (m : Mod) (x : Msg) : (sendMsg m x).draws = m.draws := rfl

/-! setLease changes `velom` alone. -/

@[simp] theorem setLease_sys (m : Mod) (line kind : Nat) : (setLease m line kind).sys = m.sys := rfl
@[simp] theorem setLease_regs (m : Mod) (line kind : Nat) : (setLease m line kind).regs = m.regs := rfl
@[simp] theorem setLease_inited (m : Mod) (line kind : Nat) : (setLease m line kind).inited = m.inited := rfl
@[simp] theorem setLease_units (m : Mod) (line kind : Nat) : (setLease m line kind).units = m.units := rfl
@[simp] theorem setLease_chutes (m : Mod) (line kind : Nat) : (setLease m line kind).chutes = m.chutes := rfl
@[simp] theorem setLease_adm (m : Mod) (line kind : Nat) : (setLease m line kind).adm = m.adm := rfl
@[simp] theorem setLease_cmds (m : Mod) (line kind : Nat) : (setLease m line kind).cmds = m.cmds := rfl
@[simp] theorem setLease_nextCmd (m : Mod) (line kind : Nat) : (setLease m line kind).nextCmd = m.nextCmd := rfl
@[simp] theorem setLease_colls (m : Mod) (line kind : Nat) : (setLease m line kind).colls = m.colls := rfl
@[simp] theorem setLease_mirror (m : Mod) (line kind : Nat) : (setLease m line kind).mirror = m.mirror := rfl
@[simp] theorem setLease_resv (m : Mod) (line kind : Nat) : (setLease m line kind).resv = m.resv := rfl
@[simp] theorem setLease_ledger (m : Mod) (line kind : Nat) : (setLease m line kind).ledger = m.ledger := rfl
@[simp] theorem setLease_pkgs (m : Mod) (line kind : Nat) : (setLease m line kind).pkgs = m.pkgs := rfl
@[simp] theorem setLease_faces (m : Mod) (line kind : Nat) : (setLease m line kind).faces = m.faces := rfl
@[simp] theorem setLease_snaps (m : Mod) (line kind : Nat) : (setLease m line kind).snaps = m.snaps := rfl
@[simp] theorem setLease_drills (m : Mod) (line kind : Nat) : (setLease m line kind).drills = m.drills := rfl
@[simp] theorem setLease_svc (m : Mod) (line kind : Nat) : (setLease m line kind).svc = m.svc := rfl
@[simp] theorem setLease_ksat (m : Mod) (line kind : Nat) : (setLease m line kind).ksat = m.ksat := rfl
@[simp] theorem setLease_sats (m : Mod) (line kind : Nat) : (setLease m line kind).sats = m.sats := rfl
@[simp] theorem setLease_scanTab (m : Mod) (line kind : Nat) : (setLease m line kind).scanTab = m.scanTab := rfl
@[simp] theorem setLease_slots (m : Mod) (line kind : Nat) : (setLease m line kind).slots = m.slots := rfl
@[simp] theorem setLease_fab (m : Mod) (line kind : Nat) : (setLease m line kind).fab = m.fab := rfl
@[simp] theorem setLease_mem (m : Mod) (line kind : Nat) : (setLease m line kind).mem = m.mem := rfl
@[simp] theorem setLease_hbm (m : Mod) (line kind : Nat) : (setLease m line kind).hbm = m.hbm := rfl
@[simp] theorem setLease_pwr (m : Mod) (line kind : Nat) : (setLease m line kind).pwr = m.pwr := rfl
@[simp] theorem setLease_saf (m : Mod) (line kind : Nat) : (setLease m line kind).saf = m.saf := rfl
@[simp] theorem setLease_sec (m : Mod) (line kind : Nat) : (setLease m line kind).sec = m.sec := rfl
@[simp] theorem setLease_mgt (m : Mod) (line kind : Nat) : (setLease m line kind).mgt = m.mgt := rfl
@[simp] theorem setLease_draws (m : Mod) (line kind : Nat) : (setLease m line kind).draws = m.draws := rfl

/-! setUnit changes `units` alone. -/

@[simp] theorem setUnit_sys (m : Mod) (r : UnitRec) : (setUnit m r).sys = m.sys := rfl
@[simp] theorem setUnit_regs (m : Mod) (r : UnitRec) : (setUnit m r).regs = m.regs := rfl
@[simp] theorem setUnit_inited (m : Mod) (r : UnitRec) : (setUnit m r).inited = m.inited := rfl
@[simp] theorem setUnit_chutes (m : Mod) (r : UnitRec) : (setUnit m r).chutes = m.chutes := rfl
@[simp] theorem setUnit_adm (m : Mod) (r : UnitRec) : (setUnit m r).adm = m.adm := rfl
@[simp] theorem setUnit_cmds (m : Mod) (r : UnitRec) : (setUnit m r).cmds = m.cmds := rfl
@[simp] theorem setUnit_nextCmd (m : Mod) (r : UnitRec) : (setUnit m r).nextCmd = m.nextCmd := rfl
@[simp] theorem setUnit_colls (m : Mod) (r : UnitRec) : (setUnit m r).colls = m.colls := rfl
@[simp] theorem setUnit_mirror (m : Mod) (r : UnitRec) : (setUnit m r).mirror = m.mirror := rfl
@[simp] theorem setUnit_resv (m : Mod) (r : UnitRec) : (setUnit m r).resv = m.resv := rfl
@[simp] theorem setUnit_ledger (m : Mod) (r : UnitRec) : (setUnit m r).ledger = m.ledger := rfl
@[simp] theorem setUnit_pkgs (m : Mod) (r : UnitRec) : (setUnit m r).pkgs = m.pkgs := rfl
@[simp] theorem setUnit_faces (m : Mod) (r : UnitRec) : (setUnit m r).faces = m.faces := rfl
@[simp] theorem setUnit_snaps (m : Mod) (r : UnitRec) : (setUnit m r).snaps = m.snaps := rfl
@[simp] theorem setUnit_drills (m : Mod) (r : UnitRec) : (setUnit m r).drills = m.drills := rfl
@[simp] theorem setUnit_svc (m : Mod) (r : UnitRec) : (setUnit m r).svc = m.svc := rfl
@[simp] theorem setUnit_ksat (m : Mod) (r : UnitRec) : (setUnit m r).ksat = m.ksat := rfl
@[simp] theorem setUnit_sats (m : Mod) (r : UnitRec) : (setUnit m r).sats = m.sats := rfl
@[simp] theorem setUnit_scanTab (m : Mod) (r : UnitRec) : (setUnit m r).scanTab = m.scanTab := rfl
@[simp] theorem setUnit_slots (m : Mod) (r : UnitRec) : (setUnit m r).slots = m.slots := rfl
@[simp] theorem setUnit_fab (m : Mod) (r : UnitRec) : (setUnit m r).fab = m.fab := rfl
@[simp] theorem setUnit_velom (m : Mod) (r : UnitRec) : (setUnit m r).velom = m.velom := rfl
@[simp] theorem setUnit_mem (m : Mod) (r : UnitRec) : (setUnit m r).mem = m.mem := rfl
@[simp] theorem setUnit_hbm (m : Mod) (r : UnitRec) : (setUnit m r).hbm = m.hbm := rfl
@[simp] theorem setUnit_pwr (m : Mod) (r : UnitRec) : (setUnit m r).pwr = m.pwr := rfl
@[simp] theorem setUnit_saf (m : Mod) (r : UnitRec) : (setUnit m r).saf = m.saf := rfl
@[simp] theorem setUnit_sec (m : Mod) (r : UnitRec) : (setUnit m r).sec = m.sec := rfl
@[simp] theorem setUnit_mgt (m : Mod) (r : UnitRec) : (setUnit m r).mgt = m.mgt := rfl
@[simp] theorem setUnit_draws (m : Mod) (r : UnitRec) : (setUnit m r).draws = m.draws := rfl

/-! setFace changes `faces` alone. -/

@[simp] theorem setFace_sys (m : Mod) (f : Face) : (setFace m f).sys = m.sys := rfl
@[simp] theorem setFace_regs (m : Mod) (f : Face) : (setFace m f).regs = m.regs := rfl
@[simp] theorem setFace_inited (m : Mod) (f : Face) : (setFace m f).inited = m.inited := rfl
@[simp] theorem setFace_units (m : Mod) (f : Face) : (setFace m f).units = m.units := rfl
@[simp] theorem setFace_chutes (m : Mod) (f : Face) : (setFace m f).chutes = m.chutes := rfl
@[simp] theorem setFace_adm (m : Mod) (f : Face) : (setFace m f).adm = m.adm := rfl
@[simp] theorem setFace_cmds (m : Mod) (f : Face) : (setFace m f).cmds = m.cmds := rfl
@[simp] theorem setFace_nextCmd (m : Mod) (f : Face) : (setFace m f).nextCmd = m.nextCmd := rfl
@[simp] theorem setFace_colls (m : Mod) (f : Face) : (setFace m f).colls = m.colls := rfl
@[simp] theorem setFace_mirror (m : Mod) (f : Face) : (setFace m f).mirror = m.mirror := rfl
@[simp] theorem setFace_resv (m : Mod) (f : Face) : (setFace m f).resv = m.resv := rfl
@[simp] theorem setFace_ledger (m : Mod) (f : Face) : (setFace m f).ledger = m.ledger := rfl
@[simp] theorem setFace_pkgs (m : Mod) (f : Face) : (setFace m f).pkgs = m.pkgs := rfl
@[simp] theorem setFace_snaps (m : Mod) (f : Face) : (setFace m f).snaps = m.snaps := rfl
@[simp] theorem setFace_drills (m : Mod) (f : Face) : (setFace m f).drills = m.drills := rfl
@[simp] theorem setFace_svc (m : Mod) (f : Face) : (setFace m f).svc = m.svc := rfl
@[simp] theorem setFace_ksat (m : Mod) (f : Face) : (setFace m f).ksat = m.ksat := rfl
@[simp] theorem setFace_sats (m : Mod) (f : Face) : (setFace m f).sats = m.sats := rfl
@[simp] theorem setFace_scanTab (m : Mod) (f : Face) : (setFace m f).scanTab = m.scanTab := rfl
@[simp] theorem setFace_slots (m : Mod) (f : Face) : (setFace m f).slots = m.slots := rfl
@[simp] theorem setFace_fab (m : Mod) (f : Face) : (setFace m f).fab = m.fab := rfl
@[simp] theorem setFace_velom (m : Mod) (f : Face) : (setFace m f).velom = m.velom := rfl
@[simp] theorem setFace_mem (m : Mod) (f : Face) : (setFace m f).mem = m.mem := rfl
@[simp] theorem setFace_hbm (m : Mod) (f : Face) : (setFace m f).hbm = m.hbm := rfl
@[simp] theorem setFace_pwr (m : Mod) (f : Face) : (setFace m f).pwr = m.pwr := rfl
@[simp] theorem setFace_saf (m : Mod) (f : Face) : (setFace m f).saf = m.saf := rfl
@[simp] theorem setFace_sec (m : Mod) (f : Face) : (setFace m f).sec = m.sec := rfl
@[simp] theorem setFace_mgt (m : Mod) (f : Face) : (setFace m f).mgt = m.mgt := rfl
@[simp] theorem setFace_draws (m : Mod) (f : Face) : (setFace m f).draws = m.draws := rfl

/-! setDrill changes `drills` alone. -/

@[simp] theorem setDrill_sys (m : Mod) (d : Drill) : (setDrill m d).sys = m.sys := rfl
@[simp] theorem setDrill_regs (m : Mod) (d : Drill) : (setDrill m d).regs = m.regs := rfl
@[simp] theorem setDrill_inited (m : Mod) (d : Drill) : (setDrill m d).inited = m.inited := rfl
@[simp] theorem setDrill_units (m : Mod) (d : Drill) : (setDrill m d).units = m.units := rfl
@[simp] theorem setDrill_chutes (m : Mod) (d : Drill) : (setDrill m d).chutes = m.chutes := rfl
@[simp] theorem setDrill_adm (m : Mod) (d : Drill) : (setDrill m d).adm = m.adm := rfl
@[simp] theorem setDrill_cmds (m : Mod) (d : Drill) : (setDrill m d).cmds = m.cmds := rfl
@[simp] theorem setDrill_nextCmd (m : Mod) (d : Drill) : (setDrill m d).nextCmd = m.nextCmd := rfl
@[simp] theorem setDrill_colls (m : Mod) (d : Drill) : (setDrill m d).colls = m.colls := rfl
@[simp] theorem setDrill_mirror (m : Mod) (d : Drill) : (setDrill m d).mirror = m.mirror := rfl
@[simp] theorem setDrill_resv (m : Mod) (d : Drill) : (setDrill m d).resv = m.resv := rfl
@[simp] theorem setDrill_ledger (m : Mod) (d : Drill) : (setDrill m d).ledger = m.ledger := rfl
@[simp] theorem setDrill_pkgs (m : Mod) (d : Drill) : (setDrill m d).pkgs = m.pkgs := rfl
@[simp] theorem setDrill_faces (m : Mod) (d : Drill) : (setDrill m d).faces = m.faces := rfl
@[simp] theorem setDrill_snaps (m : Mod) (d : Drill) : (setDrill m d).snaps = m.snaps := rfl
@[simp] theorem setDrill_svc (m : Mod) (d : Drill) : (setDrill m d).svc = m.svc := rfl
@[simp] theorem setDrill_ksat (m : Mod) (d : Drill) : (setDrill m d).ksat = m.ksat := rfl
@[simp] theorem setDrill_sats (m : Mod) (d : Drill) : (setDrill m d).sats = m.sats := rfl
@[simp] theorem setDrill_scanTab (m : Mod) (d : Drill) : (setDrill m d).scanTab = m.scanTab := rfl
@[simp] theorem setDrill_slots (m : Mod) (d : Drill) : (setDrill m d).slots = m.slots := rfl
@[simp] theorem setDrill_fab (m : Mod) (d : Drill) : (setDrill m d).fab = m.fab := rfl
@[simp] theorem setDrill_velom (m : Mod) (d : Drill) : (setDrill m d).velom = m.velom := rfl
@[simp] theorem setDrill_mem (m : Mod) (d : Drill) : (setDrill m d).mem = m.mem := rfl
@[simp] theorem setDrill_hbm (m : Mod) (d : Drill) : (setDrill m d).hbm = m.hbm := rfl
@[simp] theorem setDrill_pwr (m : Mod) (d : Drill) : (setDrill m d).pwr = m.pwr := rfl
@[simp] theorem setDrill_saf (m : Mod) (d : Drill) : (setDrill m d).saf = m.saf := rfl
@[simp] theorem setDrill_sec (m : Mod) (d : Drill) : (setDrill m d).sec = m.sec := rfl
@[simp] theorem setDrill_mgt (m : Mod) (d : Drill) : (setDrill m d).mgt = m.mgt := rfl
@[simp] theorem setDrill_draws (m : Mod) (d : Drill) : (setDrill m d).draws = m.draws := rfl

/-! setEnt changes `mem` alone. -/

@[simp] theorem setEnt_sys (m : Mod) (e : PageEnt) : (setEnt m e).sys = m.sys := rfl
@[simp] theorem setEnt_regs (m : Mod) (e : PageEnt) : (setEnt m e).regs = m.regs := rfl
@[simp] theorem setEnt_inited (m : Mod) (e : PageEnt) : (setEnt m e).inited = m.inited := rfl
@[simp] theorem setEnt_units (m : Mod) (e : PageEnt) : (setEnt m e).units = m.units := rfl
@[simp] theorem setEnt_chutes (m : Mod) (e : PageEnt) : (setEnt m e).chutes = m.chutes := rfl
@[simp] theorem setEnt_adm (m : Mod) (e : PageEnt) : (setEnt m e).adm = m.adm := rfl
@[simp] theorem setEnt_cmds (m : Mod) (e : PageEnt) : (setEnt m e).cmds = m.cmds := rfl
@[simp] theorem setEnt_nextCmd (m : Mod) (e : PageEnt) : (setEnt m e).nextCmd = m.nextCmd := rfl
@[simp] theorem setEnt_colls (m : Mod) (e : PageEnt) : (setEnt m e).colls = m.colls := rfl
@[simp] theorem setEnt_mirror (m : Mod) (e : PageEnt) : (setEnt m e).mirror = m.mirror := rfl
@[simp] theorem setEnt_resv (m : Mod) (e : PageEnt) : (setEnt m e).resv = m.resv := rfl
@[simp] theorem setEnt_ledger (m : Mod) (e : PageEnt) : (setEnt m e).ledger = m.ledger := rfl
@[simp] theorem setEnt_pkgs (m : Mod) (e : PageEnt) : (setEnt m e).pkgs = m.pkgs := rfl
@[simp] theorem setEnt_faces (m : Mod) (e : PageEnt) : (setEnt m e).faces = m.faces := rfl
@[simp] theorem setEnt_snaps (m : Mod) (e : PageEnt) : (setEnt m e).snaps = m.snaps := rfl
@[simp] theorem setEnt_drills (m : Mod) (e : PageEnt) : (setEnt m e).drills = m.drills := rfl
@[simp] theorem setEnt_svc (m : Mod) (e : PageEnt) : (setEnt m e).svc = m.svc := rfl
@[simp] theorem setEnt_ksat (m : Mod) (e : PageEnt) : (setEnt m e).ksat = m.ksat := rfl
@[simp] theorem setEnt_sats (m : Mod) (e : PageEnt) : (setEnt m e).sats = m.sats := rfl
@[simp] theorem setEnt_scanTab (m : Mod) (e : PageEnt) : (setEnt m e).scanTab = m.scanTab := rfl
@[simp] theorem setEnt_slots (m : Mod) (e : PageEnt) : (setEnt m e).slots = m.slots := rfl
@[simp] theorem setEnt_fab (m : Mod) (e : PageEnt) : (setEnt m e).fab = m.fab := rfl
@[simp] theorem setEnt_velom (m : Mod) (e : PageEnt) : (setEnt m e).velom = m.velom := rfl
@[simp] theorem setEnt_hbm (m : Mod) (e : PageEnt) : (setEnt m e).hbm = m.hbm := rfl
@[simp] theorem setEnt_pwr (m : Mod) (e : PageEnt) : (setEnt m e).pwr = m.pwr := rfl
@[simp] theorem setEnt_saf (m : Mod) (e : PageEnt) : (setEnt m e).saf = m.saf := rfl
@[simp] theorem setEnt_sec (m : Mod) (e : PageEnt) : (setEnt m e).sec = m.sec := rfl
@[simp] theorem setEnt_mgt (m : Mod) (e : PageEnt) : (setEnt m e).mgt = m.mgt := rfl
@[simp] theorem setEnt_draws (m : Mod) (e : PageEnt) : (setEnt m e).draws = m.draws := rfl

/-! setMove changes `mem` alone. -/

@[simp] theorem setMove_sys (m : Mod) (v : Move) : (setMove m v).sys = m.sys := rfl
@[simp] theorem setMove_regs (m : Mod) (v : Move) : (setMove m v).regs = m.regs := rfl
@[simp] theorem setMove_inited (m : Mod) (v : Move) : (setMove m v).inited = m.inited := rfl
@[simp] theorem setMove_units (m : Mod) (v : Move) : (setMove m v).units = m.units := rfl
@[simp] theorem setMove_chutes (m : Mod) (v : Move) : (setMove m v).chutes = m.chutes := rfl
@[simp] theorem setMove_adm (m : Mod) (v : Move) : (setMove m v).adm = m.adm := rfl
@[simp] theorem setMove_cmds (m : Mod) (v : Move) : (setMove m v).cmds = m.cmds := rfl
@[simp] theorem setMove_nextCmd (m : Mod) (v : Move) : (setMove m v).nextCmd = m.nextCmd := rfl
@[simp] theorem setMove_colls (m : Mod) (v : Move) : (setMove m v).colls = m.colls := rfl
@[simp] theorem setMove_mirror (m : Mod) (v : Move) : (setMove m v).mirror = m.mirror := rfl
@[simp] theorem setMove_resv (m : Mod) (v : Move) : (setMove m v).resv = m.resv := rfl
@[simp] theorem setMove_ledger (m : Mod) (v : Move) : (setMove m v).ledger = m.ledger := rfl
@[simp] theorem setMove_pkgs (m : Mod) (v : Move) : (setMove m v).pkgs = m.pkgs := rfl
@[simp] theorem setMove_faces (m : Mod) (v : Move) : (setMove m v).faces = m.faces := rfl
@[simp] theorem setMove_snaps (m : Mod) (v : Move) : (setMove m v).snaps = m.snaps := rfl
@[simp] theorem setMove_drills (m : Mod) (v : Move) : (setMove m v).drills = m.drills := rfl
@[simp] theorem setMove_svc (m : Mod) (v : Move) : (setMove m v).svc = m.svc := rfl
@[simp] theorem setMove_ksat (m : Mod) (v : Move) : (setMove m v).ksat = m.ksat := rfl
@[simp] theorem setMove_sats (m : Mod) (v : Move) : (setMove m v).sats = m.sats := rfl
@[simp] theorem setMove_scanTab (m : Mod) (v : Move) : (setMove m v).scanTab = m.scanTab := rfl
@[simp] theorem setMove_slots (m : Mod) (v : Move) : (setMove m v).slots = m.slots := rfl
@[simp] theorem setMove_fab (m : Mod) (v : Move) : (setMove m v).fab = m.fab := rfl
@[simp] theorem setMove_velom (m : Mod) (v : Move) : (setMove m v).velom = m.velom := rfl
@[simp] theorem setMove_hbm (m : Mod) (v : Move) : (setMove m v).hbm = m.hbm := rfl
@[simp] theorem setMove_pwr (m : Mod) (v : Move) : (setMove m v).pwr = m.pwr := rfl
@[simp] theorem setMove_saf (m : Mod) (v : Move) : (setMove m v).saf = m.saf := rfl
@[simp] theorem setMove_sec (m : Mod) (v : Move) : (setMove m v).sec = m.sec := rfl
@[simp] theorem setMove_mgt (m : Mod) (v : Move) : (setMove m v).mgt = m.mgt := rfl
@[simp] theorem setMove_draws (m : Mod) (v : Move) : (setMove m v).draws = m.draws := rfl

/-! setStack changes `hbm` alone. -/

@[simp] theorem setStack_sys (m : Mod) (n : Nat) (k : Stack) : (setStack m n k).sys = m.sys := rfl
@[simp] theorem setStack_regs (m : Mod) (n : Nat) (k : Stack) : (setStack m n k).regs = m.regs := rfl
@[simp] theorem setStack_inited (m : Mod) (n : Nat) (k : Stack) : (setStack m n k).inited = m.inited := rfl
@[simp] theorem setStack_units (m : Mod) (n : Nat) (k : Stack) : (setStack m n k).units = m.units := rfl
@[simp] theorem setStack_chutes (m : Mod) (n : Nat) (k : Stack) : (setStack m n k).chutes = m.chutes := rfl
@[simp] theorem setStack_adm (m : Mod) (n : Nat) (k : Stack) : (setStack m n k).adm = m.adm := rfl
@[simp] theorem setStack_cmds (m : Mod) (n : Nat) (k : Stack) : (setStack m n k).cmds = m.cmds := rfl
@[simp] theorem setStack_nextCmd (m : Mod) (n : Nat) (k : Stack) : (setStack m n k).nextCmd = m.nextCmd := rfl
@[simp] theorem setStack_colls (m : Mod) (n : Nat) (k : Stack) : (setStack m n k).colls = m.colls := rfl
@[simp] theorem setStack_mirror (m : Mod) (n : Nat) (k : Stack) : (setStack m n k).mirror = m.mirror := rfl
@[simp] theorem setStack_resv (m : Mod) (n : Nat) (k : Stack) : (setStack m n k).resv = m.resv := rfl
@[simp] theorem setStack_ledger (m : Mod) (n : Nat) (k : Stack) : (setStack m n k).ledger = m.ledger := rfl
@[simp] theorem setStack_pkgs (m : Mod) (n : Nat) (k : Stack) : (setStack m n k).pkgs = m.pkgs := rfl
@[simp] theorem setStack_faces (m : Mod) (n : Nat) (k : Stack) : (setStack m n k).faces = m.faces := rfl
@[simp] theorem setStack_snaps (m : Mod) (n : Nat) (k : Stack) : (setStack m n k).snaps = m.snaps := rfl
@[simp] theorem setStack_drills (m : Mod) (n : Nat) (k : Stack) : (setStack m n k).drills = m.drills := rfl
@[simp] theorem setStack_svc (m : Mod) (n : Nat) (k : Stack) : (setStack m n k).svc = m.svc := rfl
@[simp] theorem setStack_ksat (m : Mod) (n : Nat) (k : Stack) : (setStack m n k).ksat = m.ksat := rfl
@[simp] theorem setStack_sats (m : Mod) (n : Nat) (k : Stack) : (setStack m n k).sats = m.sats := rfl
@[simp] theorem setStack_scanTab (m : Mod) (n : Nat) (k : Stack) : (setStack m n k).scanTab = m.scanTab := rfl
@[simp] theorem setStack_slots (m : Mod) (n : Nat) (k : Stack) : (setStack m n k).slots = m.slots := rfl
@[simp] theorem setStack_fab (m : Mod) (n : Nat) (k : Stack) : (setStack m n k).fab = m.fab := rfl
@[simp] theorem setStack_velom (m : Mod) (n : Nat) (k : Stack) : (setStack m n k).velom = m.velom := rfl
@[simp] theorem setStack_mem (m : Mod) (n : Nat) (k : Stack) : (setStack m n k).mem = m.mem := rfl
@[simp] theorem setStack_pwr (m : Mod) (n : Nat) (k : Stack) : (setStack m n k).pwr = m.pwr := rfl
@[simp] theorem setStack_saf (m : Mod) (n : Nat) (k : Stack) : (setStack m n k).saf = m.saf := rfl
@[simp] theorem setStack_sec (m : Mod) (n : Nat) (k : Stack) : (setStack m n k).sec = m.sec := rfl
@[simp] theorem setStack_mgt (m : Mod) (n : Nat) (k : Stack) : (setStack m n k).mgt = m.mgt := rfl
@[simp] theorem setStack_draws (m : Mod) (n : Nat) (k : Stack) : (setStack m n k).draws = m.draws := rfl

/-! setChute changes `chutes` alone. -/

@[simp] theorem setChute_sys (m : Mod) (c : ChuteRec) : (setChute m c).sys = m.sys := rfl
@[simp] theorem setChute_regs (m : Mod) (c : ChuteRec) : (setChute m c).regs = m.regs := rfl
@[simp] theorem setChute_inited (m : Mod) (c : ChuteRec) : (setChute m c).inited = m.inited := rfl
@[simp] theorem setChute_units (m : Mod) (c : ChuteRec) : (setChute m c).units = m.units := rfl
@[simp] theorem setChute_adm (m : Mod) (c : ChuteRec) : (setChute m c).adm = m.adm := rfl
@[simp] theorem setChute_cmds (m : Mod) (c : ChuteRec) : (setChute m c).cmds = m.cmds := rfl
@[simp] theorem setChute_nextCmd (m : Mod) (c : ChuteRec) : (setChute m c).nextCmd = m.nextCmd := rfl
@[simp] theorem setChute_colls (m : Mod) (c : ChuteRec) : (setChute m c).colls = m.colls := rfl
@[simp] theorem setChute_mirror (m : Mod) (c : ChuteRec) : (setChute m c).mirror = m.mirror := rfl
@[simp] theorem setChute_resv (m : Mod) (c : ChuteRec) : (setChute m c).resv = m.resv := rfl
@[simp] theorem setChute_ledger (m : Mod) (c : ChuteRec) : (setChute m c).ledger = m.ledger := rfl
@[simp] theorem setChute_pkgs (m : Mod) (c : ChuteRec) : (setChute m c).pkgs = m.pkgs := rfl
@[simp] theorem setChute_faces (m : Mod) (c : ChuteRec) : (setChute m c).faces = m.faces := rfl
@[simp] theorem setChute_snaps (m : Mod) (c : ChuteRec) : (setChute m c).snaps = m.snaps := rfl
@[simp] theorem setChute_drills (m : Mod) (c : ChuteRec) : (setChute m c).drills = m.drills := rfl
@[simp] theorem setChute_svc (m : Mod) (c : ChuteRec) : (setChute m c).svc = m.svc := rfl
@[simp] theorem setChute_ksat (m : Mod) (c : ChuteRec) : (setChute m c).ksat = m.ksat := rfl
@[simp] theorem setChute_sats (m : Mod) (c : ChuteRec) : (setChute m c).sats = m.sats := rfl
@[simp] theorem setChute_scanTab (m : Mod) (c : ChuteRec) : (setChute m c).scanTab = m.scanTab := rfl
@[simp] theorem setChute_slots (m : Mod) (c : ChuteRec) : (setChute m c).slots = m.slots := rfl
@[simp] theorem setChute_fab (m : Mod) (c : ChuteRec) : (setChute m c).fab = m.fab := rfl
@[simp] theorem setChute_velom (m : Mod) (c : ChuteRec) : (setChute m c).velom = m.velom := rfl
@[simp] theorem setChute_mem (m : Mod) (c : ChuteRec) : (setChute m c).mem = m.mem := rfl
@[simp] theorem setChute_hbm (m : Mod) (c : ChuteRec) : (setChute m c).hbm = m.hbm := rfl
@[simp] theorem setChute_pwr (m : Mod) (c : ChuteRec) : (setChute m c).pwr = m.pwr := rfl
@[simp] theorem setChute_saf (m : Mod) (c : ChuteRec) : (setChute m c).saf = m.saf := rfl
@[simp] theorem setChute_sec (m : Mod) (c : ChuteRec) : (setChute m c).sec = m.sec := rfl
@[simp] theorem setChute_mgt (m : Mod) (c : ChuteRec) : (setChute m c).mgt = m.mgt := rfl
@[simp] theorem setChute_draws (m : Mod) (c : ChuteRec) : (setChute m c).draws = m.draws := rfl

/-! setCmd changes `cmds` alone. -/

@[simp] theorem setCmd_sys (m : Mod) (c : Cmd) : (setCmd m c).sys = m.sys := rfl
@[simp] theorem setCmd_regs (m : Mod) (c : Cmd) : (setCmd m c).regs = m.regs := rfl
@[simp] theorem setCmd_inited (m : Mod) (c : Cmd) : (setCmd m c).inited = m.inited := rfl
@[simp] theorem setCmd_units (m : Mod) (c : Cmd) : (setCmd m c).units = m.units := rfl
@[simp] theorem setCmd_chutes (m : Mod) (c : Cmd) : (setCmd m c).chutes = m.chutes := rfl
@[simp] theorem setCmd_adm (m : Mod) (c : Cmd) : (setCmd m c).adm = m.adm := rfl
@[simp] theorem setCmd_nextCmd (m : Mod) (c : Cmd) : (setCmd m c).nextCmd = m.nextCmd := rfl
@[simp] theorem setCmd_colls (m : Mod) (c : Cmd) : (setCmd m c).colls = m.colls := rfl
@[simp] theorem setCmd_mirror (m : Mod) (c : Cmd) : (setCmd m c).mirror = m.mirror := rfl
@[simp] theorem setCmd_resv (m : Mod) (c : Cmd) : (setCmd m c).resv = m.resv := rfl
@[simp] theorem setCmd_ledger (m : Mod) (c : Cmd) : (setCmd m c).ledger = m.ledger := rfl
@[simp] theorem setCmd_pkgs (m : Mod) (c : Cmd) : (setCmd m c).pkgs = m.pkgs := rfl
@[simp] theorem setCmd_faces (m : Mod) (c : Cmd) : (setCmd m c).faces = m.faces := rfl
@[simp] theorem setCmd_snaps (m : Mod) (c : Cmd) : (setCmd m c).snaps = m.snaps := rfl
@[simp] theorem setCmd_drills (m : Mod) (c : Cmd) : (setCmd m c).drills = m.drills := rfl
@[simp] theorem setCmd_svc (m : Mod) (c : Cmd) : (setCmd m c).svc = m.svc := rfl
@[simp] theorem setCmd_ksat (m : Mod) (c : Cmd) : (setCmd m c).ksat = m.ksat := rfl
@[simp] theorem setCmd_sats (m : Mod) (c : Cmd) : (setCmd m c).sats = m.sats := rfl
@[simp] theorem setCmd_scanTab (m : Mod) (c : Cmd) : (setCmd m c).scanTab = m.scanTab := rfl
@[simp] theorem setCmd_slots (m : Mod) (c : Cmd) : (setCmd m c).slots = m.slots := rfl
@[simp] theorem setCmd_fab (m : Mod) (c : Cmd) : (setCmd m c).fab = m.fab := rfl
@[simp] theorem setCmd_velom (m : Mod) (c : Cmd) : (setCmd m c).velom = m.velom := rfl
@[simp] theorem setCmd_mem (m : Mod) (c : Cmd) : (setCmd m c).mem = m.mem := rfl
@[simp] theorem setCmd_hbm (m : Mod) (c : Cmd) : (setCmd m c).hbm = m.hbm := rfl
@[simp] theorem setCmd_pwr (m : Mod) (c : Cmd) : (setCmd m c).pwr = m.pwr := rfl
@[simp] theorem setCmd_saf (m : Mod) (c : Cmd) : (setCmd m c).saf = m.saf := rfl
@[simp] theorem setCmd_sec (m : Mod) (c : Cmd) : (setCmd m c).sec = m.sec := rfl
@[simp] theorem setCmd_mgt (m : Mod) (c : Cmd) : (setCmd m c).mgt = m.mgt := rfl
@[simp] theorem setCmd_draws (m : Mod) (c : Cmd) : (setCmd m c).draws = m.draws := rfl

/-! setColl changes `colls` alone. -/

@[simp] theorem setColl_sys (m : Mod) (c : Coll) : (setColl m c).sys = m.sys := rfl
@[simp] theorem setColl_regs (m : Mod) (c : Coll) : (setColl m c).regs = m.regs := rfl
@[simp] theorem setColl_inited (m : Mod) (c : Coll) : (setColl m c).inited = m.inited := rfl
@[simp] theorem setColl_units (m : Mod) (c : Coll) : (setColl m c).units = m.units := rfl
@[simp] theorem setColl_chutes (m : Mod) (c : Coll) : (setColl m c).chutes = m.chutes := rfl
@[simp] theorem setColl_adm (m : Mod) (c : Coll) : (setColl m c).adm = m.adm := rfl
@[simp] theorem setColl_cmds (m : Mod) (c : Coll) : (setColl m c).cmds = m.cmds := rfl
@[simp] theorem setColl_nextCmd (m : Mod) (c : Coll) : (setColl m c).nextCmd = m.nextCmd := rfl
@[simp] theorem setColl_mirror (m : Mod) (c : Coll) : (setColl m c).mirror = m.mirror := rfl
@[simp] theorem setColl_resv (m : Mod) (c : Coll) : (setColl m c).resv = m.resv := rfl
@[simp] theorem setColl_ledger (m : Mod) (c : Coll) : (setColl m c).ledger = m.ledger := rfl
@[simp] theorem setColl_pkgs (m : Mod) (c : Coll) : (setColl m c).pkgs = m.pkgs := rfl
@[simp] theorem setColl_faces (m : Mod) (c : Coll) : (setColl m c).faces = m.faces := rfl
@[simp] theorem setColl_snaps (m : Mod) (c : Coll) : (setColl m c).snaps = m.snaps := rfl
@[simp] theorem setColl_drills (m : Mod) (c : Coll) : (setColl m c).drills = m.drills := rfl
@[simp] theorem setColl_svc (m : Mod) (c : Coll) : (setColl m c).svc = m.svc := rfl
@[simp] theorem setColl_ksat (m : Mod) (c : Coll) : (setColl m c).ksat = m.ksat := rfl
@[simp] theorem setColl_sats (m : Mod) (c : Coll) : (setColl m c).sats = m.sats := rfl
@[simp] theorem setColl_scanTab (m : Mod) (c : Coll) : (setColl m c).scanTab = m.scanTab := rfl
@[simp] theorem setColl_slots (m : Mod) (c : Coll) : (setColl m c).slots = m.slots := rfl
@[simp] theorem setColl_fab (m : Mod) (c : Coll) : (setColl m c).fab = m.fab := rfl
@[simp] theorem setColl_velom (m : Mod) (c : Coll) : (setColl m c).velom = m.velom := rfl
@[simp] theorem setColl_mem (m : Mod) (c : Coll) : (setColl m c).mem = m.mem := rfl
@[simp] theorem setColl_hbm (m : Mod) (c : Coll) : (setColl m c).hbm = m.hbm := rfl
@[simp] theorem setColl_pwr (m : Mod) (c : Coll) : (setColl m c).pwr = m.pwr := rfl
@[simp] theorem setColl_saf (m : Mod) (c : Coll) : (setColl m c).saf = m.saf := rfl
@[simp] theorem setColl_sec (m : Mod) (c : Coll) : (setColl m c).sec = m.sec := rfl
@[simp] theorem setColl_mgt (m : Mod) (c : Coll) : (setColl m c).mgt = m.mgt := rfl
@[simp] theorem setColl_draws (m : Mod) (c : Coll) : (setColl m c).draws = m.draws := rfl

/-! aditSend changes `mgt` alone. -/

@[simp] theorem aditSend_sys (m : Mod) (r : Resp) : (aditSend m r).sys = m.sys := rfl
@[simp] theorem aditSend_regs (m : Mod) (r : Resp) : (aditSend m r).regs = m.regs := rfl
@[simp] theorem aditSend_inited (m : Mod) (r : Resp) : (aditSend m r).inited = m.inited := rfl
@[simp] theorem aditSend_units (m : Mod) (r : Resp) : (aditSend m r).units = m.units := rfl
@[simp] theorem aditSend_chutes (m : Mod) (r : Resp) : (aditSend m r).chutes = m.chutes := rfl
@[simp] theorem aditSend_adm (m : Mod) (r : Resp) : (aditSend m r).adm = m.adm := rfl
@[simp] theorem aditSend_cmds (m : Mod) (r : Resp) : (aditSend m r).cmds = m.cmds := rfl
@[simp] theorem aditSend_nextCmd (m : Mod) (r : Resp) : (aditSend m r).nextCmd = m.nextCmd := rfl
@[simp] theorem aditSend_colls (m : Mod) (r : Resp) : (aditSend m r).colls = m.colls := rfl
@[simp] theorem aditSend_mirror (m : Mod) (r : Resp) : (aditSend m r).mirror = m.mirror := rfl
@[simp] theorem aditSend_resv (m : Mod) (r : Resp) : (aditSend m r).resv = m.resv := rfl
@[simp] theorem aditSend_ledger (m : Mod) (r : Resp) : (aditSend m r).ledger = m.ledger := rfl
@[simp] theorem aditSend_pkgs (m : Mod) (r : Resp) : (aditSend m r).pkgs = m.pkgs := rfl
@[simp] theorem aditSend_faces (m : Mod) (r : Resp) : (aditSend m r).faces = m.faces := rfl
@[simp] theorem aditSend_snaps (m : Mod) (r : Resp) : (aditSend m r).snaps = m.snaps := rfl
@[simp] theorem aditSend_drills (m : Mod) (r : Resp) : (aditSend m r).drills = m.drills := rfl
@[simp] theorem aditSend_svc (m : Mod) (r : Resp) : (aditSend m r).svc = m.svc := rfl
@[simp] theorem aditSend_ksat (m : Mod) (r : Resp) : (aditSend m r).ksat = m.ksat := rfl
@[simp] theorem aditSend_sats (m : Mod) (r : Resp) : (aditSend m r).sats = m.sats := rfl
@[simp] theorem aditSend_scanTab (m : Mod) (r : Resp) : (aditSend m r).scanTab = m.scanTab := rfl
@[simp] theorem aditSend_slots (m : Mod) (r : Resp) : (aditSend m r).slots = m.slots := rfl
@[simp] theorem aditSend_fab (m : Mod) (r : Resp) : (aditSend m r).fab = m.fab := rfl
@[simp] theorem aditSend_velom (m : Mod) (r : Resp) : (aditSend m r).velom = m.velom := rfl
@[simp] theorem aditSend_mem (m : Mod) (r : Resp) : (aditSend m r).mem = m.mem := rfl
@[simp] theorem aditSend_hbm (m : Mod) (r : Resp) : (aditSend m r).hbm = m.hbm := rfl
@[simp] theorem aditSend_pwr (m : Mod) (r : Resp) : (aditSend m r).pwr = m.pwr := rfl
@[simp] theorem aditSend_saf (m : Mod) (r : Resp) : (aditSend m r).saf = m.saf := rfl
@[simp] theorem aditSend_sec (m : Mod) (r : Resp) : (aditSend m r).sec = m.sec := rfl
@[simp] theorem aditSend_draws (m : Mod) (r : Resp) : (aditSend m r).draws = m.draws := rfl

end Sys2Proof.Laws
end

