-- ==== Sys2Proof/Laws/Lookup.lean ====
section
/-! SUPPORT. Look-ups of numbered records after one of them was set: the record reads back, every other reads as before. -/

namespace Sys2Proof.Laws

open Sys2Proof.Machine

/-- A look-up by key in a list whose elements of one key were all replaced by `x`. -/
theorem find_mapIf {α : Type} (key : α → Nat) (l : List α) (x : α) (n : Nat) :
    (mapIf (fun y => decide (key y = key x)) (fun _ => x) l).find? (fun y => decide (key y = n)) =
      if n = key x then (l.find? fun y => decide (key y = n)).map fun _ => x else l.find? fun y => decide (key y = n) := by
  induction l with
  | nil => simp [mapIf]
  | cons y l ih =>
    simp only [mapIf, List.map_cons] at ih ⊢
    by_cases hy : key y = key x
    · by_cases hn : n = key x
      · simp [hy, hn]
      · have : ¬ key x = n := fun h => hn h.symm
        simp [hy, hn, this] at ih ⊢
        exact ih
    · by_cases hn : key y = n
      · have : ¬ n = key x := fun h => hy (hn.trans h)
        simp [hn, this]
      · simp [hy, hn] at ih ⊢
        exact ih

theorem chuteOf_no {m : Mod} {n : Nat} {c : ChuteRec} (h : chuteOf m n = some c) : c.no = n := by
  simpa using List.find?_some h

theorem chuteOf_setChute {m : Mod} {n : Nat} {c d : ChuteRec} (h : chuteOf m n = some c) (hd : d.no = c.no) (k : Nat) :
    chuteOf (setChute m d) k = if k = n then some d else chuteOf m k := by
  have hn := chuteOf_no h
  unfold chuteOf setChute at *
  rw [find_mapIf (fun x : ChuteRec => x.no) m.chutes d k]
  simp only [hd, hn]
  split
  · subst_vars; simp [h]
  · rfl

theorem cmdOf_id {m : Mod} {n : Nat} {c : Cmd} (h : cmdOf m n = some c) : c.id = n := by simpa using List.find?_some h

theorem cmdOf_setCmd (m : Mod) (d : Cmd) (k : Nat) :
    cmdOf (setCmd m d) k = if k = d.id then (cmdOf m k).map fun _ => d else cmdOf m k :=
  find_mapIf (fun x : Cmd => x.id) m.cmds d k

theorem faceOf_setFace (m : Mod) (f : Face) (k : Nat) :
    faceOf (setFace m f) k = if k = f.id then (faceOf m k).map fun _ => f else faceOf m k :=
  find_mapIf (fun x : Face => x.id) m.faces f k

theorem shardOf_setColl (m : Mod) (c : Coll) (k : Nat) :
    shardOf (setColl m c) k = if k = c.id then (shardOf m k).map fun _ => c else shardOf m k :=
  find_mapIf (fun x : Coll => x.id) m.colls c k

theorem find_insertBy {α : Type} (lt : α → α → Bool) (p : α → Bool) (x : α) (l : List α) (h : ∀ y ∈ l, p y = true → p x = false) :
    (insertBy lt x l).find? p = if p x then some x else l.find? p := by
  induction l with
  | nil => cases hp : p x <;> simp [insertBy, hp]
  | cons y l ih =>
    simp only [insertBy]
    have ih := ih fun z hz => h z (by simp [hz])
    split
    · simp only [List.find?_cons]
      cases p x <;> rfl
    · simp only [List.find?_cons, ih]
      by_cases hy : p y = true
      · have := h y (by simp) hy
        simp [hy, this]
      · simp [hy]

end Sys2Proof.Laws
end

