-- ==== Sys2Proof/WellFormed.lean ====
section
/-! DEFINITION. Which commands are well formed: every operand within the range its row and rule give it. A command that is
not well formed names nothing the module has. -/

namespace Sys2Proof
open Machine

/-- Faces 0 to 127, and drills 0 to 383 of stacks 0 to 7. -/
def coreOk : Core → Bool
  | .face n => n < 128
  | .drill s n => s < 8 && n < 384

def unitOk : UnitId → Bool
  | .page p => pageOk p
  | .drill s n => s < 8 && n < 384
  | .pair n => n < 4

def lnkOk : Lnk → Bool
  | .velom => true
  | .port n => n < 12

/-- A tag has 8 bits, and a group index 48 (Table CR-7, R317). -/
def hitOk : Hit → Bool
  | .skew n want got _ => n < 128 && want < 256 && got < 256
  | _ => true

def skewOk (x : Option TagSkew) : Bool := x.all fun k => k.want < 256 && k.got < 256

def partOk : Part → Bool
  | .head chute => chute < 4096
  | .run _ hit => hitOk hit

/-- A frame holds as many data slots as its header says (Table FB-1). -/
def frameOk (f : Frame) : Bool := f.data.length = f.hdr.toNat / 2 ^ 42 % 2 ^ 5

def dbgOk : DbgReq → Bool
  | .haltPair n => n < 4
  | .readMem a n => a.toNat + n ≤ 2 ^ 46
  | .writeMem a d => a.toNat + d.length ≤ 2 ^ 46
  | .readReg _ => true
  | .writeReg _ _ => true

/-- A measurement of every pool (R79). -/
def winOk (m : WinMeas) : Bool := m.done.length = 16 && m.coef.length = 16

/-- A sample of every sensor (R554). -/
def sampleOk (x : Sample) : Bool := x.temp.length = 48 && x.pred.length = 46 && x.est.length = 46

/-- The counts of an entry (Tables CM-2 to CM-14) are those of the payload read at its pointers. -/
def payloadOk (e : BitVec 512) (p : Payload) : Bool :=
  match fld e 0 1 with
  | 0x03 => p.keys.length = fld e 32 2
  | 0x10 | 0x11 => p.keys.length = fld e 40 2 && p.vecs.length = fld e 40 2 && (fld e 32 8 = 0 || p.attrs.length = fld e 40 2)
  | 0x12 => p.keys.length = fld e 24 2
  | 0x13 => p.docs.length = fld e 32 2
  | 0x14 => p.docs.length = fld e 24 2
  | 0x21 => p.keys.length = fld e 40 4 && p.vecs.length = fld e 40 4 && (fld e 32 8 = 0 || p.attrs.length = fld e 40 4)
  | 0x30 => p.indices.length = fld e 28 4 && p.offsets.length = fld e 56 2 + 1 && (fld e 32 8 = 0 || p.weights.length = fld e 28 4)
  | 0x31 => p.indices.length = fld e 28 4 && p.vecs.length = fld e 28 4
  | 0x40 | 0x41 => fld e 24 8 = 0 || p.args.length = fld e 32 4
  | 0x73 => p.pkg.isSome
  | _ => true

/-- What the phases after the boot chain may find: units that the module has, and copies 0 and 1 of groups (R414, R518). -/
def foundOk (f : Findings) : Bool :=
  let t := f.training
  (t.pcs.all fun x => x.stack < 8 && x.pc < 32) && t.chans.all (· < 32) && t.pairs.all (· < 4) && t.seams.all (· < 8) && t.rails.all (· < 4) &&
    f.copies.all fun x => x.2 < 2

/-- Well-formed commands. -/
def wellFormed : Instr → Bool
  | .tick => true
  | .windowStart m => winOk m
  | .entryFetch chute entry pl => chute < 4096 && payloadOk entry pl
  | .admission => true
  | .search chute => chute < 4096
  | .fetch part => partOk part
  | .insert chute => chute < 4096
  | .upsert chute => chute < 4096
  | .delete chute => chute < 4096
  | .embed part => partOk part
  | .embedInsert part => partOk part
  | .mergeStockpile part => partOk part
  | .buildSegment part => partOk part
  | .publish chute => chute < 4096
  | .retireGen chute => chute < 4096
  | .tableLookup part => partOk part
  | .tableUpdate part => partOk part
  | .runFace p => partOk p.part && (p.keep.isNone || (match p.part with | .run _ hit => hit = .clean | .head _ => false))
  | .runDrill part => partOk part
  | .haulHint part => partOk part
  | .flush part => partOk part
  | .abort chute => chute < 4096
  | .fence part => partOk part
  | .collectionCreate chute => chute < 4096
  | .collectionDrop chute => chute < 4096
  | .schemaSet chute => chute < 4096
  | .modelLoad part => partOk part
  | .generationPublish => true
  | .mergeStep coll => coll < 65536
  | .automaticMerge coll => coll < 65536
  | .buildCheckpoint _ => true
  | .histogramRecountEnd coll => coll < 65536
  | .generationFreed coll _ => coll < 65536
  | .holdExpiry coll _ => coll < 65536
  | .walkStart _ seg => seg.seg < 256
  | .walkExpansion _ seg _ => seg < 256
  | .walkEnd _ seg => seg < 256
  | .stockpileScanPass coll stack drill slice _ _ => coll < 65536 && stack < 8 && drill < 384 && slice.all fun p => decide (p < 2 ^ 32)
  | .flatScanPass coll seg _ => coll < 65536 && seg < 256
  | .riddleMerge _ => true
  | .rerank _ idx _ => idx < 1024
  | .emission _ => true
  | .searchStopTick _ => true
  | .stopTick _ => true
  | .documentEnterSlot _ doc => doc < 1024
  | .chunkEncode x => hitOk x.hit
  | .attentionPartial _ stack drill _ _ _ hit => stack < 8 && drill < 384 && hitOk hit
  | .partialFold _ _ _ _ => true
  | .documentComplete _ => true
  | .recordEnterRing => true
  | .groupClose => true
  | .groupProgrammed _ => true
  | .groupProgramFail _ => true
  | .imageRefresh coll => coll < 65536
  | .writeBufferProgram _ => true
  | .sectorAdd stack _ => stack < 8
  | .ksplitAccept face desc contributor tile => face < 128 && desc < 2 ^ 46 && contributor < 1024 && tile.length = 4096
  | .haulCopy page _ => page < 1073741824
  | .haulSwitch page => page < 1073741824
  | .haulRelease page => page < 1073741824
  | .demotion => true
  | .hotPageWindow die => die < 4
  | .tablePageSwitch page => page < 1073741824
  | .pageRebuild page _ => page < 1073741824
  | .rowRemap stack pc bank row => stack < 8 && pc < 32 && bank < 48 && row < 50848
  | .frameRetirement stack frame => stack < 8 && frame.frame < 1220352
  | .patrolScrub stack frame granule _ => stack < 8 && frame < 1220352 && granule < 2048
  | .flashBlockFailure b => b.ch < 32 && b.wear ≤ 100
  | .flashChannelFailure ch => ch < 32
  | .chuSqDb _ _ => true
  | .chuCqDb _ _ => true
  | .create _ => true
  | .destroy _ => true
  | .query _ => true
  | .chuteDrained chute => chute < 4096
  | .coalescingTimer chute => chute < 4096
  | .chuWeightsWrite _ _ => true
  | .wlkCfgWrite die inst _ => die < 4 && inst < 16
  | .registerWrite _ _ => true
  | .rcRead _ => true
  | .loRead _ => true
  | .blkErrLogLoRead ask => pageOk ask.page
  | .blkEvtPendWrite p _ _ => pageOk p
  | .blockEventRise p => pageOk p
  | .tckReset _ => true
  | .ldgReplayAck _ => true
  | .restart p => pageOk p
  | .outOfService p => pageOk p
  | .returnUnit p => pageOk p
  | .selfTestEnd u _ step => unitOk u && step < 256
  | .rampWindow u => unitOk u
  | .hauFree _ => true
  | .drlHostResWrite stack _ => stack < 8
  | .drlLoadCmd stack window _ => stack < 8 && window < 4
  | .drlCmdDb stack drill _ _ => stack < 8 && drill < 384
  | .drillRunStart stack drill => stack < 8 && drill < 384
  | .drillRunEnd stack drill => stack < 8 && drill < 384
  | .drillWatchdog stack drill => stack < 8 && drill < 384
  | .memoryWipe => true
  | .secLock _ => true
  | .secNonce0Read => true
  | .tokenSubmit sigOk => sigOk.length ≤ 4
  | .lifeCycleReset _ => true
  | .spdmGo => true
  | .fabMbxSend => true
  | .fabMbxPop _ => true
  | .portRetrain port => port < 12
  | .portEnableWrite port _ => port < 12
  | .retrain => true
  | .testModeStart mode target => mode < 16 && target < 4096
  | .testModeEnd _ _ => true
  | .flitReceived l corrected _ flit => lnkOk l && flit.length = 512 && corrected < 256
  | .retryRequest l _ => lnkOk l
  | .acknowledgement l _ => lnkOk l
  | .creditReturn l lane slots => lnkOk l && lane < 3 && slots < 2 ^ 16
  | .linkDetect l _ => lnkOk l
  | .linkEqualised l => lnkOk l
  | .linkActive l _ => lnkOk l
  | .recovery l _ _ _ => lnkOk l
  | .recoveryFail l => lnkOk l
  | .linkLossTimeout => true
  | .load _ _ _ _ => true
  | .loadLease _ _ _ _ => true
  | .store _ _ data => 1 ≤ data.length && data.length ≤ 16 && data.length % 4 = 0
  | .storeMask _ _ _ _ _ => true
  | .regRd _ _ width => width < 2 ^ 16
  | .regWr _ _ width _ => width < 2 ^ 16
  | .hostInv _ _ => true
  | .surrender _ _ => true
  | .recallAck _ _ _ => true
  | .recallTimeout _ => true
  | .hostAck _ _ => true
  | .hostReply _ _ data => data.length ≤ 16
  | .discover port f => port.all (decide <| · < 12) && frameOk f
  | .discoverRsp port f => port.all (decide <| · < 12) && frameOk f
  | .assign port f => port.all (decide <| · < 12) && frameOk f
  | .assignRsp port f => port.all (decide <| · < 12) && frameOk f
  | .routeWr f => frameOk f
  | .routeCommit f => frameOk f
  | .mgtRsp f => frameOk f
  | .notice f => frameOk f
  | .hello port _ _ _ => port < 12
  | .portLoss port => port < 12
  | .frameForward port f => port < 12 && frameOk f
  | .frameDeliver port f => port < 12 && frameOk f
  | .stallDrop port => port < 12
  | .unreach f => frameOk f
  | .isolationTimeout => true
  | .srchReq src tag dl _ entry pl => src < 4096 && tag < 2 ^ 32 && dl < 2 ^ 24 && payloadOk entry pl
  | .srchPart _ r => r.node < 4096 && r.ents.length ≤ 272
  | .ksplitPart src tag desc contributor tile => src < 4096 && tag < 2 ^ 32 && desc < 2 ^ 46 && contributor < 1024 && tile.length = 4096
  | .ksplitAck src tag _ => src < 4096 && tag < 2 ^ 32
  | .ksplitResend tag => tag < 2 ^ 32
  | .unitFaultReport u _ _ => unitOk u
  | .blockRestartEnd u => unitOk u
  | .unitWatchdog u => unitOk u
  | .lockstepMismatch pair => pair < 4
  | .mirrorUncorrectable => true
  | .mirrorRebuildEnd _ => true
  | .seamReplay seam _ => seam < 8
  | .sensorSample x => sampleOk x
  | .sensorFail sensor => sensor < 49
  | .safetyTrip cause index => 1 ≤ cause && cause < 8 && index < 64
  | .analogTrip sensor => sensor < 46
  | .analogTripDelay => true
  | .mcLockstepMismatch => true
  | .mcRestartEnd => true
  | .railCurrentLimit rail => rail < 32
  | .inputCurrentLimit => true
  | .thermalEvent sensor celsius => sensor < 46 && -1024 ≤ celsius && celsius < 1024
  | .thermalModelRefine resp => resp.length = 46
  | .peakStall => true
  | .supplyEvent mv => mv < 65536
  | .supplyDipEnd => true
  | .dipTimeout => true
  | .supplyBelow40v mv => mv < 65536
  | .inputOvervoltage mv => mv < 131072
  | .inputSwitchClose mv => mv < 131072
  | .referenceLoss => true
  | .resetN _ => true
  | .resetNRelease => true
  | .mainEnFall => true
  | .standbyPower => true
  | .powerOn mv inlet => mv < 131072 && inlet < 256
  | .railFailure rail => rail < 32
  | .autoRestart => true
  | .deviceReset cause => cause < 16
  | .quiesceEnd => true
  | .bootChain b => b.imgs.length ≤ 8 && foundOk b.found
  | .benchLoad => true
  | .replay => true
  | .ready => true
  | .transitionResume => true
  | .alu c _ _ _ _ => coreOk c
  | .addi c _ _ _ => coreOk c
  | .andi c _ _ _ => coreOk c
  | .ori c _ _ _ => coreOk c
  | .xori c _ _ _ => coreOk c
  | .lui c _ _ _ => coreOk c
  | .shi c _ _ _ => coreOk c
  | .ld face _ _ _ => face < 128
  | .lw c _ _ _ => coreOk c
  | .sd face _ _ _ => face < 128
  | .sw c _ _ _ => coreOk c
  | .lh stack drill _ _ _ => stack < 8 && drill < 384
  | .lbu stack drill _ _ _ => stack < 8 && drill < 384
  | .sh stack drill _ _ _ => stack < 8 && drill < 384
  | .sb stack drill _ _ _ => stack < 8 && drill < 384
  | .beq c _ _ _ => coreOk c
  | .bne c _ _ _ => coreOk c
  | .blt c _ _ _ => coreOk c
  | .bge c _ _ _ => coreOk c
  | .bltu c _ _ _ => coreOk c
  | .bgeu c _ _ _ => coreOk c
  | .jal c _ => coreOk c
  | .jalr c _ _ _ => coreOk c
  | .exit c _ _ => coreOk c
  | .step face _ _ => face < 128
  | .barrier face _ _ => face < 128
  | .csrr c _ _ _ => coreOk c
  | .setb stack drill _ _ _ => stack < 8 && drill < 384
  | .vectorArithmetic face _ _ _ _ _ => face < 128
  | .vectorFunction face _ _ _ _ _ => face < 128
  | .vectorCompare face _ _ _ _ _ => face < 128
  | .vectorReduce face _ _ _ _ _ => face < 128
  | .vectorConvert face _ _ _ _ f => face < 128 && skewOk f.skew
  | .vectorMove face _ _ _ _ _ => face < 128
  | .vld face _ _ _ => face < 128
  | .vst face _ _ _ => face < 128
  | .tdesc face _ => face < 128
  | .torg face _ => face < 128
  | .tmma face _ => face < 128
  | .tdrain face w => face < 128 && skewOk w.skew
  | .drainEnd face _ => face < 128
  | .tpart face w => face < 128 && w.owner.all (· < 4096)
  | .tfin face w => face < 128 && skewOk w.skew
  | .tstat face _ => face < 128
  | .xfer face _ _ _ _ => face < 128
  | .xwait face _ => face < 128
  | .qarith stack drill _ => stack < 8 && drill < 384
  | .qfunc stack drill _ => stack < 8 && drill < 384
  | .qcmp stack drill _ => stack < 8 && drill < 384
  | .qred stack drill _ => stack < 8 && drill < 384
  | .qcvt stack drill w => stack < 8 && drill < 384 && skewOk w.skew
  | .qmov stack drill _ => stack < 8 && drill < 384
  | .bld stack drill _ _ => stack < 8 && drill < 384
  | .bst stack drill _ => stack < 8 && drill < 384
  | .bstw stack drill _ _ => stack < 8 && drill < 384
  | .qld stack drill _ => stack < 8 && drill < 384
  | .qst stack drill _ => stack < 8 && drill < 384
  | .qtbl stack drill _ => stack < 8 && drill < 384
  | .lins stack drill _ _ _ _ => stack < 8 && drill < 384
  | .entdaa _ => true
  | .setnewda _ => true
  | .rstdaa => true
  | .getpid => true
  | .getbcr => true
  | .getdcr => true
  | .getstatus => true
  | .getmwl => true
  | .setmwl _ => true
  | .getmrl => true
  | .setmrl _ => true
  | .enec _ => true
  | .disec _ => true
  | .rstact _ => true
  | .setEndpointId _ => true
  | .getEndpointId => true
  | .getEndpointUuid => true
  | .getMctpVersionSupport => true
  | .getMessageTypeSupport => true
  | .getTid => true
  | .setTid _ => true
  | .getPldmVersion _ => true
  | .getPldmTypes => true
  | .getPldmCommands _ => true
  | .getPdrRepositoryInfo => true
  | .getPdr id => id < 2 ^ 32
  | .getSensorReading id => id < 65536
  | .getStateSensorReadings id => id < 65536
  | .setNumericEffecterValue id _ => id < 65536
  | .mainPowerEffecter _ => true
  | .resetEffecter _ => true
  | .testModeEffecter mode target => mode < 16 && target < 4096
  | .setEventReceiver _ => true
  | .getFruRecordTableMetadata => true
  | .getFruRecordTable => true
  | .queryDeviceIdentifiers => true
  | .getFirmwareParameters => true
  | .requestUpdate => true
  | .passComponentTable comps => comps.length ≤ 8
  | .updateComponent kind => kind < 7
  | .requestFirmwareData _ => true
  | .verifyComplete => true
  | .activateFirmware => true
  | .getStatus => true
  | .cancelUpdateComponent => true
  | .cancelUpdate => true
  | .getVersion _ => true
  | .getCapabilities _ => true
  | .negotiateAlgorithms _ _ _ => true
  | .getDigests _ => true
  | .getCertificate _ slot off len => slot < 256 && off < 65536 && len < 65536
  | .challenge _ slot _ => slot < 256
  | .getMeasurements _ idx _ => idx < 256
  | .referenceReturn => true
  | .standbyLoss => true
  | .trialBootTimeout => true
  | .railSequenceRetry => true
  | .debugUartAccess r => dbgOk r

end Sys2Proof
end

