-- ==== Sys2Proof/Tests/Slice0.lean ====
section
/-! SUPPORT. The model's own tests: well-formedness refuses what breaks each of its checks, and every statement with hypotheses
has a concrete state and operands that meet them. -/

namespace Sys2Proof.Tests

open Sys2Proof Sys2Proof.Machine

-- One theorem after another: each waits for the kernel, and a thread for each would not fit the check's memory.
set_option Elab.async false

/-! Well-formedness: for each check of `wellFormed`, a term that breaks it alone. -/

def winGood : WinMeas := ⟨List.replicate 16 0, List.replicate 16 0, [], 0, [], []⟩
def sampleGood : Sample := ⟨List.replicate 48 0, List.replicate 46 0, List.replicate 46 0, 0, 0⟩
def partGood : RemotePart := ⟨0, 0, 0, false, none, 0#32, []⟩
def noFind : Findings := ⟨⟨[], [], [], [], []⟩, [], []⟩
def imgGood : Image := ⟨0#32, 0, 0, 0, 0#256, true, true, 0#512⟩

theorem test_wf_accepts : ([.tick, .windowStart winGood, .sensorSample sampleGood, .srchPart 0 partGood, .bootChain ⟨[imgGood], noFind⟩,
   .entryFetch 4095 0#512 Payload.none, .alu (.drill 7 383) 0 0 0 0] : List Instr).all wellFormed = true := by decide +kernel

theorem test_wf_refuses_0 : ([.windowStart { winGood with done := [] },
   .windowStart { winGood with coef := [] },
   .entryFetch 4096 0#512 Payload.none,
   .search 4096,
   .fetch (.head 4096),
   .insert 4096,
   .upsert 4096,
   .delete 4096,
   .embed (.head 4096),
   .embedInsert (.head 4096),
   .mergeStockpile (.head 4096),
   .buildSegment (.head 4096),
   .publish 4096,
   .retireGen 4096,
   .tableLookup (.head 4096),
   .tableUpdate (.head 4096)] : List Instr).all (fun i => !wellFormed i) = true := by decide +kernel

theorem test_wf_refuses_1 : ([.runFace ⟨.head 4096, none⟩,
   .runFace ⟨.head 0, some []⟩,
   .runFace ⟨.run 0 (.skew 128 0 0 0), none⟩,
   .embed (.run 0 (.skew 0 256 0 0)),
   .runDrill (.head 4096),
   .haulHint (.head 4096),
   .flush (.head 4096),
   .abort 4096,
   .fence (.head 4096),
   .collectionCreate 4096,
   .collectionDrop 4096,
   .schemaSet 4096,
   .modelLoad (.head 4096),
   .mergeStep 65536,
   .automaticMerge 65536,
   .histogramRecountEnd 65536,
   .generationFreed 65536 0#32,
   .holdExpiry 65536 0#32,
   .walkStart 0 ⟨256, none⟩] : List Instr).all (fun i => !wellFormed i) = true := by decide +kernel

theorem test_wf_refuses_2 : ([.walkExpansion 0 256 none,
   .walkEnd 0 256,
   .stockpileScanPass 65536 0 0 [] true true,
   .stockpileScanPass 0 8 0 [] true true,
   .stockpileScanPass 0 0 384 [] true true,
   .stockpileScanPass 0 0 0 [2 ^ 32] true true,
   .flatScanPass 65536 0 true,
   .flatScanPass 0 256 true,
   .rerank 0 1024 .ok,
   .documentEnterSlot 0 1024,
   .attentionPartial 0 8 0 0 ⟨0, 0⟩ [] .clean,
   .attentionPartial 0 0 384 0 ⟨0, 0⟩ [] .clean,
   .attentionPartial 0 0 0 0 ⟨0, 0⟩ [] (.skew 128 0 0 0),
   .chunkEncode ⟨0, .skew 0 0 256 0⟩,
   .imageRefresh 65536,
   .sectorAdd 8 .ok,
   .ksplitAccept 128 0 0 (List.replicate 4096 0#32)] : List Instr).all (fun i => !wellFormed i) = true := by decide +kernel

theorem test_wf_refuses_3 : ([.ksplitAccept 0 (2 ^ 46) 0 (List.replicate 4096 0#32),
   .ksplitAccept 0 0 1024 (List.replicate 4096 0#32),
   .ksplitAccept 0 0 0 [],
   .haulCopy 1073741824 .ok,
   .haulSwitch 1073741824,
   .haulRelease 1073741824,
   .hotPageWindow 4,
   .tablePageSwitch 1073741824,
   .pageRebuild 1073741824 ⟨none, []⟩,
   .rowRemap 8 0 0 0,
   .rowRemap 0 32 0 0,
   .rowRemap 0 0 48 0,
   .rowRemap 0 0 0 50848,
   .frameRetirement 8 ⟨0, false⟩,
   .frameRetirement 0 ⟨1220352, false⟩,
   .patrolScrub 8 0 0 .ok] : List Instr).all (fun i => !wellFormed i) = true := by decide +kernel

theorem test_wf_refuses_4 : ([.patrolScrub 0 1220352 0 .ok,
   .patrolScrub 0 0 2048 .ok,
   .flashBlockFailure ⟨32, 0⟩,
   .flashBlockFailure ⟨0, 101⟩,
   .flashChannelFailure 32,
   .chuteDrained 4096,
   .coalescingTimer 4096,
   .wlkCfgWrite 4 0 0#32,
   .wlkCfgWrite 0 16 0#32,
   .blkErrLogLoRead ⟨⟨4, .chu, 1⟩, .link⟩,
   .blkErrLogLoRead ⟨⟨0, .chu, 0⟩, .core⟩,
   .blkEvtPendWrite ⟨4, .chu, 1⟩ true 0#32,
   .blkEvtPendWrite ⟨0, .chu, 0⟩ true 0#32,
   .blockEventRise ⟨4, .chu, 1⟩,
   .blockEventRise ⟨0, .chu, 0⟩,
   .restart ⟨4, .chu, 1⟩,
   .restart ⟨0, .chu, 0⟩] : List Instr).all (fun i => !wellFormed i) = true := by decide +kernel

theorem test_wf_refuses_5 : ([.outOfService ⟨4, .chu, 1⟩,
   .outOfService ⟨0, .chu, 0⟩,
   .returnUnit ⟨4, .chu, 1⟩,
   .returnUnit ⟨0, .chu, 0⟩,
   .selfTestEnd (.page ⟨5, .chu, 0⟩) true 0,
   .selfTestEnd (.drill 8 0) true 0,
   .selfTestEnd (.drill 0 384) true 0,
   .selfTestEnd (.pair 4) true 0,
   .selfTestEnd (.pair 0) true 256,
   .rampWindow (.page ⟨5, .chu, 0⟩),
   .rampWindow (.drill 8 0),
   .rampWindow (.drill 0 384),
   .rampWindow (.pair 4),
   .drlHostResWrite 8 0#32,
   .drlLoadCmd 8 0 0#32,
   .drlLoadCmd 0 4 0#32] : List Instr).all (fun i => !wellFormed i) = true := by decide +kernel

theorem test_wf_refuses_6 : ([.drlCmdDb 8 0 0#16 true,
   .drlCmdDb 0 384 0#16 true,
   .drillRunStart 8 0,
   .drillRunStart 0 384,
   .drillRunEnd 8 0,
   .drillRunEnd 0 384,
   .drillWatchdog 8 0,
   .drillWatchdog 0 384,
   .tokenSubmit (List.replicate 5 true),
   .portRetrain 12,
   .portEnableWrite 12 true,
   .testModeStart 16 0,
   .testModeStart 0 4096,
   .flitReceived (.port 12) 0 true (List.replicate 512 0#8),
   .flitReceived .velom 0 true [],
   .flitReceived .velom 256 true (List.replicate 512 0#8)] : List Instr).all (fun i => !wellFormed i) = true := by decide +kernel

theorem test_wf_refuses_7 : ([.retryRequest (.port 12) 0#12,
   .acknowledgement (.port 12) 0#12,
   .creditReturn (.port 12) 0 0,
   .creditReturn .velom 3 0,
   .creditReturn .velom 0 (2 ^ 16),
   .linkDetect (.port 12) 0#16,
   .linkEqualised (.port 12),
   .linkActive (.port 12) 0#16,
   .recovery (.port 12) true 0#8 0#16,
   .recoveryFail (.port 12),
   .store 0#16 0#64 [],
   .store 0#16 0#64 (List.replicate 20 0#128),
   .store 0#16 0#64 [0#128],
   .regRd 0#16 0#64 (2 ^ 16),
   .regWr 0#16 0#64 (2 ^ 16) 0#32,
   .hostReply 0#16 0#8 (List.replicate 17 0#128)] : List Instr).all (fun i => !wellFormed i) = true := by decide +kernel

theorem test_wf_refuses_8 : ([.discover (some 12) ⟨0#128, []⟩,
   .discover none ⟨0#128, [0#128]⟩,
   .discoverRsp (some 12) ⟨0#128, []⟩,
   .discoverRsp none ⟨0#128, [0#128]⟩,
   .assign (some 12) ⟨0#128, []⟩,
   .assign none ⟨0#128, [0#128]⟩,
   .assignRsp (some 12) ⟨0#128, []⟩,
   .assignRsp none ⟨0#128, [0#128]⟩,
   .routeWr ⟨0#128, [0#128]⟩,
   .routeCommit ⟨0#128, [0#128]⟩,
   .mgtRsp ⟨0#128, [0#128]⟩,
   .notice ⟨0#128, [0#128]⟩,
   .hello 12 0#12 true 0#4,
   .portLoss 12,
   .frameForward 12 ⟨0#128, []⟩,
   .frameForward 0 ⟨0#128, [0#128]⟩] : List Instr).all (fun i => !wellFormed i) = true := by decide +kernel

theorem test_wf_refuses_9 : ([.frameDeliver 12 ⟨0#128, []⟩,
   .frameDeliver 0 ⟨0#128, [0#128]⟩,
   .stallDrop 12,
   .unreach ⟨0#128, [0#128]⟩,
   .srchReq 4096 0 0 0#32 0#512 Payload.none,
   .srchReq 0 (2 ^ 32) 0 0#32 0#512 Payload.none,
   .srchReq 0 0 (2 ^ 24) 0#32 0#512 Payload.none,
   .srchPart 0 { partGood with node := 4096 },
   .srchPart 0 { partGood with ents := List.replicate 273 ⟨0#64, 0#32, 0#8, 0#32⟩ },
   .ksplitPart 4096 0 0 0 (List.replicate 4096 0#32),
   .ksplitPart 0 (2 ^ 32) 0 0 (List.replicate 4096 0#32),
   .ksplitPart 0 0 (2 ^ 46) 0 (List.replicate 4096 0#32),
   .ksplitPart 0 0 0 1024 (List.replicate 4096 0#32),
   .ksplitPart 0 0 0 0 [],
   .ksplitAck 4096 0 true,
   .ksplitAck 0 (2 ^ 32) true] : List Instr).all (fun i => !wellFormed i) = true := by decide +kernel

theorem test_wf_refuses_10 : ([.ksplitResend (2 ^ 32),
   .unitFaultReport (.page ⟨5, .chu, 0⟩) 0#5 0#41,
   .unitFaultReport (.drill 8 0) 0#5 0#41,
   .unitFaultReport (.drill 0 384) 0#5 0#41,
   .unitFaultReport (.pair 4) 0#5 0#41,
   .blockRestartEnd (.page ⟨5, .chu, 0⟩),
   .blockRestartEnd (.drill 8 0),
   .blockRestartEnd (.drill 0 384),
   .blockRestartEnd (.pair 4),
   .unitWatchdog (.page ⟨5, .chu, 0⟩),
   .unitWatchdog (.drill 8 0),
   .unitWatchdog (.drill 0 384),
   .unitWatchdog (.pair 4),
   .lockstepMismatch 4,
   .seamReplay 8 0,
   .sensorSample { sampleGood with temp := [] }] : List Instr).all (fun i => !wellFormed i) = true := by decide +kernel

theorem test_wf_refuses_11 : ([.sensorSample { sampleGood with pred := [] },
   .sensorSample { sampleGood with est := [] },
   .sensorFail 49,
   .safetyTrip 0 0,
   .safetyTrip 8 0,
   .safetyTrip 1 64,
   .analogTrip 46,
   .railCurrentLimit 32,
   .thermalEvent 46 0,
   .thermalEvent 0 (-1025),
   .thermalEvent 0 1024,
   .thermalModelRefine [],
   .supplyEvent 65536,
   .supplyBelow40v 65536,
   .inputOvervoltage 131072,
   .inputSwitchClose 131072] : List Instr).all (fun i => !wellFormed i) = true := by decide +kernel

theorem test_wf_refuses_12 : ([.powerOn 131072 0,
   .powerOn 0 256,
   .railFailure 32,
   .deviceReset 16,
   .bootChain ⟨List.replicate 9 imgGood, noFind⟩,
   .bootChain ⟨[], ⟨⟨[⟨8, 0, false, []⟩], [], [], [], []⟩, [], []⟩⟩,
   .bootChain ⟨[], ⟨⟨[⟨0, 32, false, []⟩], [], [], [], []⟩, [], []⟩⟩,
   .bootChain ⟨[], ⟨⟨[], [32], [], [], []⟩, [], []⟩⟩,
   .bootChain ⟨[], ⟨⟨[], [], [4], [], []⟩, [], []⟩⟩,
   .bootChain ⟨[], ⟨⟨[], [], [], [8], []⟩, [], []⟩⟩,
   .bootChain ⟨[], ⟨⟨[], [], [], [], [4]⟩, [], []⟩⟩,
   .bootChain ⟨[], ⟨⟨[], [], [], [], []⟩, [], [(0, 2)]⟩⟩,
   .alu (.face 128) 0#5 0#5 0#5 0#11,
   .alu (.drill 8 0) 0#5 0#5 0#5 0#11,
   .alu (.drill 0 384) 0#5 0#5 0#5 0#11,
   .addi (.face 128) 0#5 0#5 0#16,
   .addi (.drill 8 0) 0#5 0#5 0#16,
   .addi (.drill 0 384) 0#5 0#5 0#16,
   .andi (.face 128) 0#5 0#5 0#16,
   .andi (.drill 8 0) 0#5 0#5 0#16,
   .andi (.drill 0 384) 0#5 0#5 0#16,
   .ori (.face 128) 0#5 0#5 0#16,
   .ori (.drill 8 0) 0#5 0#5 0#16] : List Instr).all (fun i => !wellFormed i) = true := by decide +kernel

theorem test_wf_refuses_13 : ([.ori (.drill 0 384) 0#5 0#5 0#16,
   .xori (.face 128) 0#5 0#5 0#16,
   .xori (.drill 8 0) 0#5 0#5 0#16,
   .xori (.drill 0 384) 0#5 0#5 0#16,
   .lui (.face 128) 0#5 0#5 0#16,
   .lui (.drill 8 0) 0#5 0#5 0#16,
   .lui (.drill 0 384) 0#5 0#5 0#16,
   .shi (.face 128) 0#5 0#5 0#16,
   .shi (.drill 8 0) 0#5 0#5 0#16,
   .shi (.drill 0 384) 0#5 0#5 0#16,
   .ld 128 0#5 0#5 0#16,
   .lw (.face 128) 0#5 0#5 0#16,
   .lw (.drill 8 0) 0#5 0#5 0#16,
   .lw (.drill 0 384) 0#5 0#5 0#16,
   .sd 128 0#5 0#5 0#16,
   .sw (.face 128) 0#5 0#5 0#16] : List Instr).all (fun i => !wellFormed i) = true := by decide +kernel

theorem test_wf_refuses_14 : ([.sw (.drill 8 0) 0#5 0#5 0#16,
   .sw (.drill 0 384) 0#5 0#5 0#16,
   .lh 8 0 0#5 0#5 0#16,
   .lh 0 384 0#5 0#5 0#16,
   .lbu 8 0 0#5 0#5 0#16,
   .lbu 0 384 0#5 0#5 0#16,
   .sh 8 0 0#5 0#5 0#16,
   .sh 0 384 0#5 0#5 0#16,
   .sb 8 0 0#5 0#5 0#16,
   .sb 0 384 0#5 0#5 0#16,
   .beq (.face 128) 0#5 0#5 0#16,
   .beq (.drill 8 0) 0#5 0#5 0#16,
   .beq (.drill 0 384) 0#5 0#5 0#16,
   .bne (.face 128) 0#5 0#5 0#16,
   .bne (.drill 8 0) 0#5 0#5 0#16,
   .bne (.drill 0 384) 0#5 0#5 0#16] : List Instr).all (fun i => !wellFormed i) = true := by decide +kernel

theorem test_wf_refuses_15 : ([.blt (.face 128) 0#5 0#5 0#16,
   .blt (.drill 8 0) 0#5 0#5 0#16,
   .blt (.drill 0 384) 0#5 0#5 0#16,
   .bge (.face 128) 0#5 0#5 0#16,
   .bge (.drill 8 0) 0#5 0#5 0#16,
   .bge (.drill 0 384) 0#5 0#5 0#16,
   .bltu (.face 128) 0#5 0#5 0#16,
   .bltu (.drill 8 0) 0#5 0#5 0#16,
   .bltu (.drill 0 384) 0#5 0#5 0#16,
   .bgeu (.face 128) 0#5 0#5 0#16,
   .bgeu (.drill 8 0) 0#5 0#5 0#16,
   .bgeu (.drill 0 384) 0#5 0#5 0#16,
   .jal (.face 128) 0#26,
   .jal (.drill 8 0) 0#26,
   .jal (.drill 0 384) 0#26,
   .jalr (.face 128) 0#5 0#5 0#16] : List Instr).all (fun i => !wellFormed i) = true := by decide +kernel

theorem test_wf_refuses_16 : ([.jalr (.drill 8 0) 0#5 0#5 0#16,
   .jalr (.drill 0 384) 0#5 0#5 0#16,
   .exit (.face 128) 0#5 0#5,
   .exit (.drill 8 0) 0#5 0#5,
   .exit (.drill 0 384) 0#5 0#5,
   .step 128 0#5 0#5,
   .barrier 128 0#5 0#5,
   .csrr (.face 128) 0#5 0#5 0#8,
   .csrr (.drill 8 0) 0#5 0#5 0#8,
   .csrr (.drill 0 384) 0#5 0#5 0#8,
   .setb 8 0 0#5 0#5 0#4,
   .setb 0 384 0#5 0#5 0#4,
   .vectorArithmetic 128 0#5 0#5 0#5 0#3 0#8,
   .vectorFunction 128 0#5 0#5 0#5 0#3 0#8,
   .vectorCompare 128 0#5 0#5 0#5 0#3 0#8,
   .vectorReduce 128 0#5 0#5 0#5 0#3 0#8] : List Instr).all (fun i => !wellFormed i) = true := by decide +kernel

theorem test_wf_refuses_17 : ([.vectorConvert 128 0#5 0#5 0#5 0#3 ⟨0#8, none⟩,
   .vectorConvert 0 0#5 0#5 0#5 0#3 ⟨0#8, some ⟨256, 0, 0⟩⟩,
   .vectorMove 128 0#5 0#5 0#5 0#3 0#8,
   .vld 128 0#5 0#5 0#16,
   .vst 128 0#5 0#5 0#16,
   .tdesc 128 0#26,
   .torg 128 0#26,
   .tmma 128 0#26,
   .tdrain 128 ⟨0#26, none⟩,
   .tdrain 0 ⟨0#26, some ⟨0, 256, 0⟩⟩,
   .drainEnd 128 true,
   .tpart 128 ⟨0#26, none⟩,
   .tpart 0 ⟨0#26, some 4096⟩,
   .tfin 128 ⟨0#26, none⟩,
   .tfin 0 ⟨0#26, some ⟨256, 0, 0⟩⟩,
   .tstat 128 0#26,
   .xfer 128 0#5 0#5 0#5 0#11,
   .xwait 128 0#26,
   .qarith 8 0 0#26,
   .qarith 0 384 0#26] : List Instr).all (fun i => !wellFormed i) = true := by decide +kernel

theorem test_wf_refuses_18 : ([.qfunc 8 0 0#26,
   .qfunc 0 384 0#26,
   .qcmp 8 0 0#26,
   .qcmp 0 384 0#26,
   .qred 8 0 0#26,
   .qred 0 384 0#26,
   .qcvt 8 0 ⟨0#26, none⟩,
   .qcvt 0 0 ⟨0#26, some ⟨256, 0, 0⟩⟩,
   .qcvt 0 384 ⟨0#26, none⟩,
   .qmov 8 0 0#26,
   .qmov 0 384 0#26,
   .bld 8 0 0#26 .ok,
   .bld 0 384 0#26 .ok,
   .bst 8 0 0#26,
   .bst 0 384 0#26,
   .bstw 8 0 0#26 .ok,
   .bstw 0 384 0#26 .ok] : List Instr).all (fun i => !wellFormed i) = true := by decide +kernel

theorem test_wf_refuses_19 : ([.qld 8 0 0#26,
   .qld 0 384 0#26,
   .qst 8 0 0#26,
   .qst 0 384 0#26,
   .qtbl 8 0 0#26,
   .qtbl 0 384 0#26,
   .lins 8 0 0#5 0#5 0#5 0#11,
   .lins 0 384 0#5 0#5 0#5 0#11,
   .getPdr (2 ^ 32),
   .getSensorReading 65536,
   .getStateSensorReadings 65536,
   .setNumericEffecterValue 65536 0#32,
   .testModeEffecter 16 0,
   .testModeEffecter 0 4096,
   .passComponentTable (List.replicate 9 0),
   .updateComponent 7] : List Instr).all (fun i => !wellFormed i) = true := by decide +kernel

theorem test_wf_refuses_20 : ([.getCertificate .mctp 256 0 0,
   .getCertificate .mctp 0 65536 0,
   .getCertificate .mctp 0 0 65536,
   .challenge .mctp 256 0#256,
   .getMeasurements .mctp 256 0#256,
   .debugUartAccess (.haltPair 4),
   .debugUartAccess (.readMem 0 (2 ^ 46 + 1)),
   .debugUartAccess (.writeMem (BitVec.ofNat 46 (2 ^ 46 - 1)) [0#8, 0#8])] : List Instr).all (fun i => !wellFormed i) = true := by decide +kernel

theorem test_wf_refuses_payloads : ([.entryFetch 0 0x03#512 { Payload.none with keys := [0#64] },
   .entryFetch 0 0x10#512 { Payload.none with keys := [0#64] },
   .entryFetch 0 0x10#512 { Payload.none with vecs := [[]] },
   .entryFetch 0 0x11#512 { Payload.none with keys := [0#64] },
   .entryFetch 0 0x12#512 { Payload.none with keys := [0#64] },
   .entryFetch 0 0x13#512 { Payload.none with docs := [⟨0, 0, [], 0#64, 0, none⟩] },
   .entryFetch 0 0x14#512 { Payload.none with docs := [⟨0, 0, [], 0#64, 0, none⟩] },
   .entryFetch 0 0x21#512 { Payload.none with keys := [0#64] },
   .entryFetch 0 0x21#512 { Payload.none with vecs := [[]] },
   .entryFetch 0 0x30#512 Payload.none,
   .entryFetch 0 0x30#512 { Payload.none with indices := [0#64], offsets := [0#32] },
   .entryFetch 0 0x31#512 { Payload.none with indices := [0#64] },
   .entryFetch 0 0x31#512 { Payload.none with vecs := [[]] },
   .entryFetch 0 0x73#512 Payload.none,
   .entryFetch 0 (BitVec.ofNat 512 (0x10 + 2 ^ 256)) { Payload.none with attrs := [0#128] },
   .entryFetch 0 (BitVec.ofNat 512 (0x21 + 2 ^ 256)) { Payload.none with attrs := [0#128] },
   .entryFetch 0 (BitVec.ofNat 512 (0x30 + 2 ^ 256)) { Payload.none with offsets := [0#32], weights := [0#32] },
   .entryFetch 0 (BitVec.ofNat 512 (0x40 + 2 ^ 192)) { Payload.none with args := [0#8] },
   .entryFetch 0 (BitVec.ofNat 512 (0x41 + 2 ^ 192)) { Payload.none with args := [0#8] },
   .srchReq 0 0 0 0#32 0x03#512 { Payload.none with keys := [0#64] }] : List Instr).all (fun i => !wellFormed i) = true := by decide +kernel

/-! Witnesses: for each statement with hypotheses, a concrete state and operands that meet them. The states are small: they keep the
parts of the reset state but for what a statement is about. -/

/-- A module in operation: phase 7, hub tick 1,000,000, Velom link ACTIVE, two faces and one drill. -/
def base : Mod := { Mod.reset with sys := { sys0 with phase := 7, rst := 0, tick := 1000000#64 }, inited := true, velom := { velom0 with link := { link0 with st := 3, width := 16 } }, faces := [face0 0, face0 1], drills := [drill0 0 0] }

/-- A submission entry: its opcode and its fields by byte offset. -/
def mkEntry (op : Nat) (l : List (Nat × Nat)) : BitVec 512 := BitVec.ofNat 512 (l.foldl (fun a x => a + x.2 * 2 ^ (8 * x.1)) op)

/-- A command of chute 3 whose doorbell tick lies so far ahead that it is admitted whatever latency is predicted (R79). -/
def mkCmd (e : BitVec 512) (pl : Payload) : Cmd :=
  { id := 7, chute := some 3, slot := 0, entry := e, pl := pl, dbTick := 2 ^ 33, verdict := none, cfgSeq := none, admitted := false, seq := 0, admTick := 0, gen := 0
    pkgVer := none, stop := none, level := 0, cost := [], replayed := false, units := [], lsn := none, count := 0, info := 0, failed := none, tags := 0
    docsDone := 0, search := none, embed := none, run := none, merge := none, build := none, upd := none, left := [], origin := none }

/-- Chute 3: rings of 16 entries in host memory. -/
def chute3 : ChuteRec := ⟨3, false, 0x10000#64, 0x20000#64, 0x0404#32, 0x80000102#32, 0, [], [], 0, 0, 0, none, [], none⟩

def node0 : Node := ⟨5#64, 0#32, 1#32, 0#128, List.replicate 8 0, [], List.replicate 8 0x3F800000#32⟩
def hist0 : Hist := ⟨0, [], [], [], []⟩
def seg0 : Segment := ⟨1, 0, 8, 32, List.replicate 8 [[0#32]], [node0], [0], 0x10000, 1, [], [], hist0, false⟩
def gen1 : Gen := ⟨1, [seg0], 0#32, 0, none, false⟩
def stock0 : SEntry := ⟨0#32, 9#64, List.replicate 8 0x40000000#32, 0#32, 0#128, 1#32, some 10, true⟩
/-- Collection 2: 8 elements of fp32, L2, generation 1 with one segment, one stockpile entry. -/
def coll2 : Coll :=
  { id := 2, d := 8, ty := 0, dist := 0, stockLog2 := 20, home := 0xFFF, made := true, dropping := false, dropped := false, gens := [gen1], cur := 1, lastVer := 0
    tail := 1#32, stock := [stock0], tombs := [], tombStock := [], reborn := [], stockPgs := [], released := [], epoch := 0, enable := 0, signed := 0, dflt := 0#128, hist := hist0
    recount := none, built := [], shardMap := [], pub := none, cfgSeq := 0, mergeEnd := none }

/-- `base` with chute 3, collection 2 and the given commands. -/
def withCmds (l : List Cmd) : Mod := { base with chutes := [chute3], colls := [coll2], cmds := l, nextCmd := 8 }

theorem timed_urgent (m : Mod) (c : Cmd) (hc : classOf c.entry = 0) (he : elastic c.entry = false)
    (hd : now m + 0xFFFFFFFF ≤ c.dbTick) (hs : m.saf.closed = false) (ht : tagsNeeded m c.entry c.pl ≤ mirrorFree m)
    (hr : ringFull m = false) (hz : zoneFull m = false) (h1 : 0 < deadlineOf c.entry) : timed m c = .admits 0 := by
  have hp : ∀ c e k, predict m c e k ≤ 0xFFFFFFFF := fun c e k => Nat.min_le_left _ _
  have hl : levelFor m c = some 0 := by
    have := hp c (reducedEntry c.entry 0) 0
    simp only [levelFor, hc, he]
    simp
    omega
  have hdef : ∀ k, deferral m c k = none := by
    intro k
    simp [deferral, hc, hs, hr, hz, creditOk, creditFits, creditClass, Nat.not_lt.mpr ht]
  unfold timed
  simp only [hl, hdef, hc]
  rw [if_neg]
  simp
  omega

theorem witness_OnlyTableTransitionsHappen : lifeCycleLegal base.sec ∧ ∃ t, step ⟨[.transitionResume], base⟩ = .next t :=
  ⟨by simp [lifeCycleLegal, base, Mod.reset, sec0], _, rfl⟩

def tableOne : TableDesc := ⟨0, 0, 8, 4, 0, 0#64, 0, 0, false, [], [], [], List.replicate 4 (List.replicate 8 0#32)⟩
def pkgOne : Package :=
  { sigOk := true, keyHash := 0#256, digest := 0#512
    programs := [⟨1, 0, 0, [0x70000000#32], [], 0, 0, true⟩, ⟨2, 0, 0, [0x70000000#32], [], 0, 0, true⟩], scales := []
    tables := [tableOne], enc := ⟨8, 16, 0, 32, 0, false, 0x3F800000#32⟩, weights := [] }
def pkgVer1 : PkgVer := ⟨1, 1, pkgOne, true, [7], [], 1, [], []⟩
def withHead (e : BitVec 512) (pl : Payload) : Mod := { withCmds [mkCmd e pl] with pkgs := [pkgVer1] }

/-- What `Admits` asks of an URGENT head, in one Boolean. -/
def headOk (m : Mod) (op : Nat) (c : Cmd) : Bool :=
  admissionOpen m && decide (chuteHead m 3 = some c) && mayDecide m c && decide (c = withInputs m c) && decide (opcodeOf c.entry = op) && !waitsFor m c && !inputLeased m c.entry c.pl && (headCheck m c).isNone &&
  decide (classOf c.entry = 0) && !elastic c.entry && decide (now m + 0xFFFFFFFF ≤ c.dbTick) && !m.saf.closed &&
  decide (tagsNeeded m c.entry c.pl ≤ mirrorFree m) && !ringFull m && !zoneFull m && decide (0 < deadlineOf c.entry)

theorem admits_urgent (m : Mod) (op : Nat) (c : Cmd) (h : headOk m op c = true) : Admits m op 3 c 0 := by
  simp only [headOk, Bool.and_eq_true, decide_eq_true_eq, Bool.not_eq_true', Option.isNone_iff_eq_none] at h
  obtain ⟨⟨⟨⟨⟨⟨⟨⟨⟨⟨⟨⟨⟨⟨⟨h1, h2⟩, ha⟩, hb⟩, h3⟩, h4⟩, hc⟩, h5⟩, h6⟩, h7⟩, h8⟩, h9⟩, h10⟩, h11⟩, h12⟩, h13⟩ := h
  exact ⟨h1, ⟨c, h2, ha, hb⟩, h3, h4, hc, h5, timed_urgent m c h6 h7 h8 h9 h10 h11 h12 h13⟩

def payload (keys : List DWord) (vecs : List (List Word)) (query : List Word) (docs : List Doc) : Payload :=
  { Payload.none with keys := keys, vecs := vecs, query := query, docs := docs }
def vec8 : List Word := List.replicate 8 0x3F800000#32

/-- The URGENT heads that the witnesses use: each opcode with an entry and a payload that its checks pass. -/
def heads0 : List (Nat × BitVec 512 × Payload) :=
  [(0x01, mkEntry 0x01 [(2, 2), (8, 1), (16, 0x1000), (24, 0x2000), (32, 1)], payload [] [] vec8 []),
   (0x03, mkEntry 0x03 [(2, 2), (8, 1), (16, 0x1000), (24, 0x2000), (32, 1)], payload [9#64] [] [] []),
   (0x10, mkEntry 0x10 [(2, 2), (8, 1), (16, 0x1000), (24, 0x2000), (40, 1)], payload [11#64] [vec8] [] []),
   (0x11, mkEntry 0x11 [(2, 2), (8, 1), (16, 0x1000), (24, 0x2000), (40, 1)], payload [9#64] [vec8] [] []),
   (0x12, mkEntry 0x12 [(2, 2), (8, 1), (16, 0x1000), (24, 1)], payload [9#64] [] [] []),
   (0x13, mkEntry 0x13 [(8, 1), (16, 0x1000), (24, 0x2000), (32, 1), (34, 1)], payload [] [] [] [⟨0x4000, 1, [], 12#64, 0, none⟩]),
   (0x14, mkEntry 0x14 [(2, 2), (8, 1), (16, 0x1000), (24, 1), (26, 1)], payload [] [] [] [⟨0x4000, 1, [], 12#64, 0, none⟩]),
   (0x22, mkEntry 0x22 [(2, 2), (8, 1), (16, 2), (48, 1)], Payload.none),
   (0x23, mkEntry 0x23 [(2, 2), (8, 1), (16, 1)], Payload.none),
   (0x30, mkEntry 0x30 [(8, 1), (16, 1), (20, 0x1000), (28, 1), (40, 0x3000), (48, 0x2000), (56, 1)], Payload.none),
   (0x31, mkEntry 0x31 [(8, 1), (16, 1), (20, 0x1000), (28, 1), (32, 0x2000)], Payload.none),
   (0x40, mkEntry 0x40 [(8, 1), (16, 1), (20, 1)], Payload.none),
   (0x41, mkEntry 0x41 [(8, 1), (16, 1), (20, 1), (22, 1)], Payload.none),
   (0x50, mkEntry 0x50 [(8, 1), (16, 2 ^ 63), (24, 1)], Payload.none),
   (0x51, mkEntry 0x51 [(8, 1), (16, 2 ^ 63)], Payload.none),
   (0x60, mkEntry 0x60 [(8, 1), (16, 3)], Payload.none),
   (0x61, mkEntry 0x61 [(8, 1)], Payload.none),
   (0x70, mkEntry 0x70 [(2, 3), (8, 1), (16, 8), (22, 0xFFF)], Payload.none),
   (0x71, mkEntry 0x71 [(2, 2), (8, 1)], Payload.none),
   (0x72, mkEntry 0x72 [(2, 2), (8, 1), (16, 1)], Payload.none),
   (0x73, mkEntry 0x73 [(8, 1), (16, 0x1000), (24, 1), (28, 2)], Payload.none)]

/-- Each of those heads is admitted, alone at chute 3 of its state. -/
theorem heads0_admitted : ∀ x ∈ heads0, Admits (withHead x.2.1 x.2.2) x.1 3 (mkCmd x.2.1 x.2.2) 0 := fun x hx =>
  admits_urgent _ _ _ ((by decide +kernel : ∀ x ∈ heads0, headOk (withHead x.2.1 x.2.2) x.1 (mkCmd x.2.1 x.2.2) = true) x hx)

/-- A module with whole stacks and an empty bench map: any frame may take a page. -/
def emptyBench (m : Mod) : Bool :=
  decide (m.hbm = List.replicate 8 stack0) && m.units.isEmpty && m.inited && m.mem.map.isEmpty && m.mem.moves.isEmpty

theorem frameOk_empty (m : Mod) (h : emptyBench m = true) (s f : Nat) (hs : s < 8) : Machine.frameOk m s f = true := by
  simp only [emptyBench, Bool.and_eq_true, decide_eq_true_eq, List.isEmpty_iff] at h
  obtain ⟨⟨⟨⟨hh, hu⟩, hi⟩, hm⟩, hv⟩ := h
  have hk : stackOf m s = stack0 := by
    simp only [stackOf, hh]
    interval_cases s <;> rfl
  simp [Machine.frameOk, hk, stack0, isOut, unitState, unitRec, hu, hi, frameUsed, hm, hv]

/-- On such a module a frame of any die is found, wherever the draw starts. -/
theorem pickLoc_bench1 (m : Mod) (h : emptyBench m = true) (d : Option Nat) (hd : ∀ x, d = some x → x < 4) : ∃ l, pickLoc m 1 d = some l := by
  have h' := h
  simp only [emptyBench, Bool.and_eq_true, decide_eq_true_eq, List.isEmpty_iff] at h'
  obtain ⟨⟨⟨⟨hh, hu⟩, hi⟩, hm⟩, hv⟩ := h'
  have hk : ∀ s, s < 8 → stackOf m s = stack0 := by
    intro s hs
    simp only [stackOf, hh]
    interval_cases s <;> rfl
  have key : ∀ s k, s < 8 → k = 1 → (((upto (1 * k)).map fun i => (Config.place m.mem.draws / 8 + i) % framesPerStack).find? fun f =>
      Machine.frameOk m s f) = some ((Config.place m.mem.draws / 8 + 0) % framesPerStack) := by
    intro s k hs hk1
    subst hk1
    show (List.find? _ [_]) = _
    rw [List.find?_cons_of_pos]
    exact frameOk_empty m h s _ hs
  cases d with
  | none =>
    have hs : Config.place m.mem.draws % 8 < 8 := by omega
    refine ⟨Config.place m.mem.draws % 8 * 2 ^ 21 + (Config.place m.mem.draws / 8 + 0) % framesPerStack, ?_⟩
    simp only [pickLoc]
    rw [key _ _ hs (by simp only [hm, hv, hk _ hs, stack0, List.length_nil])]
    rfl
  | some x =>
    have hx := hd x rfl
    have hs : 2 * x + Config.place m.mem.draws % 2 < 8 := by omega
    refine ⟨(2 * x + Config.place m.mem.draws % 2) * 2 ^ 21 + (Config.place m.mem.draws / 8 + 0) % framesPerStack, ?_⟩
    simp only [pickLoc]
    rw [key _ _ hs (by simp only [hm, hv, hk _ hs, stack0, List.length_nil])]
    rfl

theorem allocPages_one (m : Mod) (h : emptyBench m = true) (d : Option Nat) (hd : ∀ x, d = some x → x < 4) :
    ∃ p t, allocPages 1 d 1 m = some ([p], t) := by
  obtain ⟨l, hl⟩ := pickLoc_bench1 m h d hd
  exact ⟨_, _, by simp [allocPages, allocModule, hl]; exact ⟨rfl, rfl⟩⟩

theorem timed_bulk (m : Mod) (c : Cmd) (hc : classOf c.entry = 3) (ha : m.adm.coef = List.replicate 16 0) (hb : m.adm.bulk = List.replicate 16 0)
    (hg : m.pwr.grant = 0) (hcr : m.pwr.credit = 0) (hp : lowerPaused m = false) (hs : m.saf.closed = false)
    (ht : tagsNeeded m c.entry c.pl ≤ mirrorFree m) (hr : ringFull m = false) (hz : zoneFull m = false) : timed m c = .admits 0 := by
  have hen : ∀ k, energyOf m k = 0 := by
    intro k
    simp [energyOf, ha, upto, List.range, List.range.loop, total, List.replicate]
  have hbr : ∀ k, bulkRoom m k = true := by
    intro k
    simp only [bulkRoom, hb, upto, List.all_eq_true, List.mem_range]
    intro p hp
    have : (List.replicate 16 0).getD p 0 = 0 := by interval_cases p <;> rfl
    simp only [this]
    simp
    omega
  have hcl : creditClass (opcodeOf c.entry) 3 = 1 ∨ creditClass (opcodeOf c.entry) 3 = 3 := by
    unfold creditClass; split <;> simp
  have hcf : creditFits m (creditClass (opcodeOf c.entry) 3) 0 = true := by
    rcases hcl with h | h <;> simp [creditFits, h, hg, hcr]
  have hdef : ∀ k, deferral m c k = none := by
    intro k
    simp [deferral, hc, hs, hr, hz, creditOk, Nat.not_lt.mpr ht, hen, hbr, hp, hcf]
  unfold timed
  simp [levelFor, hc, hdef]

/-- `withHead` with a power model that costs nothing. -/
def withBulk (e : BitVec 512) : Mod := { withHead e Payload.none with adm := { adm0 with coef := List.replicate 16 0 } }
def mergeHead : BitVec 512 := mkEntry 0x20 [(1, 3), (2, 2), (20, 0xFF)]
def buildHead : BitVec 512 := mkEntry 0x21 [(1, 3), (2, 2), (16, 0x1000), (24, 0x2000), (40, 1), (44, 2), (46, 1)]

/-- The module once the segment number that the build names holds no unpublished segment. -/
def buildBase : Mod := dropBuilt (withBulk buildHead) coll2 (fld buildHead 44 1)

theorem build_passes : headCheck (withBulk buildHead) (mkCmd buildHead Payload.none) = none := by
  have h : ¬ freeB2 buildBase < vecPages coll2 (fld buildHead 40 4) := by
    unfold freeB2 b2Total
    split <;> decide +kernel
  have h2 : ¬ freeB1Die buildBase (roomiest buildBase) < idxPages (fld buildHead 40 4) (buildM buildHead) (buildDegree buildHead) := by
    decide +kernel
  have hb : buildCheck (withBulk buildHead) coll2 buildHead = none := by
    unfold buildCheck
    rw [if_neg (by decide +kernel), if_neg (by decide +kernel), if_neg]
    simp only [Bool.or_eq_true, decide_eq_true_eq, not_or]
    exact ⟨h2, h⟩
  have e1 : (if (mkCmd buildHead Payload.none).origin.isSome then none else entryFault (withBulk buildHead) buildHead) = none := by decide +kernel
  have e2 : collCheck (withBulk buildHead) buildHead = none := by
    have : (collCheck (withBulk buildHead) buildHead).isNone = true := by decide +kernel
    exact Option.isNone_iff_eq_none.mp this
  have e3 : genCheck (withBulk buildHead) (mkCmd buildHead Payload.none) = none := by
    have : (genCheck (withBulk buildHead) (mkCmd buildHead Payload.none)).isNone = true := by decide +kernel
    exact Option.isNone_iff_eq_none.mp this
  have e4 : payloadVerdict (withBulk buildHead) (mkCmd buildHead Payload.none) = none := by decide +kernel
  have e5 : opcodeOf buildHead = 0x21 := by decide +kernel
  have e6 : collOf (withBulk buildHead) (collId buildHead) = some coll2 := by decide +kernel
  have e7 : inputHurt (withBulk buildHead) buildHead (mkCmd buildHead Payload.none).pl = false := by decide +kernel
  unfold headCheck
  simp only [show (mkCmd buildHead Payload.none).entry = buildHead from rfl, e1]
  unfold stateCheck opCheck
  simp only [show (mkCmd buildHead Payload.none).entry = buildHead from rfl, e2, e3, e4, e5, e6, Option.orElse_none, Option.bind_some, hb, e7]
  rfl

/-- MERGE_STOCKPILE and BUILD_SEGMENT, which are BULK, are admitted. -/
theorem merge_admitted : Admits (withBulk mergeHead) 0x20 3 (mkCmd mergeHead Payload.none) 0 :=
  ⟨by decide +kernel, ⟨mkCmd mergeHead Payload.none, by decide +kernel⟩, by decide +kernel, by decide +kernel, by decide +kernel,
    Option.isNone_iff_eq_none.mp (by decide +kernel : (headCheck (withBulk mergeHead) (mkCmd mergeHead Payload.none)).isNone = true),
    timed_bulk _ _ (by decide +kernel) rfl rfl rfl rfl (by decide +kernel) rfl (by decide +kernel) (by decide +kernel) (by decide +kernel)⟩
theorem build_admitted : Admits (withBulk buildHead) 0x21 3 (mkCmd buildHead Payload.none) 0 :=
  ⟨by decide +kernel, ⟨mkCmd buildHead Payload.none, by decide +kernel⟩, by decide +kernel, by decide +kernel, by decide +kernel, build_passes,
    timed_bulk _ _ (by decide +kernel) rfl rfl rfl rfl (by decide +kernel) rfl (by decide +kernel) (by decide +kernel) (by decide +kernel)⟩
theorem build_reserves : (reserveBuild buildBase coll2 (fld buildHead 40 4) (buildM buildHead) (buildDegree buildHead) (roomiest buildBase)).isSome = true := by
  have h1 : idxPages (fld buildHead 40 4) (buildM buildHead) (buildDegree buildHead) = 1 := by decide +kernel
  have h2 : ∀ x, some (roomiest buildBase) = some x → x < 4 := by
    have : roomiest buildBase < 4 := by decide +kernel
    exact fun x hx => Option.some.inj hx ▸ this
  obtain ⟨p, t, ht⟩ := allocPages_one buildBase (by decide +kernel) (some (roomiest buildBase)) h2
  unfold reserveBuild
  rw [h1, ht]
  rfl

/-- The entry and payload of an opcode among `heads0`. -/
def headOf (op : Nat) : BitVec 512 × Payload := ((heads0.find? fun x => x.1 = op).map (·.2)).getD (0#512, Payload.none)
def modOf (op : Nat) : Mod := withHead (headOf op).1 (headOf op).2
def cmdFor (op : Nat) : Cmd := mkCmd (headOf op).1 (headOf op).2

theorem witness_ReadHeadsAreAdmittedWithTheirPins : Admits (modOf 0x01) 0x01 3 (cmdFor 0x01) 0 ∧
    (collOf (modOf 0x01) 2 = some coll2 ∧ genOf coll2 (pinGen (modOf 0x01) (headOf 0x01).1) = some gen1) ∧
    ∀ op ∈ [0x03, 0x30, 0x13, 0x40, 0x41], Admits (modOf op) op 3 (cmdFor op) 0 :=
  ⟨admits_urgent _ _ _ (by decide +kernel), by decide +kernel,
    fun op h => admits_urgent _ _ _ ((by decide +kernel : ∀ op ∈ [0x03, 0x30, 0x13, 0x40, 0x41], headOk (modOf op) op (cmdFor op) = true) op h)⟩

theorem witness_BatchesChangeTheStockpileAndTakeARecord : ∀ op ∈ [0x10, 0x11, 0x12, 0x14], ledgerOrdered (modOf op).ledger ∧
    collOf (modOf op) 2 = some coll2 ∧ shardOf (modOf op) 2 = some coll2 ∧ Admits (modOf op) op 3 (cmdFor op) 0 :=
  fun op h => ⟨by simp [ledgerOrdered, modOf, withHead, withCmds, base, Mod.reset, ledger0], rfl, rfl,
    admits_urgent _ _ _ ((by decide +kernel : ∀ op ∈ [0x10, 0x11, 0x12, 0x14], headOk (modOf op) op (cmdFor op) = true) op h)⟩

/-- TABLE_UPDATE names no collection: its clause is met beside a shard 0. -/
def updMod : Mod := { modOf 0x31 with colls := [{ coll2 with id := 0 }] }
theorem witness_BatchesChangeTheStockpileAndTakeARecord_update : ledgerOrdered updMod.ledger ∧
    collOf updMod (collId (cmdFor 0x31).entry) = some { coll2 with id := 0 } ∧ shardOf updMod (collId (cmdFor 0x31).entry) = some { coll2 with id := 0 } ∧
    Admits updMod 0x31 3 (cmdFor 0x31) 0 :=
  ⟨by simp [ledgerOrdered, updMod, modOf, withHead, withCmds, base, Mod.reset, ledger0], by decide +kernel, by decide +kernel,
    admits_urgent _ _ _ (by decide +kernel)⟩

theorem witness_CollectionCommandsTakeOneRecord : ∀ op ∈ [0x70, 0x71, 0x72, 0x23, 0x22], ledgerOrdered (modOf op).ledger ∧
    collOf (modOf op) 2 = some coll2 ∧ Admits (modOf op) op 3 (cmdFor op) 0 :=
  fun op h => ⟨by simp [ledgerOrdered, modOf, withHead, withCmds, base, Mod.reset, ledger0], rfl,
    admits_urgent _ _ _ ((by decide +kernel : ∀ op ∈ [0x70, 0x71, 0x72, 0x23, 0x22], headOk (modOf op) op (cmdFor op) = true) op h)⟩

theorem witness_JobsAreAdmittedWithTheirWork : Admits (withBulk mergeHead) 0x20 3 (mkCmd mergeHead Payload.none) 0 ∧
    Admits (withBulk buildHead) 0x21 3 (mkCmd buildHead Payload.none) 0 ∧
    (reserveBuild buildBase coll2 (fld buildHead 40 4) (buildM buildHead) (buildDegree buildHead) (roomiest buildBase)).isSome = true ∧
    (collOf (withBulk mergeHead) (collId mergeHead) = some coll2 ∧ mergeIdle (withBulk mergeHead) coll2 (mergeJob coll2 mergeHead) = false ∧
      collOf (withBulk buildHead) (collId buildHead) = some coll2) ∧
    ∀ op ∈ [0x50, 0x51, 0x60, 0x61, 0x73], Admits (modOf op) op 3 (cmdFor op) 0 :=
  ⟨merge_admitted, build_admitted, build_reserves, by decide +kernel,
    fun op h => admits_urgent _ _ _ ((by decide +kernel : ∀ op ∈ [0x50, 0x51, 0x60, 0x61, 0x73], headOk (modOf op) op (cmdFor op) = true) op h)⟩

theorem witness_AdmissionDecidesALoneHeadAsItsRowDoes : (modOf 0x61).cmds.filter (fun x => !x.admitted) = [cmdFor 0x61] ∧
    (cmdFor 0x61).chute = some 3 ∧ (cmdFor 0x61).origin = none ∧ (chuteOf (modOf 0x61) 3).isSome = true ∧
    opcodeOf (cmdFor 0x61).entry = 0x61 ∧ admissionOpen Mod.reset = false := by decide +kernel
/-- Of each read that this statement says is admitted, the head that is. -/
theorem witness_AdmissionDecidesALoneHeadAsItsRowDoes_reads : ∀ op ∈ [0x03, 0x13, 0x30, 0x40, 0x41],
    (modOf op).cmds.filter (fun x => !x.admitted) = [cmdFor op] ∧ (chuteOf (modOf op) 3).isSome = true ∧ Admits (modOf op) op 3 (cmdFor op) 0 :=
  fun op h => ⟨((by decide +kernel : ∀ op ∈ [0x03, 0x13, 0x30, 0x40, 0x41], (modOf op).cmds.filter (fun x => !x.admitted) = [cmdFor op]) op h), rfl,
    admits_urgent _ _ _ ((by decide +kernel : ∀ op ∈ [0x03, 0x13, 0x30, 0x40, 0x41], headOk (modOf op) op (cmdFor op) = true) op h)⟩

theorem witness_DecommissionedIsForEver : let s : State := ⟨[.secLock 1#32], { base with sec := { sec0 with lc := 4 } }⟩
    lifeCycleLegal s.mod.sec ∧ s.mod.sec.lc = 4 ∧ ∃ t, Host.Core.run Sys2Proof.core 1 s = Host.Outcome.next t :=
  ⟨by simp [lifeCycleLegal, sec0], rfl, _, rfl⟩

theorem witness_FusesOnlyAdvance : ∃ t, step ⟨[.secLock 1#32], base⟩ = .next t := ⟨_, rfl⟩

theorem witness_LifeCycleMovesByTransitionAlone : (∀ k, Instr.tick ≠ .lifeCycleReset k) ∧ Instr.tick ≠ .transitionResume := by simp

theorem witness_LedgerRecordsStayInLsnOrder : ledgerOrdered ledger0 ∧ ∃ t, step ⟨[.groupClose], base⟩ = .next t :=
  ⟨by simp [ledgerOrdered, ledger0], _, rfl⟩

/-- A thermal event at die 45 (the last) below and above the target, the stall at duty 60 and 50, a supply dip with and without an
earlier one, its end, its timeout, and the input limits. -/
def dipMod (d : Option Dip) : Mod := { base with pwr := { pwr0 with dip := d, peak := 50 }, mgt := { mgt0 with state := 2 } }
theorem witness_HeatPeakAndSupplyCommandsSetTheirState :
    (base.pwr.hot = false ∧ hottest base (base.pwr.pred.set 45 (95 * 16)) ≤ thermTarget base.pwr.therm * 16) ∧
    (base.pwr.hot = false ∧ thermTarget base.pwr.therm * 16 < hottest base (base.pwr.pred.set 45 (96 * 16))) ∧
    50 < base.pwr.peak ∧ ((dipMod none).pwr.peak ≤ 50 ∧ (dipMod none).pwr.stall = false) ∧
    (let d : Dip := ⟨900000, 100, 43000, some 999999⟩
     (dipMod (some d)).pwr.dip = some d ∧ dipDue (dipMod (some d)) d = true ∧ d.first + 100000 ≤ now (dipMod (some d)) ∧
      (dipMod (some d)).sys.rst = 0 ∧ (dipMod (some d)).sys.want = none) ∧
    (let d : Dip := ⟨900001, 100, 43000, some 1000000⟩
     (dipMod (some d)).pwr.dip = some d ∧ dipDue (dipMod (some d)) d = false) ∧
    3 ≤ (recentDips { base with pwr := { pwr0 with starts := [999990, 999980] } }).length + 1 ∧
    ((dipMod none).sys.rails = true ∧ (dipMod none).mgt.state = 2 ∧ (dipMod none).sys.rst = 0 ∧ (dipMod none).sys.want = none) ∧
    { base with sys := { base.sys with switchOpen := true } }.sys.switchOpen = true := by decide +kernel

theorem witness_MisalignedRegisterAccessChangesNothing : linkUp base = true ∧ ((2 : Nat) ≠ 4) ∧ (0x10001#64).toNat % 4 ≠ 0 := by decide +kernel

/-- BLK_EVT_PEND of the chute page, and MGT_ALERT, are W1C. -/
theorem witness_AnEventBeatsItsClear : (pageAt (pageBase chuP + 0x14) = some (chuP, 0x14) ∧ (rowAt chuP 0x14).map (·.acc) = some .w1c) ∧
    pageAt (pageBase mgtP + 0x4C) = some (mgtP, 0x4C) ∧ (rowAt mgtP 0x4C).map (·.acc) = some .w1c ∧ base.sys.rails = true := by decide +kernel

theorem witness_ShareSettingsWaitForTheWindow : base.sec.locked = false ∧ fieldsOk chuP 0x68 0x10408 = true ∧
    fieldsOk chuP 0x68 0 = false := by decide +kernel

/-- Chute 3 with 14 of its 16 slots valid and two completions written; the tail wraps from 14 to 0. -/
def ringMod : Mod := { base with chutes := [{ chute3 with tail := 14, valid := List.range 14, written := 2 }] }
theorem witness_DoorbellsMoveTheirRings :
    let c : ChuteRec := { chute3 with tail := 14, valid := List.range 14, written := 2 }
    let slots := (List.range ((0 + sqDepth c - c.tail) % sqDepth c)).map fun k => (c.tail + k) % sqDepth c
    (chuteOf ringMod 3 = some c ∧ c.draining = false ∧ 0 < sqDepth c ∧ slots = [14, 15] ∧ (∀ x ∈ slots, x ∉ c.valid) ∧
      c.valid.length + slots.length ≤ sqDepth c) ∧
    (chuteOf ringMod 4 = none ∧ sqDepth c ≤ 16) ∧
    (2 < cqDepth c ∧ c.released + (2 + cqDepth c - c.released % cqDepth c) % cqDepth c ≤ c.written) ∧
    c.written < c.released + (3 + cqDepth c - c.released % cqDepth c) % cqDepth c ∧
    chuteOf { base with chutes := [{ chute3 with draining := true }] } 3 = some { chute3 with draining := true } := by decide +kernel

/-- The staging registers hold rings of 16 entries in host memory for chute 4; chute 3 has an admitted command, or is draining and empty,
or has a completion counted 10 ticks ago. -/
def stagedMod : Mod := setReg { withCmds [{ mkCmd 0#512 Payload.none with admitted := true }] with chutes := [{ chute3 with evt := 0x8003010A#32, first := some 999990 }] } chuP 0x60 0x0404#32
theorem witness_ChutesAreCreatedQueriedAndTornDown :
    let c : ChuteRec := { chute3 with evt := 0x8003010A#32, first := some 999990 }
    (chuOn stagedMod = true ∧ chuteOf stagedMod 4 = none ∧ stagedMod.mgt.test = none ∧ getReg stagedMod chuP 0x60 = 0x0404#32 ∧
      ringOk stagedMod false (pairReg stagedMod chuP 0x50) (64 * 2 ^ 4) = true ∧ ringOk stagedMod false (pairReg stagedMod chuP 0x58) (32 * 2 ^ 4) = true) ∧
    (chuteOf stagedMod 3 = some c ∧ c.draining = false ∧ (∀ x ∈ chuteCmds stagedMod 3, x.admitted = true) ∧ chuteCmds stagedMod 3 ≠ []) ∧
    (bits c.evt.toNat 0 8 ≠ 0 ∧ 999990 + bits c.evt.toNat 0 8 ≤ now stagedMod) ∧
    (∀ k ∈ [2, 3, 5], ({ stagedMod with mgt := { mgt0 with test := some (k, 0) } } : Mod).mgt.test = some (k, 0)) ∧
    (let m := setReg stagedMod chuP 0x60 0x0403#32; getReg m chuP 0x60 = 0x0403#32 ∧ m.mgt.test = none) ∧
    ringOk (setReg stagedMod chuP 0x50 1#32) false (pairReg (setReg stagedMod chuP 0x50 1#32) chuP 0x50) (64 * 2 ^ 4) = false ∧
    let d : ChuteRec := { chute3 with draining := true }
    let m : Mod := { base with chutes := [d] }
    chuOn m = true ∧ chuteOf m 3 = some d ∧ chuteCmds m 3 = [] ∧ d.wait = [] := by decide +kernel

theorem witness_AnEntryIsFetchedIntoAWorkRecord : let ch : ChuteRec := { chute3 with tail := 2, valid := [0, 1], wait := [(0, 5), (1, 6)] }
    let m : Mod := { base with chutes := [ch] }
    chuteOf m 3 = some ch ∧ ch.wait = (0, 5) :: [(1, 6)] ∧ fetchOpen m ch = true ∧ m.saf.state = 0 ∧ ch.draining = false ∧
    fetchOpen { m with inited := false } ch = false ∧ (let m : Mod := { m with saf := { saf0 with state := 1 } }; fetchOpen m ch = true ∧ m.saf.state ≠ 0) ∧
    (let d : ChuteRec := { ch with draining := true }; let m : Mod := { base with chutes := [d] }
     chuteOf m 3 = some d ∧ fetchOpen m d = true ∧ inputLeased m 0x12#512 (loadPayload m 0x12#512 Payload.none) = false) ∧
    -- the keys of a DELETE lie in a line that the host holds for writing
    let e := mkEntry 0x12 [(16, 2 ^ 63 + 0x1000), (24, 1)]
    let m : Mod := { m with velom := { m.velom with leases := [⟨0x40, 2⟩] } }
    chuteOf m 3 = some ch ∧ fetchOpen m ch = true ∧ (readAtFetch (opcodeOf e) && inputLeased m e (loadPayload m e Payload.none)) = true := by decide +kernel

theorem witness_CompletionsReachTheirChute : let c := mkCmd 0#512 Payload.none
    c.chute = some 3 ∧ chuteOf (withCmds [c]) 3 = some chute3 ∧ c.origin = none ∧ bitAt chute3.geom.toNat 30 = false := by decide +kernel

/-- The command of `heads0` with that opcode, admitted: generation 1, version 1 of package 1. -/
def runCmd (op : Nat) : Cmd := { cmdFor op with admitted := true, gen := 1, pkgVer := some 1, admTick := 900000 }
def runWith (c : Cmd) : Mod := { withCmds [c] with pkgs := [pkgVer1] }

theorem witness_AdmittedReadsComplete :
    (Running (runWith (runCmd 0x03)) 7 0x03 (runCmd 0x03) ∧ shardOf (runWith (runCmd 0x03)) (collId (runCmd 0x03).entry) = some coll2 ∧
      genOf coll2 (runCmd 0x03).gen = some gen1) ∧
    (let c : Cmd := { runCmd 0x30 with pl := { Payload.none with indices := [3#64], offsets := [0#32, 1#32] } }
     Running (runWith c) 7 0x30 c ∧ pkgOf (runWith c) c (fld c.entry 16 2) = some pkgVer1 ∧ (tableOf pkgVer1 (fld c.entry 18 1)).isSome = true ∧
      offsetFault c.pl.offsets (fld c.entry 56 2) (fld c.entry 28 4) = none ∧
      unitsStall (runWith c) = false ∧ (uniqueRows pkgVer1 (fld c.entry 18 1) [3#64]).any (rowHurt (runWith c) pkgVer1) = false ∧
      outReady (runWith c) (fld c.entry 48 8) 32 = true) ∧
    (let w : EmbedW := ⟨[], [], [(0, vec8)], [], [], 0, 0#128⟩
     let c : Cmd := { runCmd 0x13 with embed := some w, docsDone := 1 }
     Running (runWith c) 7 0x13 c ∧ c.embed = some w ∧ docsN c.entry ≤ c.docsDone ∧ outHeld (runWith c) (fld c.entry 24 8) 32 = false) := by
  unfold Running
  decide +kernel

/-- Page 2 ^ 20 is mapped in bench 1, for the pages that HAUL_HINT and moves name. -/
def page1 : PageEnt := ⟨2 ^ 20, 1, 5, false, false, false, 0⟩
def pageMod (c : Cmd) : Mod := { runWith c with mem := { mem0 with map := [page1] } }
theorem witness_AdmittedWaitsComplete :
    (∀ op ∈ [0x03, 0x13, 0x14, 0x30, 0x31, 0x40, 0x41, 0x50, 0x51, 0x73], Running (runWith (runCmd op)) 7 op (runCmd op) ∧ (runCmd op).lsn = none) ∧
    (∀ e ∈ [(0x20, mergeHead), (0x21, buildHead)],
      let c : Cmd := { mkCmd e.2 Payload.none with admitted := true }
      Running (runWith c) 7 e.1 c ∧ c.lsn = none) ∧
    (Running (runWith (runCmd 0x61)) 7 0x61 (runCmd 0x61) ∧
      ∀ x ∈ (runWith (runCmd 0x61)).cmds, x.admitted = true → x.chute.isSome = true → (runCmd 0x61).seq ≤ x.seq) ∧
    (let c : Cmd := { runCmd 0x51 with left := [3] }
     let m : Mod := { runWith c with mem := { mem0 with wb := [⟨160, [(1, List.replicate 32 7#8)], 4⟩], wbSeq := 5 } }
     Running m 7 0x51 c ∧ ∀ w ∈ m.mem.wb, w.seq ∉ c.left) ∧
    (Running (runWith (runCmd 0x50)) 7 0x50 (runCmd 0x50) ∧ (runCmd 0x50).left = [] ∧
      ∀ v ∈ (runWith (runCmd 0x50)).mem.moves, v.cmd = some 7 → v.done = true) ∧
    (let c : Cmd := { runCmd 0x50 with entry := mkEntry 0x50 [(8, 1), (16, 2 ^ 63), (24, 1), (29, 1)], left := [2 ^ 20, 3] }
     Running (pageMod c) 7 0x50 c ∧ c.left = 2 ^ 20 :: [3] ∧ pageEnt (pageMod c) (2 ^ 20) = some page1 ∧ moveRoom (pageMod c) page1 = true ∧
      fld c.entry 29 1 ≠ 0) := by
  unfold Running
  decide +kernel

def loadCmd (k : Package) : Cmd := { runCmd 0x73 with pl := { Payload.none with pkg := some k } }
/-- A package that carries no table, signed by owner key 0 of a module in state 1. -/
def pkgOk : Package := { pkgOne with keyHash := 9#256, tables := [] }
def ownedMod (c : Cmd) : Mod := { runWith c with sec := { sec0 with lc := 1, owners := [9#256, 0#256, 0#256, 0#256] } }
theorem witness_ProgramsAndPackagesStart :
    (let w : RunW := ⟨false, [], [], [], [], [], 0⟩
     let c : Cmd := { runCmd 0x40 with run := some w }
     let m := runWith c
     Running m 7 0x40 c ∧ c.run = some w ∧ w.started = false ∧ pkgOf m c (fld c.entry 16 2) = some pkgVer1 ∧
      (faceProgram pkgVer1 (fld c.entry 18 2)).isSome = true ∧ fld c.entry 20 2 ≤ (freeFaces m).length) ∧
    (let w : RunW := ⟨false, [], [], [], [], [], 0⟩
     let c : Cmd := { runCmd 0x41 with run := some w }
     let m := runWith c
     let ss := (List.range 8).filter fun k => bitAt (fld c.entry 20 1) k
     let ds := ss.flatMap fun k => moduleDrills m k (fld c.entry 22 2)
     Running m 7 0x41 c ∧ c.run = some w ∧ pkgOf m c (fld c.entry 16 2) = some pkgVer1 ∧ (drillProgram pkgVer1 (fld c.entry 18 2)).isSome = true ∧
      (∀ x ∈ ds, drillOf m x.1 x.2 = some (drill0 0 0)) ∧ (drill0 0 0).ready = true ∧ (drill0 0 0).cmd = none ∧ ss.length * fld c.entry 22 2 ≤ ds.length) ∧
    (let k : Package := { pkgOk with sigOk := false }
     let c := loadCmd k
     Running (ownedMod c) 7 0x73 c ∧ c.lsn = none ∧ c.pl.pkg = some k ∧ (k.sigOk && keyAccepted (ownedMod c) k.keyHash) = false) ∧
    (let c := loadCmd pkgOk
     Running (ownedMod c) 7 0x73 c ∧ c.lsn = none ∧ c.pl.pkg = some pkgOk ∧ (pkgOk.sigOk && keyAccepted (ownedMod c) pkgOk.keyHash) = true ∧
      (∀ g ∈ pkgOk.programs, programBad g = false) ∧ (pkgCur (ownedMod c) (fld c.entry 28 2)).isSome = false ∧
      (ownedMod c).ledger.records = []) ∧
    (let c := loadCmd pkgOk
     let m : Mod := { ownedMod c with pkgs := [{ pkgVer1 with id := fld c.entry 28 2 }] }
     Running m 7 0x73 c ∧ (pkgCur m (fld c.entry 28 2)).isSome = true ∧ bitAt (fld c.entry 30 1) 0 = false) := by
  unfold Running
  decide +kernel
/-- A module page is found where no page is, a package without tables and weights needs none, and the ledger is in order. -/
theorem witness_ProgramsAndPackagesStart_pages : (∃ q, allocModule (runWith (runCmd 0x40)) 0 none = some q) ∧
    (∃ r q, tablesPages pkgOk.tables (ownedMod (loadCmd pkgOk)) = some r ∧ placeWeights r.2 ⟨2, 1, pkgOk, false, r.1.map fun l => l.headD 0, r.1.flatten, 1, [], []⟩ = some q) ∧
    ledgerOrdered (ownedMod (loadCmd pkgOk)).ledger :=
  ⟨⟨_, rfl⟩, ⟨_, _, rfl, rfl⟩, by simp [ledgerOrdered, ownedMod, runWith, withCmds, base, Mod.reset, ledger0]⟩

/-- EMBED_INSERT with its vector, TABLE_UPDATE of one row, a merge job, and builds in phases 1 and 5. -/
def embW : EmbedW := ⟨[], [], [(0, vec8)], [1#32], [], 0, 0#128⟩
def embCmd : Cmd := { runCmd 0x14 with embed := some embW, docsDone := 1 }
def updCmd : Cmd := { runCmd 0x31 with upd := some ⟨false, 0, []⟩, pl := { Payload.none with indices := [3#64], vecs := [vec8] } }
def mergeW : MergeW := ⟨none, 0xFF, false, none, false, none, 1, 1#32, 64⟩
def mergeC (w : MergeW) : Cmd := { mkCmd mergeHead Payload.none with admitted := true, merge := some w }
def buildW (phase : Nat) : BuildW := ⟨2, 0, 8, 32, 256, phase, 0, 0, 900000, [], [], [], 0, [], 0, 0, 0#128, 0⟩
def buildC (phase : Nat) : Cmd := { mkCmd buildHead Payload.none with admitted := true, build := some (buildW phase) }
theorem witness_AdmittedMutationsWork :
    (let m := runWith embCmd
     m.ledger.records = [] ∧ Running m 7 0x14 embCmd ∧ shardOf m (collId embCmd.entry) = some coll2 ∧ docsN embCmd.entry ≤ embCmd.docsDone ∧
      embCmd.lsn = none) ∧
    (let m : Mod := { runWith updCmd with mem := { mem0 with map := [⟨7, 1, 5, false, false, false, 0⟩] } }
     Running m 7 0x31 updCmd ∧ pkgOf m updCmd (fld updCmd.entry 16 2) = some pkgVer1 ∧ tableOf pkgVer1 (fld updCmd.entry 18 1) = some tableOne ∧
      let as := updateAdds m pkgVer1 0 updCmd.pl.indices (deltasOf updCmd.entry updCmd.pl tableOne) (some 7)
      unitsStall m = false ∧ as ≠ [] ∧ ∀ a ∈ as, a.stack < 8) ∧
    Running (runWith (mergeC mergeW)) 7 0x20 (mergeC mergeW) ∧
    ∀ ph ∈ [1, 2, 5], let m := runWith (buildC ph)
      Running m 7 0x21 (buildC ph) ∧ collOf m (collId (buildC ph).entry) = some coll2 ∧ ckptDue m (buildW ph) = false ∧ ringFull m = false ∧
      (buildW ph).phase = ph := by
  unfold Running
  decide +kernel

/-- A merge job with nothing left, one with an entry to fold, and one whose begin record is programmed, its target live or gone. -/
def mergeMod (c : Coll) (w : MergeW) (l : List LRec) : Mod := { runWith (mergeC w) with colls := [c], ledger := { ledger0 with records := l, next := 6 } }
def doneColl : Coll := { coll2 with gens := [{ gen1 with mark := 1#32 }] }
def beginRec : LRec := ⟨5, 900000, 2, 64, 0, none, 0x20, some 7, .mergeBegin 0#32 1#32 1 false, 64, none, some 900010, false, false⟩
theorem witness_MergeStepsFoldTheStockpile :
    (let m := mergeMod doneColl mergeW []
     let lo := (curGen doneColl).mark
     let tg := stepTarget doneColl mergeW (foldable doneColl lo (stepHi m doneColl mergeW)).length
     collOf m 2 = some doneColl ∧ mergeCmd m 2 = some (mergeC mergeW) ∧ mergeW.step = none ∧ ringFull m = false ∧ tg ≠ 256 ∧
      mergeDone doneColl mergeW tg = true) ∧
    (let m := mergeMod coll2 mergeW []
     let lo := (curGen coll2).mark
     let hi := stepHi m coll2 mergeW
     let tg := stepTarget coll2 mergeW (foldable coll2 lo hi).length
     collOf m 2 = some coll2 ∧ tg ≠ 256 ∧ (segOf (curGen coll2) tg).isSome = true ∧ mergeDone coll2 mergeW tg = false ∧
      pastLimit m coll2 mergeW (foldable coll2 lo hi).length = false ∧ lo ≠ hi) ∧
    (let c : Coll := { coll2 with cur := 0xFFFFFFFF, gens := [{ gen1 with no := 0xFFFFFFFF }] }
     let m := mergeMod c mergeW []
     let n := (foldable c (curGen c).mark (stepHi m c mergeW)).length
     collOf m 2 = some c ∧ mergeDone c mergeW (stepTarget c mergeW n) = false ∧ pastLimit m c mergeW n = true) ∧
    (let w : MergeW := { mergeW with step := some (0#32, 1#32, 1, 5) }
     let m := mergeMod coll2 w [beginRec]
     collOf m 2 = some coll2 ∧ mergeCmd m 2 = some (mergeC w) ∧ w.pub = none ∧ ((recordOf m 5).bind (·.prog)).isSome = true ∧ coll2.pub = none ∧
      coll2.cur ≠ 0xFFFFFFFF ∧ segOf (curGen coll2) 1 = some seg0 ∧ w.fresh = false) ∧
    (let w : MergeW := { mergeW with step := some (0#32, 1#32, 9, 5) }
     (segOf (curGen coll2) 9).isSome = w.fresh) ∧
    autoDue (mergeMod coll2 mergeW []) coll2 = false ∧
    (let c : Coll := { coll2 with tail := 0x8000000#32 }
     let m : Mod := setReg { base with colls := [c] } ctlP 0x100 0x80000000#32
     collOf m 2 = some c ∧ autoDue m c = true) := by decide +kernel
theorem witness_MergeStepsFoldTheStockpile_ledger : ledgerOrdered (mergeMod coll2 mergeW [beginRec]).ledger := by
  simp [ledgerOrdered, mergeMod, beginRec]

/-- The step that folds the one entry finds room for the page that it changes. -/
theorem witness_MergeStepsFoldTheStockpile_room :
    let m := mergeMod coll2 { mergeW with step := some (0#32, 1#32, 1, 5) } [beginRec]
    let r := stepSeg m coll2 seg0 0#32 1#32 64
    r.2.1.map (·.1) = [0#32] ∧ ∃ q, copySeg m coll2 seg0 r.1 (r.2.1.map (·.2.2)) = some q := by
  intro m r
  refine ⟨by decide +kernel, ?_⟩
  have hc : changedPages seg0 r.1 = [0] := by
    have h1 : upto (idxPages r.1.nodes.length r.1.m r.1.degree) = [0] := by decide +kernel
    have h2 : 1 ∈ pageNodes (recBytes r.1.m r.1.degree) 0 := by decide +kernel
    have h3 : decide (r.1.nodes[1]? ≠ seg0.nodes[1]?) = true := by
      have : (r.1.nodes[1]?).isSome = true ∧ seg0.nodes[1]? = none := by decide +kernel
      obtain ⟨h, h'⟩ := this
      rw [h']
      simp only [ne_eq, decide_eq_true_eq]
      intro hn
      rw [hn] at h
      exact absurd h (by simp)
    unfold changedPages
    rw [h1]
    simp only [List.filter_cons, List.filter_nil]
    rw [if_pos]
    exact List.any_eq_true.mpr ⟨1, h2, h3⟩
  have he : r.1.entry = seg0.entry := by decide +kernel
  have hd : r.1.die = 0 := by decide +kernel
  have hf : ¬ freeB1Die m 0 < 1 := by decide +kernel
  have h0 : ¬ freeB0Die m 0 < 0 := Nat.not_lt_zero _
  have h2 : ¬ freeB2 m < ((vecPgs coll2 r.1.base r.1.nodes.length).filter fun p => (pageEnt m p).isNone).length := by
    unfold freeB2 b2Total
    split <;> decide +kernel
  obtain ⟨p, t, ht⟩ := allocPages_one m (by decide +kernel) (some 0) (by simp)
  unfold copySeg
  simp only [hc, he, hd, if_true, List.length_singleton]
  rw [if_neg (by simp only [Bool.or_eq_true, decide_eq_true_eq, not_or]; exact ⟨⟨hf, h0⟩, h2⟩), ht]
  exact ⟨_, rfl⟩

/-- A programmed publish record; a shard with a recount, an old generation with a hold that has run out or runs, a build with its checkpoint due. -/
def gen2 : Gen := { gen1 with no := 2, epoch := 1 }
def pubRec : PubRec := ⟨gen2, [], 0, none, false, [], [], []⟩
def pubLRec : LRec := ⟨5, 900000, 2, 64, 0, some 3, 0x22, none, .publish pubRec, 64, none, some 900010, false, false⟩
def pubColl (h : Option Nat) (dropped : Bool) : Coll := { coll2 with gens := [{ gen1 with hold := h }, gen2], cur := 2, recount := some hist0, dropped := dropped }
def ckptB : BuildW := { buildW 3 with count := 2 ^ 24 }
def ckptMod : Mod := runWith { buildC 3 with build := some ckptB }
theorem witness_GenerationsApplyHoldAndFree :
    (resetting State.reset.mod = true ∧ resetting base = false) ∧
    (let m := mergeMod coll2 mergeW [pubLRec]
     m.ledger.records.filter (fun r => versioning r.redo && !r.applied && (r.prog.any fun p => decide (p < now m))) = [pubLRec] ∧
      shardOf m pubLRec.coll = some coll2 ∧ coll2.dropped = false) ∧
    (let c := pubColl (some 999999) false
     let m := mergeMod c mergeW []
     let x : Gen := { gen1 with hold := some 999999 }
     shardOf m 2 = some c ∧ c.recount = some hist0 ∧ genOf c 1 = some x ∧ genOf c 2 = some gen2 ∧ c.cur = 2 ∧ pinned m 2 1 = false ∧
      heldBy m x = false ∧ c.dropped = false ∧ 999999 < now m) ∧
    (let c := pubColl (some 1000000) false
     let m := mergeMod c mergeW []
     let x : Gen := { gen1 with hold := some 1000000 }
     genOf c 1 = some x ∧ heldBy m x = true ∧ now m ≤ 1000000) ∧
    (let c : Coll := { pubColl none true with gens := [gen1] }
     let m := mergeMod c mergeW []
     shardOf m 2 = some c ∧ genOf c 1 = some gen1 ∧ 1 ≠ c.cur ∧ pinned m 2 1 = false ∧ heldBy m gen1 = false ∧ c.dropped = true ∧
      ∀ y ∈ c.gens, y.no = 1) ∧
    (let m := runWith (buildC 3)
     cmdOf m 7 = some (buildC 3) ∧ ckptDue m (buildW 3) = false) ∧
    ckptDue ckptMod ckptB = true ∧ ckptB.seg < 256 ∧ cmdOf ckptMod 7 = some { buildC 3 with build := some ckptB } := by decide +kernel
/-- Bench 2 has room for the checkpoint, and has none once every channel has stopped. -/
def ckptMod1 : Mod := placePage { ckptMod with mem := { mem0 with nextPage := 2 } } 1 2 0
def ckptFull : Mod := { ckptMod with mem := { mem0 with channels := List.replicate 32 { chan0 with st := 3 } } }
theorem witness_GenerationsApplyHoldAndFree_room :
    (∃ q, allocPages 2 none (ckptPages ckptB (fld (buildC 3).entry 40 4)) ckptMod = some q) ∧
    allocPages 2 none (ckptPages ckptB (fld (buildC 3).entry 40 4)) ckptFull = none := by
  have h : ckptPages ckptB (fld (buildC 3).entry 40 4) = 2 := by decide +kernel
  have h1 : ¬ freeB2 ckptMod = 0 := by unfold freeB2 b2Total; split <;> decide +kernel
  have h2 : ¬ freeB2 ckptMod1 = 0 := by unfold freeB2 b2Total; split <;> decide +kernel
  have h3 : freeB2 ckptFull = 0 := by unfold freeB2 b2Total; split <;> decide +kernel
  have e1 : allocModule ckptMod 2 none = some (1, ckptMod1) := by
    simp only [allocModule, pickLoc]; rw [if_neg h1]; rfl
  have e2 : ∃ q, allocModule ckptMod1 2 none = some q := by
    simp only [allocModule, pickLoc]; rw [if_neg h2]; exact ⟨_, rfl⟩
  have e3 : allocModule ckptFull 2 none = none := by
    simp only [allocModule, pickLoc]; rw [if_pos h3]
  obtain ⟨q, hq⟩ := e2
  rw [h]
  exact ⟨⟨_, by simp [allocPages, e1, hq]; rfl⟩, by simp [allocPages, e3]⟩

/-- A search with one walk over segment 1: waiting for a context, running, at its budget. -/
def walk0 (st visits : Nat) : Walk := ⟨1, 0, 0, st, 16, 64, 16, 8, [], 0, 1024, [⟨0#32, 0, false⟩], [], visits, [⟨0#32, 0, false⟩], false, [], 0, 0, false⟩
def searchW (ws : List Walk) : SearchW :=
  { query := vec8, filter := [], hasFil := false, flat := false, widen := false, bound := none, k := 1, rr := 0, beam := 16, budget := 64, pf := 0, rdie := 0, rinst := 0
    walks := ws, flats := [], scan := 2, scanned := [], slist := [], arrived := 0, inbox := [], held := [], late := [], cand := [], stage := 0, anyFull := false, nan := 0
    widened := false, dlStop := false, waitFor := [], ends := [], enable := 0, signed := 0 }
def searchC (w : SearchW) : Cmd := { runCmd 0x01 with search := some w }
def walkMod (w : Walk) : Mod := runWith (searchC (searchW [w]))
def walkX (w : Walk) : WalkCtx := ⟨searchC (searchW [w]), coll2, seg0, searchW [w], w⟩
theorem witness_WalksTakeTheirSteps :
    (∀ w, w ∈ [walk0 0 0, walk0 1 0, walk0 1 64] → walkCtx (walkMod w) 7 1 = some (walkX w)) ∧
    (let w := walk0 0 0
     inService (walkMod w) (walkerUnit w.die w.inst) = true ∧ mayStart (walkMod w) (walkX w) w = true) ∧
    (let w : Walk := { walk0 0 0 with beam := 65537 }
     mayStart (walkMod w) (walkX w) w = false) ∧
    (let w := walk0 1 63
     let m := walkMod w
     w.st = 1 ∧ w.stop = 0 ∧ seg0.degraded = false ∧ stopped m (searchC (searchW [w])) = false ∧ unitsStall m = false ∧
      w.queue.find? (fun y => !y.done) = some ⟨0#32, 0, false⟩ ∧ w.visits ≤ w.budget ∧ w.visits ≠ w.budget ∧ ∃ q ∈ w.queue, q.done = false) ∧
    (walk0 1 64).visits = (walk0 1 64).budget ∧
    ∀ b, stopped (walkMod { walk0 1 63 with again := b }) { searchC (searchW [{ walk0 1 63 with again := b }]) with stop := some 1000000 } = true := by
  refine ⟨fun w hw => ?_, by decide +kernel⟩
  have h := (by decide +kernel : ∀ w ∈ [walk0 0 0, walk0 1 0, walk0 1 64], cmdOf (walkMod w) 7 = some (searchC (searchW [w])) ∧
    shardOf (walkMod w) (collId (searchC (searchW [w])).entry) = some coll2 ∧ genOf coll2 (searchC (searchW [w])).gen = some gen1 ∧
    segOf gen1 1 = some seg0 ∧ (searchW [w]).walks.find? (fun w => w.seg = 1) = some w) w hw
  obtain ⟨h1, h2, h3, h4, h5⟩ := h
  simp only [walkCtx, h1, h2, h3, h4, h5, show (searchC (searchW [w])).search = some (searchW [w]) from rfl, bind, pure, Option.bind_some]
  rfl

theorem witness_RiddleListsStayOrderedDistinctAndTrimmed :
    let held : List REnt := [mkEnt 1#64 0x3F800000#32 0#8 1#32 (.stock 1#32), mkEnt 2#64 0x40000000#32 0#8 1#32 (.stock 2#32)]
    held.Pairwise (fun a b => entLt b a = false) ∧ (held.map (·.key)).Nodup := by decide +kernel

/-- Searches: one whose stockpile scan runs, one with a flat scan of segment 1, one with a list to merge and a candidate, one at its emission. -/
def ent0 : REnt := mkEnt 5#64 0x3F800000#32 0x05#8 1#32 (.ord 257 0)
def scanW : SearchW := { searchW [] with scan := 1 }
def flatW : SearchW := { searchW [] with flat := true, flats := [1] }
def candW : SearchW := { searchW [] with stage := 1, inbox := [⟨[ent0], false, 0⟩], cand := [(0, ent0)] }
def seg0At : Nat := segId seg0
/-- The page of segment 1's vectors lies in flash. -/
def rrMod : Mod := { runWith (searchC candW) with mem := { mem0 with map := [⟨1, 2, 0, false, false, false, 0⟩] } }
theorem witness_ScansAndRerankFeedTheRiddle :
    (let m := runWith (searchC scanW)
     shardOf m 2 = some coll2 ∧ drillFree m 0 1 = false ∧ drillFree m 0 0 = true ∧
      (let first := batchOf m 2 1 fun w => w.scan = 1
       let l := ((first.head?.bind (cmdOf m)).bind (·.search)).map fun w => w.k + 16
       batchOf m 2 (passSize coll2.d (l.getD 0)) (fun w => w.scan = 1) = [7]) ∧ cmdOf m 7 = some (searchC scanW) ∧
      genOf coll2 (searchC scanW).gen = some gen1) ∧
    (let m := runWith (searchC flatW)
     shardOf m 2 = some coll2 ∧ flatBatch m 2 1 = [7] ∧ cmdOf m 7 = some (searchC flatW) ∧ segOf gen1 1 = some seg0 ∧ seg0.degraded = false ∧
      stopped m (searchC flatW) = false ∧ unitsStall m = false ∧ homing m seg0 = false) ∧
    (∀ k ∈ [1, 2], ({ candW with inbox := [⟨[ent0], false, k⟩], rr := 1 } : SearchW).inbox = [⟨[ent0], false, k⟩]) ∧
    (let m := runWith (searchC candW)
     shardOf m 2 = some coll2 ∧ cmdOf m 7 = some (searchC candW) ∧ candW.inbox = [⟨[ent0], false, 0⟩] ∧ collId (searchC candW).entry = 2 ∧
      candW.cand.find? (fun y => y.1 = 0) = some (0, ent0) ∧ ent0.src = .ord seg0At 0 ∧
      (genOf coll2 (searchC candW).gen).bind (segById · seg0At) = some seg0 ∧ unitsStall m = false ∧
      flashUnits rrMod (vecAddr coll2 seg0 0) (vecStride coll2) ≠ [] ∧ cmdOf rrMod 7 = some (searchC candW)) := by decide +kernel

def emitW (e : REnt) : SearchW := { searchW [] with stage := 3, held := [e] }
def stopC (w : SearchW) : Cmd := { searchC w with stop := some 1000000 }
def againW (st : Nat) : SearchW := searchW [{ walk0 st 0 with again := true }]
theorem witness_EmissionChecksAndStopTicksFinalise :
    (let w := emitW ent0
     let m := runWith (searchC w)
     cmdOf m 7 = some (searchC w) ∧ w.stage = 3 ∧ m.saf.engines = none ∧ m.saf.closed = false ∧
      (∀ e ∈ w.held, e.crc = entCrc e.key e.score e.flags e.gen e.src) ∧ (searchC w).origin = none ∧ isHomeSearch (searchC w) = false ∧
      stopped m (searchC w) = false ∧ outReady m (fld (searchC w).entry 24 8) (16 * w.k) = true) ∧
    (let w := emitW ent0
     let c : Cmd := { searchC w with entry := mkEntry 0x01 [(2, 2), (8, 1), (16, 0x1000), (24, 2 ^ 63 + 0x1000), (32, 1)] }
     let m : Mod := { runWith c with velom := { velom0 with leases := [⟨0x40, 1⟩] } }
     outReady m (fld c.entry 24 8) (16 * w.k) = false ∧ cmdOf m 7 = some c ∧ m.saf.closed = false) ∧
    (let c := stopC (emitW ent0)
     stopped (runWith c) c = true ∧ (emitW ent0).stage = 3) ∧
    (let w := emitW { ent0 with crc := ent0.crc + 1#32 }
     ∃ e ∈ w.held, e.crc ≠ entCrc e.key e.score e.flags e.gen e.src) ∧
    { base with saf := { saf0 with closed := true } }.saf.closed = true ∧
    (∀ st ∈ [1, 2], let m := runWith (stopC (againW st))
      cmdOf m 7 = some (stopC (againW st)) ∧ stopped m (stopC (againW st)) = true ∧ (againW st).stage ≠ 3 ∧ (againW st).waitFor = []) ∧
    (∃ y ∈ (againW 1).walks, y.again = true ∧ y.st ≠ 2) ∧ (∀ y ∈ (againW 2).walks, y.again = true → y.st = 2) ∧
    (∀ op ∈ [0x03, 0x30, 0x13, 0x40, 0x41], let c : Cmd := { runCmd op with stop := some 1000000 }
      cmdOf (runWith c) 7 = some c ∧ c.admitted = true ∧ stopped (runWith c) c = true ∧ opcodeOf c.entry = op) := by decide +kernel

/-- A document that waits, too large for the cache or without room in it; and slot 3 before its first chunk, in it, and past the last. -/
def waitC : Cmd := { runCmd 0x13 with embed := some ⟨[0], [], [], [], [], 0, 0#128⟩ }
def slot3 (chunk : Nat) : Slot := ⟨3, 7, 0, 1, 1, 16, chunk, [9], [], [], [], 0⟩
def slotMod (chunk : Nat) : Mod := { runWith { runCmd 0x13 with embed := some ⟨[], [0], [], [], [], 0, 0#128⟩ } with slots := [slot3 chunk] }
def slotB (ps : List AttnPart) : Slot := ⟨3, 7, 0, 1, 1, 32, 2, [9], ps, [], [], 0⟩
def partB : AttnPart := ⟨⟨0, 0, 0⟩, some (0, 0), 0#32, oneW, []⟩
def attnMod : Mod := { slotMod 0 with slots := [slotB []], mem := { mem0 with map := [⟨9, 1, 0, false, false, false, 0⟩] } }
theorem witness_DocumentsPassThroughSlots :
    (let m := runWith waitC
     let n := docTokens waitC 0
     cmdOf m 7 = some waitC ∧ waitC.embed = some ⟨[0], [], [], [], [], 0, 0#128⟩ ∧ pkgOf m waitC (embedPkg waitC.entry) = some pkgVer1 ∧ 0 ∈ [0] ∧
      firstDoc m waitC 0 = true ∧ n ≤ 2097152 ∧ m.slots.length < 8) ∧
    (let m := setRegN (runWith waitC) ctlP 0x144 0
     kvTooBig m pkgOne (docTokens waitC 0) = true) ∧
    (let c : Cmd := { waitC with entry := mkEntry 0x13 [(8, 1), (16, 0x1000), (24, 0x2000), (32, 1), (34, 1), (36, 1)] }
     textDocs c.entry = true ∧ kvTooBig (setRegN (runWith c) ctlP 0x144 0) pkgOne (docTokens { c with pl := { c.pl with docs := [⟨0x4000, 9, [1#32], 12#64, 0, none⟩] } } 0) = true) ∧
    (let m := setRegN (runWith waitC) ctlP 0x144 1
     let k := kvPages pkgOne (docTokens waitC 0)
     kvTooBig m pkgOne (docTokens waitC 0) = false ∧ (kvUsed m + k) * pageSize ≤ kvLimit m ∧
      let n : Mod := { m with slots := [{ slot3 0 with pages := List.range 16384 }] }
      kvLimit n < (kvUsed n + k) * pageSize ∧ n.slots.length < 8) ∧
    (∀ k ∈ [0, 1], slotOf (slotMod k) 3 = some (slot3 k) ∧ slotPkg (slotMod k) (slot3 k) = some pkgVer1) ∧
    (chunksOf pkgVer1 (slot3 1).tokens ≤ (slot3 1).chunk ∧ (slot3 0).chunk < chunksOf pkgVer1 (slot3 0).tokens) ∧
    (cmdOf (slotMod 0) 7).isSome = true ∧ (slot3 0).parts = [] ∧ (slot3 0).skews = 0 ∧ ({ slot3 0 with skews := 1 } : Slot).skews ≠ 0 ∧
    -- the cached tokens of slot 3's second chunk lie in the slice of drill 0 of stack 0
    (let q : QRow := ⟨0, 0, 0⟩
     let mine (d : Nat × Nat) := (cachedTokens pkgVer1 (slotB [])).filter fun k => tokenBy attnMod pkgVer1 (slotB []) k = some d
     slotOf attnMod 3 = some (slotB []) ∧ slotPkg attnMod (slotB []) = some pkgVer1 ∧ rowOk pkgVer1 (slotB []) q = true ∧ unitsStall attnMod = false ∧
      mine (0, 0) ≠ [] ∧ mine (0, 1) = [] ∧ drillServes attnMod (0, 0) = true ∧ (slotB []).parts = [] ∧ (slotB []).state = [] ∧
      (cmdOf attnMod 7).isSome = true ∧ none ∉ (stateOf (slotB []) q).taken ∧ (slotB [partB]).parts.find? (fun z => z.q = q) = some partB ∧
      rowOk pkgVer1 (slotB [partB]) q = true) ∧
    -- a vector of no elements is valid, the mean of no tokens is not
    (chunksOf pkgVer1 0 ≤ 0 ∧ vecBad true 0 0 (pooled pkgVer1 0 0) = true) ∧
    (let p : PkgVer := { pkgVer1 with pkg := { pkgOne with enc := { pkgOne.enc with outDim := 0 } } }
     chunksOf p 0 ≤ 0 ∧ vecBad true 0 0 (pooled p 0 0) = false) ∧ ((cmdOf (slotMod 1) 7).bind (·.embed)).isSome = true ∧
    (cmdOf (slotMod 1) 7).map (fun c => opcodeOf c.entry) = some 0x13 := by decide +kernel

def groupA (prog : Bool) : Group := ⟨0, 5, 1, 0, 900000, 64, 3, true, prog⟩
def insRec (prog : Option Nat) : LRec := ⟨5, 900000, 2, 64, 0, some 3, 0x10, some 7, .insert [] [] [], 64, some 0, prog, false, false⟩
def insC : Cmd := { runCmd 0x10 with lsn := some 5 }
def ledMod : Mod := { runWith insC with ledger := { ledger0 with next := 6, records := [insRec none], groups := [groupA false], nextG := 1, openG := some ⟨1, 6, 0, 0, 900000, 0, 4, false, false⟩, last := 5 } }
theorem witness_LedgerGroupsCarryRecordsToFlash :
    (0 < 32 ∧ 0 ∉ badChannels ledMod ∧ (0 + 16) % 32 ∉ badChannels ledMod) ∧ unprogBytes ledMod.ledger ≤ ringMax ∧
    base.ledger.openG = none ∧ ledMod.ledger.openG = some ⟨1, 6, 0, 0, 900000, 0, 4, false, false⟩ ∧
    (ledMod.ledger.groups.any fun x => x.no = 0 && x.sent && !x.prog) = true ∧
    (insRec none ∈ ledMod.ledger.records ∧ (insRec none).prog = none ∧ (insRec none).group = some 0 ∧
      0 < progPrefix { ledMod.ledger with groups := [groupA true] } ∧ cmdOf ledMod 7 = some insC ∧ insC.lsn = some 5 ∧ insC.merge = none) ∧
    (resetting ledMod = false ∧ (imageOf ledMod.ledger 2).lsn < ledMod.ledger.last ∧ (shardOf ledMod 2).isSome = true) ∧ bulkMay { ledMod with adm := { adm0 with coef := List.replicate 16 0 } } 0#512 = true ∧
    bulkMay { ledMod with adm := { adm0 with coef := List.replicate 16 0 }, pwr := { pwr0 with credit := -1 } } 0#512 = false ∧
    base.ledger.last ≤ (imageOf base.ledger 2).lsn := by decide +kernel
theorem witness_LedgerGroupsCarryRecordsToFlash_order : ledgerOrdered ledMod.ledger := by simp [ledgerOrdered, ledMod, insRec]

/-- The document's cache takes one page, which some frame takes. -/
theorem witness_DocumentsPassThroughSlots_pages : kvPages pkgOne (docTokens waitC 0) = 1 ∧ ∃ r, reservePages 1 0 (runWith waitC) = some r := by
  refine ⟨by decide +kernel, ?_⟩
  have h : ∃ p, stackPage (runWith waitC) 0 = some p := by
    have h1 : (runWith waitC).mem.map.length + (runWith waitC).mem.moves.length * 2 + (stackOf (runWith waitC) 0).retired.length + 1 = 1 := by
      decide +kernel
    unfold stackPage
    simp only [h1]
    simp [upto, List.range, List.range.loop, frameOk_empty (runWith waitC) (by decide +kernel) 0 _ (by decide)]
  obtain ⟨p, hp⟩ := h
  exact ⟨([p.1], p.2), by simp [reservePages, hp]⟩

/-- Page 2 ^ 20 on its way from bench 1 to bench 0: near the end of its copy, and copied whole. -/
def move0 (copied : Nat) (dest : List (Nat × List Byte)) (ended : Option Nat) (done table : Bool) : Move :=
  ⟨2 ^ 20, 5, 0, 3, copied, dest, [], ended, done, table, none, 1, 5, 900000⟩
def zeroPage : List (Nat × List Byte) := (List.range 2048).map fun i => (i, List.replicate 32 0#8)
def copyMove : Move := move0 2040 [] none false false
def wholeMove (table : Bool) : Move := move0 2048 zeroPage (some 900000) false table
def doneMove : Move := move0 2048 zeroPage (some 900000) true false
def moveMod (v : Move) : Mod := { base with mem := { mem0 with map := [page1], moves := [v] } }
def coldMod : Mod := setRegN { base with mem := { mem0 with map := [page1] } } hauP 0x40 (1 + 255 * 2 ^ 16)
theorem witness_PageMovesKeepEveryByte :
    (let m := moveMod copyMove
     moveOf m (2 ^ 20) = some copyMove ∧ copyMove.ended = none ∧ yields m copyMove = false ∧ 0 < min copyRun (2048 - copyMove.copied) ∧
      leaseHeld m (2 ^ 20 * pageSize + 2040 * 32) (min copyRun 8 * 32) = false ∧
      (∀ i, i < 8 → eccAt m (2 ^ 20 * pageSize + (2040 + i) * 32) .ok = .ok) ∧ copyMove.reason ≠ 1 ∧ maySwitch m copyMove page1 = false) ∧
    (let other : Move := { copyMove with page := 2 ^ 20 + 1, reason := 1 }
     let m : Mod := { base with mem := { mem0 with map := [page1], moves := [copyMove, other] } }
     moveOf m (2 ^ 20) = some copyMove ∧ yields m copyMove = true) ∧
    (∀ b, let m := moveMod (wholeMove b)
      moveOf m (2 ^ 20) = some (wholeMove b) ∧ pageEnt m (2 ^ 20) = some page1 ∧ cleanMove m (wholeMove b) page1 = false ∧
      maySwitch m (wholeMove b) page1 = true ∧ (wholeMove b).bench < 2 ∧ (wholeMove b).table = b) ∧
    (let m := moveMod doneMove
     m.mem.moves.find? (fun x => x.page = 2 ^ 20 && x.done) = some doneMove ∧ doneMove.table = false ∧ inHostWin (2 ^ 20 * pageSize) = false ∧
      (∀ c ∈ m.cmds, c.admitted = true → doneMove.switch ≤ c.admTick) ∧ locFrame doneMove.srcL ∉ (stackOf m (locStack doneMove.srcL)).retiring ∧
      let n : Mod := { m with cmds := [{ runCmd 0x03 with admTick := 899999 }] }
      ∃ c ∈ n.cmds, c.admitted = true ∧ c.admTick < doneMove.switch) ∧
    (bitAt (regN (setRegN base hauP 0x40 0) hauP 0x40) 0 = false ∧ bitAt (regN coldMod hauP 0x40) 0 = true ∧
      freeB1 coldMod * 100 < bits (regN coldMod hauP 0x40) 16 8 * total ((List.range 8).map (stackFrames coldMod)) ∧ coldest coldMod = some page1 ∧
      moveRoom coldMod page1 = true) := by decide +kernel
theorem witness_PageMovesKeepEveryByte_sound (b : Bool) : moveSound (moveMod (wholeMove b)) (wholeMove b) := by
  have hr : ∀ i, readGran (moveMod (wholeMove b)) (2 ^ 20 * pageSize + i * 32) = List.replicate 32 0#8 := by
    intro i
    have : ∀ a, readByte (moveMod (wholeMove b)) a = 0#8 := by
      intro a
      unfold readByte
      split
      · rfl
      · rename_i e he
        have hb : e.bench = 1 := by
          have := List.mem_of_find?_eq_some (by simpa [pageEnt] using he)
          simp [moveMod, page1] at this
          rw [this]
        simp [hb, moveMod, mem0, cellGet, mapGet, cellDflt]
    simp [readGran, readBytes, this, upto]
  refine ⟨by simp [wholeMove, move0, zeroPage], fun i hi => ?_⟩
  have hf : (zeroPage.filter fun g => g.1 = i) = [(i, List.replicate 32 0#8)] := by
    unfold zeroPage
    rw [List.filter_map]
    have : (List.range 2048).filter ((fun g : Nat × List Byte => decide (g.1 = i)) ∘ fun i => (i, List.replicate 32 0#8)) = [i] := by
      have e : ((fun g : Nat × List Byte => decide (g.1 = i)) ∘ fun i => (i, List.replicate 32 (0#8 : Byte))) = (· == i) := by
        funext x
        exact (beq_eq_decide x i).symm
      rw [e, List.filter_beq, List.count_eq_one_of_mem List.nodup_range (List.mem_range.mpr hi)]
      rfl
    rw [this]
    rfl
  have hd : (wholeMove b).dest ++ (wholeMove b).log = zeroPage := by simp [wholeMove, move0]
  have hp : (wholeMove b).page = 2 ^ 20 := rfl
  rw [hd, hp, hf, hr]
  rfl
theorem witness_PageMovesKeepEveryByte_room : ∃ l, pickLoc coldMod 2 none = some l := by
  have h : freeB2 coldMod ≠ 0 := by
    unfold freeB2 b2Total
    split <;> decide +kernel
  exact ⟨0, by unfold pickLoc; simp only [h, if_false]; decide +kernel⟩

/-- Stack 2 with a failed row, with the row's bank out of spares, with a frame to retire that is empty, pinned, or may move. -/
def failRow : RowRec := ⟨0, 0, 0, none, 3, [], true, 900000⟩
def hbmWith (k : Stack) : List Stack := [stack0, stack0, k, stack0, stack0, stack0, stack0, stack0]
def stackMod (k : Stack) (es : List PageEnt) : Mod := { base with hbm := hbmWith k, mem := { mem0 with map := es } }
def bankFull : Stack := { stack0 with rows := [failRow], dead := (List.range 8).map fun i => (0, 0, i) }
def retiring5 : Stack := { stack0 with retiring := [5] }
def frame5 (pin : Bool) : PageEnt := ⟨2 ^ 20, 1, 2 * 2 ^ 21 + 5, pin, false, false, 0⟩
theorem witness_FailingRowsAndFramesAreReplaced :
    (let m := stackMod { stack0 with rows := [failRow] } []
     2 < m.hbm.length ∧ (rowRec (stackOf m 2) 0 0 0).failed = true ∧ earlierRow m 2 (rowRec (stackOf m 2) 0 0 0) = false ∧ (rowRec (stackOf m 2) 0 0 0).spare = none ∧ freeSpare (stackOf m 2) 0 0 = some 0 ∧
      (rowRec (stackOf m 2) 31 47 50847).failed = false ∧ m.ledger.records = []) ∧
    freeSpare (stackOf (stackMod bankFull []) 2) 0 0 = none ∧
    (let m := stackMod { stack0 with rows := [failRow, { failRow with row := 1 }] } []
     earlierRow m 2 (rowRec (stackOf m 2) 0 0 1) = true) ∧
    (let m := stackMod retiring5 []
     5 ∈ (stackOf m 2).retiring ∧ 6 ∉ (stackOf m 2).retiring ∧ m.mem.map.find? (fun e => e.bench = 1 && e.loc = 2 * 2 ^ 21 + 5) = none) ∧
    (∀ b, let m := stackMod retiring5 [frame5 b]
      m.mem.map.find? (fun e => e.bench = 1 && e.loc = 2 * 2 ^ 21 + 5) = some (frame5 b) ∧ (frame5 b).ring = false ∧
      inRunRegion m (2 ^ 20) = false ∧ moveOf m (2 ^ 20) = none ∧ (frame5 b).pin = b ∧ (otherGroup m 2 5).isSome = true ∧
      moveRoom m (frame5 b) = true) ∧
    (bitAt (regN base (hbmP 2) 0x40) 0 = true ∧ bitAt (regN (setRegN base (hbmP 2) 0x40 0) (hbmP 2) 0x40) 0 = false ∧
      1220351 < framesPerStack ∧ 2047 < 2048 ∧ ∀ x ∈ base.mem.map, ¬ (x.bench = 1 ∧ x.loc = 2 * 2 ^ 21 + 1220351)) := by decide +kernel

/-- A write-buffer entry of a page in flash; a page of the host window, in a chute's ring or free; a request of the atomic-add service; and a
K-split descriptor at page 2 ^ 20 for two contributors, its target in bench 1. -/
def wbA : WbEnt := ⟨16, [(0, List.replicate 32 7#8)], 4⟩
def hostPage (ring : Bool) : PageEnt := ⟨pageNo hostBase + 3, 1, 9, false, ring, false, 0⟩
def svcA (owned : Nat) : SvcEnt := ⟨0, 2 ^ 36 + owned, 0, [0x3F800000#32], none⟩
/-- The descriptor's address, in bench 0. -/
def ksD : Nat := 2 ^ 36 + 65536
def ksMod (bit : Nat) : Mod :=
  { base with mem := { mem0 with map := [page1, ⟨2 ^ 20 + 1, 0, 0, false, false, false, 0⟩]
                                 cells := [(ksD + 4, 0x10#8), (ksD + 8, 2#8)] ++ (if bit = 0 then [] else [(ksD + 16, BitVec.ofNat 8 bit)]) } }
theorem witness_FlashBuffersAndAddsTakeEffect :
    (let m : Mod := { base with mem := { mem0 with wb := [wbA], wbSeq := 5 } }
     m.mem.wb.find? (fun x => x.unit = 16) = some wbA) ∧
    (31 < 32 ∧ base.mem.channels.length = 32 ∧ (chanOf base 31).st < 2 ∧ (chanOf base 0).st ≠ 3) ∧
    (let x : ImgPage := ⟨2 ^ 20, 3, List.replicate 16 ⟨0, 0#32768, 0⟩⟩
     let m : Mod := { base with mem := { mem0 with map := [page1], groups := [⟨[x], x, [2 ^ 20]⟩], ue := [2 ^ 36 + 32] } }
     pageEnt m (2 ^ 20) = some page1 ∧ page1.bench = 1 ∧ imgOf m (2 ^ 20) = some x ∧ x.units.length = 16 ∧ (∀ p ∈ m.pkgs, 2 ^ 20 ∉ p.pages) ∧
      (∀ a ∈ m.mem.ue, a % 32 = 0)) ∧
    ([1, 2].Nodup ∧ 2 ∈ [1, 2] ∧ (∀ p ∈ [1, 2], p < ({ mem0 with nextPage := 3 } : Mem).nextPage) ∧ 15 < 16) ∧
    (∀ b, let m : Mod := { base with mem := { mem0 with map := [hostPage b] } }
      pageEnt m (pageNo hostBase + (3#28).toNat) = some (hostPage b) ∧ (hostPage b).ring = b ∧ namedByCmd m (pageNo hostBase + 3) = false ∧
      inRunRegion m (pageNo hostBase + 3) = false) ∧
    (let m : Mod := { base with svc := [svcA 0] }
     (∀ x ∈ m.svc, x.stack = 1 → (ownerOf m x.addr).isSome = true) ∧
      m.svc.find? (fun y => y.stack = 0 && (ownerOf m y.addr).isNone) = some (svcA 0) ∧ eccAt m (svcA 0).addr .ok = .ok ∧ (svcA 0).cmd = none ∧ unitsStall m = false) ∧
    (let m := ksMod 0
     ksBad m ksD = false ∧ 1 < ksCount m ksD ∧ bitAt (ksBitmap m ksD) 1 = false ∧ bitAt (ksBitmap (ksMod 2) ksD) 1 = true) := by
  decide +kernel
theorem witness_FlashBuffersAndAddsTakeEffect_sound : wbSound [wbA] := by
  unfold wbSound
  decide +kernel
/-- The 512 adds of a tile at page 2 ^ 20 are of stack 0, and the queues have room for them. -/
theorem witness_FlashBuffersAndAddsTakeEffect_room (tile : List Word) (cmd : Option Nat) :
    (∀ a ∈ tileAdds (ksMod 0) (ksTarget (ksMod 0) ksD) tile cmd, a.stack < 8) ∧
    ksRoom (ksMod 0) (tileAdds (ksMod 0) (ksTarget (ksMod 0) ksD) tile cmd) = true := by
  have ht : ksTarget (ksMod 0) ksD = 2 ^ 36 := by decide +kernel
  have hp : ∀ i, i < 512 → pageEnt (ksMod 0) (pageNo (2 ^ 36 + 32 * i)) = some page1 := by
    intro i hi
    have : pageNo (2 ^ 36 + 32 * i) = 2 ^ 20 := by simp only [pageNo, pageSize]; omega
    rw [this]
    decide
  have hall : ∀ a ∈ tileAdds (ksMod 0) (2 ^ 36) tile cmd, a.stack = 0 ∧ a.delta.length ≤ 8 := by
    intro a ha
    simp only [tileAdds, rowAdds, upto, List.mem_map, List.mem_range, List.length_map, List.length_range] at ha
    obtain ⟨i, hi, rfl⟩ := ha
    have hi' : i < 512 := by simpa [ceilDiv, fmtBits] using hi
    simp only [hp i hi']
    refine ⟨by decide, ?_⟩
    simp [fmtBits]
  have hlen : (tileAdds (ksMod 0) (2 ^ 36) tile cmd).length = 512 := by simp [tileAdds, rowAdds, upto, ceilDiv, fmtBits]
  have htot : ∀ (l : List SvcEnt) (k : Nat), (∀ x ∈ l, x.delta.length ≤ 8) →
      (l.map fun x => 4 * x.delta.length).foldl (· + ·) k ≤ k + 32 * l.length := by
    intro l
    induction l with
    | nil => intro k _; simp
    | cons x xs ih =>
      intro k h
      have h1 := ih (k + 4 * x.delta.length) fun y hy => h y (List.mem_cons_of_mem _ hy)
      have h2 := h x List.mem_cons_self
      simp only [List.map_cons, List.foldl_cons, List.length_cons]
      omega
  rw [ht]
  refine ⟨fun a ha => by rw [(hall a ha).1]; decide, ?_⟩
  simp only [ksRoom, upto, List.all_eq_true, List.mem_range, decide_eq_true_eq]
  intro s _
  have hs : svcBytes (ksMod 0) s = 0 := rfl
  have := htot ((tileAdds (ksMod 0) (2 ^ 36) tile cmd).filter fun x => x.stack = s) 0 fun x hx => (hall x (List.mem_of_mem_filter hx)).2
  have h3 := List.length_filter_le (fun x : SvcEnt => decide (x.stack = s)) (tileAdds (ksMod 0) (2 ^ 36) tile cmd)
  rw [hs]
  unfold total
  omega
/-- A full queue of stack 0 takes no tile. -/
def fullQ (n : Nat) : Mod := { ksMod 0 with svc := [⟨0, 2 ^ 36, 0, List.replicate n 0#32, none⟩] }
theorem fullQ_bytes (n : Nat) : svcBytes (fullQ n) 0 = 4 * n := by simp [svcBytes, fullQ, total]
theorem witness_FlashBuffersAndAddsTakeEffect_full (adds : List SvcEnt) : ksRoom (fullQ 262145) adds = false := by
  rw [ksRoom, List.all_eq_false]
  refine ⟨0, by decide, ?_⟩
  rw [fullQ_bytes]
  simp only [decide_eq_true_eq]
  omega

/-- The accounting counter of a RC register, a low half, WLK_CFG, an enabled event of the chute page, and a report. -/
def evtMod : Mod := setReg (setReg (setReg base chuP 0x14 0x40#32) chuP 0x18 0x40#32) chuP 0x1C 0x80000009#32
def repMod : Mod := { base with ledger := { ledger0 with report := some ⟨0x70000, [1#8]⟩ } }
theorem witness_RegistersFollowTheirAccessCodes :
    pageAt 0xFFFFFFF = none ∧
    (pageAt (pageBase chuP + 0x68) = some (chuP, 0x68) ∧ 0x68 ∉ [0x0C, 0x14, 0x18] ∧ (specialWrite base chuP 0x68 0x10408#32).isNone = true ∧
      (rowAt chuP 0x68).map (·.acc) = some .rwl ∧ fieldsOk chuP 0x68 0x10408 = true ∧ fieldsOk chuP 0x68 0 = false ∧ base.sec.locked = false ∧
      lockMask chuP 0x68 ≠ 0 ∧ ({ base with sec := { sec0 with locked := true } } : Mod).sec.locked = true) ∧
    (pageAt (pageBase chuP + 0xFFC) = some (chuP, 0xFFC) ∧ rowAt chuP 0xFFC = none ∧ (specialWrite base chuP 0xFFC 0#32).isNone = true) ∧
    ((rowAt chuP 0x50).map (·.acc) = some .rw ∧ fieldsOk chuP 0x50 0xFFFFF000 = true ∧ lockMask chuP 0x50 = 0) ∧
    ((rowAt chuP 0x70).map (·.acc) = some .rc ∧ pageAt (pageBase chuP + 0x70) = some (chuP, 0x70) ∧ base.regs.hi = []) ∧
    (let p : Page := ⟨4, .tck, 0⟩
     hiOf p 0x40 = some 0x44 ∧ pageAt (pageBase p + 0x44) = some (p, 0x44) ∧ (rowAt p 0x40).map (·.acc) = some .ro ∧ pageAt (pageBase p + 0x40) = some (p, 0x40) ∧
      (specialWrite base p 0x40 0#32).isNone = true) ∧
    (3 < 4 ∧ 15 < 16 ∧ 4 ≤ bits (0x400#32).toNat 8 8 ∧ bits (0x300#32).toNat 8 8 < 4) ∧
    (evOut evtMod chuP = true ∧ chuP ∉ evtMod.regs.level ∧ bitAt (regN evtMod chuP 0x1C) 31 = true ∧
      bits (regN evtMod chuP 0x1C) 0 12 ∉ evtMod.regs.sent) ∧
    (let m : Mod := { evtMod with regs := { evtMod.regs with level := [chuP] } }
     evOut m chuP = true ∧ chuP ∈ m.regs.level) ∧
    (base.sys.rails = true ∧ base.sys.want = none ∧ base.ledger.report = none ∧ repMod.ledger.report = some ⟨0x70000, [1#8]⟩) := by decide +kernel

/-- Riddle 0 of die 0 in service, in restart, in its self-test, in its ramp, and out of service. -/
def riddle0 : Page := ⟨0, .rdl, 0⟩
def unitMod (st win since : Nat) : Mod := { base with units := [⟨.page riddle0, st, [], win, false, since, 0, 0⟩] }
theorem witness_UnitsLeaveAndReturnToService :
    (pageOk riddle0 = true ∧ riddle0.blk ≠ .drl ∧ oosPage riddle0 = true ∧ riddle0.blk ≠ .fab ∧ oosPage chuP = false ∧
      mayRestart base (.page riddle0) = true ∧ mayRestart (unitMod 5 0 0) (.page riddle0) = false ∧
      (((unitRec base (.page riddle0)).restarts.filter fun t => now base < t + 1000000) ++ [now base]).length < restartLimit base ∧
      unitIdle base (.page riddle0) = true ∧ 2 ≤ codeClass 0x0C ∧ codeClass 0x01 ≤ 1 ∧ (0x0C#5 ≠ 0#5 ∧ 0x0C#5 ≠ 0x1F#5 ∧ 0x0C#5 ≠ 0x0A#5 ∧ 0x0C#5 ≠ 0x0B#5 ∧ 0x0C#5 ≠ 2#5)) ∧
    (unitState base (.pair 3) = 1 ∧ (([] : List Nat) ++ [now base]).length < restartLimit base ∧ unitState base (.page riddle0) ≠ 2 ∧
      unitState base (.page riddle0) ≠ 3) ∧
    (unitState (unitMod 2 0 0) (.page riddle0) = 2 ∧ unitState (unitMod 3 0 0) (.page riddle0) = 3 ∧ unitState (unitMod 4 9 0) (.page riddle0) = 4 ∧
      unitState (unitMod 5 0 0) (.page riddle0) = 5) ∧
    ((unitRec (unitMod 4 9 0) (.page riddle0)).since + 100 * (unitRec (unitMod 4 9 0) (.page riddle0)).win ≤ now base ∧
      now base < (unitRec (unitMod 4 10 999001) (.page riddle0)).since + 100 * (unitRec (unitMod 4 10 999001) (.page riddle0)).win) := by decide +kernel

/-- Drills of stack 0: ready, in a run about to start, running, past its limit, and ended. Drill 8 is the host's with 4 reserved. -/
def drillIn (ready : Bool) (st started : Nat) (ended : Bool) : Drill := { drill0 0 0 with ready := ready, st := st, started := started, ended := ended }
def drillMod (d : Drill) : Mod := { base with drills := [d], pkgs := [pkgVer1] }
def hostDrill : Drill := { drill0 0 8 with ready := false }
def loadReady : Drill := setArea (drill0 0 8) 0x10 1
def hostMod (d : Drill) : Mod := setReg (drillMod d) (drlP 0) 0xA8 4#32
theorem witness_DrillRunsAreReservedStartedAndEnded :
    ({ base with sec := { sec0 with locked := true } }.sec.locked = true ∧ base.sec.locked = false ∧ bits (4#32).toNat 0 3 ≤ 4 ∧ 4 < bits (5#32).toNat 0 3 ∧
      ∀ d ∈ base.drills, d.stack = 0 → d.ready = true) ∧
    (let m := hostMod hostDrill
     hostDrill ∈ m.drills ∧ hostDrill.stack = 0 ∧ hostDrill.ready = false ∧ hostReserved m 0 hostDrill.n = true ∧
      hostDrill.n % 12 < 12 - bits (3#32).toNat 0 3) ∧
    (let m := setReg (hostMod loadReady) (drlP 0) 0x100 8#32
     ((drillOf m 0 (mbxSel m 0 0)).map fun d => areaN d 0x10 % 65536) = some 1 ∧ pkgCur m 1 = some pkgVer1 ∧ pkgCur base 1 = none ∧
      (drillProgram pkgVer1 (bits (8#32).toNat 16 12)).isSome = true ∧ (drillProgram pkgVer1 (bits (0x10008#32).toNat 16 12)).isSome = false ∧
      bitAt (8#32).toNat 31 = false ∧ drillOf m 0 (bits (8#32).toNat 0 9) = some loadReady ∧ loadReady.ready = true ∧ hostReserved m 0 loadReady.n = true) ∧
    (let d := setArea (drill0 0 0) 0 0x1000
     let m := drillMod d
     drillOf m 0 0 = some d ∧ d.ready = true ∧ (1#16).toNat = (d.seq + 1) % 65536 ∧ regionOk m d false = true ∧ entryOk d = true ∧ drillOos m 0 0 = false ∧
      d.cmd = none) ∧
    (let d := drillIn false 2 999000 false
     drillOf (drillMod d) 0 0 = some d ∧ d.ready = false ∧ d.st = 2 ∧ unitState (drillMod d) (.drill 0 0) ≠ 2 ∧ regionClear (drillMod d) d = true) ∧
    (let d := drillIn false 4 999000 true
     drillOf (drillMod d) 0 0 = some d ∧ d.ended = true ∧ d.cmd = none ∧ d.held = [] ∧ base.velom.demands = [] ∧ base.mem.stalled = [] ∧ base.mem.freeing = []) ∧
    (let d : Drill := { drillIn false 3 999000 false with cfg := 0x80003 }
     d.started + 2 ^ bits d.cfg 16 5 < now (drillMod d) ∧ d.ended = false ∧ d.st = 3 ∧ now base ≤ (drill0 0 0).started + 2 ^ bits (drill0 0 0).cfg 16 5) ∧
    (let m : Mod := { base with sys := { sys0 with rst := 2, phase := 4 } }
     m.sys.rst = 2 ∧ m.sys.phase = 4 ∧ base.sys.rst ≠ 2) := by decide +kernel

def pendMod (kind d : Nat) : Mod := { base with sys := { sys0 with rst := 2, phase := 3, kind := kind }, sec := { sec0 with lc := 1, pending := some d } }
theorem witness_SecurityCommandsActWithinTheirRules :
    (let m : Mod := { base with sec := { sec0 with lc := 1, token := some (1, 2, [0#256, 0#256, 0#256, 0#256]) } }
     m.sys.rst = 0 ∧ m.sec.token.isSome = true) ∧ (base.sys.rst = 0 ∧ base.sec.token = none ∧ base.sec.pending = none) ∧
    (∀ d ∈ [2, 3, 4], (pendMod 3 d).sys.rst = 2 ∧ (pendMod 3 d).sys.phase = 3 ∧ (pendMod 3 d).sys.kind ≠ 2 ∧ (pendMod 3 d).sec.pending = some d ∧ (pendMod 3 d).ledger.stat ≠ 4 ∧
      (pendMod 2 d).sys.rst = 2 ∧ (pendMod 2 d).sys.kind = 2 ∧ (pendMod 2 d).sec.pending = some d) ∧
    (base.sec.lc ≠ 3 ∧ { base with sec := { sec0 with lc := 3 } }.sec.lc = 3 ∧ base.sys.rails = true ∧ 3 < 4) ∧
    (testAllowed base 0 0 false = false ∧ testAllowed base 3 0 false = true ∧ testAllowed base 4 0 false = true ∧ testAllowed base 1 11 false = true ∧
      testAllowed base 1 12 false = false) ∧
    (base.mgt.test = none ∧ { base with mgt := { mgt0 with test := some (3, 0) } }.mgt.test = some (3, 0) ∧ base.sys.want = none) := by decide +kernel

/-- A flit with header `h` and zero payload, its CRC right. -/
def flitBody (h : Nat) : List Byte := toBytes h 4 ++ List.replicate 480 0#8
def flitOf (h : Nat) : List Byte := flitBody h ++ (toBytes (crc32c (flitBody h)).toNat 4 ++ List.replicate 24 0#8)
theorem flitBody_length (h : Nat) : (flitBody h).length = 484 := by
  rw [flitBody, List.length_append, List.length_replicate]
  rfl
theorem flitOf_ok (h : Nat) : flitOk true (flitOf h) = true ∧ flitOk false (flitOf h) = false := by
  have h1 : (flitOf h).take 484 = flitBody h := by rw [flitOf, ← flitBody_length h, List.take_left]
  have h2 : ((flitOf h).drop 484).take 4 = toBytes (crc32c (flitBody h)).toNat 4 := by
    rw [flitOf, ← flitBody_length h, List.drop_left]
    rfl
  have h3 : (flitOf h).length = 512 := by
    rw [flitOf, List.length_append, List.length_append, flitBody_length, List.length_replicate]
    rfl
  have h4 := (crc32c (flitBody h)).isLt
  have h5 : ofBytes (toBytes (crc32c (flitBody h)).toNat 4) = (crc32c (flitBody h)).toNat := by
    simp only [toBytes, ofBytes, BitVec.toNat_ofNat]
    omega
  exact ⟨by simp [flitOk, h1, h2, h3, h5], by simp [flitOk]⟩
def linkIn (st : Nat) : LinkRec := { link0 with st := st, replay := [7, 8], fails := 2 }
def portIn (st : Nat) : Port := { port0 3 with link := { link0 with st := st }, queue := [], up := true }
def linkMod (st : Nat) : Mod := { base with velom := { velom0 with link := linkIn st }, fab := { fab0 with ports := [portIn st] } }
def frameA : Frame := mkFrame base 0x14 9 1 0 true [0#128]
def portMod (q : List (Frame × Nat)) (heard : Option Nat) : Mod :=
  { base with fab := { fab0 with ports := [{ portIn 3 with queue := q, heard := heard }] } }
theorem witness_LinksTrainCarryReplayAndRecover :
    (∀ st ∈ [0, 3, 4], linkOf (linkMod st) .velom = some (linkIn st) ∧ (linkIn st).st = st ∧ (linkOf (linkMod st) (.port 3)).isSome = true) ∧
    (bits (flitHdr (flitOf 0)) 30 2 ≠ 3 ∧ bits (flitHdr (flitOf 0)) 0 5 = 0 ∧ bitAt (flitHdr (flitOf 0)) 5 = false ∧
      bits (flitHdr (flitOf (3 * 2 ^ 30))) 30 2 = 3 ∧ bits (flitHdr (flitOf 31)) 0 5 ≠ 0) ∧
    ((9#12).toNat ∉ (linkIn 3).replay ∧ (8#12).toNat ∈ (linkIn 3).replay ∧ (linkIn 3).replay = [7] ++ (8#12).toNat :: [] ∧ (8#12).toNat ∉ [7] ∧
      (linkMod 3).velom.held = []) ∧
    (mayTrain (linkMod 0) .velom = true ∧ mayTrain (setRegN (linkMod 0) (portP 3) 0x40 1) (.port 3) = true ∧ 8 ≤ laneCount 0xFF ∧ 0xF % 16 = 15 ∧
      mayTrain { linkMod 0 with sys := { sys0 with rst := 1 } } .velom = false) ∧
    (widthOf (linkMod 2) .velom (linkIn 2) 0xFFFF = 16 ∧ widthOf (linkMod 2) .velom (linkIn 2) 0x7F = 0 ∧
      bitAt (linkMod 2).velom.ctl.toNat 0 = true ∧ widthOf (linkMod 2) (.port 3) (linkIn 2) 0xF = 4) ∧
    ((linkIn 4).since + 200 ≤ now (linkMod 4) ∧ 2 ≤ (linkIn 4).fails ∧ link0.fails < 2) ∧
    (let m : Mod := { base with velom := { velom0 with link := { link0 with st := 4, out := some 900000 } } }
     m.velom.link.out = some 900000 ∧ m.velom.link.st ≠ 3 ∧ 900000 + 100000 ≤ now m ∧ m.sys.want = none) ∧
    (let p : Port := { portIn 3 with heard := some 999997 }
     portOf (portMod [] (some 999997)) 3 = some p ∧ p.heard.getD p.link.since + 3 ≤ now base ∧ p.up = true ∧ p.queue = [] ∧
      ¬ (p.link.st ≠ 3 ∨ (some 999998).getD p.link.since + 3 ≤ now base)) ∧
    (let m := portMod [(frameA, 900000)] none
     portOf m 3 = some { portIn 3 with queue := [(frameA, 900000)], heard := none } ∧ 900000 + bits (fabCfg m) 24 8 ≤ now m ∧
      now m < 1000000 + bits (fabCfg m) 24 8) := by decide +kernel

def hostA : Nat := hostBase + 3 * pageSize
def hostMem (b : Mod) : Mod := { b with mem := { mem0 with map := [hostPage false] } }
def leaseMod (k : Nat) (rs : List RecallRec) (late : List Nat) : Mod :=
  hostMem { base with velom := { base.velom with leases := (if k = 0 then [] else [⟨hostA / 64, k⟩]), recalls := rs, late := late } }
def recall0 (keep since : Nat) (w : List Waiter) : RecallRec := ⟨hostA / 64, keep, since, w⟩
/-- Drill 108 of stack 0 runs over the page and holds 256 writes. -/
def stopMod : Mod :=
  { hostMem base with drills := [{ drill0 0 108 with ready := false, region := (hostA, 64), held := List.replicate 256 (hostA, []) }] }
theorem witness_HostAccessesReadWriteAndAnswer :
    (State.reset.mod.velom.link.st ≠ 3 ∧ base.velom.link.st = 3) ∧
    (devEnd ≤ devEnd ∧ (devEnd - 64) % 64 = 0 ∧ pageNo (devEnd - 64) = pageNo (devEnd - 64 + 64 - 1) ∧ pageNo (devEnd - 64) ≠ pageNo (devEnd - 64 + 128 - 1)) ∧
    (let m := hostMem base
     ¬ (devEnd ≤ hostA ∨ hostA % 64 ≠ 0 ∨ pageNo hostA ≠ pageNo (hostA + 256 - 1)) ∧ readWaits m hostA 256 = false ∧ pageNo hostA ∉ m.mem.retiredPg ∧
      allocated m hostA = true ∧ rangeLost m hostA 256 = false ∧ pageEnt base (pageNo hostA) = none) ∧
    readWaits (leaseMod 2 [recall0 0 5 []] []) hostA 64 = true ∧
    rangeLost { hostMem base with mem := { (hostMem base).mem with ue := [hostA] } } hostA 64 = true ∧
    (let m := hostMem base
     hostA < devEnd ∧ hostA % 64 = 0 ∧ inHostWin hostA = true ∧ inHostWin (hostBase - 64) = false ∧ inOwned m (hostA / 64) = false ∧
      recallOf m (hostA / 64) = none ∧ m.velom.leases.length < leaseMax) ∧
    recallOf (leaseMod 2 [recall0 0 5 []] []) (hostA / 64) = some (recall0 0 5 []) ∧
    ((List.replicate 4 (0#128)).length % 4 = 0 ∧ (List.replicate 17 (0#128)).length % 4 ≠ 0 ∧ (List.replicate 16 (0#128)).length ≤ 16) ∧
    (let m := hostMem base
     hostA + 64 ≤ devEnd ∧ (∀ k, k < 1 → recallOf m (hostA / 64 + k) = none) ∧ rangeLost m hostA 64 = false ∧ (allocStore m hostA 64).isSome = true ∧
      ∀ i, i < 64 → pageNo (hostA + i) ∉ m.mem.retiredPg ∧ allocated m (hostA + i) = true ∧ ownerOf m ((hostA + i) / 32 * 32) = none) ∧
    (let m := hostMem base
     let g := storeGrans hostA ((List.replicate 64 0#8).map some)
     (∀ k, hostA / 64 ≤ k → k < hostA / 64 + 64 / 64 → (recallOf m k).isSome = false) ∧ (g.findSome? fun x => stopFor m x.1) = none ∧ storeHurt m g .ok = false ∧
      storeHurt m [(hostA, [none])] .uncorrectable = true ∧ (g.findSome? fun x => stopFor stopMod x.1) = some (0, 9)) ∧
    allocStore (setRegN { hostMem base with mem := mem0 } hauP 0x54 0) hostA 64 = none ∧
    ({ base with velom := { base.velom with demands := [.regRd 1 0 4] } } : Mod).velom.demands ≠ [] ∧
    (devEnd < devEnd + 64 ∧ regStatus 0x80000 4 = 0 ∧ regStatus (2 ^ 28) 4 ≠ 0) := by decide +kernel
theorem witness_HostAccessesReadWriteAndAnswer_held : wbHeld (hostMem base) := by simp [wbHeld, wbSound, hostMem, mem0]
/-- With no room for a lease more, the oldest is recalled for another line. -/
def fullMod : Mod := hostMem { base with velom := { base.velom with leases := List.replicate (leaseMax + 1) ⟨1, 1⟩ } }
theorem witness_HostAccessesReadWriteAndAnswer_full : fullMod.velom.leases = ⟨1, 1⟩ :: List.replicate leaseMax ⟨1, 1⟩ ∧
    leaseMax ≤ fullMod.velom.leases.length ∧ leaseOf fullMod (hostA / 64) = 0 ∧ recallOf fullMod (hostA / 64) = none ∧ recallOf fullMod 1 = none := by
  have hl : fullMod.velom.leases = List.replicate (leaseMax + 1) ⟨1, 1⟩ := rfl
  have hr : fullMod.velom.recalls = [] := rfl
  refine ⟨by rw [hl, List.replicate_succ], by rw [hl, List.length_replicate]; omega, ?_, by simp [recallOf, hr], by simp [recallOf, hr]⟩
  have : ¬ (1 = hostA / 64) := by decide +kernel
  unfold leaseOf
  rw [hl, List.find?_eq_none.mpr]
  · rfl
  · intro x hx
    rw [List.eq_of_mem_replicate hx]
    simpa using this

theorem witness_LeasesRecallsAndHostLinesFollowTheirRules :
    (let m := leaseMod 2 [] []
     m.velom.link.st = 3 ∧ leaseOf m (hostA / 64) = 2 ∧ allocated m hostA = true ∧ recallOf m (hostA / 64) = none ∧ hostA / 64 ∉ m.velom.late ∧
      ownerOf m (hostA / 64 * 64) = none ∧ ownerOf m (hostA / 64 * 64 + 32) = none) ∧
    (leaseOf (leaseMod 0 [] []) (hostA / 64) = 0 ∧ leaseOf (leaseMod 1 [] []) (hostA / 64) = 1 ∧ hostA / 64 ∈ (leaseMod 0 [] [hostA / 64]).velom.late) ∧
    (let r := recall0 1 998999 []
     let m := leaseMod 2 [r] []
     recallOf m (hostA / 64) = some r ∧ r.keep < (2#2).toNat ∧ (1#2).toNat ≤ r.keep ∧ r.waiters = [] ∧ m.velom.demands = [] ∧ r.since + 1000 < now m ∧ recallsFreed m (hostA / 64) = false ∧
      (allocHost m (pageNo hostA)).isSome = true ∧ stopFor m hostA = none ∧ stopFor m (hostA + 32) = none) ∧
    (let r := recall0 1 998999 [.freed]
     recallsFreed (leaseMod 2 [r] []) (hostA / 64) = true) ∧
    -- a page that the host window has not, and may not allocate
    allocHost (setRegN { leaseMod 2 [] [] with mem := mem0 } hauP 0x54 0) (pageNo hostA) = none ∧
    -- a load that waits for the Recall
    (let r := recall0 1 998999 []
     let m := leaseMod 2 [r] []
     let m : Mod := { m with velom := { m.velom with demands := [.load 3 hostA 64 .ok] } }
     recallOf m (hostA / 64) = some r ∧ (∀ q ∈ m.velom.recalls, q.line = hostA / 64) ∧ (∀ d ∈ m.drills, d.held = []) ∧ m.mem.stalled = [] ∧
      m.velom.demands = [.load 3 (hostA / 64 * 64) 64 .ok] ∧ hostA / 64 * 64 < devEnd ∧ rangeLost m (hostA / 64 * 64) 64 = false) ∧
    now base ≤ (recall0 1 999000 []).since + 1000 ∧
    State.reset.mod.velom.link.st ≠ 3 ∧
    (let w := [(4, 0, 0x1000), (5, 2, 0x2000), (6, 1, 0x3000)]
     let m : Mod := { base with velom := { base.velom with waiting := w } }
     (m.velom.waiting = w ∧ (∀ v ∈ w, v.1 = 4 → v = (4, 0, 0x1000)) ∧ (∀ v ∈ w, v.1 = 5 → v = (5, 2, 0x2000)) ∧
      (∀ v ∈ w, v.1 = 5 → v.2.1 ≠ 0) ∧ ∀ v ∈ w, v.1 = 4 → v.2.1 ≠ 1 ∧ v.2.1 ≠ 2) ∧ m.velom.lines.length ≤ lineMax ∧
      16 < (List.replicate 17 (0#128)).length ∧ ∀ v ∈ w, v.1 ≠ 7) := by decide +kernel
theorem witness_LeasesRecallsAndHostLinesFollowTheirRules_held : wbHeld (leaseMod 2 [recall0 1 998999 []] []) := by
  simp [wbHeld, wbSound, leaseMod, hostMem, mem0]

/-- Sensor 0 at its limit of 105 °C twice, a sample over it, and states with a trip, without rails, with an analog trip, with a rebuild. -/
def hotSample : Sample := ⟨[1680] ++ List.replicate 47 0, List.replicate 46 0, List.replicate 46 0, 48000, 0⟩
def safMod (f : Saf → Saf) : Mod := { base with saf := f saf0 }
theorem witness_TripsStopTheModuleAndSensorsRaiseThem :
    (base.saf.trip = none ∧ base.saf.state = 0 ∧ base.sys.rails = true ∧ base.saf.analog = none ∧ base.mgt.on = true ∧ base.saf.mcDown = false) ∧
    (¬ ((safMod fun k => { k with trip := some (1, 0) }).saf.trip = none) ∧ (safMod fun k => { k with state := 2 }).saf.state ≠ 0 ∧
      { base with sys := { sys0 with rails := false } }.sys.rails = false ∧ { base with mgt := { mgt0 with on := false } }.mgt.on = false) ∧
    (1 ≤ 1 ∧ 9 ≤ 9 ∧ 41 < 42) ∧
    ((safMod fun k => { k with analog := some 997000 }).saf.analog = some 997000 ∧ 997000 + 3000 ≤ now base ∧ now base < 997001 + 3000) ∧
    (let m := safMod fun k => { k with atLimit := [0] }
     overLimit m hotSample = [0] ∧ (overLimit m hotSample).filter (· ∈ m.saf.atLimit) ++ (overEst m hotSample).filter (· ∈ m.saf.estLimit) = [0]) ∧
    (overLimit base hotSample).filter (· ∈ base.saf.atLimit) ++ (overEst base hotSample).filter (· ∈ base.saf.estLimit) = [] ∧
    (let m : Mod := { base with pwr := { pwr0 with temp := [-641] ++ List.replicate 47 0 } }
     0 < 48 ∧ 0 ∉ m.saf.failed ∧ m.pwr.temp.getD 0 0 < -640 ∧ ¬ (m.pwr.temp.getD 1 0 < -640 ∨ 2400 < m.pwr.temp.getD 1 0) ∧
      ¬ 2 ≤ mapGet (fun _ => 0) m.saf.off 1) ∧
    ((∃ a ∈ (safMod fun k => { k with mcTicks := [1] }).saf.mcTicks, now base < a + 1000000) ∧
      ∀ a ∈ (safMod fun k => { k with mcTicks := [0] }).saf.mcTicks, a + 1000000 ≤ now base) ∧
    (safMod fun k => { k with rebuild := true }).saf.rebuild = true ∧ base.saf.rebuild = false ∧
    (let m := runWith (searchC (emitW ent0))
     m.cmds.find? (fun c => c.search.any fun w => w.stage = 3) = some (searchC (emitW ent0)) ∧ ∀ c ∈ base.cmds, c.search = none) ∧
    (13 < 14 ∧ recentEvent (safMod fun k => { k with events := [(13, 1)] }) 13 = true ∧ recentEvent base 107 = false ∧
      recentEvent (safMod fun k => { k with events := [(107, 1)] }) 107 = true) ∧
    (7 < 8 ∧ isOut base (.page (seamEnds 7).1) = false) := by decide +kernel

/-- A module before its power-on with every sensor cool, and one shut off by a trip that may restart. -/
def coldStart (state off : Nat) : Mod :=
  { base with sys := { sys0 with rails := false, phase := 1, mv := 46000 }, mgt := { mgt0 with state := state, offCause := off }, pwr := { pwr0 with temp := List.replicate 48 400 } }
def railMod (retried : Bool) (phase : Nat) : Mod :=
  { base with sys := { sys0 with rails := false, phase := phase }, mgt := { mgt0 with state := 1, retried := retried } }
theorem witness_TripsStopTheModuleAndSensorsRaiseThem_open : ∀ c ∈ base.cmds, ∀ w, c.search = some w → w.stage ≠ 3 :=
  fun _ h => absurd h List.not_mem_nil
theorem witness_TicksAndPowerFollowTheirSequences :
    ((coldStart 0 0).sys.rails = false ∧ (coldStart 0 0).velom.demands = [] ∧ base.sys.rails = true ∧ base.velom.demands = [] ∧ base.sys.mainEn = true ∧
      base.sys.rst = 0 ∧ base.ledger.stat ≠ 4 ∧ { base with ledger := { base.ledger with stat := 4 } }.ledger.stat = 4 ∧ base.saf.trip = none ∧ base.sys.want = none) ∧
    (let m := safMod fun k => { k with trip := some (9, 63) }
     m.saf.trip = some (9, 63) ∧ m.saf.state = 0 ∧ m.sys.rails = true) ∧
    (let m : Mod := { base with sys := { base.sys with want := some (1, 1) } }
     m.sys.want = some (1, 1) ∧ m.sys.mainEn = true ∧ m.sys.rst = 0 ∧ { m with sys := { m.sys with mainEn := false } }.sys.mainEn = false) ∧
    (base.sys.refOk = true ∧ { base with sys := { sys0 with refOk := false } }.sys.refOk = false ∧ 9 < 10) ∧
    (base.mgt.state = 2 ∧ (railMod false 2).mgt.state = 1 ∧ 2 ≤ { base with sys := { sys0 with rst := 2 } }.sys.rst) ∧
    (base.mgt.on = true ∧ { base with mgt := { mgt0 with on := false } }.mgt.on = false) ∧
    (let m := coldStart 0 1
     m.mgt.on = true ∧ m.sys.switchOpen = false ∧ m.sys.mainEn = true ∧ m.mgt.power = true ∧ m.mgt.state = 0 ∧ m.sys.rails = false ∧
      (∀ i, i < 46 → i ∈ m.saf.failed ∨ m.pwr.temp.getD i 0 + 160 ≤ tripAt i) ∧ 46000 ≤ 46000 ∧ 49 < 50) ∧
    (let m := coldStart 3 1
     let recent := m.mgt.restarts.filter fun t => now m < t + 86400000000
     m.mgt.state = 3 ∧ m.mgt.offCause = 1 ∧ bitAt (regN m mgtP 0x44) 0 = true ∧ recent.length < bits (regN m mgtP 0x44) 8 8 ∧ m.mgt.update = none ∧
      46000 ≤ m.sys.mv ∧ m.pwr.temp.getD 46 0 < 800) ∧
    ((railMod false 2).mgt.state = 1 ∧ (railMod false 2).sys.phase = 2 ∧ (railMod false 2).mgt.retried = false ∧ (railMod true 2).mgt.retried = true) ∧
    ((railMod true 1).sys.phase = 1 ∧ base.mgt.state ≠ 1) := by decide +kernel

/-- A module in each phase of a reset, and images of the kinds of its slot of which the first does not pass. -/
def rstMod (rst phase : Nat) : Mod := { base with sys := { sys0 with rst := rst, phase := phase } }
/-- A bench load after an escalation, with a retired frame and a mapped-out pseudo-channel that passes its test but for one frame. -/
def lossRec (lsn : Nat) (s : Nat) (c : FaultChange) : LRec :=
  ⟨lsn, 900000, 0, 64, 0, none, 0, none, .fault s c, 64, some 0, some 900100, false, false⟩
def lossTrain : Training := ⟨[⟨0, 9, false, [41]⟩], [3], [], [2], []⟩
def lossMod : Mod :=
  { rstMod 3 5 with ledger := { ledger0 with next := 3, records := [lossRec 1 0 (.retire 5), lossRec 2 0 (.mapout 9)] }
                    sys := { (rstMod 3 5).sys with cause := 6, found := ⟨lossTrain, [], []⟩ } }
def badImg : Image := ⟨0x564B4931#32, 0, 1, 0, Config.vendorRoot, false, true, 0#512⟩
theorem witness_ResetsQuiesceWipeBootLoadReplayAndOpen :
    (base.sys.rails = true ∧ base.sys.rst = 0 ∧ (rstMod 1 7).sys.rst = 1 ∧ 2 ≤ (rstMod 2 3).sys.rst) ∧
    (quiesced (rstMod 1 7) = true ∧ quiesced { rstMod 1 7 with ledger := ledMod.ledger } = false ∧ (rstMod 1 7).sys.mainEn = true ∧
      (rstMod 1 7).mgt.power = true ∧ { rstMod 1 7 with mgt := { mgt0 with power := false } }.mgt.power = false) ∧
    (let m := rstMod 2 3
     m.mgt.state ≠ 1 ∧ m.sys.rst = 2 ∧ m.sys.phase = 3 ∧ m.sys.resetNLow = false ∧ m.sec.pending = none ∧
      1 ∈ chainKinds m ∧ 5 ∈ chainKinds m ∧ ([{ badImg with kind := 1 }].find? fun i => i.kind = 1).map (·.sigOk) = some false ∧ 1 - m.sec.active ∉ m.sec.invalid ∧
      m.sec.active ≤ 1 ∧ 1 - m.sec.active ∈ { m with sec := { sec0 with invalid := [1] } }.sec.invalid) ∧
    ((railMod false 2).mgt.state = 1 ∧ (railMod false 2).sys.phase = 2) ∧
    (let m := lossMod
     m.hbm.length = 8 ∧ m.sys.rst = 3 ∧ m.sys.found.training = lossTrain ∧ lossRec 1 0 (.retire 5) ∈ m.ledger.records ∧ (lossRec 1 0 (.retire 5)).prog.isSome = true ∧
      (∀ p ∈ lossTrain.pcs, p.stack = 0 → p.pc ≠ framePc 5) ∧
      lossTrain.pcs.filter (fun q => q.stack = 0 && q.pc = 9) = [⟨0, 9, false, [41]⟩] ∧
      testPasses ((faultChanges m.ledger 0).foldl faultStep stack0) ⟨0, 9, false, [41]⟩ = true ∧ 3 ∈ lossTrain.chans ∧ m.sys.cause = 6 ∧ lossTrain.seams ≠ []) ∧
    (let m : Mod := { rstMod 5 6 with ledger := ledMod.ledger }
     let found (l : List (Nat × Nat)) : Mod := { m with sys := { m.sys with found := { m.sys.found with copies := l } } }
     hasGap m.ledger (found [(0, 0), (0, 1)]).sys.found.copies = true ∧ hasGap m.ledger (found [(0, 0)]).sys.found.copies = false ∧ m.sys.rst = 5 ∧ { m with ledger := { m.ledger with stat := 4 } }.ledger.stat = 4) ∧
    ((rstMod 3 5).sys.rst = 3 ∧ (rstMod 3 5).hbm.length = 8 ∧ base.sys.rst ≠ 3 ∧ (rstMod 5 6).sys.rst = 5 ∧ base.sys.rst ≠ 5) ∧
    ((rstMod 6 6).sys.rst = 6 ∧ (rstMod 6 6).sys.refOk = true ∧ base.sys.rst ≠ 6) ∧
    (let m : Mod := { rstMod 6 6 with sys := { sys0 with rst := 6, tick := 12000000#64 }, sec := { sec0 with trial := true } }
     m.sec.trial = true ∧ m.sys.rst ≠ 0 ∧ m.sys.resetTick + 12000000 ≤ now m) := by decide +kernel
theorem witness_ResetsQuiesceWipeBootLoadReplayAndOpen_retired : ∀ x ∈ lossMod.ledger.records, ∀ pc l, x.redo ≠ .fault 0 (.mapin pc l) := by
  simp [lossMod, lossRec]
def chainGood : List Image := [5, 1, 2, 3, 4].map fun k => ⟨0x564B4931#32, k, 1, 0, Config.vendorRoot, true, true, 0#512⟩
theorem witness_ResetsQuiesceWipeBootLoadReplayAndOpen_passes : slotFault (rstMod 2 3) chainGood = none := by
  simp [slotFault, chainKinds, chainGood, imageFault, rstMod, base, Mod.reset, sys0, sec0]

/-- A module with address 5, port 3 ACTIVE and forwarding, and routes to node 9 by that port. -/
def fabMod : Mod :=
  { base with fab := { fab0 with node := some 5, master := 2, ports := [{ port0 3 with link := { link0 with st := 3 }, up := true, fwd := true, told := true }], table := [(9, 3 + 2 ^ 16)] } }
/-- A path-routed frame: path length, index, the slot of ports to come and the return slot. -/
def pathFrame (ty count index ports back : Nat) : Frame :=
  setHdr (mkFrame base ty 0 7 0 true [BitVec.ofNat 128 (count + index * 16 + ports * 256), BitVec.ofNat 128 (back * 256)]) 32 8 4
def spoil (f : Frame) : Frame := setHdr f 40 2 3
def lastHop (f : Frame) : Frame := setHdr f 32 8 1
def badCrc (f : Frame) : Frame := setHdr f 96 32 ((fCrc f + 1) % 2 ^ 32)
/-- The staging window holds a MGT_REQ header for node `d`. -/
def stagedFor (ty d : Nat) : Mod :=
  let h := (mkFrame base ty d 7 0 true []).hdr.toNat
  [0, 1, 2, 3].foldl (fun m k => setRegN m fabP (0x800 + 4 * k) (h / 2 ^ (32 * k) % 2 ^ 32)) fabMod
theorem witness_PathRoutedFramesDiscoverAndAssign :
    (let f := stagedFrame (stagedFor 0x08 9)
     frameBad f = false ∧ 5 ≤ fType f ∧ fType f ≠ 9 ∧ (stagedFor 0x08 9).fab.node = some 5 ∧ 5 < 2 ^ 12 ∧ 5 ≠ fDst f ∧
      liveHops (stagedFor 0x08 9) (routeGet (stagedFor 0x08 9).fab.table (fDst f)) = [3]) ∧
    (let f := stagedFrame (stagedFor 0x08 10)
     frameBad f = false ∧ liveHops (stagedFor 0x08 10) (routeGet (stagedFor 0x08 10).fab.table (fDst f)) = [] ∧ fType f ≠ 0x14 ∧ base.fab.node = none) ∧
    (portUp fabMod 3 = true ∧ portUp fabMod 4 = false) ∧
    (∀ ty ∈ [1, 3], let f := pathFrame ty 2 0 3 0
      fType f = ty ∧ frameBad f = false ∧ 2 ≤ f.data.length ∧ pathIndex f < pathCount f ∧ fabMod.fab.node.isSome = true ∧ 2 ≤ fTtl f ∧
      portUp fabMod (pathPort f 0 (pathIndex f)) = true ∧ fTtl (lastHop f) ≤ 1 ∧ frameBad (spoil f) = true ∧ fType (spoil f) = ty ∧
      pathCount (pathFrame ty 1 2 0 0) < pathIndex (pathFrame ty 1 2 0 0)) ∧
    (∀ ty ∈ [1, 3], let f := pathFrame ty 2 2 0 0
      fType f = ty ∧ frameBad f = false ∧ pathIndex f = pathCount f ∧ crcOk f = true ∧ crcOk (badCrc f) = false ∧ fabMod.fab.ports.length ≤ 12 ∧
      (∀ d, fabMod.fab.node = some d → d < 4096)) ∧
    (∀ ty ∈ [2, 4], let f := pathFrame ty 3 2 0 (3 * 16)
      fType f = ty ∧ frameBad f = false ∧ 2 ≤ pathIndex f ∧ 2 ≤ fTtl f ∧ portUp fabMod (pathPort f 1 (pathIndex f - 1)) = true ∧
      fTtl (lastHop f) ≤ 1 ∧ pathIndex (pathFrame ty 3 0 0 0) = 0 ∧ pathIndex (pathFrame ty 3 1 0 0) = 1 ∧ crcOk (pathFrame ty 3 1 0 0) = true ∧
      crcOk (badCrc (pathFrame ty 3 1 0 0)) = false) ∧
    ((portOf fabMod 3).map (fun p => (p.link.st, p.told)) = some (3, true) ∧ portOf fabMod 4 = none ∧ fabMod.fab.node = some (5#12).toNat ∧
      fabMod.fab.node ≠ some (6#12).toNat ∧ 3 < 16) ∧
    (let m : Mod := { fabMod with fab := { fabMod.fab with txs := [⟨7, 2, 3, 0, 0, 998000, 0, []⟩] } }
     let f := pathFrame 2 3 1 0 0
     frameBad f = false ∧ 2 ≤ f.data.length ∧ m.fab.node.isSome = true ∧ (∀ k ∈ fabMod.fab.txs, ¬ (k.kind = 3 ∧ k.tag = fTag f)) ∧
      (m.fab.txs.find? (fun k => k.kind = 3 && k.tag = fTag f)).isSome = true) ∧
    (let m : Mod := { base with fab := { fab0 with idle := some 0 } }
     m.fab.idle = some 0 ∧ 0 + 1000000 ≤ now m ∧ (∀ p ∈ m.fab.ports, p.link.st ≠ 3) ∧ base.fab.idle = none) := by
  refine ⟨by decide +kernel, by decide +kernel, by decide +kernel, by decide +kernel, fun ty hty => ?_, by decide +kernel, by decide +kernel, by decide +kernel, by decide +kernel⟩
  have h := (by decide +kernel : ∀ ty ∈ [1, 3], let f := pathFrame ty 2 2 0 0
    fType f = ty ∧ frameBad f = false ∧ pathIndex f = pathCount f ∧ crcOk f = true ∧ crcOk (badCrc f) = false ∧ fabMod.fab.ports.length ≤ 12) ty hty
  obtain ⟨h1, h2, h3, h4, h5, h6⟩ := h
  refine ⟨h1, h2, h3, h4, h5, h6, fun d hd => ?_⟩
  have : d = 5 := (Option.some.inj hd).symm
  omega

/-- An addressed frame from the master for node `d`. -/
def sentFrame (ty d part : Nat) (data : List (BitVec 128)) : Frame := mkFrame { fabMod with fab := { fabMod.fab with node := some 2 } } ty d 7 part true data
/-- A ROUTE_WR of part 63 from node 2 to node 5, all its entries 0; its CRC is checked byte by byte. -/
def routeFrame : Frame := ⟨218328183140533367126015408653134202117#128, List.replicate 16 0#128⟩
def foldCrc : List Byte → Nat → Nat
  | [], c => c
  | b :: bs, c => if c = 0 then foldCrc bs (crcByte c b) else foldCrc bs (crcByte c b)
theorem foldCrc_eq (l : List Byte) (c : Nat) : foldCrc l c = l.foldl crcByte c := by
  induction l generalizing c with
  | nil => rfl
  | cons b bs ih => simp [foldCrc, ih]
theorem witness_AddressedFramesAreDeliveredForwardedAndAnswered_crc : crcOk routeFrame = true := by
  have h : fCrc routeFrame = (BitVec.ofNat 32 (foldCrc (crcBytes routeFrame) 0xFFFFFFFF ^^^ 0xFFFFFFFF)).toNat := by decide +kernel
  rw [foldCrc_eq] at h
  exact decide_eq_true h
def txMod (k : FabTx) : Mod := { runWith (searchC (searchW [])) with fab := { fabMod.fab with txs := [k] } }
def searchTx : FabTx := ⟨7, 9, 0, 7, 0, 998000, 0, []⟩
def splitTx (tries : Nat) : FabTx := ⟨7, 9, 1, 7, 1, 998000, tries, []⟩
def mgtTx : FabTx := ⟨7, 2, 2, 0, 0, 998000, 0, []⟩
def partA : RemotePart := ⟨9, 7, 0, false, none, 1#32, [⟨5#64, 0x3F800000#32, 5#8, 1#32⟩]⟩
theorem witness_AddressedFramesAreDeliveredForwardedAndAnswered :
    (∀ ty ∈ [0x05, 0x06, 0x07, 0x08, 0x14], let f := sentFrame ty 5 0 [0#128]
      fType f = ty ∧ fabMod.fab.node = some (fDst f) ∧ frameBad f = false ∧ frameBad (spoil f) = true ∧ fType (spoil f) = ty ∧
      fabMod.fab.node ≠ some (fDst (sentFrame ty 9 0 [])) ∧ frameBad (sentFrame ty 9 0 []) = false) ∧
    (portUp fabMod 3 = true ∧ portUp fabMod 4 = false ∧ pathRouted 1 = true ∧ pathRouted 0x14 = false) ∧
    (fType routeFrame = 0x05 ∧ fabMod.fab.node = some (fDst routeFrame) ∧ frameBad routeFrame = false ∧ fSrc routeFrame = fabMod.fab.master ∧
      routeBad routeFrame = false ∧ fPart routeFrame = 63 ∧ routeBad (sentFrame 0x05 5 64 []) = true) ∧
    (let f := sentFrame 0x06 5 0 [3#128]
     fSrc f = fabMod.fab.master ∧ f.data ≠ [] ∧ crcOk f = true) ∧
    (let f := sentFrame 0x07 5 0 []
     crcOk f = true ∧ fabMod.fab.node = some (fDst f) ∧ (txMod mgtTx).fab.txs.find? (fun k => k.kind = 2 && k.tag = fTag f && k.dst = fSrc f) = some mgtTx ∧
      ∀ k ∈ fabMod.fab.txs, ¬ (k.kind = 2 ∧ k.tag = fTag f ∧ k.dst = fSrc f)) ∧
    (let f := sentFrame 0x14 5 0 [BitVec.ofNat 128 (7 * 2 ^ 32 + 9)]
     let q := fun k : FabTx => k.kind != 3 && k.tag = bits (slotN f 0) 32 32 && k.dst = bits (slotN f 0) 0 12
     crcOk f = true ∧ (txMod (splitTx 0)).fab.txs.find? q = some (splitTx 0) ∧ (splitTx 0).kind = 1 ∧ (splitTx 0).tries < 3 ∧ (splitTx 2).sent ≠ now base ∧
      { splitTx 1 with sent := 1000000 }.sent = now base ∧ (txMod { mgtTx with dst := 9 }).fab.txs.find? q = some { mgtTx with dst := 9 } ∧
      (txMod searchTx).fab.txs.find? q = some searchTx ∧ searchTx.kind = 0 ∧ cmdOf (txMod searchTx) 7 = some (searchC (searchW [])) ∧
      ∀ k ∈ fabMod.fab.txs, ¬ (k.kind ≠ 3 ∧ k.tag = 7 ∧ k.dst = 9)) ∧
    base.fab.node = none := by decide +kernel
theorem witness_AddressedFramesAreDeliveredForwardedAndAnswered_more :
    (let f := setHdr (sentFrame 0x10 9 0 []) 32 8 2
     fType f ≠ 9 ∧ frameBad f = false ∧ fabMod.fab.node ≠ some (fDst f) ∧ 2 ≤ fTtl f ∧ liveHops fabMod (routeGet fabMod.fab.table (fDst f)) ≠ [] ∧
      fTtl (lastHop f) ≤ 1 ∧ liveHops fabMod (routeGet fabMod.fab.table 10) = [] ∧ fDst (sentFrame 0x10 10 0 []) = 10) ∧
    (opcodeOf (headOf 0x01).1 = 0x01 ∧ opcodeOf (headOf 0x03).1 ≠ 0x01) ∧
    ((txMod searchTx).fab.txs.find? (fun k => k.tag = partA.tag && k.kind = 0 && k.dst = partA.node && k.cmd = 7) = some searchTx ∧ remoteEnds partA = none ∧
      remoteEnds { partA with status := 0x24 } = some (0x24, 9) ∧
      fabMod.fab.txs.find? (fun k => k.tag = partA.tag && k.kind = 0 && k.dst = partA.node && k.cmd = 7) = none) ∧
    (let m : Mod := { ksMod 0 with fab := fabMod.fab }
     m.fab.node.isSome = true ∧ ksBad m ksD = false ∧ 1 < ksCount m ksD ∧ ksCount m ksD ≤ 2 ∧ bitAt (ksBitmap m ksD) 1 = false ∧
      bitAt (ksBitmap (ksMod 2) ksD) 1 = true) ∧
    ((txMod (splitTx 3)).fab.txs.find? (fun k => k.tag = 7 && k.kind = 1 && k.dst = 9) = some (splitTx 3) ∧ (splitTx 3).sent + 2000 ≤ now base ∧
      3 ≤ (splitTx 3).tries ∧ ∀ k ∈ fabMod.fab.txs, ¬ (k.tag = 7 ∧ k.kind = 1 ∧ k.dst = 9)) := by decide +kernel
/-- The tile of a remote contribution finds room. -/
theorem witness_AddressedFramesAreDeliveredForwardedAndAnswered_room (tile : List Word) :
    let m : Mod := { ksMod 0 with fab := fabMod.fab }
    ksRoom m (tileAdds m (ksTarget m ksD) tile none) = true := (witness_FlashBuffersAndAddsTakeEffect_room tile none).2

/-- The controller with an address, and an update: with component 1 taken and its image received, and with every component done. -/
def mgtMod (u : Option Update) : Mod := { base with mgt := { mgt0 with addr := some 0x11#7, update := u }, sec := { sec0 with slots := [[], []] } }
def imgOk : Image := ⟨0x564B4931#32, 1, 1, 0, Config.vendorRoot, true, true, 0#512⟩
theorem witness_ManagementRequestsAreAnsweredAndTakeEffect :
    (let m := mgtMod none
     m.mgt.on = true ∧ m.saf.mcDown = false ∧ m.mgt.addr.isSome = true ∧ base.mgt.addr = none ∧ m.mgt.update = none ∧ m.sys.phase = 7) ∧
    ((5#8).toNat ∈ [0, 2, 4, 5] ∧ (6#8).toNat ∉ [0, 2, 4, 5] ∧ pdrKind 80 = none ∧ (pdrKind 1).isSome = true) ∧
    (1 ≤ 74 ∧ (36 < 37) ∧ (coldStart 0 0).sys.rails = false ∧ base.sys.rails = true ∧ base.sys.want = none ∧ base.mgt.test = none ∧ base.chutes = []) ∧
    (base.mgt.state = 2 ∧ base.sys.rst = 0 ∧ (coldStart 3 1).mgt.state = 3) ∧
    ((rstMod 2 3).sys.phase ≠ 7 ∧ (rstMod 2 3).sys.phase ≠ 8) ∧
    (let u : Update := ⟨[1], some 1, some imgOk, [], false⟩
     let m := mgtMod (some u)
     m.mgt.update = some u ∧ u.cur = some 1 ∧ u.got = some imgOk ∧ 1 - m.sec.active < m.sec.slots.length) ∧
    (let u : Update := ⟨[1, 5], none, none, [5, 1], false⟩
     let m := mgtMod (some u)
     m.mgt.update = some u ∧ u.cur = none ∧ u.comps ≠ [] ∧ (∀ k ∈ u.comps, k ∈ u.done) ∧ (∀ k ∈ u.comps, 1 ≤ k ∧ k ≤ 5) ∧ m.inited = true ∧ m.sys.rst = 0 ∧
      m.sec.pendAct = none) := by
  refine ⟨by decide +kernel, by decide +kernel, by decide +kernel, by decide +kernel, by decide +kernel, ⟨rfl, rfl, rfl, by decide⟩, by decide +kernel⟩
theorem witness_ManagementRequestsAreAnsweredAndTakeEffect_image : imageFault (mgtMod none) 1 imgOk = 0 ∧ imageFault (mgtMod none) 2 imgOk ≠ 0 := by
  simp [imageFault, imgOk, mgtMod, sec0]

/-- Both transports served at each stage of the negotiation; and a request in the window by its code. -/
def spdmMod (k : SpdmState) : Mod := { base with mgt := { mgt0 with addr := some 0x11#7 }, sec := { sec0 with spdmM := k, spdmW := k } }
def windowMod (code n : Nat) : Mod := setRegN (setRegN base secP 0x400 (0x13 + code * 256)) secP 0x5C n
theorem witness_SpdmIsServedInOrderOnBothTransports :
    (let m := spdmMod ⟨true, true, true⟩
     m.mgt.on = true ∧ m.saf.mcDown = false ∧ m.mgt.addr.isSome = true ∧ m.sys.rails = true ∧ m.inited = true ∧ m.sec.spdmM.algs = true ∧
      m.sec.spdmW.algs = true) ∧
    ((spdmMod ⟨false, false, false⟩).sec.spdmM.version = false ∧ (spdmMod ⟨true, false, false⟩).sec.spdmM.caps = false ∧
      (spdmMod ⟨true, true, false⟩).sec.spdmM.algs = false) ∧
    (State.reset.mod.inited = false ∧ base.mgt.addr.isSome = false ∧ (coldStart 0 0).sys.rails = false) ∧
    (9 ≤ 9 ∧ 9 < 10 ∧ (10 : Nat) ≠ 0xFF) ∧
    (∀ code ∈ [0x84, 0xE1, 0xE3, 0x81, 0x82, 0x83, 0xE0, 0x80], 4 ≤ (windowRequest (windowMod code 4)).length ∧
      part (windowRequest (windowMod code 4)) 1 1 = code) ∧ (windowRequest (windowMod 0x84 3)).length < 4 := by decide +kernel

/-- Face 0 of a module with two faces of command 7, and drill (0, 0), each with one word of code at its pc. -/
def coreBase : Mod := { base with sys := { base.sys with quarryOn := true } }
def runFace (w : Word) : Face := { face0 0 with st := 1, cmd := some 7, codeLen := 4, store := cellsSet [] 0 (toBytes w.toNat 4) }
def faceMod (w : Word) : Mod := { coreBase with faces := [runFace w, { face0 1 with cmd := some 7, st := 1, wait := some (0, true) }] }
def runDrill (w : Word) : Drill := { drill0 0 0 with ready := false, st := 3, pc := 0x1000, code := [w], region := (2 ^ 36, 2 ^ 16) }
def coreDrill (w : Word) : Mod := { coreBase with drills := [runDrill w] }
def coreMod (c : Core) (w : Word) : Mod := match c with
  | .face _ => faceMod w
  | .drill _ _ => coreDrill w
def issuesOk (i : Instr) : Bool := match coreInstr i with
  | some (c, w) => decide (coreWord (coreMod c w) c = some (some w)) && !coreBad c w
  | none => false
/-- The word of an instruction, and that it is issued where it stands at its core's pc. -/
def wordOf (i : Instr) : Word := ((coreInstr i).map (·.2)).getD 0#32
theorem issues_of (i : Instr) (c : Core) (hc : (coreInstr i).map (·.1) = some c) (h : issuesOk i = true) : Issues (coreMod c (wordOf i)) i c := by
  unfold issuesOk at h
  cases hi : coreInstr i with
  | none => simp [hi] at hc
  | some p =>
    obtain ⟨d, w⟩ := p
    simp only [hi, Option.map_some, Option.some.injEq] at hc
    subst hc
    simp only [hi, Bool.and_eq_true, decide_eq_true_eq, Bool.not_eq_true'] at h
    exact ⟨w, hi, by simpa [wordOf, hi] using h.1, h.2⟩

/-- The scalar instructions of both cores. -/
def scalarInstrs (c : Core) : List Instr :=
  (List.range 12).map (fun f => .alu c 31#5 2#5 3#5 (BitVec.ofNat 11 f)) ++
  [.addi c 1#5 2#5 0x8000#16, .andi c 0#5 2#5 3#16, .ori c 1#5 2#5 3#16, .xori c 1#5 2#5 0xFFFF#16, .lui c 1#5 0#5 0xFFFF#16, .shi c 1#5 2#5 0#16, .shi c 1#5 2#5 127#16,
    .shi c 1#5 2#5 191#16, .beq c 1#5 2#5 0x8000#16, .bne c 1#5 2#5 1#16, .blt c 1#5 2#5 1#16, .bge c 1#5 2#5 1#16, .bltu c 1#5 2#5 1#16,
    .bgeu c 1#5 2#5 1#16, .jal c 0x2000000#26, .jalr c 31#5 31#5 0xFFFF#16, .csrr c 1#5 0#5 0#8, .csrr c 1#5 0#5 6#8]
theorem witness_ScalarInstructionsWriteOneRegister :
    (∀ w c, RegsWhole (coreMod c w) c) ∧
    (∀ c ∈ [Core.face 0, .drill 0 0], ∀ i ∈ scalarInstrs c, issuesOk i = true) ∧
    issuesOk (.setb 0 0 1#5 2#5 0#4) = true ∧ issuesOk (.setb 0 0 1#5 2#5 7#4) = true ∧
    (∀ c ∈ [Core.face 0, .drill 0 0], let m := coreMod c (encI 0x10 1#5 2#5 1#16)
      getX m c 1 = getX m c 2 ∧ coreWord m c = some (some (encI 0x10 1#5 2#5 1#16))) := by
  refine ⟨fun w c => ?_, by decide +kernel, by decide +kernel, by decide +kernel, by decide +kernel⟩
  cases c with
  | face n =>
    intro f hf
    have : f ∈ (faceMod w).faces := List.mem_of_find?_eq_some hf
    rcases List.mem_cons.mp this with rfl | h
    · rfl
    · rw [List.mem_singleton.mp h]; rfl
  | drill k n =>
    intro d hd
    have : d ∈ (coreDrill w).drills := List.mem_of_find?_eq_some hd
    rw [List.mem_singleton.mp this]
    rfl

/-- A face whose x1 holds a local address, and a drill whose r1 holds one of scratch. -/
def faceAt (w : Word) (a : Nat) : Mod := { coreBase with faces := [{ runFace w with x := (List.replicate 32 0#64).set 1 (BitVec.ofNat 64 a) }] }
def drillAt (w : Word) (a : Nat) : Mod := { coreBase with drills := [{ runDrill w with r := (List.replicate 32 0#32).set 1 (BitVec.ofNat 32 a) }] }
def localA : Nat := 2 ^ 63 + 0x100
theorem witness_ScalarAccessesStayInLocalStore :
    (∀ i ∈ [Instr.ld 0 2#5 1#5 8#16, .lw (.face 0) 0#5 1#5 4#16, .sd 0 2#5 1#5 0xFFF8#16, .sw (.face 0) 2#5 1#5 0xFFFC#16, .lw (.drill 0 0) 2#5 1#5 4#16,
      .lh 0 0 2#5 1#5 2#16, .lbu 0 0 2#5 1#5 1#16, .sw (.drill 0 0) 2#5 1#5 4#16, .sh 0 0 2#5 1#5 2#16, .sb 0 0 2#5 1#5 1#16], issuesOk i = true) ∧
    (let m := faceAt (encI 0x08 2#5 1#5 8#16) localA
     coreWord m (.face 0) = some (some (encI 0x08 2#5 1#5 8#16)) ∧
      ∃ f, faceOf m 0 = some f ∧ f.x.length = 32 ∧ let at' := (BitVec.ofNat 64 (faceX f 1) + (8#16).signExtend 64).toNat
        bitAt at' 63 = true ∧ bits at' 23 40 = 0 ∧ at' % 2 ^ 23 + 8 ≤ 0x700000 ∧ at' % 8 = 0 ∧ ¬ ∃ q ∈ f.acc, q.drain = true ∧ at' < q.hi ∧ q.lo < at' + 8) ∧
    (let at' := 2 ^ 63 + 0x6FFFF8
     at' % 2 ^ 23 + 8 ≤ 0x700000 ∧ 0x700000 < (at' + 8) % 2 ^ 23 + 8 ∧ bitAt 0x100 63 = false ∧ bits (2 ^ 63 + 2 ^ 23) 23 40 ≠ 0 ∧ (at' + 4) % 8 ≠ 0) ∧
    (∀ a ∈ [0x7FFC, 0x8080, 0x80FC], let m := drillAt (encI 0x0B 2#5 1#5 0#16) a
      coreWord m (.drill 0 0) = some (some (encI 0x0B 2#5 1#5 0#16)) ∧ ∃ d, drillOf m 0 0 = some d ∧ d.r.length = 32 ∧ drillR d 1 = a ∧ a + 4 ≤ 0x8100 ∧ a % 4 = 0 ∧
        (a < 0x8000 ∨ 0x8080 ≤ a)) ∧
    (0x8000 ≤ 0x807C ∧ 0x807C < 0x8080 ∧ 0x807C % 4 = 0 ∧ 0x8100 < 0x80FE + 4) := by
  refine ⟨by decide +kernel, ⟨by decide +kernel, _, rfl, by decide +kernel, by decide +kernel, by decide +kernel, by decide +kernel, by decide +kernel, by decide +kernel⟩,
    by decide +kernel, fun a ha => ?_, by decide⟩
  have h := (by decide +kernel : ∀ a ∈ [0x7FFC, 0x8080, 0x80FC], coreWord (drillAt (encI 0x0B 2#5 1#5 0#16) a) (.drill 0 0) = some (some (encI 0x0B 2#5 1#5 0#16)) ∧
    a + 4 ≤ 0x8100 ∧ a % 4 = 0 ∧ (a < 0x8000 ∨ 0x8080 ≤ a) ∧ ((drillOf (drillAt (encI 0x0B 2#5 1#5 0#16) a) 0 0).map (drillR · 1)) = some a) a ha
  exact ⟨h.1, _, rfl, rfl, Option.some.inj h.2.2.2.2, h.2.1, h.2.2.1, h.2.2.2.1⟩

/-- Every vector instruction with each funct of its table, at a face whose x1 holds a local address. -/
def vectorInstrs : List Instr :=
  [0, 1, 2, 3, 4, 5, 6, 0x10, 0x11, 0x12, 0x13].map (fun f => Instr.vectorArithmetic 0 1#5 2#5 31#5 7#3 (BitVec.ofNat 8 f)) ++
  (List.range 8).map (fun f => .vectorFunction 0 31#5 2#5 0#5 0#3 (BitVec.ofNat 8 f)) ++
  (List.range 3).map (fun f => .vectorCompare 0 7#5 2#5 3#5 0#3 (BitVec.ofNat 8 f)) ++ [.vectorCompare 0 0#5 2#5 3#5 1#3 0#8] ++
  (List.range 4).map (fun f => .vectorReduce 0 31#5 2#5 0#5 1#3 (BitVec.ofNat 8 f)) ++
  [0, 9, 10, 0x10, 0x19].map (fun f => .vectorConvert 0 1#5 2#5 0#5 1#3 ⟨BitVec.ofNat 8 f, none⟩) ++
  (List.range 3).map (fun f => .vectorMove 0 1#5 2#5 3#5 1#3 (BitVec.ofNat 8 f)) ++ [.vld 0 1#5 1#5 1#16, .vst 0 1#5 1#5 0x8000#16]
theorem witness_VectorInstructionsActPerActiveLane :
    (∀ i ∈ vectorInstrs, issuesOk i = true) ∧
    (let m := faceAt (encI 0x28 1#5 1#5 1#16) localA
     coreWord m (.face 0) = some (some (encI 0x28 1#5 1#5 1#16)) ∧
      ∃ f, faceOf m 0 = some f ∧ f.x.length = 32 ∧ (∀ e ∈ f.v, e.2.length = 256) ∧ (∀ e ∈ f.mask, e.2.length = 256) ∧
        let at' := (BitVec.ofNat 64 (faceX f 1) + (1#16).signExtend 64 * 1024#64).toNat
        bitAt at' 63 = true ∧ bits at' 23 40 = 0 ∧ at' % 2 ^ 23 + 1024 ≤ 0x700000 ∧ at' % 32 = 0 ∧
          ¬ (∃ q ∈ f.acc, q.drain = true ∧ at' < q.hi ∧ q.lo < at' + 1024) ∧ faceX f 3 < 256) ∧
    (let f : Face := { face0 0 with acc := [acc0, { acc0 with drain := true, lo := 2 ^ 63, hi := 2 ^ 63 + 0x1000 }] }
     ∃ q ∈ f.acc, q.drain = true ∧ localA < q.hi ∧ q.lo < localA + 8) ∧
    localA % 32 = 0 ∧ (localA + 16) % 32 ≠ 0 := by
  refine ⟨by decide +kernel, ⟨by decide +kernel, _, rfl, by decide +kernel, by decide +kernel, by decide +kernel, by decide +kernel, by decide +kernel, by decide +kernel, by decide +kernel, by decide +kernel, by decide +kernel⟩,
    by decide +kernel, by decide, by decide⟩

/-- A RUN_FACE command on faces 0 and 1: face 0 at a word, face 1 as `w1` says. -/
def pairCmd (exits : List (Core × Nat)) : Cmd := { runCmd 0x40 with run := some ⟨true, [.face 0, .face 1], exits, [], [], [], 0⟩ }
def pairMod (w : Word) (w1 : Option (Nat × Bool)) (exits : List (Core × Nat)) : Mod :=
  { coreBase with faces := [runFace w, { face0 1 with cmd := some 7, st := 1, wait := w1 }], cmds := [pairCmd exits] }
def exitW (op : Nat) : Word := ((coreInstr (if op = 0 then .exit (.face 0) 0#5 0#5 else if op = 1 then .step 0 0#5 0#5 else .barrier 0 0#5 0#5)).map (·.2)).getD 0#32
theorem witness_CoresIssueTheWordAtTheirPc :
    (∀ c ∈ [Core.face 0, .drill 0 0], issuesOk (.exit c 0#5 1#5) = true) ∧ (coreInstr (.exit (.face 0) 0#5 0#5)).isSome = true ∧
    (let m := faceMod 0#32
     m.sys.quarryOn = true ∧ faceOf m 0 = some (runFace 0#32) ∧ unitState m (.page (facP 0)) ≠ 2 ∧ unitState m (.page (cruP 0)) ≠ 2 ∧
      (runFace 0#32).cmd.isSome = true ∧ (runFace 0#32).doomed = false ∧ (runFace 0#32).wait = none ∧ (runFace 0#32).pc < (runFace 0#32).codeLen ∧
      ¬ ({ runFace 0#32 with pc := 4 } : Face).pc < (runFace 0#32).codeLen ∧ { base.sys with quarryOn := false }.quarryOn = false) ∧
    (let m := coreDrill 0#32
     m.pwr.stall = false ∧ drillOf m 0 0 = some (runDrill 0#32) ∧ unitState m (.drill 0 0) ≠ 2 ∧ (runDrill 0#32).ready = false ∧
      (runDrill 0#32).ended = false ∧ (runDrill 0#32).st = 3 ∧ 0x1000 ≤ (runDrill 0#32).pc ∧ (runDrill 0#32).code[0]? = some 0#32) ∧
    (∀ c ∈ [Core.face 0, .drill 0 0], coreBad c 0xFFFFFFFF#32 = true ∧ coreBad c 0#32 = false ∧ (0#32 : Word) ≠ exitW 0) ∧
    (0 < 8 ∧ (0x20 : Nat) < 256 ∧ (0x1F : Nat) ≠ 0x20 ∧ (faceOf (faceMod 0#32) 1).map (·.cmd) = some (some 7) ∧ (runFace 0#32).xfers = []) ∧
    (let m := pairMod (exitW 0) none []
     issuesOk (.exit (.face 0) 0#5 0#5) = true ∧ coreWord m (.face 0) = some (some (exitW 0)) ∧ cmdOf m 7 = some (pairCmd []) ∧
      [Core.face 0, .face 1].filter (· != .face 0) ≠ [] ∧ (∀ g ∈ m.faces, g.cmd = some 7 → g.id ≠ 0 → g.wait = none) ∧
      ((faceOf (pairMod (exitW 0) (some (0, true)) []) 1).map (·.wait.isSome)) = some true) ∧
    (∀ op ∈ [1, 2], let m := pairMod (exitW op) none []
      coreWord m (.face 0) = some (some (exitW op)) ∧ coreBad (.face 0) (exitW op) = false ∧ (m.faces.map (·.id)).Nodup ∧
      cmdOf (pairMod (exitW op) none [(.face 2, 0)]) 7 = some (pairCmd [(.face 2, 0)]) ∧
      (faceOf m 1).map (·.wait) ≠ some (some (0, decide (op = 1))) ∧
      ∀ g ∈ (pairMod (exitW op) (some (0, decide (op = 1))) []).faces, g.id ≠ 0 → g.wait = some ((runFace (exitW op)).pc, decide (op = 1))) := by
  refine ⟨by decide +kernel, by decide +kernel, by decide +kernel, by decide +kernel, by decide +kernel, by decide +kernel, by decide +kernel, by decide +kernel⟩

/-- The operand bits of a tensor instruction. -/
def tw (a b set z p q : Nat) : BitVec 26 := BitVec.ofNat 26 (a * 2 ^ 22 + b * 2 ^ 18 + set * 2 ^ 17 + z * 2 ^ 16 + p * 2 ^ 11 + q * 2 ^ 6)
/-- A local tensor of one row of two fp32 elements, an int8 one with its scale record, and one in device memory. -/
def tdOut : TDesc := { tdZero 0 with base := 2 ^ 63 + 0x1000, rows := 1, cols := 2, stride := 32 }
def tdInt : TDesc := { tdOut with fmt := 8, base := 2 ^ 63 + 0x2000, scales := 2 ^ 63 + 0x3000, stride := 256 }
def tdDev : TDesc := { tdOut with base := 2 ^ 36 }
def entryInt : ScaleEntry := ⟨8, false, false, false, false, false, 1, 0, 0x3F800000#32, 0#32, 0, 0, 0, 0, true⟩
/-- x1: an epilogue of zeros; x2: a descriptor; x3: a K-split descriptor; x4: a length; x5: no device address; x6: a page of bench 1. -/
def tensorX : List DWord :=
  ([0, localA, localA + 0x200, ksD, 64, 2 ^ 46, 2 ^ 36, localA + 8, localA + 0x300, localA + 0x400].map (BitVec.ofNat 64)) ++ List.replicate 22 0#64
def descBytes (fmt rows : Nat) : List Byte := toBytes (2 ^ 63 + 0x1000) 8 ++ toBytes rows 2 ++ toBytes 2 2 ++ toBytes 32 4 ++ toBytes fmt 1 ++ List.replicate 15 0#8
def tensorFace (w : Word) : Face :=
  let st := cellsSet [] 0 (toBytes w.toNat 4)
  { runFace w with x := tensorX, td := [(0, tdOut), (1, tdInt), (2, { tdInt with t0 := 1 }), (3, tdDev), (4, { tdInt with entry := 5 })]
                   store := cellsSet (cellsSet (cellsSet st 0x300 (descBytes 0 1)) 0x400 (descBytes 10 1)) 0x500 (descBytes 0 0) }
def tensorCmd : Cmd := { runCmd 0x40 with run := some ⟨true, [.face 0], [], [entryInt], [], [], 0⟩ }
def tensorMod (f : Face) : Mod := { ksMod 0 with sys := coreBase.sys, faces := [f], cmds := [tensorCmd], fab := fabMod.fab }
def tIssues (i : Instr) : Bool := match coreInstr i with
  | some (c, w) => decide (coreWord (tensorMod (tensorFace w)) c = some (some w)) && !coreBad c w
  | none => false
/-- A write lease on, and an uncorrectable granule in, the page of bench 1. -/
def leasedMod (f : Face) : Mod := { tensorMod f with velom := { base.velom with leases := [⟨2 ^ 36 / 64, 2⟩] } }
def hurtMod (f : Face) : Mod := { tensorMod f with mem := { (ksMod 0).mem with ue := [2 ^ 36] } }
def tensorInstrs : List Instr :=
  [.tdesc 0 (tw 15 0 0 0 2 0), .torg 0 (tw 0 0 0 0 4 4), .tmma 0 (tw 0 0 1 1 0 4), .tdrain 0 ⟨tw 0 0 0 0 1 0, none⟩, .tstat 0 (tw 0 0 1 0 0 31),
    .tpart 0 ⟨tw 0 0 0 0 3 10, none⟩, .tfin 0 ⟨tw 0 0 0 0 3 1, none⟩, .xfer 0 1#5 6#5 4#5 0#11, .xwait 0 (tw 0 0 0 0 0 0)]
theorem witness_TensorInstructionsAccumulateAndDrain :
    (∀ i ∈ tensorInstrs, tIssues i = true) ∧
    (let f := tensorFace 0#32
     faceOf (tensorMod f) 0 = some f ∧ f.x.length = 32 ∧ f.acc.length = 2 ∧ f.cmd = some 7 ∧ (accOf f 0).drain = false ∧
      (accOf { f with acc := [{ acc0 with drain := true }, acc0] } 0).drain = true ∧ f.st ≠ 3 ∧ { f with st := 3 }.st = 3) ∧
    (let f := tensorFace 0#32
     let m := tensorMod f
     let good := faceRead m f (faceX f 2) 32
     faceAccess m (faceX f 2) 32 1 = none ∧ leaseWaits m (faceX f 2) 32 = false ∧ readHurt m (faceX f 2) 32 = false ∧ faceAccess m (faceX f 5) 32 1 = some 0x11 ∧
      leaseWaits (leasedMod f) (faceX f 6) 32 = true ∧ readHurt (hurtMod f) (faceX f 6) 32 = true ∧ leaseWaits (hurtMod f) (faceX f 6) 32 = false ∧
      faceAccess m (faceX f 6) 32 1 = none ∧ u good 16 1 % 16 ≤ 9 ∧ ¬ (u good 12 4 % 32 ≠ 0 ∨ u good 8 2 = 0 ∨ u good 10 2 = 0 ∨ 32 ≤ u good 16 1 ∨ u good 20 4 ≠ 0) ∧
      9 < u (faceRead m f (faceX f 8) 32) 16 1 % 16 ∧ u (faceRead m f (faceX f 9) 32) 8 2 = 0) ∧
    (let f := tensorFace 0#32
     let m := tensorMod f
     operandBad m f (faceTd f 0) 0 = none ∧ operandBad m f (faceTd f 1) 0 = none ∧ operandBad m f (faceTd f 4) 0 = some 0x04 ∧
      (∀ t ∈ [0, 1], tensorHurt m (faceTd f t) = false ∧ ∀ r ∈ tensorRanges (faceTd f t), leaseWaits m r.1 r.2 = false) ∧
      (∃ r ∈ tensorRanges (faceTd f 3), leaseWaits (leasedMod f) r.1 r.2 = true) ∧ tensorHurt (hurtMod f) (faceTd f 3) = true ∧
      operandBad (leasedMod f) f (faceTd f 3) 0 = none ∧ operandBad (hurtMod f) f (faceTd f 3) 0 = none ∧
      tagFault m f (faceTd f 1) (groupsOf (faceTd f 1) 0 64 0 32) = none ∧ tagFault m f (faceTd f 2) (groupsOf (faceTd f 2) 0 64 0 32) = some (1, 0, 0)) ∧
    (let f := tensorFace 0#32
     let m := tensorMod f
     outBad m f (faceTd f 0) (faceX f 1) = none ∧ outBad m f (faceTd f 0) (faceX f 7) = some 0x07 ∧ outBad m f (faceTd f 1) (faceX f 1) = none ∧
      outSkew f 0 (some ⟨1, 2, 0⟩) = none ∧ outSkew f 1 (some ⟨1, 2, 0⟩) = some ⟨1, 2, 0⟩ ∧ (faceTd f 0).fmt ≤ 2 ∧
      fmtBits (faceTd f 0).fmt / 8 * (faceTd f 0).cols ≤ (faceTd f 0).stride ∧ inTensor (faceTd f 0) (stored (faceTd f 0) 0 1) = true) := by
  refine ⟨by decide +kernel, by decide +kernel, by decide +kernel, by decide +kernel, by decide +kernel⟩
theorem witness_TensorInstructionsAccumulateAndDrain_split :
    (let f := tensorFace 0#32
     let m := tensorMod f
     let d := faceX f 3
     isLocal d = false ∧ isLocal (faceX f 1) = true ∧ faceAccess m d 144 1 = none ∧ faceAccess m (faceX f 5) 144 1 = some 0x11 ∧ isLocal (faceX f 5) = false ∧
      ksBad m d = false ∧ ksBad m (faceX f 6) = true ∧ f.rank < ksCount m d ∧ ksCount m d ≤ ({ f with rank := 2 } : Face).rank ∧
      bitAt (ksBitmap m d) f.rank = false ∧ bitAt (ksBitmap (ksMod 1) d) 0 = true ∧
      (none : Option Nat) ≠ some 9 ∧ some 5 = m.fab.node ∧ some 9 ≠ m.fab.node ∧ bits d 46 17 = 0 ∧ bits (faceX f 5) 46 17 ≠ 0 ∧ base.fab.node = none ∧
      readHurt m (ksTarget m d) 16384 = false ∧ readHurt (hurtMod f) (ksTarget m d) 16384 = true ∧ (∀ p ∈ m.svc, ¬ (ksTarget m d ≤ p.addr ∧ p.addr < ksTarget m d + 16384)) ∧
      (∃ p ∈ [svcA 0], ksTarget m d ≤ p.addr ∧ p.addr < ksTarget m d + 16384)) ∧
    (let f := tensorFace 0#32
     let m := tensorMod f
     faceX f 4 % 32 = 0 ∧ ((faceAccess m (faceX f 6) (faceX f 4) 32).orElse fun _ => faceAccess m (faceX f 2) (faceX f 4) 32) = none ∧
      ((faceAccess m (faceX f 6) (faceX f 4) 32).orElse fun _ => faceAccess m (faceX f 7) (faceX f 4) 32) = some 0x10 ∧ (localA : Nat) % 32 = 0 ∧ (1 : Nat) % 32 ≠ 0) ∧
    (let x : Nat × Nat × Nat := (2 ^ 36, localA, 64)
     let f : Face := { tensorFace 0#32 with xfers := [x] }
     f.xfers = [(2 ^ 36, localA, 64)] ∧ faceAccess (tensorMod f) localA 64 32 = none ∧ leaseWaits (leasedMod f) x.1 x.2.2 = true ∧
      readHurt (hurtMod f) x.1 x.2.2 = true ∧ leaseWaits (tensorMod f) x.1 x.2.2 = false ∧ readHurt (tensorMod f) x.1 x.2.2 = false) := by decide +kernel
theorem witness_TensorInstructionsAccumulateAndDrain_room :
    let f := tensorFace 0#32
    ksRoom (tensorMod f) (tileAdds (tensorMod f) (ksTarget (tensorMod f) ksD) (accOf f 0).tile f.cmd) = true :=
  (witness_FlashBuffersAndAddsTakeEffect_room _ (some 7)).2

/-- The operand bits of a Q and of an M instruction. -/
def qw (d s1 s2 pred fn : Nat) : BitVec 26 := BitVec.ofNat 26 (d * 2 ^ 22 + s1 * 2 ^ 18 + s2 * 2 ^ 14 + pred * 2 ^ 12 + fn)
def mw (q bk rs imm : Nat) : BitVec 26 := BitVec.ofNat 26 (q * 2 ^ 22 + bk * 2 ^ 19 + rs * 2 ^ 14 + imm)
/-- Drill 60 of stack 0, whose slice holds page 2 ^ 20; its region is the first 128 bytes; q1 holds indices past the scan table;
three lists in scratch, of which one is whole. -/
def sliceDrill (w : Word) : Drill :=
  { runDrill w with n := 60, region := (2 ^ 36, 128), b := [(0, 2 ^ 36)], q := [(1, List.replicate 16 0x100000#32)]
                    r := ([0, 0x100, 2, 0x10000, 0x80F8, 0x7FFC, 0x7000, 0x7F00, 0x8000, 0x40].map (BitVec.ofNat 32)) ++ List.replicate 22 0#32
                    scratch := cellsSet (cellsSet (cellsSet [] 0x40 [2#8, 0#8, 1#8, 0#8]) 0x7000 [0#8, 2#8]) 0x7F00 [0x11#8, 0#8] }
def sliceMod (d : Drill) : Mod := { coreBase with drills := [d], mem := { mem0 with map := [page1] } }
def sIssues (i : Instr) : Bool := match coreInstr i with
  | some (c, w) => decide (coreWord (sliceMod (sliceDrill w)) c = some (some w)) && !coreBad c w
  | none => false
theorem witness_DrillInstructionsComputeAndAccessTheirSlice :
    (∀ i ∈ [0, 1, 2, 3, 4, 5, 0x10, 0x12].map (fun f => Instr.qarith 0 60 (qw 1 2 15 3 f)) ++ [.qfunc 0 60 (qw 15 0 0 0 0)] ++
      [0, 1, 2].map (fun f => .qcmp 0 60 (qw 3 1 2 0 f)) ++ [0, 1, 0x800, 0x801].map (fun f => .qred 0 60 (qw 15 1 0 0 f)) ++
      [0, 1, 2, 3, 9].map (fun f => .qcvt 0 60 ⟨qw 1 2 0 1 f, none⟩) ++ [0, 1, 0x801].map (fun f => .qmov 0 60 (qw 1 15 15 0 f)) ++
      [.bld 0 60 (mw 1 0 0 0) .ok, .bst 0 60 (mw 1 0 0 0), .bstw 0 60 (mw 1 0 0 0x3FFF) .ok, .qld 0 60 (mw 1 0 0 0), .qst 0 60 (mw 1 0 0 0), .qtbl 0 60 (qw 1 0 0 0 0),
        .lins 0 60 9#5 0#5 31#5 0#11],
      sIssues i = true) ∧
    (let d := sliceDrill 0#32
     drillOf (sliceMod d) 0 60 = some d ∧ d.r.length = 32 ∧ (∀ e ∈ d.q, e.2.length = 16) ∧ (∀ e ∈ d.p, e.2.length = 16) ∧
      isScaled (qFunct (qw 1 2 0 1 9)) = true ∧ isScaled (qFunct (qw 1 2 0 1 2)) = false ∧ qFunct (qw 15 1 0 0 0x801) % 2048 = 1) ∧
    (let d := sliceDrill 0#32
     let at' (w : BitVec 26) (i : Nat) : Nat := drillR d (qS2 w + 16) + 2 * ((drillQ d (qS1 w)).getD i 0#32).toNat
     (∀ i ∈ List.range 16, ¬ 0x200000 < at' (qw 1 0 0 0 0) i + 2) ∧ 0x200000 < at' (qw 1 1 0 0 0) 15 + 2 ∧ (drillP d (qPred (qw 1 1 0 0 0))).getD 15 false = true) ∧
    (let d := sliceDrill 0#32
     let m := sliceMod d
     let addr (w : BitVec 26) (k : Int) : Nat := (((drillB d (mBk w) : Int) + drillR d (mRs w) + k * mImm w) % 70368744177664).toNat
     let a := addr (mw 1 0 0 0) 32
     a = 2 ^ 36 ∧ a % 32 = 0 ∧ sliceOf m a = some (0, 60) ∧ sliceOf m (a + 63) = some (0, 60) ∧ pageNo a ∉ m.mem.retiredPg ∧
      regionBase d ≤ a ∧ a + 64 ≤ regionBase d + regionLen d ∧ ¬ addr (mw 1 0 1 0) 32 + 64 ≤ regionBase d + regionLen d ∧
      sliceOf m (addr (mw 1 0 1 0) 32 + 63) = some (0, 60) ∧ addr (mw 1 0 2 0) 32 % 32 ≠ 0 ∧ addr (mw 1 0 2 0) 4 % 4 ≠ 0 ∧
      sliceOf m (addr (mw 1 0 3 0) 32) ≠ some (0, 60) ∧ pageNo (addr (mw 1 0 3 0) 32) ∉ m.mem.retiredPg ∧ addr (mw 1 0 0 0x3FFF) 32 = a - 32 ∧
      pageNo a ∈ ({ mem0 with retiredPg := [2 ^ 20] } : Mem).retiredPg ∧ eccAt m a .uncorrectable = .uncorrectable ∧ eccAt m a .corrected = .corrected ∧
      eccAt m a .ok ≠ .uncorrectable ∧ a + 32 ∉ m.mem.ue ∧ a + 32 ∈ ({ mem0 with ue := [2 ^ 36 + 32] } : Mem).ue) ∧
    (let d := sliceDrill 0#32
     let a (w : BitVec 26) : Nat := (((drillR d (mRs w) : Int) + 64 * mImm w) % 4294967296).toNat
     0x8100 < a (mw 1 0 4 0) + 64 ∧ a (mw 1 0 0 1) = 64 ∧ a (mw 1 0 8 0) = 0x8000 ∧ a (mw 1 0 8 2) = 0x8080 ∧ a (mw 1 0 2 0) % 64 ≠ 0) ∧
    (let d := sliceDrill 0#32
     let cap (a : Nat) : Nat := ofBytes (scratchRead d a 2)
     let a (r : BitVec 5) : Nat := drillR d r.toNat
     a 2#5 % 4 ≠ 0 ∧ ¬ 0x8100 < a 5#5 + 8 ∧ 0x8000 < a 5#5 + 8 ∧ a 5#5 < 0x8080 ∧ 0x8100 < a 6#5 + (8 + 16 * cap (a 6#5)) ∧ a 6#5 + 8 ≤ 0x8000 ∧
      ¬ 0x8100 < a 7#5 + (8 + 16 * cap (a 7#5)) ∧ 0x8000 < a 7#5 + (8 + 16 * cap (a 7#5)) ∧ cap (a 9#5) = 2 ∧ a 9#5 % 4 = 0 ∧
      ofBytes (scratchRead d (a 9#5 + 2) 2) = 1 ∧ [readLEnt d (a 9#5 + 8)].Pairwise (fun p q => lentLt q p = false) ∧ cap 0x44 = 0 ∧
      lentLt (0#32, 0#64, 0#32) (readLEnt d (a 9#5 + 8)) = false ∧ lentLt (readLEnt d (a 9#5 + 8)) (0x3F800000#32, 9#64, 0#32) = true) := by
  refine ⟨by decide +kernel, by decide +kernel, by decide +kernel, by decide +kernel, by decide +kernel, by decide +kernel⟩

/-- A module whose memories, cores and buffers hold something, in their forms, and a step of it. -/
def wholeMod : Mod :=
  { sliceMod (sliceDrill 0#32) with faces := [tensorFace 0#32], snaps := [tensorFace 0#32], scanTab := [(0, [(4, 5#8)])]
                                    mem := { mem0 with map := [page1, ⟨2 ^ 20 + 1, 2, 9, false, false, false, 0⟩], cells := [(2 ^ 36, 7#8)], wb := [⟨(2 ^ 20 + 1) * 16, [(0, List.replicate 32 7#8)], 4⟩], wbSeq := 5 } }
theorem witness_EveryStepKeepsTheMemoriesInTheirForm :
    memoriesWf wholeMod ∧ coresWhole wholeMod ∧ buffersWhole wholeMod ∧ ∃ t, step ⟨[.transitionResume], wholeMod⟩ = .next t := by
  refine ⟨?_, ?_, ?_, _, rfl⟩
  · unfold memoriesWf; decide +kernel
  · unfold coresWhole; decide +kernel
  · refine ⟨⟨by unfold wbSound; decide +kernel, fun w hw => ?_⟩, by decide +kernel⟩
    rw [List.mem_singleton.mp hw]
    exact ⟨by decide, _, rfl, rfl⟩
theorem witness_EveryStepKeepsCoresAndBuffersWhole :
    coresWhole wholeMod ∧ buffersWhole wholeMod ∧ ∃ t, step ⟨[.transitionResume], wholeMod⟩ = .next t :=
  witness_EveryStepKeepsTheMemoriesInTheirForm.2

end Sys2Proof.Tests
end

/-! What a command's `exec` leaves alone, and the commands of the register window and of the host's demands as operations on
the module. -/

namespace Sys2Proof.Proofs

open Sys2Proof Sys2Proof.Machine Sys2Proof.Laws

/-- Each arm of `exec` ends in a next state and writes the module part alone: no arm faults, none is refused, none reaches the
queue. -/
theorem exec_next_of_module (c : Instr) (s : State) : ∃ m, exec c s = .next { s with mod := m } := by
  cases c <;> exact ⟨_, rfl⟩

/-- Settles O2: `exec` answers a next state of the same queue for every command. -/
theorem noCommandStopsTheModule : Obligations.NoCommandStopsTheModule := by
  intro c s
  obtain ⟨m, hm⟩ := exec_next_of_module c s
  exact ⟨_, hm, rfl⟩

/-- `Gives` of a command whose effect on the module is known. -/
theorem gives_iff {c : Instr} {s : State} {m : Mod} (h : exec c s = .next { s with mod := m }) (P : Mod → Prop) :
    Gives c s P ↔ P m := by
  constructor
  · rintro ⟨t, ht, -, hp⟩
    rw [h] at ht
    cases ht
    exact hp
  · exact fun hp => ⟨_, h, rfl, hp⟩

section
variable (s : State) (P : Mod → Prop)

@[simp] theorem gives_registerWrite (off : BitVec 28) (v : Word) :
    Gives (.registerWrite off v) s P ↔ P (regWrite s.mod off.toNat v) := gives_iff rfl P
@[simp] theorem gives_rcRead (a : RegAsk) : Gives (.rcRead a) s P ↔ P (regRead s.mod a.who a.off.toNat).2 := gives_iff rfl P
@[simp] theorem gives_loRead (a : RegAsk) : Gives (.loRead a) s P ↔ P (regRead s.mod a.who a.off.toNat).2 := gives_iff rfl P
@[simp] theorem gives_blkErrLogLoRead (a : LogAsk) :
    Gives (.blkErrLogLoRead a) s P ↔ P (latchErr s.mod a.who a.page) := gives_iff rfl P
@[simp] theorem gives_wlkCfgWrite (die inst : Nat) (v : Word) :
    Gives (.wlkCfgWrite die inst v) s P ↔ P (wlkWrite s.mod die inst v) := gives_iff rfl P
@[simp] theorem gives_blkEvtPendWrite (p : Page) (en : Bool) (v : Word) :
    Gives (.blkEvtPendWrite p en v) s P ↔ P (evtWrite s.mod p en v) := gives_iff rfl P
@[simp] theorem gives_blockEventRise (p : Page) : Gives (.blockEventRise p) s P ↔ P (sampleEvt s.mod p) := gives_iff rfl P
@[simp] theorem gives_tckReset (c : Byte) : Gives (.tckReset c) s P ↔ P (tckReset s.mod c.toNat) := gives_iff rfl P
@[simp] theorem gives_ldgReplayAck (v : Word) : Gives (.ldgReplayAck v) s P ↔ P (replayAck s.mod) := gives_iff rfl P
@[simp] theorem gives_load (tag : BitVec 16) (a : DWord) (z : BitVec 2) (e : Ecc) :
    Gives (.load tag a z e) s P ↔ P (hostDemand s.mod (.load tag.toNat a.toNat (64 * (z.toNat + 1)) e)) := gives_iff rfl P
@[simp] theorem gives_loadLease (tag : BitVec 16) (a : DWord) (w : BitVec 2) (e : Ecc) :
    Gives (.loadLease tag a w e) s P ↔ P (leaseOp s.mod tag.toNat a.toNat w.toNat e) := gives_iff rfl P
@[simp] theorem gives_store (tag : BitVec 16) (a : DWord) (d : List (BitVec 128)) :
    Gives (.store tag a d) s P ↔ P (storeLines s.mod tag.toNat a.toNat d) := gives_iff rfl P
@[simp] theorem gives_storeMask (tag : BitVec 16) (a : DWord) (en : BitVec 64) (l : BitVec 512) (e : Ecc) :
    Gives (.storeMask tag a en l e) s P ↔ P (storeMasked s.mod tag.toNat a.toNat en.toNat l.toNat e) := gives_iff rfl P
@[simp] theorem gives_regRd (tag : BitVec 16) (a : DWord) (w : Nat) :
    Gives (.regRd tag a w) s P ↔ P (hostDemand s.mod (.regRd tag.toNat a.toNat w)) := gives_iff rfl P
@[simp] theorem gives_regWr (tag : BitVec 16) (a : DWord) (w : Nat) (v : Word) :
    Gives (.regWr tag a w v) s P ↔ P (hostDemand s.mod (.regWr tag.toNat a.toNat w v)) := gives_iff rfl P

end

/-! Register addresses (R462, R614): a page and an offset below 4096 make a window address, and no two make the same one. -/

/-- A block whose instances fill two block numbers (Table RP-1). -/
def wideBlk (b : Blk) : Bool := b = .fac || b = .cru || b = .flc || b = .dft

theorem blkCount_le_16 {b : Blk} (h : wideBlk b = false) (d : Nat) : blkCount b d ≤ 16 := by
  cases b <;> simp [wideBlk] at h <;> simp only [blkCount] <;> split_ifs <;> omega

theorem blkCount_le_32 (b : Blk) (d : Nat) : blkCount b d ≤ 32 := by
  cases b <;> simp only [blkCount] <;> split_ifs <;> omega

theorem die_lt_of_blkCount_pos {b : Blk} {d : Nat} (h : 0 < blkCount b d) : d < 16 := by
  by_contra hd
  have hq : isQuarry d = false := by simp [isQuarry]; omega
  have hh : isHub d = false := by simp [isHub]; omega
  have hb : isBase d = false := by simp [isBase]; omega
  cases b <;> simp [blkCount, hq, hh, hb] at h

/-- The block that owns the number `blkNum b + k`. -/
theorem find_blkNum (b : Blk) (k : Nat) (hk : k = 0 ∨ k = 1 ∧ wideBlk b = true) :
    (allBlks.find? fun c => decide (blkNum c = blkNum b + k) ||
      (((decide (c = .fac) || decide (c = .cru) || decide (c = .flc) || decide (c = .dft))) && decide (blkNum c + 1 = blkNum b + k))) =
      some b := by
  rcases hk with rfl | ⟨rfl, hw⟩
  · cases b <;> rfl
  · cases b <;> first | rfl | simp [wideBlk] at hw

/-- A window address is put together from its die, block, number and offset (R462). -/
theorem address_of_fields (off : Nat) :
    bits off 24 4 * 2 ^ 24 + (bits off 16 8 * 2 ^ 16 + bits off 12 4 * 2 ^ 12) + off % 4096 = off % 2 ^ 28 := by
  simp only [bits]; omega

/-- The page that an offset names once its block is known. -/
theorem pageAt_of_blk {off : Nat} {b : Blk}
    (h : (allBlks.find? fun c => decide (blkNum c = bits off 16 8) ||
      (((decide (c = .fac) || decide (c = .cru) || decide (c = .flc) || decide (c = .dft))) && decide (blkNum c + 1 = bits off 16 8))) =
      some b) {i : Nat} (hi : (if blkNum b = bits off 16 8 then bits off 12 4 else bits off 12 4 + 16) = i) :
    pageAt off = if pageOk ⟨bits off 24 4, b, i⟩ then some (⟨bits off 24 4, b, i⟩, off % 4096) else none := by
  unfold pageAt
  simp only [h, hi]

theorem pageAt_some {off : Nat} {p : Page} {r : Nat} (h : pageAt off = some (p, r)) :
    pageOk p = true ∧ r = off % 4096 ∧ pageBase p + r = off % 2 ^ 28 := by
  cases hb : allBlks.find? fun c => decide (blkNum c = bits off 16 8) ||
      (((decide (c = .fac) || decide (c = .cru) || decide (c = .flc) || decide (c = .dft))) && decide (blkNum c + 1 = bits off 16 8)) with
  | none => simp [pageAt, hb] at h
  | some b =>
    have hn := List.find?_some hb
    simp only [Bool.or_eq_true, Bool.and_eq_true, decide_eq_true_eq] at hn
    generalize hi : (if blkNum b = bits off 16 8 then bits off 12 4 else bits off 12 4 + 16) = i
    rw [pageAt_of_blk hb hi, Option.ite_none_right_eq_some, Option.some.injEq, Prod.mk.injEq] at h
    obtain ⟨hok, rfl, rfl⟩ := h
    refine ⟨hok, rfl, ?_⟩
    have hnum : bits off 16 8 * 2 ^ 16 + bits off 12 4 * 2 ^ 12 = blkNum b * 2 ^ 16 + i * 2 ^ 12 := by
      split at hi <;> omega
    rw [← address_of_fields off, hnum, pageBase, Nat.add_assoc (bits off 24 4 * 2 ^ 24)]

/-- The fields of a window address. -/
theorem bits_pageBase {p : Page} {r : Nat} (hd : p.die < 16) (hi : p.inst < 32) (hr : r < 4096) :
    bits (pageBase p + r) 24 4 = p.die ∧ bits (pageBase p + r) 16 8 = blkNum p.blk + p.inst / 16 ∧
    bits (pageBase p + r) 12 4 = p.inst % 16 ∧ (pageBase p + r) % 4096 = r := by
  have hb : blkNum p.blk ≤ 0x19 := by cases p.blk <;> decide
  simp only [bits, pageBase]
  refine ⟨?_, ?_, ?_, ?_⟩ <;> omega

theorem pageAt_pageBase {p : Page} {r : Nat} (hp : pageOk p = true) (hr : r < 4096) : pageAt (pageBase p + r) = some (p, r) := by
  have hi : p.inst < blkCount p.blk p.die := by simpa [pageOk] using hp
  have hd : p.die < 16 := die_lt_of_blkCount_pos (Nat.zero_lt_of_lt hi)
  have hi32 : p.inst < 32 := lt_of_lt_of_le hi (blkCount_le_32 _ _)
  have hk : p.inst / 16 = 0 ∨ p.inst / 16 = 1 ∧ wideBlk p.blk = true := by
    cases hw : wideBlk p.blk
    · exact .inl (Nat.div_eq_of_lt (lt_of_lt_of_le hi (blkCount_le_16 hw p.die)))
    · exact (by omega : p.inst / 16 = 0 ∨ p.inst / 16 = 1).imp_right fun h => ⟨h, rfl⟩
  have hinst : (if blkNum p.blk = blkNum p.blk + p.inst / 16 then p.inst % 16 else p.inst % 16 + 16) = p.inst := by
    split <;> omega
  obtain ⟨hdie, hnum, hlow, hoff⟩ := bits_pageBase hd hi32 hr
  have hfind := find_blkNum p.blk (p.inst / 16) hk
  rw [← hnum] at hfind
  rw [← hnum, ← hlow] at hinst
  rw [pageAt_of_blk hfind hinst, hdie, hoff]
  exact if_pos hp

theorem regAddr_inj {p q : Page} {r k : Nat} (hp : pageOk p = true) (hq : pageOk q = true) (hr : r < 4096) (hk : k < 4096)
    (h : pageBase p + r = pageBase q + k) : p = q ∧ r = k := by
  have := pageAt_pageBase hp hr
  rw [h, pageAt_pageBase hq hk] at this
  simpa [eq_comm] using this

/-- Registers of different offsets within their pages are different, whatever their pages. -/
theorem regAddr_ne_of_offset {p q : Page} {r k : Nat} (h : r % 4096 ≠ k % 4096) : pageBase p + r ≠ pageBase q + k := by
  simp only [pageBase]; omega

/-! What each register operation leaves a register at. -/

theorem getReg_of_vals {m t : Mod} (h : t.regs.vals = m.regs.vals) (p : Page) (r : Nat) : getReg t p r = getReg m p r := by
  simp only [getReg, h]

section
variable (m : Mod) (p q : Page) (r k : Nat)

@[simp] theorem getReg_noteSet (w : Word) : getReg (noteSet m p r w) q k = getReg m q k := rfl
@[simp] theorem getReg_sendMsg (x : Msg) : getReg (sendMsg m x) q k = getReg m q k := rfl
@[simp] theorem getReg_setLost (n : Nat) : getReg (setLost m p r n) q k = getReg m q k := rfl

theorem getReg_raiseBits (w : Word) : getReg (raiseBits m p r w) p r = getReg m p r ||| w := getReg_setReg_self ..

theorem setNow_raiseBits (w : Word) : setNow (raiseBits m p r w) p r = setNow m p r ||| w := mapGet_mapSet_self ..

variable {p q r k} (h : pageBase q + k ≠ pageBase p + r)
include h

theorem getReg_setReg_ne (v : Word) : getReg (setReg m p r v) q k = getReg m q k := by rw [getReg_setReg, if_neg h]
theorem getReg_setRegN_ne (v : Nat) : getReg (setRegN m p r v) q k = getReg m q k := getReg_setReg_ne m h _
theorem getReg_bump_ne (n : Nat) : getReg (bump m p r n) q k = getReg m q k :=
  (getReg_setRegN_ne (noteUp m p r n) h _).trans (getReg_of_vals rfl q k)
theorem getReg_readCounter_ne : getReg (readCounter m p r) q k = getReg m q k :=
  (getReg_setLost ..).trans (getReg_setRegN_ne m h _)

end

theorem getReg_pend_ne {p q : Page} {k : Nat} (m : Mod) (b : Nat) (h : pageBase q + k ≠ pageBase p + 0x14) :
    getReg (pend m p b) q k = getReg m q k := by
  unfold pend raiseBits
  rw [getReg_setReg, if_neg h, getReg_noteSet]

theorem regN_bump_ne {p q : Page} {r k : Nat} (m : Mod) (n : Nat) (h : pageBase q + k ≠ pageBase p + r) :
    regN (bump m p r n) q k = regN m q k := congrArg _ (getReg_bump_ne m h n)

/-! Alerts and error records. -/

@[simp] theorem sendIbi_regs (m : Mod) (b : Byte) : (sendIbi m b).regs = m.regs := by unfold sendIbi; split <;> rfl
@[simp] theorem sendIbi_alert (m : Mod) (b : Byte) : (sendIbi m b).mgt.alert = m.mgt.alert := by unfold sendIbi; split <;> rfl
@[simp] theorem platEvent_regs (m : Mod) (i v : Nat) : (platEvent m i v).regs = m.regs := by
  unfold platEvent; split <;> simp
theorem alert_vals (m : Mod) (b : Nat) : (alert m b).regs.vals = m.regs.vals := by
  unfold alert; rw [sendIbi_regs]; split <;> rfl

/-- An error record changes registers and the management controller alone. -/
theorem sendIbi_frame (m : Mod) (b : Byte) : sendIbi m b = { m with mgt := (sendIbi m b).mgt } := by
  unfold sendIbi; split <;> rfl

theorem alert_frame (m : Mod) (b : Nat) : alert m b = { m with regs := (alert m b).regs, mgt := (alert m b).mgt } := by
  unfold alert; rw [sendIbi_frame]; split <;> rfl

theorem platEvent_frame (m : Mod) (i v : Nat) : platEvent m i v = { m with mgt := (platEvent m i v).mgt } := by
  unfold platEvent; rw [sendIbi_frame]; split <;> rfl

end Sys2Proof.Proofs

/-! What an error record changes, and what a write to a register does by the register's access code. -/

namespace Sys2Proof.Proofs

open Sys2Proof Sys2Proof.Machine Sys2Proof.Laws

/-- `t` is `m` after work on page `p`'s error record: registers and the management controller may differ, and of the register
values only the page's error counter and pending causes. -/
def LogsOn (p : Page) (m t : Mod) : Prop :=
  t = { m with regs := t.regs, mgt := t.mgt } ∧
  ∀ q k, pageBase q + k ≠ pageBase p + 0x20 → pageBase q + k ≠ pageBase p + 0x14 → getReg t q k = getReg m q k

namespace LogsOn

variable {p : Page} {m t u : Mod}

theorem refl (p : Page) (m : Mod) : LogsOn p m m := ⟨rfl, fun _ _ _ _ => rfl⟩

theorem trans (h : LogsOn p m t) (g : LogsOn p t u) : LogsOn p m u := by
  refine ⟨?_, fun q k h20 h14 => (g.2 q k h20 h14).trans (h.2 q k h20 h14)⟩
  rw [g.1, h.1]

/-- Changes of the management controller, and of the registers beside their values. -/
theorem of_frame (hf : t = { m with regs := t.regs, mgt := t.mgt }) (hv : t.regs.vals = m.regs.vals) : LogsOn p m t :=
  ⟨hf, fun q k _ _ => getReg_of_vals hv q k⟩

theorem bump (p : Page) (m : Mod) : LogsOn p m (bump m p 0x20) := ⟨rfl, fun _ _ h _ => getReg_bump_ne m h 1⟩

theorem pend (p : Page) (m : Mod) (b : Nat) : LogsOn p m (pend m p b) := ⟨rfl, fun _ _ _ h => getReg_pend_ne m b h⟩

theorem alert (p : Page) (m : Mod) (b : Nat) : LogsOn p m (alert m b) := of_frame (alert_frame m b) (alert_vals m b)

theorem platEvent (p : Page) (m : Mod) (i v : Nat) : LogsOn p m (platEvent m i v) :=
  of_frame (by rw [platEvent_regs]; exact platEvent_frame m i v) (by rw [platEvent_regs])

theorem logErrC (m : Mod) (p : Page) (cls code d : Nat) (g : Bool) : LogsOn p m (logErrC m p cls code d g) := by
  unfold Machine.logErrC
  extract_lets r m1 m2 m3 mgt m4
  have h2 : LogsOn p m m2 := (bump p m).trans (of_frame rfl rfl)
  have hgate : LogsOn p m2 (if g = true then Machine.pend m2 p 3 else m2) := by
    split
    · exact pend p m2 3
    · exact refl p m2
  have h3 : LogsOn p m2 m3 := by
    unfold m3
    split
    · exact hgate
    · exact hgate
    all_goals exact pend p m2 _
  have h4 : LogsOn p m3 m4 := by
    unfold m4
    split
    · exact of_frame rfl rfl
    · exact refl p m3
  have h : LogsOn p m m4 := h2.trans (h3.trans h4)
  split
  · exact h.trans ((alert p m4 0).trans (platEvent p _ _ _))
  · exact h

end LogsOn

theorem logsOn_logErr (m : Mod) (p : Page) (code d : Nat) (g : Bool) : LogsOn p m (logErr m p code d g) := LogsOn.logErrC ..

/-- A refused write of locked bits is counted, and recorded on its own page (R595). -/
theorem regN_lockViolation {m : Mod} {p : Page} (r : Nat) :
    regN (lockViolation m p r) secP 0x48 = min (regN m secP 0x48 + 1) 0xFFFFFFFF := by
  have hne : ∀ k, k % 4096 ≠ 0x48 → pageBase secP + 0x48 ≠ pageBase p + k := fun k hk => regAddr_ne_of_offset (Ne.symm hk)
  have hlog := (logsOn_logErr (bump m secP 0x48) p 0x1E r true).2 secP 0x48 (hne _ (by decide)) (hne _ (by decide))
  rw [← regN_bump m secP 0x48 1, lockViolation, regN, hlog, regN]

theorem getReg_lockViolation_ne {m : Mod} {p q : Page} {r k : Nat} (hsec : pageBase q + k ≠ pageBase secP + 0x48)
    (h20 : pageBase q + k ≠ pageBase p + 0x20) (h14 : pageBase q + k ≠ pageBase p + 0x14) :
    getReg (lockViolation m p r) q k = getReg m q k := by
  rw [lockViolation, (logsOn_logErr _ p 0x1E r true).2 q k h20 h14, getReg_bump_ne m hsec 1]

/-! The common header's rows stand on every page (Table RP-2). -/

theorem rowAt_ctl (p : Page) : rowAt p 0x0C = some (rw 0x0C 0) := rfl
theorem rowAt_pend (p : Page) : rowAt p 0x14 = some (w1c 0x14 0x7F) := rfl
theorem rowAt_en (p : Page) : rowAt p 0x18 = some (rw 0x18 0x7F 0x57) := rfl

/-! A plain write, by the register's access code (Table SC-3). -/

section
variable {m : Mod} {p : Page} {r : Nat} {v : Word} {w : RegRow}

theorem writePlain_none (h : rowAt p r = none) : writePlain m p r v = m := by simp only [writePlain, h]

theorem writePlain_ro (h : rowAt p r = some w) (hw : w.acc = .ro) : writePlain m p r v = m := by simp only [writePlain, h, hw]

theorem writePlain_w1c (h : rowAt p r = some w) (hw : w.acc = .w1c) :
    writePlain m p r v = setReg m p r (getReg m p r &&& ~~~ (v &&& ~~~ setNow m p r)) := by simp only [writePlain, h, hw]

theorem writePlain_rw (h : rowAt p r = some w) (hw : w.acc = .rw ∨ w.acc = .rwl) :
    writePlain m p r v =
      if fieldsOk p r v.toNat = false then m
      else if m.sec.locked = true ∧ lockMask p r ≠ 0 then
        lockViolation (setRegN m p r ((v.toNat &&& w.mask &&& (0xFFFFFFFF - lockMask p r)) ||| (regN m p r &&& lockMask p r))) p r
      else setRegN m p r (v.toNat &&& w.mask) := by
  rcases hw with hw | hw <;> simp [writePlain, h, hw]

end

/-! Writes of BLK_EVT_PEND and BLK_EVT_EN (R621 to R624). -/

theorem sendEvt_vals (m : Mod) (vec : Nat) : (sendEvt m vec).regs.vals = m.regs.vals := by unfold sendEvt; split <;> rfl

theorem risen_vals (m : Mod) (p : Page) : (risen m p).regs.vals = m.regs.vals := by
  unfold risen
  extract_lets o
  split
  · exact sendEvt_vals ..
  · rfl

theorem getReg_evtWrite (m : Mod) (p q : Page) (en : Bool) (v : Word) (k : Nat) :
    getReg (evtWrite m p en v) q k = getReg (writePlain m p (if en then 0x18 else 0x14) v) q k := by
  apply getReg_of_vals
  unfold evtWrite
  extract_lets t regs
  split
  · exact risen_vals ..
  · rfl

theorem getReg_evtWrite_pend (m : Mod) (p : Page) (v : Word) :
    getReg (evtWrite m p false v) p 0x14 = getReg m p 0x14 &&& ~~~ (v &&& ~~~ setNow m p 0x14) := by
  rw [getReg_evtWrite]
  simp only [Bool.false_eq_true, if_false]
  rw [writePlain_w1c (rowAt_pend p) rfl, getReg_setReg_self]

/-! Which writes are plain. -/

/-- Of the W1C registers MGT_ALERT alone has a write of its own. -/
theorem specialWrite_w1c {p : Page} {r : Nat} {w : RegRow} (m : Mod) (v : Word) (h : rowAt p r = some w) (hw : w.acc = .w1c)
    (hr : ¬ (p.blk = .mgt ∧ r = 0x4C)) : specialWrite m p r v = none := by
  obtain ⟨d, b, i⟩ := p
  have hne : ∀ k x, rowAt ⟨d, b, i⟩ k = some x → x.acc ≠ .w1c → r ≠ k := by
    rintro k x hx hacc rfl
    rw [h] at hx
    cases hx
    exact hacc hw
  have hdrl : b = .drl → ¬ 0x800 ≤ r := by
    rintro rfl hle
    have hnone : rowAt ⟨d, .drl, i⟩ r = none := by
      simp [rowAt, headerRows, blockRows, ro, rw, rc, wo, w1c, rwl]; omega
    rw [hnone] at h
    cases h
  cases b
  case chu => simp [specialWrite, hne 0x40 _ rfl (by decide), hne 0x44 _ rfl (by decide), hne 0x48 _ rfl (by decide)]
  case tck => simp [specialWrite, hne 0x4C _ rfl (by decide)]
  case ldg => simp [specialWrite, hne 0x6C _ rfl (by decide)]
  case wlk => simp [specialWrite, hne 0x40 _ rfl (by decide)]
  case hau => simp [specialWrite, hne 0x5C _ rfl (by decide)]
  case drl => simp [specialWrite, hne 0xA8 _ rfl (by decide), hne 0xAC _ rfl (by decide), hdrl rfl]
  case vlk => simp [specialWrite, hne 0x40 _ rfl (by decide)]
  case sec => simp [specialWrite, hne 0x44 _ rfl (by decide), hne 0x54 _ rfl (by decide), hne 0x5C _ rfl (by decide)]
  case mgt => simp [specialWrite, hne 0x54 _ rfl (by decide), show ¬ r = 0x4C from fun hk => hr ⟨rfl, hk⟩]
  case fab =>
    by_cases hi : i = 12
    · subst hi
      simp [specialWrite, hne 0x68 _ rfl (by decide), hne 0x6C _ rfl (by decide)]
    · have hrow : rowAt ⟨d, .fab, i⟩ 0x40 = some (rw 0x40 0x1 1) := by simp [rowAt, headerRows, blockRows, hi, ro, rw, rc, w1c]
      simp [specialWrite, hi, hne 0x40 _ hrow (by decide)]
  all_goals rfl

/-! Writes of W1C registers against the events of their tick (R8). -/

/-- A write of a W1C register but MGT_ALERT clears what it names and this tick has not set. -/
theorem getReg_regWrite_w1c {off r : Nat} {p : Page} {w : RegRow} (m : Mod) (v : Word) (hat : pageAt off = some (p, r))
    (h : rowAt p r = some w) (hw : w.acc = .w1c) (hr : ¬ (p.blk = .mgt ∧ r = 0x4C)) :
    getReg (regWrite m off v) p r = getReg m p r &&& ~~~ (v &&& ~~~ setNow m p r) := by
  have hctl : r ≠ 0x0C := by rintro rfl; rw [rowAt_ctl] at h; cases h; cases hw
  have hen : r ≠ 0x18 := by rintro rfl; rw [rowAt_en] at h; cases h; cases hw
  simp only [regWrite, hat, hctl, hen, if_false]
  by_cases hpend : r = 0x14
  · subst hpend
    rw [if_pos rfl, getReg_evtWrite_pend]
  · rw [if_neg hpend, specialWrite_w1c m v h hw hr, Option.getD_none, writePlain_w1c h hw, getReg_setReg_self]

theorem and_clear_keeps_set (x v n e : Word) : (x ||| e) &&& ~~~ (v &&& ~~~ (n ||| e)) &&& e = e := by
  ext i hi
  simp
  grind

theorem or_and_self (x e : Word) : (x ||| e) &&& e = e := by
  ext i hi
  simp
  grind

/-! MGT_ALERT. -/

theorem regWrite_alert {off r : Nat} {p : Page} (m : Mod) (v : Word) (hat : pageAt off = some (p, r))
    (hr : p.blk = .mgt ∧ r = 0x4C) : regWrite m off v = alertWrite m v := by
  obtain ⟨hb, rfl⟩ := hr
  simp [regWrite, hat, specialWrite, hb]

theorem bitAt_eq_testBit (v i : Nat) : bitAt v i = v.testBit i := by
  simp [bitAt, Nat.testBit_eq_decide_div_mod_eq]

theorem alert_alert (m : Mod) (b : Nat) : (alert m b).mgt.alert = m.mgt.alert ||| 2 ^ b := by
  unfold alert
  rw [sendIbi_alert]
  split <;> rfl

theorem bitAt_alert (m : Mod) (b : Nat) : bitAt (alert m b).mgt.alert b = true := by
  simp [alert_alert, bitAt_eq_testBit]

theorem setNow_alert (m : Mod) (b : Nat) (h : m.sys.rails = true) :
    setNow (alert m b) mgtP 0x4C = setNow m mgtP 0x4C ||| BitVec.ofNat 32 (2 ^ b) := by
  unfold alert setNow
  rw [sendIbi_regs, if_pos h]
  exact mapGet_mapSet_self ..

/-- A write of MGT_ALERT leaves a cause that is set and that this tick has set. -/
theorem bitAt_alertWrite (m : Mod) (v : Word) (b : Nat) (hb : b < 5) (ha : bitAt m.mgt.alert b = true)
    (hs : (setNow m mgtP 0x4C).getLsbD b = true) : bitAt (alertWrite m v).mgt.alert b = true := by
  rw [bitAt_eq_testBit] at ha ⊢
  have hx : (v &&& ~~~ setNow m mgtP 0x4C).toNat.testBit b = false := by
    rw [BitVec.testBit_toNat, BitVec.getLsbD_and, BitVec.getLsbD_not, hs]
    simp
  unfold alertWrite
  generalize (v &&& ~~~ setNow m mgtP 0x4C).toNat = x at hx
  have hc : (0x1F - x % 32).testBit b = true := by
    rw [show 0x1F - x % 32 = 2 ^ 5 - (x % 2 ^ 5 + 1) by omega, Nat.testBit_two_pow_sub_succ (Nat.mod_lt _ (by decide)),
      Nat.testBit_mod_two_pow, hx]
    simpa using hb
  rw [Nat.testBit_and, ha, hc, Bool.and_true]

/-- Settles O12: the event is in the register's value and in what the tick has set, so the write does not clear it; an event after
the write sets its bits whatever stood there. -/
theorem anEventBeatsItsClear : Obligations.AnEventBeatsItsClear := by
  intro s off p r w v e hat hrow hacc
  refine ⟨fun hr => ?_, fun hr b hb hrails => ?_⟩
  · simp only [gives_registerWrite]
    constructor
    · rw [getReg_regWrite_w1c _ v hat hrow hacc hr, getReg_raiseBits, setNow_raiseBits, and_clear_keeps_set]
    · rw [getReg_raiseBits, or_and_self]
  · simp only [gives_registerWrite, regWrite_alert _ v hat hr]
    refine ⟨bitAt_alertWrite _ v b hb (bitAt_alert ..) ?_, bitAt_alert ..⟩
    have hb32 : b < 32 := by omega
    rw [setNow_alert _ b hrails, BitVec.getLsbD_or, BitVec.getLsbD_ofNat, Nat.testBit_two_pow_self]
    simp [hb32]

/-! Register accesses of the host (R5, R462). -/

theorem linkUp_iff (m : Mod) : linkUp m = true ↔ m.velom.link.st = 3 := by simp [linkUp]

/-- `m` with one more demand that waits. -/
def queued (m : Mod) (d : Demand) : Mod := { m with velom := { m.velom with demands := m.velom.demands ++ [d] } }

section
variable {m t : Mod} {d : Demand}

theorem hostDemand_down (h : m.velom.link.st ≠ 3) : hostDemand m d = m := by simp [hostDemand, linkUp, h]

theorem hostDemand_behind (h : m.velom.link.st = 3) (hd : m.velom.demands ≠ []) : hostDemand m d = queued m d := by
  simp [hostDemand, linkUp, h, hd, queued]

theorem hostDemand_served (h : m.velom.link.st = 3) (hd : m.velom.demands = []) (ht : tryDemand m d = (t, true)) :
    hostDemand m d = t := by
  simp [hostDemand, linkUp, h, hd, ht]

theorem hostDemand_waits (h : m.velom.link.st = 3) (hd : m.velom.demands = []) (ht : tryDemand m d = (t, false)) :
    hostDemand m d = queued t d := by
  simp [hostDemand, linkUp, h, hd, ht, queued]

end

theorem regStatus_misaligned {off width : Nat} (h : width ≠ 4 ∨ off % 4 ≠ 0) : regStatus off width ≠ 0 := by
  unfold regStatus
  split
  · decide
  · rw [if_pos (by simpa using h)]; decide

theorem tryDemand_regRd_refused {off width : Nat} (m : Mod) (tag : Nat) (h : regStatus off width ≠ 0) :
    tryDemand m (.regRd tag off width) = (replyMsg m tag (regStatus off width) 0 [], true) := by
  simp [tryDemand, serveRegRd, h]

theorem tryDemand_regWr_refused {off width : Nat} (m : Mod) (tag : Nat) (v : Word) (h : regStatus off width ≠ 0) :
    tryDemand m (.regWr tag off width v) = (ackMsg m tag (regStatus off width), true) := by
  simp [tryDemand, serveRegWr, h]

theorem getReg_countErr_ne {q : Page} {k : Nat} (m : Mod) (st : Nat) (h : pageBase q + k ≠ pageBase vlkP + 0x64) :
    getReg (countErr m st) q k = getReg m q k := by
  unfold countErr
  split
  · rfl
  · exact getReg_bump_ne m h 1

theorem getReg_replyMsg_ne {q : Page} {k : Nat} (m : Mod) (tag st l : Nat) (d : List Byte)
    (h : pageBase q + k ≠ pageBase vlkP + 0x64) : getReg (replyMsg m tag st l d) q k = getReg m q k := by
  rw [replyMsg, getReg_sendMsg, getReg_countErr_ne m st h]

theorem getReg_ackMsg_ne {q : Page} {k : Nat} (m : Mod) (tag st : Nat) (h : pageBase q + k ≠ pageBase vlkP + 0x64) :
    getReg (ackMsg m tag st) q k = getReg m q k := by
  rw [ackMsg, getReg_sendMsg, getReg_countErr_ne m st h]

/-- Settles O11: such an access has a status other than OK, so its answer is all that serving it does. -/
theorem misalignedRegisterAccessChangesNothing : Obligations.MisalignedRegisterAccessChangesNothing := by
  intro s tag off width v hup hbad
  have hst := regStatus_misaligned hbad
  rw [linkUp_iff] at hup
  refine ⟨fun hd => ?_, fun hd => ?_, fun m => ?_⟩
  · simp only [gives_regRd, gives_regWr]
    rw [hostDemand_served hup hd (tryDemand_regRd_refused _ _ hst), hostDemand_served hup hd (tryDemand_regWr_refused _ _ v hst)]
    exact ⟨⟨⟨_, hst, rfl⟩, fun p r h => getReg_replyMsg_ne _ _ _ _ _ h⟩, ⟨_, hst, rfl⟩, fun p r h => getReg_ackMsg_ne _ _ _ h⟩
  · simp only [gives_regRd, gives_regWr]
    exact ⟨hostDemand_behind hup hd, hostDemand_behind hup hd⟩
  · exact ⟨_, hst, tryDemand_regRd_refused m _ hst, tryDemand_regWr_refused m _ v hst⟩

end Sys2Proof.Proofs

/-! Registers by their access codes: what a write and a read of each kind does, and the events of a page's output. -/

namespace Sys2Proof.Proofs

open Sys2Proof Sys2Proof.Machine Sys2Proof.Laws

/-! Plain read-write registers, under the lock and without it (R7, R595). -/

theorem regWrite_absent {off : Nat} (m : Mod) (v : Word) (h : pageAt off = none) : regWrite m off v = m := by simp only [regWrite, h]

theorem regWrite_plain {off r : Nat} {p : Page} {m : Mod} {v : Word} (hat : pageAt off = some (p, r)) (hr : r ∉ [0x0C, 0x14, 0x18])
    (hs : specialWrite m p r v = none) : regWrite m off v = writePlain m p r v := by
  simp only [List.mem_cons, List.not_mem_nil, or_false, not_or] at hr
  obtain ⟨h0C, h14, h18⟩ := hr
  simp only [regWrite, hat, h0C, h14, h18, hs, if_false, Option.getD_none]

/-- Every row's writable bits lie in a word. -/
theorem rowMask_lt (p : Page) : ∀ w ∈ headerRows ++ blockRows p, w.mask < 2 ^ 32 := by
  suffices h : ((headerRows ++ blockRows p).all fun w => decide (w.mask < 2 ^ 32)) = true by
    simpa only [List.all_eq_true, decide_eq_true_eq] using h
  obtain ⟨d, b, i⟩ := p
  cases b
  case siv => unfold blockRows; dsimp only; split <;> rfl
  case fab => unfold blockRows; dsimp only; split <;> rfl
  all_goals rfl

theorem lockMask_lt (p : Page) (r : Nat) : lockMask p r < 2 ^ 32 := by
  unfold lockMask
  split
  · decide
  · decide
  · split
    next w hw =>
      split
      · exact rowMask_lt p w (List.mem_of_find?_eq_some hw)
      · decide
    · decide

theorem ofNat_toNat_and (v : Word) (k : Nat) : BitVec.ofNat 32 (v.toNat &&& k) = v &&& BitVec.ofNat 32 k := by
  ext i hi
  simp [← BitVec.getLsbD_eq_getElem, BitVec.getLsbD_ofNat, hi]

/-- The bits outside a lock mask written, those inside it kept. -/
theorem ofNat_locked (v old : Word) (k lk : Nat) (h : lk < 2 ^ 32) :
    BitVec.ofNat 32 ((v.toNat &&& k &&& (0xFFFFFFFF - lk)) ||| (old.toNat &&& lk)) =
      (v &&& BitVec.ofNat 32 k &&& ~~~ BitVec.ofNat 32 lk) ||| (old &&& BitVec.ofNat 32 lk) := by
  ext i hi
  have hc : (0xFFFFFFFF - lk).testBit i = !lk.testBit i := by
    rw [show 0xFFFFFFFF - lk = 2 ^ 32 - (lk + 1) by omega, Nat.testBit_two_pow_sub_succ h]
    simp [hi]
  simp [← BitVec.getLsbD_eq_getElem, BitVec.getLsbD_ofNat, hi, hc]

section
variable {m : Mod} {p : Page} {r : Nat} {v : Word} {w : RegRow} (h : rowAt p r = some w) (hw : w.acc = .rw ∨ w.acc = .rwl)
include h hw

theorem writePlain_rw_range (hf : fieldsOk p r v.toNat = false) : writePlain m p r v = m := by rw [writePlain_rw h hw, if_pos hf]

theorem writePlain_rw_free (hf : fieldsOk p r v.toNat = true) (hl : m.sec.locked = false ∨ lockMask p r = 0) :
    writePlain m p r v = setReg m p r (v &&& BitVec.ofNat 32 w.mask) := by
  have hl' : ¬ (m.sec.locked = true ∧ lockMask p r ≠ 0) := by rcases hl with hl | hl <;> simp [hl]
  rw [writePlain_rw h hw, if_neg (by simp [hf]), if_neg hl', setRegN, ofNat_toNat_and]

theorem writePlain_rw_locked (hf : fieldsOk p r v.toNat = true) (hl : m.sec.locked = true) (hk : lockMask p r ≠ 0) :
    writePlain m p r v = lockViolation (setReg m p r
      ((v &&& BitVec.ofNat 32 w.mask &&& ~~~ BitVec.ofNat 32 (lockMask p r)) ||| (getReg m p r &&& BitVec.ofNat 32 (lockMask p r)))) p r := by
  rw [writePlain_rw h hw, if_neg (by simp [hf]), if_pos ⟨hl, hk⟩, setRegN, regN, ofNat_locked _ _ _ _ (lockMask_lt p r)]

/-- A register that software writes is neither the page's counter of errors nor the lock's counter of refused writes. -/
theorem rw_ne_counters (hp : pageOk p = true) (hr : r < 4096) :
    r ≠ 0x20 ∧ pageBase p + r ≠ pageBase secP + 0x48 := by
  constructor
  · rintro rfl
    rw [show rowAt p 0x20 = some (rc 0x20) from rfl] at h
    cases h
    simp [rc] at hw
  · intro he
    obtain ⟨rfl, rfl⟩ := regAddr_inj hp (by decide) hr (by decide) he
    rw [show rowAt secP 0x48 = some (rc 0x48) from rfl] at h
    cases h
    simp [rc] at hw

end

/-! Reads (R9, R628, R633). -/

/-- A read but that of SEC_NONCE0: the value, and the read's effect. -/
theorem regRead_eq {off r : Nat} {p : Page} (m : Mod) (who : Reader) (hat : pageAt off = some (p, r)) (hn : ¬ (p.blk = .sec ∧ r = 0x60)) :
    regRead m who off = (readValue m who p r, readEffect m who p r) := by
  have hn' : (decide (p.blk = .sec) && decide (r = 0x60)) = false := by simpa using hn
  simp only [regRead, hat, hn', Bool.false_eq_true, if_false]

theorem readValue_other {p : Page} {r : Nat} (m : Mod) (who : Reader) (hr : r ∉ [0x28, 0x2C, 0x30]) :
    readValue m who p r = match m.regs.hi.find? fun x => x.1 = (who, pageBase p + r) with
      | some x => x.2.toNat
      | none => if (rowAt p r).any fun x => x.acc = .rc then beforeTick m p r else view m p r := by
  simp only [List.mem_cons, List.not_mem_nil, or_false, not_or] at hr
  obtain ⟨h28, h2C, h30⟩ := hr
  unfold readValue
  split <;> first | contradiction | rfl

section
variable {p : Page} {r : Nat} {w : RegRow} (m : Mod) (who : Reader) (h : rowAt p r = some w) (hw : w.acc = .rc)
include h hw

theorem rc_not_nonce : ¬ (p.blk = .sec ∧ r = 0x60) := by
  rintro ⟨hb, rfl⟩
  obtain ⟨d, b, i⟩ := p
  cases hb
  rw [show rowAt ⟨d, .sec, i⟩ 0x60 = some (ro 0x60 8) from rfl] at h
  cases h
  cases hw

theorem rc_not_errLog : r ∉ [0x28, 0x2C, 0x30] := by
  intro hr
  have hro : rowAt p r = some (ro 0x24 4) := by
    simp only [List.mem_cons, List.not_mem_nil, or_false] at hr
    rcases hr with rfl | rfl | rfl <;> rfl
  rw [hro] at h
  cases h
  cases hw

theorem regRead_rc_effect {off : Nat} (hat : pageAt off = some (p, r)) : (regRead m who off).2 = readCounter m p r := by
  rw [regRead_eq m who hat (rc_not_nonce h hw)]
  simp only [readEffect, h, hw, if_true]

theorem regRead_rc_value {off : Nat} (hat : pageAt off = some (p, r)) (hl : ∀ x ∈ m.regs.hi, x.1 ≠ (who, pageBase p + r)) :
    (regRead m who off).1 = beforeTick m p r := by
  have hfind : (m.regs.hi.find? fun x => x.1 = (who, pageBase p + r)) = none := by simpa [List.find?_eq_none] using hl
  rw [regRead_eq m who hat (rc_not_nonce h hw)]
  simp only [readValue_other m who (rc_not_errLog h hw), hfind, h, hw, Option.any_some, decide_true, if_true]

end

theorem regN_readCounter (m : Mod) (p : Page) (r : Nat) : regN (readCounter m p r) p r = min (upNow m p r) 0xFFFFFFFF := by
  unfold readCounter regN
  rw [getReg_setLost, getReg_setRegN_self, BitVec.toNat_ofNat]
  exact Nat.mod_eq_of_lt (by omega)

/-- A `_HI` register lies above the common header, and the security block has none. -/
theorem hiOf_some {p : Page} {r h : Nat} (hh : hiOf p r = some h) : p.blk ≠ .sec ∧ 0x44 ≤ h := by
  obtain ⟨d, b, i⟩ := p
  unfold hiOf at hh
  dsimp only at hh
  split at hh
  case h_13 =>
    split at hh
    · cases hh
      exact ⟨by simp, by simp_all; omega⟩
    · cases hh
  case h_14 => cases hh
  all_goals
    cases hh
    exact ⟨by simp, by decide⟩

theorem latchHi_eq {p : Page} {r h : Nat} (m : Mod) (who : Reader) (hh : hiOf p r = some h) :
    latchHi m who p r = { m with regs := { m.regs with
      hi := ((who, pageBase p + h), BitVec.ofNat 32 (view m p h)) :: m.regs.hi.filter fun x => x.1 != (who, pageBase p + h) } } := by
  simp only [latchHi, hh]

theorem regRead_lo_effect {off r h : Nat} {p : Page} (m : Mod) (who : Reader) (hat : pageAt off = some (p, r)) (hh : hiOf p r = some h)
    (hrc : ∀ w, rowAt p r = some w → w.acc ≠ .rc) (hr : r ≠ 0x24) : (regRead m who off).2 = latchHi m who p r := by
  rw [regRead_eq m who hat fun hn => (hiOf_some hh).1 hn.1]
  unfold readEffect
  split
  next x hx => rw [if_neg (hrc x hx), if_neg hr]
  · rfl

theorem regRead_latched {off r h : Nat} {p : Page} (m : Mod) (who : Reader) (hat : pageAt off = some (p, h)) (hh : hiOf p r = some h) :
    (regRead (latchHi m who p r) who off).1 = view m p h % 2 ^ 32 := by
  obtain ⟨hsec, hlow⟩ := hiOf_some hh
  have hne : h ∉ [0x28, 0x2C, 0x30] := by simp; omega
  rw [regRead_eq _ who hat fun hn => hsec hn.1, latchHi_eq m who hh]
  simp [readValue_other _ who hne]

/-! The error log (R628). -/

theorem errPage_page (m : Mod) (p : Page) : (errPage m p).page = p := by
  unfold errPage
  cases h : m.regs.errs.find? fun e => e.page = p with
  | none => rfl
  | some e => simpa using List.find?_some h

theorem errPage_setErrPage (m : Mod) (e : ErrPage) (q : Page) :
    errPage (setErrPage m e) q = if q = e.page then e else errPage m q := by
  unfold errPage setErrPage
  split
  next h => simp [h]
  next h =>
    have hne : ¬ e.page = q := fun he => h he.symm
    rw [List.find?_cons_of_neg (by simpa using hne)]
    congr 1
    induction m.regs.errs with
    | nil => rfl
    | cons x l ih =>
      by_cases hx : x.page = e.page
      · have hxq : ¬ x.page = q := hx ▸ hne
        rw [List.filter_cons_of_neg (by simpa using hx), List.find?_cons_of_neg (by simpa using hxq), ih]
      · rw [List.filter_cons_of_pos (by simpa using hx), List.find?_cons, List.find?_cons, ih]

/-! WLK_CFG (R158): the margin goes to every walker's page. -/

/-- The margin field set to `x` on a walker's page. -/
def setMargin (x : Nat) (m : Mod) (p : Page) : Mod := setRegN m p 0x40 (setBits (regN m p 0x40) 8 8 x)

/-- The pages of the 64 walkers. -/
def walkerPages : List Page := (upto 4).flatMap fun d => (upto 16).map fun i => ⟨d, .wlk, i⟩

theorem mem_walkerPages {p : Page} : p ∈ walkerPages ↔ p.die < 4 ∧ p.blk = .wlk ∧ p.inst < 16 := by
  obtain ⟨d, b, i⟩ := p
  simp [walkerPages, upto]
  tauto

theorem walkerPage_ok {p : Page} (h : p ∈ walkerPages) : pageOk p = true := by
  obtain ⟨hd, hb, hi⟩ := mem_walkerPages.1 h
  simp [pageOk, blkCount, isQuarry, hd, hb, hi]

theorem wlkWrite_eq {die inst : Nat} (m : Mod) (v : Word) (hp : ⟨die, .wlk, inst⟩ ∈ walkerPages) (hv : 4 ≤ bits v.toNat 8 8) :
    wlkWrite m die inst v =
      setRegN (walkerPages.foldl (setMargin (bits v.toNat 8 8)) m) ⟨die, .wlk, inst⟩ 0x40 (v.toNat &&& 0xFF10) := by
  have hf : fieldsOk ⟨die, .wlk, inst⟩ 0x40 v.toNat = true := by
    have : bits v.toNat 8 8 ≤ 255 := by simp only [bits]; omega
    simp [fieldsOk, hv, this]
  simp only [wlkWrite, walkerPage_ok hp, hf, walkerPages, List.foldl_flatMap, List.foldl_map]
  rfl

theorem wlkWrite_low {die inst : Nat} (m : Mod) (v : Word) (hv : bits v.toNat 8 8 < 4) : wlkWrite m die inst v = m := by
  have hf : fieldsOk ⟨die, .wlk, inst⟩ 0x40 v.toNat = false := by simp [fieldsOk]; omega
  simp [wlkWrite, hf]

theorem regN_lt (m : Mod) (p : Page) (r : Nat) : regN m p r < 2 ^ 32 := (getReg m p r).isLt

/-- One step sets the margin of its own page and leaves bit 4 of every page. -/
theorem setMargin_fields {p q : Page} (x : Nat) (m : Mod) (hx : x < 256) (hp : p ∈ walkerPages) (hq : q ∈ walkerPages) :
    bits (regN (setMargin x m p) q 0x40) 8 8 = (if q = p then x else bits (regN m q 0x40) 8 8) ∧
    bitAt (regN (setMargin x m p) q 0x40) 4 = bitAt (regN m q 0x40) 4 := by
  by_cases hqp : q = p
  · subst hqp
    have hlt := regN_lt m q 0x40
    rw [if_pos rfl, setMargin, regN, getReg_setRegN_self, BitVec.toNat_ofNat]
    generalize regN m q 0x40 = n at hlt
    have hbit : setBits n 8 8 x % 2 ^ 32 / 2 ^ 4 % 2 = n / 2 ^ 4 % 2 := by simp only [setBits, bits]; omega
    refine ⟨?_, by simp only [bitAt, hbit]⟩
    simp only [setBits, bits]
    omega
  · have hne : pageBase q + 0x40 ≠ pageBase p + 0x40 := fun he =>
      hqp (regAddr_inj (walkerPage_ok hq) (walkerPage_ok hp) (by decide) (by decide) he).1
    rw [if_neg hqp, setMargin, regN, getReg_setRegN_ne m hne, ← regN]
    exact ⟨rfl, rfl⟩

theorem foldl_setMargin_fields {q : Page} (x : Nat) (hx : x < 256) (hq : q ∈ walkerPages) (l : List Page) (hl : l ⊆ walkerPages) (m : Mod) :
    bits (regN (l.foldl (setMargin x) m) q 0x40) 8 8 = (if q ∈ l then x else bits (regN m q 0x40) 8 8) ∧
    bitAt (regN (l.foldl (setMargin x) m) q 0x40) 4 = bitAt (regN m q 0x40) 4 := by
  induction l generalizing m with
  | nil => exact ⟨rfl, rfl⟩
  | cons p l ih =>
    obtain ⟨hmar, hbit⟩ := ih (List.subset_of_cons_subset hl) (setMargin x m p)
    obtain ⟨hmar1, hbit1⟩ := setMargin_fields x m hx (hl List.mem_cons_self) hq
    rw [List.foldl_cons, hmar, hbit, hmar1, hbit1]
    by_cases hqp : q = p <;> simp [hqp]

theorem foldl_setMargin_frame (x : Nat) (l : List Page) (m : Mod) :
    l.foldl (setMargin x) m = { m with regs := (l.foldl (setMargin x) m).regs } := by
  induction l generalizing m with
  | nil => rfl
  | cons p l ih => rw [List.foldl_cons, ih]; rfl

theorem and_FF10_fields (n : Nat) : bits (n &&& 0xFF10) 8 8 = bits n 8 8 ∧ bitAt (n &&& 0xFF10) 4 = bitAt n 4 := by
  constructor
  · simp only [bits, ← Nat.shiftRight_eq_div_pow, Nat.shiftRight_and_distrib]
    rw [show (0xFF10 : Nat) >>> 8 = 2 ^ 8 - 1 from rfl, Nat.and_two_pow_sub_one_eq_mod, Nat.mod_mod]
  · simp [bitAt_eq_testBit, Nat.testBit_and, show Nat.testBit 0xFF10 4 = true from rfl]

/-- What WLK_CFG_WRITE leaves on each walker's page. -/
theorem wlkWrite_fields {die inst d i : Nat} (m : Mod) (v : Word) (hp : ⟨die, .wlk, inst⟩ ∈ walkerPages)
    (hq : ⟨d, .wlk, i⟩ ∈ walkerPages) (hv : 4 ≤ bits v.toNat 8 8) :
    bits (regN (wlkWrite m die inst v) ⟨d, .wlk, i⟩ 0x40) 8 8 = bits v.toNat 8 8 ∧
    bitAt (regN (wlkWrite m die inst v) ⟨d, .wlk, i⟩ 0x40) 4 =
      if d = die ∧ i = inst then bitAt v.toNat 4 else bitAt (regN m ⟨d, .wlk, i⟩ 0x40) 4 := by
  have hx : bits v.toNat 8 8 < 256 := by simp only [bits]; omega
  obtain ⟨hmar, hbit⟩ := foldl_setMargin_fields _ hx hq walkerPages (List.Subset.refl _) m
  rw [if_pos hq] at hmar
  rw [wlkWrite_eq m v hp hv]
  by_cases he : d = die ∧ i = inst
  · obtain ⟨rfl, rfl⟩ := he
    have hlt : v.toNat &&& 0xFF10 < 2 ^ 32 := lt_of_le_of_lt Nat.and_le_left v.isLt
    rw [regN, getReg_setRegN_self, BitVec.toNat_ofNat, Nat.mod_eq_of_lt hlt, if_pos ⟨rfl, rfl⟩]
    exact and_FF10_fields _
  · have hne : pageBase ⟨d, .wlk, i⟩ + 0x40 ≠ pageBase ⟨die, .wlk, inst⟩ + 0x40 := fun h => by
      obtain ⟨hpage, -⟩ := regAddr_inj (walkerPage_ok hq) (walkerPage_ok hp) (by decide) (by decide) h
      cases hpage
      exact he ⟨rfl, rfl⟩
    rw [regN, getReg_setRegN_ne _ hne, ← regN, if_neg he]
    exact ⟨hmar, hbit⟩

/-! Event outputs (R623, R624). -/

theorem mem_velomSend (v : Velom) (x : Msg) : x ∈ (velomSend v x).out ++ (velomSend v x).held := by
  unfold velomSend
  split
  · simp
  · split <;> simp

/-- A rise whose vector was not sent in this tick sends its Evt. -/
theorem mem_risen {m : Mod} {p : Page} (h : bitAt (regN m p 0x1C) 31 = true) (hs : bits (regN m p 0x1C) 0 12 ∉ m.regs.sent) :
    Msg.evt (bits (regN m p 0x1C) 0 12) ∈ (risen m p).velom.out ++ (risen m p).velom.held := by
  simp only [risen, h, if_true, sendEvt, hs, if_false, sendMsg]
  exact mem_velomSend ..

theorem risen_level (m : Mod) (p : Page) : (risen m p).regs.level = m.regs.level := by
  simp only [risen, sendEvt]
  split
  · split <;> rfl
  · rfl

/-- A write of BLK_EVT_PEND or BLK_EVT_EN sets that register and nothing else before the output is looked at. -/
theorem writePlain_evt (m : Mod) (p : Page) (en : Bool) (v : Word) :
    ∃ x, writePlain m p (if en then 0x18 else 0x14) v = setReg m p (if en then 0x18 else 0x14) x ∧ (en = true → x = v &&& 0x7F#32) := by
  cases en with
  | false => exact ⟨_, writePlain_w1c (rowAt_pend p) rfl, fun h => by cases h⟩
  | true =>
    have hf : fieldsOk p 0x18 v.toNat = true := by
      obtain ⟨d, b, i⟩ := p
      cases b <;> rfl
    have hk : lockMask p 0x18 = 0 := by
      obtain ⟨d, b, i⟩ := p
      cases b <;> rfl
    exact ⟨_, writePlain_rw_free (rowAt_en p) (.inl rfl) hf (.inr hk), fun _ => rfl⟩

theorem getReg_evtWrite_en (m : Mod) (p : Page) (v : Word) :
    getReg (evtWrite m p true v) p 0x18 = v &&& 0x7F#32 ∧ getReg (evtWrite m p true v) p 0x14 = getReg m p 0x14 := by
  obtain ⟨x, hw, hx⟩ := writePlain_evt m p true v
  rw [getReg_evtWrite, getReg_evtWrite, hw, hx rfl]
  exact ⟨getReg_setReg_self .., getReg_setReg_ne m (regAddr_ne_of_offset (by decide)) _⟩

theorem evtWrite_of {m t : Mod} {p : Page} {en : Bool} {v : Word} (h : writePlain m p (if en then 0x18 else 0x14) v = t) :
    evtWrite m p en v =
      if evOut t p then risen { t with regs := { t.regs with level := p :: t.regs.level.filter (· != p) } } p else t := by
  subst h; rfl

/-- After a write of BLK_EVT_PEND or BLK_EVT_EN the page's Evt is sent if its output is asserted, and nothing is sent else. -/
theorem evtWrite_sends (m : Mod) (p : Page) (en : Bool) (v : Word) (h : bitAt (regN m p 0x1C) 31 = true)
    (hs : bits (regN m p 0x1C) 0 12 ∉ m.regs.sent) :
    if evOut (evtWrite m p en v) p = true then
      Msg.evt (bits (regN m p 0x1C) 0 12) ∈ (evtWrite m p en v).velom.out ++ (evtWrite m p en v).velom.held
    else (evtWrite m p en v).velom = m.velom := by
  have hout : evOut (evtWrite m p en v) p = evOut (writePlain m p (if en then 0x18 else 0x14) v) p := by
    simp only [evOut, getReg_evtWrite]
  obtain ⟨x, hw, -⟩ := writePlain_evt m p en v
  have hreg : regN (setReg m p (if en then 0x18 else 0x14) x) p 0x1C = regN m p 0x1C :=
    congrArg _ (getReg_setReg_ne m (by cases en <;> exact regAddr_ne_of_offset (by decide)) _)
  rw [hout, hw, evtWrite_of hw]
  by_cases ho : evOut (setReg m p (if en then 0x18 else 0x14) x) p = true
  · rw [if_pos ho, if_pos ho]
    rw [← hreg] at h hs ⊢
    exact mem_risen h hs
  · rw [if_neg ho, if_neg ho]
    rfl

theorem sampleEvt_held {m : Mod} {p : Page} (ho : evOut m p = true) (hl : p ∈ m.regs.level) : sampleEvt m p = m := by
  simp [sampleEvt, ho, hl]

theorem sampleEvt_rises {m : Mod} {p : Page} (ho : evOut m p = true) (hl : p ∉ m.regs.level) :
    sampleEvt m p = risen { m with regs := { m.regs with level := p :: m.regs.level } } p := by
  simp [sampleEvt, ho, hl]

/-! The replay report (R528). -/

theorem pageEnt_dropPage (m : Mod) (pg q : Nat) : pageEnt (dropPage m pg) q = if q = pg then none else pageEnt m q := by
  unfold pageEnt dropPage
  dsimp only
  split
  next h =>
    subst h
    simp [List.find?_eq_none]
  next h =>
    rw [List.find?_filter]
    congr 1
    funext e
    by_cases he : e.page = q <;> simp [he, h]

theorem foldl_dropPage (l : List Nat) (m : Mod) :
    (l.foldl dropPage m).ledger = m.ledger ∧ ∀ q ∈ l, pageEnt (l.foldl dropPage m) q = none := by
  have keeps : ∀ (l : List Nat) (m : Mod) q, pageEnt m q = none → pageEnt (l.foldl dropPage m) q = none := by
    intro l
    induction l with
    | nil => exact fun _ _ h => h
    | cons x l ih => exact fun m q h => ih _ q (by rw [pageEnt_dropPage, h, ite_self])
  induction l generalizing m with
  | nil => exact ⟨rfl, by simp⟩
  | cons x l ih =>
    refine ⟨(ih (dropPage m x)).1, fun q hq => ?_⟩
    rcases List.mem_cons.1 hq with rfl | hq
    · exact keeps l _ q (by rw [pageEnt_dropPage, if_pos rfl])
    · exact (ih (dropPage m x)).2 q hq

theorem replayAck_none {m : Mod} (h : m.ledger.report = none) : replayAck m = m := by simp only [replayAck, h]

theorem replayAck_frees {m : Mod} {r : Report} (h : m.ledger.report = some r) :
    (replayAck m).ledger = { m.ledger with report := none } ∧
    ∀ i, i * pageSize < r.data.length → pageEnt (replayAck m) (pageNo r.addr + i) = none := by
  simp only [replayAck, h]
  obtain ⟨hl, hp⟩ := foldl_dropPage ((upto (ceilDiv r.data.length pageSize)).map fun i => pageNo r.addr + i)
    { m with ledger := { m.ledger with report := none } }
  refine ⟨hl, fun i hi => hp _ (List.mem_map.2 ⟨i, ?_, rfl⟩)⟩
  simp only [upto, List.mem_range, ceilDiv, pageSize] at hi ⊢
  omega

/-! The clauses of O39 that need more than one lemma. -/

section
variable {m : Mod} {p : Page} {r off : Nat} {v : Word} {w : RegRow} (hat : pageAt off = some (p, r))
  (hr : r ∉ [0x0C, 0x14, 0x18]) (hs : specialWrite m p r v = none) (h : rowAt p r = some w) (hw : w.acc = .rw ∨ w.acc = .rwl)
  (hf : fieldsOk p r v.toNat = true)
include hat hr hs h hw hf

/-- A plain write that no lock touches sets its register and no other. -/
theorem regWrite_rw_free (hl : m.sec.locked = false ∨ lockMask p r = 0) :
    getReg (regWrite m off v) p r = v &&& BitVec.ofNat 32 w.mask ∧
    (∀ q k, pageBase q + k ≠ pageBase p + r → getReg (regWrite m off v) q k = getReg m q k) ∧
    regWrite m off v = { m with regs := (regWrite m off v).regs } := by
  rw [regWrite_plain hat hr hs, writePlain_rw_free h hw hf hl]
  exact ⟨getReg_setReg_self .., fun q k hne => getReg_setReg_ne m hne _, rfl⟩

/-- A plain write under the lock keeps the locked bits, takes the others, and is counted. -/
theorem regWrite_rw_locked (hl : m.sec.locked = true) (hk : lockMask p r ≠ 0) :
    getReg (regWrite m off v) p r =
      (v &&& BitVec.ofNat 32 w.mask &&& ~~~ BitVec.ofNat 32 (lockMask p r)) ||| (getReg m p r &&& BitVec.ofNat 32 (lockMask p r)) ∧
    regN (regWrite m off v) secP 0x48 = min (regN m secP 0x48 + 1) 0xFFFFFFFF := by
  obtain ⟨hok, hoff, -⟩ := pageAt_some hat
  have hlt : r < 4096 := hoff ▸ Nat.mod_lt _ (by decide)
  obtain ⟨h20, hsec⟩ := rw_ne_counters h hw hok hlt
  have h14 : r ≠ 0x14 := by rintro rfl; exact hr (by decide)
  have hne : ∀ k, k < 4096 → r ≠ k → pageBase p + r ≠ pageBase p + k := fun k _ hrk => by omega
  rw [regWrite_plain hat hr hs, writePlain_rw_locked h hw hf hl hk]
  constructor
  · rw [getReg_lockViolation_ne hsec (hne _ (by decide) h20) (hne _ (by decide) h14), getReg_setReg_self]
  · rw [regN_lockViolation, regN, getReg_setReg_ne m (Ne.symm hsec), ← regN]

end

theorem tckReset_other (m : Mod) {c : Byte} (hc : c ≠ 0xD5#8) : tckReset m c.toNat = m := by
  have : c.toNat ≠ 0xD5 := fun h => hc (BitVec.eq_of_toNat_eq h)
  simp [tckReset, this]

theorem tckReset_code {m : Mod} (hr : m.sys.rails = true) (hw : m.sys.want = none) :
    tckReset m 0xD5 = { m with sys := { m.sys with want := some (1, 1) } } := by
  simp [tckReset, hr, requestReset, hw]

/-- Settles O39, clause by clause from the lemmas on writes, reads and events. -/
theorem registersFollowTheirAccessCodes : Obligations.RegistersFollowTheirAccessCodes := by
  intro s
  simp only [gives_registerWrite, gives_rcRead, gives_loRead, gives_blkErrLogLoRead, gives_wlkCfgWrite, gives_blkEvtPendWrite,
    gives_blockEventRise, gives_tckReset, gives_ldgReplayAck]
  refine ⟨fun off v h => regWrite_absent _ v h, fun off v p r hat hr hs => ⟨fun h => ?_, fun w h => ⟨fun hw => ?_, fun hw hf => ?_,
      fun hw hf hl => regWrite_rw_free hat hr hs h hw hf hl, fun hw hf hl hk => regWrite_rw_locked hat hr hs h hw hf hl hk⟩⟩,
    fun off p r w who hat h hw => ⟨?_, fun hl => regRead_rc_value s.mod who h hw hat hl⟩,
    fun off p r h who hat hh hrc hr => ?_, fun p who => ?_, fun die inst v hd hi => ⟨fun hv => wlkWrite_low _ v hv, fun hv => ?_⟩,
    fun p v => getReg_evtWrite_pend .., fun p v => getReg_evtWrite_en .., fun p en v h hs => evtWrite_sends _ p en v h hs,
    fun p ho hl => sampleEvt_held ho hl, fun p ho hl h hs => ?_, fun c hc => tckReset_other _ hc,
    fun hr hw => tckReset_code hr hw, fun v h => replayAck_none h, fun v r h => replayAck_frees h⟩
  · rw [regWrite_plain hat hr hs, writePlain_none h]
  · rw [regWrite_plain hat hr hs, writePlain_ro h hw]
  · rw [regWrite_plain hat hr hs, writePlain_rw_range h hw hf]
  · rw [regRead_rc_effect s.mod who h hw hat]
    exact ⟨regN_readCounter .., fun q k hne => getReg_readCounter_ne _ hne⟩
  · rw [regRead_lo_effect s.mod who hat hh hrc hr]
    exact ⟨fun o ho => regRead_latched s.mod who ho hh, by rw [latchHi_eq _ who hh]⟩
  · refine ⟨?_, fun q hq => ?_, rfl⟩
    · rw [latchErr, errPage_setErrPage, if_pos (errPage_page s.mod p).symm]
    · rw [latchErr, errPage_setErrPage, if_neg (by rwa [errPage_page])]
  · have hp : ⟨die, .wlk, inst⟩ ∈ walkerPages := mem_walkerPages.2 ⟨hd, rfl, hi⟩
    refine ⟨fun d i hd hi => wlkWrite_fields s.mod v hp (mem_walkerPages.2 ⟨hd, rfl, hi⟩) hv, ?_⟩
    rw [wlkWrite_eq s.mod v hp hv, foldl_setMargin_frame]
    rfl
  · rw [sampleEvt_rises ho hl]
    exact ⟨by rw [risen_level]; exact List.mem_cons_self, mem_risen h hs⟩

end Sys2Proof.Proofs

/-! Device memory: what a byte reads as, where its page is, and the write buffer in front of flash. -/

namespace Sys2Proof.Proofs

open Sys2Proof Sys2Proof.Machine Sys2Proof.Laws

/-! Bytes of a data unit. -/

theorem setBits_eq (v lo n x : Nat) : setBits v lo n x = 2 ^ lo * (2 ^ n * (v / 2 ^ lo / 2 ^ n) + x % 2 ^ n) + v % 2 ^ lo := by
  have hlow : v = 2 ^ lo * (v / 2 ^ lo) + v % 2 ^ lo := (Nat.div_add_mod ..).symm
  have hmid : v / 2 ^ lo = 2 ^ n * (v / 2 ^ lo / 2 ^ n) + v / 2 ^ lo % 2 ^ n := (Nat.div_add_mod ..).symm
  have hv : v = 2 ^ lo * (2 ^ n * (v / 2 ^ lo / 2 ^ n)) + v / 2 ^ lo % 2 ^ n * 2 ^ lo + v % 2 ^ lo := by
    rw [Nat.mul_comm (v / 2 ^ lo % 2 ^ n), ← Nat.mul_add, ← hmid, ← hlow]
  rw [Nat.mul_add, Nat.mul_comm (2 ^ lo) (x % 2 ^ n)]
  unfold setBits bits
  omega

theorem testBit_setBits (v lo n x j : Nat) :
    (setBits v lo n x).testBit j = if lo ≤ j ∧ j < lo + n then x.testBit (j - lo) else v.testBit j := by
  rw [setBits_eq, Nat.testBit_two_pow_mul_add _ (Nat.mod_lt _ (Nat.two_pow_pos lo)),
    Nat.testBit_two_pow_mul_add _ (Nat.mod_lt _ (Nat.two_pow_pos n))]
  simp only [Nat.testBit_mod_two_pow, Nat.testBit_div_two_pow]
  by_cases hj : j < lo
  · have : ¬ (lo ≤ j ∧ j < lo + n) := by omega
    simp [hj, this]
  · by_cases hn : j - lo < n
    · have : lo ≤ j ∧ j < lo + n := by omega
      simp [hj, hn, this]
    · have hi : ¬ (lo ≤ j ∧ j < lo + n) := by omega
      have he : j - lo - n + n + lo = j := by omega
      simp [hj, hn, hi, he]

theorem testBit_ofBytes (g : List Byte) (j : Nat) : (ofBytes g).testBit j = (g.getD (j / 8) 0#8).getLsbD (j % 8) := by
  induction g generalizing j with
  | nil => simp [ofBytes]
  | cons b bs ih =>
    rw [ofBytes, Nat.add_comm, show 256 = 2 ^ 8 from rfl, Nat.testBit_two_pow_mul_add _ b.isLt]
    by_cases hj : j < 8
    · have hd : j / 8 = 0 := by omega
      have hm : j % 8 = j := by omega
      simp [hj, hd, hm, BitVec.testBit_toNat]
    · have hd : j / 8 = (j - 8) / 8 + 1 := by omega
      have hm : (j - 8) % 8 = j % 8 := by omega
      simp [hj, ih, hd, hm]

/-- A granule put into a unit is what the unit's bytes of that granule read as. -/
theorem unitByte_unitPut (x : DataUnit) (k i : Nat) (g : List Byte) (hi : i < 4096) :
    unitByte (unitPut x k g) i = if i / 32 = k then g.getD (i % 32) 0#8 else unitByte x i := by
  apply BitVec.eq_of_getLsbD_eq
  intro j hj
  have hlt : 8 * i + j < 32768 := by omega
  have hbit : (unitPut x k g).getLsbD (8 * i + j) = if i / 32 = k then (g.getD (i % 32) 0#8).getLsbD j else x.getLsbD (8 * i + j) := by
    rw [unitPut, BitVec.getLsbD_ofNat, testBit_setBits, testBit_ofBytes, BitVec.testBit_toNat]
    by_cases hk : i / 32 = k
    · have hin : 256 * k ≤ 8 * i + j ∧ 8 * i + j < 256 * k + 256 := by omega
      have hd : (8 * i + j - 256 * k) / 8 = i % 32 := by omega
      have hm : (8 * i + j - 256 * k) % 8 = j := by omega
      simp [hlt, hk, hin, hd, hm]
    · have hout : ¬ (256 * k ≤ 8 * i + j ∧ 8 * i + j < 256 * k + 256) := by omega
      simp [hlt, hk, hout]
  simp only [unitByte, BitVec.getLsbD_extractLsb', hj, decide_true, Bool.true_and, hbit]
  split <;> simp [hj]

/-- The contents that a list of granules gives granule `k`: the first listed. -/
def granIn (l : List (Nat × List Byte)) (k : Nat) : Option (List Byte) := (l.find? fun g => g.1 = k).map (·.2)

theorem granIn_cons (g : Nat × List Byte) (l : List (Nat × List Byte)) (k : Nat) :
    granIn (g :: l) k = if g.1 = k then some g.2 else granIn l k := by
  unfold granIn
  by_cases h : g.1 = k <;> simp [h]

theorem granIn_none {l : List (Nat × List Byte)} {k : Nat} (h : k ∉ l.map (·.1)) : granIn l k = none := by
  simp only [granIn, Option.map_eq_none_iff, List.find?_eq_none, decide_eq_true_eq]
  exact fun g hg hk => h (List.mem_map.2 ⟨g, hg, hk⟩)

theorem granIn_filter_ne {l : List (Nat × List Byte)} {k j : Nat} (h : j ≠ k) : granIn (l.filter fun x => x.1 != k) j = granIn l j := by
  unfold granIn
  rw [find_filter_ne l k j h]

/-- A unit with the granules of an entry put into it (R442). -/
theorem unitByte_foldl_unitPut (l : List (Nat × List Byte)) (x : DataUnit) (i : Nat) (hi : i < 4096) (hl : (l.map (·.1)).Nodup) :
    unitByte (l.foldl (fun x g => unitPut x g.1 g.2) x) i =
      match granIn l (i / 32) with
      | some g => g.getD (i % 32) 0#8
      | none => unitByte x i := by
  induction l generalizing x with
  | nil => rfl
  | cons g l ih =>
    obtain ⟨hg, hl⟩ := List.nodup_cons.1 hl
    rw [List.foldl_cons, ih _ hl, granIn_cons, unitByte_unitPut x g.1 i g.2 hi]
    by_cases hk : g.1 = i / 32
    · have hnone : granIn l (i / 32) = none := granIn_none (by rw [← hk]; exact hg)
      simp [hk, hnone]
    · have hk' : ¬ i / 32 = g.1 := fun h => hk h.symm
      simp [hk, hk']

/-! Flash units as they read. -/

theorem decipher_encipher (m t : Mod) (h : mediaKey t = mediaKey m) (u : Nat) (x : DataUnit) : decipher t (encipher m u x) = x := by
  simp only [decipher, encipher, h, Equiv.symm_apply_apply]

/-- A unit programmed reads as what was programmed; every other unit reads as before. -/
theorem flashUnit_program {m t : Mod} (u n : Nat) (x : DataUnit) (hs : t.sec = m.sec)
    (hf : t.mem.flash = putUnit m.mem.flash (encipher m u x)) : flashUnit t n = if n = u then x else flashUnit m n := by
  have hkey : mediaKey t = mediaKey m := by simp only [mediaKey, hs]
  have hd : decipher t = decipher m := by funext f; simp only [decipher, hkey]
  have hins : ∀ y ∈ m.mem.flash.filter (fun y => y.no != (encipher m u x).no),
      decide (y.no = n) = true → decide ((encipher m u x).no = n) = false := by
    intro y hy hyn
    have hyu : y.no ≠ (encipher m u x).no := by simpa using (List.mem_filter.1 hy).2
    exact decide_eq_false fun h => hyu ((of_decide_eq_true hyn).trans h.symm)
  unfold flashUnit
  rw [hf, hd, putUnit, find_insertBy _ _ _ _ hins]
  by_cases hn : n = u
  · subst hn
    rw [if_pos (by simp [encipher]), if_pos rfl, Option.map_some, Option.getD_some, decipher_encipher m m rfl]
  · have hno : ¬ (encipher m u x).no = n := fun h => hn h.symm
    have hfind : ((m.mem.flash.filter fun y => y.no != (encipher m u x).no).find? fun f => decide (f.no = n)) = m.mem.flash.find? fun f => decide (f.no = n) := by
      rw [List.find?_filter]
      congr 1
      funext f
      by_cases hfn : f.no = n <;> simp [hfn, hn, encipher]
    rw [if_neg (by simpa using hno), if_neg hn]
    exact congrArg (fun o => (Option.map (decipher m) o).getD 0#32768) hfind

/-! The write buffer (R441, R442): the newest entry that holds a granule gives it. -/

/-- What one entry of the write buffer gives the granule of an address. -/
def entLook (e : WbEnt) (a : Nat) : Option (List Byte) := if e.unit = a / 4096 then granIn e.gran (a % 4096 / 32) else none

/-- What a write buffer gives the granule of an address: the last entry that holds it. -/
def wbLook : List WbEnt → Nat → Option (List Byte)
  | [], _ => none
  | e :: b, a => (wbLook b a).or (entLook e a)

theorem wbLook_append (b c : List WbEnt) (a : Nat) : wbLook (b ++ c) a = (wbLook c a).or (wbLook b a) := by
  induction b with
  | nil => simp [wbLook]
  | cons e b ih => simp only [List.cons_append, wbLook, ih, Option.or_assoc]

theorem wbFind_eq (m : Mod) (a : Nat) : wbFind m a = wbLook m.mem.wb a := by
  unfold wbFind
  dsimp only
  generalize m.mem.wb = b
  induction b using List.reverseRecOn with
  | nil => rfl
  | append_singleton b e ih =>
    rw [wbLook_append, ← ih, List.filter_append]
    simp only [wbLook, Option.none_or, entLook, granIn]
    by_cases hu : e.unit = a / 4096
    · cases hg : e.gran.find? fun g => decide (g.1 = a % 4096 / 32) with
      | none =>
        have hany : (e.gran.any fun g => decide (g.1 = a % 4096 / 32)) = false := by
          simpa [List.find?_eq_none] using hg
        simp [hu, hany]
      | some g =>
        have hany : (e.gran.any fun g => decide (g.1 = a % 4096 / 32)) = true := by
          have hmem := List.mem_of_find?_eq_some hg
          have heq := List.find?_some hg
          exact List.any_eq_true.2 ⟨g, hmem, heq⟩
        simp [hu, hany, hg]
    · simp [hu]

theorem wbLook_filter (b : List WbEnt) (p : WbEnt → Bool) (a : Nat) (h : ∀ e ∈ b, p e = false → entLook e a = none) :
    wbLook (b.filter p) a = wbLook b a := by
  induction b with
  | nil => rfl
  | cons e b ih =>
    have ih := ih fun x hx => h x (List.mem_cons_of_mem _ hx)
    cases hp : p e
    · rw [List.filter_cons_of_neg (by simp [hp]), ih, wbLook, h e List.mem_cons_self hp, Option.or_none]
    · rw [List.filter_cons_of_pos hp, wbLook, wbLook, ih]

/-! What a byte reads as. -/

/-- A byte of a page in flash: from the write buffer, else from its unit. -/
def flashByte (m : Mod) (a : Nat) : Byte :=
  match wbLook m.mem.wb a with
  | some g => g.getD (a % 32) 0#8
  | none => unitByte (flashUnit m (a / 4096)) (a % 4096)

/-- The byte of a page by its bench map entry: flash gives one in bench 2, the stacks and slices any other, an absent page zero. -/
def byteIn (o : Option PageEnt) (flash cell : Byte) : Byte :=
  match o with
  | none => 0#8
  | some e => if e.bench = 2 then flash else cell

@[simp] theorem byteIn_none (f c : Byte) : byteIn none f c = 0#8 := rfl
@[simp] theorem byteIn_some (e : PageEnt) (f c : Byte) : byteIn (some e) f c = if e.bench = 2 then f else c := rfl

theorem readByte_eq (m : Mod) (a : Nat) : readByte m a = byteIn (pageEnt m (pageNo a)) (flashByte m a) (cellGet m.mem.cells a) := by
  unfold readByte flashByte byteIn
  simp only [wbFind_eq] <;> rfl

/-- The bench of a page, and where in it a page outside flash lies: what reads and drills know of its place. -/
def seatOf (e : PageEnt) : Nat × Nat := (e.bench, if e.bench = 2 then 0 else e.loc)
def seat (m : Mod) (q : Nat) : Option (Nat × Nat) := (pageEnt m q).map seatOf

theorem seat_isSome (m : Mod) (q : Nat) : (seat m q).isSome = (pageEnt m q).isSome := Option.isSome_map

theorem pageEnt_page {m : Mod} {q : Nat} {e : PageEnt} (h : pageEnt m q = some e) : e.page = q := by simpa using List.find?_some h

theorem readByte_of_seat {m t : Mod} {a : Nat} (hs : seat t (pageNo a) = seat m (pageNo a)) (hc : t.mem.cells = m.mem.cells)
    (hf : flashByte t a = flashByte m a) : readByte t a = readByte m a := by
  unfold seat at hs
  rw [readByte_eq, readByte_eq, hc, hf]
  cases hm : pageEnt m (pageNo a) <;> cases ht : pageEnt t (pageNo a) <;> simp_all [seatOf]

theorem sliceOf_of_seat {m t : Mod} {a : Nat} (hs : seat t (pageNo a) = seat m (pageNo a)) : sliceOf t a = sliceOf m a := by
  unfold seat at hs
  unfold sliceOf
  cases hm : pageEnt m (pageNo a) with
  | none => simp_all
  | some e =>
    cases ht : pageEnt t (pageNo a) with
    | none => simp_all
    | some f =>
      simp only [hm, ht, Option.map_some, Option.some.injEq, seatOf, Prod.mk.injEq] at hs
      obtain ⟨hb, hl⟩ := hs
      by_cases h1 : e.bench = 1
      · have h1' : f.bench = 1 := hb.trans h1
        simp [h1, h1'] at hl ⊢
        simp [hl]
      · have h1' : ¬ f.bench = 1 := fun h => h1 (hb.symm.trans h)
        simp [h1, h1']

theorem pageEnt_setEnt (m : Mod) (e : PageEnt) (q : Nat) : pageEnt (setEnt m e) q = if q = e.page then some e else pageEnt m q := by
  have hins : ∀ y ∈ m.mem.map.filter (fun y => y.page != e.page), decide (y.page = q) = true → decide (e.page = q) = false := by
    intro y hy hyq
    have hye : y.page ≠ e.page := by simpa using (List.mem_filter.1 hy).2
    simpa using fun h : e.page = q => hye ((of_decide_eq_true hyq).trans h.symm)
  unfold pageEnt setEnt
  dsimp only
  rw [find_insertBy _ _ _ _ hins]
  by_cases h : e.page = q
  · simp [h]
  · have h' : ¬ q = e.page := fun he => h he.symm
    simp only [h, h', decide_false, Bool.false_eq_true, if_false]
    rw [List.find?_filter]
    congr 1
    funext x
    by_cases hx : x.page = q <;> simp [hx, h']

theorem seat_setEnt {m : Mod} {e f : PageEnt} (h : pageEnt m e.page = some f) (hs : seatOf e = seatOf f) (q : Nat) :
    seat (setEnt m e) q = seat m q := by
  unfold seat
  rw [pageEnt_setEnt]
  split
  next hq => rw [hq, h, Option.map_some, Option.map_some, hs]
  · rfl

end Sys2Proof.Proofs

/-! Writes to device memory: what each step of an accepted write leaves every byte at, and what it keeps. -/

namespace Sys2Proof.Proofs

open Sys2Proof Sys2Proof.Machine Sys2Proof.Laws

/-- `t` is `m` but for memory, registers, fault records and alerts; pages keep their seats, the writes that wait stay, no granule
is newly uncorrectable, and a write buffer in order stays in order. -/
structure KeepsPlaces (m t : Mod) : Prop where
  frame : t = { m with regs := t.regs, mem := t.mem, hbm := t.hbm, mgt := t.mgt }
  seats : ∀ q, seat t q = seat m q
  stalled : t.mem.stalled = m.mem.stalled
  ue : ∀ a ∈ t.mem.ue, a ∈ m.mem.ue
  held : wbHeld m → wbHeld t

namespace KeepsPlaces

variable {m t u : Mod}

theorem refl (m : Mod) : KeepsPlaces m m := ⟨rfl, fun _ => rfl, rfl, fun _ h => h, id⟩

theorem trans (h : KeepsPlaces m t) (g : KeepsPlaces t u) : KeepsPlaces m u where
  frame := by rw [g.frame, h.frame]
  seats q := (g.seats q).trans (h.seats q)
  stalled := g.stalled.trans h.stalled
  ue a ha := h.ue a (g.ue a ha)
  held hm := g.held (h.held hm)

theorem drills (h : KeepsPlaces m t) : t.drills = m.drills := by rw [h.frame]
theorem velom (h : KeepsPlaces m t) : t.velom = m.velom := by rw [h.frame]
theorem sec (h : KeepsPlaces m t) : t.sec = m.sec := by rw [h.frame]

theorem sliceOf (h : KeepsPlaces m t) (a : Nat) : sliceOf t a = sliceOf m a := sliceOf_of_seat (h.seats _)

theorem allocated (h : KeepsPlaces m t) (a : Nat) : allocated t a = allocated m a := by
  simp only [Machine.allocated, ← seat_isSome, h.seats]

theorem ownerOf (h : KeepsPlaces m t) (a : Nat) : ownerOf t a = ownerOf m a := by
  simp only [Machine.ownerOf, h.sliceOf, h.drills]

theorem pcAt (h : KeepsPlaces m t) (a : Nat) : pcAt t a = pcAt m a := by
  unfold Machine.pcAt; rw [h.sliceOf]

theorem pcWaits (h : KeepsPlaces m t) (k : Nat × Nat) : pcWaits t k = pcWaits m k := by
  have hpc : Machine.pcAt t = Machine.pcAt m := funext h.pcAt
  unfold Machine.pcWaits
  rw [hpc, h.stalled, h.velom]

theorem stopFor (h : KeepsPlaces m t) (a : Nat) : stopFor t a = stopFor m a := by
  have hcount : heldCount t = heldCount m := by unfold heldCount; rw [h.drills]
  have hwait : Machine.pcWaits t = Machine.pcWaits m := funext h.pcWaits
  unfold Machine.stopFor
  rw [h.pcAt, hcount, hwait, h.ownerOf]

end KeepsPlaces

/-- A write buffer in order is in order where the pages keep their seats and the buffer is a part of it. -/
theorem wbHeld_of_sublist {m t : Mod} (h : wbHeld m) (hs : ∀ q, seat t q = seat m q) (hb : t.mem.wb.Sublist m.mem.wb)
    (hn : m.mem.wbSeq ≤ t.mem.wbSeq) : wbHeld t := by
  obtain ⟨⟨hnd, hg⟩, hp⟩ := h
  refine ⟨⟨(hb.map _).nodup hnd, fun w hw => hg w (hb.mem hw)⟩, fun w hw => ?_⟩
  obtain ⟨hseq, e, he, hbench⟩ := hp w (hb.mem hw)
  refine ⟨lt_of_lt_of_le hseq hn, ?_⟩
  have hseat := hs (w.unit / 16)
  unfold seat at hseat
  rw [he, Option.map_some, Option.map_eq_some_iff] at hseat
  obtain ⟨f, hf, hfe⟩ := hseat
  exact ⟨f, hf, (congrArg Prod.fst hfe).trans hbench⟩

/-! An entry programmed (R442, R451). -/

/-- A unit as it stands once an entry's granules are put into it. -/
def mergedUnit (m : Mod) (w : WbEnt) : DataUnit := w.gran.foldl (fun x g => unitPut x g.1 g.2) (flashUnit m w.unit)

/-- A page whose channel takes no writes handed to another channel (R451). -/
def rehome (m : Mod) (e : PageEnt) : Mod :=
  if (m.mem.channels.getD e.loc ⟨1, 4, 0, 0, 0⟩).st < 2 then m
  else match pickLoc m 2 none with
    | some l => bump (setEnt m { e with loc := l }) hauP 0x60
    | none => m

theorem rehome_spec {m : Mod} {e : PageEnt} (he : pageEnt m e.page = some e) (hb : e.bench = 2) :
    (∃ regs map, rehome m e = { m with regs := regs, mem := { m.mem with map := map } }) ∧ ∀ q, seat (rehome m e) q = seat m q := by
  unfold rehome
  split
  · exact ⟨⟨_, _, rfl⟩, fun _ => rfl⟩
  · split
    next l _ => exact ⟨⟨_, _, rfl⟩, fun q => seat_setEnt (e := { e with loc := l }) he (by simp [seatOf, hb]) q⟩
    · exact ⟨⟨_, _, rfl⟩, fun _ => rfl⟩

/-- The module with an entry taken from its write buffer. -/
def takeEnt (m : Mod) (w : WbEnt) : Mod := { m with mem := { m.mem with wb := m.mem.wb.filter fun x => x.seq != w.seq } }

/-- A page programmed on a channel: its unit written and counted, a part of a unit as a read before it too. -/
def programUnit (m : Mod) (w : WbEnt) (ch : Page) : Mod :=
  let t := if w.gran.length < 128 then bump m ch 0x4C else m
  bump { t with mem := { t.mem with flash := putUnit t.mem.flash (encipher t w.unit (mergedUnit m w)) } } ch 0x50

theorem programUnit_eq (m : Mod) (w : WbEnt) (ch : Page) : ∃ regs, programUnit m w ch =
    { m with regs := regs, mem := { m.mem with flash := putUnit m.mem.flash (encipher m w.unit (mergedUnit m w)) } } := by
  unfold programUnit
  dsimp only
  split <;> exact ⟨_, rfl⟩

theorem programEnt_of {m : Mod} {w : WbEnt} {e : PageEnt} (he : pageEnt m (w.unit / 16) = some e) :
    ∃ ch, programEnt m w = programUnit (rehome (takeEnt m w) e) w ch := by
  have he1 : pageEnt (takeEnt m w) (w.unit / 16) = some e := he
  unfold programEnt
  extract_lets pg mem1 m1
  change pageEnt m1 pg = some e at he1
  rw [he1]
  exact ⟨_, rfl⟩

/-- An entry of a page in flash programmed: its unit holds its granules, the entry goes, and the page may change its channel. -/
theorem programEnt_eq {m : Mod} {w : WbEnt} {e : PageEnt} (he : pageEnt m (w.unit / 16) = some e) (hb : e.bench = 2) :
    (∃ regs map, programEnt m w = { m with regs := regs, mem := { m.mem with
        map := map, flash := putUnit m.mem.flash (encipher m w.unit (mergedUnit m w)), wb := m.mem.wb.filter fun x => x.seq != w.seq } }) ∧
      ∀ q, seat (programEnt m w) q = seat m q := by
  obtain ⟨ch, hp⟩ := programEnt_of he
  have hpage : pageEnt (takeEnt m w) e.page = some e := (pageEnt_page he).symm ▸ he
  obtain ⟨⟨regs, map, hr⟩, hseat⟩ := rehome_spec hpage hb
  obtain ⟨regs', hu⟩ := programUnit_eq (rehome (takeEnt m w) e) w ch
  rw [hp, hu]
  refine ⟨⟨regs', map, ?_⟩, hseat⟩
  rw [hr]
  rfl

/-- Programming the oldest entry of the write buffer changes no byte. -/
theorem programEnt_oldest {m : Mod} {w : WbEnt} {b : List WbEnt} (h : wbHeld m) (hw : m.mem.wb = w :: b) :
    KeepsPlaces m (programEnt m w) ∧ (programEnt m w).mem.wb = b ∧ (programEnt m w).mem.wbSeq = m.mem.wbSeq ∧
      (programEnt m w).mem.cells = m.mem.cells ∧ ∀ a, flashByte (programEnt m w) a = flashByte m a := by
  obtain ⟨⟨hnd, hg⟩, hp⟩ := id h
  obtain ⟨-, e, he, hb⟩ := hp w (hw ▸ List.mem_cons_self)
  obtain ⟨hkeys, -⟩ := hg w (hw ▸ List.mem_cons_self)
  obtain ⟨⟨regs, map, ht⟩, hseat⟩ := programEnt_eq he hb
  have hrest : (m.mem.wb.filter fun x => x.seq != w.seq) = b := by
    rw [hw] at hnd ⊢
    obtain ⟨hfresh, -⟩ := List.nodup_cons.1 hnd
    rw [List.filter_cons_of_neg (by simp), List.filter_eq_self]
    intro x hx
    simpa using fun hxw : x.seq = w.seq => hfresh (List.mem_map.2 ⟨x, hx, hxw⟩)
  generalize programEnt m w = t at ht hseat
  have hwb : t.mem.wb = b := by rw [ht, ← hrest]
  have hflash : t.mem.flash = putUnit m.mem.flash (encipher m w.unit (mergedUnit m w)) := by rw [ht]
  have hsec : t.sec = m.sec := by rw [ht]
  refine ⟨⟨by rw [ht], hseat, by rw [ht], by rw [ht]; exact fun _ h => h, fun hm => ?_⟩, hwb, by rw [ht], by rw [ht], fun a => ?_⟩
  · exact wbHeld_of_sublist hm hseat (by rw [hwb, hw]; exact List.sublist_cons_self ..) (by rw [ht])
  · unfold flashByte
    rw [hwb, hw, wbLook, flashUnit_program w.unit _ _ hsec hflash]
    cases wbLook b a with
    | some g => rfl
    | none =>
      rw [Option.none_or, entLook]
      by_cases hu : w.unit = a / 4096
      · rw [if_pos hu.symm, if_pos hu, mergedUnit, unitByte_foldl_unitPut _ _ _ (Nat.mod_lt _ (by decide)) hkeys, hu,
          show a % 4096 % 32 = a % 32 by omega]
      · rw [if_neg fun h => hu h.symm, if_neg hu]

/-! A granule written into the write buffer (R441 to R443). -/

/-- An entry of a granule's unit with the granule in it. -/
def entPut (a : Nat) (g : List Byte) (e : WbEnt) : WbEnt :=
  { e with gran := (a % 4096 / 32, g) :: e.gran.filter fun x => x.1 != a % 4096 / 32 }

theorem entLook_entPut {e : WbEnt} (a x : Nat) (g : List Byte) (h : e.unit = a / 4096) :
    entLook (entPut a g e) x = if x / 32 = a / 32 then some g else entLook e x := by
  unfold entLook entPut
  dsimp only
  by_cases hu : e.unit = x / 4096
  · rw [if_pos hu, if_pos hu, granIn_cons]
    by_cases hk : x / 32 = a / 32
    · rw [if_pos (by dsimp only; omega), if_pos hk]
    · rw [if_neg (by dsimp only; omega), if_neg hk, granIn_filter_ne (by omega)]
  · rw [if_neg hu, if_neg hu, if_neg (by omega)]

theorem entLook_ne {e : WbEnt} {x : Nat} (h : e.unit ≠ x / 4096) : entLook e x = none := if_neg h

theorem wbLook_none {b : List WbEnt} {x : Nat} (h : (b.any fun e => e.unit = x / 4096) = false) : wbLook b x = none := by
  induction b with
  | nil => rfl
  | cons e b ih =>
    simp only [List.any_cons, Bool.or_eq_false_iff, decide_eq_false_iff_not] at h
    rw [wbLook, ih h.2, entLook_ne h.1]
    rfl

theorem wbLook_mapIf_entPut (b : List WbEnt) (a x : Nat) (g : List Byte) :
    wbLook (mapIf (fun e => e.unit = a / 4096) (entPut a g) b) x =
      if x / 32 = a / 32 ∧ (b.any fun e => e.unit = a / 4096) then some g else wbLook b x := by
  induction b with
  | nil => simp [mapIf, wbLook]
  | cons e b ih =>
    simp only [mapIf, List.map_cons, wbLook, List.any_cons] at ih ⊢
    rw [ih]
    by_cases hu : e.unit = a / 4096
    · simp only [hu, decide_true, if_true, Bool.true_or, and_true]
      rw [entLook_entPut a x g hu]
      by_cases hk : x / 32 = a / 32
      · by_cases hany : (b.any fun e => e.unit = a / 4096) = true
        · simp [hk, hany]
        · have hnone : wbLook b x = none := wbLook_none (by rw [show x / 4096 = a / 4096 by omega]; simpa using hany)
          simp [hk, hany, hnone]
      · simp [hk]
    · by_cases hk : x / 32 = a / 32
      · have hx : entLook e x = none := entLook_ne (by omega)
        simp [hu, hx]
      · simp [hk, hu]

/-- The module as a writer finds it that needs a new entry: the oldest entry is programmed where none is free. -/
def makeRoom (m : Mod) : Mod :=
  match m.mem.wb with
  | w :: _ => if m.mem.wb.length < wbMax then m else programEnt m w
  | [] => m

theorem wbPut_unit {m : Mod} {a : Nat} (g : List Byte) (h : (m.mem.wb.any fun e => e.unit = a / 4096) = true) :
    wbPut m a g = { m with mem := { m.mem with wb := mapIf (fun e => e.unit = a / 4096) (entPut a g) m.mem.wb } } := by
  unfold wbPut
  exact if_pos h

theorem wbPut_new {m : Mod} {a : Nat} (g : List Byte) (h : (m.mem.wb.any fun e => e.unit = a / 4096) = false) :
    wbPut m a g = { makeRoom m with mem := { (makeRoom m).mem with
      wb := (makeRoom m).mem.wb ++ [⟨a / 4096, [(a % 4096 / 32, g)], (makeRoom m).mem.wbSeq⟩], wbSeq := (makeRoom m).mem.wbSeq + 1 } } := by
  unfold wbPut
  exact if_neg (by simp only [h]; decide)

theorem makeRoom_spec {m : Mod} (h : wbHeld m) :
    KeepsPlaces m (makeRoom m) ∧ (makeRoom m).mem.wb.Sublist m.mem.wb ∧ (makeRoom m).mem.cells = m.mem.cells ∧
      ∀ a, flashByte (makeRoom m) a = flashByte m a := by
  unfold makeRoom
  split
  next w b hw =>
    split
    · exact ⟨.refl m, List.Sublist.refl _, rfl, fun _ => rfl⟩
    · obtain ⟨hk, hb, -, hc, hf⟩ := programEnt_oldest h hw
      exact ⟨hk, by rw [hb, hw]; exact List.sublist_cons_self .., hc, hf⟩
  · exact ⟨.refl m, List.Sublist.refl _, rfl, fun _ => rfl⟩

/-- A buffer in order with one more entry of a page in flash. -/
theorem wbHeld_append {m : Mod} {e : PageEnt} {a : Nat} {g : List Byte} (h : wbHeld m) (he : pageEnt m (pageNo a) = some e)
    (hb : e.bench = 2) (hg : g.length = 32) :
    wbHeld { m with mem := { m.mem with wb := m.mem.wb ++ [⟨a / 4096, [(a % 4096 / 32, g)], m.mem.wbSeq⟩], wbSeq := m.mem.wbSeq + 1 } } := by
  obtain ⟨⟨hnd, hgr⟩, hp⟩ := h
  have hpage : a / 4096 / 16 = pageNo a := by rw [Nat.div_div_eq_div_mul]; rfl
  refine ⟨⟨?_, fun w hw => ?_⟩, fun w hw => ?_⟩
  · rw [List.map_append, List.nodup_append]
    refine ⟨hnd, List.nodup_singleton _, fun x hx y hy => ?_⟩
    obtain ⟨w, hw, rfl⟩ := List.mem_map.1 hx
    obtain rfl : y = m.mem.wbSeq := by simpa using hy
    exact ne_of_lt (hp w hw).1
  · rcases List.mem_append.1 hw with hw | hw
    · exact hgr w hw
    · rw [List.mem_singleton.1 hw]
      refine ⟨List.nodup_singleton _, fun x hx => ?_⟩
      rw [List.mem_singleton.1 hx]
      exact ⟨by dsimp only; omega, hg⟩
  · rcases List.mem_append.1 hw with hw | hw
    · exact ⟨lt_trans (hp w hw).1 (Nat.lt_succ_self _), (hp w hw).2⟩
    · rw [List.mem_singleton.1 hw]
      exact ⟨Nat.lt_succ_self _, e, by rw [hpage]; exact he, hb⟩

/-- A buffer in order with a granule put into the entries of its unit. -/
theorem wbHeld_entPut {m : Mod} (a : Nat) {g : List Byte} (h : wbHeld m) (hg : g.length = 32) :
    wbHeld { m with mem := { m.mem with wb := mapIf (fun e => e.unit = a / 4096) (entPut a g) m.mem.wb } } := by
  obtain ⟨⟨hnd, hgr⟩, hp⟩ := h
  have hkeys : ∀ w ∈ m.mem.wb, ((entPut a g w).gran.map (·.1)).Nodup ∧ ∀ x ∈ (entPut a g w).gran, x.1 < 128 ∧ x.2.length = 32 := by
    intro w hw
    obtain ⟨hn, hx⟩ := hgr w hw
    refine ⟨List.nodup_cons.2 ⟨?_, (List.filter_sublist.map _).nodup hn⟩, fun x hxm => ?_⟩
    · simp
    · rcases List.mem_cons.1 hxm with rfl | hxm
      · exact ⟨by dsimp only; omega, hg⟩
      · exact hx x (List.mem_filter.1 hxm).1
  refine ⟨⟨?_, fun w hw => ?_⟩, fun w hw => ?_⟩
  · have : (mapIf (fun e => e.unit = a / 4096) (entPut a g) m.mem.wb).map (·.seq) = m.mem.wb.map (·.seq) := by
      simp only [mapIf, List.map_map]
      exact List.map_congr_left fun e _ => by dsimp only [Function.comp]; split <;> rfl
    rw [this]
    exact hnd
  · obtain ⟨v, hv, rfl⟩ := List.mem_map.1 hw
    split
    · exact hkeys v hv
    · exact hgr v hv
  · obtain ⟨v, hv, rfl⟩ := List.mem_map.1 hw
    split
    · exact hp v hv
    · exact hp v hv

/-- A granule written into the write buffer is what its page in flash reads there; every other byte of flash reads as before. -/
theorem wbPut_spec {m : Mod} {a : Nat} {g : List Byte} {e : PageEnt} (h : wbHeld m) (he : pageEnt m (pageNo a) = some e)
    (hb : e.bench = 2) (hg : g.length = 32) :
    KeepsPlaces m (wbPut m a g) ∧ (wbPut m a g).mem.cells = m.mem.cells ∧
      ∀ x, flashByte (wbPut m a g) x = if x / 32 = a / 32 then g.getD (x % 32) 0#8 else flashByte m x := by
  cases hany : m.mem.wb.any fun e => e.unit = a / 4096 with
  | true =>
    rw [wbPut_unit g hany]
    refine ⟨⟨rfl, fun _ => rfl, rfl, fun _ h => h, fun h => wbHeld_entPut a h hg⟩, rfl, fun x => ?_⟩
    unfold flashByte
    dsimp only
    rw [wbLook_mapIf_entPut, hany]
    by_cases hx : x / 32 = a / 32
    · simp [hx]
    · simp only [hx, false_and, if_false]
      rfl
  | false =>
    rw [wbPut_new g hany]
    obtain ⟨hk, hsub, hc, hf⟩ := makeRoom_spec h
    generalize makeRoom m = t at hk hsub hc hf
    have hseat := hk.seats (pageNo a)
    unfold seat at hseat
    rw [he, Option.map_some, Option.map_eq_some_iff] at hseat
    obtain ⟨f, hpf, hfe⟩ := hseat
    have hfb : f.bench = 2 := (congrArg Prod.fst hfe).trans hb
    refine ⟨hk.trans ⟨rfl, fun _ => rfl, rfl, fun _ h => h, fun h => wbHeld_append h hpf hfb hg⟩, hc, fun x => ?_⟩
    rw [← hf x]
    unfold flashByte
    dsimp only
    rw [wbLook_append, wbLook, wbLook, Option.none_or, entLook, granIn_cons]
    by_cases hx : x / 32 = a / 32
    · rw [if_pos (by dsimp only; omega), if_pos (by dsimp only; omega), if_pos hx, Option.some_or]
    · rw [if_neg hx]
      by_cases hu : a / 4096 = x / 4096
      · rw [if_pos hu, if_neg (by dsimp only; omega), show granIn [] (x % 4096 / 32) = none from rfl, Option.none_or]
        rfl
      · rw [if_neg hu, Option.none_or]
        rfl

/-! A granule applied (R434, R438). -/

/-- The granule is no longer known to be uncorrectable. -/
def clearUe (m : Mod) (a : Nat) : Mod := { m with mem := { m.mem with ue := m.mem.ue.filter (· != a) } }

/-- The granule stored where entry `e` says its page is. -/
def storeGran (m : Mod) (e : PageEnt) (a : Nat) (g : List Byte) : Mod :=
  let t := setEnt m { e with image := false }
  if e.bench = 2 then wbPut t a g else { t with mem := { t.mem with cells := cellsSet t.mem.cells a g } }

/-- A granule that a move has copied already goes to the move's log. -/
def logGran (m : Mod) (a : Nat) (g : List Byte) : Mod :=
  match moveOf m (pageNo a) with
  | none => m
  | some v =>
    if a % pageSize / 32 < v.copied then
      if v.log.length < 4096 then setMove m { v with log := v.log ++ [(a % pageSize / 32, g)] } else abandonMove m v
    else m

theorem applyGran_eq {m : Mod} {a : Nat} {e : PageEnt} (g : List Byte) (ha : a % 32 = 0) (he : pageEnt m (pageNo a) = some e) :
    applyGran m a g = logGran (storeGran (clearUe m a) e a g) a g := by
  have hal : a / 32 * 32 = a := by omega
  have he1 : pageEnt (clearUe m a) (pageNo a) = some e := he
  unfold applyGran
  rw [hal]
  extract_lets a' mem1 m1 m2
  have hm2 : m2 = storeGran (clearUe m a) e a g := by
    unfold m2
    change pageEnt m1 (pageNo a') = some e at he1
    rw [he1]
    rfl
  change logGran m2 a g = _
  rw [hm2]

theorem clearUe_spec (m : Mod) (a : Nat) : KeepsPlaces m (clearUe m a) ∧ ReadsSame m (clearUe m a) :=
  ⟨⟨rfl, fun _ => rfl, rfl, fun _ h => (List.mem_filter.1 h).1, id⟩, fun _ => rfl⟩

theorem setEnt_keeps {m : Mod} {e f : PageEnt} (h : pageEnt m e.page = some f) (hs : seatOf e = seatOf f) : KeepsPlaces m (setEnt m e) :=
  ⟨rfl, seat_setEnt h hs, rfl, fun _ h => h, fun hm => wbHeld_of_sublist hm (seat_setEnt h hs) (List.Sublist.refl _) le_rfl⟩

theorem logGran_spec (m : Mod) (a : Nat) (g : List Byte) : KeepsPlaces m (logGran m a g) ∧ ReadsSame m (logGran m a g) := by
  suffices h : ∃ regs moves backoff, logGran m a g = { m with regs := regs, mem := { m.mem with moves := moves, backoff := backoff } } by
    obtain ⟨regs, moves, backoff, ht⟩ := h
    rw [ht]
    exact ⟨⟨rfl, fun _ => rfl, rfl, fun _ h => h, id⟩, fun _ => rfl⟩
  unfold logGran
  split
  · exact ⟨_, _, _, rfl⟩
  · split
    · split
      · exact ⟨_, _, _, rfl⟩
      · unfold abandonMove
        dsimp only
        split <;> exact ⟨_, _, _, rfl⟩
    · exact ⟨_, _, _, rfl⟩

theorem seat_some {m : Mod} {q : Nat} {e : PageEnt} (h : pageEnt m q = some e) : seat m q = some (seatOf e) := by
  rw [seat, h, Option.map_some]

theorem pageEnt_of_seat {m t : Mod} {q : Nat} {e : PageEnt} (hs : seat t q = seat m q) (he : pageEnt m q = some e) :
    ∃ f, pageEnt t q = some f ∧ f.bench = e.bench := by
  rw [seat_some he, seat, Option.map_eq_some_iff] at hs
  obtain ⟨f, hf, hfe⟩ := hs
  exact ⟨f, hf, congrArg Prod.fst hfe⟩

theorem storeGran_spec {m : Mod} {a : Nat} {g : List Byte} {e : PageEnt} (h : wbHeld m) (he : pageEnt m (pageNo a) = some e)
    (ha : a % 32 = 0) (hg : g.length = 32) :
    KeepsPlaces m (storeGran m e a g) ∧
      ∀ x, readByte (storeGran m e a g) x = if x / 32 = a / 32 then g.getD (x % 32) 0#8 else readByte m x := by
  have hpage := pageEnt_page he
  have hset : KeepsPlaces m (setEnt m { e with image := false }) := setEnt_keeps (f := e) (by rw [hpage]; exact he) rfl
  have hent : pageEnt (setEnt m { e with image := false }) (pageNo a) = some { e with image := false } := by
    rw [pageEnt_setEnt, if_pos hpage.symm]
  have hsame : ∀ {x}, x / 32 = a / 32 → pageNo x = pageNo a := fun {x} hx => by unfold pageNo pageSize; omega
  unfold storeGran
  dsimp only
  by_cases hb : e.bench = 2
  · rw [if_pos hb]
    obtain ⟨hk, hc, hf⟩ := wbPut_spec (hset.held h) hent hb hg
    have hkeep := hset.trans hk
    refine ⟨hkeep, fun x => ?_⟩
    by_cases hx : x / 32 = a / 32
    · obtain ⟨f, hfe, hfb⟩ := pageEnt_of_seat (hkeep.seats (pageNo x)) (by rw [hsame hx]; exact he)
      rw [readByte_eq, hfe, byteIn_some, if_pos (hfb.trans hb), hf, if_pos hx, if_pos hx]
    · rw [if_neg hx]
      exact readByte_of_seat (hkeep.seats _) hc ((hf x).trans (by rw [if_neg hx]; rfl))
  · rw [if_neg hb]
    refine ⟨hset.trans ⟨rfl, fun _ => rfl, rfl, fun _ h => h, id⟩, fun x => ?_⟩
    have hcell : cellGet (cellsSet m.mem.cells a g) x = if x / 32 = a / 32 then g.getD (x % 32) 0#8 else cellGet m.mem.cells x := by
      rw [cellGet_cellsSet]
      by_cases hx : x / 32 = a / 32
      · have hin : a ≤ x ∧ x < a + g.length := by omega
        have hoff : x - a = x % 32 := by omega
        have hlt : x % 32 < g.length := by omega
        simp [hin, hx, hoff, hlt]
      · have hout : ¬ (a ≤ x ∧ x < a + g.length) := by omega
        rw [dif_neg hout, if_neg hx]
    rw [readByte_eq, readByte_eq]
    change byteIn (pageEnt (setEnt m { e with image := false }) (pageNo x)) (flashByte m x) (cellGet (cellsSet m.mem.cells a g) x) = _
    rw [pageEnt_setEnt, hpage, hcell]
    by_cases hx : x / 32 = a / 32
    · rw [if_pos (hsame hx)]
      simp [hx, hb]
    · by_cases hp : pageNo x = pageNo a
      · rw [if_pos hp, hp, he]
        simp [hx, hb]
      · rw [if_neg hp]
        simp [hx]

/-- A granule applied to a page that is there reads back, and no other byte changes. -/
theorem applyGran_spec {m : Mod} {a : Nat} {g : List Byte} (h : wbHeld m) (hp : allocated m a = true) (ha : a % 32 = 0) (hg : g.length = 32) :
    KeepsPlaces m (applyGran m a g) ∧
      ∀ x, readByte (applyGran m a g) x = if x / 32 = a / 32 then g.getD (x % 32) 0#8 else readByte m x := by
  obtain ⟨e, he⟩ := Option.isSome_iff_exists.1 hp
  obtain ⟨hk1, hr1⟩ := clearUe_spec m a
  obtain ⟨hk2, hr2⟩ := storeGran_spec (m := clearUe m a) (hk1.held h) he ha hg
  obtain ⟨hk3, hr3⟩ := logGran_spec (storeGran (clearUe m a) e a g) a g
  rw [applyGran_eq g ha he]
  exact ⟨hk1.trans (hk2.trans hk3), fun x => by rw [hr3 x, hr2 x, hr1 x]⟩

/-! A granule's enabled bytes written (R408). -/

theorem maskGran_getD (old : List Byte) (new : List (Option Byte)) (hl : old.length = new.length) (i : Nat) (hi : i < new.length) :
    (maskGran old new).getD i 0#8 = (new.getD i none).getD (old.getD i 0#8) := by
  have hio : i < old.length := hl ▸ hi
  simp [maskGran, hi, hio]

theorem filterMap_id_getD (g : List (Option Byte)) (h : g.all (·.isSome) = true) (i : Nat) (b : Byte) (hi : i < g.length) :
    (g.filterMap id).getD i 0#8 = (g.getD i none).getD b := by
  induction g generalizing i with
  | nil => simp at hi
  | cons x g ih =>
    simp only [List.all_cons, Bool.and_eq_true] at h
    obtain ⟨y, rfl⟩ := Option.isSome_iff_exists.1 h.1
    cases i with
    | zero => simp
    | succ i => simpa using ih h.2 i (by simpa using hi)

theorem filterMap_id_length (g : List (Option Byte)) (h : g.all (·.isSome) = true) : (g.filterMap id).length = g.length := by
  induction g with
  | nil => rfl
  | cons x g ih =>
    simp only [List.all_cons, Bool.and_eq_true] at h
    obtain ⟨y, rfl⟩ := Option.isSome_iff_exists.1 h.1
    simpa using ih h.2

/-- A write that its pseudo-channel accepts and no drill holds writes its enabled bytes, no other byte changing. -/
theorem putMask_spec {m : Mod} {a : Nat} {g : List (Option Byte)} (h : wbHeld m) (hp : allocated m a = true) (ha : a % 32 = 0)
    (hg : g.length = 32) (hs : stopFor m a = none) (ho : ownerOf m a = none) (hu : g.all (·.isSome) = true ∨ a ∉ m.mem.ue) :
    KeepsPlaces m (putMask m a g) ∧
      ∀ x, readByte (putMask m a g) x = if x / 32 = a / 32 then (g.getD (x % 32) none).getD (readByte m x) else readByte m x := by
  have hal : a / 32 * 32 = a := by omega
  have hput : putMask m a g = applyMask m a g := by
    unfold putMask
    rw [hal, hs]
    dsimp only
    rw [ho]
  rw [hput, applyMask]
  by_cases hall : g.all (·.isSome) = true
  · rw [if_pos hall]
    obtain ⟨hk, hr⟩ := applyGran_spec h hp ha ((filterMap_id_length g hall).trans hg)
    refine ⟨hk, fun x => ?_⟩
    rw [hr x, filterMap_id_getD g hall _ (readByte m x) (by omega)]
  · have hue : a ∉ m.mem.ue := hu.resolve_left hall
    have hlen : (readGran m a).length = g.length := by simp [readGran, readBytes, upto, hg]
    have hmask : (maskGran (readGran m a) g).length = 32 := by simp [maskGran, hlen, hg]
    rw [if_neg hall, hal, if_neg hue]
    obtain ⟨hk, hr⟩ := applyGran_spec h hp ha hmask
    refine ⟨hk, fun x => ?_⟩
    rw [hr x, maskGran_getD _ _ hlen _ (by omega)]
    by_cases hx : x / 32 = a / 32
    · have hold : (readGran m a).getD (x % 32) 0#8 = readByte m x := by
        have hlt : x % 32 < 32 := Nat.mod_lt _ (by decide)
        have hsum : a + x % 32 = x := by omega
        simp [readGran, readBytes, upto, hal, hlt, hsum]
      rw [if_pos hx, if_pos hx, hold]
    · rw [if_neg hx, if_neg hx]

end Sys2Proof.Proofs

/-! Reads of device memory by the host (R407, R421, R450), and the pages that its first writes allocate (R428). -/

namespace Sys2Proof.Proofs

open Sys2Proof Sys2Proof.Machine Sys2Proof.Laws

/-! What a read's check does beside. -/

/-- `t` is `m` after the checks of reads: registers, fault records, alerts and what is known to be uncorrectable may differ, but
not the count of refused responses. -/
structure ReadEffect (m t : Mod) : Prop where
  frame : t = { m with regs := t.regs, hbm := t.hbm, mgt := t.mgt, mem := { m.mem with ue := t.mem.ue } }
  refusals : regN t vlkP 0x64 = regN m vlkP 0x64

namespace ReadEffect

variable {m t u : Mod}

theorem refl (m : Mod) : ReadEffect m m := ⟨rfl, rfl⟩

theorem trans (h : ReadEffect m t) (g : ReadEffect t u) : ReadEffect m u :=
  ⟨by rw [g.frame, h.frame], g.refusals.trans h.refusals⟩

theorem reads (h : ReadEffect m t) : ReadsSame m t := fun a => by rw [h.frame]; rfl

theorem velom (h : ReadEffect m t) : t.velom = m.velom := by rw [h.frame]

theorem bump {p : Page} {r : Nat} (m : Mod) (n : Nat) (h : pageBase vlkP + 0x64 ≠ pageBase p + r) : ReadEffect m (bump m p r n) :=
  ⟨rfl, regN_bump_ne m n h⟩

theorem of_logsOn {p : Page} (h : LogsOn p m t) : ReadEffect m t :=
  ⟨by rw [h.1], congrArg _ (h.2 vlkP 0x64 (regAddr_ne_of_offset (by decide)) (regAddr_ne_of_offset (by decide)))⟩

theorem logErr (m : Mod) (p : Page) (code d : Nat) : ReadEffect m (logErr m p code d) := of_logsOn (logsOn_logErr m p code d true)

theorem setStack (m : Mod) (n : Nat) (k : Stack) : ReadEffect m (setStack m n k) := ⟨rfl, rfl⟩

end ReadEffect

theorem vlk_ne_hbm (s r : Nat) (hr : r < 4096) : pageBase vlkP + 0x64 ≠ pageBase (hbmP s) + r := by
  simp only [pageBase, vlkP, hbmP, blkNum]
  omega

theorem logErr_mem (m : Mod) (p : Page) (code d : Nat) (g : Bool) : (logErr m p code d g).mem = m.mem := by
  rw [(logsOn_logErr m p code d g).1]

theorem correctable_effect (m : Mod) (p : Place) (a : Nat) :
    ReadEffect m (correctable m p a) ∧ (correctable m p a).mem = m.mem := by
  refine ⟨(ReadEffect.bump m 1 (vlk_ne_hbm p.stack 0x60 (by decide))).trans ((ReadEffect.logErr _ _ 0x01 a).trans (.setStack ..)), ?_⟩
  unfold correctable
  exact logErr_mem ..

theorem uncorrectable_effect (m : Mod) (p : Place) (a : Nat) : ReadEffect m (uncorrectable m p a) := by
  have hlog := (ReadEffect.bump m 1 (vlk_ne_hbm p.stack 0x64 (by decide))).trans (ReadEffect.logErr _ (hbmP p.stack) 0x02 a)
  unfold uncorrectable
  extract_lets m1 m2 k r
  refine ReadEffect.trans ?_ (.setStack m2 p.stack _)
  unfold m2
  split
  · exact hlog.trans (.of_logsOn (.pend _ _ 6))
  · exact hlog

theorem eccEvent_effect (m : Mod) (a : Nat) (e : Ecc) : ReadEffect m (eccEvent m a e) := by
  unfold eccEvent
  split
  · exact .refl m
  · split
    · exact (correctable_effect ..).1
    · exact .refl m
  · extract_lets mem m1
    have h1 : ReadEffect m m1 := ⟨rfl, rfl⟩
    split
    · exact h1.trans (uncorrectable_effect ..)
    · exact h1

theorem readEvent_effect (m : Mod) (a : Nat) (e : Ecc) : ReadEffect m (readEvent m a e) := by
  unfold readEvent
  split
  · exact .refl m
  · split
    · exact eccEvent_effect m a e
    · cases e with
      | ok => exact .refl m
      | corrected => exact (ReadEffect.bump m 1 (regAddr_ne_of_offset (by decide))).trans (.logErr ..)
      | uncorrectable => exact (ReadEffect.bump m 1 (regAddr_ne_of_offset (by decide))).trans (.logErr ..)

/-- A check that finds no uncorrectable error leaves memory as it is. -/
theorem readEvent_mem {m : Mod} {a : Nat} {e : Ecc} (he : e ≠ .uncorrectable) (ha : a / 32 * 32 ∉ m.mem.ue) :
    (readEvent m a e).mem = m.mem := by
  have hecc : eccAt m a e = e := if_neg ha
  unfold readEvent
  split
  · rfl
  · split
    · unfold eccEvent
      rw [hecc]
      cases e with
      | ok => rfl
      | corrected =>
        dsimp only
        split
        · exact (correctable_effect ..).2
        · rfl
      | uncorrectable => exact absurd rfl he
    · cases e with
      | ok => rfl
      | corrected => exact logErr_mem ..
      | uncorrectable => exact absurd rfl he

theorem readEvent_ok {m : Mod} {a : Nat} (ha : a / 32 * 32 ∉ m.mem.ue) : readEvent m a .ok = m := by
  have hecc : eccAt m a .ok = .ok := if_neg ha
  unfold readEvent
  split
  · rfl
  · split
    · unfold eccEvent
      rw [hecc]
    · rfl

theorem readEvent_keeps {m : Mod} {a : Nat} {e : Ecc} (he : e ≠ .uncorrectable) (ha : a / 32 * 32 ∉ m.mem.ue) :
    KeepsPlaces m (readEvent m a e) := by
  have hf := (readEvent_effect m a e).frame
  have hmem := readEvent_mem he ha
  generalize readEvent m a e = t at hf hmem
  refine ⟨by rw [hf], fun q => ?_, by rw [hmem], by rw [hmem]; exact fun _ h => h, fun h => ?_⟩
  · rw [hf]; rfl
  · rw [hf]; exact h

/-- A granule of a range that is not lost is not known to be uncorrectable. -/
theorem not_ue_of_rangeLost {m : Mod} {a n x : Nat} (h : rangeLost m a n = false) (hlo : a < x + 32) (hhi : x < a + n) : x ∉ m.mem.ue := by
  intro hx
  simp only [rangeLost, Bool.or_eq_false_iff, List.any_eq_false] at h
  exact h.2 x hx (by simp [hlo, hhi])

/-! Pages allocated by a first write. -/

/-- `u` is `m` with pages added: no byte changes, no page goes, the write buffer stays in order, and no granule is newly
uncorrectable. -/
structure PagesAdded (m u : Mod) : Prop where
  frame : u = { m with mem := u.mem }
  reads : ReadsSame m u
  held : wbHeld m → wbHeld u
  present : ∀ q, (pageEnt m q).isSome = true → (pageEnt u q).isSome = true
  ue : ∀ a ∈ u.mem.ue, a ∈ m.mem.ue

namespace PagesAdded

variable {m t u : Mod}

theorem refl (m : Mod) : PagesAdded m m := ⟨rfl, fun _ => rfl, id, fun _ h => h, fun _ h => h⟩

theorem trans (h : PagesAdded m t) (g : PagesAdded t u) : PagesAdded m u where
  frame := by rw [g.frame, h.frame]
  reads a := (g.reads a).trans (h.reads a)
  held hm := g.held (h.held hm)
  present q hq := g.present q (h.present q hq)
  ue a ha := h.ue a (g.ue a ha)

end PagesAdded

theorem pageEnt_placePage (m : Mod) (pg b l q : Nat) :
    pageEnt (placePage m pg b l) q = if q = pg then some ⟨pg, b, l, false, false, false, 0⟩ else pageEnt m q := by
  unfold placePage
  dsimp only
  rw [pageEnt_setEnt]
  by_cases hq : q = pg
  · rw [if_pos hq, if_pos hq]
  · rw [if_neg hq, if_neg hq]
    exact (pageEnt_dropPage m pg q).trans (if_neg hq)

theorem unit_page (a : Nat) : a / 4096 / 16 = pageNo a := by rw [Nat.div_div_eq_div_mul]; rfl

theorem find_filter_of {α : Type} (l : List α) (p q : α → Bool) (h : ∀ x, q x = true → p x = true) : (l.filter p).find? q = l.find? q := by
  rw [List.find?_filter]
  congr 1
  funext x
  cases hq : q x
  · simp
  · simp [h x hq]

theorem find_filter_none {α : Type} (l : List α) (p q : α → Bool) (h : ∀ x, q x = true → p x = false) : (l.filter p).find? q = none := by
  rw [List.find?_eq_none]
  intro x hx hq
  have := (List.mem_filter.1 hx).2
  rw [h x hq] at this
  cases this

/-- A page placed reads zero, and every other page as before. -/
theorem readByte_placePage (m : Mod) (pg b l a : Nat) :
    readByte (placePage m pg b l) a = if pageNo a = pg then 0#8 else readByte m a := by
  have hcells : (placePage m pg b l).mem.cells = m.mem.cells.filter fun c => !decide (pageNo c.1 = pg) := rfl
  have hwb : (placePage m pg b l).mem.wb = m.mem.wb.filter fun e => !decide (e.unit / 16 = pg) := rfl
  have hflash : (placePage m pg b l).mem.flash = m.mem.flash.filter fun f => !decide (f.no / 16 = pg) := rfl
  have hkey : decipher (placePage m pg b l) = decipher m := rfl
  rw [readByte_eq, readByte_eq, pageEnt_placePage]
  simp only [flashByte, flashUnit, cellGet, mapGet, hcells, hwb, hflash, hkey]
  by_cases hp : pageNo a = pg
  · have hlook : wbLook (m.mem.wb.filter fun e => !decide (e.unit / 16 = pg)) a = none := by
      refine wbLook_none (List.any_eq_false.2 fun e he heu => ?_)
      have hne := (List.mem_filter.1 he).2
      rw [of_decide_eq_true heu, unit_page, hp] at hne
      simp at hne
    have hunit := find_filter_none m.mem.flash (fun f => !decide (f.no / 16 = pg)) (fun f => decide (f.no = a / 4096)) fun f hf => by
      rw [of_decide_eq_true hf, unit_page, hp]; simp
    have hcell := find_filter_none m.mem.cells (fun c => !decide (pageNo c.1 = pg)) (fun c => decide (c.1 = a)) fun c hc => by
      rw [of_decide_eq_true hc, hp]; simp
    rw [if_pos hp, if_pos hp, byteIn_some, hlook, hunit, hcell]
    simp [cellDflt, unitByte]
  · have hlook : wbLook (m.mem.wb.filter fun e => !decide (e.unit / 16 = pg)) a = wbLook m.mem.wb a := by
      refine wbLook_filter _ _ _ fun e _ he => entLook_ne fun heu => hp ?_
      rw [heu, unit_page] at he
      simpa using he
    have hunit := find_filter_of m.mem.flash (fun f => !decide (f.no / 16 = pg)) (fun f => decide (f.no = a / 4096)) fun f hf => by
      rw [of_decide_eq_true hf, unit_page]; simpa using hp
    have hcell := find_filter_of m.mem.cells (fun c => !decide (pageNo c.1 = pg)) (fun c => decide (c.1 = a)) fun c hc => by
      rw [of_decide_eq_true hc]; simpa using hp
    rw [if_neg hp, if_neg hp, hlook, hunit, hcell]

theorem wbHeld_placePage {m : Mod} (h : wbHeld m) (pg b l : Nat) : wbHeld (placePage m pg b l) := by
  obtain ⟨⟨hnd, hg⟩, hp⟩ := h
  have hsub : (placePage m pg b l).mem.wb.Sublist m.mem.wb := List.filter_sublist
  refine ⟨⟨(hsub.map _).nodup hnd, fun w hw => hg w (hsub.mem hw)⟩, fun w hw => ⟨(hp w (hsub.mem hw)).1, ?_⟩⟩
  have hne : ¬ w.unit / 16 = pg := by simpa using (List.mem_filter.1 hw).2
  rw [pageEnt_placePage, if_neg hne]
  exact (hp w (hsub.mem hw)).2

theorem placePage_added {m : Mod} {pg : Nat} (h : pageEnt m pg = none) (b l : Nat) : PagesAdded m (placePage m pg b l) where
  frame := rfl
  reads a := by
    rw [readByte_placePage]
    by_cases hp : pageNo a = pg
    · rw [if_pos hp, readByte_eq, hp, h, byteIn_none]
    · rw [if_neg hp]
  held hm := wbHeld_placePage hm pg b l
  present q hq := by
    rw [pageEnt_placePage]
    split
    · rfl
    · exact hq
  ue a ha := (List.mem_filter.1 ha).1

theorem allocHost_added {m u : Mod} {pg : Nat} (h : allocHost m pg = some u) : PagesAdded m u ∧ (pageEnt u pg).isSome = true := by
  unfold allocHost at h
  split at h
  next hp =>
    cases h
    exact ⟨.refl m, hp⟩
  next hp =>
    split at h
    · cases h
    · extract_lets bench at h
      split at h
      next l hl =>
        cases h
        have hnone : pageEnt m pg = none := by simpa using hp
        exact ⟨placePage_added hnone bench l, by rw [pageEnt_placePage, if_pos rfl]; rfl⟩
      · cases h

theorem foldl_bind_none {α β : Type} (f : α → β → Option α) (l : List β) : l.foldl (fun o i => o.bind fun m => f m i) none = none := by
  induction l with
  | nil => rfl
  | cons i l ih => exact ih

theorem foldl_allocHost {p : Nat} {l : List Nat} {m u : Mod} (h : l.foldl (fun o i => o.bind fun m => allocHost m (p + i)) (some m) = some u) :
    PagesAdded m u ∧ ∀ i ∈ l, (pageEnt u (p + i)).isSome = true := by
  induction l generalizing m with
  | nil =>
    cases h
    exact ⟨.refl _, fun i hi => by cases hi⟩
  | cons i l ih =>
    rw [List.foldl_cons, Option.bind_some] at h
    cases ht : allocHost m (p + i) with
    | none => rw [ht, foldl_bind_none (fun t i => allocHost t (p + i))] at h; cases h
    | some t =>
      rw [ht] at h
      obtain ⟨hadd, hi⟩ := allocHost_added ht
      obtain ⟨hrest, hl⟩ := ih h
      refine ⟨hadd.trans hrest, fun j hj => ?_⟩
      rcases List.mem_cons.1 hj with rfl | hj
      · exact hrest.present _ hi
      · exact hl j hj

/-- The pages of a store are there once they are allocated. -/
theorem allocStore_added {m u : Mod} {a n : Nat} (h : allocStore m a n = some u) :
    PagesAdded m u ∧ ∀ i, i < n → allocated u (a + i) = true := by
  obtain ⟨hadd, hall⟩ := foldl_allocHost h
  refine ⟨hadd, fun i hi => ?_⟩
  have hlo : pageNo a ≤ pageNo (a + i) := Nat.div_le_div_right (by omega)
  have hhi : pageNo (a + i) ≤ pageNo (a + n - 1) := Nat.div_le_div_right (by omega)
  have hpage := hall (pageNo (a + i) - pageNo a) (by simp only [upto, List.mem_range]; omega)
  rwa [Nat.add_sub_cancel' hlo] at hpage

end Sys2Proof.Proofs

/-! The host's messages on the Velom link (chapter 15): what each demand answers and does. -/

namespace Sys2Proof.Proofs

open Sys2Proof Sys2Proof.Machine Sys2Proof.Laws

/-! Answers. -/

theorem mem_sendMsg (m : Mod) (x : Msg) : x ∈ (sendMsg m x).velom.out ++ (sendMsg m x).velom.held := mem_velomSend m.velom x

/-- A message sent changes the link, what is out and what is held. -/
theorem velomSend_frame (v : Velom) (x : Msg) :
    velomSend v x = { v with link := (velomSend v x).link, out := (velomSend v x).out, held := (velomSend v x).held } := by
  unfold velomSend
  split
  · rfl
  · split <;> rfl

theorem velomSend_leases (v : Velom) (x : Msg) : (velomSend v x).leases = v.leases := by rw [velomSend_frame]
theorem velomSend_recalls (v : Velom) (x : Msg) : (velomSend v x).recalls = v.recalls := by rw [velomSend_frame]
theorem velomSend_demands (v : Velom) (x : Msg) : (velomSend v x).demands = v.demands := by rw [velomSend_frame]

theorem regN_countErr (m : Mod) {st : Nat} (h : st ≠ 0) : regN (countErr m st) vlkP 0x64 = min (regN m vlkP 0x64 + 1) 0xFFFFFFFF := by
  rw [countErr, if_neg h, regN_bump]

theorem countErr_frame (m : Mod) (st : Nat) : countErr m st = { m with regs := (countErr m st).regs } := by
  unfold countErr
  split <;> rfl

theorem ackMsg_frame (m : Mod) (tag st : Nat) : ackMsg m tag st = { m with regs := (ackMsg m tag st).regs, velom := (ackMsg m tag st).velom } := by
  unfold ackMsg
  rw [countErr_frame]
  rfl

theorem replyMsg_frame (m : Mod) (tag st l : Nat) (d : List Byte) :
    replyMsg m tag st l d = { m with regs := (replyMsg m tag st l d).regs, velom := (replyMsg m tag st l d).velom } := by
  unfold replyMsg
  rw [countErr_frame]
  rfl

theorem readsSame_ackMsg (m : Mod) (tag st : Nat) : ReadsSame m (ackMsg m tag st) := fun a => by rw [ackMsg_frame]; rfl

theorem readsSame_replyMsg (m : Mod) (tag st l : Nat) (d : List Byte) : ReadsSame m (replyMsg m tag st l d) := fun a => by
  rw [replyMsg_frame]; rfl

theorem readsSame_trans {m t u : Mod} (h : ReadsSame m t) (g : ReadsSame t u) : ReadsSame m u := fun a => (g a).trans (h a)

/-- A refusal by HostAck or HostReply goes out and is counted (Table VL-9). -/
theorem refused_ack {m t : Mod} (h : ReadEffect m t) (tag : Nat) {st : Nat} (hst : st ≠ 0) :
    Msg.ack tag st ∈ (ackMsg t tag st).velom.out ++ (ackMsg t tag st).velom.held ∧
    regN (ackMsg t tag st) vlkP 0x64 = min (regN m vlkP 0x64 + 1) 0xFFFFFFFF ∧ ReadsSame m (ackMsg t tag st) :=
  ⟨mem_sendMsg .., by rw [← h.refusals]; exact regN_countErr t hst, readsSame_trans h.reads (readsSame_ackMsg _ _ _)⟩

theorem refused_reply {m t : Mod} (h : ReadEffect m t) (tag : Nat) {st : Nat} (hst : st ≠ 0) :
    Msg.reply tag st 0 [] ∈ (replyMsg t tag st 0 []).velom.out ++ (replyMsg t tag st 0 []).velom.held ∧
    regN (replyMsg t tag st 0 []) vlkP 0x64 = min (regN m vlkP 0x64 + 1) 0xFFFFFFFF ∧ ReadsSame m (replyMsg t tag st 0 []) :=
  ⟨mem_sendMsg .., by rw [← h.refusals]; exact regN_countErr t hst, readsSame_trans h.reads (readsSame_replyMsg _ _ _ _ _)⟩

/-! A protocol error takes the link out of ACTIVE (R473). -/

theorem protocolError_velom {m : Mod} (op tag : Nat) (h : m.velom.link.st = 3) : (protocolError m .velom op tag).velom.link.st = 4 := by
  have hv : (logErr m (linkPage .velom) 0x12 (op % 256 + tag % 65536 * 256)).velom = m.velom := by rw [(logsOn_logErr ..).1]
  unfold protocolError enterRecovery
  simp [linkOf, hv, h, setLink]

/-! Loads (R421, R427, R459). -/

/-- What a served read does before it grants and answers: its check, and the count of flash units read. -/
def readSteps (m : Mod) (a n : Nat) (e : Ecc) : Mod :=
  let t := if (pageEnt m (pageNo a)).isSome then readEvent m a e else m
  match pageEnt t (pageNo a) with
  | some p => if p.bench = 2 then bump t ⟨4, .flc, p.loc⟩ 0x4C (flashUnits t a n).length else t
  | none => t

theorem readSteps_effect (m : Mod) (a n : Nat) (e : Ecc) : ReadEffect m (readSteps m a n e) := by
  unfold readSteps
  extract_lets t
  have ht : ReadEffect m t := by
    unfold t
    split
    · exact readEvent_effect ..
    · exact .refl m
  split
  · split
    · exact ht.trans (.bump t _ (regAddr_ne_of_offset (by decide)))
    · exact ht
  · exact ht

theorem readSteps_absent {m : Mod} {a : Nat} (n : Nat) (e : Ecc) (h : pageEnt m (pageNo a) = none) : readSteps m a n e = m := by
  simp [readSteps, h]

/-- A read that finds nothing wrong changes registers alone. -/
theorem readSteps_ok {m : Mod} {a : Nat} (n : Nat) (h : a / 32 * 32 ∉ m.mem.ue) :
    readSteps m a n .ok = { m with regs := (readSteps m a n .ok).regs } := by
  unfold readSteps
  rw [readEvent_ok h, ite_self]
  dsimp only
  split
  · split <;> rfl
  · rfl

/-- The lease that a served read grants. -/
def grantLease (m : Mod) (a lease : Nat) : Mod := if lease = 0 then m else setLease m (a / 64) lease

theorem grantLease_reads (m : Mod) (a lease : Nat) : ReadsSame m (grantLease m a lease) := fun x => by
  unfold grantLease
  split <;> rfl

section
variable {m : Mod} {a : Nat}

theorem serveRead_retired (tag n lease : Nat) (e : Ecc) (h : pageNo a ∈ m.mem.retiredPg) :
    serveRead m tag a n lease e = replyMsg m tag 3 0 [] := by
  simp only [serveRead, h, if_true]

theorem serveRead_lost {n : Nat} {e : Ecc} (tag lease : Nat) (h : pageNo a ∉ m.mem.retiredPg) (hp : allocated m a = true)
    (hl : e = .uncorrectable ∨ rangeLost m a n = true) :
    serveRead m tag a n lease e = replyMsg (if rangeLost m a n then m else readEvent m a e) tag 3 0 [] := by
  have hp' : (pageEnt m (pageNo a)).isSome = true := hp
  have hl' : (decide (e = .uncorrectable) || rangeLost m a n) = true := by simpa using hl
  simp only [serveRead, h, if_false, hp', hl', Bool.and_self, if_true]

theorem serveRead_served {n : Nat} {e : Ecc} (tag lease : Nat) (h : pageNo a ∉ m.mem.retiredPg)
    (hl : allocated m a = true → e ≠ .uncorrectable ∧ rangeLost m a n = false) :
    serveRead m tag a n lease e =
      replyMsg (grantLease (readSteps m a n e) a lease) tag 0 lease (readBytes (grantLease (readSteps m a n e) a lease) a n) := by
  have hgood : ((pageEnt m (pageNo a)).isSome && (decide (e = .uncorrectable) || rangeLost m a n)) = false := by
    cases hp : (pageEnt m (pageNo a)).isSome
    · rfl
    · obtain ⟨he, hr⟩ := hl hp
      simp [he, hr]
  simp only [serveRead, h, if_false, hgood, Bool.false_eq_true]
  rfl

end

theorem readBytes_of_reads {m t : Mod} (h : ReadsSame m t) (a n : Nat) : readBytes t a n = readBytes m a n :=
  List.map_congr_left fun i _ => h (a + i)

theorem readBytes_absent {m : Mod} {a n : Nat} (h : pageEnt m (pageNo a) = none) (hp : pageNo a = pageNo (a + n - 1)) :
    readBytes m a n = List.replicate n 0#8 := by
  rw [List.eq_replicate_iff]
  refine ⟨by simp [readBytes, upto], fun b hb => ?_⟩
  obtain ⟨i, hi, rfl⟩ := List.mem_map.1 hb
  have hlt : i < n := List.mem_range.1 hi
  have hpage : pageNo (a + i) = pageNo a := by
    have hlo : pageNo a ≤ pageNo (a + i) := Nat.div_le_div_right (by omega)
    have hhi : pageNo (a + i) ≤ pageNo (a + n - 1) := Nat.div_le_div_right (by omega)
    omega
  rw [readByte_eq, hpage, h, byteIn_none]

/-- A load outside the device range, not of whole lines, or across a page (log entry 63). -/
def loadBad (a n : Nat) : Prop := devEnd ≤ a ∨ a % 64 ≠ 0 ∨ pageNo a ≠ pageNo (a + n - 1)

section
variable {m : Mod} {a n : Nat} (tag : Nat) (e : Ecc)

theorem tryLoad_bad (h : loadBad a n) : tryLoad m tag a n e = (replyMsg m tag 1 0 [], true) := by
  have h' : (decide (devEnd ≤ a) || a % 64 != 0 || pageNo a != pageNo (a + n - 1)) = true := by simpa [loadBad, or_assoc] using h
  simp only [tryLoad, h', if_true]

theorem tryLoad_good (h : ¬ loadBad a n) :
    tryLoad m tag a n e = if readWaits m a n = true then (m, false) else (serveRead m tag a n 0 e, true) := by
  have h' : (decide (devEnd ≤ a) || a % 64 != 0 || pageNo a != pageNo (a + n - 1)) = false := by
    simpa [loadBad, not_or, and_assoc] using h
  simp only [tryLoad, h', Bool.false_eq_true, if_false]

end

/-- What a served read answers and keeps: the bytes with the lease, no byte changed. -/
theorem serveRead_answer {m : Mod} {a n : Nat} {e : Ecc} (tag lease : Nat) (h : pageNo a ∉ m.mem.retiredPg)
    (hl : allocated m a = true → e ≠ .uncorrectable ∧ rangeLost m a n = false) :
    let t := serveRead m tag a n lease e
    Msg.reply tag 0 lease (readBytes m a n) ∈ t.velom.out ++ t.velom.held ∧ ReadsSame m t ∧
      t.velom.leases = (grantLease m a lease).velom.leases := by
  have heff := readSteps_effect m a n e
  have hreads := readsSame_trans heff.reads (grantLease_reads (readSteps m a n e) a lease)
  intro t
  have ht : t = sendMsg (grantLease (readSteps m a n e) a lease) (.reply tag 0 lease (readBytes m a n)) := by
    unfold t
    rw [serveRead_served tag lease h hl, readBytes_of_reads hreads]
    rfl
  rw [ht]
  refine ⟨mem_sendMsg .., hreads, ?_⟩
  have hv := heff.velom
  refine (velomSend_leases ..).trans ?_
  unfold grantLease
  split
  · rw [hv]
  · simp only [setLease, hv]

/-! Leases (R463, R464). -/

theorem leaseOf_of_leases {m t : Mod} (h : t.velom.leases = m.velom.leases) (k : Nat) : leaseOf t k = leaseOf m k := by
  simp only [leaseOf, h]

theorem leaseOf_setLease (m : Mod) (line : Nat) {kind : Nat} (hk : kind ≠ 0) (k : Nat) :
    leaseOf (setLease m line kind) k = if k = line then kind else leaseOf m k := by
  simp only [leaseOf, setLease, if_neg hk, List.find?_append]
  by_cases h : k = line
  · subst h
    have hnone := find_filter_none m.velom.leases (fun l => l.line != k) (fun l => decide (l.line = k)) (by simp)
    simp [hnone]
  · have hsome := find_filter_of m.velom.leases (fun l => l.line != line) (fun l => decide (l.line = k)) fun l hl => by
      simpa [of_decide_eq_true hl] using h
    have hne : ¬ line = k := fun he => h he.symm
    simp [hsome, h, hne]

section
variable {m : Mod} {a : Nat} (tag want : Nat) (e : Ecc) (hin : a < devEnd) (hal : a % 64 = 0)
include hin hal

theorem lease_in_range : (decide (devEnd ≤ a) || a % 64 != 0) = false := by
  have : ¬ devEnd ≤ a := by omega
  simp [this, hal]

theorem line_good : ¬ loadBad a 64 := by
  have hpage : pageNo (a + 64 - 1) = pageNo a := by unfold pageNo pageSize; omega
  unfold loadBad
  omega

theorem tryLease_waits (hw : readWaits m a 64 = true) : tryLease m tag a want e = (m, false) := by
  simp only [tryLease, lease_in_range hin hal, Bool.false_eq_true, if_false, tryLoad_good tag e (line_good hin hal), hw, if_true, ite_self]

theorem tryLease_plain (hp : inHostWin a = false ∨ inOwned m (a / 64) = true) :
    tryLease m tag a want e = tryLoad m tag a 64 e := by
  have hp' : (!inHostWin a || inOwned m (a / 64)) = true := by simpa using hp
  simp only [tryLease, lease_in_range hin hal, Bool.false_eq_true, if_false, hp', if_true]

variable (hh : inHostWin a = true) (ho : inOwned m (a / 64) = false) (hw : readWaits m a 64 = false)
include hh ho hw

theorem tryLease_full {l : Lease} {ls : List Lease} (h0 : leaseOf m (a / 64) = 0) (hl : m.velom.leases = l :: ls)
    (hf : leaseMax ≤ m.velom.leases.length) (hr : recallOf m l.line = none) :
    tryLease m tag a want e = (addRecall m l.line 0 .claim, false) := by
  have hfull : (decide (leaseOf m (a / 64) = 0) && decide (leaseMax ≤ m.velom.leases.length)) = true := by simp [h0, hf]
  simp only [tryLease, lease_in_range hin hal, hh, ho, hw, hfull, Bool.false_eq_true, if_false, Bool.not_true, Bool.or_self, if_true]
  rw [hl]
  simp [hr]

theorem tryLease_grants (hf : leaseOf m (a / 64) ≠ 0 ∨ m.velom.leases.length < leaseMax) :
    tryLease m tag a want e = (serveRead m tag a 64 want e, true) := by
  have hf' : (decide (leaseOf m (a / 64) = 0) && decide (leaseMax ≤ m.velom.leases.length)) = false := by
    rcases hf with hf | hf
    · simp [hf]
    · simp [Nat.not_le.2 hf]
  simp only [tryLease, lease_in_range hin hal, hh, ho, hw, hf', Bool.false_eq_true, if_false, Bool.not_true, Bool.or_self]

end

/-- A Recall begun is sent, stands in the list with what waits for it, and leaves the leases as they are (R464). -/
theorem addRecall_begins {m : Mod} {line : Nat} (keep : Nat) (w : Waiter) (h : recallOf m line = none) :
    let t := addRecall m line keep w
    Msg.recall (line * 64) keep ∈ t.velom.out ++ t.velom.held ∧ recallOf t line = some ⟨line, keep, now m, [w]⟩ ∧
      t.velom.leases = m.velom.leases ∧ t.velom.demands = m.velom.demands := by
  have ht : addRecall m line keep w = sendMsg { bump m vlkP 0x5C with
      velom := { m.velom with recalls := m.velom.recalls ++ [⟨line, keep, now m, [w]⟩] } } (.recall (line * 64) keep) := by
    simp only [addRecall, h]
    rfl
  intro t
  unfold t
  rw [ht]
  refine ⟨mem_sendMsg .., ?_, velomSend_leases .., velomSend_demands ..⟩
  unfold recallOf at h ⊢
  simp [sendMsg, velomSend_recalls, h]

/-! Stores (R408, R427, R428). -/

/-- One granule of a store written: a part of it by read-modify-write. -/
def putStore (m : Mod) (e : Ecc) (g : Nat × List (Option Byte)) : Mod :=
  putMask (if g.2.any (·.isNone) then readEvent m g.1 e else m) g.1 g.2

theorem applyStore_eq (m : Mod) (gs : List (Nat × List (Option Byte))) (e : Ecc) :
    applyStore m gs e = gs.foldl (fun m g => putStore m e g) m := rfl

/-- The module takes the write of a granule at once: its page is there, no drill holds it up, and what it leaves of the granule can
be read. -/
structure Accepts (m : Mod) (e : Ecc) (g : Nat × List (Option Byte)) : Prop where
  aligned : g.1 % 32 = 0
  whole : g.2.length = 32
  present : allocated m g.1 = true
  flows : stopFor m g.1 = none
  unowned : ownerOf m g.1 = none
  sound : g.2.any (·.isNone) = true → e ≠ .uncorrectable ∧ g.1 ∉ m.mem.ue

theorem Accepts.mono {m t : Mod} {e : Ecc} {g : Nat × List (Option Byte)} (h : Accepts m e g) (hk : KeepsPlaces m t) : Accepts t e g where
  aligned := h.aligned
  whole := h.whole
  present := by rw [hk.allocated]; exact h.present
  flows := by rw [hk.stopFor]; exact h.flows
  unowned := by rw [hk.ownerOf]; exact h.unowned
  sound hn := ⟨(h.sound hn).1, fun hu => (h.sound hn).2 (hk.ue _ hu)⟩

theorem putStore_spec {m : Mod} {e : Ecc} {g : Nat × List (Option Byte)} (hw : wbHeld m) (h : Accepts m e g) :
    KeepsPlaces m (putStore m e g) ∧
      ∀ x, readByte (putStore m e g) x = if x / 32 = g.1 / 32 then (g.2.getD (x % 32) none).getD (readByte m x) else readByte m x := by
  have hal : g.1 / 32 * 32 = g.1 := by have := h.aligned; omega
  unfold putStore
  by_cases hn : g.2.any (·.isNone) = true
  · obtain ⟨he, hu⟩ := h.sound hn
    have hk := readEvent_keeps (a := g.1) he (by rw [hal]; exact hu)
    have h' := h.mono hk
    have hr := (readEvent_effect m g.1 e).reads
    rw [if_pos hn]
    obtain ⟨hk2, hr2⟩ := putMask_spec (hk.held hw) h'.present h'.aligned h'.whole h'.flows h'.unowned (.inr (h'.sound hn).2)
    exact ⟨hk.trans hk2, fun x => by rw [hr2 x, hr x]⟩
  · have hall : g.2.all (·.isSome) = true := by
      rw [List.all_eq_true]
      intro o ho
      by_contra hs
      exact hn (List.any_eq_true.2 ⟨o, ho, by simpa using hs⟩)
    rw [if_neg hn]
    exact putMask_spec hw h.present h.aligned h.whole h.flows h.unowned (.inl hall)

/-- A store of granules that the module accepts writes each granule's enabled bytes and no other byte. -/
theorem applyStore_spec {gs : List (Nat × List (Option Byte))} {m : Mod} {e : Ecc} (hw : wbHeld m) (h : ∀ g ∈ gs, Accepts m e g)
    (hd : gs.Pairwise fun g k => g.1 / 32 ≠ k.1 / 32) :
    KeepsPlaces m (applyStore m gs e) ∧ (∀ x, (∀ g ∈ gs, x / 32 ≠ g.1 / 32) → readByte (applyStore m gs e) x = readByte m x) ∧
      ∀ g ∈ gs, ∀ x, x / 32 = g.1 / 32 → readByte (applyStore m gs e) x = (g.2.getD (x % 32) none).getD (readByte m x) := by
  rw [applyStore_eq]
  induction gs generalizing m with
  | nil => exact ⟨.refl m, fun _ _ => rfl, fun g hg => by cases hg⟩
  | cons g gs ih =>
    obtain ⟨hne, hd⟩ := List.pairwise_cons.1 hd
    obtain ⟨hk, hr⟩ := putStore_spec hw (h g List.mem_cons_self)
    obtain ⟨hk2, hout, hin⟩ := ih (hk.held hw) (fun k hm => (h k (List.mem_cons_of_mem _ hm)).mono hk) hd
    rw [List.foldl_cons]
    refine ⟨hk.trans hk2, fun x hx => ?_, fun k hm x hx => ?_⟩
    · rw [hout x fun k hm => hx k (List.mem_cons_of_mem _ hm), hr x, if_neg (hx g List.mem_cons_self)]
    · rcases List.mem_cons.1 hm with rfl | hm
      · rw [hout x fun j hj => hx ▸ hne j hj, hr x, if_pos hx]
      · rw [hin k hm x hx, hr x, if_neg (by rw [hx]; exact (hne k hm).symm)]

/-! The granules of a store. -/

/-- Granule `i` of a store's data. -/
def dataGran (a : Nat) (data : List (Option Byte)) (i : Nat) : Nat × List (Option Byte) := (a + 32 * i, (data.drop (32 * i)).take 32)

theorem mem_storeGrans {a : Nat} {data : List (Option Byte)} {g : Nat × List (Option Byte)} :
    g ∈ storeGrans a data ↔ (∃ i, i < data.length / 32 ∧ dataGran a data i = g) ∧ g.2.any (·.isSome) = true := by
  simp [storeGrans, dataGran, upto, List.mem_filter]

theorem storeGrans_apart {a : Nat} (data : List (Option Byte)) (ha : a % 32 = 0) :
    (storeGrans a data).Pairwise fun g k => g.1 / 32 ≠ k.1 / 32 := by
  refine List.Pairwise.filter _ (List.pairwise_map.2 (List.pairwise_lt_range.imp fun {i j} hij => ?_))
  dsimp only
  omega

theorem chunk_getD {data : List (Option Byte)} {i k : Nat} (hk : k < 32) : ((data.drop (32 * i)).take 32).getD k none = data.getD (32 * i + k) none := by
  simp [hk]

theorem chunk_length {data : List (Option Byte)} {i : Nat} (h : data.length % 32 = 0) (hi : i < data.length / 32) :
    ((data.drop (32 * i)).take 32).length = 32 := by
  rw [List.length_take, List.length_drop]
  omega

/-- A store whose granules are all accepted leaves each enabled byte as written and every other as it was. -/
theorem store_bytes {m : Mod} {a : Nat} {data : List (Option Byte)} {e : Ecc} (hw : wbHeld m) (ha : a % 32 = 0) (hlen : data.length % 32 = 0)
    (h : ∀ g ∈ storeGrans a data, Accepts m e g) :
    let t := applyStore m (storeGrans a data) e
    KeepsPlaces m t ∧ (∀ x, x < a ∨ a + data.length ≤ x → readByte t x = readByte m x) ∧
      ∀ i, i < data.length → readByte t (a + i) = (data.getD i none).getD (readByte m (a + i)) := by
  obtain ⟨hk, hout, hin⟩ := applyStore_spec hw h (storeGrans_apart data ha)
  refine ⟨hk, fun x hx => hout x fun g hg => ?_, fun i hi => ?_⟩
  · obtain ⟨⟨j, hj, rfl⟩, -⟩ := mem_storeGrans.1 hg
    unfold dataGran
    dsimp only
    omega
  · have hj : i / 32 < data.length / 32 := by omega
    have hline : (a + i) / 32 = (a + 32 * (i / 32)) / 32 := by omega
    have hmod : (a + i) % 32 = i % 32 := by omega
    have hbyte : ((data.drop (32 * (i / 32))).take 32).getD (i % 32) none = data.getD i none := by
      rw [chunk_getD (Nat.mod_lt _ (by decide)), Nat.div_add_mod]
    by_cases hany : ((data.drop (32 * (i / 32))).take 32).any (·.isSome) = true
    · have hg : dataGran a data (i / 32) ∈ storeGrans a data := mem_storeGrans.2 ⟨⟨_, hj, rfl⟩, hany⟩
      rw [hin _ hg (a + i) hline, hmod]
      exact congrArg (fun o => Option.getD o (readByte m (a + i))) hbyte
    · have hnone : data.getD i none = none := by
        rw [← hbyte]
        cases hb : ((data.drop (32 * (i / 32))).take 32).getD (i % 32) none with
        | none => rfl
        | some b =>
          refine absurd (List.any_eq_true.2 ⟨some b, ?_, rfl⟩) hany
          have hlt : i % 32 < ((data.drop (32 * (i / 32))).take 32).length := by
            rw [chunk_length hlen hj]; exact Nat.mod_lt _ (by decide)
          rw [List.getD_eq_getElem _ _ hlt] at hb
          exact hb ▸ List.getElem_mem hlt
      rw [hnone]
      refine hout (a + i) fun g hg => ?_
      obtain ⟨⟨j, hj', rfl⟩, hsome⟩ := mem_storeGrans.1 hg
      have hne : j ≠ i / 32 := by rintro rfl; exact hany hsome
      unfold dataGran
      dsimp only
      omega

end Sys2Proof.Proofs

/-! The host's accesses (R459 to R463): each demand's answer by its case. -/

namespace Sys2Proof.Proofs

open Sys2Proof Sys2Proof.Machine Sys2Proof.Laws

/-! Loads. -/

section
variable {m : Mod} (hup : m.velom.link.st = 3) (hidle : m.velom.demands = []) (tag : Nat) {a n : Nat} {e : Ecc}
include hup hidle

theorem load_bad (h : loadBad a n) :
    let t := hostDemand m (.load tag a n e)
    Msg.reply tag 1 0 [] ∈ t.velom.out ++ t.velom.held ∧ regN t vlkP 0x64 = min (regN m vlkP 0x64 + 1) 0xFFFFFFFF ∧
      t = { m with regs := t.regs, velom := t.velom } := by
  intro t
  have ht : t = replyMsg m tag 1 0 [] := hostDemand_served hup hidle (tryLoad_bad tag e h)
  obtain ⟨hs, hc, -⟩ := refused_reply (.refl m) tag (st := 1) (by decide)
  rw [ht]
  exact ⟨hs, hc, replyMsg_frame ..⟩

variable (hg : ¬ loadBad a n)
include hg

theorem load_waits (h : readWaits m a n = true) : hostDemand m (.load tag a n e) = queued m (.load tag a n e) := by
  refine hostDemand_waits hup hidle ?_
  rw [tryDemand, tryLoad_good tag e hg, if_pos h]

variable (hw : readWaits m a n = false)
include hw

theorem load_serves : hostDemand m (.load tag a n e) = serveRead m tag a n 0 e := by
  refine hostDemand_served hup hidle ?_
  rw [tryDemand, tryLoad_good tag e hg, if_neg (by simp [hw])]

theorem load_retired (h : pageNo a ∈ m.mem.retiredPg) :
    let t := hostDemand m (.load tag a n e)
    Msg.reply tag 3 0 [] ∈ t.velom.out ++ t.velom.held ∧ regN t vlkP 0x64 = min (regN m vlkP 0x64 + 1) 0xFFFFFFFF ∧
      t = { m with regs := t.regs, velom := t.velom } := by
  intro t
  have ht : t = replyMsg m tag 3 0 [] := (load_serves hup hidle tag hg hw).trans (serveRead_retired tag n 0 e h)
  obtain ⟨hs, hc, -⟩ := refused_reply (.refl m) tag (st := 3) (by decide)
  rw [ht]
  exact ⟨hs, hc, replyMsg_frame ..⟩

variable (hr : pageNo a ∉ m.mem.retiredPg)
include hr

theorem load_absent (h : pageEnt m (pageNo a) = none) :
    hostDemand m (.load tag a n e) = sendMsg m (.reply tag 0 0 (List.replicate n 0#8)) := by
  have hno : allocated m a = false := by simp [allocated, h]
  rw [load_serves hup hidle tag hg hw, serveRead_served tag 0 hr (by simp [hno]), readSteps_absent n e h, grantLease, if_pos rfl,
    readBytes_absent h (by unfold loadBad at hg; omega)]
  rfl

theorem load_lost (hp : allocated m a = true) (h : e = .uncorrectable ∨ rangeLost m a n = true) :
    let t := hostDemand m (.load tag a n e)
    Msg.reply tag 3 0 [] ∈ t.velom.out ++ t.velom.held ∧ regN t vlkP 0x64 = min (regN m vlkP 0x64 + 1) 0xFFFFFFFF ∧ ReadsSame m t := by
  intro t
  have ht : t = replyMsg (if rangeLost m a n then m else readEvent m a e) tag 3 0 [] :=
    (load_serves hup hidle tag hg hw).trans (serveRead_lost tag 0 hr hp h)
  have heff : ReadEffect m (if rangeLost m a n then m else readEvent m a e) := by
    split
    · exact .refl m
    · exact readEvent_effect ..
  rw [ht]
  exact refused_reply heff tag (by decide)

theorem load_served (hn : 0 < n) (he : e ≠ .uncorrectable) (hl : rangeLost m a n = false) :
    let t := hostDemand m (.load tag a n e)
    Msg.reply tag 0 0 (readBytes m a n) ∈ t.velom.out ++ t.velom.held ∧ ReadsSame m t ∧
      (e = .ok → t = { m with velom := t.velom, regs := t.regs }) := by
  intro t
  have ht : t = serveRead m tag a n 0 e := load_serves hup hidle tag hg hw
  obtain ⟨hs, hsame, -⟩ := serveRead_answer tag 0 hr (fun _ => ⟨he, hl⟩)
  rw [ht]
  refine ⟨hs, hsame, fun hok => ?_⟩
  subst hok
  have hal : a / 32 * 32 = a := by unfold loadBad at hg; omega
  have hue : a / 32 * 32 ∉ m.mem.ue := not_ue_of_rangeLost hl (by omega) (by omega)
  rw [serveRead_served tag 0 hr (fun _ => ⟨he, hl⟩), grantLease, if_pos rfl, replyMsg_frame, readSteps_ok n hue]

end

/-! Leases. -/

section
variable {m : Mod} (hup : m.velom.link.st = 3) (hidle : m.velom.demands = []) (tag want : Nat) {a : Nat} {e : Ecc}
  (hin : a < devEnd) (hal : a % 64 = 0)
include hup hidle hin hal

theorem lease_waits (h : readWaits m a 64 = true) : hostDemand m (.lease tag a want e) = queued m (.lease tag a want e) :=
  hostDemand_waits hup hidle (tryLease_waits tag want e hin hal h)

variable (hw : readWaits m a 64 = false)
include hw

theorem lease_plain (h : inHostWin a = false ∨ inOwned m (a / 64) = true) :
    hostDemand m (.lease tag a want e) = hostDemand m (.load tag a 64 e) := by
  have hload := tryLoad_good (m := m) tag e (line_good hin hal)
  rw [if_neg (by simp [hw])] at hload
  exact (hostDemand_served (d := .lease tag a want e) hup hidle ((tryLease_plain tag want e hin hal h).trans hload)).trans
    (hostDemand_served (d := .load tag a 64 e) hup hidle hload).symm

variable (hh : inHostWin a = true) (ho : inOwned m (a / 64) = false)
include hh ho

theorem lease_full {l : Lease} {ls : List Lease} (h0 : leaseOf m (a / 64) = 0) (hl : m.velom.leases = l :: ls)
    (hf : leaseMax ≤ m.velom.leases.length) (hr : recallOf m l.line = none) :
    let t := hostDemand m (.lease tag a want e)
    Msg.recall (l.line * 64) 0 ∈ t.velom.out ++ t.velom.held ∧ recallOf t l.line = some ⟨l.line, 0, now m, [.claim]⟩ ∧
      t.velom.leases = m.velom.leases ∧ t.velom.demands = [.lease tag a want e] := by
  intro t
  have ht : t = queued (addRecall m l.line 0 .claim) (.lease tag a want e) :=
    hostDemand_waits hup hidle (tryLease_full tag want e hin hal hh ho hw h0 hl hf hr)
  obtain ⟨hs, hrec, hleases, hdem⟩ := addRecall_begins 0 .claim hr
  rw [ht]
  exact ⟨hs, hrec, hleases, by rw [queued, hdem, hidle]; rfl⟩

theorem lease_grants (hwant : want ≠ 0) (hf : leaseOf m (a / 64) ≠ 0 ∨ m.velom.leases.length < leaseMax)
    (hr : pageNo a ∉ m.mem.retiredPg) (he : e ≠ .uncorrectable) (hl : rangeLost m a 64 = false) :
    let t := hostDemand m (.lease tag a want e)
    leaseOf t (a / 64) = want ∧ (∀ k, k ≠ a / 64 → leaseOf t k = leaseOf m k) ∧ ReadsSame m t ∧
      Msg.reply tag 0 want (readBytes m a 64) ∈ t.velom.out ++ t.velom.held := by
  intro t
  have ht : t = serveRead m tag a 64 want e := hostDemand_served hup hidle (tryLease_grants tag want e hin hal hh ho hw hf)
  obtain ⟨hs, hsame, hleases⟩ := serveRead_answer tag want hr (fun _ => ⟨he, hl⟩)
  have hlease : ∀ k, leaseOf t k = if k = a / 64 then want else leaseOf m k := fun k => by
    rw [ht, leaseOf_of_leases hleases, grantLease, if_neg hwant, leaseOf_setLease m _ hwant]
  refine ⟨by rw [hlease, if_pos rfl], fun k hk => by rw [hlease, if_neg hk], ?_, ?_⟩
  · rw [ht]; exact hsame
  · rw [ht]; exact hs

end

/-! Stores. -/

theorem page_in_range {a n p : Nat} (hlo : pageNo a ≤ p) (hhi : p ≤ pageNo (a + n - 1)) (hn : 0 < n) : ∃ i, i < n ∧ pageNo (a + i) = p := by
  refine ⟨max a (p * pageSize) - a, ?_, ?_⟩ <;> unfold pageNo pageSize at * <;> omega

/-- The Recalls that a store's lines wait for. -/
def storeRecalled (m : Mod) (a n : Nat) : Prop := ∃ k, a / 64 ≤ k ∧ k < a / 64 + n / 64 ∧ (recallOf m k).isSome = true

theorem storeRecalled_iff (m : Mod) (a n : Nat) :
    (((upto (n / 64)).map fun i => a / 64 + i).any fun l => (recallOf m l).isSome) = true ↔ storeRecalled m a n := by
  simp only [List.any_map, List.any_eq_true, upto, List.mem_range, Function.comp, storeRecalled]
  constructor
  · rintro ⟨i, hi, h⟩
    exact ⟨a / 64 + i, by omega, by omega, h⟩
  · rintro ⟨k, hlo, hhi, h⟩
    exact ⟨k - a / 64, by omega, by rwa [Nat.add_sub_cancel' hlo]⟩

theorem storeRetired_iff (m : Mod) (a n : Nat) (hn : 0 < n) :
    (((upto (pageNo (a + n - 1) + 1 - pageNo a)).map fun i => pageNo a + i).any fun p => decide (p ∈ m.mem.retiredPg)) = true ↔
      ∃ i, i < n ∧ pageNo (a + i) ∈ m.mem.retiredPg := by
  simp only [List.any_map, List.any_eq_true, upto, List.mem_range, Function.comp, decide_eq_true_eq]
  constructor
  · rintro ⟨i, hi, h⟩
    obtain ⟨j, hj, hp⟩ := page_in_range (a := a) (n := n) (p := pageNo a + i) (by omega) (by omega) hn
    exact ⟨j, hj, by rwa [hp]⟩
  · rintro ⟨i, hi, h⟩
    have hlo : pageNo a ≤ pageNo (a + i) := Nat.div_le_div_right (by omega)
    have hhi : pageNo (a + i) ≤ pageNo (a + n - 1) := Nat.div_le_div_right (by omega)
    exact ⟨pageNo (a + i) - pageNo a, by omega, by rwa [Nat.add_sub_cancel' hlo]⟩

/-- The reads of a store that MEDIA answers: its partly enabled granules, where a read of them is uncorrectable. -/
def hurtReads (m : Mod) (gs : List (Nat × List (Option Byte))) (e : Ecc) : Mod :=
  if e = .uncorrectable then gs.foldl (fun m g => if g.2.any (·.isNone) then readEvent m g.1 e else m) m else m

theorem hurtReads_effect (m : Mod) (gs : List (Nat × List (Option Byte))) (e : Ecc) : ReadEffect m (hurtReads m gs e) := by
  unfold hurtReads
  split
  · induction gs generalizing m with
    | nil => exact .refl m
    | cons g gs ih =>
      rw [List.foldl_cons]
      refine ReadEffect.trans ?_ (ih _)
      split
      · exact readEvent_effect ..
      · exact .refl m
  · exact .refl m

section
variable {m : Mod} (tag : Nat) {a : Nat} {data : List (Option Byte)} (e : Ecc)

theorem tryStore_range (h : devEnd < a + data.length ∨ a % 64 ≠ 0) : tryStore m tag a data e = (ackMsg m tag 1, true) := by
  have h' : (decide (devEnd < a + data.length) || a % 64 != 0) = true := by simpa using h
  simp only [tryStore, h', if_true]

variable (hr : a + data.length ≤ devEnd) (ha : a % 64 = 0)
include hr ha

theorem store_in_range : (decide (devEnd < a + data.length) || a % 64 != 0) = false := by
  simp [ha, Nat.not_lt.2 hr]

theorem tryStore_outside (h : inHostWin a = false) : tryStore m tag a data e = (ackMsg (bump m hauP 0x70) tag 2, true) := by
  simp only [tryStore, store_in_range hr ha, h, Bool.false_eq_true, if_false, Bool.not_false, if_true]

variable (hh : inHostWin a = true)
include hh

theorem tryStore_recalled (h : storeRecalled m a data.length) : tryStore m tag a data e = (m, false) := by
  simp only [tryStore, store_in_range hr ha, hh, Bool.false_eq_true, if_false, Bool.not_true, (storeRecalled_iff ..).2 h, if_true]

variable (hc : ¬ storeRecalled m a data.length)
include hc

theorem tryStore_stopped {k : Nat × Nat} (h : (storeGrans a data).findSome? (fun g => stopFor m g.1) = some k) :
    tryStore m tag a data e = (countStop m k, false) := by
  simp only [tryStore, store_in_range hr ha, hh, Bool.false_eq_true, if_false, Bool.not_true, mt (storeRecalled_iff ..).1 hc, h]

variable (hs : (storeGrans a data).findSome? (fun g => stopFor m g.1) = none) (hn : 0 < data.length)
include hs hn

theorem tryStore_retired (h : ∃ i, i < data.length ∧ pageNo (a + i) ∈ m.mem.retiredPg) : tryStore m tag a data e = (ackMsg m tag 3, true) := by
  simp only [tryStore, store_in_range hr ha, hh, Bool.false_eq_true, if_false, Bool.not_true, mt (storeRecalled_iff ..).1 hc, hs,
    (storeRetired_iff m a _ hn).2 h, if_true]

variable (hp : ¬ ∃ i, i < data.length ∧ pageNo (a + i) ∈ m.mem.retiredPg)
include hp

theorem tryStore_hurt (h : storeHurt m (storeGrans a data) e = true) :
    tryStore m tag a data e = (ackMsg (hurtReads m (storeGrans a data) e) tag 3, true) := by
  simp only [tryStore, store_in_range hr ha, hh, Bool.false_eq_true, if_false, Bool.not_true, mt (storeRecalled_iff ..).1 hc, hs,
    mt (storeRetired_iff m a _ hn).1 hp, h, if_true, hurtReads]

variable (hu : storeHurt m (storeGrans a data) e = false)
include hu

theorem tryStore_full (h : allocStore m a data.length = none) : tryStore m tag a data e = (ackMsg (bump m hauP 0x70) tag 4, true) := by
  simp only [tryStore, store_in_range hr ha, hh, Bool.false_eq_true, if_false, Bool.not_true, mt (storeRecalled_iff ..).1 hc, hs,
    mt (storeRetired_iff m a _ hn).1 hp, hu, h]

theorem tryStore_done {u : Mod} (h : allocStore m a data.length = some u) :
    tryStore m tag a data e = (ackMsg (applyStore u (storeGrans a data) e) tag 0, true) := by
  simp only [tryStore, store_in_range hr ha, hh, Bool.false_eq_true, if_false, Bool.not_true, mt (storeRecalled_iff ..).1 hc, hs,
    mt (storeRetired_iff m a _ hn).1 hp, hu, h]

end

end Sys2Proof.Proofs

/-! The host's stores and register accesses, and the accesses that the link refuses (R427, R428, R459 to R464, R473). -/

namespace Sys2Proof.Proofs

open Sys2Proof Sys2Proof.Machine Sys2Proof.Laws

/-! Stores. -/

/-- A store that the host window refuses is counted there beside its refusal (R428). -/
theorem refused_ack_counted (m : Mod) (tag : Nat) {st : Nat} (hst : st ≠ 0) :
    let t := ackMsg (bump m hauP 0x70) tag st
    Msg.ack tag st ∈ t.velom.out ++ t.velom.held ∧ regN t vlkP 0x64 = min (regN m vlkP 0x64 + 1) 0xFFFFFFFF ∧ ReadsSame m t ∧
      regN t hauP 0x70 = min (regN m hauP 0x70 + 1) 0xFFFFFFFF := by
  obtain ⟨hs, hc, hr⟩ := refused_ack (.bump (p := hauP) (r := 0x70) m 1 (regAddr_ne_of_offset (by decide))) tag hst
  refine ⟨hs, hc, hr, ?_⟩
  have hreg := getReg_ackMsg_ne (q := hauP) (k := 0x70) (bump m hauP 0x70) tag st (regAddr_ne_of_offset (by decide))
  exact (congrArg BitVec.toNat hreg).trans (regN_bump ..)

theorem countStop_frame (m : Mod) (k : Nat × Nat) : countStop m k = { m with regs := (countStop m k).regs } := by
  unfold countStop
  split <;> rfl

theorem ackMsg_allocated (m : Mod) (tag st a : Nat) : allocated (ackMsg m tag st) a = allocated m a := by
  rw [ackMsg_frame]
  rfl

/-- A store that nothing holds up and whose pages are there is accepted granule by granule. -/
theorem store_accepts {m u : Mod} {a : Nat} {data : List (Option Byte)} {e : Ecc} (ha : a % 64 = 0) (hlen : data.length % 64 = 0)
    (hu : storeHurt m (storeGrans a data) e = false) (h : allocStore m a data.length = some u)
    (hfree : ∀ i, i < data.length → stopFor u ((a + i) / 32 * 32) = none ∧ ownerOf u ((a + i) / 32 * 32) = none) :
    ∀ g ∈ storeGrans a data, Accepts u e g := by
  intro g hg
  obtain ⟨hadd, hpages⟩ := allocStore_added h
  have hsound : g.2.any (·.isNone) = true → e ≠ .uncorrectable ∧ rangeLost m g.1 32 = false := fun hn => by
    have := List.any_eq_false.1 hu g hg
    simpa [hn] using this
  obtain ⟨⟨i, hi, rfl⟩, -⟩ := mem_storeGrans.1 hg
  have hlt : 32 * i < data.length := by omega
  have hline : (a + 32 * i) / 32 * 32 = a + 32 * i := by omega
  obtain ⟨hstop, howner⟩ := hfree (32 * i) hlt
  rw [hline] at hstop howner
  exact {
    aligned := by simp only [dataGran]; omega
    whole := chunk_length (by omega) hi
    present := hpages _ hlt
    flows := hstop
    unowned := howner
    sound := fun hn => ⟨(hsound hn).1, fun hx =>
      not_ue_of_rangeLost (hsound hn).2 (Nat.lt_add_of_pos_right (by decide)) (Nat.lt_add_of_pos_right (by decide)) (hadd.ue _ hx)⟩ }

section
variable {m : Mod} (hup : m.velom.link.st = 3) (hidle : m.velom.demands = []) (tag : Nat) {a : Nat} {data : List (Option Byte)} {e : Ecc}
include hup hidle

theorem store_range (h : devEnd < a + data.length ∨ a % 64 ≠ 0) :
    let t := hostDemand m (.store tag a data e)
    Msg.ack tag 1 ∈ t.velom.out ++ t.velom.held ∧ regN t vlkP 0x64 = min (regN m vlkP 0x64 + 1) 0xFFFFFFFF ∧ ReadsSame m t := by
  intro t
  have ht : t = ackMsg m tag 1 := hostDemand_served hup hidle (tryStore_range tag e h)
  rw [ht]
  exact refused_ack (.refl m) tag (by decide)

variable (hr : a + data.length ≤ devEnd) (ha : a % 64 = 0)
include hr ha

theorem store_outside (h : inHostWin a = false) :
    let t := hostDemand m (.store tag a data e)
    Msg.ack tag 2 ∈ t.velom.out ++ t.velom.held ∧ regN t vlkP 0x64 = min (regN m vlkP 0x64 + 1) 0xFFFFFFFF ∧ ReadsSame m t ∧
      regN t hauP 0x70 = min (regN m hauP 0x70 + 1) 0xFFFFFFFF := by
  intro t
  have ht : t = ackMsg (bump m hauP 0x70) tag 2 := hostDemand_served hup hidle (tryStore_outside tag e hr ha h)
  rw [ht]
  exact refused_ack_counted m tag (by decide)

variable (hh : inHostWin a = true)
include hh

theorem store_recalled (h : storeRecalled m a data.length) :
    hostDemand m (.store tag a data e) = queued m (.store tag a data e) :=
  hostDemand_waits hup hidle (tryStore_recalled tag e hr ha hh h)

variable (hc : ¬ storeRecalled m a data.length)
include hc

theorem store_stopped {k : Nat × Nat} (h : (storeGrans a data).findSome? (fun g => stopFor m g.1) = some k) :
    let t := hostDemand m (.store tag a data e)
    t.velom.demands = [.store tag a data e] ∧ t.velom.out = m.velom.out ∧ ReadsSame m t := by
  intro t
  have ht : t = queued (countStop m k) (.store tag a data e) := hostDemand_waits hup hidle (tryStore_stopped tag e hr ha hh hc h)
  rw [ht, countStop_frame]
  exact ⟨by rw [queued]; simp only [hidle, List.nil_append], rfl, fun _ => rfl⟩

variable (hs : (storeGrans a data).findSome? (fun g => stopFor m g.1) = none) (hn : 0 < data.length)
include hs hn

theorem store_lost (h : (∃ i, i < data.length ∧ pageNo (a + i) ∈ m.mem.retiredPg) ∨ storeHurt m (storeGrans a data) e = true) :
    let t := hostDemand m (.store tag a data e)
    Msg.ack tag 3 ∈ t.velom.out ++ t.velom.held ∧ regN t vlkP 0x64 = min (regN m vlkP 0x64 + 1) 0xFFFFFFFF ∧ ReadsSame m t := by
  intro t
  have ht : ∃ u, ReadEffect m u ∧ t = ackMsg u tag 3 := by
    by_cases hp : ∃ i, i < data.length ∧ pageNo (a + i) ∈ m.mem.retiredPg
    · exact ⟨m, .refl m, hostDemand_served hup hidle (tryStore_retired tag e hr ha hh hc hs hn hp)⟩
    · exact ⟨_, hurtReads_effect .., hostDemand_served hup hidle (tryStore_hurt tag e hr ha hh hc hs hn hp (h.resolve_left hp))⟩
  obtain ⟨u, hu, ht⟩ := ht
  rw [ht]
  exact refused_ack hu tag (by decide)

variable (hp : ∀ i, i < data.length → pageNo (a + i) ∉ m.mem.retiredPg) (hu : storeHurt m (storeGrans a data) e = false)
include hp hu

theorem store_full (h : allocStore m a data.length = none) :
    let t := hostDemand m (.store tag a data e)
    Msg.ack tag 4 ∈ t.velom.out ++ t.velom.held ∧ regN t vlkP 0x64 = min (regN m vlkP 0x64 + 1) 0xFFFFFFFF ∧ ReadsSame m t ∧
      regN t hauP 0x70 = min (regN m hauP 0x70 + 1) 0xFFFFFFFF := by
  intro t
  have ht : t = ackMsg (bump m hauP 0x70) tag 4 :=
    hostDemand_served hup hidle (tryStore_full tag e hr ha hh hc hs hn (fun ⟨i, hi, hx⟩ => hp i hi hx) hu h)
  rw [ht]
  exact refused_ack_counted m tag (by decide)

theorem store_done {u : Mod} (h : allocStore m a data.length = some u) (hw : wbHeld m) (hlen : data.length % 64 = 0)
    (hfree : ∀ i, i < data.length → stopFor u ((a + i) / 32 * 32) = none ∧ ownerOf u ((a + i) / 32 * 32) = none) :
    let t := hostDemand m (.store tag a data e)
    Msg.ack tag 0 ∈ t.velom.out ++ t.velom.held ∧ (∀ x, x < a ∨ a + data.length ≤ x → readByte t x = readByte m x) ∧
      ∀ i, i < data.length → allocated t (a + i) = true ∧ readByte t (a + i) = (data.getD i none).getD (readByte m (a + i)) := by
  intro t
  have ht : t = ackMsg (applyStore u (storeGrans a data) e) tag 0 :=
    hostDemand_served hup hidle (tryStore_done tag e hr ha hh hc hs hn (fun ⟨i, hi, hx⟩ => hp i hi hx) hu h)
  obtain ⟨hadd, hpages⟩ := allocStore_added h
  obtain ⟨hkeep, hout, hin⟩ := store_bytes (hadd.held hw) (by omega) (by omega) (store_accepts ha hlen hu h hfree)
  have hack := readsSame_ackMsg (applyStore u (storeGrans a data) e) tag 0
  rw [ht]
  refine ⟨mem_sendMsg .., fun x hx => ?_, fun i hi => ⟨?_, ?_⟩⟩
  · rw [hack, hout x hx, hadd.reads]
  · rw [ackMsg_allocated, hkeep.allocated, hpages i hi]
  · rw [hack, hin i hi, hadd.reads]

end

/-! Register accesses. -/

theorem regStatus_window {off : Nat} (w : Nat) (h : 2 ^ 28 ≤ off) : regStatus off w = 1 := by
  rw [regStatus, decide_eq_true h, Bool.true_or, if_pos rfl]

theorem regStatus_width {off w : Nat} (h : off < 2 ^ 24) (hw : w ≠ 4 ∨ off % 4 ≠ 0) : regStatus off w = 2 := by
  have hbits : bits off 24 4 = 0 := by unfold bits; omega
  have hin : ¬ 2 ^ 28 ≤ off := by omega
  have hw' : (w != 4 || off % 4 != 0) = true := by simpa using hw
  rw [regStatus, hbits, if_neg (by simpa using hin), if_pos hw']

theorem in_window_of_regStatus {off w : Nat} (h : regStatus off w = 0) : off < 2 ^ 28 := by
  by_contra hn
  rw [regStatus_window w (Nat.le_of_not_lt hn)] at h
  cases h

section
variable {m : Mod} (hup : m.velom.link.st = 3) (hidle : m.velom.demands = []) (tag : Nat) {off w : Nat}
include hup hidle

theorem regRd_refused (h : regStatus off w ≠ 0) :
    let t := hostDemand m (.regRd tag off w)
    Msg.reply tag (regStatus off w) 0 [] ∈ t.velom.out ++ t.velom.held ∧ regN t vlkP 0x64 = min (regN m vlkP 0x64 + 1) 0xFFFFFFFF ∧
      t = { m with regs := t.regs, velom := t.velom } := by
  intro t
  have ht : t = replyMsg m tag (regStatus off w) 0 [] := hostDemand_served hup hidle (tryDemand_regRd_refused m tag h)
  obtain ⟨hs, hc, -⟩ := refused_reply (.refl m) tag h
  rw [ht]
  exact ⟨hs, hc, replyMsg_frame ..⟩

theorem regWr_refused (v : Word) (h : regStatus off w ≠ 0) :
    let t := hostDemand m (.regWr tag off w v)
    Msg.ack tag (regStatus off w) ∈ t.velom.out ++ t.velom.held ∧ regN t vlkP 0x64 = min (regN m vlkP 0x64 + 1) 0xFFFFFFFF ∧
      t = { m with regs := t.regs, velom := t.velom } := by
  intro t
  have ht : t = ackMsg m tag (regStatus off w) := hostDemand_served hup hidle (tryDemand_regWr_refused m tag v h)
  obtain ⟨hs, hc, -⟩ := refused_ack (.refl m) tag h
  rw [ht]
  exact ⟨hs, hc, ackMsg_frame ..⟩

theorem regRd_served (h : regStatus off w = 0) :
    hostDemand m (.regRd tag off w) = sendMsg (regRead m .link off).2 (.reply tag 0 0 (toBytes (regRead m .link off).1 4)) :=
  hostDemand_served hup hidle (by simp [tryDemand, serveRegRd, h, replyMsg, countErr])

theorem regWr_served (v : Word) (h : regStatus off w = 0) :
    hostDemand m (.regWr tag off w v) = sendMsg (regWrite m off v) (.ack tag 0) :=
  hostDemand_served hup hidle (by simp [tryDemand, serveRegWr, h, ackMsg, countErr])

end

/-! What the link's checks let through. -/

theorem toBytes_length (v n : Nat) : (toBytes v n).length = n := by
  induction n generalizing v with
  | zero => rfl
  | succ n ih => rw [toBytes, List.length_cons, ih]

/-- Slots that make whole lines, one to four of them (R457). -/
def wholeLines (d : List (BitVec 128)) : Prop := d.length % 4 = 0 ∧ d ≠ [] ∧ d.length ≤ 16

/-- The bytes of a STORE's slots. -/
def slotBytes (d : List (BitVec 128)) : List (Option Byte) := (d.flatMap fun x => toBytes x.toNat 16).map some

/-- The enabled bytes of a STORE_MASK's line. -/
def maskedBytes (en : BitVec 64) (l : BitVec 512) : List (Option Byte) :=
  (upto 64).map fun i => if bitAt en.toNat i then (toBytes l.toNat 64)[i]? else none

theorem slotBytes_length (d : List (BitVec 128)) : (slotBytes d).length = 16 * d.length := by
  simp [slotBytes, List.length_flatMap, toBytes_length, Nat.mul_comm]

theorem maskedBytes_length (en : BitVec 64) (l : BitVec 512) : (maskedBytes en l).length = 64 := by simp [maskedBytes, upto]

section
variable {m : Mod} (tag a : Nat)

theorem leaseOp_down (w : Nat) (e : Ecc) (h : m.velom.link.st ≠ 3) : leaseOp m tag a w e = m := by
  rw [leaseOp, if_neg (by simp [linkUp, h]), hostDemand_down h]

theorem storeLines_down (d : List (BitVec 128)) (h : m.velom.link.st ≠ 3) : storeLines m tag a d = m := by
  rw [storeLines, if_neg (by simp [linkUp, h]), hostDemand_down h]

theorem leaseOp_reserved {w : BitVec 2} (e : Ecc) (h : m.velom.link.st = 3) (hw : w = 0#2 ∨ w = 3#2) :
    (leaseOp m tag a w.toNat e).velom.link.st = 4 := by
  have hw' : w.toNat = 0 ∨ w.toNat = 3 := hw.imp (congrArg BitVec.toNat) (congrArg BitVec.toNat)
  rw [leaseOp, if_pos (by simpa [linkUp, h] using hw')]
  exact protocolError_velom _ _ h

theorem leaseOp_demand {w : BitVec 2} (e : Ecc) (hw : w = 1#2 ∨ w = 2#2) :
    leaseOp m tag a w.toNat e = hostDemand m (.lease tag a w.toNat e) := by
  rcases hw with rfl | rfl <;> simp [leaseOp]

theorem storeLines_reserved {d : List (BitVec 128)} (h : m.velom.link.st = 3) (hd : ¬ wholeLines d) :
    (storeLines m tag a d).velom.link.st = 4 := by
  have hd' : d.length % 4 ≠ 0 ∨ d.length = 0 ∨ 16 < d.length := by
    by_contra hn
    rw [not_or, not_or, not_not, Nat.not_lt] at hn
    exact hd ⟨hn.1, mt List.length_eq_zero_iff.2 hn.2.1, hn.2.2⟩
  rw [storeLines, if_pos (by simpa [linkUp, h, or_assoc] using hd')]
  exact protocolError_velom _ _ h

theorem storeLines_demand {d : List (BitVec 128)} (hd : wholeLines d) :
    storeLines m tag a d = hostDemand m (.store tag a (slotBytes d) .ok) := by
  obtain ⟨h4, hne, hmax⟩ := hd
  rw [storeLines, if_neg (by simp [h4, hne, Nat.not_lt.2 hmax]), slotBytes]

end

/-- A STORE of whole lines or a STORE_MASK is the demand that stores their bytes, whole lines of them. -/
theorem gives_storing {s : State} {tag : BitVec 16} {addr : DWord} {c : Instr} {data : List (Option Byte)} {e : Ecc}
    (h : (∃ d, c = .store tag addr d ∧ wholeLines d ∧ data = slotBytes d ∧ e = .ok) ∨
      ∃ en l, c = .storeMask tag addr en l e ∧ data = maskedBytes en l) :
    (∀ P, P (hostDemand s.mod (.store tag.toNat addr.toNat data e)) → Gives c s P) ∧ 0 < data.length ∧ data.length % 64 = 0 := by
  rcases h with ⟨d, rfl, hd, rfl, rfl⟩ | ⟨en, l, rfl, rfl⟩
  · have ⟨h4, hne, _⟩ := hd
    have hpos : 0 < d.length := List.length_pos_iff.2 hne
    refine ⟨fun P hP => ?_, ?_, ?_⟩
    · rwa [gives_store, storeLines_demand _ _ hd]
    all_goals rw [slotBytes_length]; omega
  · refine ⟨fun P hP => (gives_storeMask ..).2 hP, ?_, ?_⟩ <;> rw [maskedBytes_length]
    decide

end Sys2Proof.Proofs

/-! The host's accesses, settled: the link down, reserved fields, demands that wait behind others, and each demand served. -/

namespace Sys2Proof.Proofs

open Sys2Proof Sys2Proof.Machine Sys2Proof.Laws

/-- Settles O44: a demand on an idle link is served at once, and each clause is one outcome of serving it. A store's granules are
taken one after another, each keeping where every page lies, so the others are still accepted. -/
theorem hostAccessesReadWriteAndAnswer : Obligations.HostAccessesReadWriteAndAnswer := by
  intro s tag addr sent a line counted queued whole wide part
  refine ⟨fun hdown => ?_, fun hup => ?_, fun hup hbusy => ?_, fun hup hidle => ?_⟩
  · simp only [gives_load, gives_loadLease, gives_store, gives_storeMask, gives_regRd, gives_regWr, storeMasked]
    exact ⟨fun _ _ => hostDemand_down hdown, fun _ _ => leaseOp_down _ _ _ _ hdown, fun _ => storeLines_down _ _ _ hdown,
      fun _ _ _ => hostDemand_down hdown, fun _ => hostDemand_down hdown, fun _ _ => hostDemand_down hdown⟩
  · exact ⟨fun w e hw => (gives_loadLease ..).2 (leaseOp_reserved _ _ e hup hw),
      fun d hd => (gives_store ..).2 (storeLines_reserved _ _ hup hd)⟩
  · refine ⟨fun z e => (gives_load ..).2 (hostDemand_behind hup hbusy), fun w e hw => (gives_loadLease ..).2 ?_,
      fun d hd => (gives_store ..).2 ?_, fun en l e => (gives_storeMask ..).2 (hostDemand_behind hup hbusy),
      fun w => (gives_regRd ..).2 (hostDemand_behind hup hbusy), fun w v => (gives_regWr ..).2 (hostDemand_behind hup hbusy)⟩
    · rw [leaseOp_demand _ _ e hw]
      exact hostDemand_behind hup hbusy
    · rw [storeLines_demand _ _ hd]
      exact hostDemand_behind hup hbusy
  refine ⟨?load, ?lease, ?store, ?refused, fun w => regStatus_window w, fun w => regStatus_width, fun hst => ⟨?read, ?write⟩⟩
  case load =>
    intro z e n bad
    simp only [gives_load]
    refine ⟨load_bad hup hidle tag.toNat, fun hg => load_waits hup hidle _ hg, fun hg hwait =>
      ⟨load_retired hup hidle _ hg hwait, fun hr => ⟨load_absent hup hidle _ hg hwait hr, load_lost hup hidle _ hg hwait hr,
        fun _ he hl => load_served hup hidle _ hg hwait hr (Nat.mul_pos (by decide) (Nat.succ_pos _)) he hl⟩⟩⟩
  case lease =>
    intro w e hw hin hal
    have hop : leaseOp s.mod tag.toNat a w.toNat e = hostDemand s.mod (.lease tag.toNat a w.toNat e) := leaseOp_demand _ _ e hw
    have hwant : w.toNat ≠ 0 := by rcases hw with rfl | rfl <;> decide
    have hplain : inHostWin a = false ∨ inOwned s.mod line = true → readWaits s.mod a 64 = false →
        exec (.loadLease tag addr w e) s = exec (.load tag addr 0#2 e) s := fun h hwait =>
      calc exec (.loadLease tag addr w e) s = .next { s with mod := leaseOp s.mod tag.toNat a w.toNat e } := rfl
        _ = .next { s with mod := hostDemand s.mod (.load tag.toNat a 64 e) } := by
          rw [hop, lease_plain hup hidle _ _ hin hal hwait h]
        _ = exec (.load tag addr 0#2 e) s := rfl
    simp only [gives_loadLease]
    rw [hop]
    exact ⟨lease_waits hup hidle _ _ hin hal, fun hwait => ⟨fun h => hplain h hwait, fun hh ho =>
      ⟨fun l ls => lease_full hup hidle _ _ hin hal hwait hh ho, lease_grants hup hidle _ _ hin hal hwait hh ho hwant⟩⟩⟩
  case store =>
    intro c data e hc
    obtain ⟨hgives, hn, hlen⟩ := gives_storing hc
    refine ⟨fun h => hgives _ (store_range hup hidle _ h), fun hr ha => ⟨fun h => hgives _ (store_outside hup hidle _ hr ha h),
      fun hh h => hgives _ (store_recalled hup hidle _ hr ha hh h),
      fun k hh hnc h => hgives _ (store_stopped hup hidle _ hr ha hh hnc h), fun hh hnc hs =>
      ⟨fun h => hgives _ (store_lost hup hidle _ hr ha hh hnc hs hn h), fun hp hu =>
        ⟨fun h => hgives _ (store_full hup hidle _ hr ha hh hnc hs hn hp hu h), fun u h hw hfree =>
          hgives _ (store_done hup hidle _ hr ha hh hnc hs hn hp hu h hw hlen hfree)⟩⟩⟩⟩
  case refused =>
    intro w hst
    exact ⟨(gives_regRd ..).2 (regRd_refused hup hidle _ hst), fun v => (gives_regWr ..).2 (regWr_refused hup hidle _ v hst)⟩
  case read => exact (gives_regRd ..).2 (regRd_served hup hidle _ hst)
  case write =>
    intro v u hu
    have hoff : (BitVec.ofNat 28 a).toNat = a := Nat.mod_eq_of_lt (in_window_of_regStatus hst)
    have hmod : u.mod = regWrite s.mod a v := by
      cases hu
      exact congrArg (regWrite s.mod · v) hoff
    rw [gives_regWr, hmod]
    exact regWr_served hup hidle _ v hst

end Sys2Proof.Proofs

/-! Parts of the module that an operation may change, and the admission of a chute's head (R31, R74, R86). -/

namespace Sys2Proof.Proofs

open Sys2Proof Sys2Proof.Machine Sys2Proof.Laws

/-! Frames: an operation changes a part of the module alone. -/

/-- A part of the module: `put m t` is `m` with that part of `t`. -/
structure Portion where
  put  : Mod → Mod → Mod
  self : ∀ m, put m m = m
  last : ∀ m t u, put (put m t) u = put m u

/-- `t` is `m` but for the part `p`. -/
def Portion.Only (p : Portion) (m t : Mod) : Prop := t = p.put m t

namespace Portion.Only

variable {p q : Portion} {m t u : Mod}

theorem refl (p : Portion) (m : Mod) : p.Only m m := (p.self m).symm

theorem trans (h : p.Only m t) (g : p.Only t u) : p.Only m u :=
  calc u = p.put t u := g
    _ = p.put (p.put m t) u := congrArg (p.put · u) h
    _ = p.put m u := p.last m t u

/-- What changes a part alone changes any larger part alone. -/
theorem widen (h : p.Only m t) (hq : ∀ m t, q.put m (p.put m t) = p.put m t) : q.Only m t :=
  calc t = p.put m t := h
    _ = q.put m (p.put m t) := (hq m t).symm
    _ = q.put m t := congrArg (q.put m) h.symm

theorem foldl {α : Type} {f : Mod → α → Mod} (h : ∀ m x, p.Only m (f m x)) (l : List α) (m : Mod) : p.Only m (l.foldl f m) := by
  induction l generalizing m with
  | nil => exact refl p m
  | cons x l ih => exact (h m x).trans (ih _)

theorem ite {b : Prop} [Decidable b] (h : p.Only m t) (g : p.Only m u) : p.Only m (if b then t else u) := by
  split
  · exact h
  · exact g

/-- A reading of the module that does not look at the part stays as it was. -/
theorem same {α : Type} (h : p.Only m t) (f : Mod → α) (hf : ∀ m u, f (p.put m u) = f m) : f t = f m :=
  (congrArg f h).trans (hf m t)

end Portion.Only

def onRegs : Portion := ⟨fun m t => { m with regs := t.regs }, fun _ => rfl, fun _ _ _ => rfl⟩
def onVelom : Portion := ⟨fun m t => { m with velom := t.velom }, fun _ => rfl, fun _ _ _ => rfl⟩
def onLedger : Portion := ⟨fun m t => { m with ledger := t.ledger }, fun _ => rfl, fun _ _ _ => rfl⟩
/-- What admission's books take: the work records, shares, credit, input lines and counters. -/
def onAdmission : Portion :=
  ⟨fun m t => { m with cmds := t.cmds, adm := t.adm, pwr := t.pwr, velom := t.velom, regs := t.regs }, fun _ => rfl, fun _ _ _ => rfl⟩
/-- What placing a search takes: unit records, frames and counters. -/
def onPlacing : Portion := ⟨fun m t => { m with units := t.units, fab := t.fab, regs := t.regs }, fun _ => rfl, fun _ _ _ => rfl⟩

theorem bump_only (m : Mod) (p : Page) (r n : Nat) : onRegs.Only m (bump m p r n) := rfl

/-! Heads. -/

theorem inputLine_only (keep : Bool) (m : Mod) (line : Nat) : onVelom.Only m (inputLine keep m line) := by
  unfold inputLine
  split
  · exact .refl _ _
  · split <;> rfl

theorem readInputs_only (keep : Bool) (m : Mod) (l : List (Nat × Nat)) : onVelom.Only m (readInputs keep m l) :=
  .foldl (inputLine_only keep) _ m

section
variable (m : Mod) (c : Cmd) (l : Nat)

/-- The work record of head `c` as admission at effort level `l` pins it. -/
def pinnedHead : Cmd := pinCmd (noteDec m c) c l (costOf m c (reducedEntry c.entry l))

/-- The module with head `c` charged and pinned. -/
def chargedMod : Mod :=
  let t := setCmd (charge (noteDec m c) c (costOf m c (reducedEntry c.entry l))) (pinnedHead m c l)
  if l = 0 then t else bump t chuP 0x74

/-- The module as it stands when the work of head `c` starts. -/
def beforeWork : Mod :=
  readInputs true (chargedMod m c l)
    ((if readAtFetch (opcodeOf c.entry) then [] else inputsOf (chargedMod m c l) c.entry c.pl) ++ docInputs c.entry c.pl)

theorem admitCmd_eq : admitCmd (noteDec m c) c l (costOf m c (reducedEntry c.entry l)) = startWork (beforeWork m c l) (pinnedHead m c l) := rfl

theorem draw_seq (cls as' : Nat) (k : List Nat) : (draw m cls as' k).adm.seq = m.adm.seq := by
  simp only [draw, spend]
  split <;> rfl

/-- What a command draws as it is admitted; a job draws step by step (R87). -/
def drawn (k : List Nat) : Mod :=
  if isJob (opcodeOf c.entry) then m else draw m (classOf c.entry) (creditClass (opcodeOf c.entry) (classOf c.entry)) k

theorem drawn_only (k : List Nat) : onAdmission.Only m (drawn m c k) := by
  unfold drawn
  exact .ite (.refl _ m) rfl

theorem drawn_seq (k : List Nat) : (drawn m c k).adm.seq = m.adm.seq := by
  unfold drawn
  split
  · rfl
  · exact draw_seq ..

theorem drawn_cmds (k : List Nat) : (drawn m c k).cmds = m.cmds := by
  unfold drawn
  split <;> rfl

theorem charge_only (k : List Nat) : onAdmission.Only m (charge m c k) := .trans (drawn_only m c k) rfl

theorem charge_seq (k : List Nat) : (charge m c k).adm.seq = m.adm.seq + 1 := congrArg (· + 1) (drawn_seq m c k)

theorem charge_cmds (k : List Nat) : (charge m c k).cmds = m.cmds := drawn_cmds m c k

theorem chargedMod_only : onAdmission.Only m (chargedMod m c l) := by
  have h : onAdmission.Only m (setCmd (charge (noteDec m c) c (costOf m c (reducedEntry c.entry l))) (pinnedHead m c l)) :=
    .trans (t := noteDec m c) rfl (.trans (charge_only ..) rfl)
  unfold chargedMod
  split
  · exact h
  · exact h.trans ((bump_only ..).widen fun _ _ => rfl)

theorem beforeWork_only : onAdmission.Only m (beforeWork m c l) :=
  (chargedMod_only m c l).trans ((readInputs_only ..).widen fun _ _ => rfl)

theorem beforeWork_cmds : (beforeWork m c l).cmds = mapIf (fun x => x.id = c.id) (fun _ => pinnedHead m c l) m.cmds := by
  rw [beforeWork, readInputs_only true]
  show (chargedMod m c l).cmds = _
  unfold chargedMod
  split <;> exact congrArg (mapIf _ _) (charge_cmds ..)

theorem beforeWork_seq : (beforeWork m c l).adm.seq = m.adm.seq + 1 := by
  rw [beforeWork, readInputs_only true]
  show (chargedMod m c l).adm.seq = _
  unfold chargedMod
  split <;> exact charge_seq ..

@[simp] theorem beforeWork_colls : (beforeWork m c l).colls = m.colls := (beforeWork_only m c l).same Mod.colls fun _ _ => rfl
@[simp] theorem beforeWork_mirror : (beforeWork m c l).mirror = m.mirror := (beforeWork_only m c l).same Mod.mirror fun _ _ => rfl
@[simp] theorem beforeWork_resv : (beforeWork m c l).resv = m.resv := (beforeWork_only m c l).same Mod.resv fun _ _ => rfl
@[simp] theorem beforeWork_ledger : (beforeWork m c l).ledger = m.ledger := (beforeWork_only m c l).same Mod.ledger fun _ _ => rfl
@[simp] theorem beforeWork_next : (beforeWork m c l).ledger.next = m.ledger.next := congrArg Ledger.next (beforeWork_ledger m c l)
@[simp] theorem beforeWork_mem : (beforeWork m c l).mem = m.mem := (beforeWork_only m c l).same Mod.mem fun _ _ => rfl
@[simp] theorem beforeWork_now : now (beforeWork m c l) = now m := (beforeWork_only m c l).same now fun _ _ => rfl
@[simp] theorem beforeWork_collOf (k : Nat) : collOf (beforeWork m c l) k = collOf m k := by rw [collOf, beforeWork_colls, collOf]
@[simp] theorem beforeWork_shardOf (k : Nat) : shardOf (beforeWork m c l) k = shardOf m k := by rw [shardOf, beforeWork_colls, shardOf]

@[simp] theorem pinnedHead_id : (pinnedHead m c l).id = c.id := rfl
@[simp] theorem pinnedHead_entry : (pinnedHead m c l).entry = c.entry := rfl
@[simp] theorem pinnedHead_pl : (pinnedHead m c l).pl = c.pl := rfl
@[simp] theorem pinnedHead_level : (pinnedHead m c l).level = l := rfl
@[simp] theorem pinnedHead_gen : (pinnedHead m c l).gen = pinGen m c.entry := rfl

end

section
variable {m t : Mod} {op n l : Nat} {c d : Cmd} {P : Cmd → Prop}

theorem admits_opcode (h : Admits m op n c l) : opcodeOf c.entry = op := h.2.2.1

/-- A head that admission admits starts its work on the module that has charged and pinned it. -/
theorem headOp_admits (h : Admits m op n c l) : headOp m op n = startWork (beforeWork m c l) (pinnedHead m c l) := by
  obtain ⟨hopen, ⟨x, hx, hmay, rfl⟩, hop, hw, hl, hc, ht⟩ := h
  have hop : opcodeOf x.entry = op := hop
  simp only [headOp, hopen, hx, hop, hmay, decideHead, hw, hl, hc, decideTimed, ht, admitCmd_eq]
  rfl

/-- A row that decides a chute's head, on a head that admission admits. -/
theorem admits_gives {x : Instr} {s : State} {Q : Mod → Prop} (h : Admits s.mod op n c l)
    (hx : exec x s = .next { s with mod := headOp s.mod op n })
    (hQ : Q (startWork (beforeWork s.mod c l) (pinnedHead s.mod c l))) : Gives x s Q := by
  rw [headOp_admits h] at hx
  exact (gives_iff hx Q).2 hQ

theorem admits_cmdOf_isSome (h : Admits m op n c l) : (cmdOf m c.id).isSome = true := by
  obtain ⟨-, ⟨x, hx, -, rfl⟩, -⟩ := h
  exact List.find?_isSome.2 ⟨x, List.mem_of_find?_eq_some hx, by simp [withInputs]⟩

theorem admits_cmdOf_beforeWork (h : Admits m op n c l) : cmdOf (beforeWork m c l) c.id = some (pinnedHead m c l) := by
  obtain ⟨x, hx⟩ := Option.isSome_iff_exists.1 (admits_cmdOf_isSome h)
  have := cmdOf_setCmd m (pinnedHead m c l) c.id
  rw [pinnedHead_id, if_pos rfl, hx, Option.map_some] at this
  rw [cmdOf, beforeWork_cmds]
  exact this

/-- A work record set in a module that holds its number. -/
theorem cmdOf_setCmd_self {x : Cmd} (h : cmdOf m d.id = some x) : cmdOf (setCmd m d) d.id = some d := by
  rw [cmdOf_setCmd, if_pos rfl, h, Option.map_some]

theorem cmdOf_setCmd_beforeWork (h : Admits m op n c l) (hid : d.id = c.id) : cmdOf (setCmd (beforeWork m c l) d) c.id = some d :=
  hid ▸ cmdOf_setCmd_self (hid ▸ admits_cmdOf_beforeWork h)

/-- The work record found is the pinned head but for what its opcode's work starts with. -/
theorem admittedAs_of (hd : cmdOf t c.id = some d) (hseq : t.adm.seq = m.adm.seq + 1) (hP : P d)
    (hpin : d = { pinnedHead m c l with
      lsn := d.lsn, count := d.count, info := d.info, search := d.search, embed := d.embed, run := d.run, upd := d.upd }) :
    AdmittedAs m t c l P := by
  refine ⟨d, hd, ?_, ?_, ?_, ?_, ?_, ?_, ?_, ?_, ?_, hP, hseq⟩ <;> rw [hpin] <;> rfl

end

/-! What the rows of Table IS-6 start: the admission of reads, faces and drills (R31, R86, R102, R150, R171). -/

section
variable {s : State} {n op : Nat} {c d : Cmd} {l : Nat} {x : Instr} {P : Cmd → Prop}

/-- A row whose head is admitted, by what its opcode's work makes of the module. -/
theorem admits_gives_work (f : Mod → Cmd → Mod) {Q : Mod → Prop} (h : Admits s.mod op n c l)
    (hx : exec x s = .next { s with mod := headOp s.mod op n })
    (hw : startWork (beforeWork s.mod c l) (pinnedHead s.mod c l) = f (beforeWork s.mod c l) (pinnedHead s.mod c l))
    (hQ : Q (f (beforeWork s.mod c l) (pinnedHead s.mod c l))) : Gives x s Q :=
  admits_gives h hx (hw ▸ hQ)

/-- A row whose work starts with its work record alone. -/
theorem admits_gives_setCmd (h : Admits s.mod op n c l) (hx : exec x s = .next { s with mod := headOp s.mod op n })
    (hw : startWork (beforeWork s.mod c l) (pinnedHead s.mod c l) = setCmd (beforeWork s.mod c l) d)
    (hd : d = { pinnedHead s.mod c l with
      lsn := d.lsn, count := d.count, info := d.info, search := d.search, embed := d.embed, run := d.run, upd := d.upd })
    (hP : P d) : Gives x s fun t => AdmittedAs s.mod t c l P ∧ onAdmission.Only s.mod t := by
  refine admits_gives_work (fun m _ => setCmd m d) h hx hw ⟨?_, ?_⟩
  · exact admittedAs_of (cmdOf_setCmd_beforeWork h (by rw [hd]; rfl)) (beforeWork_seq ..) hP hd
  · exact (beforeWork_only ..).trans rfl

/-- A row whose work starts with nothing. -/
theorem admits_gives_idle (h : Admits s.mod op n c l) (hx : exec x s = .next { s with mod := headOp s.mod op n })
    (hw : startWork (beforeWork s.mod c l) (pinnedHead s.mod c l) = beforeWork s.mod c l) :
    Gives x s fun t => AdmittedAs s.mod t c l (fun _ => True) ∧ onAdmission.Only s.mod t := by
  refine admits_gives_work (fun m _ => m) h hx hw ⟨?_, ?_⟩
  · exact admittedAs_of (admits_cmdOf_beforeWork h) (beforeWork_seq ..) trivial rfl
  · exact beforeWork_only ..

end

@[simp] theorem newWalk_seg (m : Mod) (ws : List Walk) (s : Segment) (beam budget llen : Nat) :
    (newWalk m ws s beam budget llen).seg = s.no := rfl

theorem placeWalks_seg (m : Mod) (g : Gen) (beam budget llen : Nat) :
    (placeWalks m g beam budget llen).map (·.seg) = g.segs.map (·.no) := by
  have (l : List Segment) (ws : List Walk) :
      (l.foldl (fun ws s => ws ++ [newWalk m ws s beam budget llen]) ws).map (·.seg) = ws.map (·.seg) ++ l.map (·.no) := by
    induction l generalizing ws with
    | nil => simp
    | cons x l ih => simp [ih]
  exact this g.segs []

theorem startSearch_walks_seg (m : Mod) (co : Coll) (g : Gen) (e : BitVec 512) (pl : Payload) (l : Nat) :
    (startSearch m co g e pl l).walks.map (·.seg) = if (startSearch m co g e pl l).flat then [] else g.segs.map (·.no) := by
  have hw : (startSearch m co g e pl l).walks = if (startSearch m co g e pl l).flat then [] else
    placeWalks m g (sBeam e l) (sVisits e l) (listLen (startSearch m co g e pl l).k (startSearch m co g e pl l).rr) := rfl
  rw [hw, apply_ite (List.map _), placeWalks_seg, List.map_nil]

theorem portSend_only (m : Mod) (n : Nat) (f : Frame) : onPlacing.Only m (portSend m n f) := by
  unfold portSend
  repeat' split
  all_goals rfl

theorem hopSend_only {m t : Mod} {f : Frame} (h : hopSend m f = some t) : onPlacing.Only m t := by
  unfold hopSend at h
  split at h
  · contradiction
  · obtain rfl := Option.some.inj h
    exact portSend_only ..

theorem unreachFor_only (m : Mod) (f : Frame) : onPlacing.Only m (unreachFor m f) := by
  unfold unreachFor
  split
  · rfl
  · split
    · rfl
    · dsimp only
      split
      next h => exact (hopSend_only h).trans rfl
      next => rfl

theorem inboxPut_only (m : Mod) (f : Frame) : onPlacing.Only m (inboxPut m f) := by
  unfold inboxPut
  split <;> rfl

theorem sendAddr_only (m : Mod) (f : Frame) : onPlacing.Only m (sendAddr m f) := by
  unfold sendAddr
  split
  · exact inboxPut_only m f
  · split
    next h => exact hopSend_only h
    next => exact unreachFor_only m f

theorem fanOutTo_only (c : Cmd) (m : Mod) (node : Nat) : onPlacing.Only m (fanOutTo c m node) :=
  .trans (by exact rfl) (.foldl sendAddr_only _ _)

theorem placeSearch_only (m : Mod) (w : SearchW) : onPlacing.Only m (placeSearch m w) :=
  .trans (.foldl (fun _ _ => by exact rfl) _ _) rfl

/-- An admitted search holds the work that its generation gives it, and waits for the nodes it fans out to. -/
theorem searchAdmit_only {m : Mod} {c : Cmd} {co : Coll} {g : Gen} (hc : collOf m (collId c.entry) = some co)
    (hg : genOf co c.gen = some g) :
    ∃ ns, onPlacing.Only (putSearch m c { startSearch m co g c.entry c.pl c.level with waitFor := ns }) (searchAdmit m c) := by
  let ns := if isHomeSearch c then otherNodes m co else []
  let w := startSearch m co g c.entry c.pl c.level
  let m₁ := putSearch (if w.flat then bump m sivP 0x44 else m) c { w with waitFor := ns }
  have h₁ : onPlacing.Only (putSearch m c { w with waitFor := ns }) m₁ := by
    show onPlacing.Only _ (putSearch (if w.flat then _ else _) c _)
    split <;> rfl
  have h₂ := (h₁.trans (placeSearch_only _ w)).trans (.foldl (fanOutTo_only c) ns _)
  have heq : searchAdmit m c = if isHomeSearch c then bump (ns.foldl (fanOutTo c) (placeSearch m₁ w)) fabP 0x84 else
      ns.foldl (fanOutTo c) (placeSearch m₁ w) := by
    simp only [searchAdmit, hc, hg]
    rfl
  exact ⟨ns, heq ▸ .ite (h₂.trans rfl) h₂⟩

/-- Settles O19: SEARCH starts the walks of its generation, the others their work record alone. -/
theorem readHeadsAreAdmittedWithTheirPins : Obligations.ReadHeadsAreAdmittedWithTheirPins := by
  intro s n c l
  refine ⟨fun co g h hc hg => ?_, ?_⟩
  · obtain ⟨ns, hp⟩ := searchAdmit_only (m := beforeWork s.mod c l) (c := pinnedHead s.mod c l) ((beforeWork_collOf ..).trans hc) hg
    refine admits_gives_work searchAdmit h rfl (by simp [startWork, admits_opcode h]) ?_
    let w := { startSearch (beforeWork s.mod c l) co g c.entry c.pl l with waitFor := ns }
    have hid := cmdOf_setCmd_beforeWork (d := { pinnedHead s.mod c l with search := some w }) h rfl
    refine ⟨(hp.same Mod.colls fun _ _ => rfl).trans (beforeWork_colls ..), (hp.same Mod.mirror fun _ _ => rfl).trans (beforeWork_mirror ..),
      (hp.same Mod.ledger fun _ _ => rfl).trans (beforeWork_ledger ..), (hp.same Mod.mem fun _ _ => rfl).trans (beforeWork_mem ..),
      admittedAs_of (d := { pinnedHead s.mod c l with search := some w }) ?_ ?_ ⟨w, rfl, ?_⟩ rfl⟩
    · exact (hp.same (cmdOf · c.id) fun _ _ => rfl).trans hid
    · exact (hp.same (·.adm.seq) fun _ _ => rfl).trans (beforeWork_seq ..)
    · exact ⟨rfl, rfl, startSearch_walks_seg .., rfl, by rw [← beforeWork_now s.mod c l]; rfl⟩
  · simp only [List.forall_mem_cons]
    refine ⟨fun h => ?_, fun h => ?_, fun h => ?_, fun h => ?_, fun h => ?_, fun _ h => nomatch h⟩
    · exact admits_gives_idle h rfl (by simp [startWork, admits_opcode h])
    · exact admits_gives_idle h rfl (by simp [startWork, admits_opcode h])
    · exact admits_gives_setCmd h rfl (by simp [startWork, admits_opcode h]; rfl) rfl rfl
    · exact admits_gives_setCmd h rfl (by simp [startWork, admits_opcode h]; rfl) rfl rfl
    · exact admits_gives_setCmd h rfl (by simp [startWork, admits_opcode h]; rfl) rfl rfl

end Sys2Proof.Proofs

/-! The record that a mutation takes: the next lsn, kept as its bytes enter the ring (R511 to R517). -/

namespace Sys2Proof.Proofs

open Sys2Proof Sys2Proof.Machine Sys2Proof.Laws

/-- A record as it stays while its bytes enter the ring (R517). -/
def recContent (r : LRec) : LRec := { r with entered := 0, tick := 0, group := none }

/-- Only the ledger differs, and its records are the same but for how far they have entered the ring. -/
def KeepsRecords (m t : Mod) : Prop :=
  onLedger.Only m t ∧ t.ledger.next = m.ledger.next ∧ t.ledger.records.map recContent = m.ledger.records.map recContent

/-- The records' lsns rise. -/
def lsnsRise (m : Mod) : Prop := (m.ledger.records.map (·.lsn)).Pairwise (· < ·)

section
variable {m t u : Mod}

theorem KeepsRecords.refl (m : Mod) : KeepsRecords m m := ⟨.refl _ m, rfl, rfl⟩

theorem KeepsRecords.trans (h : KeepsRecords m t) (g : KeepsRecords t u) : KeepsRecords m u :=
  ⟨h.1.trans g.1, g.2.1.trans h.2.1, g.2.2.trans h.2.2⟩

theorem KeepsRecords.lsnsRise (h : KeepsRecords m t) (hm : lsnsRise m) : lsnsRise t := by
  have lsns (l : List LRec) : l.map (·.lsn) = (l.map recContent).map (·.lsn) := by simp [recContent]
  rw [Proofs.lsnsRise, lsns, h.2.2, ← lsns]
  exact hm

/-- A record changed in place: no other record has its lsn. -/
theorem map_recContent_mapIf {l : List LRec} (hl : (l.map (·.lsn)).Pairwise (· < ·)) {r r' : LRec} (hr : r ∈ l)
    (h : recContent r' = recContent r) : (mapIf (fun x => x.lsn = r.lsn) (fun _ => r') l).map recContent = l.map recContent := by
  have hinj := List.inj_on_of_nodup_map (hl.imp fun h => Nat.ne_of_lt h)
  rw [mapIf, List.map_map]
  refine List.map_congr_left fun x hx => ?_
  by_cases hxr : x.lsn = r.lsn
  · simpa [hxr, hinj hx hr hxr] using h
  · simp [hxr]

theorem closeGroup_keepsRecords (m : Mod) : KeepsRecords m (closeGroup m) := by
  unfold closeGroup
  split
  · exact .refl m
  · exact ⟨rfl, rfl, rfl⟩

theorem openGroup_keepsRecords (m : Mod) (l : Nat) : KeepsRecords m (openGroup m l) := by
  unfold openGroup
  split
  · exact .refl m
  · exact ⟨rfl, rfl, rfl⟩

theorem openGroup_records (m : Mod) (l : Nat) : (openGroup m l).ledger.records = m.ledger.records := by
  unfold openGroup
  split <;> rfl

theorem enterOnce_keepsRecords (hm : lsnsRise m) (h : enterOnce m = some t) : KeepsRecords m t := by
  unfold enterOnce at h
  split at h
  · contradiction
  next r hr =>
    have hr := List.mem_of_find?_eq_some hr
    have hg := openGroup_keepsRecords m r.lsn
    dsimp only at h
    split at h
    · contradiction
    next g _ =>
      split at h
      · contradiction
      · obtain rfl := Option.some.inj h
        refine hg.trans ?_
        have hin (r' : LRec) (g' : Group) (h : recContent r' = recContent r) : KeepsRecords (openGroup m r.lsn)
            { openGroup m r.lsn with ledger := { (openGroup m r.lsn).ledger with
              records := mapIf (fun x => x.lsn = r.lsn) (fun _ => r') (openGroup m r.lsn).ledger.records, openG := some g' } } :=
          ⟨rfl, rfl, map_recContent_mapIf (hg.lsnsRise hm) (openGroup_records m r.lsn ▸ hr) h⟩
        split
        · refine .trans ?_ (closeGroup_keepsRecords _)
          exact hin _ _ (by rfl)
        · exact hin _ _ (by rfl)

theorem enterRing_keepsRecords (fuel : Nat) (hm : lsnsRise m) : KeepsRecords m (enterRing fuel m) := by
  induction fuel generalizing m with
  | zero => exact .refl m
  | succ fuel ih =>
    unfold enterRing
    split
    · exact .refl m
    next h => exact (enterOnce_keepsRecords hm h).trans (ih ((enterOnce_keepsRecords hm h).lsnsRise hm))

end

section
variable {m t : Mod} {c : Cmd}

/-- The module with record `r`, its lsn the next, written and not yet in the ring. -/
def withRecord (m : Mod) (r : LRec) : Mod :=
  { m with ledger := { m.ledger with next := m.ledger.next + 1, records := m.ledger.records ++ [r] } }

theorem withRecord_lsnsRise {r : LRec} (h : ledgerOrdered m.ledger) (hr : r.lsn = m.ledger.next) : lsnsRise (withRecord m r) := by
  obtain ⟨hlt, hrise⟩ := h
  show ((m.ledger.records ++ [r]).map (·.lsn)).Pairwise (· < ·)
  rw [List.pairwise_map, List.pairwise_append]
  refine ⟨hrise, List.pairwise_singleton .., fun x hx y hy => ?_⟩
  rw [List.mem_singleton.1 hy, hr]
  exact hlt x hx

/-- The ledger and the work records: what a mutation's record takes. -/
def onRecord : Portion := ⟨fun m t => { m with ledger := t.ledger, cmds := t.cmds }, fun _ => rfl, fun _ _ _ => rfl⟩

/-- A mutation's record stands in the ledger with the next lsn, and its work record names it (R511, R512). -/
theorem record_spec (redo : Redo) (h : ledgerOrdered m.ledger) :
    RecordWritten m (record m c redo) c (collId c.entry) (opcodeOf c.entry) redo ∧ onRecord.Only m (record m c redo) ∧
    (record m c redo).cmds = (setCmd m { c with lsn := some m.ledger.next }).cmds := by
  let r : LRec := ⟨m.ledger.next, now m, collId c.entry, recLen redo, cmdTag c.entry, c.chute, opcodeOf c.entry,
    some c.id, redo, 0, none, none, false, false⟩
  obtain ⟨honly, hnext, hrecs⟩ := enterRing_keepsRecords 256 (withRecord_lsnsRise (r := r) h rfl)
  have hr : recContent r ∈ (enterRing 256 (withRecord m r)).ledger.records.map recContent := by
    rw [hrecs]
    exact List.mem_map_of_mem (List.mem_append_right _ (List.mem_singleton_self r))
  obtain ⟨x, hx, hxr⟩ := List.mem_map.1 hr
  have hfld {α : Type} (f : LRec → α) (hf : ∀ r, f (recContent r) = f r) : f x = f r := by rw [← hf x, hxr, hf]
  have heq : record m c redo = setCmd (enterRing 256 (withRecord m r)) { c with lsn := some m.ledger.next } := rfl
  have hcmds : (enterRing 256 (withRecord m r)).cmds = m.cmds := honly.same Mod.cmds fun _ _ => rfl
  refine ⟨⟨hnext, x, hx, hfld (·.lsn) fun _ => rfl, hfld (·.redo) fun _ => rfl, hfld (·.cmd) fun _ => rfl, hfld (·.coll) fun _ => rfl,
    hfld (·.opcode) fun _ => rfl, hfld (·.prog) fun _ => rfl⟩, ?_, ?_⟩
  · rw [heq]
    exact .trans (t := withRecord m r) rfl (.trans (honly.widen fun _ _ => rfl) rfl)
  · rw [heq]
    exact congrArg (mapIf _ _) hcmds

theorem cmdOf_record {d : Cmd} (redo : Redo) (h : ledgerOrdered m.ledger) (hc : cmdOf m c.id = some d) :
    cmdOf (record m c redo) c.id = some { c with lsn := some m.ledger.next } := by
  rw [cmdOf, (record_spec redo h).2.2]
  exact cmdOf_setCmd_self (d := { c with lsn := some m.ledger.next }) hc

/-- What a record says does not depend on what else the command changed before and after it. -/
theorem recordWritten_of_ledger {m₀ t₀ : Mod} {c₀ : Cmd} {coll op : Nat} {redo : Redo} (h : RecordWritten m₀ t₀ c₀ coll op redo)
    (hm : m₀.ledger = m.ledger) (ht : t.ledger = t₀.ledger) (hc : c₀.id = c.id) : RecordWritten m t c coll op redo := by
  unfold RecordWritten at *
  rw [ht, ← hm, ← hc]
  exact h

end

end Sys2Proof.Proofs

/-! Shards as admission finds and sets them, and the commands on collections (R22, R25, R45, R123, R130, R255, R256). -/

namespace Sys2Proof.Proofs

open Sys2Proof Sys2Proof.Machine Sys2Proof.Laws

section
variable {m t : Mod} {k : Nat} {c d : Coll}

theorem collOf_id (h : collOf m k = some c) : c.id = k := by
  have := List.find?_some h
  simp only [Bool.and_eq_true, decide_eq_true_eq] at this
  exact this.1.1

theorem collOf_made (h : collOf m k = some c) : c.made = true := by
  have := List.find?_some h
  simp only [Bool.and_eq_true, decide_eq_true_eq] at this
  exact this.1.2

theorem collOf_not_dropped (h : collOf m k = some c) : c.dropped = false := by
  have := List.find?_some h
  simp only [Bool.and_eq_true, Bool.not_eq_true'] at this
  exact this.2

theorem shardOf_id (h : shardOf m k = some c) : c.id = k := by simpa using List.find?_some h

/-- A shard found whatever its state exists where it is made and not dropped. -/
theorem collOf_of_shardOf (h : shardOf m k = some c) (hm : c.made = true) (hd : c.dropped = false) : collOf m k = some c := by
  obtain ⟨hk, as, bs, hl, has⟩ := List.find?_eq_some_iff_append.1 h
  refine List.find?_eq_some_iff_append.2 ⟨by simpa [hm, hd] using hk, as, bs, hl, fun a ha => ?_⟩
  have := has a ha
  simp_all

theorem shardOf_isSome (h : collOf m k = some c) : ∃ x, shardOf m k = some x := by
  refine Option.isSome_iff_exists.1 (List.find?_isSome.2 ⟨c, List.mem_of_find?_eq_some h, ?_⟩)
  simp [collOf_id h]

theorem shardOf_setColl_self (h : shardOf m d.id = some c) : shardOf (setColl m d) d.id = some d := by
  rw [shardOf_setColl, if_pos rfl, h, Option.map_some]

/-- A shard that exists, as it reads once it was set. -/
theorem collOf_setColl_self (h : collOf m k = some c) (hid : d.id = k) (hm : d.made = true) (hd : d.dropped = false) :
    collOf (setColl m d) k = some d := by
  subst hid
  obtain ⟨x, hx⟩ := shardOf_isSome h
  exact collOf_of_shardOf (shardOf_setColl_self hx) hm hd

theorem mirrorCheck_only (n : Nat) (m : Mod) : onRegs.Only m (mirrorCheck n m) := .ite rfl (.refl _ m)

end

section
variable {s : State} {m m₁ t : Mod} {n op l : Nat} {c d : Cmd} {redo : Redo} {P : Cmd → Prop}

/-- A command that takes a record as it is admitted: `m₁` is the module with the head pinned and the command's changes made. -/
theorem record_admitted (h : Admits m op n c l) (hord : ledgerOrdered m.ledger) (ht : onRegs.Only (record m₁ d redo) t)
    (hled : m₁.ledger = m.ledger) (hadm : m₁.adm = (beforeWork m c l).adm) (hcmd : (cmdOf m₁ c.id).isSome)
    (hd : d = { pinnedHead m c l with count := d.count, info := d.info }) (hP : P { d with lsn := some m.ledger.next }) :
    RecordWritten m t c (collId c.entry) op redo ∧ AdmittedAs m t c l P := by
  have hid : d.id = c.id := by rw [hd]; rfl
  have hent : d.entry = c.entry := by rw [hd]; rfl
  obtain ⟨x, hx⟩ := Option.isSome_iff_exists.1 hcmd
  obtain ⟨hrec, honly, -⟩ := record_spec (c := d) redo (hled ▸ hord)
  refine ⟨?_, admittedAs_of (d := { d with lsn := some m.ledger.next }) ?_ ?_ hP (by rw [hd])⟩
  · rw [hent, admits_opcode h] at hrec
    exact recordWritten_of_ledger hrec hled (ht.same Mod.ledger fun _ _ => rfl) hid
  · rw [ht.same (cmdOf · c.id) fun _ _ => rfl, ← hid, cmdOf_record redo (hled ▸ hord) (hid ▸ hx), hled]
  · rw [ht.same (·.adm.seq) fun _ _ => rfl, honly.same (·.adm.seq) fun _ _ => rfl, hadm, beforeWork_seq]

theorem cmdOf_beforeWork_isSome (h : Admits m op n c l) : (cmdOf (beforeWork m c l) c.id).isSome := by
  rw [admits_cmdOf_beforeWork h]
  rfl

theorem record_colls (m : Mod) (c : Cmd) (redo : Redo) (h : ledgerOrdered m.ledger) : (record m c redo).colls = m.colls :=
  (record_spec redo h).2.1.same Mod.colls fun _ _ => rfl

end

/-- A shard of a record taken after it was set. -/
theorem collOf_record {m : Mod} (c : Cmd) (redo : Redo) (h : ledgerOrdered m.ledger) (k : Nat) : collOf (record m c redo) k = collOf m k := by
  rw [collOf, record_colls m c redo h, collOf]

section
variable {s : State} {n l : Nat} {c : Cmd} {co : Coll}

/-- A record written with no shard changed. -/
theorem record_beforeWork {op : Nat} {redo : Redo} (h : Admits s.mod op n c l) (hord : ledgerOrdered s.mod.ledger) :
    let t := record (beforeWork s.mod c l) (pinnedHead s.mod c l) redo
    (RecordWritten s.mod t c (collId c.entry) op redo ∧ AdmittedAs s.mod t c l fun d => d.lsn = some s.mod.ledger.next) ∧
    t.colls = s.mod.colls :=
  ⟨record_admitted h hord (.refl ..) (beforeWork_ledger ..) rfl (cmdOf_beforeWork_isSome h) rfl rfl,
    (record_colls _ _ _ (beforeWork_ledger s.mod c l ▸ hord)).trans (beforeWork_colls ..)⟩

/-- A record written with the shard of the command set. -/
theorem record_setColl {op : Nat} {redo : Redo} {d : Coll} {m₁ t : Mod} (h : Admits s.mod op n c l) (hord : ledgerOrdered s.mod.ledger)
    (hco : collOf s.mod (collId c.entry) = some co) (hid : d.id = co.id) (hm : d.made = co.made) (hd : d.dropped = co.dropped)
    (hm₁ : m₁ = { setColl (beforeWork s.mod c l) d with resv := m₁.resv })
    (ht : onRegs.Only (record m₁ (pinnedHead s.mod c l) redo) t) :
    (RecordWritten s.mod t c (collId c.entry) op redo ∧ AdmittedAs s.mod t c l fun d => d.lsn = some s.mod.ledger.next) ∧
    collOf t co.id = some d := by
  have hled : m₁.ledger = s.mod.ledger := (congrArg Mod.ledger hm₁).trans (beforeWork_ledger ..)
  have hadm : m₁.adm = (beforeWork s.mod c l).adm := (congrArg Mod.adm hm₁).trans rfl
  have hcmd : (cmdOf m₁ c.id).isSome = true := (congrArg (fun m => (cmdOf m c.id).isSome) hm₁).trans (cmdOf_beforeWork_isSome h)
  refine ⟨record_admitted h hord ht hled hadm hcmd rfl rfl, ?_⟩
  rw [ht.same (collOf · co.id) fun _ _ => rfl, collOf_record _ _ (hled ▸ hord), collOf_id hco]
  refine (congrArg (collOf · (collId c.entry)) hm₁).trans ?_
  exact collOf_setColl_self ((beforeWork_collOf ..).trans hco) (hid.trans (collOf_id hco)) (hm.trans (collOf_made hco))
    (hd.trans (collOf_not_dropped hco))

theorem pendPub_congr {m t : Mod} (h : t.ledger = m.ledger) : pendPub t = pendPub m := by
  funext c
  rw [pendPub, h, pendPub]

theorem pendInsts_congr {m t : Mod} (h : t.ledger = m.ledger) : pendInsts t = pendInsts m := by
  funext c k
  rw [pendInsts, pendPub_congr h, pendInsts]

/-- What is live in a shard turns on the ledger alone. -/
theorem keyLive_congr {m t : Mod} (h : t.ledger = m.ledger) : keyLive t = keyLive m := by
  funext c k
  rw [keyLive, pendPub_congr h, pendInsts_congr h, keyLive]

theorem supersedeSet_congr {m t : Mod} (h : t.ledger = m.ledger) (co : Coll) (l : List Segment) : supersedeSet t co l = supersedeSet m co l := by
  rw [supersedeSet, keyLive_congr h, supersedeSet]

/-- COLLECTION_CREATE (R22, R45). -/
theorem createAdmit_gives (h : Admits s.mod 0x70 n c l) (hord : ledgerOrdered s.mod.ledger) :
    Gives (.collectionCreate n) s fun t =>
      (RecordWritten s.mod t c (collId c.entry) 0x70 (.create c.entry) ∧ AdmittedAs s.mod t c l fun d => d.lsn = some s.mod.ledger.next) ∧
      t.colls = s.mod.colls ++ [newColl (collId c.entry) s.mod.ledger.next c.entry] := by
  refine admits_gives_work createAdmit h rfl (by simp [startWork, admits_opcode h]) ?_
  simp only [createAdmit, pinnedHead_entry, beforeWork_next, beforeWork_colls]
  exact ⟨record_admitted h hord (.refl ..) (beforeWork_ledger s.mod c l) rfl (cmdOf_beforeWork_isSome h) rfl rfl,
    record_colls _ _ _ (beforeWork_ledger s.mod c l ▸ hord)⟩

/-- PUBLISH (R255, R256). -/
theorem publishAdmit_gives (h : Admits s.mod 0x22 n c l) (hord : ledgerOrdered s.mod.ledger) (hco : collOf s.mod (collId c.entry) = some co) :
    let sup := supersedeSet s.mod co (newlyLive co c.entry)
    Gives (.publish n) s fun t =>
      ((RecordWritten s.mod t c (collId c.entry) 0x22 (.publish ⟨publishGen co c.entry, sup, fld c.entry 52 4,
          if fld c.entry 56 8 = 0 then none else some c.pl.shardMap, false, [], clearedOrds co c.entry, []⟩) ∧
        AdmittedAs s.mod t c l fun d => d.lsn = some s.mod.ledger.next) ∧
      collOf t co.id = some { co with pub := some s.mod.ledger.next }) ∧ t.resv = s.mod.resv + sup.length := by
  refine admits_gives_work publishAdmit h rfl (by simp [startWork, admits_opcode h]) ?_
  simp only [publishAdmit, pinnedHead_entry, beforeWork_collOf, hco, beforeWork_next, beforeWork_resv,
    supersedeSet_congr (beforeWork_ledger s.mod c l)]
  refine ⟨record_setColl h hord hco rfl rfl rfl rfl (mirrorCheck_only ..), ?_⟩
  rw [(mirrorCheck_only ..).same Mod.resv fun _ _ => rfl]
  exact (record_spec _ (beforeWork_ledger s.mod c l ▸ hord)).2.1.same Mod.resv fun _ _ => rfl

end

/-- Settles O21: each row makes its change to the shard and takes its record. -/
theorem collectionCommandsTakeOneRecord : Obligations.CollectionCommandsTakeOneRecord := by
  intro s n c l hord
  refine ⟨fun h => ?_, fun co hco h => ?_, fun h => ?_, fun h => ?_, fun co hco h => ?_⟩
  · obtain ⟨t, ht, hp, hrec, hcolls⟩ := createAdmit_gives h hord
    exact ⟨t, ht, hp, hrec, _, hcolls, rfl, rfl, rfl, rfl, rfl, rfl, rfl⟩
  · refine admits_gives_work dropAdmit h rfl (by simp [startWork, admits_opcode h]) ?_
    simp only [dropAdmit, pinnedHead_entry, beforeWork_collOf, hco]
    exact record_setColl h hord hco rfl rfl rfl rfl (.refl ..)
  · refine admits_gives_work schemaAdmit h rfl (by simp [startWork, admits_opcode h]) ?_
    exact record_beforeWork h hord
  · refine admits_gives_work retireAdmit h rfl (by simp [startWork, admits_opcode h]) ?_
    exact record_beforeWork h hord
  · obtain ⟨t, ht, hp, ⟨hrec, hcoll⟩, hresv⟩ := publishAdmit_gives h hord hco
    exact ⟨t, ht, hp, hcoll, _, hrec, rfl, rfl, rfl, rfl, rfl, rfl, hresv⟩

end Sys2Proof.Proofs

/-! What the writes of a batch leave alone, the stockpile entries it puts, and one tombstone (R24, R230, R232, R234, R265). -/

namespace Sys2Proof.Proofs

open Sys2Proof Sys2Proof.Machine Sys2Proof.Laws

/-! Writes to device memory. -/

/-- What a unit's write to device memory takes: pages, the writes that drills hold, and counters. -/
def onDevice : Portion := ⟨fun m t => { m with mem := t.mem, drills := t.drills, regs := t.regs }, fun _ => rfl, fun _ _ _ => rfl⟩

section
variable (m : Mod) (a : Nat)

theorem abandonMove_onDevice (v : Move) : onDevice.Only m (abandonMove m v) := .ite rfl rfl

theorem logGran_onDevice (g : List Byte) : onDevice.Only m (logGran m a g) := by
  unfold logGran
  split
  · exact .refl _ m
  · exact .ite (.ite rfl (abandonMove_onDevice ..)) (.refl _ m)

theorem programEnt_onDevice (w : WbEnt) : onDevice.Only m (programEnt m w) := by
  unfold programEnt
  extract_lets pg mem₀ m₀
  have h₀ : onDevice.Only m m₀ := rfl
  split
  · exact h₀
  next e _ =>
    extract_lets st m₁ ch x m₂
    have h₁ : onDevice.Only m₀ m₁ := .ite (.refl ..) (by split <;> rfl)
    have h₂ : onDevice.Only m₁ m₂ := .ite rfl (.refl ..)
    exact ((h₀.trans h₁).trans h₂).trans rfl

theorem wbPut_onDevice (g : List Byte) : onDevice.Only m (wbPut m a g) := by
  unfold wbPut
  dsimp only
  refine .ite rfl (.trans (t := match m.mem.wb with | w :: _ => if m.mem.wb.length < wbMax then m else programEnt m w | [] => m) ?_ rfl)
  split
  · exact .ite (.refl _ m) (programEnt_onDevice ..)
  · exact .refl _ m

theorem storeGran_onDevice (e : PageEnt) (g : List Byte) : onDevice.Only m (storeGran m e a g) :=
  .trans (t := setEnt m { e with image := false }) rfl (.ite (wbPut_onDevice ..) rfl)

theorem applyGran_onDevice (g : List Byte) : onDevice.Only m (applyGran m a g) := by
  let u := clearUe m (a / 32 * 32)
  let t := match pageEnt u (pageNo (a / 32 * 32)) with
    | none => u
    | some e => storeGran u e (a / 32 * 32) g
  have hu : onDevice.Only m u := rfl
  have ht : onDevice.Only u t := by
    show onDevice.Only u (match pageEnt u _ with | none => u | some e => storeGran u e _ g)
    split
    · exact .refl _ u
    · exact storeGran_onDevice ..
  exact (hu.trans ht).trans (logGran_onDevice t (a / 32 * 32) g)

theorem applyMask_onDevice (g : List (Option Byte)) : onDevice.Only m (applyMask m a g) :=
  .ite (applyGran_onDevice ..) (.ite (.refl _ m) (applyGran_onDevice ..))

theorem putMask_onDevice (g : List (Option Byte)) : onDevice.Only m (putMask m a g) := by
  unfold putMask
  split
  next k _ =>
    have hk : onDevice.Only m (countStop m k) := .ite (.refl _ m) rfl
    exact hk.trans rfl
  · split
    · rfl
    · exact applyMask_onDevice ..

theorem writeBytes_onDevice (d : List Byte) : onDevice.Only m (writeBytes m a d) :=
  .ite (.refl _ m) (.foldl (fun _ _ => putMask_onDevice ..) _ m)

theorem allocModule_onDevice {t : Mod} {bench pg : Nat} {die : Option Nat} (h : allocModule m bench die = some (pg, t)) : onDevice.Only m t := by
  unfold allocModule at h
  split at h
  · contradiction
  · obtain ⟨-, rfl⟩ := h
    rfl

end

/-! Entries written to the stockpile (R24, R230, R232). -/

/-- What a batch's vectors take: device memory and the shards. -/
def onStock : Portion :=
  ⟨fun m t => { m with mem := t.mem, drills := t.drills, regs := t.regs, colls := t.colls }, fun _ => rfl, fun _ _ _ => rfl⟩

/-- Device memory was written, and shard `cid`, which was `c`, took stockpile pages. -/
def StockStored (cid : Nat) (c : Coll) (m t : Mod) : Prop :=
  onStock.Only m t ∧ ∃ p, shardOf t cid = some { c with stockPgs := p }

section
variable {m t : Mod} {cid : Nat} {c d : Coll}

theorem StockStored.write (h : StockStored cid c m t) {u : Mod} (hu : onDevice.Only t u) : StockStored cid c m u :=
  ⟨h.1.trans (hu.widen fun _ _ => rfl), by rw [hu.same (shardOf · cid) fun _ _ => rfl]; exact h.2⟩

theorem stockWrite_stored (e : SEntry) (h : StockStored cid c m t) : StockStored cid c m (stockWrite cid t e) := by
  obtain ⟨p, hp⟩ := h.2
  have hid : c.id = cid := (shardOf_id hp :)
  let u := if p.any fun x => x.1 = slotPage c e.pos then t
    else match allocModule t 1 (some (roomiest t)) with
      | none => t
      | some (pg, u) => setColl u { c with stockPgs := (slotPage c e.pos, pg) :: p }
  have hu : StockStored cid c m u := by
    show StockStored cid c m (if _ then t else match allocModule t 1 (some (roomiest t)) with
      | none => t
      | some (pg, u) => setColl u { c with stockPgs := (slotPage c e.pos, pg) :: p })
    split
    · exact h
    · split
      · exact h
      next pg u hu =>
        have hu := allocModule_onDevice t hu
        have hs : shardOf u cid = _ := (hu.same (shardOf · cid) fun _ _ => rfl).trans hp
        refine ⟨(h.write hu).1.trans rfl, (slotPage c e.pos, pg) :: p, ?_⟩
        subst hid
        exact shardOf_setColl_self (d := { c with stockPgs := _ }) hs
  have heq : stockWrite cid t e = match (shardOf u cid).bind fun c => stockAddr c e.pos with
      | none => u
      | some a => writeBytes u a (codesBytes c e.vec) := by
    simp only [stockWrite, hp]
    rfl
  rw [heq]
  split
  · exact hu
  · exact hu.write (writeBytes_onDevice ..)

/-- Entries put into the stockpile: the shard holds them, with the pages of its bench 1 space taken as needed. -/
theorem stockPut_stored (es : List SEntry) (h : shardOf m cid = some d) (hid : c.id = cid) :
    StockStored cid (putEntries c es) m (stockPut m c es) := by
  subst hid
  have h₀ : StockStored c.id (putEntries c es) m (setColl m (putEntries c es)) := ⟨rfl, _, shardOf_setColl_self (d := putEntries c es) h⟩
  have (l : List SEntry) (t : Mod) (ht : StockStored c.id (putEntries c es) m t) :
      StockStored c.id (putEntries c es) m (l.foldl (stockWrite c.id) t) := by
    induction l generalizing t with
    | nil => exact ht
    | cons e l ih => exact ih _ (stockWrite_stored e ht)
  exact this es _ h₀

end

/-! Tombstones (R234, R265). -/

/-- Tombstoned, or an ordinal held as tombstoned again for the merge step that reuses it. -/
def Dead (c : Coll) (i : Inst) : Prop := isTomb c i = true ∨ ∃ a b, i = .ord a b ∧ (a, b) ∈ c.reborn

/-- `i` is dead in `d`, and tombstoned in it where no publish is pending on `c`, the shard as it was. -/
def Buried (m : Mod) (c d : Coll) (i : Inst) : Prop := Dead d i ∧ (pendPub m c = none → isTomb d i = true)

/-- Shard `cid`, which was `c` and is `d`, has more tombstones, each with its tag in the mirror. -/
structure TombsAdded (cid : Nat) (m t : Mod) (c d : Coll) : Prop where
  frame : t = { m with resv := t.resv, colls := t.colls, mirror := t.mirror, regs := t.regs }
  shard : shardOf t cid = some d
  coll : d = { c with tombs := d.tombs, reborn := d.reborn, tombStock := d.tombStock }
  tombs : ∀ i, isTomb c i = true → isTomb d i = true
  reborn : ∀ x ∈ c.reborn, x ∈ d.reborn
  mirror : ∀ x ∈ m.mirror, x ∈ t.mirror
  tagged : ∀ i, isTomb d i = true → isTomb c i = true ∨ mirrorTag cid i ∈ t.mirror

section
variable {m t u : Mod} {cid : Nat} {c d e : Coll} {i : Inst}

theorem TombsAdded.refl (h : shardOf m cid = some c) : TombsAdded cid m m c c where
  frame := rfl
  shard := h
  coll := rfl
  tombs := fun _ h => h
  reborn := fun _ h => h
  mirror := fun _ h => h
  tagged := fun _ h => .inl h

theorem TombsAdded.trans (h : TombsAdded cid m t c d) (g : TombsAdded cid t u d e) : TombsAdded cid m u c e where
  frame := by rw [g.frame, h.frame]
  shard := g.shard
  coll := by rw [g.coll, h.coll]
  tombs i hi := g.tombs i (h.tombs i hi)
  reborn x hx := g.reborn x (h.reborn x hx)
  mirror x hx := g.mirror x (h.mirror x hx)
  tagged i hi := by
    rcases g.tagged i hi with hd | ht
    · exact (h.tagged i hd).imp id (g.mirror _)
    · exact .inr ht

theorem TombsAdded.dead (h : TombsAdded cid m t c d) (hi : Dead c i) : Dead d i :=
  hi.imp (h.tombs i) fun ⟨a, b, ha, hb⟩ => ⟨a, b, ha, h.reborn _ hb⟩

theorem TombsAdded.pendPub (h : TombsAdded cid m t c d) : pendPub t d = Machine.pendPub m c := by
  have hled : t.ledger = m.ledger := by rw [h.frame]
  have hpub : d.pub = c.pub := by rw [h.coll]
  rw [pendPub_congr hled, Machine.pendPub, hpub, Machine.pendPub]

/-- The shard with `i` marked: `again` where the pending step reuses its ordinal. -/
def markTomb (c : Coll) (again : Bool) : Inst → Coll
  | .ord s n => if again then { c with reborn := (s, n) :: c.reborn } else { c with tombs := (s, n) :: c.tombs }
  | .stock p => { c with tombStock := p :: c.tombStock }
  | .remote _ => c

theorem isTomb_markTomb (again : Bool) {j : Inst} (h : isTomb (markTomb c again i) j = true) : isTomb c j = true ∨ j = i := by
  cases i with
  | ord s n =>
    cases again
    · cases j with
      | ord s' n' =>
        have hq : (s', n') = (s, n) ∨ (s', n') ∈ c.tombs := by simpa [markTomb, isTomb] using h
        rcases hq with hq | hq
        · obtain ⟨rfl, rfl⟩ := Prod.mk.inj hq
          exact .inr rfl
        · exact .inl (decide_eq_true hq)
      | _ => exact .inl h
    · exact .inl h
  | stock p =>
    cases j with
    | stock q =>
      have hq : q = p ∨ q ∈ c.tombStock := by simpa [markTomb, isTomb] using h
      rcases hq with rfl | hq
      · exact .inr rfl
      · exact .inl (decide_eq_true hq)
    | _ => exact .inl h
  | remote n => exact .inl h

theorem isTomb_markTomb_of (again : Bool) {j : Inst} (h : isTomb c j = true) : isTomb (markTomb c again i) j = true := by
  cases i with
  | ord s n => cases again <;> cases j <;> simp_all [markTomb, isTomb]
  | stock p => cases j <;> simp_all [markTomb, isTomb]
  | remote n => exact h

theorem markTomb_coll (c : Coll) (again : Bool) (i : Inst) :
    markTomb c again i = { c with
      tombs := (markTomb c again i).tombs, reborn := (markTomb c again i).reborn, tombStock := (markTomb c again i).tombStock } := by
  cases i with
  | ord s n => cases again <;> rfl
  | stock p => rfl
  | remote n => rfl

theorem reborn_markTomb (again : Bool) {x : Nat × Nat} (h : x ∈ c.reborn) : x ∈ (markTomb c again i).reborn := by
  cases i with
  | ord s n => cases again <;> simp [markTomb, h]
  | stock p => exact h
  | remote n => exact h

/-- A shard marked, with the tag in the mirror. -/
theorem markTomb_added (h : shardOf m cid = some c) (again : Bool) (i : Inst) :
    TombsAdded cid m { setColl m (markTomb c again i) with mirror := mirrorTag cid i :: m.mirror } c (markTomb c again i) where
  frame := rfl
  shard := by
    have hid : (markTomb c again i).id = cid := by rw [markTomb_coll, ← shardOf_id h]
    subst hid
    exact shardOf_setColl_self h
  coll := markTomb_coll ..
  tombs _ := isTomb_markTomb_of again
  reborn _ := reborn_markTomb again
  mirror _ := List.mem_cons_of_mem _
  tagged j hj := (isTomb_markTomb again hj).imp id fun h => by rw [h]; exact List.mem_cons_self

/-- Whether a pending step reuses the ordinal. -/
def reuses (m : Mod) (c : Coll) : Inst → Bool
  | .ord s n => (pendPub m c).any fun p => decide ((s, n) ∈ p.reused)
  | _ => false

/-- Whether `i` is marked already. -/
def marked (c : Coll) (again : Bool) : Inst → Bool
  | .ord s n => if again then decide ((s, n) ∈ c.reborn) else isTomb c (.ord s n)
  | i => isTomb c i

theorem tombstone_eq (h : shardOf m cid = some c) (i : Inst) : tombstone m cid i = if marked c (reuses m c i) i then m else
    { setColl m (markTomb c (reuses m c i) i) with mirror := mirrorTag cid i :: m.mirror } := by
  cases i <;> simp only [tombstone, h] <;> rfl

theorem marked_markTomb (c : Coll) (again : Bool) (hi : ∀ n, i ≠ .remote n) : marked (markTomb c again i) again i = true := by
  cases i with
  | ord s n => cases again <;> simp [marked, markTomb, isTomb]
  | stock p => simp [marked, markTomb, isTomb]
  | remote n => exact absurd rfl (hi n)

theorem Dead.of_marked {again : Bool} (h : marked c again i = true) : Dead c i ∧ (again = false → isTomb c i = true) := by
  cases i with
  | ord s n =>
    cases again
    · exact ⟨.inl h, fun _ => h⟩
    · exact ⟨.inr ⟨s, n, rfl, of_decide_eq_true h⟩, nofun⟩
  | stock p => exact ⟨.inl h, fun _ => h⟩
  | remote n => exact ⟨.inl h, fun _ => h⟩

theorem reuses_of_pendPub_none (h : pendPub m c = none) (i : Inst) : reuses m c i = false := by
  cases i <;> simp [reuses, h]

/-- One of this module's vectors tombstoned. -/
theorem tombstone_added (h : shardOf m cid = some c) (hi : ∀ n, i ≠ .remote n) :
    ∃ d, TombsAdded cid m (tombstone m cid i) c d ∧ Buried m c d i := by
  rw [tombstone_eq h]
  split
  next hm => exact ⟨c, .refl h, (Dead.of_marked hm).1, fun h0 => (Dead.of_marked hm).2 (reuses_of_pendPub_none h0 i)⟩
  next =>
    have hm := Dead.of_marked (marked_markTomb c (reuses m c i) hi)
    exact ⟨_, markTomb_added h _ i, hm.1, fun h0 => hm.2 (reuses_of_pendPub_none h0 i)⟩

end

end Sys2Proof.Proofs

/-! Batches on a shard (R28, R53, R57, R111, R112, R230, R234, R265, R335): what they tombstone, and their admission. -/

namespace Sys2Proof.Proofs

open Sys2Proof Sys2Proof.Machine Sys2Proof.Laws

section
variable {m t : Mod} {cid : Nat} {c d : Coll} {i : Inst}

/-- A tag returned with a tombstone (R257) is no part of the shard. -/
theorem tombOne_added (h : shardOf m cid = some c) (hi : ∀ n, i ≠ .remote n) :
    ∃ d, TombsAdded cid m (tombOne cid m i) c d ∧ Buried m c d i := by
  have hr (r : Nat) : ∃ d, TombsAdded cid m (tombstone { m with resv := r } cid i) c d ∧ Buried m c d i := by
    obtain ⟨d, ht, hd⟩ := tombstone_added (m := { m with resv := r }) h hi
    exact ⟨d, { ht with frame := ht.frame }, hd⟩
  simp only [tombOne, h]
  split
  · exact hr _
  · exact hr m.resv

theorem foldl_tombOne_added (h : shardOf m cid = some c) {l : List Inst} (hl : ∀ i ∈ l, ∀ n, i ≠ .remote n) :
    ∃ d, TombsAdded cid m (l.foldl (tombOne cid) m) c d ∧ ∀ i ∈ l, Buried m c d i := by
  induction l generalizing m c with
  | nil => exact ⟨c, .refl h, by simp⟩
  | cons x l ih =>
    rw [List.forall_mem_cons] at hl
    obtain ⟨d, hd, hx, hx'⟩ := tombOne_added h hl.1
    obtain ⟨e, he, hl'⟩ := ih hd.shard hl.2
    simp only [Buried, hd.pendPub] at hl'
    exact ⟨e, hd.trans he, List.forall_mem_cons.2 ⟨⟨he.dead hx, fun h0 => he.tombs _ (hx' h0)⟩, hl'⟩⟩

/-- All instances of a batch tombstoned. -/
theorem tombAll_added (h : shardOf m cid = some c) {l : List Inst} (hl : ∀ i ∈ l, ∀ n, i ≠ .remote n) :
    ∃ d, TombsAdded cid m (tombAll m cid l) c d ∧ ∀ i ∈ l, Buried m c d i := by
  obtain ⟨d, hd, hdead⟩ := foldl_tombOne_added h hl
  have hc := mirrorCheck_only (mirrorUsed m) (l.foldl (tombOne cid) m)
  have hmir : (tombAll m cid l).mirror = (l.foldl (tombOne cid) m).mirror := hc.same Mod.mirror fun _ _ => rfl
  have hsh : shardOf (tombAll m cid l) cid = some d := (hc.same (shardOf · cid) fun _ _ => rfl).trans hd.shard
  refine ⟨d, { hd with frame := ?_, shard := hsh, mirror := hmir ▸ hd.mirror, tagged := hmir ▸ hd.tagged }, hdead⟩
  rw [tombAll, hc, hd.frame]
  rfl

/-! The instances that a batch tombstones are of this module, and with no publish pending none is tombstoned before. -/

theorem liveNode_spec {sg : Segment} {k : DWord} (h : liveNode c sg k = some i) : (∀ n, i ≠ .remote n) ∧ isTomb c i = false := by
  obtain ⟨j, hj, rfl⟩ := Option.map_eq_some_iff.1 h
  have := List.find?_some hj
  simp only [Bool.and_eq_true, Bool.not_eq_true'] at this
  exact ⟨nofun, this.2⟩

theorem liveInst_spec {k : DWord} (h : liveInst c k = some i) : (∀ n, i ≠ .remote n) ∧ isTomb c i = false := by
  rw [liveInst, Option.orElse_eq_or, Option.or_eq_some_iff] at h
  rcases h with hs | ⟨-, hs⟩
  · obtain ⟨sg, -, hn⟩ := List.exists_of_findSome?_eq_some hs
    exact liveNode_spec hn
  · obtain ⟨e, -, he⟩ := List.exists_of_findSome?_eq_some hs
    simp only [Option.ite_none_right_eq_some, Bool.and_eq_true, Bool.not_eq_true', Option.some.injEq] at he
    obtain ⟨⟨-, ht⟩, rfl⟩ := he
    exact ⟨nofun, ht⟩

theorem oldInsts_spec {k : DWord} (h : i ∈ oldInsts c k) : (∀ n, i ≠ .remote n) ∧ isTomb c i = false := by
  rcases List.mem_append.1 h with hs | hs
  · obtain ⟨e, -, he⟩ := List.mem_filterMap.1 hs
    simp only [Option.ite_none_right_eq_some, Bool.and_eq_true, Bool.not_eq_true', Option.some.injEq] at he
    obtain ⟨⟨-, ht⟩, rfl⟩ := he
    exact ⟨nofun, ht⟩
  · obtain ⟨sg, -, hn⟩ := List.mem_filterMap.1 hs
    exact liveNode_spec hn

theorem pendInsts_spec {k : DWord} (h : i ∈ pendInsts m c k) : (∀ n, i ≠ .remote n) ∧ pendPub m c ≠ none := by
  unfold pendInsts at h
  split at h
  · contradiction
  next p hp =>
    refine ⟨?_, by simp [hp]⟩
    split at h
    · obtain ⟨f, -, hf⟩ := List.mem_filterMap.1 h
      simp only [Option.ite_none_right_eq_some, Option.some.injEq] at hf
      obtain ⟨-, rfl⟩ := hf
      exact nofun
    · obtain ⟨sg, -, hn⟩ := List.mem_filterMap.1 h
      exact (liveNode_spec hn).1

theorem instsOf_spec {k : DWord} (h : i ∈ instsOf m c k) : (∀ n, i ≠ .remote n) ∧ (pendPub m c = none → isTomb c i = false) := by
  unfold instsOf at h
  split at h
  · rw [List.mem_eraseDups, List.mem_append, List.mem_append, Option.mem_toList] at h
    rcases h with (h | h) | h
    · exact ⟨(liveInst_spec h).1, fun _ => (liveInst_spec h).2⟩
    · exact ⟨(pendInsts_spec h).1, fun h0 => absurd h0 (pendInsts_spec h).2⟩
    · exact ⟨(oldInsts_spec h).1, fun _ => (oldInsts_spec h).2⟩
  · contradiction

theorem batchInsts_spec {ks : List DWord} (h : i ∈ batchInsts m c ks) :
    (∀ n, i ≠ .remote n) ∧ (pendPub m c = none → isTomb c i = false) := by
  obtain ⟨k, -, hk⟩ := List.mem_flatMap.1 (List.mem_eraseDups.1 h)
  exact instsOf_spec hk

end

/-! Batches at their admission. -/

theorem batchInsts_congr {m t : Mod} (h : t.ledger = m.ledger) : batchInsts t = batchInsts m := by
  have hi : instsOf t = instsOf m := by
    funext c k
    rw [instsOf, keyLive_congr h, pendInsts_congr h, instsOf]
  funext c ks
  rw [batchInsts, hi, batchInsts]

theorem batchGone_congr {m t : Mod} (h : t.ledger = m.ledger) : batchGone t = batchGone m := by
  funext c ks
  rw [batchGone, pendPub_congr h, pendInsts_congr h, batchGone]

theorem liveCount_congr {m t : Mod} (h : t.ledger = m.ledger) : liveCount t = liveCount m := by
  funext c ks
  rw [liveCount, keyLive_congr h, liveCount]

/-- What a batch takes beside its record: the shards, the mirror, device memory. -/
def onBatch : Portion :=
  ⟨fun m t => { m with mem := t.mem, drills := t.drills, regs := t.regs, colls := t.colls, mirror := t.mirror, resv := t.resv },
    fun _ => rfl, fun _ _ _ => rfl⟩

/-- The work record of a batch: how many entries it put or keys it named, and what it counts in its info. -/
def batchHead (m : Mod) (c : Cmd) (l count info : Nat) : Cmd := { pinnedHead m c l with count := count, info := info }

theorem TombsAdded.onBatch {cid : Nat} {m t : Mod} {c d : Coll} (h : TombsAdded cid m t c d) : onBatch.Only m t := by
  rw [h.frame]
  rfl

section
variable {s : State} {n l op a b : Nat} {c : Cmd} {co d : Coll} {m : Mod} {redo : Redo}

/-- A batch whose changes stand in `m`, at its record. -/
theorem batch_record (h : Admits s.mod op n c l) (hord : ledgerOrdered s.mod.ledger) (hb : onBatch.Only (beforeWork s.mod c l) m)
    (hco : collOf s.mod (collId c.entry) = some co) (hs : shardOf m co.id = some d) (hm : d.made = co.made) (hd : d.dropped = co.dropped) :
    let t := record (setCmd m (batchHead s.mod c l a b)) (batchHead s.mod c l a b) redo
    collOf t co.id = some d ∧ t.mirror = m.mirror ∧
    AdmittedAs s.mod t c l (fun d => d.count = a ∧ d.lsn = some s.mod.ledger.next ∧ d.info = b) ∧
    RecordWritten s.mod t c co.id op redo := by
  let x := batchHead s.mod c l a b
  have hled : (setCmd m x).ledger = s.mod.ledger := (hb.same Mod.ledger fun _ _ => rfl).trans (beforeWork_ledger ..)
  have hcmds : m.cmds = (beforeWork s.mod c l).cmds := hb.same Mod.cmds fun _ _ => rfl
  have hfound : (cmdOf (setCmd m x) c.id).isSome = true := by
    rw [cmdOf, setCmd, hcmds]
    exact Option.isSome_of_eq_some (cmdOf_setCmd_beforeWork (d := x) h rfl)
  obtain ⟨hrec, hadm⟩ := record_admitted (redo := redo) (P := fun d => d.count = a ∧ d.lsn = some s.mod.ledger.next ∧ d.info = b)
    h hord (.refl ..) hled (hb.same Mod.adm fun _ _ => rfl) hfound (d := x) rfl ⟨rfl, rfl, rfl⟩
  refine ⟨?_, (record_spec redo (hled ▸ hord)).2.1.same Mod.mirror fun _ _ => rfl, hadm, collOf_id hco ▸ hrec⟩
  rw [collOf_record _ _ (hled ▸ hord)]
  exact collOf_of_shardOf hs (hm.trans (collOf_made hco)) (hd.trans (collOf_not_dropped hco))

theorem admittedAs_imp {m t : Mod} {P Q : Cmd → Prop} (h : AdmittedAs m t c l P) (hPQ : ∀ d, P d → Q d) : AdmittedAs m t c l Q := by
  obtain ⟨d, h1, h2, h3, h4, h5, h6, h7, h8, h9, h10, hP, h11⟩ := h
  exact ⟨d, h1, h2, h3, h4, h5, h6, h7, h8, h9, h10, hPQ d hP, h11⟩

theorem batchEnts_length (co : Coll) (e : BitVec 512) (pl : Payload) : (batchEnts co e pl).length = pl.keys.length := by
  simp [batchEnts, upto]

/-- INSERT (R28, R112, R230). -/
theorem insertAdmit_gives (h : Admits s.mod 0x10 n c l) (hord : ledgerOrdered s.mod.ledger) (hco : collOf s.mod (collId c.entry) = some co)
    (hsh : shardOf s.mod (collId c.entry) = some co) :
    Gives (.insert n) s fun t =>
      (∃ d, collOf t co.id = some d ∧ d = { putEntries co (batchEnts co c.entry c.pl) with stockPgs := d.stockPgs }) ∧
      t.mirror = s.mod.mirror ∧
      AdmittedAs s.mod t c l (fun d => d.count = c.pl.keys.length ∧ d.lsn = some s.mod.ledger.next) ∧
      RecordWritten s.mod t c co.id 0x10 (.insert (batchEnts co c.entry c.pl) [] []) := by
  refine admits_gives_work insertAdmit h rfl (by simp [startWork, admits_opcode h]) ?_
  simp only [insertAdmit, pinnedHead_entry, pinnedHead_pl, beforeWork_collOf, hco]
  rw [← collOf_id hco] at hsh
  obtain ⟨hst, p, hp⟩ := stockPut_stored (batchEnts co c.entry c.pl) ((beforeWork_shardOf s.mod c l _).trans hsh) rfl
  obtain ⟨hcoll, hmir, hadm, hrec⟩ := batch_record (a := (batchEnts co c.entry c.pl).length) (b := (pinnedHead s.mod c l).info)
    h hord (hst.widen fun _ _ => rfl) hco hp rfl rfl
  exact ⟨⟨_, hcoll, rfl⟩, hmir.trans ((hst.same Mod.mirror fun _ _ => rfl).trans (beforeWork_mirror ..)),
    admittedAs_imp hadm fun d hd => ⟨hd.1.trans (batchEnts_length ..), hd.2.1⟩, hrec⟩

/-- All instances of the batch are tombstoned, in the tailings and in the mirror. -/
def BatchGone (m t : Mod) (co d : Coll) (ks : List DWord) : Prop := ∀ i ∈ batchInsts m co ks,
  (isTomb d i = true ∨ ∃ a b, i = .ord a b ∧ (a, b) ∈ d.reborn) ∧
  (pendPub m co = none → isTomb d i = true ∧ mirrorClear t co.id i = false)

theorem mirrorClear_of_mem {t : Mod} {cid : Nat} {i : Inst} (hi : ∀ n, i ≠ .remote n)
    (h : mirrorTag cid i ∈ t.mirror) : mirrorClear t cid i = false := by
  cases i with
  | remote n => exact absurd rfl (hi n)
  | _ => simp [mirrorClear, h]

/-- The instances of a batch tombstoned. -/
theorem tombAll_batch {u : Mod} (hu : u.ledger = m.ledger) (hs : shardOf u co.id = some co) (ks : List DWord) :
    ∃ d, TombsAdded co.id u (tombAll u co.id (batchInsts m co ks)) co d ∧
      ∀ e t, e.tombs = d.tombs → e.reborn = d.reborn → e.tombStock = d.tombStock →
        t.mirror = (tombAll u co.id (batchInsts m co ks)).mirror → BatchGone m t co e ks := by
  obtain ⟨d, hd, hdead⟩ := tombAll_added hs fun i hi => (batchInsts_spec (m := m) (ks := ks) hi).1
  refine ⟨d, hd, fun e t h1 h2 h3 ht i hi => ?_⟩
  have hspec := batchInsts_spec hi
  have htomb : isTomb e i = isTomb d i := by cases i <;> simp [isTomb, h1, h3]
  rw [htomb, h2]
  refine ⟨(hdead i hi).1, fun h0 => ?_⟩
  have hdi := (hdead i hi).2 (by rw [pendPub_congr hu, h0])
  refine ⟨hdi, mirrorClear_of_mem hspec.1 ?_⟩
  rw [ht]
  refine (hd.tagged i hdi).resolve_left fun hc => ?_
  rw [hspec.2 h0] at hc
  contradiction

/-- UPSERT (R53, R57, R111, R234, R265). -/
theorem upsertAdmit_gives (h : Admits s.mod 0x11 n c l) (hord : ledgerOrdered s.mod.ledger) (hco : collOf s.mod (collId c.entry) = some co)
    (hsh : shardOf s.mod (collId c.entry) = some co) :
    Gives (.upsert n) s fun t =>
      (∃ d, collOf t co.id = some d ∧ d.stock = co.stock ++ batchEnts co c.entry c.pl ∧ BatchGone s.mod t co d c.pl.keys) ∧
      AdmittedAs s.mod t c l (fun d => d.count = c.pl.keys.length ∧ d.lsn = some s.mod.ledger.next ∧
        d.info = c.pl.keys.length - liveCount s.mod co c.pl.keys) ∧
      RecordWritten s.mod t c co.id 0x11 (.insert (batchEnts co c.entry c.pl) (batchInsts s.mod co c.pl.keys)
        (batchGone s.mod co c.pl.keys)) := by
  have hled := beforeWork_ledger s.mod c l
  refine admits_gives_work upsertAdmit h rfl (by simp [startWork, admits_opcode h]) ?_
  rw [← batchEnts_length co c.entry c.pl]
  rw [← collOf_id hco] at hsh
  obtain ⟨d, hd, hgone⟩ := tombAll_batch hled ((beforeWork_shardOf s.mod c l _).trans hsh) c.pl.keys
  simp only [upsertAdmit, pinnedHead_entry, pinnedHead_pl, beforeWork_collOf, hco, batchInsts_congr hled, batchGone_congr hled,
    liveCount_congr hled, hd.shard]
  obtain ⟨hst, p, hp⟩ := stockPut_stored (batchEnts co c.entry c.pl) hd.shard (shardOf_id hd.shard)
  have hb := hd.onBatch.trans (hst.widen fun _ _ => rfl)
  obtain ⟨hcoll, hmir, hadm, hrec⟩ := batch_record h hord hb hco hp (by rw [hd.coll]; rfl) (by rw [hd.coll]; rfl)
  refine ⟨⟨_, hcoll, ?_, hgone _ _ rfl rfl rfl (hmir.trans (hst.same Mod.mirror fun _ _ => rfl))⟩, hadm, hrec⟩
  rw [hd.coll]
  rfl

/-- DELETE (R53, R57, R111, R234, R265). -/
theorem deleteAdmit_gives (h : Admits s.mod 0x12 n c l) (hord : ledgerOrdered s.mod.ledger) (hco : collOf s.mod (collId c.entry) = some co)
    (hsh : shardOf s.mod (collId c.entry) = some co) :
    Gives (.delete n) s fun t => (∃ d, collOf t co.id = some d ∧ d.stock = co.stock ∧ BatchGone s.mod t co d c.pl.keys) ∧
      AdmittedAs s.mod t c l (fun d => d.count = liveCount s.mod co c.pl.keys ∧ d.lsn = some s.mod.ledger.next ∧
        d.info = c.pl.keys.eraseDups.length - liveCount s.mod co c.pl.keys) ∧
      RecordWritten s.mod t c co.id 0x12 (.delete (c.pl.keys.eraseDups.filter (keyLive s.mod co)) (batchInsts s.mod co c.pl.keys)
        (batchGone s.mod co c.pl.keys)) := by
  have hled := beforeWork_ledger s.mod c l
  refine admits_gives_work deleteAdmit h rfl (by simp [startWork, admits_opcode h]) ?_
  rw [← collOf_id hco] at hsh
  obtain ⟨d, hd, hgone⟩ := tombAll_batch hled ((beforeWork_shardOf s.mod c l _).trans hsh) c.pl.keys
  simp only [deleteAdmit, pinnedHead_entry, pinnedHead_pl, beforeWork_collOf, hco, batchInsts_congr hled, batchGone_congr hled,
    liveCount_congr hled, keyLive_congr hled]
  obtain ⟨hcoll, hmir, hadm, hrec⟩ := batch_record h hord hd.onBatch hco hd.shard (by rw [hd.coll]) (by rw [hd.coll])
  refine ⟨⟨_, hcoll, ?_, hgone _ _ rfl rfl rfl hmir⟩, hadm, hrec⟩
  rw [hd.coll]

theorem positions_length (co : Coll) (n : Nat) : (positions co n).length = n := by simp [positions, upto]

/-- EMBED_INSERT (R28, R230). -/
theorem embedInsertAdmit_gives (h : Admits s.mod 0x14 n c l) (hco : collOf s.mod (collId c.entry) = some co) :
    Gives (.embedInsert (.head n)) s fun t => (∃ d, collOf t co.id = some d ∧ d.tail = co.tail + BitVec.ofNat 32 (docsN c.entry) ∧
        d.stock.map (·.pos) = co.stock.map (·.pos) ++ positions co (docsN c.entry)) ∧ t.ledger = s.mod.ledger ∧
      AdmittedAs s.mod t c l fun d => d.embed = some (startEmbed c.entry (positions co (docsN c.entry)) co.enable co.dflt) := by
  refine admits_gives_work embedInsertAdmit h rfl (by simp [startWork, admits_opcode h]) ?_
  have hco' := (beforeWork_collOf s.mod c l (collId c.entry)).trans hco
  simp only [embedInsertAdmit, pinnedHead_entry, hco', collOf_id hco]
  refine ⟨⟨_, collOf_setColl_self hco' (collOf_id hco :) (collOf_made hco :) (collOf_not_dropped hco :), ?_, ?_⟩, beforeWork_ledger ..,
    admittedAs_of (cmdOf_setCmd_beforeWork h rfl) (beforeWork_seq ..) rfl rfl⟩
  · simp [putEntries, upto]
  · simp [putEntries, positions]

end

/-- Settles O20: each batch makes its changes to the shard and takes its record. -/
theorem batchesChangeTheStockpileAndTakeARecord : Obligations.BatchesChangeTheStockpileAndTakeARecord := by
  intro s n c l co hord hco hsh
  refine ⟨fun h => insertAdmit_gives h hord hco hsh, fun h => upsertAdmit_gives h hord hco hsh, fun h => deleteAdmit_gives h hord hco hsh,
    fun h => embedInsertAdmit_gives h hco, fun h => ?_⟩
  obtain ⟨t, ht, hp, hadm, honly⟩ := admits_gives_setCmd (x := .tableUpdate (.head n)) (P := fun d => d.upd = some ⟨false, 0, []⟩)
    (d := { pinnedHead s.mod c l with upd := some ⟨false, 0, []⟩ }) h rfl (by simp [startWork, admits_opcode h]) rfl rfl
  exact ⟨t, ht, hp, hadm, honly.same Mod.mem fun _ _ => rfl, honly.same Mod.ledger fun _ _ => rfl⟩

end Sys2Proof.Proofs

/-! The work of FETCH, TABLE_LOOKUP and EMBED, to its completion (R58, R73, R110, R289, R331, R332, R333). -/

namespace Sys2Proof.Proofs

open Sys2Proof Sys2Proof.Machine Sys2Proof.Laws

section
variable {s : State} {m : Mod} {cid op : Nat} {c : Cmd}

/-- The row of an admitted command's work runs that work. -/
theorem partOp_run (h : Running m cid op c) (run : Mod → Nat → Mod) : partOp m op (.run cid .clean) run = run m cid := by
  obtain ⟨hc, hadm, hop⟩ := h
  simp [partOp, hc, hadm, hop]

theorem running_gives {x : Instr} {run : Mod → Nat → Mod} {P : Mod → Prop} (h : Running s.mod cid op c)
    (hx : exec x s = .next { s with mod := partOp s.mod op (.run cid .clean) run }) (hP : P (run s.mod cid)) : Gives x s P := by
  rw [partOp_run h] at hx
  exact (gives_iff hx P).2 hP

theorem countUnits_onRegs (m : Mod) (co : Coll) (g : Gen) (x : Seen) : onRegs.Only m (countUnits m co g x) := by
  unfold countUnits
  split
  · split
    · exact .refl _ m
    · exact .ite rfl rfl
  · exact .refl _ m

/-- FETCH's work (R58, R73, R110): its results written where their buffer is free, the Recalls asked for where it is not. -/
theorem fetchRun_eq {co : Coll} {g : Gen} (h : Running m cid 0x03 c) (hs : shardOf m (collId c.entry) = some co) (hg : genOf co c.gen = some g) :
    let ks := (List.range (fld c.entry 32 2)).map fun i => c.pl.keys.getD i 0#64
    let seen := ks.map (seenKey m co g c.admTick)
    let out := (ks.zip seen).flatMap fun x => fetchRec co (decide (fld c.entry 34 1 = 0)) x.1 x.2
    let k := (seen.filterMap id).length
    fetchRun m cid = if outReady m (fld c.entry 24 8) out.length then
        finish (writePtr ((seen.filterMap id).foldl (fun m s => countUnits m co g s) m) (fld c.entry 24 8) out) c
          { status := if k = fld c.entry 32 2 then 0 else 0x23, count := k, crc := (crc32c out).toNat }
      else outClaim m (fld c.entry 24 8) out.length := by
  obtain ⟨hc, hadm, hop⟩ := h
  intro ks seen out k
  have hrun : fetchRun m cid = if !outReady m (fld c.entry 24 8) out.length then outClaim m (fld c.entry 24 8) out.length else
        finish (writePtr ((seen.filterMap id).foldl (fun m s => countUnits m co g s) m) (fld c.entry 24 8) out) c
          { status := if k = fld c.entry 32 2 then 0 else 0x23, count := k, crc := (crc32c out).toNat } := by
    simp only [fetchRun, hc, hs, hg, hop, hadm]
    rfl
  rw [hrun]
  cases outReady m (fld c.entry 24 8) out.length <;> rfl

/-- What a look-up counts: registers, and the fetches of its pages (R342). -/
def onCounts : Portion :=
  ⟨fun m t => { m with regs := t.regs, mem := { m.mem with map := t.mem.map } }, fun _ => rfl, fun _ _ _ => rfl⟩

theorem countRow_onRegs (p : PkgVer) (m : Mod) (r : Nat × Nat) : onRegs.Only m (countRow p m r) := by
  unfold countRow
  split
  · exact .ite rfl (.refl _ m)
  · exact .refl _ m

theorem countLookup_onCounts (m : Mod) (p : PkgVer) (tno : Nat) (t : TableDesc) (ix : List DWord) : onCounts.Only m (countLookup m p tno t ix) := by
  unfold countLookup
  extract_lets us m₁ m₂ pgs
  have h₁ : onRegs.Only m m₁ := by
    refine .foldl (fun m d => ?_) _ m
    extract_lets g mine m₃
    exact .trans (t := m₃) (.ite (.refl ..) rfl) rfl
  have h₂ : onRegs.Only m₁ m₂ := .trans (.foldl (countRow_onRegs p) us m₁) (by exact rfl)
  exact ((h₁.trans h₂).widen fun _ _ => rfl : onCounts.Only m m₂).trans rfl

theorem countMarks_onRegs (m : Mod) (p : Page) (ms : List Mark) : onRegs.Only m (countMarks m p ms) :=
  (((bump_only ..).trans (bump_only ..)).trans (bump_only ..)).trans (bump_only ..)

/-- The weight of a look-up's index `j`. -/
def lookupWeight (c : Cmd) (t : TableDesc) (j : Nat) : Word :=
  if fld c.entry 32 8 = 0 then oneW else if fld c.entry 19 1 = 0 then c.pl.weights.getD j 0#32
  else codeVal t.ty (c.pl.weights.getD j 0#32).toNat .one

/-- TABLE_LOOKUP's work (R331, R332, R333), its rows sound and its buffer free. -/
theorem lookupRun_eq {p : PkgVer} {t : TableDesc} (h : Running m cid 0x30 c) (hp : pkgOf m c (fld c.entry 16 2) = some p)
    (ht : tableOf p (fld c.entry 18 1) = some t) (ho : offsetFault c.pl.offsets (fld c.entry 56 2) (fld c.entry 28 4) = none)
    (hst : unitsStall m = false) :
    let ix := (List.range (fld c.entry 28 4)).map fun j => c.pl.indices.getD j 0#64
    let o (i : Nat) : Nat := (c.pl.offsets.getD i 0#32).toNat
    let bag (b : Nat) : List Word := poolBag ((List.range (o (b + 1) - o b)).map fun i =>
      (lookupWeight c t (o b + i), rowOf m c.admTick p (fld c.entry 18 1) t (ix.getD (o b + i) 0#64))) t.w
    let out := ((List.range (fld c.entry 56 2)).map bag).flatMap fun r =>
      padTo 32 (packCodes (fld c.entry 58 1) (r.map fun y => (convert (fld c.entry 58 1) y .one).1))
    (uniqueRows p (fld c.entry 18 1) ix).any (rowHurt m p) = false → outReady m (fld c.entry 48 8) out.length = true →
    ∃ ms, lookupRun m cid = finish (writePtr (countMarks (countLookup m p (fld c.entry 18 1) t ix) (cruP 0) ms) (fld c.entry 48 8) out) c
        { status := 0, count := fld c.entry 56 2, crc := (crc32c out).toNat } := by
  obtain ⟨hc, hadm, hop⟩ := h
  intro ix o bag out hhurt hready
  let conv := (List.range (fld c.entry 56 2)).map fun b => (bag b).map fun y => convert (fld c.entry 58 1) y .one
  let res := conv.flatMap fun r => padTo 32 (packCodes (fld c.entry 58 1) (r.map (·.1)))
  have hout : res = out := by
    simp only [res, conv, out, List.flatMap_map, List.map_map, Function.comp_def]
  have hrun : lookupRun m cid = if !outReady m (fld c.entry 48 8) res.length then outClaim m (fld c.entry 48 8) res.length
      else finish (writePtr (countMarks (countLookup m p (fld c.entry 18 1) t ix) (cruP 0) (conv.flatten.map (·.2))) (fld c.entry 48 8) res) c
        { status := 0, count := fld c.entry 56 2, crc := (crc32c res).toNat } := by
    have hhurt' : (uniqueRows p (fld c.entry 18 1) ((upto (fld c.entry 28 4)).map fun j => c.pl.indices.getD j 0#64)).any
      (rowHurt m p) = false := hhurt
    simp only [lookupRun, hc, hp, ht, ho, hst, hop, hadm, hhurt']
    rfl
  rw [hrun, hout, hready]
  exact ⟨_, rfl⟩

/-- EMBED's work (R289): it completes with every vector written and none held back. -/
theorem embedRun_eq {w : EmbedW} (h : Running m cid 0x13 c) (hw : c.embed = some w) (hn : docsN c.entry ≤ c.docsDone) :
    let out := (List.range (docsN c.entry)).flatMap fun i => embedBytes (fld c.entry 37 1) (vecOfDoc w i)
    outHeld m (fld c.entry 24 8) out.length = false →
    embedRun m cid = finish m c { status := 0, count := docsN c.entry, crc := (crc32c out).toNat } := by
  obtain ⟨hc, -, hop⟩ := h
  intro out hheld
  have hheld' : outHeld m (fld c.entry 24 8)
      ((upto (docsN c.entry)).flatMap fun i => embedBytes (fld c.entry 37 1) (vecOfDoc w i)).length = false := hheld
  have hn' : ¬ c.docsDone < docsN c.entry := by omega
  simp only [embedRun, hc, hw, hop, hn', hheld']
  rfl

end

/-- Settles O24: each work run to its completion. -/
theorem admittedReadsComplete : Obligations.AdmittedReadsComplete := by
  intro s cid c
  refine ⟨fun co g h hs hg => ?_, fun p d h hp ht ho => ?_, fun w h hw hn => ?_⟩
  · refine running_gives h rfl ?_
    rw [fetchRun_eq h hs hg]
    split
    · exact ⟨_, Portion.Only.foldl (p := onRegs) (fun m x => countUnits_onRegs m co g x) _ s.mod, rfl⟩
    · rfl
  · intro ix hst hhurt wt o bag out hready
    obtain ⟨ms, hrun⟩ := lookupRun_eq h hp ht ho hst hhurt hready
    have hcount := (countLookup_onCounts s.mod p (fld c.entry 18 1) d ix).trans ((countMarks_onRegs _ (cruP 0) ms).widen fun _ _ => rfl)
    exact running_gives h rfl ⟨_, hcount, hrun⟩
  · intro out hheld
    exact running_gives h rfl (embedRun_eq h hw hn hheld)

end Sys2Proof.Proofs

/-! The end of a search and of other reads: EMISSION, SEARCH_STOP_TICK and STOP_TICK (R49, R54, R73, R86, R108, R109, R154, R155,
R184, R566, R568). -/

namespace Sys2Proof.Proofs

open Sys2Proof Sys2Proof.Machine Sys2Proof.Laws

section
variable {s : State} {m : Mod} {cid : Nat} {c : Cmd} {w : SearchW}

/-- The output check keeps what the mirror passes (R54, R184). -/
theorem checkOut_entries (m : Mod) (cid n : Nat) (l : List REnt) : (checkOut m cid n l).2 = (l.filter fun e => mirrorClear m cid e.src).take n := by
  induction l generalizing n with
  | nil => simp [checkOut]
  | cons e l ih =>
    cases n with
    | zero => simp [checkOut]
    | succ n => cases h : mirrorClear m cid e.src <;> simp [checkOut, h, ih]

theorem entBytes_length (key : DWord) (score : Word) (flags : Byte) (gen : Nat) : (entBytes key score flags gen).length = 16 := by
  simp [entBytes, toBytes_length]

theorem padBytes_length (gen : Nat) : (padBytes gen).length = 16 := entBytes_length ..

/-- The result is `k` entries of 16 bytes (R49, R108). -/
theorem resultBytes_length (gen k : Nat) (es : List REnt) (h : es.length ≤ k) : (resultBytes gen k es).length = 16 * k := by
  have hpad : ((List.replicate (k - es.length) (padBytes gen)).flatten).length = 16 * (k - es.length) := by
    simp [padBytes_length, Nat.mul_comm]
  have hent : (es.flatMap fun e => entBytes e.key e.score e.flags e.gen.toNat).length = 16 * es.length := by
    simp [List.length_flatMap, entBytes_length, Nat.mul_comm]
  rw [resultBytes, List.length_append, hpad, hent]
  omega

theorem emission_gives {P : Mod → Prop} (h : P (emissionOp s.mod cid)) : Gives (.emission cid) s P := (gives_iff rfl P).2 h

/-- EMISSION of a final list of a chute's search (R54, R73, R108, R109, R184). -/
theorem emissionOp_local (hc : cmdOf m cid = some c) (hw : c.search = some w) (hst : w.stage = 3) (heng : m.saf.engines = none)
    (hcl : m.saf.closed = false) (hcrc : ∀ e ∈ w.held, e.crc = entCrc e.key e.score e.flags e.gen e.src) (ho : c.origin = none)
    (hhome : isHomeSearch c = false) (hready : outReady m (fld c.entry 24 8) (16 * w.k) = true) :
    let es := (w.held.filter fun e => mirrorClear m (collId c.entry) e.src).take w.k
    let out := resultBytes c.gen w.k es
    let st := searchStatus c w.k es.length
    ∃ u, u = { m with regs := u.regs, pwr := { m.pwr with queries := m.pwr.queries + 1 } } ∧
      emissionOp m cid = finish (writePtr u (fld c.entry 24 8) out) c
        { status := st, info := searchInfo c w, count := es.length, crc := (crc32c out).toNat, short := st = 1 && w.anyFull } := by
  have hany : (w.held.any fun e => e.crc != entCrc e.key e.score e.flags e.gen e.src) = false := by
    simpa using hcrc
  intro es out st
  let u₀ : Mod := { bump (bump m (riddlePage w) 0x40) (riddlePage w) 0x4C (checkOut m (collId c.entry) w.k w.held).1 with
    pwr := { m.pwr with queries := m.pwr.queries + 1 } }
  have hrun : emissionOp m cid = emitLocal u₀ c w es := by
    simp only [emissionOp, hc, hw, hst, hcl, heng, hany, ho, hready]
    show emitLocal u₀ c w (checkOut m (collId c.entry) w.k w.held).2 = _
    rw [checkOut_entries]
  let u₁ := if st = 1 then bump u₀ sivP 0x4C else u₀
  let u₂ := if (decide (st = 1) && w.anyFull) = true then bump u₁ (riddlePage w) 0x50 else u₁
  have hu : onRegs.Only u₀ u₂ := .trans (t := u₁) (.ite rfl (.refl ..)) (.ite rfl (.refl ..))
  refine ⟨u₂, ?_, ?_⟩
  · rw [hu]; rfl
  · rw [hrun, emitLocal, hhome]
    rfl

/-! Finalising at the stop tick (R154). -/

theorem foldl_arrive (ls : List PList) (w : SearchW) : ∃ n i, ls.foldl arrive w = { w with arrived := n, inbox := i } := by
  induction ls generalizing w with
  | nil => exact ⟨_, _, rfl⟩
  | cons l ls ih =>
    obtain ⟨n, i, h⟩ := ih (arrive w l)
    exact ⟨n, i, h.trans rfl⟩

theorem mergeList_length (held es : List REnt) (bound : Option Nat) (len : Nat) : (mergeList held es bound len).1.length ≤ len := by
  simp [mergeList, List.length_take]

/-- Lists merged into a search change what it holds and its riddle's counters, and leave at most `len` entries. -/
theorem foldl_mergeInto (len : Nat) (ls : List PList) (m : Mod) (w : SearchW) (hls : ls ≠ [] ∨ w.held.length ≤ len) :
    ∃ h n f, (ls.foldl (fun a l => mergeInto a.1 a.2 l len) (m, w)).2 = { w with held := h, nan := n, anyFull := f } ∧ h.length ≤ len ∧
      onRegs.Only m (ls.foldl (fun a l => mergeInto a.1 a.2 l len) (m, w)).1 := by
  induction ls generalizing m w with
  | nil => exact ⟨_, _, _, rfl, hls.resolve_left (· rfl), .refl ..⟩
  | cons l ls ih =>
    obtain ⟨h, n, f, hw, hlen, hm⟩ := ih (mergeInto m w l len).1 (mergeInto m w l len).2 (.inr (mergeList_length ..))
    exact ⟨h, n, f, hw.trans rfl, hlen, .trans (t := (mergeInto m w l len).1) rfl hm⟩

theorem countEnd_onRegs (why : Nat) (m : Mod) (w : Walk) : onRegs.Only m (countEnd why m w) := by
  unfold countEnd
  extract_lets p m₁
  have h₁ : onRegs.Only m m₁ := rfl
  split
  · exact h₁.trans rfl
  · exact h₁.trans rfl
  · exact h₁

/-- Registers and work records. -/
def onSearch : Portion := ⟨fun m t => { m with regs := t.regs, cmds := t.cmds }, fun _ => rfl, fun _ _ _ => rfl⟩

theorem endedWalks_st (l : List Walk) : ∀ y ∈ l.map fun w => if w.st = 2 then w else endedWalk 2 w, y.st = 2 := by
  intro y hy
  obtain ⟨w, -, rfl⟩ := List.mem_map.1 hy
  split
  · assumption
  · rfl

/-- A search that the stop tick finalises holds nothing more to wait for. -/
theorem finalise_spec (hc : cmdOf m cid = some c) (w : SearchW) :
    ∃ w', cmdOf (finalise m c w) cid = some { c with search := some w' } ∧ w'.stage = 3 ∧
    w'.dlStop = true ∧ w'.cand = [] ∧ w'.inbox = [] ∧ w'.late = [] ∧ w'.flats = [] ∧ w'.scan = 2 ∧ (∀ y ∈ w'.walks, y.st = 2) ∧
    w'.held.length ≤ w.k + 16 ∧ finalise m c w = { m with regs := (finalise m c w).regs, cmds := (finalise m c w).cmds } := by
  unfold finalise
  extract_lets co seg m₁ lists stock ended w₁ all
  obtain ⟨n₁, i₁, hw₁⟩ : ∃ n i, w₁ = { { w with walks := ended, scan := 2, flats := [], slist := [] } with arrived := n, inbox := i } :=
    foldl_arrive ..
  have hm₁ : onRegs.Only m m₁ := .foldl (countEnd_onRegs 2) _ m
  obtain ⟨h, n, f, hw₂, hlen, hm₂⟩ := foldl_mergeInto (w₁.k + 16) all m₁ { w₁ with inbox := [], late := [], cand := [] }
    (.inl (List.append_ne_nil_of_right_ne_nil _ (List.cons_ne_nil _ _)))
  generalize all.foldl (fun a l => mergeInto a.1 a.2 l (w₁.k + 16)) (m₁, { w₁ with inbox := [], late := [], cand := [] }) = r at hw₂ hm₂ ⊢
  obtain ⟨m₂, w₂⟩ := r
  dsimp only at hw₂ hm₂
  have hm := hm₁.trans hm₂
  have hid := cmdOf_id hc
  have hc₂ : cmdOf m₂ c.id = some c := hid ▸ (hm.same (cmdOf · cid) fun _ _ => rfl).trans hc
  refine ⟨{ w₂ with stage := 3, dlStop := true, waitFor := [] }, ?_, rfl, rfl, congrArg SearchW.cand hw₂, congrArg SearchW.inbox hw₂,
    congrArg SearchW.late hw₂, (congrArg SearchW.flats hw₂).trans (congrArg SearchW.flats hw₁),
    (congrArg SearchW.scan hw₂).trans (congrArg SearchW.scan hw₁), ?_, ?_, ?_⟩
  · exact hid ▸ cmdOf_setCmd_self (d := { c with search := _ }) hc₂
  · have hwalks : w₂.walks = ended := (congrArg SearchW.walks hw₂).trans (congrArg SearchW.walks hw₁)
    exact hwalks ▸ endedWalks_st w.walks
  · have hk : w₁.k = w.k := (congrArg SearchW.k hw₁).trans rfl
    have hheld : w₂.held = h := congrArg SearchW.held hw₂
    exact hheld ▸ hk ▸ hlen
  · exact (hm.widen fun _ _ => rfl : onSearch.Only m m₂).trans rfl

theorem searchStop_gives {P : Mod → Prop} (h : P (searchStop s.mod cid)) : Gives (.searchStopTick cid) s P := (gives_iff rfl P).2 h

theorem stopTick_gives {P : Mod → Prop} (h : P (stopTickOp s.mod cid)) : Gives (.stopTick cid) s P := (gives_iff rfl P).2 h

end

/-- Settles O33: the cases of EMISSION, of the search's stop tick and of the other reads' in turn. -/
theorem emissionChecksAndStopTicksFinalise : Obligations.EmissionChecksAndStopTicksFinalise := by
  intro s cid c hc
  refine ⟨fun w hw hst heng =>
      ⟨fun hcl => ?_, fun hcl ⟨e, he, hcrc⟩ => ?_, fun hcl hcrc ho hready => ?_, fun hcl hcrc ho hready hhome => ?_⟩,
    fun w hw => ⟨fun hst => ?_, fun hst h3 => ?_, fun hst h3 hwait => ⟨fun hrest => ?_, fun hdone => ?_⟩⟩,
    fun hst => ?_, fun hadm hst => ⟨fun hop => ?_, fun hop => ?_, fun hop => ?_⟩⟩
  · exact emission_gives (by simp [emissionOp, hc, hw, hst, hcl])
  · have hany : (w.held.any fun e => e.crc != entCrc e.key e.score e.flags e.gen e.src) = true :=
      List.any_eq_true.2 ⟨e, he, by simpa using hcrc⟩
    exact emission_gives (by simp [emissionOp, hc, hw, hst, hcl, heng, hany])
  · have hany : (w.held.any fun e => e.crc != entCrc e.key e.score e.flags e.gen e.src) = false := by simpa using hcrc
    exact emission_gives (by simp [emissionOp, hc, hw, hst, hcl, heng, hany, ho, hready])
  · exact ⟨resultBytes_length _ _ _ (List.length_take_le ..), emission_gives (emissionOp_local hc hw hst heng hcl hcrc ho hhome hready)⟩
  · exact searchStop_gives (by simp [searchStop, hc, hw, hst])
  · exact searchStop_gives (by simp [searchStop, hc, hw, hst, h3, finishBad])
  · have hany : (w.walks.any fun y => y.again && y.st != 2) = true := by
      obtain ⟨y, hy, hagain, hyst⟩ := hrest
      exact List.any_eq_true.2 ⟨y, hy, by simp [hagain, hyst]⟩
    exact searchStop_gives (by simp [searchStop, hc, hw, hst, h3, hwait, hany, finishBad])
  · have hany : (w.walks.any fun y => y.again && y.st != 2) = false := by simpa using hdone
    have hrun : searchStop s.mod cid = finalise s.mod c w := by simp [searchStop, hc, hw, hst, h3, hwait, hany]
    exact searchStop_gives (hrun ▸ finalise_spec hc w)
  · exact stopTick_gives (by simp [stopTickOp, hc, hst])
  · rcases hop with hop | hop <;> exact stopTick_gives (by simp [stopTickOp, hc, hst, hadm, hop, stoppable, stopCmd, finishBad])
  · exact stopTick_gives (by simp [stopTickOp, hc, hst, hadm, hop, stoppable, stopCmd])
  · rcases hop with hop | hop <;> exact stopTick_gives (by simp [stopTickOp, hc, hst, hadm, hop, stoppable, stopCmd])

end Sys2Proof.Proofs

/-! A merge step of a job that shares its number with a build: the segment number that the step takes (R241, R243). -/

namespace Sys2Proof.Proofs

open Sys2Proof Sys2Proof.Machine Sys2Proof.Laws

/-- Shard 2 with one empty generation and one stockpile position taken. -/
def stepShard : Coll := { newColl 2 0 0#512 with made := true, cur := 1, d := 8, gens := [⟨1, [], 0#32, 0, none, false⟩], tail := 1#32 }

/-- A merge with its first step to begin. -/
def stepMerge : MergeW := ⟨none, 0xFF, false, none, false, none, 1, 1#32, 0⟩

/-- The shard's merge job, work record 7. -/
def stepJob : Cmd := { internalCmd Mod.reset 0x20 2 1 with id := 7, merge := some stepMerge }

/-- A build of segment 0 of the same shard, with the same number 7. -/
def twinBuild : Cmd :=
  { internalCmd Mod.reset 0x21 2 1 with
    id := 7, build := some ⟨0, 0, 8, 32, 256, 1, 0, 0, 0, [], [], [], 0, [], 0, 0, 0#128, 0⟩ }

/-- Both records in a module where no energy is charged. -/
def twinMod : Mod :=
  { Mod.reset with
    cmds := [stepJob, twinBuild], colls := [stepShard]
    adm := { adm0 with coef := [] }, pwr := { pwr0 with grant := 0, credit := 0 } }

theorem twinMod_energy (k : List Nat) : energyOf twinMod k = 0 := by
  simp [energyOf, twinMod, total, upto]

theorem twinMod_stepMay : stepMay twinMod stepJob.entry = true := by
  rw [stepMay, bulkMay, twinMod_energy]
  decide +kernel

/-- The step folds from position 0 to position 1 into a new segment. -/
theorem twinMod_range : (curGen stepShard).mark = 0#32 ∧ stepHi twinMod stepShard stepMerge = 1#32 ∧
    stepTarget stepShard stepMerge (foldable stepShard 0#32 1#32).length = 256 := by decide +kernel

theorem twinMod_begins : collOf twinMod 2 = some stepShard ∧ mergeCmd twinMod 2 = some stepJob ∧ ringFull twinMod = false ∧
    mergeDone stepShard stepMerge 256 = false ∧ pastLimit twinMod stepShard stepMerge (foldable stepShard 0#32 1#32).length = false := by
  decide +kernel

/-- Segment 0 is being built, so the lowest free number is 1 as the step begins. -/
theorem twinMod_freeSegNo : freeSegNo twinMod stepShard = some 1 := by decide +kernel

/-- Drawing the step's share writes the job's record over the build's, and number 0 is free. -/
theorem drawStep_freeSegNo : freeSegNo (drawStep twinMod stepJob).1 stepShard = some 0 := by decide +kernel

theorem twinMod_ledgerOrdered : ledgerOrdered twinMod.ledger := by
  have hnone : twinMod.ledger.records = [] := by decide +kernel
  rw [ledgerOrdered, hnone]
  exact ⟨fun _ hr => absurd hr List.not_mem_nil, .nil⟩

theorem twinMod_job : cmdOf (drawStep twinMod stepJob).1 7 = some (drawStep twinMod stepJob).2 := by
  have hfound : (cmdOf twinMod 7).isSome = true := by decide +kernel
  obtain ⟨x, hx⟩ := Option.isSome_iff_exists.1 hfound
  exact cmdOf_setCmd_self (m := twinMod) (d := (drawStep twinMod stepJob).2) hx

/-- The step that the module begins takes segment 0. -/
theorem twinMod_step : ∃ d w l, cmdOf (mergeStepOp twinMod 2) 7 = some d ∧ d.merge = some w ∧ w.step = some (0#32, 1#32, 0, l) := by
  obtain ⟨hlo, hhi, htg⟩ := twinMod_range
  obtain ⟨hcoll, hjob, hring, hdone, hpast⟩ := twinMod_begins
  let m := (drawStep twinMod stepJob).1
  let j := (drawStep twinMod stepJob).2
  let a := addRecord m (some j) 2 0x20 (.mergeBegin 0#32 1#32 0 true)
  let w : MergeW := { stepMerge with step := some (0#32, 1#32, 0, a.2), fresh := true, rmax := regN m ctlP 0x104 }
  have hrun : mergeStepOp twinMod 2 = setCmd a.1 { j with merge := some w } := by
    have hmerge : stepJob.merge = some stepMerge := rfl
    have hstep : stepMerge.step = none := rfl
    have hne : (!stepMerge.repair && decide (0#32 = 1#32)) = false := rfl
    simp only [mergeStepOp, hcoll, hjob, hmerge, hstep, hring, stepBegin, hlo, hhi, htg, hdone, hpast, hne, twinMod_stepMay, drawStep_freeSegNo]
    rfl
  let r : LRec := ⟨m.ledger.next, now m, 2, recLen (.mergeBegin 0#32 1#32 0 true), cmdTag j.entry, j.chute, 0x20,
    some j.id, .mergeBegin 0#32 1#32 0 true, 0, none, none, false, false⟩
  have hkeep : KeepsRecords (withRecord m r) a.1 := enterRing_keepsRecords 256 (withRecord_lsnsRise twinMod_ledgerOrdered rfl)
  have hj : cmdOf a.1 7 = some j := (hkeep.1.same (cmdOf · 7) fun _ _ => rfl).trans twinMod_job
  exact ⟨_, w, a.2, hrun ▸ cmdOf_setCmd_self (d := { j with merge := some w }) hj, rfl, rfl⟩

theorem mergeStep_gives {s : State} {coll : Nat} {P : Mod → Prop} : Gives (.mergeStep coll) s P ↔ P (mergeStepOp s.mod coll) := gives_iff rfl P

/-- Refutes O28: the statement does not ask that work records have different numbers. Where a build has the number of the merge
job, the step's draw of BULK share writes the job's record over the build's, and the segment number that was being built
counts as free: the step takes 0, and the statement names 1. -/
theorem not_mergeStepsFoldTheStockpile : ¬ Obligations.MergeStepsFoldTheStockpile := by
  intro h
  obtain ⟨hlo, hhi, htg⟩ := twinMod_range
  obtain ⟨hcoll, hjob, hring, hdone, hpast⟩ := twinMod_begins
  obtain ⟨-, -, hbegin, -⟩ := (h ⟨[], twinMod⟩ 2 stepShard hcoll).1 stepJob stepMerge hjob rfl
  simp only [hlo, hhi, htg, twinMod_freeSegNo] at hbegin
  obtain ⟨-, -, hcmd⟩ := mergeStep_gives.1 (hbegin rfl hring hdone (.inl trivial) hpast (.inr (by decide)) twinMod_stepMay twinMod_ledgerOrdered)
  obtain ⟨d, w, l, hd, hw, hstep⟩ := twinMod_step
  have hclaim := congrArg (fun o => (o.bind (·.merge)).bind (·.step)) (hd.symm.trans hcmd)
  simp only [Option.bind_some, hw, hstep] at hclaim
  simp at hclaim

end Sys2Proof.Proofs

/-! The window's start and the share settings (R95, R536 to R539), and the doorbells of the chutes (R66, R67, R96). -/

namespace Sys2Proof.Proofs

open Sys2Proof Sys2Proof.Machine Sys2Proof.Laws

theorem windowStart_gives {s : State} {w : WinMeas} {P : Mod → Prop} (h : P (windowStart s.mod w)) : Gives (.windowStart w) s P :=
  (gives_iff rfl P).2 h

/-- A pool's rate takes one eighth of the window's measurement (R79). -/
theorem windowStart_rate (m : Mod) (w : WinMeas) {p : Nat} (hp : p < 16) :
    (windowStart m w).adm.rate.getD p 0 = (7 * m.adm.rate.getD p 0 + w.done.getD p 0) / 8 := by
  show ((upto 16).map fun p => (7 * m.adm.rate.getD p 0 + w.done.getD p 0) / 8).getD p 0 = _
  simp [upto, List.getD_eq_getElem?_getD, hp]

/-- Settles O9: the window's fields one by one, each as `windowStart` sets it. -/
theorem windowStartSettlesTheLastWindow : Obligations.WindowStartSettlesTheLastWindow := fun s w =>
  windowStart_gives ⟨rfl, rfl, rfl, rfl, rfl, rfl, rfl, rfl, rfl, rfl, rfl, rfl, fun _ => windowStart_rate s.mod w, rfl⟩

/-! CHU_WEIGHTS and CHU_RESERVE. -/

/-- The offset of the register that CHU_WEIGHTS_WRITE names. -/
abbrev shareReg (reserve : Bool) : Nat := if reserve then 0x6C else 0x68

theorem rowAt_shareReg (reserve : Bool) :
    rowAt chuP (shareReg reserve) = some (if reserve then rwl 0x6C 0xFFFF 0x50A else rwl 0x68 0xFFFFFF 0x10408) := by
  cases reserve <;> rfl

/-- Settles O13: both registers are plain, so a legal value is stored and another one is not; neither is the setting in force. -/
theorem shareSettingsWaitForTheWindow : Obligations.ShareSettingsWaitForTheWindow := by
  intro s reserve v hl
  refine ⟨(gives_iff rfl _).2 ?_, fun w => windowStart_gives ⟨rfl, rfl⟩⟩
  have hrow := rowAt_shareReg reserve
  have hacc : (if reserve then rwl 0x6C 0xFFFF 0x50A else rwl 0x68 0xFFFFFF 0x10408).acc = .rw ∨
      (if reserve then rwl 0x6C 0xFFFF 0x50A else rwl 0x68 0xFFFFFF 0x10408).acc = .rwl := by cases reserve <;> exact .inr rfl
  cases hf : fieldsOk chuP (shareReg reserve) v.toNat with
  | false =>
    rw [writePlain_rw_range hrow hacc hf]
    exact ⟨rfl, fun h => absurd h (by decide), fun _ => rfl, rfl⟩
  | true =>
    rw [writePlain_rw_free hrow hacc hf (.inl hl)]
    exact ⟨rfl, fun _ => by rw [getReg_setReg_self]; cases reserve <;> rfl, fun h => absurd h (by decide), rfl⟩

/-! Doorbells. -/

theorem setRegN_only (m : Mod) (p : Page) (r v : Nat) : onRegs.Only m (setRegN m p r v) := rfl
theorem pend_only (m : Mod) (p : Page) (b : Nat) : onRegs.Only m (pend m p b) := rfl

theorem dbErr_only (m : Mod) (n cause : Nat) (cq : Bool) : onRegs.Only m (dbErr m n cause cq) := (setRegN_only ..).trans (pend_only ..)

/-- A pending cause set reads as set. -/
theorem bitAt_pend (m : Mod) (p : Page) (b : Nat) (hb : b < 32) : bitAt (regN (pend m p b) p 0x14) b = true := by
  have hbit : (BitVec.ofNat 32 (2 ^ b)).toNat.testBit b = true := by
    rw [BitVec.testBit_toNat, BitVec.getLsbD_ofNat]
    simp [hb]
  rw [pend, regN, getReg_raiseBits, bitAt_eq_testBit, BitVec.toNat_or, Nat.testBit_or, hbit, Bool.or_true]

/-- A doorbell that is recorded in CHU_DB_ERR (R67). -/
theorem dbErr_spec (m : Mod) (n cause : Nat) (cq : Bool) :
    getReg (dbErr m n cause cq) chuP 0x80 = BitVec.ofNat 32 (n * 2 ^ 20 + cause * 2 ^ 18 + bN cq * 2 ^ 17) ∧
    bitAt (regN (dbErr m n cause cq) chuP 0x14) 6 = true ∧ onRegs.Only m (dbErr m n cause cq) :=
  ⟨(getReg_pend_ne _ _ (by decide)).trans (getReg_setRegN_self ..), bitAt_pend _ chuP 6 (by decide), dbErr_only ..⟩

section
variable {m : Mod} {n i cause : Nat} {c : ChuteRec}

/-- The slots that a submission doorbell names (R66). -/
def dbSlots (c : ChuteRec) (i : Nat) : List Nat := (List.range ((i + sqDepth c - c.tail) % sqDepth c)).map fun k => (c.tail + k) % sqDepth c

/-- What keeps a submission doorbell's slots from being taken (R67, R660). -/
def dbFull (c : ChuteRec) (i : Nat) : Prop :=
  sqDepth c ≤ i ∨ (∃ x ∈ dbSlots c i, x ∈ c.valid) ∨ sqDepth c < c.valid.length + (dbSlots c i).length

theorem sqDoorbell_rings (h : chuteOf m n = some c) (hd : c.draining = false) (hf : ¬ dbFull c i) :
    sqDoorbell m n i = setChute m { c with
      tail := i, valid := c.valid ++ dbSlots c i, wait := c.wait ++ (dbSlots c i).map fun x => (x, now m) } := by
  simp only [dbFull, not_or, Nat.not_le, Nat.not_lt, not_exists, not_and] at hf
  obtain ⟨hi, hv, hlen⟩ := hf
  have hv' : ((dbSlots c i).any fun x => decide (x ∈ c.valid)) = false := by simpa using hv
  simp only [sqDoorbell, h, hd, Bool.false_eq_true, if_false, if_neg (Nat.not_le.2 hi)]
  show (if ((dbSlots c i).any fun x => decide (x ∈ c.valid)) = true then _ else
    if sqDepth c < c.valid.length + (dbSlots c i).length then _ else _) = _
  rw [hv', if_neg (by decide), if_neg (Nat.not_lt.2 hlen)]
  rfl

theorem sqDoorbell_full (h : chuteOf m n = some c) (hd : c.draining = false) (hf : dbFull c i) : sqDoorbell m n i = dbErr m n 3 false := by
  simp only [sqDoorbell, h, hd, Bool.false_eq_true, if_false]
  show (if _ then _ else if ((dbSlots c i).any fun x => decide (x ∈ c.valid)) = true then _ else
    if sqDepth c < c.valid.length + (dbSlots c i).length then _ else _) = _
  rcases hf with hi | ⟨x, hx, hv⟩ | hlen
  · rw [if_pos hi]
  · rw [if_pos (List.any_eq_true.2 ⟨x, hx, decide_eq_true hv⟩), ite_self]
  · rw [if_pos hlen, ite_self, ite_self]

/-- Every doorbell of CHU_SQ_DB that is refused is recorded with its cause (R67). -/
theorem sqDoorbell_refused (h : (chuteOf m n = none ∧ cause = 1) ∨ (∃ c, chuteOf m n = some c ∧ c.draining = true ∧ cause = 2) ∨
    ∃ c, chuteOf m n = some c ∧ c.draining = false ∧ dbFull c i ∧ cause = 3) : sqDoorbell m n i = dbErr m n cause false := by
  rcases h with ⟨h, rfl⟩ | ⟨c, h, hd, rfl⟩ | ⟨c, h, hd, hf, rfl⟩
  · simp only [sqDoorbell, h]
  · simp only [sqDoorbell, h, hd, if_true]
  · exact sqDoorbell_full h hd hf

/-- The completion entries that a doorbell of CHU_CQ_DB releases (R96). -/
def cqStep (c : ChuteRec) (i : Nat) : Nat := (i + cqDepth c - c.released % cqDepth c) % cqDepth c

theorem cqDoorbell_releases (h : chuteOf m n = some c) (hi : i < cqDepth c) (hw : c.released + cqStep c i ≤ c.written) :
    cqDoorbell m n i = setChute m { c with
      released := c.released + cqStep c i, rel := c.rel.filter fun r => c.released + cqStep c i ≤ r.1 } := by
  simp only [cqDoorbell, h, if_neg (Nat.not_le.2 hi)]
  exact if_neg (Nat.not_lt.2 hw)

/-- Every doorbell of CHU_CQ_DB that is refused is recorded with its cause (R96). -/
theorem cqDoorbell_refused (h : (chuteOf m n = none ∧ cause = 1) ∨
    ∃ c, chuteOf m n = some c ∧ (cqDepth c ≤ i ∨ c.written < c.released + cqStep c i) ∧ cause = 3) :
    cqDoorbell m n i = dbErr m n cause true := by
  rcases h with ⟨h, rfl⟩ | ⟨c, h, hf, rfl⟩
  · simp only [cqDoorbell, h]
  · simp only [cqDoorbell, h]
    show (if _ then _ else if c.written < c.released + cqStep c i then _ else _) = _
    rcases hf with hi | hw
    · rw [if_pos hi]
    · rw [if_pos hw, ite_self]

/-- A chute set under its own number: it reads back, and the others read as before. -/
theorem setChute_spec {d : ChuteRec} (h : chuteOf m n = some c) (hd : d.no = c.no) :
    chuteOf (setChute m d) n = some d ∧ (∀ k, k ≠ n → chuteOf (setChute m d) k = chuteOf m k) ∧
    setChute m d = { m with chutes := (setChute m d).chutes } :=
  ⟨by rw [chuteOf_setChute h hd, if_pos rfl], fun k hk => by rw [chuteOf_setChute h hd, if_neg hk], rfl⟩

end

/-- Settles O14: a doorbell that is taken sets its chute alone, and one that is refused is recorded. -/
theorem doorbellsMoveTheirRings : Obligations.DoorbellsMoveTheirRings := by
  intro s n i
  refine ⟨?taken, ?refused, ?released, ?refusedCq⟩
  case taken =>
    intro c h d slots hd hi hv hlen
    have hf : ¬ dbFull c i.toNat := by
      rintro (h | ⟨x, hx, hxv⟩ | h)
      · exact absurd hi (Nat.not_lt.2 h)
      · exact hv x hx hxv
      · exact absurd hlen (Nat.not_le.2 h)
    exact (gives_iff rfl _).2 ((sqDoorbell_rings h hd hf).symm ▸ setChute_spec h rfl)
  case refused =>
    intro cause h
    obtain ⟨hrec, hevt, honly⟩ := dbErr_spec s.mod n.toNat cause false
    refine (gives_iff rfl _).2 ((sqDoorbell_refused h).symm ▸ ⟨hrec.trans ?_, hevt, honly⟩)
    rw [show bN false = 0 from rfl, Nat.zero_mul, Nat.add_zero]
  case released =>
    intro c h hi step hw
    exact (gives_iff rfl _).2 ((cqDoorbell_releases h hi hw).symm ▸ setChute_spec h rfl)
  case refusedCq =>
    intro cause h
    obtain ⟨hrec, hevt, honly⟩ := dbErr_spec s.mod n.toNat cause true
    refine (gives_iff rfl _).2 ((cqDoorbell_refused h).symm ▸ ⟨hrec.trans ?_, hevt, honly⟩)
    rw [show bN true = 1 from rfl, Nat.one_mul]

end Sys2Proof.Proofs

/-! Completions (R59, R63, R73, R88): the entry written, the slot freed, and the work record gone. -/

namespace Sys2Proof.Proofs

open Sys2Proof Sys2Proof.Machine Sys2Proof.Laws

/-! Writes of a unit of the module, which may wait for a Recall, and writes to the host. -/

/-- What a unit's write takes beside device memory: the link, where a leased line is recalled first. -/
def onWrite : Portion :=
  ⟨fun m t => { m with mem := t.mem, drills := t.drills, regs := t.regs, velom := t.velom }, fun _ => rfl, fun _ _ _ => rfl⟩

/-- What a message to the host takes, with its counters. -/
def onLink : Portion := ⟨fun m t => { m with regs := t.regs, velom := t.velom }, fun _ => rfl, fun _ _ _ => rfl⟩

theorem addRecall_onLink (m : Mod) (line keep : Nat) (w : Waiter) : onLink.Only m (addRecall m line keep w) := by
  unfold addRecall
  split <;> rfl

theorem unitLine_onWrite (m : Mod) (a : Nat) (d : List Byte) : onWrite.Only m (unitLine m a d) :=
  .ite ((addRecall_onLink ..).widen fun _ _ => rfl) ((writeBytes_onDevice ..).widen fun _ _ => rfl)

theorem unitWrite_onWrite (m : Mod) (a : Nat) (d : List Byte) : onWrite.Only m (unitWrite m a d) :=
  .ite (.refl _ m) (.foldl (fun _ _ => unitLine_onWrite ..) _ m)

theorem demand_onVelom (m : Mod) (kind addr : Nat) (x : Nat → Msg) : onVelom.Only m (demand m kind addr x) := rfl

theorem hostStore_onVelom (m : Mod) (addr : Nat) (data : List Byte) : onVelom.Only m (hostStore m addr data) :=
  .foldl (fun _ _ => demand_onVelom ..) _ m

theorem sendEvt_onLink (m : Mod) (vec : Nat) : onLink.Only m (sendEvt m vec) := by
  unfold sendEvt
  split <;> rfl

/-- At most 256 bytes go to the host in one HStore. -/
theorem hostStore_one (m : Mod) (addr : Nat) {d : List Byte} (h0 : 0 < d.length) (h : d.length ≤ 256) :
    hostStore m addr d = demand m 0 addr fun t => .hstore t addr d := by
  have hone : ceilDiv d.length 256 = 1 := by unfold ceilDiv; omega
  rw [hostStore, hone]
  show demand m 0 (addr + 256 * 0) (fun t => .hstore t (addr + 256 * 0) ((d.drop (256 * 0)).take 256)) = _
  rw [Nat.mul_zero, Nat.add_zero, List.drop_zero, List.take_of_length_le h]

/-- What was sent or held stays so when one more message is. -/
theorem mem_velomSend_of {v : Velom} {y : Msg} (x : Msg) (h : y ∈ v.out ++ v.held) : y ∈ (velomSend v x).out ++ (velomSend v x).held := by
  have h := List.mem_append.1 h
  unfold velomSend
  split
  · simp only [List.mem_append]
    exact h.imp_right .inl
  · split
    · simp only [List.mem_append]
      exact h.imp_left .inl
    · simp only [List.mem_append]
      exact h.imp_right .inl

theorem mem_sendEvt_of {m : Mod} {y : Msg} (vec : Nat) (h : y ∈ m.velom.out ++ m.velom.held) :
    y ∈ (sendEvt m vec).velom.out ++ (sendEvt m vec).velom.held := by
  unfold sendEvt
  split
  · exact h
  · exact mem_velomSend_of _ h

/-! The steps of a completion. -/

theorem sendPart_only (m : Mod) (node tag outcome status gen pred : Nat) (ents : List (List Byte)) :
    onPlacing.Only m (sendPart m node tag outcome status gen pred ents) :=
  (sendAddr_only ..).trans (.foldl (fun _ _ => sendAddr_only ..) _ _)

section
variable (m : Mod) (c : Cmd) (f : Fin)

theorem countDocs_cmds : (countDocs m c f).cmds = m.cmds := by
  unfold countDocs
  split <;> rfl

/-- The module without the command, its documents counted, and its node answered where the fabric asked (R497, R550). -/
def retired : Mod :=
  let t := countDocs (retireCmd m c) c f
  match c.origin with
  | some (node, tag) => sendPart t node tag (if f.status = 0x10 then 2 else 3) f.status c.gen f.info []
  | none => t

/-- What retiring a command takes. -/
def onRetire : Portion :=
  ⟨fun m t => { m with cmds := t.cmds, adm := t.adm, resv := t.resv, pwr := t.pwr, units := t.units, fab := t.fab, regs := t.regs },
    fun _ => rfl, fun _ _ _ => rfl⟩

theorem countDocs_onRetire : onRetire.Only m (countDocs (retireCmd m c) c f) := .trans (t := retireCmd m c) rfl (.ite rfl (.refl ..))

theorem retired_onRetire : onRetire.Only m (retired m c f) := by
  unfold retired
  dsimp only
  split
  · exact (countDocs_onRetire m c f).trans ((sendPart_only ..).widen fun _ _ => rfl)
  · exact countDocs_onRetire m c f

theorem retired_cmds : (retired m c f).cmds = m.cmds.filter fun x => x.id != c.id := by
  have h : (countDocs (retireCmd m c) c f).cmds = m.cmds.filter fun x => x.id != c.id := countDocs_cmds ..
  unfold retired
  dsimp only
  split
  · exact ((sendPart_only ..).same Mod.cmds fun _ _ => rfl).trans h
  · exact h

@[simp] theorem retired_chuteOf (n : Nat) : chuteOf (retired m c f) n = chuteOf m n :=
  (retired_onRetire m c f).same (chuteOf · n) fun _ _ => rfl

@[simp] theorem retired_now : now (retired m c f) = now m := (retired_onRetire m c f).same now fun _ _ => rfl

/-- The completion entry of a command written to its chute's ring (R63). -/
def entryWritten (ch : ChuteRec) : Mod :=
  let at' := ch.cqBase.toNat + 32 * (ch.written % cqDepth ch)
  if bitAt ch.geom.toNat 30 then unitWrite m at' (cqEntry m c ch f) else hostStore m at' (cqEntry m c ch f)

theorem entryWritten_onWrite (ch : ChuteRec) : onWrite.Only m (entryWritten m c f ch) :=
  .ite (unitWrite_onWrite ..) ((hostStore_onVelom ..).widen fun _ _ => rfl)

/-- The chute as a completion leaves it, but for the count of its events. -/
def completedChute (ch : ChuteRec) : ChuteRec :=
  { ch with
    written := ch.written + 1, doneAt := some (now m), valid := ch.valid.filter (· != c.slot)
    rel := ch.rel ++ (match cmdLsn m c with | some l => [(ch.written, l)] | none => []) }

variable {m c f}

theorem finish_chute {n : Nat} {ch : ChuteRec} (hn : c.chute = some n) (hch : chuteOf m n = some ch) :
    finish m c f = coalesce (entryWritten (retired m c f) c f ch) c (completedChute (entryWritten (retired m c f) c f ch) c ch) := by
  have hb : c.chute.bind (chuteOf (retired m c f)) = some ch := by rw [hn, Option.bind_some, retired_chuteOf, hch]
  have heq : finish m c f = match c.chute.bind (chuteOf (retired m c f)) with
      | none => retired m c f
      | some ch => coalesce (entryWritten (retired m c f) c f ch) c (completedChute (entryWritten (retired m c f) c f ch) c ch) := rfl
  rw [heq, hb]

theorem finish_no_chute (h : c.chute.bind (chuteOf m) = none) : finish m c f = retired m c f := by
  have hb : c.chute.bind (chuteOf (retired m c f)) = none := by
    have hc : chuteOf (retired m c f) = chuteOf m := funext (retired_chuteOf m c f)
    rw [hc, h]
  have heq : finish m c f = match c.chute.bind (chuteOf (retired m c f)) with
      | none => retired m c f
      | some ch => coalesce (entryWritten (retired m c f) c f ch) c (completedChute (entryWritten (retired m c f) c f ch) c ch) := rfl
  rw [heq, hb]

/-- An event counted: the chute as the completion leaves it, its count of events and the tick of the first of them apart. -/
theorem coalesce_eq (t : Mod) (c : Cmd) (d : ChuteRec) :
    ∃ k x, coalesce t c d = setChute t { d with counted := k, first := x } ∨
      coalesce t c d = sendEvt (setChute t { d with counted := k, first := x }) (bits d.evt.toNat 16 12) := by
  unfold coalesce
  dsimp only
  split
  · exact ⟨d.counted, d.first, .inl rfl⟩
  · split
    · exact ⟨_, _, .inr rfl⟩
    · exact ⟨_, _, .inl rfl⟩

/-- What a completion takes. -/
def onFinish : Portion :=
  ⟨fun m t => { m with cmds := t.cmds, adm := t.adm, resv := t.resv, pwr := t.pwr, units := t.units, fab := t.fab, regs := t.regs,
                       chutes := t.chutes, velom := t.velom, mem := t.mem, drills := t.drills }, fun _ => rfl, fun _ _ _ => rfl⟩

/-- What an event's count takes. -/
def onEvents : Portion :=
  ⟨fun m t => { m with chutes := t.chutes, regs := t.regs, velom := t.velom }, fun _ => rfl, fun _ _ _ => rfl⟩

theorem coalesce_onEvents (t : Mod) (c : Cmd) (d : ChuteRec) : onEvents.Only t (coalesce t c d) := by
  obtain ⟨k, x, h | h⟩ := coalesce_eq t c d
  · exact h ▸ rfl
  · exact h ▸ .trans (t := setChute t { d with counted := k, first := x }) rfl ((sendEvt_onLink ..).widen fun _ _ => rfl)

theorem finish_cases (m : Mod) (c : Cmd) (f : Fin) : finish m c f = retired m c f ∨
    ∃ n ch, c.chute = some n ∧ chuteOf m n = some ch ∧
      finish m c f = coalesce (entryWritten (retired m c f) c f ch) c (completedChute (entryWritten (retired m c f) c f ch) c ch) := by
  cases h : c.chute.bind (chuteOf m) with
  | none => exact .inl (finish_no_chute h)
  | some ch =>
    obtain ⟨n, hn, hch⟩ := Option.bind_eq_some_iff.1 h
    exact .inr ⟨n, ch, hn, hch, finish_chute hn hch⟩

theorem finish_onFinish (m : Mod) (c : Cmd) (f : Fin) : onFinish.Only m (finish m c f) := by
  have hr : onFinish.Only m (retired m c f) := (retired_onRetire m c f).widen fun _ _ => rfl
  rcases finish_cases m c f with h | ⟨n, ch, -, -, h⟩
  · exact h ▸ hr
  · exact h ▸ (hr.trans ((entryWritten_onWrite ..).widen fun _ _ => rfl)).trans ((coalesce_onEvents ..).widen fun _ _ => rfl)

/-- A completion takes the work record, and every other of its number, out of the command table. -/
theorem finish_cmds (m : Mod) (c : Cmd) (f : Fin) : (finish m c f).cmds = m.cmds.filter fun x => x.id != c.id := by
  rcases finish_cases m c f with h | ⟨n, ch, -, -, h⟩
  · rw [h, retired_cmds]
  · rw [h, (coalesce_onEvents ..).same Mod.cmds fun _ _ => rfl, (entryWritten_onWrite ..).same Mod.cmds fun _ _ => rfl, retired_cmds]

/-- The chute of a completed command counts one entry more, its slot is no longer valid, and no other chute changes. -/
theorem finish_chuteOf {n : Nat} {ch : ChuteRec} (hn : c.chute = some n) (hch : chuteOf m n = some ch) :
    (∃ k x r, chuteOf (finish m c f) n = some { ch with
      written := ch.written + 1, doneAt := some (now m), valid := ch.valid.filter (· != c.slot), counted := k, first := x, rel := r }) ∧
    ∀ k, k ≠ n → chuteOf (finish m c f) k = chuteOf m k := by
  let t := entryWritten (retired m c f) c f ch
  have ht (k : Nat) : chuteOf t k = chuteOf m k := by
    rw [(entryWritten_onWrite ..).same (chuteOf · k) fun _ _ => rfl, retired_chuteOf]
  have hnow : now t = now m := by rw [(entryWritten_onWrite ..).same now fun _ _ => rfl, retired_now]
  obtain ⟨k, x, hco⟩ := coalesce_eq t c (completedChute t c ch)
  let d : ChuteRec := { completedChute t c ch with counted := k, first := x }
  have hset (j : Nat) : chuteOf (finish m c f) j = chuteOf (setChute t d) j := by
    rw [finish_chute hn hch]
    rcases hco with h | h
    · rw [h]
    · rw [h, (sendEvt_onLink ..).same (chuteOf · j) fun _ _ => rfl]
  have hd (j : Nat) := chuteOf_setChute ((ht n).trans hch) (d := d) rfl j
  refine ⟨⟨k, x, d.rel, ?_⟩, fun j hj => ?_⟩
  · rw [hset, hd, if_pos rfl, ← hnow]
    rfl
  · rw [hset, hd, if_neg hj, ht]

theorem cqEntry_length (m : Mod) (c : Cmd) (ch : ChuteRec) (f : Fin) : (cqEntry m c ch f).length = 32 := by
  simp only [cqEntry, List.length_append, toBytes_length]

/-- The entry of a command whose completion ring lies in host memory is sent in one HStore. -/
theorem finish_hstore {n : Nat} {ch : ChuteRec} (hn : c.chute = some n) (hch : chuteOf m n = some ch) (hg : bitAt ch.geom.toNat 30 = false) :
    ∃ tag, Msg.hstore tag (ch.cqBase.toNat + 32 * (ch.written % cqDepth ch)) (cqEntry m c ch f) ∈
      (finish m c f).velom.out ++ (finish m c f).velom.held := by
  let u := retired m c f
  let a := ch.cqBase.toNat + 32 * (ch.written % cqDepth ch)
  have he : cqEntry u c ch f = cqEntry m c ch f := by rw [cqEntry, retired_now, cqEntry]
  have ht : entryWritten u c f ch = demand u 0 a fun t => .hstore t a (cqEntry m c ch f) := by
    rw [entryWritten, hg, he]
    exact hostStore_one u a (by rw [cqEntry_length]; decide) (by rw [cqEntry_length]; decide)
  refine ⟨u.velom.tag, ?_⟩
  have hin : Msg.hstore u.velom.tag a (cqEntry m c ch f) ∈ (entryWritten u c f ch).velom.out ++ (entryWritten u c f ch).velom.held := by
    rw [ht]
    exact mem_velomSend ..
  rw [finish_chute hn hch]
  obtain ⟨k, x, h | h⟩ := coalesce_eq (entryWritten u c f ch) c (completedChute (entryWritten u c f ch) c ch)
  · rw [h]
    exact hin
  · rw [h]
    exact mem_sendEvt_of _ hin

end

/-- Settles O23: the entry is one HStore, and the chute's record and the command table are as the completion leaves them. -/
theorem completionsReachTheirChute : Obligations.CompletionsReachTheirChute := by
  intro m c f n ch hn hch _ hg e
  have he : cqEntry m c ch f = e := by rw [cqEntry, chuteOf_no hch]
  obtain ⟨⟨k, x, r, hset⟩, hother⟩ := finish_chuteOf (f := f) hn hch
  exact ⟨he ▸ cqEntry_length m c ch f, he ▸ finish_hstore hn hch hg, finish_cmds m c f, ⟨_, hset, rfl, rfl, rfl, rfl, rfl⟩, hother⟩

end Sys2Proof.Proofs

/-! ENTRY_FETCH (R64, R68, R101, R469, R556). -/

namespace Sys2Proof.Proofs

open Sys2Proof Sys2Proof.Machine Sys2Proof.Laws

theorem recallRange_onLink (m : Mod) (a n : Nat) : onLink.Only m (recallRange m a n) :=
  .foldl (fun _ _ => .ite (.refl ..) (addRecall_onLink ..)) _ m

theorem recallInputs_onLink (m : Mod) (e : BitVec 512) (pl : Payload) : onLink.Only m (recallInputs m e pl) :=
  .foldl (fun _ _ => recallRange_onLink ..) _ m

/-! A chute that a teardown frees (R64). -/

theorem markRing_mem (on : Bool) (m : Mod) (pg : Nat) :
    markRing on m pg = { m with mem := { m.mem with map := (markRing on m pg).mem.map } } := by
  unfold markRing
  split <;> rfl

/-- The bench map alone: what a page's flags are set in. -/
def onMap : Portion := ⟨fun m t => { m with mem := { m.mem with map := t.mem.map } }, fun _ => rfl, fun _ _ _ => rfl⟩

theorem markRing_onMap (on : Bool) (m : Mod) (pg : Nat) : onMap.Only m (markRing on m pg) := markRing_mem on m pg

/-- What freeing a chute takes. -/
def onFree : Portion :=
  ⟨fun m t => { m with chutes := t.chutes, regs := t.regs, mem := { m.mem with map := t.mem.map } }, fun _ => rfl, fun _ _ _ => rfl⟩

theorem cmdStat_onRegs (m : Mod) (busy : Bool) (res n : Nat) : onRegs.Only m (cmdStat m busy res n) := setRegN_only ..

theorem chuteFree_onFree (m : Mod) (n : Nat) : onFree.Only m (chuteFree m n) := by
  unfold chuteFree
  split
  · exact .refl _ m
  · split
    · extract_lets t kept u
      have ht : onFree.Only m t := rfl
      have hu : onFree.Only t u := (Portion.Only.foldl (fun _ _ => markRing_onMap ..) _ t).widen fun _ _ => rfl
      refine (ht.trans hu).trans (.ite ?_ (.refl ..))
      exact (cmdStat_onRegs u false 0 n).widen fun _ _ => rfl
    · exact .refl _ m

/-! The fetch. -/

section
variable {m t : Mod} {n slot db : Nat} {rest : List (Nat × Nat)} {e : BitVec 512} {pl : Payload} {ch : ChuteRec}

/-- The module with one work record more. -/
def withCmd (m : Mod) (c : Cmd) : Mod := { m with cmds := m.cmds ++ [c], nextCmd := m.nextCmd + 1 }

/-- The module with the chute's first waiting slot taken and its entry's line asked for (R101). -/
def slotTaken (m : Mod) (ch : ChuteRec) (slot : Nat) (rest : List (Nat × Nat)) : Mod :=
  let t := setChute m { ch with wait := rest }
  if bitAt ch.geom.toNat 31 then t else hostLoad t (ch.sqBase.toNat + 64 * slot) 64

/-- What taking a slot and reading an entry's inputs takes. -/
def onTaking : Portion := ⟨fun m t => { m with chutes := t.chutes, velom := t.velom }, fun _ => rfl, fun _ _ _ => rfl⟩

/-- What a fetch takes. -/
def onFetch : Portion :=
  ⟨fun m t => { m with cmds := t.cmds, nextCmd := t.nextCmd, chutes := t.chutes, velom := t.velom }, fun _ => rfl, fun _ _ _ => rfl⟩

theorem slotTaken_onTaking : onTaking.Only m (slotTaken m ch slot rest) := .ite rfl rfl

theorem slotTaken_chutes : (slotTaken m ch slot rest).chutes = (setChute m { ch with wait := rest }).chutes := by
  unfold slotTaken
  dsimp only
  split <;> rfl

/-- The module as an entry that stays is checked: its slot taken and what is read at the fetch read. -/
def fetchRead (m : Mod) (ch : ChuteRec) (slot : Nat) (rest : List (Nat × Nat)) (e : BitVec 512) (pl : Payload) : Mod :=
  let t := slotTaken m ch slot rest
  if readAtFetch (opcodeOf e) then readInputs false t (inputsOf t e pl) else t

theorem fetchRead_onVelom : onVelom.Only (slotTaken m ch slot rest) (fetchRead m ch slot rest e pl) :=
  .ite (readInputs_only ..) (.refl ..)

theorem fetchRead_onTaking : onTaking.Only m (fetchRead m ch slot rest e pl) :=
  slotTaken_onTaking.trans (fetchRead_onVelom.widen fun _ _ => rfl)

variable (hch : chuteOf m n = some ch) (hw : ch.wait = (slot, db) :: rest)
include hch hw

theorem entryFetch_closed (ho : fetchOpen m ch = false) : entryFetchOp m n e pl = m := by
  simp only [entryFetchOp, hch, hw, ho, Bool.not_false, if_true]

variable (ho : fetchOpen m ch = true)
include ho

theorem entryFetch_stopped (hs : m.saf.state ≠ 0) : entryFetchOp m n e pl = fetchStopped m ch slot db rest e (loadPayload m e pl) := by
  have hs' : (m.saf.state != 0) = true := bne_iff_ne.2 hs
  simp only [entryFetchOp, hch, hw, ho, hs', Bool.not_true, Bool.false_eq_true, if_false, if_true]

variable (hs : m.saf.state = 0)
include hs

theorem entryFetch_leased (hl : (readAtFetch (opcodeOf e) && inputLeased m e (loadPayload m e pl)) = true) :
    entryFetchOp m n e pl = recallInputs m e (loadPayload m e pl) := by
  have hs' : (m.saf.state != 0) = false := by simp [hs]
  simp only [entryFetchOp, hch, hw, ho, hs', hl, Bool.not_true, Bool.false_eq_true, if_false, if_true]

variable (hl : (readAtFetch (opcodeOf e) && inputLeased m e (loadPayload m e pl)) = false)
include hl

theorem entryFetch_draining (hd : ch.draining = true) :
    let t := slotTaken m ch slot rest
    let c := fetchedCmd t n slot db e (loadPayload m e pl)
    entryFetchOp m n e pl = chuteFree (finishBad (withCmd t c) c 0x12 1) n := by
  have hs' : (m.saf.state != 0) = false := by simp [hs]
  simp only [entryFetchOp, hch, hw, ho, hs', hl, Bool.not_true, Bool.false_eq_true, if_false]
  exact if_pos hd

theorem entryFetch_open (hd : ch.draining = false) :
    entryFetchOp m n e pl = withCmd (fetchRead m ch slot rest e (loadPayload m e pl))
      (fetchedCmd (slotTaken m ch slot rest) n slot db e (loadPayload m e pl)) := by
  have hs' : (m.saf.state != 0) = false := by simp [hs]
  simp only [entryFetchOp, hch, hw, ho, hs', hl, Bool.not_true, Bool.false_eq_true, if_false]
  exact if_neg (by simp [hd])

end

/-- A record added and finished at once leaves the records before it but those of its number. -/
theorem finish_withCmd (m : Mod) {c : Cmd} (f : Fin) (hc : c.id = m.nextCmd) :
    (finish (withCmd m c) c f).cmds = m.cmds.filter (fun x => x.id != m.nextCmd) ∧
    (finish (withCmd m c) c f).nextCmd = m.nextCmd + 1 := by
  refine ⟨?_, (finish_onFinish ..).same Mod.nextCmd fun _ _ => rfl⟩
  rw [finish_cmds, ← hc]
  show (m.cmds ++ [c]).filter _ = _
  simp

/-- An entry fetched in a safety stop completes, and its slot is free (R556). -/
theorem fetchStopped_spec {m : Mod} {n : Nat} {ch : ChuteRec} (slot db : Nat) (rest : List (Nat × Nat)) (e : BitVec 512) (pl : Payload)
    (hch : chuteOf m n = some ch) (hd : ch.draining = false) :
    let t := fetchStopped m ch slot db rest e pl
    t.cmds = m.cmds.filter (·.id != m.nextCmd) ∧ t.nextCmd = m.nextCmd + 1 ∧
      ∃ d, chuteOf t n = some d ∧ d.written = ch.written + 1 ∧ d.wait = rest ∧ slot ∉ d.valid := by
  intro t
  have hno := chuteOf_no hch
  let u := setChute m { ch with wait := rest }
  let c := fetchedCmd u ch.no slot db e pl
  have ht : t = finishBad (withCmd u c) c 0x33 0 := if_neg (by simp [hd])
  have hset : chuteOf (withCmd u c) ch.no = some { ch with wait := rest } := by
    show chuteOf u ch.no = _
    rw [chuteOf_setChute hch (d := { ch with wait := rest }) rfl, if_pos hno]
  obtain ⟨⟨k, x, r, hfin⟩, -⟩ := finish_chuteOf (f := { status := 0x33, info := 0 }) (c := c) rfl hset
  obtain ⟨hcmds, hnext⟩ := finish_withCmd u (c := c) { status := 0x33, info := 0 } rfl
  rw [ht, ← hno]
  exact ⟨hcmds, hnext, _, hfin, rfl, rfl, by simp [c, fetchedCmd]⟩

/-- Settles O16, case by case of what a fetch meets. -/
theorem anEntryIsFetchedIntoAWorkRecord : Obligations.AnEntryIsFetchedIntoAWorkRecord := by
  intro s n slot db rest e pl ch hch hw p leased
  refine ⟨?closed, ?stopped, ?leased, ?draining, ?fetched⟩
  case closed => exact fun ho => (gives_iff rfl _).2 (entryFetch_closed hch hw ho)
  case stopped =>
    intro ho hs hd
    exact (gives_iff rfl _).2 ((entryFetch_stopped hch hw ho hs).symm ▸ fetchStopped_spec slot db rest e p hch hd)
  case leased =>
    intro ho hs hl
    have honly := recallInputs_onLink s.mod e p
    exact (gives_iff rfl _).2 ((entryFetch_leased hch hw ho hs hl).symm ▸
      ⟨rfl, honly.same Mod.cmds fun _ _ => rfl, honly.same Mod.chutes fun _ _ => rfl⟩)
  case draining =>
    intro ho hs hl hd
    let t := slotTaken s.mod ch slot rest
    have hcmds : t.cmds = s.mod.cmds := slotTaken_onTaking.same Mod.cmds fun _ _ => rfl
    have hnext : t.nextCmd = s.mod.nextCmd := slotTaken_onTaking.same Mod.nextCmd fun _ _ => rfl
    obtain ⟨hfc, hfn⟩ := finish_withCmd t (c := fetchedCmd t n slot db e p) { status := 0x12, info := 1 } rfl
    rw [hcmds, hnext] at hfc
    rw [hnext] at hfn
    refine (gives_iff rfl _).2 ?_
    rw [entryFetch_draining hch hw ho hs hl hd, (chuteFree_onFree ..).same Mod.cmds fun _ _ => rfl,
      (chuteFree_onFree ..).same Mod.nextCmd fun _ _ => rfl]
    exact ⟨hfc, hfn⟩
  case fetched =>
    intro ho hs hl hd
    let t := slotTaken s.mod ch slot rest
    have ht : onTaking.Only s.mod t := slotTaken_onTaking
    let u := fetchRead s.mod ch slot rest e p
    have hu : onTaking.Only s.mod u := fetchRead_onTaking
    have hchutes : u.chutes = (setChute s.mod { ch with wait := rest }).chutes :=
      (fetchRead_onVelom.same Mod.chutes fun _ _ => rfl).trans slotTaken_chutes
    have hset (k : Nat) : chuteOf u k = chuteOf (setChute s.mod { ch with wait := rest }) k := by
      rw [chuteOf, hchutes, chuteOf]
    obtain ⟨hself, hother, -⟩ := setChute_spec hch (d := { ch with wait := rest }) rfl
    refine (gives_iff rfl _).2 ?_
    rw [entryFetch_open hch hw ho hs hl hd]
    refine ⟨fetchedCmd t n slot db e p, ?_, ?_, ?_, rfl, rfl, rfl, rfl, rfl, rfl, ?_, ?_, ?_, fun k hk => ?_, ?_⟩
    · exact congrArg (· ++ _) (hu.same Mod.cmds fun _ _ => rfl)
    · exact congrArg (· + 1) (hu.same Mod.nextCmd fun _ _ => rfl)
    · exact ht.same Mod.nextCmd fun _ _ => rfl
    · exact ht.same (fetchVerdict · e p) fun _ _ => rfl
    · exact ht.same (fun m => (collOf m (collId e)).map (·.cfgSeq)) fun _ _ => rfl
    · exact (hset n).trans hself
    · exact (hset k).trans (hother k hk)
    · exact (hu.widen (q := onFetch) fun _ _ => rfl).trans rfl

end Sys2Proof.Proofs

/-! Chutes created, queried and torn down (R60 to R64, R94, R589, R611). -/

namespace Sys2Proof.Proofs

open Sys2Proof Sys2Proof.Machine Sys2Proof.Laws

section
variable {m : Mod} {n : Nat} {c : ChuteRec}

/-- CHU_CMD_STAT as a command of CHU_CMD leaves it (Table CH-7). -/
theorem cmdStat_reports (m : Mod) (busy : Bool) (res n : Nat) :
    getReg (cmdStat m busy res n) chuP 0x4C = BitVec.ofNat 32 (bN busy * 2 ^ 31 + res * 2 ^ 28 + n) := getReg_setRegN_self ..

/-- A command of CHU_CMD that only reports (R60). -/
theorem cmdStat_idle (m : Mod) (res n : Nat) :
    getReg (cmdStat m false res n) chuP 0x4C = BitVec.ofNat 32 (res * 2 ^ 28 + n) ∧ onRegs.Only m (cmdStat m false res n) := by
  refine ⟨(cmdStat_reports ..).trans ?_, cmdStat_onRegs ..⟩
  rw [show bN false = 0 from rfl, Nat.zero_mul, Nat.zero_add]

theorem cmdStat_done (m : Mod) (n : Nat) : getReg (cmdStat m false 0 n) chuP 0x4C = BitVec.ofNat 32 n := by
  rw [(cmdStat_idle m 0 n).1, Nat.zero_mul, Nat.zero_add]

/-! CREATE. -/

/-- The queue sizes staged for a chute (Table CH-6). -/
def stagedSq (m : Mod) : Nat := bits (getReg m chuP 0x60).toNat 0 5
def stagedCq (m : Mod) : Nat := bits (getReg m chuP 0x60).toNat 8 5

/-- Whether both staged rings may be used (R61). -/
def stagedRings (m : Mod) : Bool :=
  ringOk m (bitAt (getReg m chuP 0x60).toNat 31) (pairReg m chuP 0x50) (64 * 2 ^ stagedSq m) &&
    ringOk m (bitAt (getReg m chuP 0x60).toNat 30) (pairReg m chuP 0x58) (32 * 2 ^ stagedCq m)

/-- The chute of the staged registers, empty. -/
def stagedChute (m : Mod) (n : Nat) : ChuteRec :=
  ⟨n, false, BitVec.ofNat 64 (pairReg m chuP 0x50), BitVec.ofNat 64 (pairReg m chuP 0x58), getReg m chuP 0x60,
    getReg m chuP 0x64, 0, [], [], 0, 0, 0, none, [], none⟩

/-- The module with the pages of a chute's rings held (R61). -/
def ringsHeld (m : Mod) (c : ChuteRec) : Mod := (ringPgs c).foldl holdRing m

def withChute (m : Mod) (c : ChuteRec) : Mod := { m with chutes := insertBy (fun a b => decide (a.no < b.no)) c m.chutes }

/-- What holding a ring's pages takes. -/
def onHold : Portion :=
  ⟨fun m t => { m with regs := t.regs, mem := { m.mem with map := t.mem.map, moves := t.mem.moves, backoff := t.mem.backoff } },
    fun _ => rfl, fun _ _ _ => rfl⟩

theorem abandonMove_onHold (m : Mod) (v : Move) : onHold.Only m (abandonMove m v) := .ite rfl rfl

theorem holdRing_onHold (m : Mod) (pg : Nat) : onHold.Only m (holdRing m pg) := by
  have (t : Mod) : onHold.Only t (markRing true t pg) := (markRing_onMap ..).widen fun _ _ => rfl
  unfold holdRing
  dsimp only
  split
  · exact (abandonMove_onHold ..).trans (this _)
  · exact this _

theorem ringsHeld_onHold (m : Mod) (c : ChuteRec) : onHold.Only m (ringsHeld m c) := .foldl holdRing_onHold _ m

theorem chuteOf_withChute (h : chuteOf m c.no = none) (k : Nat) :
    chuteOf (withChute m c) k = if k = c.no then some c else chuteOf m k := by
  rw [chuteOf, withChute, find_insertBy]
  · simp only [decide_eq_true_eq, eq_comm (a := k), chuteOf]
  · intro y hy hyk
    have hne := List.find?_eq_none.1 h y hy
    simp only [decide_eq_true_eq, decide_eq_false_iff_not] at *
    exact fun hk => hne (hyk.trans hk.symm)

section
variable (hon : chuOn m = true) (h : chuteOf m n = none)
include hon h

theorem chuteCreate_testing {mode x : Nat} (ht : m.mgt.test = some (mode, x)) (hm : mode = 2 ∨ mode = 3 ∨ mode = 5) :
    chuteCreate m n = cmdStat m false 1 n := by
  simp only [chuteCreate, hon, h, Bool.not_true, Bool.false_eq_true, if_false]
  refine if_pos ?_
  rw [ht]
  simpa [or_assoc] using hm

variable (ht : m.mgt.test = none)
include ht

theorem chuteCreate_untested : chuteCreate m n =
    if !(4 ≤ stagedSq m && stagedSq m ≤ stagedCq m && stagedCq m ≤ 16) then cmdStat m false 2 n
    else if !stagedRings m then cmdStat m false 3 n
    else cmdStat (withChute (ringsHeld m (stagedChute m n)) (stagedChute m n)) false 0 n := by
  simp only [chuteCreate, hon, h, ht, Bool.not_true, Bool.false_eq_true, if_false]
  rfl

theorem chuteCreate_geometry (hg : ¬ (4 ≤ stagedSq m ∧ stagedSq m ≤ stagedCq m ∧ stagedCq m ≤ 16)) :
    chuteCreate m n = cmdStat m false 2 n := by
  rw [chuteCreate_untested hon h ht]
  refine if_pos ?_
  simp only [Bool.not_eq_true', Bool.and_eq_false_iff, decide_eq_false_iff_not]
  omega

variable (h4 : 4 ≤ stagedSq m) (hq : stagedSq m ≤ stagedCq m) (h16 : stagedCq m ≤ 16)
include h4 hq h16

theorem chuteCreate_rings (hr : stagedRings m = false) : chuteCreate m n = cmdStat m false 3 n := by
  rw [chuteCreate_untested hon h ht, if_neg (by simp [h4, hq, h16]), hr]
  rfl

theorem chuteCreate_new (hr : stagedRings m = true) :
    chuteCreate m n = cmdStat (withChute (ringsHeld m (stagedChute m n)) (stagedChute m n)) false 0 n := by
  rw [chuteCreate_untested hon h ht, if_neg (by simp [h4, hq, h16]), hr]
  rfl

end

/-- What creating a chute takes. -/
def onCreate : Portion :=
  ⟨fun m t => { m with
      chutes := t.chutes, regs := t.regs, mem := { m.mem with map := t.mem.map, moves := t.mem.moves, backoff := t.mem.backoff } },
    fun _ => rfl, fun _ _ _ => rfl⟩

/-- A chute created stands in the module, and only its rings' pages are touched beside (R60, R61). -/
theorem created_spec (h : chuteOf m n = none) :
    let t := cmdStat (withChute (ringsHeld m (stagedChute m n)) (stagedChute m n)) false 0 n
    chuteOf t n = some (stagedChute m n) ∧ (∀ k, k ≠ n → chuteOf t k = chuteOf m k) ∧ getReg t chuP 0x4C = BitVec.ofNat 32 n ∧
      onCreate.Only m t := by
  intro t
  let u := ringsHeld m (stagedChute m n)
  have hu : onHold.Only m u := ringsHeld_onHold ..
  have hof (k : Nat) : chuteOf u k = chuteOf m k := hu.same (chuteOf · k) fun _ _ => rfl
  have ht (k : Nat) : chuteOf t k = if k = n then some (stagedChute m n) else chuteOf u k :=
    ((cmdStat_onRegs ..).same (chuteOf · k) fun _ _ => rfl).trans (chuteOf_withChute (c := stagedChute m n) ((hof n).trans h) k)
  refine ⟨by rw [ht, if_pos rfl], fun k hk => by rw [ht, if_neg hk, hof], cmdStat_done .., ?_⟩
  have hadd : onCreate.Only u (withChute u (stagedChute m n)) := rfl
  exact ((hu.widen fun _ _ => rfl).trans hadd).trans ((cmdStat_onRegs ..).widen fun _ _ => rfl)

/-! QUERY. -/

theorem chuteQuery_none (hon : chuOn m = true) (h : chuteOf m n = none) : chuteQuery m n = cmdStat m false 4 n := by
  simp only [chuteQuery, hon, h, Bool.not_true, Bool.false_eq_true, if_false]

/-- The module with a chute's rings, geometry and event settings in the staging registers (Table CH-6). -/
def staged (m : Mod) (c : ChuteRec) : Mod :=
  let m := setRegN m chuP 0x50 (c.sqBase.toNat % 2 ^ 32)
  let m := setRegN m chuP 0x54 (c.sqBase.toNat / 2 ^ 32)
  let m := setRegN m chuP 0x58 (c.cqBase.toNat % 2 ^ 32)
  let m := setRegN m chuP 0x5C (c.cqBase.toNat / 2 ^ 32)
  let m := setReg m chuP 0x60 c.geom
  setReg m chuP 0x64 c.evt

theorem chuteQuery_some (hon : chuOn m = true) (h : chuteOf m n = some c) : chuteQuery m n = cmdStat (staged m c) false 0 n := by
  simp only [chuteQuery, hon, h, Bool.not_true, Bool.false_eq_true, if_false]
  rfl

theorem staged_onRegs (m : Mod) (c : ChuteRec) : onRegs.Only m (staged m c) :=
  have h (t : Mod) (r v : Nat) : onRegs.Only t (setRegN t chuP r v) := setRegN_only ..
  have g (t : Mod) (r : Nat) (v : Word) : onRegs.Only t (setReg t chuP r v) := rfl
  (((((h ..).trans (h ..)).trans (h ..)).trans (h ..)).trans (g ..)).trans (g ..)

/-- The two halves of a doubleword in a register pair. -/
theorem halves_join (v : DWord) : (BitVec.ofNat 32 (v.toNat % 2 ^ 32)).toNat + (BitVec.ofNat 32 (v.toNat / 2 ^ 32)).toNat * 2 ^ 32 = v.toNat := by
  have := v.isLt
  simp only [BitVec.toNat_ofNat]
  omega

theorem query_regs (m : Mod) (c : ChuteRec) (n : Nat) :
    let t := cmdStat (staged m c) false 0 n
    pairReg t chuP 0x50 = c.sqBase.toNat ∧ pairReg t chuP 0x58 = c.cqBase.toNat ∧ getReg t chuP 0x60 = c.geom ∧ getReg t chuP 0x64 = c.evt := by
  have read (t : Mod) (r k : Nat) (v : Word) : getReg (setReg t chuP r v) chuP k = if k = r then v else getReg t chuP k := by
    simp only [getReg_setReg, Nat.add_left_cancel_iff]
  refine ⟨?_, ?_, ?_, ?_⟩
  · rw [← halves_join c.sqBase]
    simp [pairReg, regN, cmdStat, staged, setRegN, read]
  · rw [← halves_join c.cqBase]
    simp [pairReg, regN, cmdStat, staged, setRegN, read]
  · simp [cmdStat, staged, setRegN, read]
  · simp [cmdStat, staged, setRegN, read]

/-! DESTROY and CHUTE_DRAINED. -/

theorem chuteDestroy_none (hon : chuOn m = true) (h : chuteOf m n = none) : chuteDestroy m n = cmdStat m false 4 n := by
  simp only [chuteDestroy, hon, h, Bool.not_true, Bool.false_eq_true, if_false]

theorem chuteDestroy_draining (hon : chuOn m = true) (h : chuteOf m n = some c) (hd : c.draining = true) :
    chuteDestroy m n = cmdStat m false 5 n := by
  simp only [chuteDestroy, hon, h, hd, Bool.not_true, Bool.false_eq_true, if_false, if_true]

/-- A chute is not free while a command of it is left (R64). -/
theorem chuteFree_busy (h : chuteOf m n = some c) (hc : chuteCmds m n ≠ []) : chuteFree m n = m := by
  have hne : (chuteCmds m n).isEmpty = false := by simpa using hc
  simp only [chuteFree, h, hne, Bool.and_false, Bool.false_and, Bool.false_eq_true, if_false]

/-- A chute whose commands are all admitted becomes draining, and stays for them (R64). -/
theorem chuteDestroy_waits (hon : chuOn m = true) (h : chuteOf m n = some c) (hd : c.draining = false)
    (hall : ∀ x ∈ chuteCmds m n, x.admitted = true) (hne : chuteCmds m n ≠ []) :
    chuteDestroy m n = cmdStat (setChute m { c with draining := true }) true 0 n := by
  let t := cmdStat (setChute m { c with draining := true }) true 0 n
  have hfree : chuteFree t n = t := by
    refine chuteFree_busy (c := { c with draining := true }) ?_ hne
    exact (setChute_spec h (d := { c with draining := true }) rfl).1
  have hun : (chuteCmds t n).filter (fun x => !x.admitted) = [] :=
    List.filter_eq_nil_iff.2 fun x hx => by simp [hall x hx]
  have heq : chuteDestroy m n = chuteFree (((chuteCmds t n).filter fun x => !x.admitted).foldl (fun m x => finishBad m x 0x12 1) t) n := by
    simp only [chuteDestroy, hon, h, Bool.not_true, Bool.false_eq_true, if_false]
    exact if_neg (by simp [hd])
  rw [heq, hun]
  exact hfree

/-- A draining chute with nothing left is gone (R64). -/
theorem chuteFree_gone (h : chuteOf m n = some c) (hd : c.draining = true) (hc : chuteCmds m n = []) (hw : c.wait = []) :
    chuteOf (chuteFree m n) n = none ∧ ∀ k, k ≠ n → chuteOf (chuteFree m n) k = chuteOf m k := by
  let t : Mod := { m with chutes := m.chutes.filter fun x => x.no != n }
  have hfree (k : Nat) : chuteOf (chuteFree m n) k = chuteOf t k := by
    simp only [chuteFree, h, hd, hc, hw, List.isEmpty_nil, Bool.and_true, if_true]
    have hmap (l : List Nat) : chuteOf (l.foldl (markRing false) t) k = chuteOf t k :=
      (Portion.Only.foldl (fun _ _ => markRing_onMap ..) l t).same (chuteOf · k) fun _ _ => rfl
    split
    · exact ((cmdStat_onRegs ..).same (chuteOf · k) fun _ _ => rfl).trans (hmap _)
    · exact hmap _
  refine ⟨?_, fun k hk => ?_⟩
  · rw [hfree]
    exact find_filter_none _ _ _ fun x hx => by simpa using hx
  · rw [hfree]
    refine find_filter_of _ _ _ fun x hx => ?_
    have : x.no = k := by simpa using hx
    simp [this, hk]

/-! COALESCING_TIMER. -/

theorem coalesceTimer_due {f : Nat} (h : chuteOf m n = some c) (hf : c.first = some f) (h0 : bits c.evt.toNat 0 8 ≠ 0)
    (hdue : f + bits c.evt.toNat 0 8 ≤ now m) :
    coalesceTimer m n = sendEvt (setChute m { c with counted := 0, first := none }) (bits c.evt.toNat 16 12) := by
  simp only [coalesceTimer, h, hf]
  exact if_pos (by simp [h0, hdue])

/-- An Evt's vector is among those sent in the tick, and nothing else of the registers changes. -/
theorem sendEvt_spec (m : Mod) (vec : Nat) : vec ∈ (sendEvt m vec).regs.sent ∧
    sendEvt m vec = { m with regs := { m.regs with sent := (sendEvt m vec).regs.sent }, velom := (sendEvt m vec).velom } := by
  unfold sendEvt
  split
  next h => exact ⟨h, rfl⟩
  next => exact ⟨List.mem_cons_self, rfl⟩

end

/-- Settles O15, command by command. -/
theorem chutesAreCreatedQueriedAndTornDown : Obligations.ChutesAreCreatedQueriedAndTornDown := by
  intro s n hon
  refine ⟨?free, fun c h => ⟨?draining, ?again, ?query, ?destroy, ?drained, ?timer⟩⟩
  case free =>
    intro g sq cq rings reports h
    refine ⟨?_, ?_, fun mode x ht hm => ?_, fun ht hg => ?_, fun ht h4 hq h16 hr => ?_, fun ht h4 hq h16 hr => ?_⟩
    · exact (gives_iff rfl _).2 ((chuteQuery_none hon h).symm ▸ cmdStat_idle ..)
    · exact (gives_iff rfl _).2 ((chuteDestroy_none hon h).symm ▸ cmdStat_idle ..)
    · exact (gives_iff rfl _).2 ((chuteCreate_testing hon h ht hm).symm ▸ cmdStat_idle ..)
    · exact (gives_iff rfl _).2 ((chuteCreate_geometry hon h ht hg).symm ▸ cmdStat_idle ..)
    · exact (gives_iff rfl _).2 ((chuteCreate_rings hon h ht h4 hq h16 hr).symm ▸ cmdStat_idle ..)
    · exact (gives_iff rfl _).2 ((chuteCreate_new hon h ht h4 hq h16 hr).symm ▸ created_spec h)
  case draining =>
    exact fun hd => (gives_iff rfl _).2 ((chuteDestroy_draining hon h hd).symm ▸ cmdStat_idle ..)
  case again =>
    have hcreate : chuteCreate s.mod n.toNat = cmdStat s.mod false (if c.draining then 5 else 1) n.toNat := by
      simp only [chuteCreate, hon, h, Bool.not_true, Bool.false_eq_true, if_false]
    exact (gives_iff rfl _).2 (hcreate ▸ cmdStat_idle ..)
  case query =>
    obtain ⟨hsq, hcq, hgeom, hevt⟩ := query_regs s.mod c n.toNat
    refine (gives_iff rfl _).2 ((chuteQuery_some hon h).symm ▸ ⟨hsq, hcq, hgeom, hevt, cmdStat_done .., ?_⟩)
    exact (staged_onRegs ..).trans (cmdStat_onRegs ..)
  case destroy =>
    intro hd hall hne
    obtain ⟨hself, hother, -⟩ := setChute_spec h (d := { c with draining := true }) rfl
    refine (gives_iff rfl _).2 ((chuteDestroy_waits hon h hd hall hne).symm ▸ ⟨hself, hother, (cmdStat_reports ..).trans ?_, rfl⟩)
    rw [show bN true = 1 from rfl, Nat.one_mul, Nat.zero_mul, Nat.add_zero]
  case drained =>
    intro hd hc hw
    obtain ⟨hself, hother⟩ := chuteFree_gone h hd hc hw
    exact (gives_iff rfl _).2 ⟨hself, hother, chuteFree_onFree ..⟩
  case timer =>
    intro f hf h0 hdue
    let d : ChuteRec := { c with counted := 0, first := none }
    obtain ⟨hself, hother, -⟩ := setChute_spec h (d := d) rfl
    obtain ⟨hsent, hframe⟩ := sendEvt_spec (setChute s.mod d) (bits c.evt.toNat 16 12)
    have hof (k : Nat) : chuteOf (sendEvt (setChute s.mod d) (bits c.evt.toNat 16 12)) k = chuteOf (setChute s.mod d) k :=
      (sendEvt_onLink ..).same (chuteOf · k) fun _ _ => rfl
    refine (gives_iff rfl _).2 ((coalesceTimer_due h hf h0 hdue).symm ▸ ⟨(hof _).trans hself, fun k hk => (hof k).trans (hother k hk), hsent, ?_⟩)
    rw [hframe]
    rfl

end Sys2Proof.Proofs

/-! The ends of admitted work that waits: FENCE, FLUSH and HAUL_HINT, and a media error (R92, R127, R128, R421). -/

namespace Sys2Proof.Proofs

open Sys2Proof Sys2Proof.Machine Sys2Proof.Laws

section
variable {s : State} {m : Mod} {cid op : Nat} {c : Cmd}

/-- An uncorrectable error ends the work of a command whose record is not written (R421). -/
theorem partOp_hurt (h : Running m cid op c) (hop : op ≠ 0x61) (hl : c.lsn = none) (run : Mod → Nat → Mod) :
    partOp m op (.run cid .hurt) run = workEnd m c 0x30 0xF8 := by
  obtain ⟨hc, hadm, hcode⟩ := h
  have hrun : (!c.admitted || opcodeOf c.entry != op) = false := by simp [hadm, hcode]
  have hend : (c.lsn.isSome || decide (opcodeOf c.entry = 0x61)) = false := by simp [hl, hcode, hop]
  simp only [partOp, hc, hrun, mediaEnd, hend, Bool.false_eq_true, if_false]

theorem running_hurt {x : Instr} {run : Mod → Nat → Mod} (hop : op ≠ 0x61)
    (hx : exec x s = .next { s with mod := partOp s.mod op (.run cid .hurt) run }) :
    Running s.mod cid op c → c.lsn = none → Gives x s fun t => t = workEnd s.mod c 0x30 0xF8 :=
  fun h hl => (gives_iff hx _).2 (partOp_hurt h hop hl run)

theorem fenceRun_done (h : Running m cid 0x61 c) (hseq : ∀ x ∈ m.cmds, x.admitted = true → x.chute.isSome = true → c.seq ≤ x.seq) :
    fenceRun m cid = finish m c { status := 0 } := by
  obtain ⟨hc, hadm, hcode⟩ := h
  have hall : (m.cmds.any fun x => x.admitted && x.chute.isSome && decide (x.seq < c.seq)) = false := by
    rw [List.any_eq_false]
    intro x hx
    simp only [Bool.and_eq_true, decide_eq_true_eq, not_and, Nat.not_lt, and_imp]
    exact hseq x hx
  have hrun : (opcodeOf c.entry != 0x61 || !c.admitted) = false := by simp [hadm, hcode]
  simp only [fenceRun, hc, hrun, hall, Bool.false_eq_true, if_false]

theorem flushRun_done (h : Running m cid 0x51 c) (hwb : ∀ w ∈ m.mem.wb, w.seq ∉ c.left) : flushRun m cid = finish m c { status := 0 } := by
  obtain ⟨hc, hadm, hcode⟩ := h
  have hnone : (m.mem.wb.any fun w => decide (w.seq ∈ c.left)) = false := by simpa using hwb
  have hrun : (opcodeOf c.entry != 0x51 || !c.admitted) = false := by simp [hadm, hcode]
  simp only [flushRun, hc, hrun, hnone, Bool.false_eq_true, if_false]

theorem hintRun_done (h : Running m cid 0x50 c) (hleft : c.left = []) (hmv : ∀ v ∈ m.mem.moves, v.cmd = some cid → v.done = true) :
    hintRun m cid = finish m c { status := 0, info := c.info } := by
  obtain ⟨hc, hadm, hcode⟩ := h
  have hnone : (m.mem.moves.any fun v => decide (v.cmd = some cid) && !v.done) = false := by simpa using hmv
  have hrun : (opcodeOf c.entry != 0x50 || !c.admitted) = false := by simp [hadm, hcode]
  simp only [hintRun, hc, hrun, hleft, hnone, Bool.false_eq_true, if_false]

/-- A page whose pin a HAUL_HINT sets (R127). -/
theorem hintRun_pins {pg : Nat} {rest : List Nat} {e : PageEnt} (h : Running m cid 0x50 c) (hleft : c.left = pg :: rest)
    (he : pageEnt m pg = some e) (hroom : moveRoom m e = true) (hfl : fld c.entry 29 1 ≠ 0) :
    hintRun m cid = setEnt (setCmd m { c with left := rest }) { e with pin := bitAt (fld c.entry 29 1) 0 } := by
  obtain ⟨hc, hadm, hcode⟩ := h
  have hrun : (opcodeOf c.entry != 0x50 || !c.admitted) = false := by simp [hadm, hcode]
  have he' : pageEnt (setCmd m { c with left := rest }) pg = some e := he
  have hpage : hintPage c (setCmd m { c with left := rest }) pg =
      setEnt (setCmd m { c with left := rest }) { e with pin := bitAt (fld c.entry 29 1) 0 } := by
    simp only [hintPage, he']
    exact if_pos (bne_iff_ne.2 hfl)
  simp only [hintRun, hc, hrun, hleft, Bool.false_eq_true, if_false]
  exact (if_pos (by rw [he, Option.all_some, hroom])).trans hpage

end

/-- Settles O25: each row does its command's work, and the work ends. -/
theorem admittedWaitsComplete : Obligations.AdmittedWaitsComplete := by
  intro s cid c
  refine ⟨?hurt, ?fence, ?flush, ?hint, ?pin⟩
  case hurt =>
    simp only [List.forall_mem_cons]
    refine ⟨?_, ?_, ?_, ?_, ?_, ?_, ?_, ?_, ?_, ?_, ?_, ?_, fun _ h => nomatch h⟩
    all_goals exact running_hurt (by decide) rfl
  case fence => exact fun h hseq => running_gives h rfl (fenceRun_done h hseq)
  case flush => exact fun h hwb => running_gives h rfl (flushRun_done h hwb)
  case hint => exact fun h hleft hmv => running_gives h rfl (hintRun_done h hleft hmv)
  case pin =>
    intro pg rest e h hleft he hroom hfl
    obtain ⟨hc, -⟩ := id h
    have hpg : e.page = pg := pageEnt_page he
    let t := setCmd s.mod { c with left := rest }
    refine running_gives h rfl ((hintRun_pins h hleft he hroom hfl).symm ▸ ⟨?_, fun q hq => ?_, ?_, rfl⟩)
    · rw [pageEnt_setEnt, if_pos hpg.symm]
    · rw [pageEnt_setEnt, if_neg (hpg ▸ hq)]
      rfl
    · have hid := cmdOf_id hc
      exact hid ▸ cmdOf_setCmd_self (d := { c with left := rest }) (hid.symm ▸ hc)

end Sys2Proof.Proofs

/-! The ledger's ring: what enters it, the bytes it holds, and the groups it is cut into (R513, R517). -/

namespace Sys2Proof.Proofs

open Sys2Proof Sys2Proof.Machine Sys2Proof.Laws

/-- What records that enter the ring take: the records, and the groups with their numbers and channels. -/
def onRing : Portion :=
  ⟨fun m t => { m with ledger := { m.ledger with
      records := t.ledger.records, groups := t.ledger.groups, openG := t.ledger.openG, nextG := t.ledger.nextG, ch := t.ledger.ch } },
    fun _ => rfl, fun _ _ _ => rfl⟩

/-- The lsns of the records, in order. -/
def lsns (m : Mod) : List Nat := m.ledger.records.map (·.lsn)

/-- The part of record `r` that group `g` has room for. -/
def partOf (r : LRec) (g : Group) : Nat := min (r.len - r.entered) (groupMax - g.size)

/-- Group `g` with the part of record `r` in it. -/
def groupWith (r : LRec) (g : Group) : Group :=
  { g with size := g.size + partOf r g, count := g.count + bN (r.entered + partOf r g = r.len) }

/-- Record `r` with the part of it entered that group `g` has room for. -/
def enteredRec (m : Mod) (r : LRec) (g : Group) : LRec :=
  { r with
    entered := r.entered + partOf r g, tick := if r.entered = 0 then now m else r.tick
    group := if r.entered + partOf r g = r.len then some g.no else none }

/-- The module with the open group `g` as it stands once the part of record `r` has entered it. -/
def partEntered (m : Mod) (r : LRec) (g : Group) : Mod :=
  { openGroup m r.lsn with ledger := { (openGroup m r.lsn).ledger with
    records := mapIf (fun x => x.lsn = r.lsn) (fun _ => enteredRec m r g) (openGroup m r.lsn).ledger.records
    openG := some (groupWith r g) } }

section
variable {m t : Mod}

theorem closeGroup_onRing (m : Mod) : onRing.Only m (closeGroup m) := by
  unfold closeGroup
  split
  · exact .refl ..
  · rfl

theorem openGroup_onRing (m : Mod) (lsn : Nat) : onRing.Only m (openGroup m lsn) := by
  unfold openGroup
  split
  · exact .refl ..
  · rfl

/-- A part of the first record that has not wholly entered goes to the open group, within the bound; a full group closes (R517). -/
theorem enterOnce_cases (h : enterOnce m = some t) : ∃ r g, (openGroup m r.lsn).ledger.openG = some g ∧
    unprogBytes (openGroup m r.lsn).ledger + partOf r g ≤ ringMax ∧ (t = partEntered m r g ∨ t = closeGroup (partEntered m r g)) := by
  unfold enterOnce at h
  split at h
  · contradiction
  next r _ =>
    dsimp only at h
    split at h
    · contradiction
    next g hg =>
      split at h
      · contradiction
      next hfit =>
        refine ⟨r, g, hg, Nat.le_of_not_lt hfit, ?_⟩
        rw [← Option.some.inj h]
        split
        · exact .inr (by exact rfl)
        · exact .inl (by exact rfl)

theorem partEntered_onRing (m : Mod) (r : LRec) (g : Group) : onRing.Only m (partEntered m r g) := (openGroup_onRing m r.lsn).trans rfl

theorem enterOnce_onRing (h : enterOnce m = some t) : onRing.Only m t := by
  obtain ⟨r, g, -, -, rfl | rfl⟩ := enterOnce_cases h
  · exact partEntered_onRing ..
  · exact (partEntered_onRing ..).trans (closeGroup_onRing _)

/-- What every part that enters keeps, the ring's filling keeps. -/
theorem enterRing_induct {P : Mod → Prop} (step : ∀ m t, P m → enterOnce m = some t → P t) (fuel : Nat) (hm : P m) :
    P (enterRing fuel m) := by
  induction fuel generalizing m with
  | zero => exact hm
  | succ fuel ih =>
    unfold enterRing
    split
    · exact hm
    next h => exact ih (step _ _ hm h)

theorem enterRing_onRing (m : Mod) (fuel : Nat) : onRing.Only m (enterRing fuel m) :=
  enterRing_induct (P := onRing.Only m) (fun _ _ h g => h.trans (enterOnce_onRing g)) fuel (.refl _ m)

theorem enterRing_onLedger (m : Mod) (fuel : Nat) : onLedger.Only m (enterRing fuel m) :=
  (enterRing_onRing m fuel).widen fun _ _ => rfl

/-! The records keep their lsns. -/

theorem closeGroup_records (m : Mod) : (closeGroup m).ledger.records = m.ledger.records := by
  unfold closeGroup
  split <;> rfl

/-- A record put in the place of those of its lsn. -/
theorem map_lsn_mapIf (r : LRec) (l : List LRec) : (mapIf (fun x => x.lsn = r.lsn) (fun _ => r) l).map (·.lsn) = l.map (·.lsn) := by
  rw [mapIf, List.map_map]
  refine List.map_congr_left fun x _ => ?_
  by_cases hx : x.lsn = r.lsn <;> simp [hx]

theorem partEntered_lsns (m : Mod) (r : LRec) (g : Group) : lsns (partEntered m r g) = lsns m :=
  (map_lsn_mapIf (enteredRec m r g) _).trans (congrArg (List.map _) (openGroup_records m r.lsn))

theorem enterOnce_lsns (h : enterOnce m = some t) : lsns t = lsns m := by
  obtain ⟨r, g, -, -, rfl | rfl⟩ := enterOnce_cases h
  · exact partEntered_lsns ..
  · exact (congrArg (List.map _) (closeGroup_records _)).trans (partEntered_lsns ..)

theorem enterRing_lsns (m : Mod) (fuel : Nat) : lsns (enterRing fuel m) = lsns m :=
  enterRing_induct (P := fun t => lsns t = lsns m) (fun _ _ h g => (enterOnce_lsns g).trans h) fuel rfl

/-! The bytes that are not programmed. -/

theorem closeGroup_unprogBytes (m : Mod) : unprogBytes (closeGroup m).ledger ≤ unprogBytes m.ledger := by
  unfold closeGroup
  split
  · exact Nat.le_refl _
  next g h =>
    simp only [unprogBytes, h, List.filter_append, List.map_append, total, List.foldl_append]
    cases g.prog <;> simp

theorem partEntered_unprogBytes {r : LRec} {g : Group} (hg : (openGroup m r.lsn).ledger.openG = some g) :
    unprogBytes (partEntered m r g).ledger = unprogBytes (openGroup m r.lsn).ledger + partOf r g := by
  simp only [unprogBytes, partEntered, groupWith, hg, Nat.add_assoc]

theorem enterOnce_unprogBytes (h : enterOnce m = some t) : unprogBytes t.ledger ≤ ringMax := by
  obtain ⟨r, g, hg, hfit, rfl | rfl⟩ := enterOnce_cases h
  · exact (partEntered_unprogBytes hg).le.trans hfit
  · exact ((closeGroup_unprogBytes _).trans (partEntered_unprogBytes hg).le).trans hfit

theorem enterRing_unprogBytes (fuel : Nat) (h : unprogBytes m.ledger ≤ ringMax) : unprogBytes (enterRing fuel m).ledger ≤ ringMax :=
  enterRing_induct (P := fun t => unprogBytes t.ledger ≤ ringMax) (fun _ _ _ g => enterOnce_unprogBytes g) fuel h

end

/-! The channels of a group (R445, R515). -/

/-- Where some pair of channels takes writes, the pair found does. -/
theorem healthyPair_spec {bad : List Nat} {k : Nat} (c : Nat) (hk : k < 32 ∧ k ∉ bad ∧ (k + 16) % 32 ∉ bad) :
    let p := healthyPair bad c
    p < 32 ∧ p ∉ bad ∧ (p + 16) % 32 ∉ bad := by
  intro p
  let l := (upto 32).map fun i => (c + i) % 32
  let ok (c : Nat) : Bool := !(c ∈ bad) && !((c + 16) % 32 ∈ bad)
  have hmem : k ∈ l := List.mem_map.2 ⟨(32 + k - c % 32) % 32, by simp [upto]; omega, by omega⟩
  obtain ⟨x, hx⟩ := Option.isSome_iff_exists.1 (List.find?_isSome (p := ok) |>.2 ⟨k, hmem, by simp [ok, hk]⟩)
  have hp : p = x := congrArg (Option.getD · c) hx
  have hlt : x < 32 := by
    obtain ⟨i, -, hi⟩ := List.mem_map.1 (List.mem_of_find?_eq_some hx)
    omega
  have hok := List.find?_some hx
  simp only [ok, Bool.and_eq_true, Bool.not_eq_true', decide_eq_false_iff_not] at hok
  exact hp ▸ ⟨hlt, hok⟩

end Sys2Proof.Proofs

/-! What admitted work does to the command table: no step of it makes a work record, and none takes back an admission. -/

namespace Sys2Proof.Proofs

open Sys2Proof Sys2Proof.Machine Sys2Proof.Laws

/-- Every work record of `t` stands for one of `m` of its number, and is admitted if that one was. -/
structure Narrows (m t : Mod) : Prop where
  of_mem : ∀ x ∈ t.cmds, ∃ y ∈ m.cmds, y.id = x.id ∧ (y.admitted = true → x.admitted = true)

namespace Narrows

variable {m t u : Mod} {d : Cmd}

theorem of_cmds (h : t.cmds = m.cmds) : Narrows m t := ⟨fun x hx => ⟨x, h ▸ hx, rfl, id⟩⟩

/-- A step that sets other parts of the module. -/
theorem of_same (h : t.cmds = m.cmds := by rfl) : Narrows m t := of_cmds h

theorem refl (m : Mod) : Narrows m m := of_same

theorem trans (h : Narrows m t) (g : Narrows t u) : Narrows m u where
  of_mem x hx :=
    let ⟨y, hy, hyx, hya⟩ := g.of_mem x hx
    let ⟨z, hz, hzy, hza⟩ := h.of_mem y hy
    ⟨z, hz, hzy.trans hyx, hya ∘ hza⟩

/-- What leaves the command table alone. -/
theorem of_only {p : Portion} (h : p.Only m t) (hp : ∀ m t, (p.put m t).cmds = m.cmds := by intros; rfl) : Narrows m t :=
  of_cmds (h.same Mod.cmds hp)

theorem foldl {α : Type} {f : Mod → α → Mod} (h : ∀ m x, Narrows m (f m x)) (l : List α) (m : Mod) : Narrows m (l.foldl f m) := by
  induction l generalizing m with
  | nil => exact refl m
  | cons x l ih => exact (h m x).trans (ih _)

theorem ite {b : Prop} [Decidable b] (h : Narrows m t) (g : Narrows m u) : Narrows m (if b then t else u) := by
  split
  · exact h
  · exact g

/-- A record set that stands for one of the table. -/
theorem setCmd (h : ∃ y ∈ m.cmds, y.id = d.id ∧ (y.admitted = true → d.admitted = true)) : Narrows m (setCmd m d) := by
  refine ⟨fun x hx => ?_⟩
  obtain ⟨y, hy, hyx⟩ := List.mem_map.1 hx
  split at hyx
  · exact hyx ▸ h
  · exact ⟨y, hy, hyx ▸ rfl, hyx ▸ id⟩

theorem setCmd_found {c : Cmd} {k : Nat} (h : cmdOf m k = some c) (hid : d.id = c.id) (ha : d.admitted = c.admitted) :
    Narrows m (Machine.setCmd m d) :=
  setCmd ⟨c, List.mem_of_find?_eq_some h, hid.symm, fun h => ha.trans h⟩

theorem setCmd_admitted (h : d.admitted = true) : Narrows m (Machine.setCmd m d) := by
  refine ⟨fun x hx => ?_⟩
  obtain ⟨y, hy, hyx⟩ := List.mem_map.1 hx
  split at hyx
  next hid => exact ⟨y, hy, hyx ▸ of_decide_eq_true hid, fun _ => hyx ▸ h⟩
  next => exact ⟨y, hy, hyx ▸ rfl, hyx ▸ id⟩

theorem finish (m : Mod) (c : Cmd) (f : Fin) : Narrows m (finish m c f) where
  of_mem x hx := ⟨x, (List.mem_filter.1 (finish_cmds m c f ▸ hx)).1, rfl, id⟩

/-- Where every command was admitted, every command is. -/
theorem all_admitted (h : Narrows m t) (hm : ∀ x ∈ m.cmds, x.admitted = true) : ∀ x ∈ t.cmds, x.admitted = true := fun x hx =>
  let ⟨y, hy, _, hya⟩ := h.of_mem x hx
  hya (hm y hy)

end Narrows

section
variable (m : Mod)

/-! Pages freed, and writes of faces. -/

theorem freePage_onWrite (pg : Nat) : onWrite.Only m (freePage m pg) :=
  (Portion.Only.foldl (fun _ _ => (addRecall_onLink ..).widen fun _ _ => rfl) _ m).trans rfl

theorem sweepFreed_onWrite : onWrite.Only m (sweepFreed m) := .foldl (fun _ _ => .ite (.refl ..) (freePage_onWrite ..)) _ m

theorem allocHost_onDevice {t : Mod} {pg : Nat} (h : allocHost m pg = some t) : onDevice.Only m t :=
  (allocHost_added h).1.frame ▸ rfl

theorem devWrite_onWrite (a : Nat) (bs : List Byte) : onWrite.Only m (devWrite m a bs) := by
  unfold devWrite
  split
  · split
    next h => exact ((allocHost_onDevice m h).widen fun _ _ => rfl).trans (unitWrite_onWrite ..)
    next => rfl
  · exact unitWrite_onWrite ..

theorem drainStalled_onDevice : onDevice.Only m (drainStalled m) :=
  .trans (t := { m with mem := { m.mem with stalled := [] } }) rfl (.foldl (fun _ _ => putMask_onDevice ..) _ _)

theorem addStats_onDevice (s : Stats) : onDevice.Only m (addStats m s) := by
  unfold addStats
  exact writeBytes_onDevice ..

/-! Units that end. -/

theorem runDone_narrows (c : Cmd) (w : RunW) : Narrows m (runDone m c w) := by
  unfold runDone
  extract_lets t l
  have ht : Narrows m t := .ite (.refl m) .of_same
  exact ht.trans (.ite (.finish ..) (.finish ..))

theorem runExit_narrows (cid : Option Nat) (k : Core) (code : Nat) : Narrows m (runExit m cid k code) := by
  unfold runExit
  split
  · exact .refl m
  next c hc =>
    obtain ⟨n, -, hn⟩ := Option.bind_eq_some_iff.1 hc
    split
    · exact .refl m
    · extract_lets w c' t
      have ht : Narrows m t := .setCmd_found hn rfl rfl
      exact .ite (ht.trans (runDone_narrows t c' w)) ht

theorem commitSums_narrows (f : Face) : Narrows m (commitSums m f) := by
  unfold commitSums
  split
  · exact .refl m
  next c hc =>
    obtain ⟨n, -, hn⟩ := Option.bind_eq_some_iff.1 hc
    split
    · exact .refl m
    · exact .setCmd_found hn rfl rfl

theorem commitFace_narrows (n : Nat) : Narrows m (commitFace m n) := by
  unfold commitFace
  split
  · exact .refl m
  next f _ =>
    extract_lets t u v
    have ht : Narrows m t := .of_only (.foldl (fun _ _ => devWrite_onWrite ..) _ m)
    have hu : Narrows t u := .of_only (.foldl addStats_onDevice _ t)
    have hv : Narrows u v := .ite (.refl u) (commitSums_narrows u f)
    exact ((ht.trans hu).trans hv).trans .of_same

theorem faceStop_narrows (n exit cause : Nat) : Narrows m (faceStop m n exit cause) := by
  unfold faceStop
  split
  · exact .refl m
  next f _ =>
    extract_lets t xs u v g w x y
    have hu : Narrows t u := .foldl (fun a x => by split <;> exact .of_same) _ t
    have hy : Narrows v y := .trans (t := x) .of_same (.ite (.refl x) .of_same)
    exact ((((commitFace_narrows m n).trans hu).trans (commitFace_narrows u n)).trans hy).trans (runExit_narrows ..)

theorem drillStop_narrows (s n exit st : Nat) (fault : Bool) : Narrows m (drillStop m s n exit st fault) := by
  unfold drillStop
  split
  · exact .refl m
  · exact .of_same

theorem drillEnd_narrows (s n : Nat) : Narrows m (drillEnd m s n) := by
  unfold drillEnd
  split
  · exact .refl m
  next d _ =>
    split
    · exact .refl m
    · extract_lets cyc d' t u v p r w x
      have ht : Narrows m t := .of_same
      have hu : Narrows t u := .of_only ((Portion.Only.foldl (fun _ _ => applyMask_onDevice ..) _ t).trans (drainStalled_onDevice _))
      have hx : Narrows u x := .trans (t := w) .of_same (.ite .of_same (.refl w))
      exact ((((ht.trans hu).trans hx)).trans (.of_only (sweepFreed_onWrite x))).trans (runExit_narrows ..)

theorem cmdStop_narrows (cid exit status info : Nat) : Narrows m (cmdStop m cid exit status info) := by
  unfold cmdStop
  split
  · exact .refl m
  next c hc =>
    extract_lets t u ds v at' w
    have ht : Narrows m t := .setCmd_found hc rfl rfl
    have hu : Narrows t u := .foldl (fun _ _ => faceStop_narrows ..) _ t
    have hv : Narrows u v := .foldl (fun _ _ => (drillStop_narrows ..).trans (drillEnd_narrows ..)) _ u
    have hw : Narrows v w := .ite (.refl v) .of_same
    have h : Narrows m w := ((ht.trans hu).trans hv).trans hw
    split
    · exact h.trans (.finish ..)
    · exact h

theorem dropPage_narrows (pg : Nat) : Narrows m (dropPage m pg) := .of_same

theorem freeSlot_narrows (s : Slot) : Narrows m (freeSlot m s) :=
  .trans (t := s.pages.foldl dropPage m) (.foldl dropPage_narrows _ m) .of_same

theorem dropSlots_narrows (cid : Nat) : Narrows m (dropSlots m cid) := .foldl freeSlot_narrows _ m

theorem dropBatch_narrows (cid : Nat) (ps : List Word) : Narrows m (dropBatch m cid ps) := by
  unfold dropBatch
  split
  · exact .refl m
  · exact .of_same

theorem embedFail_narrows (c : Cmd) (status info : Nat) : Narrows m (embedFail m c status info) := by
  unfold embedFail
  extract_lets t u
  have hu : Narrows t u := by
    show Narrows t (match c.embed with | some w => _ | none => t)
    split
    · exact .ite (dropBatch_narrows ..) (.refl t)
    · exact .refl t
  exact ((dropSlots_narrows m c.id).trans hu).trans (.finish ..)

theorem stopCmd_narrows (c : Cmd) (status info : Nat) : Narrows m (stopCmd m c status info) := by
  unfold stopCmd
  split
  · exact embedFail_narrows ..
  · exact cmdStop_narrows ..
  · exact cmdStop_narrows ..
  · exact .finish ..

/-- One command that an ABORT names, stopped or completed where it was not admitted (R129). -/
def abortOne (m : Mod) (t : Cmd) : Mod := if t.admitted then stopCmd m t 0x12 2 else finishBad m t 0x12 2

theorem abortOne_narrows (t : Cmd) : Narrows m (abortOne m t) := .ite (stopCmd_narrows ..) (.finish ..)

theorem abortAdmit_eq (c : Cmd) : abortAdmit m c =
    finish ((abortTargets m c).foldl abortOne m) c { status := 0, count := (abortTargets m c).length } := rfl

/-! Records written (R511, R517). -/

variable {m} in
theorem record_narrows {t : Mod} {c : Cmd} (h : Narrows m t) (redo : Redo) (hc : c.admitted = true) : Narrows m (record t c redo) := by
  let u : Mod := (addRecord t (some c) (collId c.entry) (opcodeOf c.entry) redo).1
  have hu : onLedger.Only t u := .trans (by exact rfl) (enterRing_onLedger _ 256)
  exact (h.trans (.of_only hu)).trans (.setCmd_admitted (d := { c with lsn := some t.ledger.next }) hc)

/-! Batches on a shard. -/

/-- What tombstones take: the shards, the mirror with its reservations, and counters. -/
def onTombs : Portion :=
  ⟨fun m t => { m with resv := t.resv, colls := t.colls, mirror := t.mirror, regs := t.regs }, fun _ => rfl, fun _ _ _ => rfl⟩

theorem tombstone_onTombs (cid : Nat) (i : Inst) : onTombs.Only m (tombstone m cid i) := by
  cases h : shardOf m cid with
  | none =>
    unfold tombstone
    rw [h]
    exact .refl _ m
  | some c =>
    rw [tombstone_eq h]
    exact .ite (.refl _ m) rfl

theorem tombOne_onTombs (cid : Nat) (i : Inst) : onTombs.Only m (tombOne cid m i) := by
  unfold tombOne
  split
  · exact .refl _ m
  · exact (Portion.Only.ite (by exact rfl) (.refl _ m)).trans (tombstone_onTombs ..)

theorem tombAll_onTombs (cid : Nat) (l : List Inst) : onTombs.Only m (tombAll m cid l) :=
  (Portion.Only.foldl (tombOne_onTombs · cid) l m).trans ((mirrorCheck_only ..).widen fun _ _ => rfl)

theorem stockWrite_onStock (cid : Nat) (e : SEntry) : onStock.Only m (stockWrite cid m e) := by
  unfold stockWrite
  split
  · exact .refl _ m
  next c _ =>
    extract_lets t
    have ht : onStock.Only m t := by
      show onStock.Only m (if _ then m else match allocModule m 1 (some (roomiest m)) with
        | none => m
        | some (pg, m) => setColl m { c with stockPgs := (slotPage c e.pos, pg) :: c.stockPgs })
      split
      · exact .refl _ m
      · split
        · exact .refl _ m
        next h => exact ((allocModule_onDevice m h).widen fun _ _ => rfl).trans rfl
    split
    · exact ht
    · exact ht.trans ((writeBytes_onDevice ..).widen fun _ _ => rfl)

theorem stockPut_onStock (c : Coll) (es : List SEntry) : onStock.Only m (stockPut m c es) :=
  .trans (t := setColl m (putEntries c es)) rfl (.foldl (fun _ _ => stockWrite_onStock ..) _ _)

/-! A build's pages (R249, R254). -/

theorem allocPages_onDevice {bench : Nat} {die : Option Nat} {n : Nat} {r : List Nat × Mod} (h : allocPages bench die n m = some r) :
    onDevice.Only m r.2 ∧ r.1.length = n := by
  induction n generalizing m r with
  | zero =>
    obtain rfl := Option.some.inj h
    exact ⟨.refl _ m, rfl⟩
  | succ n ih =>
    unfold allocPages at h
    split at h
    · contradiction
    next pg t ht =>
      obtain ⟨q, hq, rfl⟩ := Option.map_eq_some_iff.1 h
      obtain ⟨hm, hl⟩ := ih t hq
      exact ⟨(allocModule_onDevice m ht).trans hm, congrArg (· + 1) hl⟩

theorem mapAt_onDevice (bench : Nat) (die : Option Nat) (pg : Nat) : onDevice.Only m (mapAt bench die m pg) := by
  unfold mapAt
  split
  · exact .refl _ m
  · split
    · rfl
    · split
      · rfl
      · exact .refl _ m

theorem dropBuilt_onStock (c : Coll) (no : Nat) : onStock.Only m (dropBuilt m c no) :=
  .trans (t := setColl m { c with built := c.built.filter fun s => s.no != no }) rfl (.foldl (fun _ _ => by exact rfl) _ _)

theorem takeRange_onDevice (n : Nat) : onDevice.Only m (takeRange m n) := rfl

/-- What a build reserves: its index pages, and the range of its vectors. -/
theorem reserveBuild_spec {c : Coll} {n mm degree die : Nat} {ps : List Nat} {base : Nat} {t : Mod}
    (h : reserveBuild m c n mm degree die = some (ps, base, t)) : onDevice.Only m t ∧ ps.length = idxPages n mm degree := by
  obtain ⟨r, hr, he⟩ := Option.map_eq_some_iff.1 h
  obtain ⟨rfl, -, rfl⟩ := he
  obtain ⟨hm, hl⟩ := allocPages_onDevice m hr
  exact ⟨(hm.trans (takeRange_onDevice ..)).trans (.foldl (fun _ _ => mapAt_onDevice ..) _ _), hl⟩

end

/-! What each opcode starts. -/

theorem searchAdmit_narrows (m : Mod) {c : Cmd} (hc : c.admitted = true) : Narrows m (searchAdmit m c) := by
  cases hco : collOf m (collId c.entry) with
  | none =>
    unfold searchAdmit
    rw [hco]
    exact .refl m
  | some co =>
    cases hg : genOf co c.gen with
    | none =>
      unfold searchAdmit
      simp only [hco, hg]
      exact .refl m
    | some g =>
      obtain ⟨ns, h⟩ := searchAdmit_only hco hg
      exact (Narrows.setCmd_admitted (d := { c with search := some { startSearch m co g c.entry c.pl c.level with waitFor := ns } }) hc).trans
        (.of_only h)

section
variable (m : Mod) {c : Cmd} (hc : c.admitted = true)
include hc

theorem insertAdmit_narrows : Narrows m (insertAdmit m c) := by
  unfold insertAdmit
  split
  · exact .refl m
  next co _ =>
    extract_lets es c'
    exact record_narrows ((Narrows.of_only (stockPut_onStock m ..)).trans (.setCmd_admitted (d := c') hc)) _ hc

theorem upsertAdmit_narrows : Narrows m (upsertAdmit m c) := by
  unfold upsertAdmit
  split
  · exact .refl m
  next co _ =>
    extract_lets old gone es c' t
    have ht : Narrows m t := .of_only (tombAll_onTombs m ..)
    split
    · exact ht
    · exact record_narrows ((ht.trans (.of_only (stockPut_onStock t ..))).trans (.setCmd_admitted (d := c') hc)) _ hc

theorem deleteAdmit_narrows : Narrows m (deleteAdmit m c) := by
  unfold deleteAdmit
  split
  · exact .refl m
  · extract_lets ks n old c'
    exact record_narrows ((Narrows.of_only (tombAll_onTombs m ..)).trans (.setCmd_admitted (d := c') hc)) _ hc

theorem embedInsertAdmit_narrows : Narrows m (embedInsertAdmit m c) := by
  unfold embedInsertAdmit
  split
  · exact .refl m
  · exact Narrows.trans .of_same (.setCmd_admitted (by exact hc))

theorem mergeAdmit_narrows : Narrows m (mergeAdmit m c) := by
  unfold mergeAdmit
  split
  · exact .refl m
  · exact .ite (.finish ..) (.setCmd_admitted hc)

theorem buildAdmit_narrows : Narrows m (buildAdmit m c) := by
  unfold buildAdmit
  split
  · exact .refl m
  next co _ =>
    extract_lets e t d
    have ht : Narrows m t := .of_only (dropBuilt_onStock m ..)
    split
    · exact ht
    next h => exact (ht.trans (.of_only (reserveBuild_spec t h).1)).trans (.setCmd_admitted hc)

theorem publishAdmit_narrows : Narrows m (publishAdmit m c) := by
  unfold publishAdmit
  split
  · exact .refl m
  · extract_lets e sup p before t l
    exact (record_narrows .of_same _ hc).trans (.of_only (mirrorCheck_only ..))

theorem createAdmit_narrows : Narrows m (createAdmit m c) :=
  record_narrows .of_same _ hc

theorem dropAdmit_narrows : Narrows m (dropAdmit m c) := by
  unfold dropAdmit
  split
  · exact .refl m
  · exact record_narrows .of_same _ hc

omit hc in
theorem abortAdmit_narrows : Narrows m (abortAdmit m c) := (Narrows.foldl abortOne_narrows _ m).trans (.finish ..)

/-- The work of an admitted head, whatever its opcode. -/
theorem startWork_narrows : Narrows m (startWork m c) := by
  unfold startWork
  split
  case h_1 => exact searchAdmit_narrows m hc
  case h_2 => exact insertAdmit_narrows m hc
  case h_3 => exact upsertAdmit_narrows m hc
  case h_4 => exact deleteAdmit_narrows m hc
  case h_6 => exact embedInsertAdmit_narrows m hc
  case h_7 => exact mergeAdmit_narrows m hc
  case h_8 => exact buildAdmit_narrows m hc
  case h_9 => exact publishAdmit_narrows m hc
  case h_10 => exact record_narrows (.refl m) _ hc
  case h_16 => exact abortAdmit_narrows m
  case h_17 => exact createAdmit_narrows m hc
  case h_18 => exact dropAdmit_narrows m hc
  case h_19 => exact record_narrows (.refl m) _ hc
  case h_20 => exact .refl m
  all_goals exact .setCmd_admitted hc

end

end Sys2Proof.Proofs

/-! ADMISSION with one head left to decide (R69, R74, R75, R78, R661). -/

namespace Sys2Proof.Proofs

open Sys2Proof Sys2Proof.Machine Sys2Proof.Laws

/-! Sorted lists. -/

theorem mem_insertBy {α : Type} (lt : α → α → Bool) (x y : α) (l : List α) : y ∈ insertBy lt x l ↔ y = x ∨ y ∈ l := by
  induction l with
  | nil => simp [insertBy]
  | cons z l ih =>
    unfold insertBy
    split
    · simp
    · simp only [List.mem_cons, ih]
      exact or_left_comm

theorem mem_sortBy {α : Type} (lt : α → α → Bool) (y : α) (l : List α) : y ∈ sortBy lt l ↔ y ∈ l := by
  have (l acc : List α) : y ∈ l.foldl (fun acc x => insertBy lt x acc) acc ↔ y ∈ acc ∨ y ∈ l := by
    induction l generalizing acc with
    | nil => simp
    | cons x l ih =>
      rw [List.foldl_cons, ih, mem_insertBy, List.mem_cons, or_comm (a := y = x), or_assoc]
  exact (this l []).trans (by simp)

/-- In a list of one element again and again, what is looked for is that element. -/
theorem find_of_forall_eq {α : Type} {l : List α} {x : α} {p : α → Bool} (hx : x ∈ l) (hl : ∀ y ∈ l, y = x) (hp : p x = true) :
    l.find? p = some x := by
  cases h : l.find? p with
  | none => exact absurd hp (List.find?_eq_none.1 h x hx)
  | some y => rw [hl y (List.mem_of_find?_eq_some h)]

/-! Heads. -/

/-- `c` is the only command not admitted, and the head of a chute that exists. -/
structure LoneHead (m : Mod) (c : Cmd) (n : Nat) : Prop where
  lone : m.cmds.filter (fun x => !x.admitted) = [c]
  chute : c.chute = some n
  present : (chuteOf m n).isSome = true

section
variable {m : Mod} {c : Cmd} {n : Nat}

theorem heads_admitted (h : ∀ x ∈ m.cmds, x.admitted = true) : heads m = [] := by
  rw [heads, List.append_eq_nil_iff]
  refine ⟨List.filterMap_eq_nil_iff.2 fun ch _ => List.find?_eq_none.2 fun x hx => ?_, List.filter_eq_nil_iff.2 fun x hx => ?_⟩ <;>
    simp [h x hx]

namespace LoneHead

variable (h : LoneHead m c n)
include h

theorem mem : c ∈ m.cmds ∧ c.admitted = false := by
  have hc : c ∈ m.cmds.filter fun x => !x.admitted := h.lone ▸ List.mem_singleton_self c
  simpa using hc

theorem eq_of_waiting {x : Cmd} (hx : x ∈ m.cmds) (ha : x.admitted = false) : x = c := by
  have hf : x ∈ m.cmds.filter fun x => !x.admitted := List.mem_filter.2 ⟨hx, by simp [ha]⟩
  exact List.mem_singleton.1 (h.lone ▸ hf)

/-- Every command of another number is admitted. -/
theorem admitted_of_ne {x : Cmd} (hx : x ∈ m.cmds) (hid : x.id ≠ c.id) : x.admitted = true := by
  cases ha : x.admitted with
  | true => rfl
  | false => exact absurd (congrArg Cmd.id (h.eq_of_waiting hx ha)) hid

theorem chuteHead_eq {k : Nat} {x : Cmd} (hx : chuteHead m k = some x) : x = c := by
  have hw := List.find?_some hx
  simp only [Bool.and_eq_true, Bool.not_eq_true'] at hw
  exact h.eq_of_waiting (List.mem_of_find?_eq_some hx) hw.2

theorem chuteHead : chuteHead m n = some c := by
  obtain ⟨hc, ha⟩ := h.mem
  have hp : (m.cmds.find? fun x => x.chute = some n && !x.admitted).isSome := List.find?_isSome.2 ⟨c, hc, by simp [h.chute, ha]⟩
  obtain ⟨x, hx⟩ := Option.isSome_iff_exists.1 hp
  exact h.chuteHead_eq hx ▸ hx

theorem heads : c ∈ heads m ∧ ∀ x ∈ heads m, x = c := by
  refine ⟨List.mem_append_left _ ?_, fun x hx => ?_⟩
  · obtain ⟨ch, hch⟩ := Option.isSome_iff_exists.1 h.present
    refine List.mem_filterMap.2 ⟨ch, List.mem_of_find?_eq_some hch, ?_⟩
    rw [chuteOf_no hch, h.chuteHead]
  · rcases List.mem_append.1 hx with hx | hx
    · obtain ⟨ch, -, hch⟩ := List.mem_filterMap.1 hx
      exact h.chuteHead_eq hch
    · obtain ⟨hx, hw⟩ := List.mem_filter.1 hx
      simp only [Bool.and_eq_true, Bool.not_eq_true'] at hw
      exact h.eq_of_waiting hx hw.2

theorem find_head : (Machine.heads m).find? (fun x => x.id = c.id) = some c :=
  find_of_forall_eq h.heads.1 h.heads.2 (by simp)

end LoneHead

/-! The arbiter's choice. -/

theorem classOf_lt (e : BitVec 512) : classOf e < 4 := Nat.mod_lt _ (by decide)

/-- One class is chosen where every head has it. -/
theorem nextClass_same (m : Mod) {cs : List Nat} {k : Nat} (hk : k < 4) (hmem : k ∈ cs) (hall : ∀ x ∈ cs, x = k) : nextClass m cs = some k := by
  have hiff (j : Nat) : j ∈ cs ↔ j = k := ⟨hall j, fun hj => hj ▸ hmem⟩
  have hcases : k = 0 ∨ k = 1 ∨ k = 2 ∨ k = 3 := by omega
  unfold nextClass
  simp only [hiff]
  rcases hcases with rfl | rfl | rfl | rfl <;> simp

theorem nextHead_none {a : Arb} (h : ∀ x ∈ heads a.mod, x.id ∈ a.stuck ∨ mayDecide a.mod x = false) : nextHead a = none := by
  have hnil : (heads a.mod).filter (fun c => !(c.id ∈ a.stuck) && mayDecide a.mod c) = [] := by
    refine List.filter_eq_nil_iff.2 fun x hx => ?_
    rcases h x hx with h | h <;> simp [h]
  rw [nextHead, hnil]
  rfl

theorem arbitrate_end {a : Arb} (h : nextHead a = none) (fuel : Nat) : arbitrate fuel a = a := by
  cases fuel with
  | zero => rfl
  | succ fuel =>
    unfold arbitrate
    rw [h]

theorem nextHead_lone (h : LoneHead m c n) (hmay : mayDecide m c = true) : nextHead ⟨m, [], []⟩ = some c := by
  let hs := (heads m).filter fun x => !decide (x.id ∈ ([] : List Nat)) && mayDecide m x
  have hc : c ∈ hs := List.mem_filter.2 ⟨h.heads.1, by simp [hmay]⟩
  have hall : ∀ x ∈ hs, x = c := fun x hx => h.heads.2 x (List.mem_filter.1 hx).1
  have hcls : nextClass m (hs.map fun c => classOf c.entry) = some (classOf c.entry) :=
    nextClass_same m (classOf_lt _) (List.mem_map_of_mem hc) fun x hx => by
      obtain ⟨y, hy, rfl⟩ := List.mem_map.1 hx
      rw [hall y hy]
  show (nextClass m (hs.map fun c => classOf c.entry)).bind (fun k => hs.find? fun c => classOf c.entry = k) = some c
  rw [hcls, Option.bind_some]
  exact find_of_forall_eq hc hall (by simp)

/-! One decision. -/

/-- A command shed or completed at its decision is the only one that leaves. -/
theorem LoneHead.finish_admitted (h : LoneHead m c n) {d : Cmd} (hid : d.id = c.id) (f : Fin) :
    ∀ x ∈ (finish (noteDec m d) d f).cmds, x.admitted = true := by
  intro x hx
  rw [finish_cmds, hid] at hx
  obtain ⟨hx, hne⟩ := List.mem_filter.1 hx
  exact h.admitted_of_ne hx (bne_iff_ne.1 hne)

/-- After an admission every command is admitted. -/
theorem LoneHead.work_admitted (h : LoneHead m c n) {d : Cmd} (hid : d.id = c.id) (l : Nat) :
    ∀ x ∈ (startWork (beforeWork m d l) (pinnedHead m d l)).cmds, x.admitted = true := by
  refine (startWork_narrows (beforeWork m d l) rfl).all_admitted fun x hx => ?_
  rw [beforeWork_cmds] at hx
  obtain ⟨y, hy, rfl⟩ := List.mem_map.1 hx
  split
  · rfl
  next hne => exact h.admitted_of_ne hy (by simpa [hid] using hne)

theorem LoneHead.decided_admitted (h : LoneHead m c n) {t : Mod} (hd : decideHead m c = (t, .decided)) : ∀ x ∈ t.cmds, x.admitted = true := by
  have hid : (withInputs m c).id = c.id := rfl
  unfold decideHead at hd
  dsimp only at hd
  split at hd
  · exact nomatch hd
  · split at hd
    · exact nomatch hd
    · split at hd
      next f _ =>
        obtain ⟨rfl, -⟩ := hd
        exact h.finish_admitted hid f
      next =>
        unfold decideTimed at hd
        split at hd
        next info _ =>
          obtain ⟨rfl, -⟩ := hd
          exact h.finish_admitted hid { status := 0x10, info := info }
        next => exact nomatch hd
        next l _ =>
          obtain ⟨rfl, -⟩ := hd
          exact h.work_admitted hid l

/-- A head that waits leaves the module as it is. -/
theorem decideHead_waits {t : Mod} (hd : decideHead m c = (t, .waits)) : t = m := by
  unfold decideHead at hd
  dsimp only at hd
  split at hd
  · exact (congrArg Prod.fst hd).symm
  · split at hd
    · exact nomatch hd
    · split at hd
      · exact nomatch hd
      · unfold decideTimed at hd
        split at hd <;> exact nomatch hd

/-- A head that is not deferred has its tags free. -/
theorem deferral_none_tags {k : List Nat} (h : deferral m c k = none) : ¬ mirrorFree m < tagsNeeded m c.entry c.pl := by
  intro hlt
  unfold deferral at h
  dsimp only at h
  split_ifs at h

/-- A head admitted has its tags free (R235). -/
theorem timed_admits_tags {l : Nat} (h : timed m c = .admits l) : ¬ mirrorFree m < tagsNeeded m c.entry c.pl := by
  intro hlt
  unfold timed at h
  dsimp only at h
  split at h
  · exact nomatch h
  · split at h
    · exact nomatch h
    · split at h
      · exact nomatch h
      next hdef => exact absurd hlt (deferral_none_tags hdef)

/-- The second pass decides a chosen head as the first did. -/
theorem LoneHead.applyOne (h : LoneHead m c n) {t : Mod} (hd : decideHead m c = (t, .decided)) :
    applyOne m (c.id, timed m (withInputs m c)) = t := by
  unfold decideHead at hd
  unfold Machine.applyOne
  dsimp only at hd ⊢
  rw [h.find_head]
  dsimp only
  split at hd
  · exact nomatch hd
  next hw =>
    split at hd
    · exact nomatch hd
    next hl =>
      rw [if_neg (by simp [hw, hl])]
      split at hd
      next f hf =>
        rw [hf]
        exact congrArg Prod.fst hd
      next hf =>
        rw [hf]
        unfold decideTimed at hd
        cases ht : timed m (withInputs m c) with
        | shed info =>
          rw [ht] at hd
          exact congrArg Prod.fst hd
        | defers k =>
          rw [ht] at hd
          exact nomatch hd
        | admits l =>
          rw [ht] at hd
          exact (if_neg (timed_admits_tags ht)).trans (congrArg Prod.fst hd)

theorem applyOne_admitted {t : Mod} (h : ∀ x ∈ t.cmds, x.admitted = true) (x : Nat × Timed) : applyOne t x = t := by
  unfold applyOne
  rw [heads_admitted h]
  rfl

/-! The two passes. -/

/-- The chosen commands in the order of R29, each with what was decided of it. -/
def decisions (m : Mod) (a : Arb) : List (Nat × Timed) :=
  (sortBy admitsBefore (m.cmds.filter fun c => a.chosen.any fun x => x.1 = c.id)).filterMap fun c => a.chosen.find? fun x => x.1 = c.id

theorem admissionOp_open (h : admissionOpen m = true) :
    let a := arbitrate (2 * m.cmds.length + 1) ⟨m, [], []⟩
    admissionOp m = a.stuck.reverse.foldl applyStuck ((decisions m a).foldl applyOne m) := by
  simp only [admissionOp, h, Bool.not_true, Bool.false_eq_true, if_false]
  rfl

theorem decisions_nil {a : Arb} (h : a.chosen = []) : decisions m a = [] := by
  simp [decisions, h, sortBy]

theorem LoneHead.decisions (h : LoneHead m c n) (a : Arb) (x : Timed) (ha : a.chosen = [(c.id, x)]) :
    ∃ l, decisions m a = (c.id, x) :: l ∧ ∀ y ∈ l, y = (c.id, x) := by
  have hall : ∀ y ∈ Proofs.decisions m a, y = (c.id, x) := by
    intro y hy
    obtain ⟨d, -, hd⟩ := List.mem_filterMap.1 hy
    rw [ha] at hd
    exact List.mem_singleton.1 (List.mem_of_find?_eq_some hd)
  have hmem : (c.id, x) ∈ Proofs.decisions m a := by
    refine List.mem_filterMap.2 ⟨c, (mem_sortBy ..).2 (List.mem_filter.2 ⟨h.mem.1, ?_⟩), ?_⟩ <;> simp [ha]
  cases hd : Proofs.decisions m a with
  | nil => exact absurd (hd ▸ hmem) (List.not_mem_nil)
  | cons y l =>
    rw [hd] at hall
    exact ⟨l, by rw [hall y List.mem_cons_self], fun z hz => hall z (List.mem_cons_of_mem _ hz)⟩

theorem admissionOp_nothing (h : nextHead ⟨m, [], []⟩ = none) : admissionOp m = m := by
  cases ho : admissionOpen m with
  | false => simp only [admissionOp, ho, Bool.not_false, if_true]
  | true =>
    rw [admissionOp_open ho, arbitrate_end h, decisions_nil rfl]
    rfl

/-- A head that cannot go on is met once, and decided again as it stands (R83). -/
theorem LoneHead.admissionOp_stuck (h : LoneHead m c n) (ho : admissionOpen m = true) (hmay : mayDecide m c = true) {t : Mod} {k : Dec}
    (hd : decideHead m c = (t, k)) (hk : k ≠ .decided) : admissionOp m = t := by
  have harb : arbitrate (2 * m.cmds.length + 1) ⟨m, [], []⟩ = ⟨m, [], [c.id]⟩ := by
    unfold arbitrate
    rw [nextHead_lone h hmay]
    dsimp only
    rw [hd]
    have hend : nextHead ⟨m, [], [c.id]⟩ = none := nextHead_none fun x hx => .inl (by simp [h.heads.2 x hx])
    cases k with
    | decided => exact absurd rfl hk
    | waits => exact arbitrate_end hend _
    | deferred => exact arbitrate_end hend _
  rw [admissionOp_open ho, harb, decisions_nil rfl]
  show applyStuck m c.id = t
  unfold applyStuck
  rw [h.find_head]
  dsimp only
  rw [hd]
  cases k with
  | decided => exact absurd rfl hk
  | waits => exact (decideHead_waits hd).symm
  | deferred => rfl

/-- A head that is decided is the only one chosen. -/
theorem LoneHead.admissionOp_decided (h : LoneHead m c n) (ho : admissionOpen m = true) (hmay : mayDecide m c = true) {t : Mod}
    (hd : decideHead m c = (t, .decided)) : admissionOp m = t := by
  have hadm := h.decided_admitted hd
  have harb : arbitrate (2 * m.cmds.length + 1) ⟨m, [], []⟩ = ⟨t, [(c.id, timed m (withInputs m c))], []⟩ := by
    unfold arbitrate
    rw [nextHead_lone h hmay]
    dsimp only
    rw [hd]
    refine arbitrate_end (nextHead_none fun x hx => ?_) _
    rw [heads_admitted hadm] at hx
    exact absurd hx List.not_mem_nil
  obtain ⟨l, hl, hall⟩ := h.decisions ⟨t, [(c.id, timed m (withInputs m c))], []⟩ _ rfl
  have hrest : l.foldl Machine.applyOne t = t := by
    clear hl hall
    induction l with
    | nil => rfl
    | cons x l ih => rw [List.foldl_cons, applyOne_admitted hadm, ih]
  rw [admissionOp_open ho, harb, hl, List.foldl_cons, h.applyOne hd, hrest]
  rfl

/-- With one head left to decide, ADMISSION is the row of its opcode. -/
theorem LoneHead.admissionOp_eq (h : LoneHead m c n) {op : Nat} (hop : opcodeOf c.entry = op) : admissionOp m = headOp m op n := by
  cases ho : admissionOpen m with
  | false => simp only [admissionOp, headOp, ho, Bool.not_false, if_true]
  | true =>
    have hhead : headOp m op n = if mayDecide m c then (decideHead m c).1 else m := by
      simp only [headOp, ho, h.chuteHead, hop, Bool.not_true, Bool.false_eq_true, if_false, decide_true, Bool.true_and]
    rw [hhead]
    cases hmay : mayDecide m c with
    | false => exact admissionOp_nothing (nextHead_none fun x hx => .inr (h.heads.2 x hx ▸ hmay))
    | true =>
      cases hd : decideHead m c with
      | mk t k =>
        by_cases hk : k = .decided
        · exact h.admissionOp_decided ho hmay (hk ▸ hd)
        · exact h.admissionOp_stuck ho hmay hd hk

end

theorem admission_gives {s : State} {P : Mod → Prop} (h : P (admissionOp s.mod)) : Gives .admission s P := (gives_iff rfl P).2 h

section
variable {s : State} {c : Cmd} {n : Nat} (h : LoneHead s.mod c n)
include h

/-- ADMISSION and the row of the lone head's opcode answer the same state. -/
theorem LoneHead.exec_admission {x : Instr} {op : Nat} (hx : exec x s = .next { s with mod := headOp s.mod op n }) (hop : opcodeOf c.entry = op) :
    exec .admission s = exec x s :=
  (congrArg (fun m => (Host.Outcome.next { s with mod := m } : Host.Outcome State Fault Refusal)) (h.admissionOp_eq hop)).trans hx.symm

/-- What the row of a lone head's opcode gives, ADMISSION gives. -/
theorem LoneHead.gives_admission {x : Instr} {op l : Nat} {p : Cmd} {P : Mod → Prop} (ha : Admits s.mod op n p l)
    (hx : exec x s = .next { s with mod := headOp s.mod op n }) (hg : Gives x s P) : Gives .admission s P := by
  obtain ⟨-, ⟨d, hd, -, rfl⟩, hop, -⟩ := ha
  have hdc : d = c := h.chuteHead_eq hd
  obtain ⟨t, ht, hrest⟩ := hg
  exact ⟨t, (h.exec_admission hx (hdc ▸ hop)).trans ht, hrest⟩

end

/-- Settles O18: the lone head is all that the arbiter can choose, and what it chooses takes effect as its row does it. -/
theorem admissionDecidesALoneHeadAsItsRowDoes : Obligations.AdmissionDecidesALoneHeadAsItsRowDoes := by
  intro s
  refine ⟨fun h => admission_gives ?_, fun c n hlone hchute _ hpresent => ?_⟩
  · rcases h with h | h
    · simp only [admissionOp, h, Bool.not_false, if_true]
    · exact admissionOp_nothing (nextHead_none fun x hx => by rw [heads_admitted h] at hx; exact absurd hx List.not_mem_nil)
  · have hl : LoneHead s.mod c n := ⟨hlone, hchute, hpresent⟩
    refine ⟨fun p l => ?reads, ?rows⟩
    case reads =>
      obtain ⟨-, hreads⟩ := readHeadsAreAdmittedWithTheirPins s n p l
      simp only [List.forall_mem_cons] at hreads ⊢
      obtain ⟨hfetch, hlookup, hembed, hface, hdrill, -⟩ := hreads
      have weaken {P : Cmd → Prop} {Q : Mod → Prop} {x : Instr} (hg : Gives x s fun t => AdmittedAs s.mod t p l P ∧ Q t) :
          Gives x s fun t => AdmittedAs s.mod t p l fun _ => True := by
        obtain ⟨t, ht, hpend, hadm, -⟩ := hg
        exact ⟨t, ht, hpend, admittedAs_imp hadm fun _ _ => trivial⟩
      refine ⟨fun ha => ?_, fun ha => ?_, fun ha => ?_, fun ha => ?_, fun ha => ?_, fun _ h => nomatch h⟩
      · exact hl.gives_admission ha rfl (weaken (hfetch ha))
      · exact hl.gives_admission ha rfl (weaken (hembed ha))
      · exact hl.gives_admission ha rfl (weaken (hlookup ha))
      · exact hl.gives_admission ha rfl (weaken (hface ha))
      · exact hl.gives_admission ha rfl (weaken (hdrill ha))
    case rows =>
      simp only [List.forall_mem_cons]
      repeat refine ⟨hl.exec_admission rfl, ?_⟩
      exact fun _ h => nomatch h

end Sys2Proof.Proofs

/-! What MERGE_STOCKPILE, BUILD_SEGMENT, HAUL_HINT, FLUSH, FENCE, MODEL_LOAD and ABORT hold as they are admitted. -/

namespace Sys2Proof.Proofs

open Sys2Proof Sys2Proof.Machine Sys2Proof.Laws

/-! A build's pages are found by what admission's books leave alone (R249). -/

section
variable (m x : Mod)

theorem allocModule_put (bench : Nat) (die : Option Nat) : allocModule (onAdmission.put m x) bench die =
    (allocModule m bench die).map fun r => (r.1, onAdmission.put r.2 x) := by
  have hp : pickLoc (onAdmission.put m x) bench die = pickLoc m bench die := rfl
  unfold allocModule
  rw [hp]
  cases pickLoc m bench die <;> rfl

theorem allocPages_put_isSome (bench : Nat) (die : Option Nat) (n : Nat) :
    (allocPages bench die n (onAdmission.put m x)).isSome = (allocPages bench die n m).isSome := by
  induction n generalizing m with
  | zero => rfl
  | succ n ih =>
    unfold allocPages
    rw [allocModule_put]
    cases allocModule m bench die with
    | none => rfl
    | some r => simpa using ih r.2

theorem dropBuilt_put (c : Coll) (no : Nat) : dropBuilt (onAdmission.put m x) c no = onAdmission.put (dropBuilt m c no) x := by
  have (l : List Nat) (m : Mod) : l.foldl releasePage (onAdmission.put m x) = onAdmission.put (l.foldl releasePage m) x := by
    induction l generalizing m with
    | nil => rfl
    | cons p l ih => exact ih (releasePage m p)
  exact this _ (setColl m { c with built := c.built.filter fun s => s.no != no })

theorem roomiest_put : roomiest (onAdmission.put m x) = roomiest m := rfl

theorem reserveBuild_put_isSome (c : Coll) (n mm degree die : Nat) :
    (reserveBuild (onAdmission.put m x) c n mm degree die).isSome = (reserveBuild m c n mm degree die).isSome := by
  simp only [reserveBuild, Option.isSome_map]
  exact allocPages_put_isSome ..

end

/-! What the work of an admitted head holds. -/

section
variable {m t : Mod} {op n l : Nat} {c d : Cmd} {P : Cmd → Prop}

/-- The record set with a job, where the work kept the command table and admission's books, is the head admitted. -/
theorem admittedAs_setCmd_job {u : Mod} (h : Admits m op n c l) (hcmds : u.cmds = (beforeWork m c l).cmds)
    (hadm : u.adm = (beforeWork m c l).adm) (hP : P d)
    (hpin : d = { pinnedHead m c l with merge := d.merge, build := d.build, left := d.left }) : AdmittedAs m (setCmd u d) c l P := by
  have hid : d.id = c.id := hpin ▸ rfl
  have hu : cmdOf u d.id = some (pinnedHead m c l) := by
    rw [cmdOf, hcmds, hid]
    exact admits_cmdOf_beforeWork h
  refine ⟨d, hid ▸ cmdOf_setCmd_self hu, ?_, ?_, ?_, ?_, ?_, ?_, ?_, ?_, ?_, hP, ?_⟩
  case refine_10 => exact (congrArg Adm.seq hadm).trans (beforeWork_seq ..)
  all_goals rw [hpin]; rfl

/-- Whether a job has nothing to do rests on its shard alone: a repair's first step folds nothing. -/
theorem mergeIdle_eq (m t : Mod) (co : Coll) (w : MergeW) : mergeIdle m co w = mergeIdle t co w := by
  cases hr : w.repair with
  | true => simp only [mergeIdle, stepHi, hr, if_true]
  | false => simp only [mergeIdle, mergeDone, hr, Bool.false_eq_true, if_false]

theorem cmdOf_finish (m : Mod) (c : Cmd) (f : Fin) : cmdOf (finish m c f) c.id = none := by
  rw [cmdOf, finish_cmds, List.find?_eq_none]
  exact fun x hx => by simpa using (List.mem_filter.1 hx).2

theorem mergeAdmit_idle {co : Coll} (hco : collOf m (collId c.entry) = some co) (hi : mergeIdle m co (mergeJob co c.entry) = true) :
    mergeAdmit m c = finish m c { status := 0, info := co.cur } := by
  simp only [mergeAdmit, hco, hi, if_true]

theorem mergeAdmit_job {co : Coll} (hco : collOf m (collId c.entry) = some co) (hi : mergeIdle m co (mergeJob co c.entry) = false) :
    mergeAdmit m c = setCmd m { c with merge := some (mergeJob co c.entry) } := by
  simp only [mergeAdmit, hco, hi, Bool.false_eq_true, if_false]

/-- The build that an admitted BUILD_SEGMENT begins with, its pages and their base given (R249, R254). -/
def firstBuild (m : Mod) (co : Coll) (e : BitVec 512) (die : Nat) (ps : List Nat) (base : Nat) : BuildW :=
  ⟨fld e 44 1, die, buildM e, buildDegree e, buildBeam e, 1, 0, 0, now m, [], [], ps, base, [], co.enable, co.signed, co.dflt, 0⟩

theorem buildAdmit_eq {co : Coll} {u : Mod} {ps : List Nat} {base : Nat} (hco : collOf m (collId c.entry) = some co)
    (hr : reserveBuild (dropBuilt m co (fld c.entry 44 1)) co (fld c.entry 40 4) (buildM c.entry) (buildDegree c.entry)
      (roomiest (dropBuilt m co (fld c.entry 44 1))) = some (ps, base, u)) :
    buildAdmit m c = setCmd u { c with build := some (firstBuild u co c.entry (roomiest (dropBuilt m co (fld c.entry 44 1))) ps base) } := by
  simp only [buildAdmit, hco, hr]
  rfl

/-! ABORT (R129). -/

/-- A command that was not admitted is gone once ABORT has met it. -/
theorem abortOne_foldl_gone {y : Cmd} (hy : y.admitted = false) {ts : List Cmd} (hmem : y ∈ ts) :
    ∀ x ∈ (ts.foldl abortOne m).cmds, x.id ≠ y.id := by
  induction ts generalizing m with
  | nil => exact absurd hmem List.not_mem_nil
  | cons z ts ih =>
    rcases List.mem_cons.1 hmem with rfl | hrest
    · intro x hx hid
      obtain ⟨w, hw, hwx, -⟩ := (Narrows.foldl abortOne_narrows ts (abortOne m y)).of_mem x hx
      rw [abortOne, if_neg (by simp [hy]), finishBad, finish_cmds] at hw
      simpa [hwx, hid] using (List.mem_filter.1 hw).2
    · exact ih hrest

/-- The targets of ABORT that are not admitted are the same with the ABORT itself charged and pinned. -/
theorem abortTargets_beforeWork {y : Cmd} (hy : y ∈ abortTargets m c) :
    y ∈ abortTargets (beforeWork m c l) (pinnedHead m c l) := by
  obtain ⟨hmem, hp⟩ := List.mem_filter.1 hy
  refine List.mem_filter.2 ⟨?_, hp⟩
  have hne : y.id ≠ c.id := by
    simp only [Bool.and_eq_true, bne_iff_ne] at hp
    exact hp.1.1.1
  rw [beforeWork_cmds]
  exact List.mem_map.2 ⟨y, hmem, by simp [hne]⟩

end

/-- Settles O22: each job's record is set in the module that has charged and pinned its head, and what it reads there is what it was. -/
theorem jobsAreAdmittedWithTheirWork : Obligations.JobsAreAdmittedWithTheirWork := by
  intro s n c l e
  have starts {op : Nat} (h : Admits s.mod op n c l) : opcodeOf (pinnedHead s.mod c l).entry = op := admits_opcode (c := c) h
  have idle {op : Nat} {x : Instr} (h : Admits s.mod op n c l) (hx : exec x s = .next { s with mod := headOp s.mod op n })
      (hw : startWork (beforeWork s.mod c l) (pinnedHead s.mod c l) = beforeWork s.mod c l) :
      Gives x s fun t => AdmittedAs s.mod t c l fun _ => True := by
    obtain ⟨t, ht, hpend, hadm, -⟩ := admits_gives_idle h hx hw
    exact ⟨t, ht, hpend, hadm⟩
  refine ⟨fun co h hco => ?merge, fun co h hco => ?build, fun h => ?hint, fun h => ?flush, fun h => ?fence, fun h => ?load, fun h => ?abort⟩
  case merge =>
    have hco' : collOf (beforeWork s.mod c l) (collId (pinnedHead s.mod c l).entry) = some co := (beforeWork_collOf ..).trans hco
    refine admits_gives_work mergeAdmit h rfl (by simp only [startWork, starts h]) ?_
    cases hi : mergeIdle s.mod co (mergeJob co e) with
    | true =>
      rw [if_pos rfl, mergeAdmit_idle hco' ((mergeIdle_eq ..).trans hi)]
      exact cmdOf_finish _ (pinnedHead s.mod c l) _
    | false =>
      rw [if_neg Bool.false_ne_true, mergeAdmit_job hco' ((mergeIdle_eq ..).trans hi)]
      exact admittedAs_setCmd_job h rfl rfl rfl rfl
  case build =>
    intro m hroom
    have hco' : collOf (beforeWork s.mod c l) (collId (pinnedHead s.mod c l).entry) = some co := (beforeWork_collOf ..).trans hco
    have hdrop : dropBuilt (beforeWork s.mod c l) co (fld e 44 1) = onAdmission.put m (beforeWork s.mod c l) := by
      rw [← dropBuilt_put, ← beforeWork_only]
    have hdie : roomiest (dropBuilt (beforeWork s.mod c l) co (fld e 44 1)) = roomiest m := hdrop ▸ roomiest_put ..
    rw [← reserveBuild_put_isSome m (beforeWork s.mod c l), ← hdrop, ← hdie] at hroom
    obtain ⟨⟨ps, base, u⟩, hr⟩ := Option.isSome_iff_exists.1 hroom
    obtain ⟨hu, hlen⟩ := reserveBuild_spec _ hr
    have hu : onStock.Only (beforeWork s.mod c l) u := (dropBuilt_onStock ..).trans (hu.widen fun _ _ => rfl)
    refine admits_gives_work buildAdmit h rfl (by simp only [startWork, starts h]) ?_
    rw [buildAdmit_eq hco' hr]
    refine admittedAs_setCmd_job h (hu.same Mod.cmds fun _ _ => rfl) (hu.same Mod.adm fun _ _ => rfl) ?_ rfl
    exact ⟨_, rfl, rfl, rfl, rfl, rfl, rfl, hdie, hlen, rfl, rfl, rfl⟩
  case hint =>
    refine admits_gives_work (fun m d => setCmd m { d with left := hintPages d.entry }) h rfl (by simp only [startWork, starts h]) ?_
    exact admittedAs_setCmd_job h rfl rfl rfl rfl
  case flush =>
    refine admits_gives_work (fun m d => setCmd m { d with left := flushSet m d.entry }) h rfl (by simp only [startWork, starts h]) ?_
    refine admittedAs_setCmd_job h rfl rfl ?_ rfl
    simp only [flushSet, beforeWork_mem]
    rfl
  case fence => exact idle h rfl (by simp only [startWork, starts h])
  case load => exact idle h rfl (by simp only [startWork, starts h])
  case abort =>
    refine admits_gives_work abortAdmit h rfl (by simp only [startWork, starts h]) ?_
    rw [abortAdmit_eq, finish_cmds]
    intro x hx
    obtain ⟨hmem, hne⟩ := List.mem_filter.1 hx
    exact ⟨by simpa using hne, fun y hy hadm => abortOne_foldl_gone hadm (abortTargets_beforeWork hy) x hmem⟩

end Sys2Proof.Proofs

/-! The count of programmed groups (R514): no completion and no write changes it. -/

namespace Sys2Proof.Proofs

open Sys2Proof Sys2Proof.Machine Sys2Proof.Laws

/-- LDG's count of programmed groups stays. -/
def KeepsCount (m t : Mod) : Prop := getReg t ldgP 0x50 = getReg m ldgP 0x50

namespace KeepsCount

variable {m t u : Mod}

theorem refl (m : Mod) : KeepsCount m m := rfl

theorem trans (h : KeepsCount m t) (g : KeepsCount t u) : KeepsCount m u := Eq.trans g h

/-- A step that leaves the registers alone. -/
theorem of_only {p : Portion} (h : p.Only m t) (hp : ∀ m t, (p.put m t).regs = m.regs := by intros; rfl) : KeepsCount m t :=
  getReg_of_vals (congrArg Regs.vals (h.same Mod.regs hp)) ..

theorem ite {b : Prop} [Decidable b] (h : KeepsCount m t) (g : KeepsCount m u) : KeepsCount m (if b then t else u) := by
  split
  · exact h
  · exact g

theorem foldl {α : Type} {f : Mod → α → Mod} (h : ∀ m x, KeepsCount m (f m x)) (l : List α) (m : Mod) : KeepsCount m (l.foldl f m) := by
  induction l generalizing m with
  | nil => exact refl m
  | cons x l ih => exact (h m x).trans (ih _)

theorem bump (m : Mod) (p : Page) {r : Nat} (n : Nat) (h : 0x50 % 4096 ≠ r % 4096) : KeepsCount m (bump m p r n) :=
  getReg_bump_ne m (regAddr_ne_of_offset h) n

end KeepsCount

section
variable (m : Mod)

/-! Writes of device memory. -/

theorem flc_ne_ldg (k : Nat) : pageBase ldgP + 0x50 ≠ pageBase ⟨4, .flc, k⟩ + 0x50 := by
  simp only [pageBase, ldgP, blkNum]
  omega

/-- A flash channel's counts lie apart from the ledger's. -/
theorem bump_flc_keepsCount (k n : Nat) : KeepsCount m (bump m ⟨4, .flc, k⟩ 0x50 n) := getReg_bump_ne m (flc_ne_ldg k) n

theorem programEnt_keepsCount (w : WbEnt) : KeepsCount m (programEnt m w) := by
  unfold programEnt
  extract_lets pg mem₀ m₀
  split
  · rfl
  next e _ =>
    extract_lets st m₁ ch x m₂
    have h₁ : KeepsCount m₀ m₁ := by
      refine .ite (.refl _) ?_
      split
      · exact .trans (t := setEnt m₀ _) rfl (.bump _ _ 1 (by decide))
      · exact .refl _
    have h₂ : KeepsCount m₁ m₂ := .ite (.bump m₁ ch 1 (by decide)) (.refl _)
    exact (h₁.trans h₂).trans (.trans (t := { m₂ with mem := { m₂.mem with flash := putUnit m₂.mem.flash (encipher m₂ w.unit x) } }) rfl
      (bump_flc_keepsCount ..))

theorem wbPut_keepsCount (a : Nat) (g : List Byte) : KeepsCount m (wbPut m a g) := by
  cases h : m.mem.wb.any fun e => e.unit = a / 4096 with
  | true => rw [wbPut_unit g h]; rfl
  | false =>
    rw [wbPut_new g h]
    refine .trans (t := makeRoom m) ?_ rfl
    unfold makeRoom
    split
    · exact .ite (.refl m) (programEnt_keepsCount ..)
    · exact .refl m

theorem abandonMove_keepsCount (v : Move) : KeepsCount m (abandonMove m v) :=
  .ite (.trans (t := _) rfl (.bump _ _ 1 (by decide))) (.trans (t := _) rfl (.bump _ _ 1 (by decide)))

theorem logGran_keepsCount (a : Nat) (g : List Byte) : KeepsCount m (logGran m a g) := by
  unfold logGran
  split
  · exact .refl m
  · exact .ite (.ite rfl (abandonMove_keepsCount ..)) (.refl m)

theorem applyGran_keepsCount (a : Nat) (g : List Byte) : KeepsCount m (applyGran m a g) := by
  let u := clearUe m (a / 32 * 32)
  let t := match pageEnt u (pageNo (a / 32 * 32)) with
    | none => u
    | some e => storeGran u e (a / 32 * 32) g
  have ht : KeepsCount u t := by
    show KeepsCount u (match pageEnt u _ with | none => u | some e => storeGran u e _ g)
    split
    · exact .refl u
    next e _ => exact .trans (t := setEnt u { e with image := false }) rfl (.ite (wbPut_keepsCount ..) rfl)
  exact (KeepsCount.trans (m := m) (t := u) rfl ht).trans (logGran_keepsCount t (a / 32 * 32) g)

theorem applyMask_keepsCount (a : Nat) (g : List (Option Byte)) : KeepsCount m (applyMask m a g) :=
  .ite (applyGran_keepsCount ..) (.ite (.refl m) (applyGran_keepsCount ..))

theorem putMask_keepsCount (a : Nat) (g : List (Option Byte)) : KeepsCount m (putMask m a g) := by
  unfold putMask
  split
  next k _ =>
    have hk : KeepsCount m (countStop m k) := .ite (.refl m) (.bump m _ 1 (by decide))
    exact hk.trans rfl
  · split
    · rfl
    · exact applyMask_keepsCount ..

theorem writeBytes_keepsCount (a : Nat) (d : List Byte) : KeepsCount m (writeBytes m a d) :=
  .ite (.refl m) (.foldl (fun _ _ => putMask_keepsCount ..) _ m)

theorem addRecall_keepsCount (line keep : Nat) (w : Waiter) : KeepsCount m (addRecall m line keep w) := by
  unfold addRecall
  split
  · rfl
  · exact .trans (t := bump m vlkP 0x5C) (.bump m _ 1 (by decide)) rfl

theorem unitWrite_keepsCount (a : Nat) (d : List Byte) : KeepsCount m (unitWrite m a d) :=
  .ite (.refl m) (.foldl (fun _ _ => .ite (addRecall_keepsCount ..) (writeBytes_keepsCount ..)) _ m)

theorem sendEvt_keepsCount (vec : Nat) : KeepsCount m (sendEvt m vec) := .ite (.refl m) rfl

/-! Frames to other nodes. -/

theorem portSend_keepsCount (n : Nat) (f : Frame) : KeepsCount m (portSend m n f) := by
  unfold portSend
  split
  · exact .refl m
  next p _ =>
    refine .ite (.refl m) (.ite rfl ?_)
    split
    next l _ => exact .trans (t := { setPort m { p with link := l } with fab := _ }) rfl (.bump _ _ 1 (by decide))
    · rfl

theorem hopSend_keepsCount {t : Mod} {f : Frame} (h : hopSend m f = some t) : KeepsCount m t := by
  unfold hopSend at h
  split at h
  · contradiction
  · obtain rfl := Option.some.inj h
    exact portSend_keepsCount ..

theorem sendAddr_keepsCount (f : Frame) : KeepsCount m (sendAddr m f) := by
  refine .ite (.ite rfl (.refl m)) ?_
  split
  next h => exact hopSend_keepsCount m h
  · refine .ite (.refl m) (.ite rfl ?_)
    split
    next h => exact (hopSend_keepsCount m h).trans (.bump _ _ 1 (by decide))
    · exact .refl m

/-! Completions. -/

theorem retired_keepsCount (c : Cmd) (f : Fin) : KeepsCount m (retired m c f) := by
  have hdocs : KeepsCount m (countDocs (retireCmd m c) c f) := .trans (t := retireCmd m c) rfl (.ite rfl (.refl _))
  unfold retired
  dsimp only
  split
  · exact (hdocs.trans (sendAddr_keepsCount ..)).trans (.foldl (fun _ _ => sendAddr_keepsCount ..) _ _)
  · exact hdocs

theorem coalesce_keepsCount (c : Cmd) (ch : ChuteRec) : KeepsCount m (coalesce m c ch) :=
  .ite rfl (.ite (.trans (t := setChute m _) rfl (sendEvt_keepsCount ..)) rfl)

theorem finish_keepsCount (c : Cmd) (f : Fin) : KeepsCount m (finish m c f) := by
  cases h : c.chute.bind (chuteOf m) with
  | none => rw [finish_no_chute h]; exact retired_keepsCount m c f
  | some ch =>
    obtain ⟨n, hn, hch⟩ := Option.bind_eq_some_iff.1 h
    rw [finish_chute hn hch]
    have he : KeepsCount (retired m c f) (entryWritten (retired m c f) c f ch) :=
      .ite (unitWrite_keepsCount ..) (.of_only (hostStore_onVelom ..))
    exact ((retired_keepsCount m c f).trans he).trans (coalesce_keepsCount ..)

end
end Sys2Proof.Proofs

/-! The records that a programmed group makes durable, and the commands that complete with them (R88, R514, R517). -/

namespace Sys2Proof.Proofs

open Sys2Proof Sys2Proof.Machine Sys2Proof.Laws

/-! One record. -/

/-- What a record's programming takes beside the ledger: its command's completion, its shard, and the firmware with its alerts. -/
def onProg : Portion :=
  ⟨fun m t => { m with cmds := t.cmds, adm := t.adm, resv := t.resv, pwr := t.pwr, units := t.units, fab := t.fab, regs := t.regs,
                       chutes := t.chutes, velom := t.velom, mem := t.mem, drills := t.drills, colls := t.colls, sec := t.sec,
                       mgt := t.mgt }, fun _ => rfl, fun _ _ _ => rfl⟩

section
variable (m : Mod) (r : LRec)

/-- The module in which record `r` counts as programmed, for the ledger and its shard (R514). -/
def recDone : Mod :=
  let m := setRecord m { r with prog := some (now m) }
  let m := { m with ledger := { m.ledger with last := max m.ledger.last r.lsn } }
  let m := if regN m ldgP 0x54 < now m - r.tick then setRegN m ldgP 0x54 (min (now m - r.tick) 0xFFFFFFFF) else m
  match shardOf m r.coll with
  | some c => setColl m (progColl c r.redo (now m))
  | none => m

/-- What a record that counts as programmed takes: the records, the registers and the shards. -/
def onDone : Portion :=
  ⟨fun m t => { m with regs := t.regs, colls := t.colls, ledger := { m.ledger with records := t.ledger.records, last := t.ledger.last } },
    fun _ => rfl, fun _ _ _ => rfl⟩

theorem progRecord_none {lsn : Nat} (h : recordOf m lsn = none) : progRecord m lsn = m := by
  simp only [progRecord, h]

theorem recordOf_lsn {m : Mod} {r : LRec} {lsn : Nat} (h : recordOf m lsn = some r) : r.lsn = lsn := by
  simpa using List.find?_some h

theorem progRecord_some {m : Mod} {r : LRec} {lsn : Nat} (h : recordOf m lsn = some r) : progRecord m lsn = progMod (recDone m r) r := by
  obtain rfl := recordOf_lsn h
  simp only [progRecord, h]
  rfl

theorem recDone_onDone : onDone.Only m (recDone m r) := by
  unfold recDone
  extract_lets t l u v
  have hu : onDone.Only m u := rfl
  have hv : onDone.Only u v := .ite rfl (.refl _ u)
  refine (hu.trans hv).trans ?_
  split
  · rfl
  · exact .refl ..

theorem recDone_records : (recDone m r).ledger.records =
    mapIf (fun x => x.lsn = r.lsn) (fun _ => { r with prog := some (now m) }) m.ledger.records := by
  unfold recDone
  extract_lets t l u v
  have hv : v.ledger = u.ledger := by
    show (if _ then _ else u : Mod).ledger = _
    split <;> rfl
  split
  · exact congrArg Ledger.records hv
  · exact congrArg Ledger.records hv

theorem recDone_keepsCount : KeepsCount m (recDone m r) := by
  unfold recDone
  extract_lets t l u v
  have hv : KeepsCount u v := .ite (getReg_setRegN_ne u (regAddr_ne_of_offset (by decide)) _) (.refl u)
  have hu : KeepsCount m v := KeepsCount.trans (m := m) (t := u) rfl hv
  split
  · exact hu.trans rfl
  · exact hu

/-! What goes with it. -/

theorem finish_onProg (c : Cmd) (f : Fin) : onProg.Only m (finish m c f) := (finish_onFinish m c f).widen fun _ _ => rfl

/-- The commands that a record's programming may complete: its own, or the job of its step. -/
def Completes (m : Mod) (r : LRec) (c : Cmd) : Prop := cmdOf m c.id = some c ∧ (c.lsn = some r.lsn ∨ c.merge.isSome = true)

/-- What a record's programming does beside its shard: the count of groups stays, and at most one command completes. -/
structure ProgStep (m : Mod) (r : LRec) (t : Mod) : Prop where
  only : onProg.Only m t
  count : KeepsCount m t
  cmds : t.cmds = m.cmds ∨ ∃ c, Completes m r c ∧ t.cmds = m.cmds.filter fun x => x.id != c.id

theorem progStep_refl : ProgStep m r m := ⟨.refl _ m, .refl m, .inl rfl⟩

variable {m r} in
/-- A step that leaves the command table alone, and then one that programs. -/
theorem ProgStep.after {u t : Mod} (h : ProgStep u r t) (honly : onProg.Only m u) (hcount : KeepsCount m u) (hcmds : u.cmds = m.cmds) :
    ProgStep m r t where
  only := honly.trans h.only
  count := hcount.trans h.count
  cmds := by
    have hc := h.cmds
    simp only [Completes, cmdOf, hcmds] at hc ⊢
    exact hc

theorem finish_progStep {c : Cmd} (f : Fin) (h : Completes m r c) : ProgStep m r (finish m c f) :=
  ⟨finish_onProg .., finish_keepsCount .., .inr ⟨c, h, finish_cmds ..⟩⟩

variable {m r} in
/-- The command that a record names, as it is found. -/
theorem cmdOf_of_recCmd {c : Cmd} (h : r.cmd.bind (cmdOf m) = some c) : cmdOf m c.id = some c := by
  obtain ⟨k, -, hk⟩ := Option.bind_eq_some_iff.1 h
  have hid : c.id = k := by simpa using List.find?_some hk
  exact hid ▸ hk

theorem finishRec_progStep : ProgStep m r (finishRec m r) := by
  unfold finishRec
  split
  next c hc =>
    split
    next hl => exact finish_progStep _ _ _ ⟨cmdOf_of_recCmd hc, .inl hl⟩
    · exact progStep_refl ..
  · exact progStep_refl ..

theorem stepDurable_progStep (p : PubRec) : ProgStep m r (stepDurable m r p) := by
  unfold stepDurable
  split
  · exact progStep_refl ..
  next c hc =>
    split
    · exact progStep_refl ..
    next w hw =>
      split
      · exact progStep_refl ..
      next co _ =>
        split
        · exact progStep_refl ..
        · have hu : cmdOf (setColl m { co with mergeEnd := some (now m) }) c.id = some c := cmdOf_of_recCmd hc
          exact (finish_progStep _ r _ ⟨hu, .inr (by simp [hw])⟩).after rfl rfl rfl

theorem releasePage_onDevice (pg : Nat) : onDevice.Only m (releasePage m pg) := rfl

theorem dropCkpts_onDevice : onDevice.Only m (dropCkpts m r) := by
  unfold dropCkpts
  split
  · exact .foldl (fun _ _ => releasePage_onDevice ..) _ m
  · exact .refl ..

theorem dropCkpts_keepsCount : KeepsCount m (dropCkpts m r) := by
  unfold dropCkpts
  split
  · exact .foldl (fun _ _ => by exact rfl) _ m
  · exact .refl ..

/-- What the adit port's messages take. -/
def onAdit : Portion := ⟨fun m t => { m with mgt := t.mgt, regs := t.regs }, fun _ => rfl, fun _ _ _ => rfl⟩

theorem alert_onAdit (bit : Nat) : onAdit.Only m (alert m bit) := by
  unfold alert
  extract_lets t
  have ht : onAdit.Only m t := .ite rfl (.refl _ m)
  exact (ht.trans (by exact rfl)).trans (.ite rfl (.refl ..))

theorem alert_keepsCount (bit : Nat) : KeepsCount m (alert m bit) := by
  unfold alert
  extract_lets t
  have ht : KeepsCount m t := .ite rfl (.refl m)
  exact (ht.trans (by exact rfl)).trans (.ite rfl (.refl _))

theorem progMod_progStep : ProgStep m r (progMod m r) := by
  unfold progMod
  split
  · split
    · exact stepDurable_progStep ..
    · exact finishRec_progStep ..
  · exact (finishRec_progStep ..).after ((dropCkpts_onDevice ..).widen fun _ _ => rfl) (dropCkpts_keepsCount ..)
      ((dropCkpts_onDevice ..).same Mod.cmds fun _ _ => rfl)
  next s _ =>
    split
    · exact progStep_refl ..
    · let u : Mod := { m with
        sec := { m.sec with active := s, trial := true, reverted := false, pendAct := none }, mgt := { m.mgt with update := none } }
      have hu : onAdit.Only u (sendIbi (alert u 3) 0x01#8) := (alert_onAdit ..).trans (.ite rfl (.refl ..))
      have hc : KeepsCount u (sendIbi (alert u 3) 0x01#8) := (alert_keepsCount ..).trans (.ite rfl (.refl _))
      refine ProgStep.after (u := sendIbi (alert u 3) 0x01#8) ⟨rfl, rfl, .inl rfl⟩ ?_ ?_ ?_
      · exact .trans (t := u) rfl (hu.widen fun _ _ => rfl)
      · exact KeepsCount.trans (t := u) rfl hc
      · exact hu.same Mod.cmds fun _ _ => rfl
  · exact finishRec_progStep ..

end

/-- What one record's programming takes in all. -/
def onProgrammed : Portion :=
  ⟨fun m t => { m with cmds := t.cmds, adm := t.adm, resv := t.resv, pwr := t.pwr, units := t.units, fab := t.fab, regs := t.regs,
                       chutes := t.chutes, velom := t.velom, mem := t.mem, drills := t.drills, colls := t.colls, sec := t.sec,
                       mgt := t.mgt, ledger := { m.ledger with records := t.ledger.records, last := t.ledger.last } },
    fun _ => rfl, fun _ _ _ => rfl⟩

section
variable {m : Mod} {lsn : Nat}

theorem progRecord_onProgrammed (m : Mod) (lsn : Nat) : onProgrammed.Only m (progRecord m lsn) := by
  cases h : recordOf m lsn with
  | none => rw [progRecord_none m h]; exact .refl ..
  | some r =>
    rw [progRecord_some h]
    exact ((recDone_onDone m r).widen fun _ _ => rfl).trans ((progMod_progStep _ r).only.widen fun _ _ => rfl)

theorem progRecord_keepsCount (m : Mod) (lsn : Nat) : KeepsCount m (progRecord m lsn) := by
  cases h : recordOf m lsn with
  | none => rw [progRecord_none m h]; exact .refl m
  | some r =>
    rw [progRecord_some h]
    exact (recDone_keepsCount m r).trans (progMod_progStep _ r).count

theorem progRecord_records {r : LRec} (h : recordOf m lsn = some r) :
    (progRecord m lsn).ledger.records = mapIf (fun x => x.lsn = lsn) (fun _ => { r with prog := some (now m) }) m.ledger.records := by
  rw [progRecord_some h, (progMod_progStep (recDone m r) r).only.same (fun m => m.ledger.records) fun _ _ => rfl, recDone_records,
    recordOf_lsn h]

theorem progRecord_lsns (m : Mod) (lsn : Nat) : lsns (progRecord m lsn) = lsns m := by
  cases h : recordOf m lsn with
  | none => rw [progRecord_none m h]
  | some r =>
    obtain rfl := recordOf_lsn h
    rw [lsns, progRecord_records h]
    exact map_lsn_mapIf { r with prog := some (now m) } _

/-- A record's programming changes that record alone, and of it the tick alone. -/
theorem recordOf_progRecord (m : Mod) (lsn k : Nat) :
    recordOf (progRecord m lsn) k = (recordOf m k).map fun x => if k = lsn then { x with prog := some (now m) } else x := by
  cases h : recordOf m lsn with
  | none =>
    rw [progRecord_none m h]
    by_cases hk : k = lsn
    · rw [hk, h]; rfl
    · simp [hk]
  | some r =>
    obtain rfl := recordOf_lsn h
    rw [recordOf, progRecord_records h]
    refine (find_mapIf LRec.lsn m.ledger.records { r with prog := some (now m) } k).trans ?_
    by_cases hk : k = r.lsn
    · have hfind : m.ledger.records.find? (fun x => decide (x.lsn = r.lsn)) = some r := h
      simp [hk, hfind, h]
    · simp [hk, recordOf]

/-- A command stays as it is, or completes. -/
theorem progRecord_cmds (m : Mod) (lsn : Nat) : (progRecord m lsn).cmds = m.cmds ∨ ∃ c,
    cmdOf m c.id = some c ∧ (c.lsn = some lsn ∨ c.merge.isSome = true) ∧ (progRecord m lsn).cmds = m.cmds.filter fun x => x.id != c.id := by
  cases h : recordOf m lsn with
  | none => rw [progRecord_none m h]; exact .inl rfl
  | some r =>
    have hdone : (recDone m r).cmds = m.cmds := (recDone_onDone m r).same Mod.cmds fun _ _ => rfl
    have hc := (progMod_progStep (recDone m r) r).cmds
    rw [progRecord_some h, ← recordOf_lsn h]
    simp only [Completes, cmdOf, hdone, and_assoc] at hc ⊢
    exact hc

theorem cmdOf_of_filter {t : Mod} {j : Nat} (h : t.cmds = m.cmds.filter fun x => x.id != j) (k : Nat) :
    cmdOf t k = if k = j then none else cmdOf m k := by
  unfold cmdOf
  rw [h]
  split
  next hk => exact find_filter_none _ _ _ fun x hx => by simpa [hk] using hx
  next hk => exact find_filter_of _ _ _ fun x hx => by simpa using fun hj => hk ((of_decide_eq_true hx).symm.trans hj)

theorem cmdOf_progRecord (m : Mod) (lsn k : Nat) : cmdOf (progRecord m lsn) k = cmdOf m k ∨ cmdOf (progRecord m lsn) k = none := by
  rcases progRecord_cmds m lsn with h | ⟨c, -, -, h⟩
  · exact .inl (by rw [cmdOf, h, cmdOf])
  · rw [cmdOf_of_filter h]
    split
    · exact .inr rfl
    · exact .inl rfl

/-- A command of no job whose record is another one stays as it is. -/
theorem cmdOf_progRecord_keeps {c : Cmd} {l : Nat} (hc : cmdOf m c.id = some c) (hj : c.merge = none) (hl : c.lsn = some l) (hne : l ≠ lsn) :
    cmdOf (progRecord m lsn) c.id = some c := by
  rcases progRecord_cmds m lsn with h | ⟨d, hd, hwhy, h⟩
  · rw [cmdOf, h]
    exact hc
  · rw [cmdOf_of_filter h, if_neg, hc]
    intro hid
    rw [← hid, hc] at hd
    obtain rfl := Option.some.inj hd
    rcases hwhy with hwhy | hwhy
    · exact hne (Option.some.inj (hl.symm.trans hwhy))
    · simp [hj] at hwhy

/-- An insert whose record it is completes. -/
theorem cmdOf_progRecord_insert {r : LRec} {c : Cmd} {es : List SEntry} {old : List Inst} {gn : List (BitVec 128)}
    (h : recordOf m r.lsn = some r) (hredo : r.redo = .insert es old gn) (hr : r.cmd = some c.id) (hc : cmdOf m c.id = some c)
    (hl : c.lsn = some r.lsn) : cmdOf (progRecord m r.lsn) c.id = none := by
  have hdone : cmdOf (recDone m r) c.id = some c := ((recDone_onDone m r).same (cmdOf · c.id) fun _ _ => rfl).trans hc
  have hfin : progMod (recDone m r) r = finish (recDone m r) c { status := 0, count := c.count, info := c.info } := by
    simp only [progMod, hredo, finishRec, hr, Option.bind_some, hdone, hl, if_true]
  rw [progRecord_some h, hfin]
  exact cmdOf_finish ..

/-! All the records of a group. -/

theorem progRecords_keepsCount (ls : List Nat) (m : Mod) : KeepsCount m (ls.foldl progRecord m) := .foldl progRecord_keepsCount ls m

theorem progRecords_lsns (ls : List Nat) (m : Mod) : lsns (ls.foldl progRecord m) = lsns m := by
  induction ls generalizing m with
  | nil => rfl
  | cons l ls ih => exact (ih _).trans (progRecord_lsns m l)

theorem recordOf_progRecords (ls : List Nat) (m : Mod) (k : Nat) : recordOf (ls.foldl progRecord m) k =
    (recordOf m k).map fun x => if k ∈ ls then { x with prog := some (now m) } else x := by
  induction ls generalizing m with
  | nil => simp
  | cons l ls ih =>
    have hnow : now (progRecord m l) = now m := (progRecord_onProgrammed m l).same now fun _ _ => rfl
    rw [List.foldl_cons, ih, recordOf_progRecord, hnow, Option.map_map]
    congr 1
    funext x
    by_cases hk : k = l <;> by_cases hks : k ∈ ls <;> simp [hk, hks]

theorem cmdOf_progRecords (ls : List Nat) (m : Mod) (k : Nat) :
    cmdOf (ls.foldl progRecord m) k = cmdOf m k ∨ cmdOf (ls.foldl progRecord m) k = none := by
  induction ls generalizing m with
  | nil => exact .inl rfl
  | cons l ls ih =>
    rcases ih (progRecord m l) with h | h
    · rcases cmdOf_progRecord m l k with g | g
      · exact .inl (h.trans g)
      · exact .inr (h.trans g)
    · exact .inr h

theorem cmdOf_progRecords_keeps {c : Cmd} {l : Nat} {ls : List Nat} (hc : cmdOf m c.id = some c) (hj : c.merge = none) (hl : c.lsn = some l)
    (hls : l ∉ ls) : cmdOf (ls.foldl progRecord m) c.id = some c := by
  induction ls generalizing m with
  | nil => exact hc
  | cons k ls ih =>
    obtain ⟨hne, hls⟩ := not_or.1 (mt List.mem_cons.2 hls)
    exact ih (cmdOf_progRecord_keeps hc hj hl hne) hls

theorem cmdOf_progRecords_insert {r : LRec} {c : Cmd} {es : List SEntry} {old : List Inst} {gn : List (BitVec 128)} {ls : List Nat}
    (h : recordOf m r.lsn = some r) (hredo : r.redo = .insert es old gn) (hr : r.cmd = some c.id)
    (hc : cmdOf m c.id = some c ∨ cmdOf m c.id = none) (hl : c.lsn = some r.lsn) (hls : r.lsn ∈ ls) :
    cmdOf (ls.foldl progRecord m) c.id = none := by
  have stays (t : Mod) (ls : List Nat) (ht : cmdOf t c.id = none) : cmdOf (ls.foldl progRecord t) c.id = none :=
    (cmdOf_progRecords ls t c.id).elim (·.trans ht) id
  induction ls generalizing m with
  | nil => exact absurd hls List.not_mem_nil
  | cons k ls ih =>
    rcases hc with hc | hc
    · by_cases hk : r.lsn = k
      · exact stays _ ls (hk ▸ cmdOf_progRecord_insert h hredo hr hc hl)
      · refine ih ?_ ?_ ((List.mem_cons.1 hls).resolve_left hk)
        · rw [recordOf_progRecord, h, Option.map_some, if_neg hk]
        · exact (cmdOf_progRecord m k c.id).imp_left (·.trans hc)
    · exact stays m (k :: ls) hc

/-! GROUP_PROGRAMMED (R514, R517). -/

/-- The module with group `g` programmed. -/
def withGroup (m : Mod) (g : Nat) : Mod :=
  { m with ledger := { m.ledger with groups := mapIf (fun x => x.no = g) (fun x => { x with prog := true }) m.ledger.groups } }

/-- The module with group `g` programmed and counted, its copies in the ledger zone (R445). -/
def groupCounted (m : Mod) (g : Nat) : Mod :=
  let t := bump (withGroup m g) ldgP 0x50
  (t.ledger.groups.filter fun x => x.no = g).foldl (fun m x => zoneCopies (countGroup m x) x) t

/-- The lsns of the records that count as programmed, in order (R514). -/
def readyLsns (m : Mod) : List Nat :=
  let n := progPrefix m.ledger
  sortBy (fun a b => decide (a < b))
    ((m.ledger.records.filter fun r => r.prog.isNone && (match r.group with | some g => decide (g < n) | none => false)).map (·.lsn))

/-- What programming a group takes beside its records: the ledger zone, and counters. -/
def onZone : Portion :=
  ⟨fun m t => { m with regs := t.regs, ledger := { m.ledger with zone := t.ledger.zone, zoneSeq := t.ledger.zoneSeq } },
    fun _ => rfl, fun _ _ _ => rfl⟩

theorem groupProgrammedOp_eq {g : Nat} (h : (m.ledger.groups.any fun x => x.no = g && x.sent && !x.prog) = true) :
    groupProgrammedOp m g = enterRing 256 ((readyLsns (groupCounted m g)).foldl progRecord (groupCounted m g)) := by
  unfold groupProgrammedOp
  exact if_pos h

theorem zoneCopies_spec (m : Mod) (x : Group) : onZone.Only m (zoneCopies m x) ∧ KeepsCount m (zoneCopies m x) := by
  have hz : ∃ z k, zoneCopies m x = { m with ledger := { m.ledger with zone := z, zoneSeq := k } } := ⟨_, _, rfl⟩
  obtain ⟨z, k, hz⟩ := hz
  rw [hz]
  exact ⟨rfl, rfl⟩

theorem countGroup_spec (m : Mod) (x : Group) : onRegs.Only m (countGroup m x) ∧ KeepsCount m (countGroup m x) := by
  unfold countGroup
  extract_lets n
  exact ⟨(bump_only m ⟨4, .flc, x.ch⟩ 0x50 n).trans (bump_only ..), (bump_flc_keepsCount m x.ch n).trans (bump_flc_keepsCount ..)⟩

/-- One group of that number, counted and copied to the zone. -/
theorem zoneGroup_spec (m : Mod) (x : Group) :
    onZone.Only m (zoneCopies (countGroup m x) x) ∧ KeepsCount m (zoneCopies (countGroup m x) x) := by
  obtain ⟨honly, hcount⟩ := countGroup_spec m x
  obtain ⟨hzone, hkeep⟩ := zoneCopies_spec (countGroup m x) x
  exact ⟨(honly.widen fun _ _ => rfl).trans hzone, hcount.trans hkeep⟩

theorem groupCounted_onZone (m : Mod) (g : Nat) : onZone.Only (withGroup m g) (groupCounted m g) :=
  ((bump_only (withGroup m g) ldgP 0x50 1).widen fun _ _ => rfl).trans (.foldl (fun t x => (zoneGroup_spec t x).1) _ _)

theorem groupCounted_count (m : Mod) (g : Nat) : regN (groupCounted m g) ldgP 0x50 = min (regN m ldgP 0x50 + 1) 0xFFFFFFFF := by
  have hall : KeepsCount (bump (withGroup m g) ldgP 0x50) (groupCounted m g) := .foldl (fun t x => (zoneGroup_spec t x).2) _ _
  exact (congrArg BitVec.toNat hall).trans (regN_bump (withGroup m g) ldgP 0x50 1)

theorem mem_readyLsns {l : Nat} : l ∈ readyLsns m ↔
    ∃ r ∈ m.ledger.records, (r.prog = none ∧ ∃ k, r.group = some k ∧ k < progPrefix m.ledger) ∧ r.lsn = l := by
  unfold readyLsns
  dsimp only
  rw [mem_sortBy, List.mem_map]
  refine exists_congr fun r => ?_
  rw [List.mem_filter, and_assoc]
  refine and_congr_right fun _ => and_congr_left fun _ => ?_
  cases r.group <;> simp

end

end Sys2Proof.Proofs

/-! The ledger's groups and images (R445, R446, R513 to R517). -/

namespace Sys2Proof.Proofs

open Sys2Proof Sys2Proof.Machine Sys2Proof.Laws

section
variable {m t : Mod}

theorem recordOf_of_mem {r : LRec} (h : ledgerOrdered m.ledger) (hr : r ∈ m.ledger.records) : recordOf m r.lsn = some r := by
  have hinj := List.inj_on_of_nodup_map (List.pairwise_map.2 (h.2.imp Nat.ne_of_lt))
  obtain ⟨x, hx⟩ := Option.isSome_iff_exists.1 (List.find?_isSome (p := fun x => decide (x.lsn = r.lsn)) |>.2 ⟨r, hr, decide_eq_true rfl⟩)
  exact hx.trans (congrArg some (hinj (List.mem_of_find?_eq_some hx) hr (recordOf_lsn hx)))

/-- Records that stay but for how far they have entered the ring are found as they were. -/
theorem recordOf_recContent (h : t.ledger.records.map recContent = m.ledger.records.map recContent) (k : Nat) :
    (recordOf t k).map recContent = (recordOf m k).map recContent := by
  have hfind (l : List LRec) : (l.find? fun r => r.lsn = k).map recContent = (l.map recContent).find? fun r => r.lsn = k := by
    rw [List.find?_map]
    rfl
  rw [recordOf, hfind, h, ← hfind, recordOf]

/-- A record counts as programmed once group `g` is (R514). -/
def ReadyIn (m : Mod) (g : Nat) (r : LRec) : Prop := r.prog = none ∧ ∃ k, r.group = some k ∧ k < progPrefix (withGroup m g).ledger

theorem groupCounted_ready {g l : Nat} : l ∈ readyLsns (groupCounted m g) ↔ ∃ r ∈ m.ledger.records, ReadyIn m g r ∧ r.lsn = l := by
  have hrec : (groupCounted m g).ledger.records = m.ledger.records := (groupCounted_onZone m g).same (·.ledger.records) fun _ _ => rfl
  have hpre : progPrefix (groupCounted m g).ledger = progPrefix (withGroup m g).ledger :=
    (groupCounted_onZone m g).same (progPrefix ·.ledger) fun _ _ => rfl
  rw [mem_readyLsns, hrec, hpre]
  rfl

variable {g : Nat} (ho : ledgerOrdered m.ledger)
include ho

/-- A record's lsn is among those that a group programs if and only if the record is. -/
theorem groupCounted_ready_of_mem {r : LRec} (hr : r ∈ m.ledger.records) : r.lsn ∈ readyLsns (groupCounted m g) ↔ ReadyIn m g r := by
  rw [groupCounted_ready]
  refine ⟨fun ⟨x, hx, hready, hl⟩ => ?_, fun hready => ⟨r, hr, hready, rfl⟩⟩
  have hrx := recordOf_of_mem ho hx
  rw [hl, recordOf_of_mem ho hr] at hrx
  exact Option.some.inj hrx ▸ hready

/-- The record of an lsn once a group is programmed and the ring has taken what waits. -/
theorem groupProgrammed_record {r : LRec} (hr : r ∈ m.ledger.records) :
    let t := enterRing 256 ((readyLsns (groupCounted m g)).foldl progRecord (groupCounted m g))
    ∃ x ∈ t.ledger.records, x.lsn = r.lsn ∧ x.prog = if r.lsn ∈ readyLsns (groupCounted m g) then some (now m) else r.prog := by
  intro t
  have hnow : now (groupCounted m g) = now m := (groupCounted_onZone m g).same now fun _ _ => rfl
  have hfound : recordOf (groupCounted m g) r.lsn = some r :=
    ((groupCounted_onZone m g).same (recordOf · r.lsn) fun _ _ => rfl).trans (recordOf_of_mem ho hr)
  have hrise : lsnsRise ((readyLsns (groupCounted m g)).foldl progRecord (groupCounted m g)) := by
    have hl : lsns (groupCounted m g) = lsns m := (groupCounted_onZone m g).same lsns fun _ _ => rfl
    show (lsns _).Pairwise _
    rw [progRecords_lsns, hl]
    exact List.pairwise_map.2 ho.2
  have hkeep := recordOf_recContent (enterRing_keepsRecords 256 hrise).2.2 r.lsn
  rw [recordOf_progRecords, hfound, hnow] at hkeep
  obtain ⟨x, hx, hxr⟩ := Option.map_eq_some_iff.1 hkeep
  refine ⟨x, List.mem_of_find?_eq_some hx, recordOf_lsn hx, ?_⟩
  have hprog : (recContent x).prog = _ := congrArg LRec.prog hxr
  refine (hprog : x.prog = _).trans ?_
  dsimp only
  split <;> rfl

end

/-! Images (R446). -/

/-- What credit a step draws takes. -/
def onCredit : Portion := ⟨fun m t => { m with pwr := t.pwr, adm := t.adm }, fun _ => rfl, fun _ _ _ => rfl⟩

/-- What an image refresh of a shard takes. -/
def onCharged : Portion := ⟨fun m t => { m with ledger := t.ledger, pwr := t.pwr, adm := t.adm }, fun _ => rfl, fun _ _ _ => rfl⟩

theorem draw_onCredit (m : Mod) (cls as' : Nat) (cost : List Nat) : onCredit.Only m (draw m cls as' cost) := rfl

section
variable (m : Mod)

/-- An image set: it is the shard's, and every other shard keeps its own. -/
theorem setImage_spec (i : ShardImage) : onLedger.Only m (setImage m i) ∧ imageOf (setImage m i).ledger i.coll = i ∧
    ∀ k, k ≠ i.coll → imageOf (setImage m i).ledger k = imageOf m.ledger k := by
  have hring : onRing.Only _ (setImage m i) := enterRing_onRing _ 256
  have himg : (setImage m i).ledger.images = i :: m.ledger.images.filter fun x => x.coll != i.coll :=
    hring.same (·.ledger.images) fun _ _ => rfl
  refine ⟨.trans (by exact rfl) (enterRing_onLedger _ 256), ?_, fun k hk => ?_⟩
  · simp [imageOf, himg]
  · rw [imageOf, himg, List.find?_cons_of_neg (by simpa using hk.symm), imageOf]
    rw [find_filter_of]
    intro x hx
    simpa [of_decide_eq_true hx] using hk

/-- Table images leave the map, the shards, the ledger and every byte as they are. -/
theorem refreshTables_spec : ReadsSame m (refreshTables m) ∧ (refreshTables m).mem.map = m.mem.map ∧ (refreshTables m).colls = m.colls ∧
    (refreshTables m).ledger = m.ledger := ⟨fun _ => rfl, rfl, rfl, rfl⟩

variable {m} {coll : Nat}

theorem imageRefreshOp_waits (h : resetting m = true ∨ m.ledger.last ≤ (imageOf m.ledger coll).lsn ∨ bulkMay m 0#512 = false) :
    imageRefreshOp m coll = m := by
  refine if_pos ?_
  rcases h with h | h | h <;> simp [h]

theorem imageRefreshOp_eq (hr : resetting m = false) (hl : (imageOf m.ledger coll).lsn < m.ledger.last) (hb : bulkMay m 0#512 = true)
    (hc : coll = 0 ∨ (shardOf m coll).isSome = true) : imageRefreshOp m coll =
      if coll = 0 then setImage (refreshTables (draw m 3 3 (stepCostOf 0#512))) ⟨0, m.ledger.last, none⟩
      else setImage (draw m 3 3 (stepCostOf 0#512)) ⟨coll, m.ledger.last, shardFrom m.ledger coll⟩ := by
  refine if_neg ?_
  rcases hc with rfl | h
  · simp [hr, hb, hl]
  · simp [hr, hb, hl, Option.ne_none_iff_isSome.2 h]

end

/-- Settles O35: the ring's bound holds with each part that enters, and a group programs the records of its prefix, each with its command. -/
theorem ledgerGroupsCarryRecordsToFlash : Obligations.LedgerGroupsCarryRecordsToFlash := by
  intro s healthy
  refine ⟨?ring, fun h => ?closeNone, fun g hg => ?close, fun g => ?fail, fun g ho hany => ?programmed, fun coll h => ?waits,
    fun coll hr hl hb => ⟨fun h0 => ?tables, fun hne hs => ?shard⟩⟩
  case ring =>
    exact (gives_iff rfl _).2 ⟨enterRing_lsns .., enterRing_unprogBytes 256, enterRing_onLedger ..⟩
  case closeNone =>
    exact (gives_iff rfl fun t => t = s.mod).2 (by simp only [closeGroup, h])
  case close =>
    have hclose : closeGroup s.mod = { s.mod with ledger := { s.mod.ledger with
        groups := s.mod.ledger.groups ++ [{ g with
          sent := true, ch := healthyPair (badChannels s.mod) s.mod.ledger.ch, mark := releaseMark s.mod, tick := now s.mod }]
        openG := none, ch := (healthyPair (badChannels s.mod) s.mod.ledger.ch + 1) % 32 } } := by simp only [closeGroup, hg]
    refine (gives_iff rfl _).2 ?_
    rw [hclose]
    exact ⟨rfl, ⟨_, rfl, rfl, rfl, rfl, rfl, rfl, rfl, rfl, fun ⟨_, hk⟩ => healthyPair_spec _ hk⟩, rfl, rfl⟩
  case fail =>
    refine (gives_iff rfl _).2 ?_
    refine ⟨rfl, ?_, fun ⟨_, hk⟩ x hx hno hsent hprog => ?_, rfl⟩
    · show (mapIf _ _ _).map _ = _
      rw [mapIf, List.map_map]
      exact List.map_congr_left fun x _ => by dsimp only [Function.comp]; split <;> rfl
    · obtain ⟨y, -, hy⟩ := List.mem_map.1 hx
      split at hy
      · exact hy ▸ healthyPair_spec _ hk
      next hsel => exact absurd (by simp [hy, hno, hsent, hprog]) hsel
  case programmed =>
    intro gs ready
    have hpre : progPrefix (withGroup s.mod g).ledger = progPrefix { s.mod.ledger with groups := gs } := by simp [withGroup, mapIf, gs]
    have hready {r : LRec} (hr : r ∈ s.mod.ledger.records) : r.lsn ∈ readyLsns (groupCounted s.mod g) ↔ ready r :=
      (groupCounted_ready_of_mem ho hr).trans (by rw [ReadyIn, hpre])
    have hcmd (k : Nat) : cmdOf (groupCounted s.mod g) k = cmdOf s.mod k := (groupCounted_onZone s.mod g).same (cmdOf · k) fun _ _ => rfl
    have hring (t : Mod) (k : Nat) : cmdOf (enterRing 256 t) k = cmdOf t k := (enterRing_onRing t 256).same (cmdOf · k) fun _ _ => rfl
    refine (gives_iff rfl _).2 ?_
    rw [groupProgrammedOp_eq hany]
    refine ⟨?_, fun r hr h => ?_, fun r hr h => ?_, fun r es old gn c hr h hredo hrc hc hl => ?_, fun c l hc hj hl h => ?_⟩
    · have hcount := (progRecords_keepsCount (readyLsns (groupCounted s.mod g)) (groupCounted s.mod g))
      have hregs := (enterRing_onRing ((readyLsns (groupCounted s.mod g)).foldl progRecord (groupCounted s.mod g)) 256).same
        (regN · ldgP 0x50) fun _ _ => rfl
      exact (hregs.trans (congrArg BitVec.toNat hcount)).trans (groupCounted_count ..)
    · obtain ⟨x, hx, hlsn, hprog⟩ := groupProgrammed_record (g := g) ho hr
      exact ⟨x, hx, hlsn, hprog.trans (if_pos ((hready hr).2 h))⟩
    · obtain ⟨x, hx, hlsn, hprog⟩ := groupProgrammed_record (g := g) ho hr
      exact ⟨x, hx, hlsn, hprog.trans (if_neg (mt (hready hr).1 h))⟩
    · have hfound : recordOf (groupCounted s.mod g) r.lsn = some r :=
        ((groupCounted_onZone s.mod g).same (recordOf · r.lsn) fun _ _ => rfl).trans (recordOf_of_mem ho hr)
      exact (hring ..).trans (cmdOf_progRecords_insert hfound hredo hrc (.inl ((hcmd _).trans hc)) hl ((hready hr).2 h))
    · refine (hring ..).trans (cmdOf_progRecords_keeps ((hcmd _).trans hc) hj hl fun hls => ?_)
      obtain ⟨r, hr, -, rfl⟩ := groupCounted_ready.1 hls
      exact h r hr rfl ((hready hr).1 hls)
  case waits =>
    exact (gives_iff rfl fun t => t = s.mod).2 (imageRefreshOp_waits h)
  case tables =>
    subst h0
    let d := draw s.mod 3 3 (stepCostOf 0#512)
    have hd : onCredit.Only s.mod d := draw_onCredit ..
    obtain ⟨hreads, hmap, hcolls, -⟩ := refreshTables_spec d
    obtain ⟨honly, himg, -⟩ := setImage_spec (refreshTables d) ⟨0, s.mod.ledger.last, none⟩
    refine (gives_iff rfl _).2 ?_
    rw [imageRefreshOp_eq hr hl hb (.inl rfl), if_pos rfl]
    refine ⟨himg, fun a => ?_, ?_, ?_⟩
    · exact ((honly.same (readByte · a) fun _ _ => rfl).trans (hreads a)).trans (hd.same (readByte · a) fun _ _ => rfl)
    · exact ((honly.same (·.mem.map) fun _ _ => rfl).trans hmap).trans (hd.same (·.mem.map) fun _ _ => rfl)
    · exact ((honly.same (·.colls) fun _ _ => rfl).trans hcolls).trans (hd.same (·.colls) fun _ _ => rfl)
  case shard =>
    let d := draw s.mod 3 3 (stepCostOf 0#512)
    have hd : onCredit.Only s.mod d := draw_onCredit ..
    have hledger : d.ledger = s.mod.ledger := hd.same (·.ledger) fun _ _ => rfl
    obtain ⟨honly, himg, hrest⟩ := setImage_spec d ⟨coll, s.mod.ledger.last, shardFrom s.mod.ledger coll⟩
    refine (gives_iff rfl _).2 ?_
    rw [imageRefreshOp_eq hr hl hb (.inr hs), if_neg hne]
    exact ⟨himg, fun k hk => (hrest k hk).trans (by rw [hledger]), (hd.widen (q := onCharged) fun _ _ => rfl).trans (honly.widen fun _ _ => rfl)⟩

end Sys2Proof.Proofs

/-! The write buffer in front of flash (R442, R451): its oldest entry of a unit programmed. -/

namespace Sys2Proof.Proofs

open Sys2Proof Sys2Proof.Machine Sys2Proof.Laws

/-! The oldest entry of a unit. -/

section
variable {w : WbEnt} {pre post : List WbEnt}

/-- The oldest entry of a unit gives a granule where no other entry holds it. -/
theorem wbLook_oldest (hpre : ∀ e ∈ pre, e.unit ≠ w.unit) (a : Nat) :
    wbLook (pre ++ w :: post) a = (wbLook (pre ++ post) a).or (entLook w a) := by
  rw [wbLook_append, wbLook_append, wbLook]
  by_cases hu : w.unit = a / 4096
  · have hnone : wbLook pre a = none := wbLook_none (List.any_eq_false.2 fun e he => by simpa [hu] using hpre e he)
    rw [hnone, Option.or_none, Option.or_none]
  · rw [entLook_ne hu, Option.or_none, Option.or_none]

/-- An entry is taken from the buffer by its arrival number. -/
theorem filter_seq_ne (h : ((pre ++ w :: post).map (·.seq)).Nodup) : ((pre ++ w :: post).filter fun x => x.seq != w.seq) = pre ++ post := by
  have hnot : ∀ x ∈ pre ++ post, x.seq ≠ w.seq := by
    rw [List.map_append, List.map_cons, List.nodup_middle, ← List.map_append, List.nodup_cons] at h
    exact fun x hx hs => h.1 (List.mem_map.2 ⟨x, hx, hs⟩)
  rw [List.filter_append, List.filter_cons_of_neg (by simp), ← List.filter_append, List.filter_eq_self]
  simpa using hnot

end

/-! What programming it leaves. -/

section
variable {m t : Mod}

/-- The bench of a page. -/
def benchOf (m : Mod) (q : Nat) : Option Nat := (pageEnt m q).map (·.bench)

theorem readByte_of_bench {a : Nat} (hb : benchOf t (pageNo a) = benchOf m (pageNo a)) (hc : t.mem.cells = m.mem.cells)
    (hf : benchOf m (pageNo a) = some 2 → flashByte t a = flashByte m a) : readByte t a = readByte m a := by
  unfold benchOf at hb hf
  rw [readByte_eq, readByte_eq, hc]
  cases hm : pageEnt m (pageNo a) with
  | none =>
    rw [hm, Option.map_none, Option.map_eq_none_iff] at hb
    rw [hb, byteIn_none, byteIn_none]
  | some e =>
    rw [hm, Option.map_some, Option.map_eq_some_iff] at hb
    obtain ⟨f, hfe, hbench⟩ := hb
    rw [hfe, byteIn_some, byteIn_some, hbench]
    split
    next h2 => exact hf (by rw [hm, Option.map_some, h2])
    · rfl

theorem benchOf_setEnt {e f : PageEnt} (h : pageEnt m e.page = some f) (hb : e.bench = f.bench) (q : Nat) :
    benchOf (setEnt m e) q = benchOf m q := by
  unfold benchOf
  rw [pageEnt_setEnt]
  split
  next hq => rw [hq, h, Option.map_some, Option.map_some, hb]
  · rfl

/-- A page handed to another channel keeps its bench. -/
theorem rehome_benchOf {e : PageEnt} (he : pageEnt m e.page = some e) :
    (∃ regs map, rehome m e = { m with regs := regs, mem := { m.mem with map := map } }) ∧
    ∀ q, benchOf (rehome m e) q = benchOf m q := by
  unfold rehome
  split
  · exact ⟨⟨_, _, rfl⟩, fun _ => rfl⟩
  · split
    next l _ => exact ⟨⟨_, _, rfl⟩, fun q => benchOf_setEnt (e := { e with loc := l }) he rfl q⟩
    · exact ⟨⟨_, _, rfl⟩, fun _ => rfl⟩

/-- An entry of a page that is mapped: its unit takes its granules. -/
theorem programEnt_mapped {w : WbEnt} {e : PageEnt} (he : pageEnt m (w.unit / 16) = some e) :
    (∃ regs map, programEnt m w = { m with regs := regs, mem := { m.mem with
        map := map, flash := putUnit m.mem.flash (encipher m w.unit (mergedUnit m w)), wb := m.mem.wb.filter fun x => x.seq != w.seq } }) ∧
      ∀ q, benchOf (programEnt m w) q = benchOf m q := by
  obtain ⟨ch, hp⟩ := programEnt_of he
  have hpage : pageEnt (takeEnt m w) e.page = some e := (pageEnt_page he).symm ▸ he
  obtain ⟨⟨regs, map, hr⟩, hbench⟩ := rehome_benchOf hpage
  obtain ⟨regs', hu⟩ := programUnit_eq (rehome (takeEnt m w) e) w ch
  rw [hp, hu]
  refine ⟨⟨regs', map, ?_⟩, hbench⟩
  rw [hr]
  rfl

/-- An entry of a page that is gone is dropped. -/
theorem programEnt_unmapped {w : WbEnt} (he : pageEnt m (w.unit / 16) = none) : programEnt m w = takeEnt m w := by
  have he' : pageEnt (takeEnt m w) (w.unit / 16) = none := he
  unfold programEnt
  extract_lets pg mem₁ m₁
  change pageEnt m₁ pg = none at he'
  rw [he']
  rfl

theorem unitByte_mergedUnit {w : WbEnt} {a : Nat} (hw : (w.gran.map (·.1)).Nodup) (hu : w.unit = a / 4096) :
    unitByte (mergedUnit m w) (a % 4096) =
      (entLook w a).elim (unitByte (flashUnit m (a / 4096)) (a % 4096)) (·.getD (a % 32) 0#8) := by
  rw [mergedUnit, unitByte_foldl_unitPut _ _ _ (Nat.mod_lt _ (by decide)) hw, entLook, if_pos hu, hu,
    show a % 4096 % 32 = a % 32 by omega]
  cases granIn w.gran (a % 4096 / 32) <;> rfl

variable {w : WbEnt} {pre post : List WbEnt} (hwb : m.mem.wb = pre ++ w :: post) (hpre : ∀ e ∈ pre, e.unit ≠ w.unit) (hs : wbSound m.mem.wb)
include hwb hpre hs

/-- Programming the oldest entry of a unit changes no byte (R442). -/
theorem programEnt_readsSame : ReadsSame m (programEnt m w) ∧
    (programEnt m w).mem.wb = m.mem.wb.filter (fun x => x.seq != w.seq) ∧ (programEnt m w).mem.cells = m.mem.cells := by
  have hrest : (m.mem.wb.filter fun x => x.seq != w.seq) = pre ++ post := by
    rw [hwb] at hs ⊢
    exact filter_seq_ne hs.1
  have hlook (a : Nat) : wbLook m.mem.wb a = (wbLook (m.mem.wb.filter fun x => x.seq != w.seq) a).or (entLook w a) := by
    rw [hrest, hwb]
    exact wbLook_oldest hpre a
  obtain ⟨hgran, -⟩ := hs.2 w (by rw [hwb]; simp)
  cases he : pageEnt m (w.unit / 16) with
  | none =>
    rw [programEnt_unmapped he]
    refine ⟨fun a => readByte_of_bench rfl rfl fun hb => ?_, rfl, rfl⟩
    have hu : w.unit ≠ a / 4096 := by
      rintro hu
      rw [hu, unit_page] at he
      simp [benchOf, he] at hb
    have hw : wbLook (takeEnt m w).mem.wb a = wbLook m.mem.wb a := by
      rw [hlook, entLook_ne hu, Option.or_none]
      rfl
    unfold flashByte
    rw [hw]
    rfl
  | some e =>
    obtain ⟨⟨regs, map, ht⟩, hbench⟩ := programEnt_mapped he
    generalize programEnt m w = t at ht hbench
    have hwb' : t.mem.wb = m.mem.wb.filter fun x => x.seq != w.seq := by rw [ht]
    have hflash : t.mem.flash = putUnit m.mem.flash (encipher m w.unit (mergedUnit m w)) := by rw [ht]
    refine ⟨fun a => readByte_of_bench (hbench _) (by rw [ht]) fun _ => ?_, hwb', by rw [ht]⟩
    unfold flashByte
    rw [hwb', hlook, flashUnit_program w.unit _ _ (by rw [ht]) hflash]
    cases wbLook (m.mem.wb.filter fun x => x.seq != w.seq) a with
    | some g => rfl
    | none =>
      rw [Option.none_or]
      by_cases hu : w.unit = a / 4096
      · rw [if_pos hu.symm, unitByte_mergedUnit hgran hu]
        cases entLook w a <;> rfl
      · rw [if_neg (Ne.symm hu), entLook_ne hu]

end

end Sys2Proof.Proofs

/-! Flash channels, the images of pages with their parity groups, and host pages freed (R422, R428, R447, R451, R452). -/

namespace Sys2Proof.Proofs

open Sys2Proof Sys2Proof.Machine Sys2Proof.Laws

section
variable {m t : Mod}

/-! Channels that fail (R451, R452). -/

theorem chanOf_setChan {ch : Nat} (h : ch < m.mem.channels.length) (c : FlashCh) (k : Nat) :
    chanOf (setChan m ch c) k = if k = ch then c else chanOf m k := by
  simp only [chanOf, setChan, List.getD_eq_getElem?_getD, List.getElem?_set]
  by_cases hk : k = ch
  · simp [hk, h]
  · simp [hk, Ne.symm hk]

/-- A channel with one more bad block, at a wear in percent (R451). -/
def wornChan (c : FlashCh) (wear : Nat) : FlashCh :=
  let spent := min (c.spare + 1) Config.spareBlocks
  { c with wear := max c.wear wear, bad := c.bad + 1, spare := spent, st := if Config.spareBlocks ≤ spent then 2 else c.st }

theorem blockFail_onRegs {ch : Nat} (hch : ch < 32) (hst : (chanOf m ch).st < 2) (wear : Nat) :
    onRegs.Only (setChan m ch (wornChan (chanOf m ch) wear)) (blockFail m ch wear) := by
  have hgo : ¬ (decide (32 ≤ ch) || decide (2 ≤ (chanOf m ch).st)) = true := by simp; omega
  unfold blockFail
  extract_lets c c₁ c₂ t
  have hc : c₂ = wornChan c wear := by
    show (if _ then _ else c₁ : FlashCh) = _
    simp only [wornChan, c₁]
    split <;> rfl
  rw [if_neg hgo, ← hc]
  exact .ite (pend_only ..) (.refl ..)

/-- A location in flash is picked on a channel that takes pages. -/
theorem pickLoc_flash {l : Nat} (h : pickLoc m 2 none = some l) : (chanOf m l).st < 2 := by
  have h : (if freeB2 m = 0 then none else ((upto 32).map fun i => (m.mem.rot + i) % 32).find? fun c => decide ((chanOf m c).st < 2)) = some l := h
  split at h
  · contradiction
  · simpa using List.find?_some h

/-- The pages of `t` are those of `m`, moved if at all to channels that take pages. -/
structure Rehomed (m t : Mod) : Prop where
  channels : t.mem.channels = m.mem.channels
  pages : ∀ e ∈ t.mem.map, ∃ x ∈ m.mem.map, e = { x with loc := e.loc } ∧ (e.loc = x.loc ∨ (chanOf m e.loc).st < 2)

/-- A page of a failed channel handed to another one, where one takes it (R452). -/
def handOver (m : Mod) (e : PageEnt) : Mod :=
  match pickLoc m 2 none with
  | some l => setEnt { m with mem := { m.mem with rot := (l + 1) % 32 } } { e with loc := l }
  | none => m

theorem Rehomed.handOver (h : Rehomed m t) {e : PageEnt} (he : e ∈ m.mem.map) : Rehomed m (handOver t e) := by
  unfold Proofs.handOver
  split
  next l hl =>
    refine ⟨h.channels, fun x hx => ?_⟩
    rcases (mem_insertBy ..).1 hx with rfl | hx
    · refine ⟨e, he, rfl, .inr ?_⟩
      have hc : chanOf t l = chanOf m l := by rw [chanOf, h.channels, chanOf]
      exact hc ▸ pickLoc_flash hl
    · exact h.pages x (List.mem_filter.1 hx).1
  · exact h

theorem Rehomed.foldl {l : List PageEnt} (hl : ∀ e ∈ l, e ∈ m.mem.map) (h : Rehomed m t) : Rehomed m (l.foldl Proofs.handOver t) := by
  induction l generalizing t with
  | nil => exact h
  | cons e l ih => exact ih (fun x hx => hl x (List.mem_cons_of_mem _ hx)) (h.handOver (hl e List.mem_cons_self))

/-- The module with a channel failed and its images rebuilt on others (R452). -/
def channelOut (m : Mod) (ch : Nat) : Mod :=
  let t := setChan m ch { chanOf m ch with st := 3 }
  { t with mem := { t.mem with groups := t.mem.groups.map (regroup t ch) } }

theorem channelFail_rehomed {ch : Nat} (hch : ch < 32) (hst : (chanOf m ch).st ≠ 3) : Rehomed (channelOut m ch) (channelFail m ch) := by
  have heq : channelFail m ch = ((channelOut m ch).mem.map.filter fun e => e.bench = 2 && e.loc = ch && !inHostWin (e.page * pageSize)).foldl
      handOver (channelOut m ch) := by
    unfold channelFail
    exact if_neg (by simp [hst]; omega)
  rw [heq]
  exact .foldl (fun e he => (List.mem_filter.1 he).1) ⟨rfl, fun e he => ⟨e, he, rfl, .inl rfl⟩⟩

/-! Host pages freed (R428). -/

theorem freePage_spec (m : Mod) (pg : Nat) : pageEnt (freePage m pg) pg = none ∧ (∀ q, q ≠ pg → pageEnt (freePage m pg) q = pageEnt m q) ∧
    ∀ a, pageNo a = pg → readByte (freePage m pg) a = 0#8 := by
  have hpage (q : Nat) : pageEnt (freePage m pg) q = if q = pg then none else pageEnt m q := by
    unfold freePage
    extract_lets ls
    have hlink : onLink.Only m (ls.foldl (fun m l => addRecall m l.line 0 .freed) m) := .foldl (fun _ _ => addRecall_onLink ..) _ m
    rw [pageEnt_dropPage, hlink.same (pageEnt · q) fun _ _ => rfl]
  have hgone : pageEnt (freePage m pg) pg = none := (hpage pg).trans (if_pos rfl)
  exact ⟨hgone, fun q hq => (hpage q).trans (if_neg hq), fun a ha => by rw [readByte_eq, ha, hgone, byteIn_none]⟩

end

end Sys2Proof.Proofs

/-! The images of pages in parity groups (R447), and pages rebuilt from them (R422). -/

namespace Sys2Proof.Proofs

open Sys2Proof Sys2Proof.Machine Sys2Proof.Laws

/-! Sums of units modulo two. -/

theorem xorUnits_perm {l k : List DataUnit} (h : l.Perm k) : xorUnits l = xorUnits k :=
  h.foldl_eq' (fun x _ y _ z => by rw [BitVec.xor_assoc, BitVec.xor_comm x y, ← BitVec.xor_assoc]) _

theorem xorUnits_cons (x : DataUnit) (l : List DataUnit) : xorUnits (x :: l) = x ^^^ xorUnits l := by
  have (l : List DataUnit) (a : DataUnit) : l.foldl (· ^^^ ·) a = a ^^^ xorUnits l := by
    induction l generalizing a with
    | nil => simp [xorUnits]
    | cons y l ih =>
      have hy : xorUnits (y :: l) = y ^^^ xorUnits l := (ih (0#32768 ^^^ y)).trans (by rw [BitVec.zero_xor])
      rw [List.foldl_cons, ih, hy, BitVec.xor_assoc]
  exact (this l (0#32768 ^^^ x)).trans (by rw [BitVec.zero_xor])

/-- One summand of a sum is the sum with the rest. -/
theorem xorUnits_rest {ps : List Nat} (hnd : ps.Nodup) {p : Nat} (hp : p ∈ ps) (f : Nat → DataUnit) :
    xorUnits (ps.map f) ^^^ xorUnits ((ps.filter (· != p)).map f) = f p := by
  have hperm : (ps.map f).Perm (f p :: (ps.filter (· != p)).map f) := by
    rw [← hnd.erase_eq_filter]
    exact (List.perm_cons_erase hp).map f
  rw [xorUnits_perm hperm, xorUnits_cons, BitVec.xor_assoc, BitVec.xor_self, BitVec.xor_zero]

/-! A group written (R447). -/

section
variable (m : Mod) (ps : List Nat)

/-- The image of a page as it stands, on a channel. -/
def pageImage (pg ch : Nat) : ImgPage := imgPage m pg ch fun u => pageUnit m (pg * 16 + u)

/-- The images of a group's pages, each on its channel. -/
def groupImages : List ImgPage := ((upto ps.length).zip ps).map fun x => pageImage m x.2 ((groupChans m).getD x.1 0)

/-- The parity page of a group. -/
def groupParity : ImgPage :=
  imgPage m m.mem.nextPage ((groupChans m).getD ps.length 0) fun u => xorUnits (ps.map fun pg => pageUnit m (pg * 16 + u))

theorem imageGroup_spec : (imageGroup m ps).mem.groups = ⟨groupImages m ps, groupParity m ps, ps⟩ :: dropImages m.mem.groups ps ∧
    mediaKey (imageGroup m ps) = mediaKey m := by
  let t : Mod := { m with mem := { m.mem with
    groups := ⟨groupImages m ps, groupParity m ps, ps⟩ :: dropImages m.mem.groups ps
    nextPage := m.mem.nextPage + 1, rot := (m.mem.rot + ps.length + 1) % 32 } }
  have ht : onRegs.Only t (imageGroup m ps) := .foldl (fun _ _ => bump_only ..) (groupParity m ps :: groupImages m ps) t
  exact ⟨ht.same (·.mem.groups) fun _ _ => rfl, ht.same mediaKey fun _ _ => rfl⟩

variable {m} in
/-- A unit of an image page as the module with the group reads it. -/
theorem unit_imgPage {t : Mod} (hk : mediaKey t = mediaKey m) (pg ch : Nat) (f : Nat → DataUnit) {u : Nat} (hu : u < 16) :
    ((imgPage m pg ch f).units[u]?).map (decipher t) = some (f u) := by
  have hget : (imgPage m pg ch f).units[u]? = some (encipher m (pageTweak pg u) (f u)) := by simp [imgPage, upto, hu]
  rw [hget, Option.map_some, decipher_encipher m t hk]

variable {ps}

theorem groupImages_find {pg : Nat} (hp : pg ∈ ps) : ∃ ch, (groupImages m ps).find? (fun x => x.page = pg) = some (pageImage m pg ch) := by
  have hsnd : ((upto ps.length).zip ps).map (·.2) = ps := List.map_snd_zip (by simp [upto])
  obtain ⟨x, hx, hxp⟩ := List.mem_map.1 (hsnd.symm ▸ hp)
  have hsome : ((groupImages m ps).find? fun x => x.page = pg).isSome = true :=
    List.find?_isSome.2 ⟨_, List.mem_map.2 ⟨x, hx, rfl⟩, decide_eq_true hxp⟩
  obtain ⟨y, hy⟩ := Option.isSome_iff_exists.1 hsome
  obtain ⟨z, -, rfl⟩ := List.mem_map.1 (List.mem_of_find?_eq_some hy)
  have hz : z.2 = pg := by simpa [pageImage, imgPage] using List.find?_some hy
  exact ⟨_, hz ▸ hy⟩

/-- The units of the other images of a group. -/
theorem groupImages_others {t : Mod} (hk : mediaKey t = mediaKey m) (pg : Nat) {u : Nat} (hu : u < 16) :
    ((groupImages m ps).filter fun x => x.page != pg).map (fun x => ((x.units[u]?).map (decipher t)).getD 0#32768) =
      (ps.filter (· != pg)).map fun p => pageUnit m (p * 16 + u) := by
  have hsnd : ((upto ps.length).zip ps).map (·.2) = ps := List.map_snd_zip (by simp [upto])
  conv_rhs => rw [← hsnd]
  rw [groupImages, List.filter_map, List.filter_map, List.map_map, List.map_map]
  refine List.map_congr_left fun x _ => ?_
  exact congrArg (Option.getD · _) (unit_imgPage hk x.2 _ (fun u => pageUnit m (x.2 * 16 + u)) hu)

/-- A unit of a group reads as it was written, and is rebuilt so where it alone cannot be read. -/
theorem imageGroup_unit (hnd : ps.Nodup) {pg u : Nat} (hp : pg ∈ ps) (hlt : pg < m.mem.nextPage) (hu : u < 16) :
    imageUnit (imageGroup m ps) [] pg u = some (pageUnit m (pg * 16 + u)) ∧
      imageUnit (imageGroup m ps) [(pg, u)] pg u = some (pageUnit m (pg * 16 + u)) := by
  obtain ⟨hgroups, hkey⟩ := imageGroup_spec m ps
  generalize imageGroup m ps = t at hgroups hkey
  obtain ⟨ch, hfind⟩ := groupImages_find m hp
  have hg : groupOf t pg = some ⟨groupImages m ps, groupParity m ps, ps⟩ := by
    rw [groupOf, hgroups, List.find?_cons_of_pos (by simpa using hp)]
  have hi : imgOf t pg = some (pageImage m pg ch) := by
    rw [imgOf, hg]
    exact hfind
  refine ⟨?_, ?_⟩
  · simp only [imageUnit, hg, hi, List.not_mem_nil, if_false]
    exact unit_imgPage hkey pg ch _ hu
  · have hone : (groupParity m ps :: groupImages m ps).any (fun y => y.page != pg && decide ((y.page, u) ∈ [(pg, u)])) = false := by
      refine List.any_eq_false.2 fun y _ => ?_
      by_cases hy : y.page = pg <;> simp [hy]
    have hparity : (groupParity m ps).page ≠ pg := Nat.ne_of_gt hlt
    have hrebuilt : rebuilt t ⟨groupImages m ps, groupParity m ps, ps⟩ pg u = pageUnit m (pg * 16 + u) := by
      rw [rebuilt, List.filter_cons_of_pos (by simpa using hparity), List.map_cons, groupImages_others m hkey pg hu, xorUnits_cons,
        groupParity, unit_imgPage hkey _ _ _ hu, Option.getD_some]
      exact xorUnits_rest hnd hp fun p => pageUnit m (p * 16 + u)
    unfold imageUnit
    rw [hg, hi]
    dsimp only
    rw [if_pos (List.mem_singleton.2 rfl), hone, if_neg Bool.false_ne_true, hrebuilt]

end

end Sys2Proof.Proofs

/-! A page's damaged granules rebuilt from its image (R422). -/

namespace Sys2Proof.Proofs

open Sys2Proof Sys2Proof.Machine Sys2Proof.Laws

/-- What a rebuild takes: which granules are uncorrectable, and the bytes of the stacks. -/
def onGranules : Portion := ⟨fun m t => { m with mem := { m.mem with ue := t.mem.ue, cells := t.mem.cells } }, fun _ => rfl, fun _ _ _ => rfl⟩

section
variable (m : Mod) (pg : Nat)

/-- The bytes of the granule of an address in its page's image. -/
def imageBytes (a : Nat) : List Byte := (imageGran m [] pg (a % pageSize / 32)).getD []

/-- A granule correctable again, with the image's bytes where the page stands as its image does. -/
def patchGran (clean : Bool) (m : Mod) (a : Nat) : Mod :=
  { m with mem := { m.mem with
      ue := m.mem.ue.filter (· != a), cells := if clean then cellsSet m.mem.cells a (imageBytes m pg a) else m.mem.cells } }

variable {m pg}

theorem imageGran_length {lost : List (Nat × Nat)} {i : Nat} {g : List Byte} (h : imageGran m lost pg i = some g) : g.length = 32 := by
  obtain ⟨x, -, rfl⟩ := Option.map_eq_some_iff.1 h
  simp [unitGran, upto]

/-- A page with a whole image has every granule of it. -/
theorem imageGran_isSome {x : ImgPage} (h : imgOf m pg = some x) (hx : x.units.length = 16) (a : Nat) :
    imageGran m [] pg (a % pageSize / 32) = some (imageBytes m pg a) ∧ (imageBytes m pg a).length = 32 := by
  have hlt : a % pageSize / 32 / 128 < x.units.length := by
    rw [hx]
    simp only [pageSize]
    omega
  obtain ⟨g, hg, -⟩ := Option.bind_eq_some_iff.1 h
  have hsome : imageGran m [] pg (a % pageSize / 32) = some (unitGran (decipher m x.units[a % pageSize / 32 / 128]) (a % pageSize / 32 % 128)) := by
    simp only [imageGran, imageUnit, hg, h, List.not_mem_nil, if_false, List.getElem?_eq_getElem hlt, Option.map_some]
  have hbytes : imageGran m [] pg (a % pageSize / 32) = some (imageBytes m pg a) := by rw [imageBytes, hsome, Option.getD_some]
  exact ⟨hbytes, imageGran_length hbytes⟩

theorem patchGran_onGranules (clean : Bool) (m : Mod) (a : Nat) : onGranules.Only m (patchGran pg clean m a) := rfl

/-- PAGE_REBUILD of a page of no table, from a group that reads whole. -/
theorem rebuildOp_eq {e : PageEnt} {x : ImgPage} (he : pageEnt m pg = some e) (hb : e.bench = 1) (hi : imgOf m pg = some x)
    (hx : x.units.length = 16) (hp : ∀ p ∈ m.pkgs, pg ∉ p.pages) :
    rebuildOp m pg none [] = (m.mem.ue.filter fun a => pageNo a = pg).foldl (patchGran pg e.image) m := by
  have hpkg : (m.pkgs.find? fun p => decide (pg ∈ p.pages)) = none := List.find?_eq_none.2 fun p hmem => by simpa using hp p hmem
  have hfold (l : List Nat) (t : Mod) (ht : onGranules.Only m t) : l.foldl (fun m a => match imageGran m [] pg (a % pageSize / 32) with
      | some g => if e.image then { m with mem := { m.mem with ue := m.mem.ue.filter (· != a), cells := cellsSet m.mem.cells a g } }
        else { m with mem := { m.mem with ue := m.mem.ue.filter (· != a) } }
      | none => m) t = l.foldl (patchGran pg e.image) t := by
    induction l generalizing t with
    | nil => rfl
    | cons a l ih =>
      have hg := (imageGran_isSome ((ht.same (imgOf · pg) fun _ _ => rfl).trans hi) hx a).1
      rw [List.foldl_cons, List.foldl_cons, hg, ← ih _ (ht.trans (patchGran_onGranules ..))]
      congr 1
      unfold patchGran
      cases e.image <;> rfl
  simp only [rebuildOp, he, hb, hi, hpkg]
  exact hfold _ m (.refl ..)

theorem cellGet_patchGran {clean : Bool} {b : Nat} (hb : b % 32 = 0) (hlen : (imageBytes m pg b).length = 32) (j : Nat) :
    cellGet (patchGran pg clean m b).mem.cells j =
      if clean = true ∧ j / 32 * 32 = b then (imageBytes m pg b).getD (j % 32) 0#8 else cellGet m.mem.cells j := by
  cases clean with
  | false => rfl
  | true =>
    show cellGet (cellsSet m.mem.cells b (imageBytes m pg b)) j = _
    rw [cellGet_cellsSet]
    by_cases hj : j / 32 * 32 = b
    · have hin : b ≤ j ∧ j < b + (imageBytes m pg b).length := by omega
      have hoff : j - b = j % 32 := by omega
      rw [dif_pos hin, if_pos ⟨rfl, hj⟩, List.getD_eq_getElem _ _ (by omega)]
      simp only [hoff]
    · rw [dif_neg (by omega), if_neg fun h => hj h.2]

/-- What the granules patched leave: none of them uncorrectable, every other byte as it was, theirs the image's. -/
theorem patched_spec (clean : Bool) (l : List Nat) (hl : ∀ a ∈ l, a % 32 = 0) (hlen : ∀ a ∈ l, (imageBytes m pg a).length = 32) :
    let t := l.foldl (patchGran pg clean) m
    onGranules.Only m t ∧ (∀ a ∈ t.mem.ue, a ∈ m.mem.ue ∧ a ∉ l) ∧
      (∀ j, j / 32 * 32 ∉ l → cellGet t.mem.cells j = cellGet m.mem.cells j) ∧
      (clean = true → ∀ j, j / 32 * 32 ∈ l → cellGet t.mem.cells j = (imageBytes m pg (j / 32 * 32)).getD (j % 32) 0#8) := by
  induction l generalizing m with
  | nil => exact ⟨.refl .., fun a ha => ⟨ha, List.not_mem_nil⟩, fun _ _ => rfl, fun _ _ h => absurd h List.not_mem_nil⟩
  | cons b l ih =>
    obtain ⟨honly, hue, hkept, hset⟩ := ih (m := patchGran pg clean m b) (fun a ha => hl a (List.mem_cons_of_mem _ ha))
      fun a ha => hlen a (List.mem_cons_of_mem _ ha)
    have hcell := cellGet_patchGran (m := m) (clean := clean) (hl b List.mem_cons_self) (hlen b List.mem_cons_self)
    refine ⟨(patchGran_onGranules ..).trans honly, fun a ha => ?_, fun j hj => ?_, fun hc j hj => ?_⟩
    · obtain ⟨hm, hal⟩ := hue a ha
      obtain ⟨hm, hne⟩ := List.mem_filter.1 hm
      exact ⟨hm, by simpa [hal] using hne⟩
    · obtain ⟨hjb, hjl⟩ := not_or.1 (mt List.mem_cons.2 hj)
      exact (hkept j hjl).trans ((hcell j).trans (if_neg fun h => hjb h.2))
    · by_cases hjl : j / 32 * 32 ∈ l
      · exact hset hc j hjl
      · have hjb : j / 32 * 32 = b := (List.mem_cons.1 hj).resolve_right hjl
        exact (hkept j hjl).trans ((hcell j).trans (by rw [if_pos ⟨hc, hjb⟩, hjb]))

/-- PAGE_REBUILD of a page of no table (R422): none of its granules stays uncorrectable, no other page changes, and a page that
stands as its image has its bytes. -/
theorem rebuildOp_spec {e : PageEnt} {x : ImgPage} (he : pageEnt m pg = some e) (hb : e.bench = 1) (hi : imgOf m pg = some x)
    (hx : x.units.length = 16) (hp : ∀ p ∈ m.pkgs, pg ∉ p.pages) (hal : ∀ a ∈ m.mem.ue, a % 32 = 0) :
    let t := rebuildOp m pg none []
    onGranules.Only m t ∧ (∀ a ∈ t.mem.ue, a ∈ m.mem.ue ∧ pageNo a ≠ pg) ∧ (∀ a, pageNo a ≠ pg → readByte t a = readByte m a) ∧
      (e.image = true → ∀ a ∈ m.mem.ue, pageNo a = pg → imageGran m [] pg (a % pageSize / 32) = some (readGran t a)) := by
  intro t
  let l := m.mem.ue.filter fun a => pageNo a = pg
  have hmem {a : Nat} : a ∈ l ↔ a ∈ m.mem.ue ∧ pageNo a = pg := by simp [l]
  have heq : t = l.foldl (patchGran pg e.image) m := rebuildOp_eq he hb hi hx hp
  obtain ⟨honly, hue, hkept, hset⟩ := patched_spec (m := m) (pg := pg) e.image l (fun a ha => hal a (hmem.1 ha).1)
    fun a _ => (imageGran_isSome hi hx a).2
  rw [← heq] at honly hue hkept hset
  have hent (q : Nat) : pageEnt t q = pageEnt m q := honly.same (pageEnt · q) fun _ _ => rfl
  refine ⟨honly, fun a ha => ?_, fun a ha => ?_, fun hc a ha hpa => ?_⟩
  · obtain ⟨hm, hal⟩ := hue a ha
    exact ⟨hm, fun hpg => hal (hmem.2 ⟨hm, hpg⟩)⟩
  · have hout : a / 32 * 32 ∉ l := fun h => ha ((hmem.1 h).2 ▸ (by simp only [pageNo, pageSize]; omega))
    have hflash : flashByte t a = flashByte m a := honly.same (flashByte · a) fun _ _ => rfl
    rw [readByte_eq, readByte_eq, hent, hflash, hkept a hout]
  · obtain ⟨hbytes, hlen⟩ := imageGran_isSome hi hx a
    have hgran : a / 32 * 32 = a := by have := hal a ha; omega
    rw [hbytes, readGran, readBytes, hgran]
    refine congrArg some (List.ext_getElem (by simp [hlen, upto]) fun i h₁ h₂ => ?_)
    have hi32 : i < 32 := hlen ▸ h₁
    have hbase : (a + i) / 32 * 32 = a := by omega
    have hpage : pageNo (a + i) = pg := by rw [← hpa]; simp only [pageNo, pageSize]; omega
    have hcell := hset hc (a + i) (hbase.symm ▸ hmem.2 ⟨ha, hpa⟩)
    rw [hbase, show (a + i) % 32 = i by omega, List.getD_eq_getElem _ _ h₁] at hcell
    simp [upto, readByte_eq, hpage, hent, he, hb, hcell]

end

end Sys2Proof.Proofs

/-! The sector-add service and K-split contributions (R276, R278, R365, R366), and what chapter 14's flash operations settle. -/

namespace Sys2Proof.Proofs

open Sys2Proof Sys2Proof.Machine Sys2Proof.Laws

section
variable {m : Mod} {st : Nat}

/-- The add that a stack's service takes next: the first whose granule no running program owns (R366). -/
def nextAdd (m : Mod) (st : Nat) : Option SvcEnt := m.svc.find? fun s => s.stack = st && (ownerOf m s.addr).isNone

theorem sectorAddOp_none (e : Ecc) (h : nextAdd m st = none) : sectorAddOp m st e = m := by
  have h : (m.svc.find? fun s => s.stack = st && (ownerOf m s.addr).isNone) = none := h
  unfold sectorAddOp
  rw [h]
  exact ite_self _

section
variable {x : SvcEnt} (h : nextAdd m st = some x) (hs : unitsStall m = false) (hc : x.cmd = none)
include h hs hc

/-- An add of no command whose granule reads well is performed (R366). -/
theorem sectorAddOp_ok (he : eccAt m x.addr .ok = .ok) :
    sectorAddOp m st .ok = bump (ksAdd { m with svc := m.svc.erase x } x) (drlP st) 0xCC := by
  have h : (m.svc.find? fun s => s.stack = st && (ownerOf m s.addr).isNone) = some x := h
  have htable : tableAdd m x = false := by rw [tableAdd, hc]; rfl
  unfold sectorAddOp
  rw [if_neg (by simp [hs]), h]
  dsimp only
  rw [he]
  simp [htable, addDone, hc]

/-- An add of no command whose granule cannot be read is dropped. -/
theorem sectorAddOp_uncorrectable : sectorAddOp m st .uncorrectable =
    { bump (eccEvent m x.addr .uncorrectable) (drlP st) 0xC0 with svc := m.svc.erase x } := by
  have h : (m.svc.find? fun s => s.stack = st && (ownerOf m s.addr).isNone) = some x := h
  have he : eccAt m x.addr .uncorrectable = .uncorrectable := ite_self _
  unfold sectorAddOp
  rw [if_neg (by simp [hs]), h]
  dsimp only
  rw [he]
  simp [hc]

end

theorem ksAdd_svc (m : Mod) (x : SvcEnt) : (ksAdd m x).svc = m.svc := by
  have hput : onDevice.Only m (applyAdd m x false) := putMask_onDevice ..
  unfold ksAdd
  dsimp only
  split <;> exact hput.same Mod.svc fun _ _ => rfl

/-! K-split contributions. -/

/-- The command of an add is no part of what the add is. -/
theorem tileAdds_cmd (m : Mod) (d : Nat) (tile : List Word) (c k : Option Nat) :
    tileAdds m d tile c = (tileAdds m d tile k).map fun x => { x with cmd := c } := by
  simp only [tileAdds, rowAdds, List.map_map, Function.comp_def]

/-- Whether the queues have room does not rest on the command that an add is of. -/
theorem ksRoom_tileAdds (m : Mod) (d : Nat) (tile : List Word) (c k : Option Nat) :
    ksRoom m (tileAdds m d tile c) = ksRoom m (tileAdds m d tile k) := by
  rw [tileAdds_cmd m d tile c k]
  simp only [ksRoom, List.filter_map, List.map_map]
  rfl

/-- A contribution that the queues take whole (R365). -/
theorem ksAcceptOp_eq {f d k : Nat} {tile : List Word} {c : Option Nat} (hf : f < 128) (hb : ksBad m d = false) (hk : k < ksCount m d) :
    ksAcceptOp m f d k tile = if ksRoom m (tileAdds m (ksTarget m d) tile c) = true then
      (ksAccept m d k tile ((faceOf m f).bind (·.cmd)) (facP f)).1 else m := by
  unfold ksAcceptOp
  rw [ksRoom_tileAdds m _ tile none c]
  cases ksRoom m (tileAdds m (ksTarget m d) tile c) <;> simp [hf, hb, hk]

theorem ksAccept_again {d k : Nat} (tile : List Word) (c : Option Nat) (p : Page) (h : bitAt (ksBitmap m d) k = true) :
    (ksAccept m d k tile c p).1 = bump m p 0x60 := by
  unfold ksAccept
  rw [if_pos h]

theorem ksAccept_first {d k : Nat} (tile : List Word) (c : Option Nat) (p : Page) (h : bitAt (ksBitmap m d) k = false)
    (hadds : ∀ a ∈ tileAdds m (ksTarget m d) tile c, a.stack < 8) : (ksAccept m d k tile c p).1 =
      { writeBytes m (d + 16) (toBytes (ksBitmap m d + 2 ^ k) 128) with svc := m.svc ++ tileAdds m (ksTarget m d) tile c } := by
  have hall : (tileAdds m (ksTarget m d) tile c).filter (fun s => s.stack < 8) = tileAdds m (ksTarget m d) tile c :=
    List.filter_eq_self.2 fun a ha => decide_eq_true (hadds a ha)
  have hnone : (tileAdds m (ksTarget m d) tile c).filter (fun s => 8 ≤ s.stack) = [] :=
    List.filter_eq_nil_iff.2 fun a ha => by simpa using hadds a ha
  have hsvc : (writeBytes m (d + 16) (toBytes (ksBitmap m d + 2 ^ k) 128)).svc = m.svc := (writeBytes_onDevice ..).same Mod.svc fun _ _ => rfl
  unfold ksAccept
  rw [if_neg (by simp [h])]
  dsimp only
  rw [hall, hnone, hsvc]
  rfl

end

/-- Settles O38: each operation leaves the bytes it does not name, and takes effect whole or not at all. -/
theorem flashBuffersAndAddsTakeEffect : Obligations.FlashBuffersAndAddsTakeEffect := by
  intro s
  refine ⟨fun u w hfind hsound => ?program, fun ch hch hlen hst wear => ?block, fun ch hch hlen hst => ?channel,
    fun pg e x he hb hi hx hp hal => ?rebuild, fun pgs pg u hnd hp hlt hu => imageGroup_unit s.mod hnd hp (hlt pg hp) hu,
    fun ix e he => ?free, fun st h => ?owned, fun st x h he hc hs => ?add, fun f d k tile hf hb hk => ?ksplit⟩
  case program =>
    obtain ⟨hu, pre, post, hwb, hpre⟩ := List.find?_eq_some_iff_append.1 hfind
    have hu : w.unit = u := by simpa using hu
    have hop : wbProgramOp s.mod u = programEnt s.mod w := by simp only [wbProgramOp, hfind]
    refine (gives_iff rfl _).2 ?_
    rw [hop]
    exact programEnt_readsSame hwb (fun e he => by simpa [hu] using hpre e he) hsound
  case block =>
    have honly := blockFail_onRegs hch hst wear
    have hchan (k : Nat) : chanOf (blockFail s.mod ch wear) k = if k = ch then wornChan (chanOf s.mod ch) wear else chanOf s.mod k :=
      (honly.same (chanOf · k) fun _ _ => rfl).trans (chanOf_setChan (by omega) ..)
    refine (gives_iff rfl _).2 ?_
    exact ⟨(hchan ch).trans (if_pos rfl), fun k hk => (hchan k).trans (if_neg hk), fun a => honly.same (readByte · a) fun _ _ => rfl⟩
  case channel =>
    obtain ⟨hchans, hpages⟩ := channelFail_rehomed hch hst
    have hkeep (k : Nat) : chanOf (channelFail s.mod ch) k = chanOf (channelOut s.mod ch) k := by rw [chanOf, hchans, chanOf]
    have hchan (k : Nat) : chanOf (channelFail s.mod ch) k = if k = ch then { chanOf s.mod ch with st := 3 } else chanOf s.mod k :=
      (hkeep k).trans (chanOf_setChan (by omega) ..)
    refine (gives_iff rfl _).2 ?_
    refine ⟨(hchan ch).trans (if_pos rfl), fun k hk => (hchan k).trans (if_neg hk), fun e he => ?_⟩
    obtain ⟨x, hx, hex, hloc⟩ := hpages e he
    exact ⟨x, hx, hex, hloc.imp_right fun h => (hkeep _).symm ▸ h⟩
  case rebuild =>
    obtain ⟨honly, hue, hother, himage⟩ := rebuildOp_spec he hb hi hx hp hal
    exact (gives_iff rfl _).2 ⟨hue, hother, himage, honly⟩
  case free =>
    intro pg
    refine ⟨fun h => ?_, fun hr hn hg => ?_⟩
    · have hop : hauFreeOp s.mod ix.toNat = { s.mod with mem := { s.mod.mem with freeing := pg :: s.mod.mem.freeing.filter (· != pg) } } := by
        unfold hauFreeOp
        dsimp only
        rw [he]
        exact if_pos (by simpa [or_assoc] using h)
      refine (gives_iff rfl _).2 ?_
      rw [hop]
      exact ⟨List.mem_cons_self, rfl⟩
    · have hop : hauFreeOp s.mod ix.toNat = freePage s.mod pg := by
        unfold hauFreeOp
        dsimp only
        rw [he]
        exact if_neg (by simpa [hr] using ⟨hn, hg⟩)
      refine (gives_iff rfl _).2 ?_
      rw [hop]
      exact freePage_spec s.mod pg
  case owned =>
    have hnone : nextAdd s.mod st = none := List.find?_eq_none.2 fun x hx hp => by
      simp only [Bool.and_eq_true, decide_eq_true_eq] at hp
      have := h x hx hp.1
      simp [Option.isNone_iff_eq_none.1 hp.2] at this
    exact (gives_iff rfl fun t => t = s.mod).2 (sectorAddOp_none .ok hnone)
  case add =>
    refine ⟨(gives_iff rfl _).2 ?_, (gives_iff rfl _).2 ?_⟩
    · rw [sectorAddOp_ok h hs hc he]
      exact ⟨ksAdd_svc .., rfl⟩
    · rw [sectorAddOp_uncorrectable h hs hc]
      have hread := (eccEvent_effect s.mod x.addr .uncorrectable).reads
      exact ⟨rfl, fun a => hread a⟩
  case ksplit =>
    intro adds
    refine ⟨fun hroom => ?_, fun hroom hbit => ?_, fun hroom hbit hadds => ?_⟩
    all_goals
      refine (gives_iff rfl _).2 ?_
      rw [ksAcceptOp_eq (c := (faceOf s.mod f).bind (·.cmd)) hf hb hk]
    · exact if_neg (by rw [hroom]; exact Bool.false_ne_true)
    · exact (if_pos hroom).trans (ksAccept_again tile _ _ hbit)
    · exact (if_pos hroom).trans (ksAccept_first tile _ _ hbit hadds)

end Sys2Proof.Proofs


/-! A RUN_DRILL on a drill that is named as holding its program (R351). -/

namespace Sys2Proof.Proofs

open Sys2Proof Sys2Proof.Machine Sys2Proof.Laws

/-- A drill program of one instruction. -/
def oneWord : Program := ⟨2, 0, 0, [0x70000000#32], [], 0, 0, true⟩

/-- Version 1 of package 0, which holds that program alone. -/
def oneProgram : PkgVer :=
  ⟨0, 1, ⟨true, 0#256, 0#512, [oneWord], [], [], ⟨8, 16, 0, 32, 0, false, 0#32⟩, []⟩, true, [], [], 1, [], []⟩

/-- An admitted RUN_DRILL of program 0 of package 0 on one drill of stack 0, not started. -/
def drillJob : Cmd :=
  { internalCmd Mod.reset 0x41 0 0 with
    id := 7, entry := BitVec.ofNat 512 (0x41 + 2 ^ 160 + 2 ^ 176), pkgVer := some 1, run := some ⟨false, [], [], [], [], [], 0⟩ }

/-- Drill 0 of stack 0, named as holding the program, with nothing in its code memory. -/
def hollowDrill : Drill := { drill0 0 0 with prog := some (0, 1, 0) }

def hollowMod : Mod := { Mod.reset with inited := true, cmds := [drillJob], pkgs := [oneProgram], drills := [hollowDrill] }

theorem hollowMod_job : Running hollowMod 7 0x41 drillJob ∧ pkgOf hollowMod drillJob (fld drillJob.entry 16 2) = some oneProgram ∧
    drillProgram oneProgram (fld drillJob.entry 18 2) = some oneWord := by
  unfold Running
  decide +kernel

/-- The job selects stack 0, and of it its one drill, which is ready. -/
theorem hollowMod_selects : ((List.range 8).filter fun k => bitAt (fld drillJob.entry 20 1) k) = [0] ∧ fld drillJob.entry 22 2 = 1 ∧
    moduleDrills hollowMod 0 1 = [(0, 0)] ∧ drillOf hollowMod 0 0 = some hollowDrill := by decide +kernel

/-- The run starts, and the drill's code memory is as it was. -/
theorem hollowMod_starts : (drillOf (runDrillStart hollowMod 7) 0 0).map (fun d => (d.ready, d.code)) = some (false, []) := by
  decide +kernel

/-- Refutes O26, at RUN_DRILL: a drill that is named as holding the program is not loaded again (R351), and the statement does not
ask that such a drill holds the program's code. Where its code memory is empty, the run starts with it empty. -/
theorem not_programsAndPackagesStart : ¬ Obligations.ProgramsAndPackagesStart := by
  intro h
  obtain ⟨hrun, hpkg, hprog⟩ := hollowMod_job
  obtain ⟨hstacks, hcount, hdrills, hfound⟩ := hollowMod_selects
  obtain ⟨-, hdrill, -⟩ := h ⟨[], hollowMod⟩ 7 drillJob
  have hgives := hdrill _ _ _ hrun rfl rfl hpkg hprog
  simp only [hstacks, hcount, List.flatMap_singleton, hdrills, List.forall_mem_singleton] at hgives
  have hx : exec (.runDrill (.run 7 .clean)) ⟨[], hollowMod⟩ = .next ⟨[], runDrillStart hollowMod 7⟩ := by
    rw [← partOp_run hrun runDrillStart]
    rfl
  obtain ⟨-, d, hd, -, -, hcode⟩ := (gives_iff hx _).1 (hgives ⟨_, hfound, rfl, rfl⟩ (by decide))
  have hstart := hollowMod_starts
  rw [hd] at hstart
  simp [hcode, oneWord] at hstart

end Sys2Proof.Proofs

/-! Slots of the encoder, and what gives them back (R287, R288). -/

namespace Sys2Proof.Proofs

open Sys2Proof Sys2Proof.Machine Sys2Proof.Laws

section
variable {m : Mod} {n : Nat} {x y : Slot}

theorem slotOf_no (h : slotOf m n = some x) : x.no = n := by simpa using List.find?_some h

theorem slotOf_setSlot (m : Mod) (y : Slot) (k : Nat) :
    slotOf (setSlot m y) k = if k = y.no then (slotOf m k).map fun _ => y else slotOf m k :=
  find_mapIf (fun x : Slot => x.no) m.slots y k

/-- A slot set in a module that holds its number. -/
theorem slotOf_setSlot_self (h : slotOf m n = some x) (hy : y.no = x.no) : slotOf (setSlot m y) n = some y := by
  rw [slotOf_setSlot, if_pos ((slotOf_no h).symm.trans hy.symm), h, Option.map_some]

end

/-- Device memory alone. -/
def onMem : Portion := ⟨fun m t => { m with mem := t.mem }, fun _ => rfl, fun _ _ _ => rfl⟩

/-- What slots given back take: their numbers, and the pages of their caches. -/
def onSlots : Portion := ⟨fun m t => { m with mem := t.mem, slots := t.slots }, fun _ => rfl, fun _ _ _ => rfl⟩

section
variable (m : Mod)

theorem allocModule_onMem {t : Mod} {bench pg : Nat} {die : Option Nat} (h : allocModule m bench die = some (pg, t)) : onMem.Only m t := by
  unfold allocModule at h
  split at h
  · contradiction
  · obtain ⟨-, rfl⟩ := h
    rfl

theorem stackPage_onMem {t : Mod} {k pg : Nat} (h : stackPage m k = some (pg, t)) : onMem.Only m t := by
  unfold stackPage at h
  dsimp only at h
  split at h
  · obtain ⟨-, rfl⟩ := h
    rfl
  · exact allocModule_onMem m h

/-- As many pages as were asked for, and nothing but device memory changed (R287). -/
theorem reservePages_spec {n k : Nat} {r : List Nat × Mod} (h : reservePages n k m = some r) : onMem.Only m r.2 ∧ r.1.length = n := by
  induction n generalizing m k r with
  | zero =>
    obtain rfl := Option.some.inj h
    exact ⟨.refl _ m, rfl⟩
  | succ n ih =>
    unfold reservePages at h
    split at h
    · contradiction
    next pg t ht =>
      obtain ⟨q, hq, rfl⟩ := Option.map_eq_some_iff.1 h
      obtain ⟨hm, hl⟩ := ih t hq
      exact ⟨(stackPage_onMem m ht).trans hm, congrArg (· + 1) hl⟩

theorem dropPages_onMem (l : List Nat) : onMem.Only m (l.foldl dropPage m) := .foldl (fun _ _ => by exact rfl) l m

theorem freeSlot_slots (x : Slot) : (freeSlot m x).slots = m.slots.filter fun y => y.no != x.no :=
  congrArg (List.filter _) ((dropPages_onMem m x.pages).same Mod.slots fun _ _ => rfl)

theorem freeSlot_onSlots (x : Slot) : onSlots.Only m (freeSlot m x) :=
  ((dropPages_onMem m x.pages).widen fun _ _ => rfl).trans rfl

theorem slotOf_freeSlot_self (x : Slot) : slotOf (freeSlot m x) x.no = none := by
  rw [slotOf, freeSlot_slots]
  simp

theorem dropSlots_slots (cid : Nat) : ∀ y ∈ (dropSlots m cid).slots, y ∈ m.slots := by
  unfold dropSlots
  generalize m.slots.filter (fun s => s.cmd = cid) = l
  induction l generalizing m with
  | nil => exact fun _ => id
  | cons x l ih =>
    intro y hy
    have hy := ih (freeSlot m x) y hy
    rw [freeSlot_slots] at hy
    exact (List.mem_filter.1 hy).1

/-- A failing command completes with its slots given back, and changes a shard alone beside: its batch's positions (R117, R288). -/
theorem embedFail_eq (c : Cmd) (status info : Nat) :
    ∃ t, embedFail m c status info = finish t c { status := status, info := info } ∧ t = { dropSlots m c.id with colls := t.colls } := by
  refine ⟨_, rfl, ?_⟩
  split
  · split
    · unfold dropBatch
      split <;> rfl
    · rfl
  · rfl

/-- A failing command's work record is gone (R117). -/
theorem cmdOf_embedFail (c : Cmd) (status info : Nat) : cmdOf (embedFail m c status info) c.id = none := by
  obtain ⟨t, heq, -⟩ := embedFail_eq m c status info
  rw [heq, cmdOf, finish_cmds]
  simp

/-- A failing command takes no slot. -/
theorem slotOf_embedFail {n : Nat} (c : Cmd) (status info : Nat) (h : slotOf m n = none) :
    slotOf (embedFail m c status info) n = none := by
  obtain ⟨t, heq, ht⟩ := embedFail_eq m c status info
  have hslots : (embedFail m c status info).slots = (dropSlots m c.id).slots := by
    rw [heq, (finish_onFinish ..).same Mod.slots fun _ _ => rfl, ht]
  rw [slotOf, List.find?_eq_none] at h ⊢
  rw [hslots]
  exact fun y hy => h y (dropSlots_slots m c.id y hy)

end

/-! DOCUMENT_ENTER_SLOT (R116, R287, R288). -/

/-- The lowest slot number that is free. -/
def freeSlotNo (l : List Slot) : Nat := ((upto 8).find? fun n => !(l.any fun s => s.no = n)).getD 0

/-- With fewer than eight slots taken one of the eight numbers is free. -/
theorem freeSlotNo_spec {l : List Slot} (h : l.length < 8) : freeSlotNo l < 8 ∧ ∀ y ∈ l, y.no ≠ freeSlotNo l := by
  have hsome : ((upto 8).find? fun n => !(l.any fun s => s.no = n)).isSome = true := by
    by_contra hnone
    have hall : List.range 8 ⊆ l.map (·.no) := by
      intro n hn
      have := List.find?_eq_none.1 (Option.not_isSome_iff_eq_none.1 hnone) n hn
      simpa using this
    have := (List.nodup_range.subperm hall).length_le
    simp only [List.length_range, List.length_map] at this
    omega
  obtain ⟨n, hn⟩ := Option.isSome_iff_exists.1 hsome
  have hno : freeSlotNo l = n := by rw [freeSlotNo, hn, Option.getD_some]
  rw [hno]
  exact ⟨List.mem_range.1 (List.mem_of_find?_eq_some hn), by simpa using List.find?_some hn⟩

/-- The slot that document `i` of command `cid` takes, with `n` tokens and cache pages `ps`. -/
def slotFor (m : Mod) (cid i : Nat) (p : PkgVer) (n : Nat) (ps : List Nat) : Slot :=
  ⟨freeSlotNo m.slots, cid, i, p.id, p.ver, n, 0, ps, [], [], [], 0⟩

/-- The work of a command whose document `i` has entered a slot. -/
def docEntered (w : EmbedW) (i : Nat) : EmbedW := { w with waiting := w.waiting.filter (· != i), active := w.active ++ [i] }

theorem cmdOf_putEmbed {m : Mod} {cid : Nat} {c : Cmd} (hc : cmdOf m cid = some c) (w : EmbedW) :
    cmdOf (putEmbed m c w) cid = some { c with embed := some w } := by
  obtain rfl := cmdOf_id hc
  exact cmdOf_setCmd_self (d := { c with embed := some w }) hc

section
variable {m : Mod} {cid i : Nat} {c : Cmd} {w : EmbedW} {p : PkgVer}
variable (hc : cmdOf m cid = some c) (hw : c.embed = some w) (hp : pkgOf m c (embedPkg c.entry) = some p)
  (hi : i ∈ w.waiting) (hf : firstDoc m c i = true)
include hc hw hp hi hf

theorem enterSlot_tooBig (ht : textDocs c.entry = true)
    (hbig : 2097152 < docTokens c i ∨ kvTooBig m p.pkg (docTokens c i) = true) :
    enterSlot m cid i = embedFail m c 0x20 (badAt 16 i) := by
  simp [enterSlot, hc, hw, hp, hi, hf, ht, hbig]

variable (hn : docTokens c i ≤ 2097152) (hb : kvTooBig m p.pkg (docTokens c i) = false) (hs : m.slots.length < 8)
include hn hb hs

theorem enterSlot_waits (hfull : kvLimit m < (kvUsed m + kvPages p.pkg (docTokens c i)) * pageSize) (hnew : i ∉ w.waited) :
    enterSlot m cid i = bump (putEmbed m c { w with waited := i :: w.waited }) ctlP 0x14C := by
  have hlong : ¬ 2097152 < docTokens c i := by omega
  have hfree : ¬ 8 ≤ m.slots.length := by omega
  simp [enterSlot, hc, hw, hp, hi, hf, hlong, hb, hfree, hfull, hnew]

section
variable {ps : List Nat} {t : Mod} (hroom : (kvUsed m + kvPages p.pkg (docTokens c i)) * pageSize ≤ kvLimit m)
  (hr : reservePages (kvPages p.pkg (docTokens c i)) 0 m = some (ps, t))
include hroom hr

theorem enterSlot_takes : enterSlot m cid i =
    putEmbed { t with slots := t.slots ++ [slotFor t cid i p (docTokens c i) ps] } c (docEntered w i) := by
  have hlong : ¬ 2097152 < docTokens c i := by omega
  have hfree : ¬ 8 ≤ m.slots.length := by omega
  have hfits : ¬ kvLimit m < (kvUsed m + kvPages p.pkg (docTokens c i)) * pageSize := by omega
  simp [enterSlot, hc, hw, hp, hi, hf, hlong, hb, hfree, hfits, hr, freeSlotNo, slotFor, docEntered]

/-- A slot of a free number is taken, with the pages reserved for the document's cache (R287). -/
theorem enterSlot_spec :
    (∃ x, (enterSlot m cid i).slots = m.slots ++ [x] ∧ x.cmd = cid ∧ x.doc = i ∧ x.pages = ps ∧
      x.pages.length = kvPages p.pkg (docTokens c i) ∧ x.chunk = 0 ∧ x.tokens = docTokens c i ∧ x.parts = [] ∧ x.no < 8 ∧
      ∀ y ∈ m.slots, y.no ≠ x.no) ∧
    cmdOf (enterSlot m cid i) cid = some { c with embed := some (docEntered w i) } ∧
    enterSlot m cid i = { m with cmds := (enterSlot m cid i).cmds, mem := (enterSlot m cid i).mem, slots := (enterSlot m cid i).slots } := by
  obtain ⟨hm, hlen⟩ := reservePages_spec m hr
  have hslots : t.slots = m.slots := hm.same Mod.slots fun _ _ => rfl
  have hct : cmdOf t cid = some c := (hm.same (cmdOf · cid) fun _ _ => rfl).trans hc
  obtain ⟨hno, hfresh⟩ := freeSlotNo_spec (hslots ▸ hs)
  rw [enterSlot_takes hc hw hp hi hf hn hb hs hroom hr]
  refine ⟨⟨slotFor t cid i p (docTokens c i) ps, ?_, rfl, rfl, rfl, hlen, rfl, rfl, rfl, hno, hslots ▸ hfresh⟩, cmdOf_putEmbed hct _, ?_⟩
  · exact congrArg (· ++ _) hslots
  · rw [show t = { m with mem := t.mem } from hm]
    rfl

end

end

end Sys2Proof.Proofs

/-! CHUNK_ENCODE, ATTENTION_PARTIAL and PARTIAL_FOLD (R284, R285, R286, R320, R374, R375). -/

namespace Sys2Proof.Proofs

open Sys2Proof Sys2Proof.Machine Sys2Proof.Laws

/-- A tag mismatch is counted and logged, and changes nothing else (R320). -/
theorem skewSeen_onAdit (m : Mod) (n : Nat) (second : Bool) (want got group : Nat) : onAdit.Only m (skewSeen m n second want got group) := by
  unfold skewSeen
  extract_lets p on m₁ m₂
  have h₁ : onAdit.Only m m₁ := rfl
  have h₂ : onAdit.Only m₁ m₂ := (LogsOn.logErrC ..).1
  exact (h₁.trans h₂).trans (.ite rfl (.refl ..))

/-- The keys and values of a slot's next chunk written to its cache (R284). -/
def chunkCached (m : Mod) (p : PkgVer) (x : Slot) : Mod :=
  let kv := p.pkg.enc.kvBytes
  let lo := x.chunk * p.pkg.enc.chunk * kv
  let hi := min x.tokens ((x.chunk + 1) * p.pkg.enc.chunk) * kv
  (upto (hi - lo)).foldl (fun t i => writeBytes t (cacheAddr x (lo + i)) [Config.kvByte m.draws i]) { m with draws := m.draws + 1 }

/-- What a chunk takes beside its slot: a write to device memory, and one free draw. -/
def onCache : Portion :=
  ⟨fun m t => { m with mem := t.mem, drills := t.drills, regs := t.regs, draws := t.draws }, fun _ => rfl, fun _ _ _ => rfl⟩

theorem chunkCached_onCache (m : Mod) (p : PkgVer) (x : Slot) : onCache.Only m (chunkCached m p x) :=
  .trans (t := { m with draws := m.draws + 1 }) rfl (.foldl (fun _ _ => (writeBytes_onDevice ..).widen fun _ _ => rfl) _ _)

section
variable {m : Mod} {n : Nat} {x : Slot} {p : PkgVer} (hx : slotOf m n = some x) (hp : slotPkg m x = some p)
include hx hp

theorem chunkEncode_idle (hit : Hit) (h : chunksOf p x.tokens ≤ x.chunk ∨ x.parts ≠ []) : chunkEncode m n hit = m := by
  simp [chunkEncode, hx, hp, h]

variable (hk : x.chunk < chunksOf p x.tokens) (hparts : x.parts = [])
include hk hparts

theorem chunkEncode_hit {hit : Hit} {c : Cmd} (hhit : hit ≠ .clean) (hc : cmdOf m x.cmd = some c) :
    chunkEncode m n hit = chunkHit m x c hit := by
  have hk : ¬ chunksOf p x.tokens ≤ x.chunk := by omega
  simp [chunkEncode, hx, hp, hk, hparts, hhit, hc]

theorem chunkEncode_clean : chunkEncode m n .clean =
    setSlot (chunkCached m p x) { x with chunk := x.chunk + 1, skews := 0, parts := [], state := [], outs := [] } := by
  have hk : ¬ chunksOf p x.tokens ≤ x.chunk := by omega
  simp only [chunkEncode, hx, hp, hk, hparts]
  rfl

theorem slotOf_chunkEncode_clean :
    slotOf (chunkEncode m n .clean) n = some { x with chunk := x.chunk + 1, skews := 0, parts := [], state := [], outs := [] } := by
  rw [chunkEncode_clean hx hp hk hparts]
  exact slotOf_setSlot_self (((chunkCached_onCache m p x).same (slotOf · n) fun _ _ => rfl).trans hx) rfl

end

section
variable {m : Mod} {n : Nat} {x : Slot}

/-- A chunk that meets a tag mismatch for the first time is encoded again (R320). -/
theorem chunkHit_first (hx : slotOf m n = some x) (c : Cmd) (f want got gr : Nat) (h : x.skews = 0) :
    slotOf (chunkHit m x c (.skew f want got gr)) n = some { x with skews := 1 } ∧
    (chunkHit m x c (.skew f want got gr)).mem = m.mem ∧ (chunkHit m x c (.skew f want got gr)).cmds = m.cmds := by
  have honly := skewSeen_onAdit m f (x.skews != 0) want got gr
  have hrun : chunkHit m x c (.skew f want got gr) = setSlot (skewSeen m f (x.skews != 0) want got gr) { x with skews := 1 } := if_pos h
  rw [hrun]
  refine ⟨slotOf_setSlot_self (x := x) ?_ rfl, honly.same Mod.mem fun _ _ => rfl, honly.same Mod.cmds fun _ _ => rfl⟩
  exact (honly.same (slotOf · n) fun _ _ => rfl).trans hx

theorem chunkHit_again (c : Cmd) (f want got gr : Nat) (h : x.skews ≠ 0) :
    chunkHit m x c (.skew f want got gr) = embedFail (skewSeen m f true want got gr) c 0x31 0 := by
  have hsecond : (x.skews != 0) = true := bne_iff_ne.2 h
  simp only [chunkHit, hsecond, if_neg h]

end

/-- The cached tokens of a slot that a drill covers (R375). -/
def drillTokens (m : Mod) (p : PkgVer) (x : Slot) (d : Nat × Nat) : List Nat := (cachedTokens p x).filter fun k => tokenBy m p x k = some d

/-- A drill's partial of a query row (R374). -/
def drillPartial (m : Mod) (p : PkgVer) (x : Slot) (d : Nat × Nat) (q : QRow) (qv : List Word) : AttnPart :=
  let r := partialOver p.pkg.enc.attnScale qv ((drillTokens m p x d).map (tokenKv m x p.pkg.enc.kvBytes q))
  ⟨q, some d, r.1, r.2.1, r.2.2⟩

section
variable {m : Mod} {n st dr : Nat} {q : QRow} {x : Slot} {p : PkgVer} (hx : slotOf m n = some x) (hp : slotPkg m x = some p)
include hx hp

theorem attnPartial_idle (qv : List Word) (hit : Hit) (h : drillTokens m p x (st, dr) = []) : attnPartial m n st dr q qv hit = m := by
  rw [drillTokens] at h
  simp only [attnPartial, hx, hp, h]
  rfl

/-- A drill that serves, covers tokens and has not returned the row's partial computes it. -/
theorem attnPartial_runs (qv : List Word) (hit : Hit) (hq : rowOk p x q = true) (hstall : unitsStall m = false)
    (hmine : drillTokens m p x (st, dr) ≠ []) (hserves : drillServes m (st, dr) = true)
    (hparts : ∀ y ∈ x.parts, ¬ (y.q = q ∧ y.from' = some (st, dr))) (htaken : ∀ y ∈ x.state, y.q = q → some (st, dr) ∉ y.taken) :
    attnPartial m n st dr q qv hit =
      if hit != .clean then ((cmdOf m x.cmd).map fun c => chunkHit m x c hit).getD m
      else setSlot m { x with parts := x.parts ++ [drillPartial m p x (st, dr) q qv] } := by
  have hempty : ((cachedTokens p x).filter fun k => tokenBy m p x k = some (st, dr)).isEmpty = false := List.isEmpty_eq_false_iff.2 hmine
  have hparts : (x.parts.any fun y => y.q = q && y.from' = some (st, dr)) = false := by simpa using hparts
  have htaken : (x.state.any fun y => y.q = q && some (st, dr) ∈ y.taken) = false := by simpa using htaken
  simp only [attnPartial, hx, hp, hempty, hq, hstall, hserves, hparts, htaken]
  rfl

end

/-! The fold of a query row (R286). -/

section
variable {m : Mod} {n : Nat} {q : QRow} {x : Slot} {p : PkgVer} {own : Option (List Word)} {y : AttnPart}

/-- The partial that a fold of a query row takes: the face's own where it is not folded yet, else the oldest of a drill. -/
def FoldsNext (m : Mod) (p : PkgVer) (x : Slot) (q : QRow) (y : AttnPart) : Option (List Word) → Prop
  | some qv => none ∉ (stateOf x q).taken ∧ y = ownPartial m p x q qv
  | none => x.parts.find? (fun z => z.q = q) = some y

theorem foldsNext_row (h : FoldsNext m p x q y own) : y.q = q := by
  cases own with
  | some qv => exact h.2 ▸ rfl
  | none => simpa using List.find?_some h

theorem partialFoldOp_next (hx : slotOf m n = some x) (hp : slotPkg m x = some p) (hq : rowOk p x q = true)
    (h : FoldsNext m p x q y own) : partialFoldOp m n q own = setSlot m (foldPart m p x y) := by
  cases own with
  | some qv =>
    obtain ⟨hown, rfl⟩ := h
    simp [partialFoldOp, hx, hp, hq, hown]
  | none =>
    have h : x.parts.find? (fun z => z.q = q) = some y := h
    simp [partialFoldOp, hx, hp, hq, h]

theorem stateOf_foldPart (m : Mod) (p : PkgVer) (x : Slot) (y : AttnPart) :
    let st := stateOf x y.q
    let r := fold1 (st.m, st.l, st.o) (y.m, y.l, y.o)
    stateOf (foldPart m p x y) y.q = ⟨y.q, y.from' :: st.taken, r.1, r.2.1, r.2.2⟩ := by
  simp [stateOf, foldPart]

/-- The last partial of a row gives its output. -/
theorem mem_outs_foldPart (h : ∀ k ∈ none :: (attnDrills m p x).map some, k ∈ y.from' :: (stateOf x y.q).taken) :
    let st := stateOf x y.q
    let r := fold1 (st.m, st.l, st.o) (y.m, y.l, y.o)
    (y.q, r.2.2.map fun v => Fp.fdiv v r.2.1) ∈ (foldPart m p x y).outs := by
  have hall : ((none :: (attnDrills m p x).map some).all fun k => decide (k ∈ y.from' :: (stateOf x y.q).taken)) = true := by
    simpa only [List.all_eq_true, decide_eq_true_eq] using h
  simp only [foldPart, hall]
  exact List.mem_cons_self

/-- What PARTIAL_FOLD leaves of the slot (R286). -/
theorem foldPart_spec {q : QRow} {y : AttnPart} (m : Mod) (p : PkgVer) (x : Slot) (hy : y.q = q) :
    (foldPart m p x y).parts = x.parts.erase y ∧ (foldPart m p x y).chunk = x.chunk ∧
    (let st := stateOf x q
     let r := fold1 (st.m, st.l, st.o) (y.m, y.l, y.o)
     stateOf (foldPart m p x y) q = ⟨q, y.from' :: st.taken, r.1, r.2.1, r.2.2⟩ ∧
     ((∀ k ∈ none :: (attnDrills m p x).map some, k ∈ y.from' :: st.taken) →
       (q, r.2.2.map fun v => Fp.fdiv v r.2.1) ∈ (foldPart m p x y).outs)) := by
  subst hy
  exact ⟨rfl, rfl, stateOf_foldPart .., mem_outs_foldPart⟩

end

end Sys2Proof.Proofs

/-! The counters that a unit's write raises (R342, R359, R438, R442, R464, R468). -/

namespace Sys2Proof.Proofs

open Sys2Proof Sys2Proof.Machine Sys2Proof.Laws

/-- Offsets, within their pages, of the counters of conversions, of page moves, of flash writes, of stopped pseudo-channels and of
Recalls. -/
def writeOffsets : List Nat := [0x48, 0x4C, 0x50, 0x54, 0x5C, 0x60, 0x64, 0xBC]

/-- Registers at those offsets alone have changed: `KeepsCount` for every register at another offset. -/
structure CountsWrites (m t : Mod) : Prop where
  same : ∀ q k, k % 4096 ∉ writeOffsets → getReg t q k = getReg m q k

namespace CountsWrites

variable {m t u : Mod}

theorem refl (m : Mod) : CountsWrites m m := ⟨fun _ _ _ => rfl⟩

theorem trans (h : CountsWrites m t) (g : CountsWrites t u) : CountsWrites m u :=
  ⟨fun q k hk => (g.same q k hk).trans (h.same q k hk)⟩

/-- A step that leaves the registers alone. -/
theorem of_regs (h : t.regs = m.regs) : CountsWrites m t := ⟨fun q k _ => getReg_of_vals (congrArg Regs.vals h) q k⟩

theorem ite {b : Prop} [Decidable b] (h : CountsWrites m t) (g : CountsWrites m u) : CountsWrites m (if b then t else u) := by
  split
  · exact h
  · exact g

theorem foldl {α : Type} {f : Mod → α → Mod} (h : ∀ m x, CountsWrites m (f m x)) (l : List α) (m : Mod) : CountsWrites m (l.foldl f m) := by
  induction l generalizing m with
  | nil => exact refl m
  | cons x l ih => exact (h m x).trans (ih _)

/-- A counter at one of the offsets raised. -/
theorem bump (m : Mod) (p : Page) (r : Nat) {n : Nat} (hr : r % 4096 ∈ writeOffsets := by decide) : CountsWrites m (bump m p r n) := by
  refine ⟨fun q k hk => getReg_bump_ne m (regAddr_ne_of_offset fun he => hk ?_) n⟩
  rw [he]
  exact hr

end CountsWrites

section
variable (m : Mod)

theorem programEnt_countsWrites (w : WbEnt) : CountsWrites m (programEnt m w) := by
  unfold programEnt
  extract_lets pg mem₀ m₀
  have h₀ : CountsWrites m m₀ := .of_regs rfl
  split
  · exact h₀
  next e _ =>
    extract_lets st m₁ ch x m₂
    have h₁ : CountsWrites m₀ m₁ := by
      refine .ite (.refl _) ?_
      split
      next l _ => exact .trans (t := setEnt m₀ { e with loc := l }) (.of_regs rfl) (.bump _ hauP 0x60)
      next => exact .refl _
    have h₂ : CountsWrites m₁ m₂ := .ite (.bump m₁ ch 0x4C) (.refl _)
    let t : Mod := { m₂ with mem := { m₂.mem with flash := putUnit m₂.mem.flash (encipher m₂ w.unit x) } }
    have h₃ : CountsWrites m₂ t := .of_regs rfl
    exact ((h₀.trans h₁).trans h₂).trans (h₃.trans (.bump t ch 0x50))

theorem wbPut_countsWrites (a : Nat) (g : List Byte) : CountsWrites m (wbPut m a g) := by
  cases h : m.mem.wb.any fun e => e.unit = a / 4096 with
  | true => rw [wbPut_unit g h]; exact .of_regs rfl
  | false =>
    rw [wbPut_new g h]
    refine .trans (t := makeRoom m) ?_ (.of_regs rfl)
    unfold makeRoom
    split
    · exact .ite (.refl m) (programEnt_countsWrites ..)
    · exact .refl m

theorem abandonMove_countsWrites (v : Move) : CountsWrites m (abandonMove m v) := by
  unfold abandonMove
  extract_lets mem t p w
  have ht : CountsWrites m t := .of_regs rfl
  refine .ite ?_ (ht.trans (.bump t hauP 0x64))
  exact .trans (t := { t with mem := { t.mem with backoff := (v.page, now t + w * 1000) :: t.mem.backoff } }) (.of_regs rfl) (.bump _ p 0x64)

theorem logGran_countsWrites (a : Nat) (g : List Byte) : CountsWrites m (logGran m a g) := by
  unfold logGran
  split
  · exact .refl m
  · exact .ite (.ite (.of_regs rfl) (abandonMove_countsWrites ..)) (.refl m)

theorem storeGran_countsWrites (e : PageEnt) (a : Nat) (g : List Byte) : CountsWrites m (storeGran m e a g) :=
  .trans (t := setEnt m { e with image := false }) (.of_regs rfl) (.ite (wbPut_countsWrites ..) (.of_regs rfl))

theorem applyGran_countsWrites (a : Nat) (g : List Byte) : CountsWrites m (applyGran m a g) := by
  let u := clearUe m (a / 32 * 32)
  let t := match pageEnt u (pageNo (a / 32 * 32)) with
    | none => u
    | some e => storeGran u e (a / 32 * 32) g
  have hu : CountsWrites m u := .of_regs rfl
  have ht : CountsWrites u t := by
    show CountsWrites u (match pageEnt u _ with | none => u | some e => storeGran u e _ g)
    split
    · exact .refl u
    · exact storeGran_countsWrites ..
  exact (hu.trans ht).trans (logGran_countsWrites t (a / 32 * 32) g)

theorem applyMask_countsWrites (a : Nat) (g : List (Option Byte)) : CountsWrites m (applyMask m a g) :=
  .ite (applyGran_countsWrites ..) (.ite (.refl m) (applyGran_countsWrites ..))

theorem putMask_countsWrites (a : Nat) (g : List (Option Byte)) : CountsWrites m (putMask m a g) := by
  unfold putMask
  split
  next k _ =>
    have hk : CountsWrites m (countStop m k) := .ite (.refl m) (.bump m _ 0xBC)
    exact hk.trans (.of_regs rfl)
  · split
    · exact .of_regs rfl
    · exact applyMask_countsWrites ..

theorem writeBytes_countsWrites (a : Nat) (d : List Byte) : CountsWrites m (writeBytes m a d) :=
  .ite (.refl m) (.foldl (fun _ _ => putMask_countsWrites ..) _ m)

theorem addRecall_countsWrites (line keep : Nat) (w : Waiter) : CountsWrites m (addRecall m line keep w) := by
  unfold addRecall
  split
  · exact .of_regs rfl
  · exact .trans (t := bump m vlkP 0x5C) (.bump m vlkP 0x5C) (.of_regs rfl)

theorem unitWrite_countsWrites (a : Nat) (d : List Byte) : CountsWrites m (unitWrite m a d) :=
  .ite (.refl m) (.foldl (fun _ _ => .ite (addRecall_countsWrites ..) (writeBytes_countsWrites ..)) _ m)

theorem writePtr_countsWrites (ptr : Nat) (d : List Byte) : CountsWrites m (writePtr m ptr d) :=
  .ite (.refl m) (.ite (unitWrite_countsWrites ..) (.of_regs ((hostStore_onVelom ..).same Mod.regs fun _ _ => rfl)))

theorem countMarks_countsWrites (p : Page) (ms : List Mark) : CountsWrites m (countMarks m p ms) :=
  (((CountsWrites.bump m p 0x48).trans (.bump _ p 0x4C)).trans (.bump _ p 0x50)).trans (.bump _ p 0x54)

theorem writePtr_onWrite (ptr : Nat) (d : List Byte) : onWrite.Only m (writePtr m ptr d) :=
  .ite (.refl _ m) (.ite (unitWrite_onWrite ..) ((hostStore_onVelom ..).widen fun _ _ => rfl))

end

end Sys2Proof.Proofs

/-! DOCUMENT_COMPLETE (R117, R289). -/

namespace Sys2Proof.Proofs

open Sys2Proof Sys2Proof.Machine Sys2Proof.Laws

/-- The module as a document's vector leaves its slot: given back, and the document counted. -/
def slotDone (m : Mod) (x : Slot) : Mod := bump (freeSlot { m with draws := m.draws + 1 } x) ctlP 0x150

/-- What that takes. -/
def onSlotDone : Portion :=
  ⟨fun m t => { m with mem := t.mem, slots := t.slots, regs := t.regs, draws := t.draws }, fun _ => rfl, fun _ _ _ => rfl⟩

section
variable (m : Mod) (x : Slot)

theorem slotDone_only : onSlotDone.Only m (slotDone m x) :=
  .trans (t := { m with draws := m.draws + 1 }) rfl
    (.trans (t := freeSlot { m with draws := m.draws + 1 } x) ((freeSlot_onSlots ..).widen fun _ _ => rfl) rfl)

theorem slotOf_slotDone : slotOf (slotDone m x) x.no = none := slotOf_freeSlot_self { m with draws := m.draws + 1 } x

theorem slotDone_count : regN (slotDone m x) ctlP 0x150 = min (regN m ctlP 0x150 + 1) 0xFFFFFFFF := by
  have h : regN (freeSlot { m with draws := m.draws + 1 } x) ctlP 0x150 = regN m ctlP 0x150 :=
    (freeSlot_onSlots ..).same (regN · ctlP 0x150) fun _ _ => rfl
  rw [slotDone, regN_bump, h]

end

/-- The work record of an EMBED with one document's vector stored. -/
def docStored (c : Cmd) (w : EmbedW) (doc : Nat) (v : List Word) : Cmd :=
  { c with docsDone := c.docsDone + 1, embed := some { w with active := w.active.filter (· != doc), vecs := w.vecs ++ [(doc, v)] } }

/-- The bytes of an EMBED's vector written to its results, and its conversions counted. -/
def vectorWritten (m : Mod) (c : Cmd) (doc : Nat) (v : List Word) : Mod :=
  let bs := embedBytes (fld c.entry 37 1) v
  writePtr (countMarks m (cruP 0) (v.map fun y => (convert (fld c.entry 37 1) y .one).2)) (fld c.entry 24 8 + doc * bs.length) bs

section
variable {m : Mod} {n : Nat} {x : Slot} {p : PkgVer} {c : Cmd} {w : EmbedW}
variable (hx : slotOf m n = some x) (hp : slotPkg m x = some p) (hc : cmdOf m x.cmd = some c) (hw : c.embed = some w)
  (hk : chunksOf p x.tokens ≤ x.chunk) (hparts : x.parts = [])
include hx hp hc hw hk hparts

theorem docComplete_invalid (hv : vecBad true 0 0 (pooled p x.tokens m.draws) = true) :
    docComplete m n = embedFail (slotDone m x) c 0x22 x.doc := by
  have hk : ¬ x.chunk < chunksOf p x.tokens := by omega
  simp only [docComplete, hx, hp, hc, hw, hk, hparts, hv, Bool.or_true]
  rfl

/-- An EMBED's vector is stored and its bytes are written (R289). -/
theorem docComplete_stored (hop : opcodeOf c.entry = 0x13) (hv : vecBad true 0 0 (pooled p x.tokens m.draws) = false) :
    docComplete m n = vectorWritten (setCmd (slotDone m x) (docStored c w x.doc (pooled p x.tokens m.draws))) c x.doc
      (pooled p x.tokens m.draws) := by
  have hk : ¬ x.chunk < chunksOf p x.tokens := by omega
  simp only [docComplete, hx, hp, hc, hw, hk, decide_false, hparts, List.isEmpty_nil, Bool.not_true, Bool.or_self, Bool.false_eq_true,
    ↓reduceIte, hop, Nat.reduceEqDiff, Bool.false_and, hv, Bool.or_false]
  split <;> rfl

/-- DOCUMENT_COMPLETE of an EMBED (R289): the slot is given back, the vector stored, and the document counted. -/
theorem docComplete_spec (hop : opcodeOf c.entry = 0x13) (hv : vecBad true 0 0 (pooled p x.tokens m.draws) = false) :
    slotOf (docComplete m n) n = none ∧
    cmdOf (docComplete m n) x.cmd = some (docStored c w x.doc (pooled p x.tokens m.draws)) ∧
    regN (docComplete m n) ctlP 0x150 = min (regN m ctlP 0x150 + 1) 0xFFFFFFFF := by
  obtain rfl := slotOf_no hx
  have hid := cmdOf_id hc
  let v := pooled p x.tokens m.draws
  let d := docStored c w x.doc v
  let t := setCmd (slotDone m x) d
  have hwrite : onWrite.Only t (vectorWritten t c x.doc v) :=
    ((countMarks_onRegs ..).widen fun _ _ => rfl).trans (writePtr_onWrite ..)
  have hcount : CountsWrites t (vectorWritten t c x.doc v) := (countMarks_countsWrites ..).trans (writePtr_countsWrites ..)
  rw [docComplete_stored hx hp hc hw hk hparts hop hv]
  refine ⟨?_, ?_, ?_⟩
  · rw [hwrite.same (slotOf · x.no) fun _ _ => rfl]
    exact slotOf_slotDone m x
  · rw [hwrite.same (cmdOf · x.cmd) fun _ _ => rfl, ← hid]
    refine cmdOf_setCmd_self (d := d) (x := c) ?_
    rw [(slotDone_only m x).same (cmdOf · d.id) fun _ _ => rfl]
    exact hid ▸ hc
  · rw [regN, hcount.same ctlP 0x150 (by decide)]
    exact slotDone_count m x

end

end Sys2Proof.Proofs

/-! Documents through their slots, settled: each row at its slot. -/

namespace Sys2Proof.Proofs

open Sys2Proof Sys2Proof.Machine Sys2Proof.Laws

section
variable {s : State} {P : Mod → Prop}

theorem documentEnterSlot_gives {cid i : Nat} (h : P (enterSlot s.mod cid i)) : Gives (.documentEnterSlot cid i) s P := (gives_iff rfl P).2 h
theorem chunkEncode_gives {no : Nat} {hit : Hit} (h : P (chunkEncode s.mod no hit)) : Gives (.chunkEncode ⟨no, hit⟩) s P :=
  (gives_iff rfl P).2 h
theorem attentionPartial_gives {no st dr ly hd rw : Nat} {qv : List Word} {hit : Hit}
    (h : P (attnPartial s.mod no st dr ⟨ly, hd, rw⟩ qv hit)) : Gives (.attentionPartial no st dr ly ⟨hd, rw⟩ qv hit) s P := (gives_iff rfl P).2 h
theorem partialFold_gives {no ly hd rw : Nat} {own : Option (List Word)} (h : P (partialFoldOp s.mod no ⟨ly, hd, rw⟩ own)) :
    Gives (.partialFold no ly ⟨hd, rw⟩ own) s P := (gives_iff rfl P).2 h
theorem documentComplete_gives {no : Nat} (h : P (docComplete s.mod no)) : Gives (.documentComplete no) s P := (gives_iff rfl P).2 h

end

/-- Settles O34: each row's case, by the lemma on its operation. -/
theorem documentsPassThroughSlots : Obligations.DocumentsPassThroughSlots := by
  intro s
  refine ⟨fun cid i c w p hc hw hp hi hf => ⟨fun ht hbig => ?tooBig, fun hn hb hs => ⟨fun hfull hnew => ?waits, fun r hroom hr => ?enters⟩⟩,
    fun no x p hx hp => ⟨fun hit hidle => ?chunkIdle,
      fun hk hparts => ⟨?chunkClean, fun c hc => ⟨?chunkHurt, fun f want got gr => ⟨fun h0 => ?firstSkew, fun h1 => ?secondSkew⟩⟩⟩,
      fun st dr ly hd rw' qv hq hstall => ⟨fun hnone hit => ?noTokens, fun hmine hserves hret htaken => ⟨?partialClean, fun c hc => ?partialHurt⟩⟩,
      fun ly hd rw' own y hq => ?fold, fun c w hc hw hk hparts => ⟨fun hv => ?invalid, fun hv hop => ?stored⟩⟩⟩
  case tooBig => exact documentEnterSlot_gives (enterSlot_tooBig hc hw hp hi hf ht hbig)
  case waits =>
    refine documentEnterSlot_gives ?_
    rw [enterSlot_waits hc hw hp hi hf hn hb hs hfull hnew]
    exact ⟨regN_bump .., cmdOf_putEmbed hc _, rfl⟩
  case enters => exact documentEnterSlot_gives (enterSlot_spec hc hw hp hi hf hn hb hs hroom hr)
  case chunkIdle => exact chunkEncode_gives (chunkEncode_idle hx hp hit hidle)
  case chunkClean => exact chunkEncode_gives (slotOf_chunkEncode_clean hx hp hk hparts)
  case chunkHurt => exact chunkEncode_gives (chunkEncode_hit hx hp hk hparts (by decide) hc)
  case firstSkew =>
    refine chunkEncode_gives ?_
    rw [chunkEncode_hit hx hp hk hparts (by simp) hc]
    exact chunkHit_first hx c f want got gr h0
  case secondSkew =>
    refine chunkEncode_gives ?_
    rw [chunkEncode_hit hx hp hk hparts (by simp) hc]
    exact chunkHit_again c f want got gr h1
  case noTokens => exact attentionPartial_gives (attnPartial_idle hx hp qv hit hnone)
  case partialClean =>
    refine attentionPartial_gives ?_
    rw [attnPartial_runs hx hp qv .clean hq hstall hmine hserves hret htaken]
    exact ⟨rfl, slotOf_setSlot_self hx rfl⟩
  case partialHurt =>
    refine attentionPartial_gives ?_
    rw [attnPartial_runs hx hp qv .hurt hq hstall hmine hserves hret htaken, hc]
    rfl
  case fold =>
    intro q st hnext
    have hnext : FoldsNext s.mod p x q y own := by cases own <;> exact hnext
    refine partialFold_gives ?_
    rw [partialFoldOp_next hx hp hq hnext]
    exact ⟨rfl, _, slotOf_setSlot_self hx rfl, foldPart_spec s.mod p x (foldsNext_row hnext)⟩
  case invalid =>
    refine documentComplete_gives ?_
    rw [docComplete_invalid hx hp hc hw hk hparts hv]
    refine ⟨cmdOf_id hc ▸ cmdOf_embedFail .., slotOf_embedFail _ c _ _ ?_⟩
    exact slotOf_no hx ▸ slotOf_slotDone s.mod x
  case stored => exact documentComplete_gives (docComplete_spec hx hp hc hw hk hparts hop hv)

end Sys2Proof.Proofs

/-! Walks (R133 to R143): what scoring nodes changes of a walk's record, and how far an expansion may go. -/

namespace Sys2Proof.Proofs

open Sys2Proof Sys2Proof.Machine Sys2Proof.Laws

/-- `u` is the walk `w` but for its queue, its visited filter, its list and its prefetched nodes. -/
def KeepsWalk (w u : Walk) : Prop :=
  u = { w with queue := u.queue, filter := u.filter, list := u.list, pfset := u.pfset, waste := u.waste }

namespace KeepsWalk

variable {w u v : Walk}

theorem refl (w : Walk) : KeepsWalk w w := rfl

theorem trans (h : KeepsWalk w u) (g : KeepsWalk u v) : KeepsWalk w v := by
  unfold KeepsWalk at g
  rw [g, h]
  rfl

theorem foldl {α : Type} {f : Walk → α → Walk} (h : ∀ w x, KeepsWalk w (f w x)) (l : List α) (w : Walk) : KeepsWalk w (l.foldl f w) := by
  induction l generalizing w with
  | nil => exact refl w
  | cons x l ih => exact (h w x).trans (ih _)

section
variable (h : KeepsWalk w u)
include h

theorem seg : u.seg = w.seg := (congrArg Walk.seg h).trans rfl
theorem st : u.st = w.st := (congrArg Walk.st h).trans rfl
theorem table : u.table = w.table := (congrArg Walk.table h).trans rfl
theorem scale : u.scale = w.scale := (congrArg Walk.scale h).trans rfl
theorem budget : u.budget = w.budget := (congrArg Walk.budget h).trans rfl
theorem visits : u.visits = w.visits := (congrArg Walk.visits h).trans rfl
theorem stop : u.stop = w.stop := (congrArg Walk.stop h).trans rfl
theorem page : (⟨u.die, .wlk, u.inst⟩ : Page) = ⟨w.die, .wlk, w.inst⟩ :=
  (congrArg (fun y : Walk => (⟨y.die, .wlk, y.inst⟩ : Page)) h).trans rfl

end

end KeepsWalk

section
variable (room : Nat) (co : Coll) (sg : Segment) (sw : SearchW)

theorem pfEvict_keeps (first : List Nat) (need : Nat) (w : Walk) : KeepsWalk w (pfEvict first room need w) := by
  refine .foldl (fun w x => ?_) _ w
  split <;> rfl

theorem pfNode_keeps (first : List Nat) (w : Walk) (n : Nat) : KeepsWalk w (pfNode room sg sw first w n) := by
  unfold pfNode
  split
  · exact .refl w
  · extract_lets adj fresh need u
    have hu : KeepsWalk w u := pfEvict_keeps room first need w
    split
    · exact hu.trans rfl
    · exact hu

theorem prefetch_keeps (w : Walk) : KeepsWalk w (prefetch room sg sw w) := by
  unfold prefetch
  split
  · exact .refl w
  · exact .foldl (pfNode_keeps room sg sw _) _ w

theorem scoreNode_keeps (a : Walk × Tally) (n : Nat) : KeepsWalk a.1 (scoreNode co sg sw a n).1 := by
  unfold scoreNode
  split
  · exact .refl _
  · dsimp only
    split
    · split <;> rfl
    · rfl

theorem visitNode_keeps (a : Walk × Tally) (n : Nat) : KeepsWalk a.1 (visitNode room co sg sw a n).1 :=
  (scoreNode_keeps co sg sw a n).trans (prefetch_keeps room sg sw _)

theorem foldl_visitNode_keeps (l : List Nat) (a : Walk × Tally) : KeepsWalk a.1 (l.foldl (visitNode room co sg sw) a).1 := by
  induction l generalizing a with
  | nil => exact .refl _
  | cons n l ih => exact (visitNode_keeps room co sg sw a n).trans (ih _)

theorem markExpanded_keeps (w : Walk) (n : Nat) : KeepsWalk w (markExpanded w n) := rfl

/-- `u` is the walk `w` after an expansion over at most `n` neighbours (R142, R143): at most one visit is counted for each, none
beyond the budget, and only the budget stops it. -/
structure Expands (n : Nat) (w u : Walk) : Prop where
  keeps : KeepsWalk { w with visits := u.visits, stop := u.stop } u
  counts : w.visits ≤ u.visits
  one_each : u.visits ≤ w.visits + n
  within_budget : u.visits ≤ w.budget
  at_budget : u.stop = 1 → u.visits = w.budget

/-- What follows `k` visits, or none. -/
theorem Expands.after {k n : Nat} {w v u : Walk} (hv : KeepsWalk { w with visits := w.visits + k } v) (h : Expands n v u) :
    Expands (n + k) w u := by
  have hvisits : v.visits = w.visits + k := hv.visits
  have hbudget : v.budget = w.budget := hv.budget
  obtain ⟨hkeeps, hcounts, heach, hwithin, hat⟩ := h
  have hv' : KeepsWalk { w with visits := u.visits, stop := u.stop } { v with visits := u.visits, stop := u.stop } := by
    unfold KeepsWalk at hv
    rw [hv]
    rfl
  exact ⟨hv'.trans hkeeps, by omega, by omega, hbudget ▸ hwithin, hbudget ▸ hat⟩

/-- The neighbours of an expanded node, each visited at most once until the budget is spent (R141 to R143). -/
theorem expandAll_expands (ns : List Nat) (a : Walk × Tally) (hvisits : a.1.visits ≤ a.1.budget) (hstop : a.1.stop ≠ 1) :
    Expands ns.length a.1 (expandAll room co sg sw ns a).1 := by
  induction ns generalizing a with
  | nil => exact ⟨rfl, le_rfl, le_rfl, hvisits, fun h => absurd h hstop⟩
  | cons n ns ih =>
    unfold expandAll
    split
    · obtain ⟨hkeeps, hcounts, heach, hwithin, hat⟩ := ih a hvisits hstop
      exact ⟨hkeeps, hcounts, by simp only [List.length_cons]; omega, hwithin, hat⟩
    · split
      · next hspent => exact ⟨rfl, le_rfl, Nat.le_add_right .., hvisits, fun _ => hspent⟩
      · next hleft =>
        have hv : KeepsWalk { a.1 with visits := a.1.visits + 1 } (visitNode room co sg sw ({ a.1 with visits := a.1.visits + 1 }, a.2) n).1 :=
          visitNode_keeps ..
        generalize visitNode room co sg sw ({ a.1 with visits := a.1.visits + 1 }, a.2) n = b at hv ⊢
        have hvisited : b.1.visits = a.1.visits + 1 := hv.visits
        have hbudget : b.1.budget = a.1.budget := hv.budget
        have hstopped : b.1.stop = a.1.stop := hv.stop
        exact .after hv (ih b (by omega) (hstopped ▸ hstop))

end

/-! What a walk's step counts. -/

section
variable {m t : Mod} {cid seg : Nat} {c : Cmd} {x : WalkCtx}

theorem countTally_onRegs (m : Mod) (w : Walk) (y : Tally) : onRegs.Only m (countTally m w y) :=
  (((bump_only ..).trans (bump_only ..)).trans (bump_only ..)).trans (bump_only ..)

theorem countSectors_onRegs (m : Mod) (sg : Segment) (node n : Nat) : onRegs.Only m (countSectors m sg node n) := by
  unfold countSectors
  split
  · exact .refl _ m
  · split
    · exact .ite rfl (.refl _ m)
    · exact .refl _ m

theorem regN_countTally (m : Mod) (w : Walk) (y : Tally) (q : Page) {r : Nat} (hr : r % 4096 ∉ [0x40, 0x44, 0x60, 0x64]) :
    regN (countTally m w y) q r = regN m q r := by
  simp only [List.mem_cons, List.not_mem_nil, or_false, not_or] at hr
  obtain ⟨h40, h44, h60, h64⟩ := hr
  unfold countTally
  rw [regN_bump_ne _ _ (regAddr_ne_of_offset h64), regN_bump_ne _ _ (regAddr_ne_of_offset h60),
    regN_bump_ne _ _ (regAddr_ne_of_offset h44), regN_bump_ne _ _ (regAddr_ne_of_offset h40)]

theorem regN_countSectors (m : Mod) (sg : Segment) (node n : Nat) (q : Page) {r : Nat} (hr : r % 4096 ≠ 0x70) :
    regN (countSectors m sg node n) q r = regN m q r := by
  unfold countSectors
  split
  · rfl
  · split
    · split
      · exact regN_bump_ne _ _ (regAddr_ne_of_offset hr)
      · rfl
    · rfl

/-- A walk that ends is counted once in its walker's walks completed (R142). -/
theorem regN_countEnd (why : Nat) (m : Mod) (w : Walk) :
    regN (countEnd why m w) ⟨w.die, .wlk, w.inst⟩ 0x48 = min (regN m ⟨w.die, .wlk, w.inst⟩ 0x48 + 1) 0xFFFFFFFF := by
  have hne (k : Nat) (hk : (0x48 : Nat) % 4096 ≠ k % 4096) (u : Mod) (n : Nat) :
      regN (bump u ⟨w.die, .wlk, w.inst⟩ k n) ⟨w.die, .wlk, w.inst⟩ 0x48 = regN u ⟨w.die, .wlk, w.inst⟩ 0x48 :=
    regN_bump_ne u n (regAddr_ne_of_offset hk)
  unfold countEnd
  extract_lets p u
  have hu : regN u p 0x48 = min (regN m p 0x48 + 1) 0xFFFFFFFF := (hne 0x5C (by decide) ..).trans (regN_bump ..)
  split
  · exact (hne 0x54 (by decide) ..).trans hu
  · exact (hne 0x58 (by decide) ..).trans hu
  · exact hu

/-- The work record of a search as `t` holds it, `t` being `m` but for registers and the command table. -/
def HoldsSearch (m t : Mod) (cid : Nat) (c : Cmd) (w : SearchW) : Prop :=
  cmdOf t cid = some { c with search := some w } ∧ t = { m with regs := t.regs, cmds := t.cmds }

theorem putSearch_holds (hc : cmdOf m cid = some c) (ht : onRegs.Only m t) (w : SearchW) : HoldsSearch m (putSearch t c w) cid c w := by
  have hid := cmdOf_id hc
  have hct : cmdOf t c.id = some c := hid ▸ (ht.same (cmdOf · cid) fun _ _ => rfl).trans hc
  exact ⟨hid ▸ cmdOf_setCmd_self (d := { c with search := some w }) hct,
    (ht.widen fun _ _ => rfl : onSearch.Only m t).trans rfl⟩

/-! A walk and what it belongs to. -/

/-- `x` is the walk of command `cid` over segment `seg`, with its record, shard and segment. -/
structure WalkFound (m : Mod) (cid seg : Nat) (x : WalkCtx) : Prop where
  cmd : cmdOf m cid = some x.cmd
  shard : shardOf m (collId x.cmd.entry) = some x.co
  seg_no : x.sg.no = seg
  walk_seg : x.w.seg = seg
  walk_mem : x.w ∈ x.sw.walks

theorem walkCtx_found (h : walkCtx m cid seg = some x) : WalkFound m cid seg x := by
  simp only [walkCtx, bind, pure, Option.bind_eq_some_iff, Option.some.injEq] at h
  obtain ⟨c, hc, sw, -, co, hco, g, -, sg, hsg, w, hw, rfl⟩ := h
  exact ⟨hc, hco, by simpa using List.find?_some hsg, by simpa using List.find?_some hw, List.mem_of_find?_eq_some hw⟩

theorem mem_setWalk {sw : SearchW} {w u : Walk} (hw : w ∈ sw.walks) (hseg : u.seg = w.seg) : u ∈ (setWalk sw u).walks :=
  List.mem_map.2 ⟨w, hw, if_pos (decide_eq_true hseg.symm)⟩

theorem onWalker_serving {w : Walk} (h : inService m (walkerUnit w.die w.inst) = true) : onWalker m w = w := if_pos h

/-! WALK_START (R133, R136, R139, R141). -/

theorem walkStart_idle (hx : walkCtx m cid seg = some x) (hs : inService m (walkerUnit x.w.die x.w.inst) = true)
    (hmay : mayStart m x x.w = false) (hurt : Option (Nat × Nat)) : walkStartOp m cid seg hurt = m := by
  cases hurt <;> simp [walkStartOp, walkStart, hx, onWalker_serving hs, hmay]

/-- A walk as it begins: in its context, with the query's distance table (R133, R136). -/
def begunWalk (x : WalkCtx) (pf : Bool) : Walk :=
  let tb := buildTable x.co.dist x.co.d x.sg.m x.sw.query x.sg.book
  { x.w with st := 1, table := tb.1, scale := tb.2.1, pf := pf }

theorem walkStart_starts (hx : walkCtx m cid seg = some x) (hs : inService m (walkerUnit x.w.die x.w.inst) = true)
    (hmay : mayStart m x x.w = true) :
    ∃ t pf u, onRegs.Only m t ∧ KeepsWalk (begunWalk x pf) u ∧ walkStartOp m cid seg none = putSearch t x.cmd (setWalk x.sw u) := by
  simp only [walkStartOp, walkStart, hx, onWalker_serving hs, hmay, Bool.not_true, Bool.false_eq_true, if_false]
  exact ⟨_, _, _, (countTally_onRegs ..).trans (countSectors_onRegs ..), foldl_visitNode_keeps (a := (begunWalk x _, tally0)) .., rfl⟩

/-! WALK_EXPANSION (R141 to R143). -/

/-- The walk whose first unexpanded candidate `q` begins its expansion (R141, R144). -/
def expandingWalk (m : Mod) (x : WalkCtx) (q : QEnt) : Walk := prefetch (pfRoom m x.w) x.sg x.sw (markExpanded x.w q.node)

def expandedWalk (m : Mod) (x : WalkCtx) (q : QEnt) : Walk × Tally :=
  expandAll (pfRoom m x.w) x.co x.sg x.sw ((x.sg.nodes[q.node]?.map (·.adj)).getD []) (expandingWalk m x q, tally0)

theorem expandingWalk_keeps (m : Mod) (x : WalkCtx) (q : QEnt) : KeepsWalk x.w (expandingWalk m x q) :=
  (markExpanded_keeps x.w q.node).trans (prefetch_keeps ..)

theorem expandedWalk_expands (m : Mod) (q : QEnt) (hstop : x.w.stop = 0) (hv : x.w.visits ≤ x.w.budget) :
    Expands ((x.sg.nodes[q.node]?.map (·.adj)).getD []).length x.w (expandedWalk m x q).1 := by
  have hq := expandingWalk_keeps m x q
  refine .after (k := 0) hq (expandAll_expands _ _ _ _ _ (expandingWalk m x q, tally0) ?_ ?_)
  · exact hq.visits.trans_le (hv.trans_eq hq.budget.symm)
  · exact fun h => absurd (hstop.symm.trans (hq.stop.symm.trans h)) (by decide)

/-- What an expansion that began with `v₀` visits counts. -/
def countExpansion (m : Mod) (r : Walk × Tally) (v₀ : Nat) : Mod :=
  bump (bump (countTally m r.1 r.2) ⟨r.1.die, .wlk, r.1.inst⟩ 0x50) ⟨r.1.die, .wlk, r.1.inst⟩ 0x4C (r.1.visits - v₀)

theorem countExpansion_onRegs (m : Mod) (r : Walk × Tally) (v₀ : Nat) : onRegs.Only m (countExpansion m r v₀) :=
  (countTally_onRegs ..).trans ((bump_only ..).trans (bump_only ..))

/-- An expansion counts one expansion and its visits (R142). -/
theorem regN_countExpansion (m : Mod) (r : Walk × Tally) (v₀ : Nat) :
    let p : Page := ⟨r.1.die, .wlk, r.1.inst⟩
    regN (countExpansion m r v₀) p 0x50 = min (regN m p 0x50 + 1) 0xFFFFFFFF ∧
      regN (countExpansion m r v₀) p 0x4C = min (regN m p 0x4C + (r.1.visits - v₀)) 0xFFFFFFFF := by
  constructor
  · rw [countExpansion, regN_bump_ne _ _ (regAddr_ne_of_offset (by decide)), regN_bump, regN_countTally _ _ _ _ (by decide)]
  · rw [countExpansion, regN_bump, regN_bump_ne _ _ (regAddr_ne_of_offset (by decide)), regN_countTally _ _ _ _ (by decide)]

theorem walkExpansion_expands (hx : walkCtx m cid seg = some x) {q : QEnt} (hst : x.w.st = 1) (hstop : x.w.stop = 0)
    (hdeg : x.sg.degraded = false) (hgo : stopped m x.cmd = false) (hstall : unitsStall m = false)
    (hq : x.w.queue.find? (fun y => !y.done) = some q) :
    ∃ k, walkExpansion m cid seg none =
      putSearch (countSectors (countExpansion m (expandedWalk m x q) x.w.visits) x.sg q.node k) x.cmd
        (setWalk x.sw (expandedWalk m x q).1) := by
  rw [← (expandingWalk_keeps m x q).visits]
  simp only [walkExpansion, walkExpand, hx, hst, hstop, hdeg, hgo, hstall, hq]
  exact ⟨_, rfl⟩

/-- A segment marked degraded is so in every generation of its shard (R153). -/
theorem markSeg_degrades {co : Coll} {k : Nat} (h : shardOf m k = some co) (no : Nat) :
    ∃ co', shardOf (markSeg m k no true) k = some co' ∧ ∀ g ∈ co'.gens, ∀ y ∈ g.segs, y.no = no → y.degraded = true := by
  have hid : co.id = k := shardOf_id h
  subst hid
  unfold markSeg
  extract_lets f
  rw [h]
  refine ⟨_, shardOf_setColl_self (d := { co with gens := _, built := _ }) h, fun g hg y hy hno => ?_⟩
  obtain ⟨g₀, -, rfl⟩ := List.mem_map.1 hg
  obtain ⟨y₀, -, rfl⟩ := List.mem_map.1 hy
  by_cases h₀ : y₀.no = no
  · exact congrArg Segment.degraded (if_pos h₀ : f y₀ = _)
  · rw [show f y₀ = y₀ from if_neg h₀] at hno
    exact absurd hno h₀

/-- A walk's uncorrectable read ends the search and degrades the segment (R153). -/
theorem walkHurt_ends (h : WalkFound m cid seg x) (a : Nat × Nat) :
    cmdOf (walkHurt m x a) cid = none ∧ ∃ co, shardOf (walkHurt m x a) (collId x.cmd.entry) = some co ∧
      ∀ g ∈ co.gens, ∀ y ∈ g.segs, y.no = seg → y.degraded = true := by
  obtain ⟨hcmd, hshard, rfl, -, -⟩ := h
  unfold walkHurt
  extract_lets u
  have hu : u.colls = m.colls := by
    unfold u
    rw [(logsOn_logErr ..).1, (eccEvent_effect m a.1 .uncorrectable).frame]
  have hmark := markSeg_degrades (m := u) (k := collId x.cmd.entry) (by rw [shardOf, hu]; exact hshard) x.sg.no
  rw [← (finish_onFinish (markSeg u (collId x.cmd.entry) x.sg.no true) x.cmd { status := 0x30, info := 0 }).same
    (shardOf · (collId x.cmd.entry)) fun _ _ => rfl] at hmark
  exact ⟨cmdOf_id hcmd ▸ cmdOf_finish .., hmark⟩

theorem walkStart_hurt (hx : walkCtx m cid seg = some x) (hs : inService m (walkerUnit x.w.die x.w.inst) = true)
    (hmay : mayStart m x x.w = true) (a : Nat × Nat) : walkStartOp m cid seg (some a) = walkHurt m x a := by
  simp only [walkStartOp, hx, onWalker_serving hs, hmay, if_true]

theorem walkExpansion_hurt (hx : walkCtx m cid seg = some x) (hst : x.w.st = 1) (hdeg : x.sg.degraded = false) (a : Nat × Nat) :
    walkExpansion m cid seg (some a) = walkHurt m x a := by
  simp only [walkExpansion, hx, hst, hdeg, decide_true, Bool.not_false, Bool.and_self, if_true]

/-! WALK_END (R142, R154, R155). -/

/-- A running walk ends at its budget, with nothing left to expand, or at the stop tick (R142, R155). -/
theorem walkEnd_running (hx : walkCtx m cid seg = some x) (hst : x.w.st = 1) : walkEnd m cid seg =
    if x.w.stop = 1 ∨ x.w.visits = x.w.budget then endWalk m x 1
    else if ∀ q ∈ x.w.queue, q.done = true then endWalk m x 0
    else if stopped m x.cmd = false then m
    else if x.w.again = true then finish m x.cmd { status := 0x11 } else endWalk m x 2 := by
  simp [walkEnd, hx, hst, finishBad]

/-- A walk that ends hands its list to the riddle and gives its context back (R142). -/
theorem endWalk_hands (h : WalkFound m cid seg x) (why : Nat) :
    ∃ sw, HoldsSearch m (endWalk m x why) cid x.cmd sw ∧ endedWalk why x.w ∈ sw.walks ∧
      sw.inbox = (arrive x.sw (walkList x.sg x.w)).inbox ∧ sw.dlStop = (x.sw.dlStop || why = 2) ∧
      regN (endWalk m x why) ⟨x.w.die, .wlk, x.w.inst⟩ 0x48 = min (regN m ⟨x.w.die, .wlk, x.w.inst⟩ 0x48 + 1) 0xFFFFFFFF :=
  ⟨_, putSearch_holds h.cmd (countEnd_onRegs why m x.w) _, mem_setWalk h.walk_mem rfl, rfl, rfl, regN_countEnd why m x.w⟩

end

section
variable {s : State} {P : Mod → Prop} {cid seg : Nat} {hurt : Option (Nat × Nat)}

theorem walkStart_gives (h : P (walkStartOp s.mod cid seg hurt)) : Gives (.walkStart cid ⟨seg, hurt⟩) s P := (gives_iff rfl P).2 h

theorem walkExpansion_gives (h : P (walkExpansion s.mod cid seg hurt)) : Gives (.walkExpansion cid seg hurt) s P := (gives_iff rfl P).2 h

theorem walkEnd_gives (h : P (walkEnd s.mod cid seg)) : Gives (.walkEnd cid seg) s P := (gives_iff rfl P).2 h

end

/-- Settles O30: a walk's start, its expansion and its end, each by its case. -/
theorem walksTakeTheirSteps : Obligations.WalksTakeTheirSteps := by
  intro s cid seg x hx p tb holds ended ended'
  have hf := walkCtx_found hx
  have hended (why : Nat) (hrun : walkEnd s.mod cid seg = endWalk s.mod x why) (dl : Bool) (hdl : decide (why = 2) = dl) :
      Gives (.walkEnd cid seg) s fun t => ended' t dl := by
    obtain ⟨sw, hsw, hmem, hinbox, hstop, h48⟩ := endWalk_hands hf why
    exact walkEnd_gives (hrun ▸ ⟨_, sw, hsw, hmem, hf.walk_seg, rfl, hinbox, hdl ▸ hstop, h48⟩)
  refine ⟨fun hs => ⟨fun hmay a => ?startWaits, fun hmay => ?starts, fun hmay a => ?startHurt⟩,
    fun q hst hstop hdeg hgo hstall hq hv => ?expands, fun a hst hdeg => ?expansionHurt,
    fun hst => ⟨fun hend => ?ends, fun hstop hbudget hleft => ⟨fun hgo => ?goesOn, fun hat hagain => ?stops, fun hat hagain => ?deadline⟩⟩⟩
  case startWaits => exact walkStart_gives (walkStart_idle hx hs hmay a)
  case starts =>
    obtain ⟨t, pf, u, ht, hu, hrun⟩ := walkStart_starts hx hs hmay
    refine walkStart_gives (hrun ▸ ⟨u, _, putSearch_holds hf.cmd ht _, mem_setWalk hf.walk_mem hu.seg, ?_⟩)
    exact ⟨hu.seg.trans hf.walk_seg, hu.st, hu.table, hu.scale, hu.visits⟩
  case startHurt => exact walkStart_gives (walkStart_hurt hx hs hmay a ▸ walkHurt_ends hf a)
  case expands =>
    obtain ⟨k, hrun⟩ := walkExpansion_expands hx hst hstop hdeg hgo hstall hq
    obtain ⟨hkeeps, hcounts, heach, hwithin, hat⟩ := expandedWalk_expands s.mod q hstop hv
    obtain ⟨h50, h4C⟩ := regN_countExpansion s.mod (expandedWalk s.mod x q) x.w.visits
    have hbudget : (expandedWalk s.mod x q).1.budget = x.w.budget := hkeeps.budget
    rw [hkeeps.page] at h50 h4C
    refine walkExpansion_gives (hrun ▸ ⟨(expandedWalk s.mod x q).1, _,
      putSearch_holds hf.cmd ((countExpansion_onRegs ..).trans (countSectors_onRegs ..)) _, mem_setWalk hf.walk_mem hkeeps.seg,
      hkeeps.seg.trans hf.walk_seg, hkeeps.st.trans hst, hcounts, hbudget ▸ hwithin, hbudget, heach, hbudget ▸ hat, ?_, ?_⟩)
    · exact (regN_countSectors _ _ _ _ _ (by decide)).trans h50
    · exact (regN_countSectors _ _ _ _ _ (by decide)).trans h4C
  case expansionHurt => exact walkExpansion_gives (walkExpansion_hurt hx hst hdeg a ▸ walkHurt_ends hf a)
  case ends =>
    have hrun := walkEnd_running hx hst
    by_cases hspent : x.w.stop = 1 ∨ x.w.visits = x.w.budget
    · exact hended 1 (hrun.trans (if_pos hspent)) false rfl
    · have hdone : ∀ q ∈ x.w.queue, q.done = true := (or_assoc.2 hend).resolve_left hspent
      exact hended 0 (hrun.trans ((if_neg hspent).trans (if_pos hdone))) false rfl
  all_goals
    have hdone : ¬ ∀ q ∈ x.w.queue, q.done = true := fun h => by
      obtain ⟨q, hq, hopen⟩ := hleft
      simp [h q hq] at hopen
    have hrun := walkEnd_running hx hst
    rw [if_neg (not_or.2 ⟨hstop, hbudget⟩), if_neg hdone] at hrun
  case goesOn => exact walkEnd_gives (hrun.trans (if_pos hgo))
  case stops => exact hended 2 (by simpa [hat, hagain] using hrun) true rfl
  case deadline => exact walkEnd_gives (by simpa [hat, hagain] using hrun)

end Sys2Proof.Proofs

/-! Drill scans, the riddle's merges and exact re-rank (R150 to R153, R171, R172, R183, R187, R369 to R372). -/

namespace Sys2Proof.Proofs

open Sys2Proof Sys2Proof.Machine Sys2Proof.Laws

theorem insertBy_length {α : Type} (lt : α → α → Bool) (x : α) (l : List α) : (insertBy lt x l).length = l.length + 1 := by
  induction l with
  | nil => rfl
  | cons y l ih =>
    unfold insertBy
    split
    · rfl
    · simp [ih]

theorem sortBy_length {α : Type} (lt : α → α → Bool) (l : List α) : (sortBy lt l).length = l.length := by
  have (l acc : List α) : (l.foldl (fun acc x => insertBy lt x acc) acc).length = acc.length + l.length := by
    induction l generalizing acc with
    | nil => rfl
    | cons x l ih => rw [List.foldl_cons, ih, insertBy_length, List.length_cons]; omega
  exact (this l []).trans (Nat.zero_add _)

section
variable {s : State} {m t : Mod} {cid coll seg st dr : Nat} {c : Cmd} {co : Coll} {g : Gen} {sg : Segment} {w : SearchW}

/-! STOCKPILE_SCAN_PASS (R150, R187, R369). -/

/-- An entry of a scan's list was there before, or is that of a visible entry of the slice, not met before, live and of a matching
word, with its exact score. -/
theorem mem_scanSlice {vis : List SEntry} {mine : List Word} {e : REnt} (he : e ∈ (scanSlice co vis w mine).slist) :
    e ∈ w.slist ∨ ∃ y ∈ vis, e.key = y.key ∧ y.pos ∈ mine ∧ y.pos ∉ w.scanned ∧ isTomb co (.stock y.pos) = false ∧
      e.score = exactScore co.dist w.query (expandVec co.ty y.vec) ∧ e.src = .stock y.pos := by
  have he := List.mem_of_mem_take he
  rw [mem_sortBy, List.mem_append] at he
  refine he.imp_right fun he => ?_
  obtain ⟨y, hy, hsome⟩ := List.mem_filterMap.1 he
  obtain ⟨hvis, hmine⟩ := List.mem_filter.1 hy
  simp only [Bool.and_eq_true, Bool.not_eq_true', decide_eq_true_eq, decide_eq_false_iff_not] at hmine
  obtain ⟨hslice, hnew⟩ := hmine
  obtain ⟨hpass, hscored⟩ := Option.ite_none_left_eq_some.1 hsome
  obtain ⟨-, hent⟩ := Option.ite_none_right_eq_some.1 hscored
  cases hent
  have hlive : isTomb co (.stock y.pos) = false := by
    simp only [Bool.or_eq_true, not_or, Bool.not_eq_true] at hpass
    exact hpass.1
  exact ⟨y, hvis, rfl, hslice, hnew, hlive, rfl, rfl⟩

theorem scanSlice_length (co : Coll) (vis : List SEntry) (w : SearchW) (mine : List Word) :
    (scanSlice co vis w mine).slist.length ≤ w.k + 16 := List.length_take_le ..

theorem stockScan_busy (h : drillFree m st dr = false) (sl : List Nat) (la hu : Bool) : stockScan m coll st dr sl la hu = m := by
  unfold stockScan
  split
  · rfl
  · simp [h]

/-- The searches of a stockpile scan pass, in order of admission (R369). -/
def stockPass (m : Mod) (coll : Nat) (co : Coll) : List Nat :=
  let first := batchOf m coll 1 fun w => w.scan = 1
  let l := ((first.head?.bind (cmdOf m)).bind (·.search)).map fun w => w.k + 16
  batchOf m coll (passSize co.d (l.getD 0)) fun w => w.scan = 1

theorem stockScan_free (hs : shardOf m coll = some co) (h : drillFree m st dr = true) (sl : List Nat) (la hu : Bool) :
    stockScan m coll st dr sl la hu = if hu then scanHurt m (stockPass m coll co)
      else (stockPass m coll co).foldl (scanOne coll (.drill st dr) (sliceStock m co st dr (sl.map (BitVec.ofNat 32))) la) m := by
  simp only [stockScan, hs, h]
  rfl

theorem cmdOf_finish_none {i : Nat} (h : cmdOf m i = none) (c : Cmd) (f : Fin) : cmdOf (finish m c f) i = none := by
  rw [cmdOf, finish_cmds, List.find?_eq_none]
  exact fun x hx => List.find?_eq_none.1 h x (List.mem_filter.1 hx).1

/-- One search of a pass ended by its drill's uncorrectable error. -/
def hurtOne (m : Mod) (id : Nat) : Mod :=
  match cmdOf m id with
  | some c => finishBad m c 0x30 0
  | none => m

theorem scanHurt_eq (m : Mod) (ids : List Nat) : scanHurt m ids = ids.foldl hurtOne m := rfl

theorem cmdOf_hurtOne_self (m : Mod) (i : Nat) : cmdOf (hurtOne m i) i = none := by
  unfold hurtOne
  split
  · next c hc => exact cmdOf_id hc ▸ cmdOf_finish ..
  · assumption

theorem cmdOf_hurtOne_none {i : Nat} (h : cmdOf m i = none) (j : Nat) : cmdOf (hurtOne m j) i = none := by
  unfold hurtOne
  split
  · exact cmdOf_finish_none h ..
  · exact h

/-- A pass whose drill met an uncorrectable error ends its searches (R363, R421). -/
theorem cmdOf_scanHurt {ids : List Nat} {i : Nat} (h : i ∈ ids ∨ cmdOf m i = none) : cmdOf (scanHurt m ids) i = none := by
  rw [scanHurt_eq]
  induction ids generalizing m with
  | nil => exact h.resolve_left List.not_mem_nil
  | cons j ids ih =>
    rw [List.mem_cons, or_assoc] at h
    rcases h with rfl | h | h
    · exact ih (.inr (cmdOf_hurtOne_self m i))
    · exact ih (.inl h)
    · exact ih (.inr (cmdOf_hurtOne_none h j))

/-- A search's share of a pass before its stop tick (R150, R369). -/
theorem scanOne_scores (hs : shardOf m coll = some co) (hc : cmdOf m cid = some c) (hw : c.search = some w) (hg : genOf co c.gen = some g)
    (hgo : stopped m c = false) (u : UnitId) (slice : List Word) (la : Bool) :
    let vis := visibleStock co g c.admTick
    scanOne coll u slice la m cid = putSearch (addSats m u (scanSats co vis w slice)) c
      (if la then scanDone (scanSlice co vis w slice) vis else scanSlice co vis w slice) := by
  simp only [scanOne, hc, hw, hs, hg, hgo]
  rfl

/-! FLAT_SCAN_PASS (R171, R172, R372). -/

theorem mem_flatNodes {i : Nat} (h : i ∈ flatNodes co sg w) :
    ∃ n, sg.nodes[i]? = some n ∧ filterTest w.enable w.signed w.filter n.attr = true ∧ isTomb co (.ord (segId sg) i) = false := by
  obtain ⟨-, hany⟩ := List.mem_filter.1 h
  obtain ⟨n, hn, htest⟩ := (Option.any_eq_true _ _).1 hany
  simp only [Bool.and_eq_true, Bool.not_eq_true'] at htest
  exact ⟨n, hn, htest.1.2, htest.2⟩

theorem flatList_length (co : Coll) (sg : Segment) (w : SearchW) : (flatList co sg w).ents.length ≤ listLen w.k w.rr := by
  dsimp only [flatList]
  rw [sortBy_length]
  exact (List.length_filterMap_le ..).trans (List.length_take_le ..)

/-- An entry of a flat scan's list stands for a live node of the segment whose word matches (R171). -/
theorem mem_flatList {e : REnt} (he : e ∈ (flatList co sg w).ents) :
    ∃ n y, sg.nodes[n]? = some y ∧ e.key = y.key ∧ e.src = .ord (segId sg) n ∧
      filterTest w.enable w.signed w.filter y.attr = true ∧ isTomb co (.ord (segId sg) n) = false := by
  dsimp only [flatList] at he
  rw [mem_sortBy] at he
  obtain ⟨q, hq, hent⟩ := List.mem_filterMap.1 he
  have hq := List.mem_of_mem_take hq
  rw [mem_sortBy] at hq
  obtain ⟨i, hi, hqi⟩ := List.mem_filterMap.1 hq
  obtain ⟨n, hn, hsieve⟩ := Option.bind_eq_some_iff.1 hqi
  obtain ⟨-, hscored⟩ := Option.ite_none_right_eq_some.1 hsieve
  cases hscored
  obtain ⟨y, hy, rfl⟩ := Option.map_eq_some_iff.1 hent
  obtain ⟨y', hy', hfilter, hlive⟩ := mem_flatNodes hi
  cases hy.symm.trans hy'
  exact ⟨i, y, hy, rfl, rfl, hfilter, hlive⟩

theorem flatScan_scans (hs : shardOf m coll = some co) (hc : cmdOf m cid = some c) (hw : c.search = some w) (hg : genOf co c.gen = some g)
    (hsg : segOf g seg = some sg) (hbatch : flatBatch m coll seg = [cid]) (hdeg : sg.degraded = false) (hgo : stopped m c = false)
    (hstall : unitsStall m = false) (hhome : homing m sg = false) :
    flatScan m coll seg false = putSearch (flatSats (writeTables m co sg [cid]) co sg w) c
      (arrive { w with flats := w.flats.filter (· != seg) } (flatList co sg w)) := by
  have hone : flatScan m coll seg false = flatOne coll seg (writeTables m co sg [cid]) cid := by
    simp only [flatScan, hbatch, List.head?_cons, Option.bind_some, hc, hs, hg, hsg, hdeg, hstall, hhome]
    rfl
  have hc' : cmdOf (writeTables m co sg [cid]) cid = some c := hc
  have hs' : shardOf (writeTables m co sg [cid]) coll = some co := hs
  have hgo' : stopped (writeTables m co sg [cid]) c = false := hgo
  rw [hone]
  simp only [flatOne, hc', hw, hs', Option.bind_some, hg, hsg, Option.map_some, hgo']
  rfl

/-! RIDDLE_MERGE (R183). -/

theorem mergeInto_onRegs (m : Mod) (w : SearchW) (l : PList) (len : Nat) : onRegs.Only m (mergeInto m w l len).1 := rfl

theorem riddleMerge_merges {l : PList} {ls : List PList} (hc : cmdOf m cid = some c) (hw : c.search = some w) (hin : w.inbox = l :: ls)
    (h2 : l.kind ≠ 2) (h1 : l.kind = 1 → w.rr = 0) :
    riddleMerge m cid = advance (mergeInto m { w with inbox := ls } l (listLen w.k w.rr)).1 c
      (mergeInto m { w with inbox := ls } l (listLen w.k w.rr)).2 := by
  have hnow : (decide (l.kind = 2) || (decide (l.kind = 1) && w.rr != 0)) = false := by
    simpa [h2] using h1
  simp only [riddleMerge, hc, hw, hin, hnow]
  rfl

theorem riddleMerge_keeps {l : PList} {ls : List PList} (hc : cmdOf m cid = some c) (hw : c.search = some w) (hin : w.inbox = l :: ls)
    (h : l.kind = 2 ∨ (l.kind = 1 ∧ w.rr ≠ 0)) :
    riddleMerge m cid = advance m c { w with inbox := ls, late := w.late ++ [l], anyFull := w.anyFull || l.full } := by
  have hlate : (decide (l.kind = 2) || (decide (l.kind = 1) && w.rr != 0)) = true := by
    simpa using h
  simp only [riddleMerge, hc, hw, hin, hlate]
  rfl

/-! RERANK (R152, R153). -/

/-- Candidate `idx` of a re-rank as it is found while drift engines run: its search, the node it names and that node's segment. -/
structure Candidate (m : Mod) (cid idx : Nat) (c : Cmd) (co : Coll) (w : SearchW) (e : REnt) (sg : Segment) (n : Nat) : Prop where
  cmd : cmdOf m cid = some c
  search : c.search = some w
  shard : shardOf m (collId c.entry) = some co
  cand : w.cand.find? (fun y => y.1 = idx) = some (idx, e)
  node : ∃ sn, e.src = .ord sn n ∧ (genOf co c.gen).bind (segById · sn) = some sg
  runs : unitsStall m = false

/-- The exact score's entry that takes a candidate's place (R152). -/
def rerankedEnt (co : Coll) (w : SearchW) (e : REnt) (sg : Segment) (n : Nat) : REnt :=
  { mkEnt e.key (exactScore co.dist w.query (expandVec co.ty ((sg.nodes[n]?.map (·.vec)).getD []))) 0x0C#8 e.gen e.src with seq := w.arrived }

variable {idx n : Nat} {e : REnt}

/-- A unit of flash that the vector needs and that cannot be corrected ends the search (R153). -/
theorem rerank_hurt (h : Candidate m cid idx c co w e sg n) (hflash : flashUnits m (vecAddr co sg n) (vecStride co) ≠ []) :
    cmdOf (rerankOp m cid idx .uncorrectable) cid = none := by
  obtain ⟨hc, hw, hs, he, ⟨sn, hsrc, hseg⟩, hstall⟩ := h
  obtain ⟨u, us, hus⟩ := List.exists_cons_of_ne_nil hflash
  simp only [rerankOp, hc, hw, hs, he, hsrc, hseg, hstall, hus]
  exact cmdOf_id hc ▸ cmdOf_finish ..

/-- What a re-rank takes beside the work records: counters, unit records and saturated scores. -/
def onRerank : Portion := ⟨fun m t => { m with regs := t.regs, units := t.units, sats := t.sats }, fun _ => rfl, fun _ _ _ => rfl⟩

/-- What an exact score counts: the reads of its vector's units, its drift engine's work, and whether it saturates (R41, R152). -/
def countRerank (m : Mod) (co : Coll) (w : SearchW) (sg : Segment) (n : Nat) : Mod :=
  let ch := vecChannel m co sg n
  let p : Page := ⟨4, .dft, driftFor m ch⟩
  let us := flashUnits m (vecAddr co sg n) (vecStride co)
  let t := placed (if us.isEmpty then bump m p 0x44 else bump m ⟨4, .flc, ch⟩ 0x4C us.length) (.page p)
  addSats (bump t p 0x40) (.page p) (bN (exactOver co.dist w.query (expandVec co.ty ((sg.nodes[n]?.map (·.vec)).getD []))))

theorem addSats_onRerank (m : Mod) (u : UnitId) (n : Nat) : onRerank.Only m (addSats m u n) := .ite (.refl _ m) rfl

theorem countRerank_onRerank (m : Mod) (co : Coll) (w : SearchW) (sg : Segment) (n : Nat) : onRerank.Only m (countRerank m co w sg n) := by
  unfold countRerank
  extract_lets ch p us t
  have hread : onRerank.Only m (if us.isEmpty then bump m p 0x44 else bump m ⟨4, .flc, ch⟩ 0x4C us.length) := .ite rfl rfl
  have ht : onRerank.Only m t := hread.trans rfl
  exact (ht.trans ((bump_only ..).widen fun _ _ => rfl)).trans (addSats_onRerank ..)

/-- A search whose candidate `idx` was scored, before the score's entry is merged. -/
def rescored (w : SearchW) (idx : Nat) : SearchW := { w with cand := w.cand.filter (fun y => y.1 != idx), arrived := w.arrived + 1 }

/-- The exact score's entry takes its candidate's place (R152). -/
theorem rerank_replaces (h : Candidate m cid idx c co w e sg n) :
    let r := mergeInto (countRerank m co w sg n) (rescored w idx) ⟨[rerankedEnt co w e sg n], false, 0⟩ (w.k + 16)
    rerankOp m cid idx .ok = advance r.1 c r.2 := by
  obtain ⟨hc, hw, hs, he, ⟨sn, hsrc, hseg⟩, hstall⟩ := h
  cases hus : flashUnits m (vecAddr co sg n) (vecStride co) <;>
    simp only [rerankOp, countRerank, rescored, rerankedEnt, hc, hw, hs, he, hsrc, hseg, hstall, hus, Bool.false_eq_true, if_false]

theorem stockpileScanPass_gives {P : Mod → Prop} {sl : List Nat} {la hu : Bool} (h : P (stockScan s.mod coll st dr sl la hu)) :
    Gives (.stockpileScanPass coll st dr sl la hu) s P := (gives_iff rfl P).2 h

theorem flatScanPass_gives {P : Mod → Prop} {hu : Bool} (h : P (flatScan s.mod coll seg hu)) : Gives (.flatScanPass coll seg hu) s P :=
  (gives_iff rfl P).2 h

theorem riddleMerge_gives {P : Mod → Prop} (h : P (riddleMerge s.mod cid)) : Gives (.riddleMerge cid) s P := (gives_iff rfl P).2 h

theorem rerank_gives {P : Mod → Prop} {ecc : Ecc} (h : P (rerankOp s.mod cid idx ecc)) : Gives (.rerank cid idx ecc) s P :=
  (gives_iff rfl P).2 h

end

/-- Settles O32: each row by the lemma on its operation. -/
theorem scansAndRerankFeedTheRiddle : Obligations.ScansAndRerankFeedTheRiddle := by
  intro s coll co hs
  refine ⟨fun st dr sl la hu hbusy => ?busy, fun st dr sl la hfree => ⟨?hurt, fun i c w g hids hc hw hg hgo => ⟨fun e he => mem_scanSlice he,
      scanSlice_length .., ?scans⟩⟩,
    fun i c w g sg seg hbatch hc hw hg hsg hdeg hgo hstall hhome => ⟨flatList_length .., fun e he => mem_flatList he, ?flat⟩,
    fun cid c w l ls hc hw hin h2 h1 => ⟨rfl, rfl, mergeInto_onRegs .., ?merges⟩,
    fun cid c w l ls hc hw hin hlate => ?keeps,
    fun cid c w idx e sn n sg hc hw hcoll he hsrc hseg hstall => ⟨fun hflash => ?hurtUnit, ?replaces⟩⟩
  case busy => exact stockpileScanPass_gives (stockScan_busy hbusy sl la hu)
  case hurt => exact stockpileScanPass_gives (stockScan_free hs hfree sl la true ▸ fun i hi => cmdOf_scanHurt (.inl hi))
  case scans =>
    have hpass : stockPass s.mod coll co = [i] := hids
    refine stockpileScanPass_gives ((stockScan_free hs hfree sl la false).trans ?_)
    rw [hpass]
    exact scanOne_scores hs hc hw hg hgo ..
  case flat => exact flatScanPass_gives (flatScan_scans hs hc hw hg hsg hbatch hdeg hgo hstall hhome)
  case merges => exact riddleMerge_gives (riddleMerge_merges hc hw hin h2 h1)
  case keeps => exact riddleMerge_gives (riddleMerge_keeps hc hw hin hlate)
  case hurtUnit => exact rerank_gives (rerank_hurt ⟨hc, hw, hcoll ▸ hs, he, ⟨sn, hsrc, hseg⟩, hstall⟩ hflash)
  case replaces =>
    have hrun := rerank_replaces ⟨hc, hw, hcoll ▸ hs, he, ⟨sn, hsrc, hseg⟩, hstall⟩
    exact rerank_gives ⟨_, _, (countRerank_onRerank ..).trans ((mergeInto_onRegs ..).widen fun _ _ => rfl), hrun, rfl, rfl⟩

end Sys2Proof.Proofs


/-! What the riddle keeps (R177, R178, R182): a list merged into a held list, entry by entry. -/

namespace Sys2Proof.Proofs

open Sys2Proof Sys2Proof.Machine Sys2Proof.Laws

/-! Order. -/

/-- Insertion keeps a list in an order that is asymmetric and whose complement is transitive. -/
theorem pairwise_insertBy {α : Type} {lt : α → α → Bool} (asymm : ∀ a b, lt a b = true → lt b a = false)
    (trans : ∀ a b c, lt b a = false → lt c b = false → lt c a = false) (x : α) {l : List α}
    (h : l.Pairwise fun a b => lt b a = false) : (insertBy lt x l).Pairwise fun a b => lt b a = false := by
  induction l with
  | nil => exact List.pairwise_singleton ..
  | cons y l ih =>
    obtain ⟨hy, hl⟩ := List.pairwise_cons.1 h
    unfold insertBy
    split
    next hxy =>
      have hyx := asymm x y hxy
      exact List.pairwise_cons.2 ⟨List.forall_mem_cons.2 ⟨hyx, fun z hz => trans x y z hyx (hy z hz)⟩, h⟩
    next hxy =>
      refine List.pairwise_cons.2 ⟨fun z hz => ?_, ih hl⟩
      rcases (mem_insertBy ..).1 hz with rfl | hz
      · exact Bool.eq_false_iff.2 hxy
      · exact hy z hz

theorem nodup_map_insertBy {α β : Type} {lt : α → α → Bool} {f : α → β} {x : α} {l : List α} (h : (l.map f).Nodup)
    (hx : ∀ y ∈ l, f y ≠ f x) : ((insertBy lt x l).map f).Nodup := by
  induction l with
  | nil => simp [insertBy]
  | cons y l ih =>
    obtain ⟨hyl, hl⟩ := List.nodup_cons.1 h
    obtain ⟨hy, hxl⟩ := List.forall_mem_cons.1 hx
    unfold insertBy
    split
    · refine List.nodup_cons.2 ⟨fun hm => ?_, h⟩
      obtain ⟨z, hz, hzx⟩ := List.mem_map.1 hm
      exact hx z hz hzx
    · refine List.nodup_cons.2 ⟨fun hm => ?_, ih hl hxl⟩
      obtain ⟨z, hz, hzy⟩ := List.mem_map.1 hm
      rcases (mem_insertBy ..).1 hz with rfl | hz
      · exact hy hzy.symm
      · exact hyl (List.mem_map.2 ⟨z, hz, hzy⟩)

/-- Riddle order, as a list stands in it (R177). -/
def InRiddleOrder (l : List REnt) : Prop := l.Pairwise fun a b => entLt b a = false

theorem InRiddleOrder.insert {l : List REnt} (h : InRiddleOrder l) (e : REnt) : InRiddleOrder (insertBy entLt e l) := by
  refine pairwise_insertBy (fun a b hab => ?_) (fun a b c hba hcb => ?_) e h
  · simp only [entLt, decide_eq_true_eq, decide_eq_false_iff_not] at *
    omega
  · simp only [entLt, decide_eq_false_iff_not] at *
    omega

/-! Duplicates (R182). -/

theorem betterDup_self (e : REnt) : betterDup e e = false := by simp [betterDup]

/-- An entry that `x` does not lose to, what beats `x` does not lose to. -/
theorem betterDup_of_better {x y e : REnt} (hy : betterDup x y = true) (he : betterDup x e = false) : betterDup y e = false := by
  simp only [betterDup, Bool.or_eq_true, Bool.and_eq_true, Bool.or_eq_false_iff, Bool.and_eq_false_iff, decide_eq_true_eq,
    decide_eq_false_iff_not, ← BitVec.toNat_inj] at *
  omega

/-- An entry takes the place of what is held under its key, if anything is, where that loses to it; else the list stays. -/
theorem takeEnt_cases {acc : List REnt × Nat} (h : (acc.1.map (·.key)).Nodup) (e : REnt) :
    ((Machine.takeEnt acc e).1 = insertBy entLt e (acc.1.filter fun y => y.key != e.key) ∧ ∀ x ∈ acc.1, x.key = e.key → betterDup x e = true) ∨
    ((Machine.takeEnt acc e).1 = acc.1 ∧ ∃ x ∈ acc.1, x.key = e.key ∧ betterDup x e = false) := by
  unfold Machine.takeEnt
  split
  next hnone =>
    have hnew (x : REnt) (hx : x ∈ acc.1) : x.key ≠ e.key := by simpa using List.find?_eq_none.1 hnone x hx
    refine .inl ⟨?_, fun x hx hk => absurd hk (hnew x hx)⟩
    rw [List.filter_eq_self.2 fun x hx => by simpa using hnew x hx]
  next x hfind =>
    have hx := List.mem_of_find?_eq_some hfind
    have hk : x.key = e.key := by simpa using List.find?_some hfind
    split
    next hb =>
      refine .inl ⟨rfl, fun y hy hyk => ?_⟩
      rwa [List.inj_on_of_nodup_map h hy hx (hyk.trans hk.symm)]
    next hb => exact .inr ⟨rfl, x, hx, hk, Bool.eq_false_iff.2 hb⟩

/-! A merge (R178). -/

/-- `r` is what a held list becomes as the entries `seen` are taken into it. -/
structure Merged (held seen r : List REnt) : Prop where
  order : InRiddleOrder r
  keys : (r.map (·.key)).Nodup
  source : ∀ e ∈ r, e ∈ held ∨ e ∈ seen
  best : ∀ e ∈ seen, ∃ x ∈ r, x.key = e.key ∧ betterDup x e = false

theorem Merged.take {held seen : List REnt} {acc : List REnt × Nat} (h : Merged held seen acc.1) (e : REnt) :
    Merged held (seen ++ [e]) (Machine.takeEnt acc e).1 := by
  obtain ⟨horder, hkeys, hsource, hbest⟩ := h
  have hsource' (x : REnt) (hx : x ∈ acc.1) : x ∈ held ∨ x ∈ seen ++ [e] := (hsource x hx).imp_right (List.mem_append_left _)
  rcases takeEnt_cases hkeys e with ⟨hr, hlose⟩ | ⟨hr, x, hx, hxk, hxe⟩
  · rw [hr]
    refine ⟨InRiddleOrder.insert (horder.filter _) e, ?_, fun x hx => ?_, fun y hy => ?_⟩
    · exact nodup_map_insertBy (hkeys.sublist (List.filter_sublist.map _)) fun y hy => by simpa using (List.mem_filter.1 hy).2
    · rcases (mem_insertBy ..).1 hx with rfl | hx
      · exact .inr (List.mem_append_right _ (List.mem_singleton_self _))
      · exact hsource' x (List.mem_filter.1 hx).1
    · rcases List.mem_append.1 hy with hy | hy
      · obtain ⟨x, hx, hxk, hxy⟩ := hbest y hy
        by_cases hk : x.key = e.key
        · exact ⟨e, (mem_insertBy ..).2 (.inl rfl), hk.symm.trans hxk, betterDup_of_better (hlose x hx hk) hxy⟩
        · exact ⟨x, (mem_insertBy ..).2 (.inr (List.mem_filter.2 ⟨hx, by simpa using hk⟩)), hxk, hxy⟩
      · obtain rfl := List.mem_singleton.1 hy
        exact ⟨y, (mem_insertBy ..).2 (.inl rfl), rfl, betterDup_self y⟩
  · rw [hr]
    refine ⟨horder, hkeys, hsource', fun y hy => ?_⟩
    rcases List.mem_append.1 hy with hy | hy
    · exact hbest y hy
    · obtain rfl := List.mem_singleton.1 hy
      exact ⟨x, hx, hxk, hxe⟩

theorem Merged.takeAll {held : List REnt} (es : List REnt) {seen : List REnt} {acc : List REnt × Nat} (h : Merged held seen acc.1) :
    Merged held (seen ++ es) (es.foldl Machine.takeEnt acc).1 := by
  induction es generalizing seen acc with
  | nil => rwa [List.append_nil]
  | cons e es ih =>
    rw [← List.singleton_append, ← List.append_assoc]
    exact ih (h.take e)

/-- Whether a merge admits an entry: no NaN, and past the bound of a continued pass (R178, R187). -/
def admitsEnt (bound : Option Nat) (e : REnt) : Bool :=
  !Fp.isNan e.score && (match bound with | some b => decide (b < orderKey e.score e.key) | none => true)

theorem admitsEnt_iff (bound : Option Nat) (e : REnt) :
    admitsEnt bound e = true ↔ Fp.isNan e.score = false ∧ ∀ b, bound = some b → b < orderKey e.score e.key := by
  cases bound <;> simp [admitsEnt]

/-- The whole merged list, before it is cut to its length. -/
def mergedList (held es : List REnt) (bound : Option Nat) : List REnt := ((es.filter (admitsEnt bound)).foldl Machine.takeEnt (held, 0)).1

theorem mergeList_eq (held es : List REnt) (bound : Option Nat) (len : Nat) :
    (mergeList held es bound len).1 = (mergedList held es bound).take len := rfl

theorem mergedList_merged {held : List REnt} (es : List REnt) (bound : Option Nat) (horder : InRiddleOrder held)
    (hkeys : (held.map (·.key)).Nodup) : Merged held (es.filter (admitsEnt bound)) (mergedList held es bound) :=
  Merged.takeAll (seen := []) (acc := (held, 0)) _ ⟨horder, hkeys, fun _ => .inl, fun _ he => absurd he List.not_mem_nil⟩

/-- Settles O31: what the merge takes in keeps the order and the keys, and the cut to the length keeps both. -/
theorem riddleListsStayOrderedDistinctAndTrimmed : Obligations.RiddleListsStayOrderedDistinctAndTrimmed := by
  intro held es bound len horder hkeys r ok
  obtain ⟨hsorted, hdistinct, hsource, hbest⟩ := mergedList_merged es bound horder hkeys
  have hr : r = (mergedList held es bound).take len := mergeList_eq ..
  have hcut : r.Sublist (mergedList held es bound) := hr ▸ List.take_sublist ..
  refine ⟨hsorted.sublist hcut, hdistinct.sublist (hcut.map _), mergeList_length .., fun e he => ?_, fun hshort e he hok => ?_, rfl⟩
  · refine (hsource e (hcut.subset he)).imp_right fun he => ?_
    obtain ⟨hes, hadm⟩ := List.mem_filter.1 he
    exact ⟨hes, (admitsEnt_iff bound e).1 hadm⟩
  · have hall : r = mergedList held es bound := by
      have hlen : r.length = min len (mergedList held es bound).length := hr ▸ List.length_take
      exact hr.trans (List.take_of_length_le ((min_lt_iff.1 (hlen ▸ hshort)).resolve_left (lt_irrefl len)).le)
    rw [hall]
    exact hbest e (List.mem_filter.2 ⟨he, (admitsEnt_iff bound e).2 hok⟩)

end Sys2Proof.Proofs

/-! Generations as they are held, pinned and freed (R261), and the shards whose tags may leave (R232, R236). -/

namespace Sys2Proof.Proofs

open Sys2Proof Sys2Proof.Machine Sys2Proof.Laws

/-- What tells a shard's generations: which there are, the current one and the publish that waits, and whether it was dropped. -/
structure SameGens (c d : Coll) : Prop where
  id : d.id = c.id
  cur : d.cur = c.cur
  pub : d.pub = c.pub
  gens : d.gens = c.gens
  epoch : d.epoch = c.epoch
  dropped : d.dropped = c.dropped

/-- The shard keeps the generation that is current, and has not been dropped since. -/
structure KeepsCurrent (c d : Coll) : Prop where
  id : d.id = c.id
  cur : d.cur = c.cur
  pub : d.pub = c.pub
  gens : ∀ x ∈ c.gens, x.no = c.cur → x ∈ d.gens
  epoch : d.epoch = c.epoch
  dropped : d.dropped = c.dropped

theorem SameGens.refl (c : Coll) : SameGens c c := ⟨rfl, rfl, rfl, rfl, rfl, rfl⟩

theorem SameGens.trans {c d e : Coll} (h : SameGens c d) (g : SameGens d e) : SameGens c e :=
  ⟨g.id.trans h.id, g.cur.trans h.cur, g.pub.trans h.pub, g.gens.trans h.gens, g.epoch.trans h.epoch, g.dropped.trans h.dropped⟩

theorem SameGens.foldl {α : Type} {f : Coll → α → Coll} (h : ∀ c x, SameGens c (f c x)) (l : List α) (c : Coll) :
    SameGens c (l.foldl f c) := by
  induction l generalizing c with
  | nil => exact .refl c
  | cons x l ih => exact (h c x).trans (ih _)

theorem SameGens.keepsCurrent {c d : Coll} (h : SameGens c d) : KeepsCurrent c d :=
  ⟨h.id, h.cur, h.pub, fun _ hx _ => h.gens ▸ hx, h.epoch, h.dropped⟩

theorem KeepsCurrent.trans {c d e : Coll} (h : KeepsCurrent c d) (g : KeepsCurrent d e) : KeepsCurrent c e :=
  ⟨g.id.trans h.id, g.cur.trans h.cur, g.pub.trans h.pub,
    fun x hx hno => g.gens x (h.gens x hx hno) (hno.trans h.cur.symm), g.epoch.trans h.epoch, g.dropped.trans h.dropped⟩

/-- Shard `k`, where it has not been dropped, keeps its current generation. -/
def ShardKept (k : Nat) (m t : Mod) : Prop :=
  ∀ c, shardOf m k = some c → c.dropped = false → ∃ d, shardOf t k = some d ∧ KeepsCurrent c d

theorem ShardKept.refl (k : Nat) (m : Mod) : ShardKept k m m := fun c hc _ => ⟨c, hc, (SameGens.refl c).keepsCurrent⟩

theorem ShardKept.trans {k : Nat} {m t u : Mod} (h : ShardKept k m t) (g : ShardKept k t u) : ShardKept k m u := fun c hc hd =>
  let ⟨d, hd', hcd⟩ := h c hc hd
  let ⟨e, he, hde⟩ := g d hd' (hcd.dropped.trans hd)
  ⟨e, he, hcd.trans hde⟩

/-- What freeing a generation takes: device pages, the shards and the mirror. -/
def onGens : Portion := ⟨fun m t => { m with mem := t.mem, colls := t.colls, mirror := t.mirror }, fun _ => rfl, fun _ _ _ => rfl⟩

section
variable {m t : Mod} {k g : Nat} {c : Coll} {x : Gen}

theorem releasePages_onMem (l : List Nat) (m : Mod) : onMem.Only m (l.foldl releasePage m) := .foldl (fun _ _ => by exact rfl) l m

theorem freeSegs_onMem (m : Mod) (c : Coll) (gone left : List Segment) : onMem.Only m (freeSegs m c gone left) := releasePages_onMem ..

/-- What takes device memory alone leaves the shards alone. -/
theorem shardOf_onMem (h : onMem.Only m t) (k : Nat) : shardOf t k = shardOf m k := h.same (shardOf · k) fun _ _ => rfl

/-! Tags that leave, and stockpile entries that are freed (R232, R236). -/

theorem purge_onGens (m : Mod) (k : Nat) : onGens.Only m (purge m k) := by
  unfold purge
  split
  · rfl
  next c _ =>
    extract_lets t f left used u
    have hu : onMem.Only t u := .foldl (fun _ _ => by exact rfl) _ t
    exact .trans (t := t) rfl ((hu.widen fun _ _ => rfl).trans rfl)

/-- A shard keeps its generations, whichever shard's tags leave. -/
theorem purge_shard (h : shardOf m k = some c) (j : Nat) : ∃ d, shardOf (purge m j) k = some d ∧ SameGens c d := by
  unfold purge
  split
  · exact ⟨c, h, .refl c⟩
  next e he =>
    extract_lets t f left used u
    have hu : shardOf u k = some c := (shardOf_onMem (.foldl (fun _ _ => by exact rfl) _ t) k).trans h
    rw [shardOf_setColl, hu]
    split
    next hk =>
      obtain rfl : c = e := by
        have hkj : k = j := hk.trans (shardOf_id (c := e) he)
        rw [hkj, he] at h
        exact (Option.some.inj h).symm
      exact ⟨_, rfl, rfl, rfl, rfl, rfl, rfl, rfl⟩
    · exact ⟨c, rfl, .refl c⟩

theorem purge_absent (h : shardOf m k = none) : shardOf (purge m k) k = none := by
  unfold purge
  rw [h]
  exact h

/-! GENERATION_FREED and HOLD_EXPIRY (R261). -/

/-- A generation that is current, pinned or held stays. -/
theorem genFree_stays (hc : shardOf m k = some c) (hg : genOf c g = some x) (h : g = c.cur ∨ pinned m k g = true ∨ heldBy m x = true) :
    genFree m k g = m := by
  have hstay : (decide (g = c.cur) || pinned m k g || heldBy m x) = true := by simpa [or_assoc] using h
  simp only [genFree, hc, hg]
  exact if_pos hstay

/-- Generation `x` of number `g` may go: it is not current, and nothing pins or holds it. -/
structure MayGo (m : Mod) (k : Nat) (c : Coll) (g : Nat) (x : Gen) : Prop where
  shard : shardOf m k = some c
  gen : genOf c g = some x
  old : g ≠ c.cur
  unpinned : pinned m k g = false
  unheld : heldBy m x = false

/-- Shard `c` without its generation `g`. -/
def withoutGen (c : Coll) (g : Nat) : Coll := { c with gens := c.gens.filter fun y => y.no != g }

/-- The module with the pages freed that only generation `x` of number `g` names. -/
def genPagesFreed (m : Mod) (c : Coll) (g : Nat) (x : Gen) : Mod := freeSegs m c x.segs (namedSegs m (withoutGen c g))

/-- The module without shard `k`. -/
def withoutShard (m : Mod) (k : Nat) : Mod := { m with colls := m.colls.filter fun y => y.id != k }

theorem MayGo.genFree_eq (h : MayGo m k c g x) : genFree m k g =
    if (withoutGen c g).gens.isEmpty && c.dropped then
      purge ((c.stockPgs.map (·.2)).foldl releasePage (withoutShard (genPagesFreed m c g x) k)) k
    else purge (setColl (genPagesFreed m c g x) (withoutGen c g)) k := by
  obtain ⟨hc, hg, hold, hpin, hheld⟩ := h
  have hgo : (decide (g = c.cur) || pinned m k g || heldBy m x) = false := by simp [hold, hpin, hheld]
  simp only [genFree, hc, hg]
  exact if_neg (Bool.eq_false_iff.1 hgo)

/-- A generation that may go leaves its shard, and no other generation does. -/
theorem MayGo.genFree_shard (h : MayGo m k c g x) (hd : c.dropped = false) :
    ∃ d, shardOf (genFree m k g) k = some d ∧ SameGens (withoutGen c g) d := by
  rw [h.genFree_eq, if_neg (by simp [hd])]
  refine purge_shard ?_ k
  obtain rfl := shardOf_id h.shard
  exact shardOf_setColl_self (d := withoutGen c g) ((shardOf_onMem (freeSegs_onMem ..) _).trans h.shard)

/-- A dropped shard goes with its last generation (R25, R33). -/
theorem MayGo.genFree_last (h : MayGo m k c g x) (hd : c.dropped = true) (hall : ∀ y ∈ c.gens, y.no = g) :
    shardOf (genFree m k g) k = none := by
  have hempty : (withoutGen c g).gens.isEmpty = true := by
    rw [List.isEmpty_iff]
    exact List.filter_eq_nil_iff.2 fun y hy => by simp [hall y hy]
  rw [h.genFree_eq, if_pos (by rw [hempty, hd]; rfl)]
  have hgone : shardOf (withoutShard (genPagesFreed m c g x) k) k = none :=
    find_filter_none _ _ _ fun y hy => by simpa using hy
  exact purge_absent ((shardOf_onMem (releasePages_onMem ..) k).trans hgone)

theorem genFree_cases (m : Mod) (k g : Nat) : genFree m k g = m ∨ ∃ c x, MayGo m k c g x := by
  cases hc : shardOf m k with
  | none => exact .inl (by simp only [genFree, hc])
  | some c =>
    cases hg : genOf c g with
    | none => exact .inl (by simp only [genFree, hc, hg])
    | some x =>
      by_cases h : g = c.cur ∨ pinned m k g = true ∨ heldBy m x = true
      · exact .inl (genFree_stays hc hg h)
      · simp only [not_or, Bool.not_eq_true] at h
        obtain ⟨hold, hpin, hheld⟩ := h
        exact .inr ⟨c, x, hc, hg, hold, hpin, hheld⟩

theorem genFree_onGens (m : Mod) (k g : Nat) : onGens.Only m (genFree m k g) := by
  rcases genFree_cases m k g with h | ⟨c, x, h⟩
  · exact h.symm ▸ .refl _ m
  · rw [h.genFree_eq]
    have hu : onGens.Only m (genPagesFreed m c g x) := (freeSegs_onMem ..).widen fun _ _ => rfl
    split
    · exact (hu.trans (.trans (by exact rfl) ((releasePages_onMem ..).widen fun _ _ => rfl))).trans (purge_onGens ..)
    · exact (hu.trans (by exact rfl)).trans (purge_onGens ..)

/-- A shard of another number stays but for its tags and its stockpile. -/
theorem MayGo.genFree_other {j : Nat} {d : Coll} (h : MayGo m j c g x) (hd : shardOf m k = some d) (hk : k ≠ j) :
    ∃ e, shardOf (genFree m j g) k = some e ∧ SameGens d e := by
  have hfreed : shardOf (genPagesFreed m c g x) k = some d := (shardOf_onMem (freeSegs_onMem ..) k).trans hd
  rw [h.genFree_eq]
  split
  · have hleft : shardOf (withoutShard (genPagesFreed m c g x) j) k = some d :=
      (find_filter_of _ _ _ fun y hy => by simpa using (of_decide_eq_true hy).trans_ne hk).trans hfreed
    exact purge_shard ((shardOf_onMem (releasePages_onMem ..) k).trans hleft) j
  · refine purge_shard ?_ j
    have hkc : k ≠ (withoutGen c g).id := (shardOf_id h.shard).symm ▸ hk
    rw [shardOf_setColl, if_neg hkc, hfreed]

/-- No generation that is freed is current: a shard that has not been dropped keeps the one that is. -/
theorem genFree_shardKept (m : Mod) (j k g : Nat) : ShardKept k m (genFree m j g) := by
  rcases genFree_cases m j g with h | ⟨c, x, h⟩
  · exact h.symm ▸ .refl k m
  · intro d hd hdrop
    by_cases hk : k = j
    · subst hk
      obtain rfl : c = d := Option.some.inj (h.shard.symm.trans hd)
      obtain ⟨e, he, hce⟩ := h.genFree_shard hdrop
      have hcur : KeepsCurrent c (withoutGen c g) :=
        ⟨rfl, rfl, rfl, fun y hy hno => List.mem_filter.2 ⟨hy, by simpa [hno] using h.old.symm⟩, rfl, rfl⟩
      exact ⟨e, he, hcur.trans hce.keepsCurrent⟩
    · obtain ⟨e, he, hde⟩ := h.genFree_other hd hk
      exact ⟨e, he, hde.keepsCurrent⟩

theorem holdEnd_runs {h : Nat} (hc : shardOf m k = some c) (hg : genOf c g = some x) (hx : x.hold = some h) (hnow : now m ≤ h) :
    holdEnd m k g = m := by
  simp [holdEnd, hc, hg, hx, hnow]

/-- Past its last tick a hold's end frees as GENERATION_FREED does. -/
theorem holdEnd_over {h : Nat} (hc : shardOf m k = some c) (hg : genOf c g = some x) (hx : x.hold = some h) (hnow : h < now m) :
    holdEnd m k g = genFree m k g := by
  simp [holdEnd, hc, hg, hx, hnow]

theorem heldBy_over {h : Nat} (hx : x.hold = some h) (hnow : h < now m) : heldBy m x = false := by
  simp [heldBy, hx, hnow]

theorem sweepGens_onGens (m : Mod) : onGens.Only m (sweepGens m) := .foldl (fun _ _ => genFree_onGens ..) _ m

theorem sweepGens_shardKept (m : Mod) (k : Nat) : ShardKept k m (sweepGens m) := by
  have (l : List (Nat × Nat)) (m : Mod) : ShardKept k m (l.foldl (fun m x => genFree m x.1 x.2) m) := by
    induction l generalizing m with
    | nil => exact .refl k m
    | cons x l ih => exact (genFree_shardKept m x.1 k x.2).trans (ih _)
  exact this _ m

end

end Sys2Proof.Proofs

/-! Versioning records applied in the publish slot (R258, R508). -/

namespace Sys2Proof.Proofs

open Sys2Proof Sys2Proof.Machine Sys2Proof.Laws

/-! A publish on its shard (R258, R260). -/

theorem tombColl_sameGens (c : Coll) (i : Inst) : SameGens c (tombColl c i) := by
  unfold tombColl
  split
  · exact .refl c
  · split <;> exact ⟨rfl, rfl, rfl, rfl, rfl, rfl⟩

theorem subInsts_sameGens (c : Coll) (l : List Inst) : SameGens c (subInsts c l) :=
  .foldl (f := histSub) (fun _ _ => ⟨rfl, rfl, rfl, rfl, rfl, rfl⟩) _ c

/-- Shard `d` has the generation of publish `p` current, and no publish waits. -/
structure Published (p : PubRec) (d : Coll) : Prop where
  cur : d.cur = p.gen.no
  pub : d.pub = none
  gen : p.gen ∈ d.gens
  epoch : d.epoch = p.gen.epoch
  kept : d.dropped = false

theorem KeepsCurrent.published {c d : Coll} {p : PubRec} (h : KeepsCurrent c d) (hc : Published p c) : Published p d :=
  ⟨h.cur.trans hc.cur, h.pub.trans hc.pub, h.gens _ hc.gen hc.cur.symm, h.epoch.trans hc.epoch, h.dropped.trans hc.kept⟩

theorem publishColl_published {c : Coll} (p : PubRec) (tick : Nat) (hd : c.dropped = false) :
    Published p (publishColl c p tick) ∧ (publishColl c p tick).id = c.id := by
  unfold publishColl
  extract_lets g cleared fresh sup lost counted c1 c2
  have hc1 : SameGens c c1 := by
    show SameGens c (if p.step then c else _)
    split
    · exact .refl c
    · exact (SameGens.foldl (f := addCounts) (fun _ _ => ⟨rfl, rfl, rfl, rfl, rfl, rfl⟩) _ c).trans (subInsts_sameGens ..)
  have hc2 : Published p c2 := ⟨rfl, rfl, List.mem_append_right _ (List.mem_singleton_self _), rfl, hc1.dropped.trans hd⟩
  have htomb := SameGens.foldl tombColl_sameGens p.superseded c2
  exact ⟨htomb.keepsCurrent.published hc2, htomb.id.trans hc1.id⟩

/-! One record. -/

/-- What a versioning record takes beside the ledger: the completions of what it ends, the shards and the mirror, and packages. -/
def onVersion : Portion :=
  ⟨fun m t => { m with cmds := t.cmds, adm := t.adm, resv := t.resv, pwr := t.pwr, units := t.units, fab := t.fab, regs := t.regs,
                       chutes := t.chutes, velom := t.velom, mem := t.mem, drills := t.drills, colls := t.colls, mirror := t.mirror,
                       pkgs := t.pkgs }, fun _ => rfl, fun _ _ _ => rfl⟩

section
variable (m : Mod)

theorem finish_onVersion (c : Cmd) (f : Fin) : onVersion.Only m (finish m c f) := (finish_onFinish m c f).widen fun _ _ => rfl

theorem freeBuild_onMem (c : Coll) (cmd : Cmd) (b : BuildW) : onMem.Only m (freeBuild m c cmd b) := releasePages_onMem ..

theorem stopJobs_onVersion (k : Nat) : onVersion.Only m (stopJobs m k) := by
  refine .foldl (fun m c => ?_) _ m
  refine .trans ?_ (finish_onVersion ..)
  split
  · exact (freeBuild_onMem ..).widen fun _ _ => rfl
  · exact .refl _ m

theorem retireReads_onVersion (k below : Nat) : onVersion.Only m (retireReads m k below) :=
  .foldl (fun _ _ => finish_onVersion ..) _ m

theorem dropPub_onVersion (c : Coll) : onVersion.Only m (dropPub m c) := by
  unfold dropPub
  split
  · exact .refl _ m
  next p _ =>
    extract_lets t
    have ht : onVersion.Only m t := rfl
    exact ht.trans ((freeSegs_onMem ..).widen fun _ _ => rfl)

/-- The module as publish `p` has replaced shard `c`, its tags taken, before tags that may leave do. -/
def publishMod (m : Mod) (c : Coll) (k : Nat) (p : PubRec) : Mod :=
  let t := bump (setColl (takeTags m c p) (publishColl c p (now m))) ctlP 0x11C p.freed.length
  if p.step then stepApplied t k p.gen.no else t

theorem applyRecord_publish {c : Coll} {k : Nat} (hc : shardOf m k = some c) (hd : c.dropped = false) (p : PubRec) :
    applyRecord m k (.publish p) = purge (publishMod m c k p) k := by
  have happ : applyColl c (.publish p) (now m) = publishColl c p (now m) := if_neg (by simp [hd])
  unfold applyRecord
  rw [hc]
  dsimp only
  rw [if_neg (by simp [hd]), happ]
  unfold publishMod
  extract_lets t
  rfl

theorem publishMod_onVersion (c : Coll) (k : Nat) (p : PubRec) : onVersion.Only m (publishMod m c k p) := by
  unfold publishMod
  extract_lets t
  have ht : onVersion.Only m t := rfl
  exact .ite (ht.trans rfl) ht

theorem applyRecord_onVersion (k : Nat) (r : Redo) : onVersion.Only m (applyRecord m k r) := by
  cases hc : shardOf m k with
  | none => simp only [applyRecord, hc]; exact .refl _ m
  | some c =>
    cases hd : c.dropped with
    | true => simp only [applyRecord, hc, hd]; exact .refl _ m
    | false =>
      cases r with
      | publish p =>
        rw [applyRecord_publish m hc hd]
        exact (publishMod_onVersion ..).trans ((purge_onGens ..).widen fun _ _ => rfl)
      | drop =>
        simp only [applyRecord, hc, hd]
        have hstop := (stopJobs_onVersion m k).trans (dropPub_onVersion _ c)
        exact (hstop.trans (u := setColl (dropPub (stopJobs m k) c) _) rfl).trans ((freeSegs_onMem ..).widen fun _ _ => rfl)
      | retire b =>
        simp only [applyRecord, hc, hd]
        exact .trans (by exact rfl) (retireReads_onVersion ..)
      | _ => 
        simp only [applyRecord, hc, hd]
        rfl

end

section
variable {m : Mod}

theorem publishMod_shard {c : Coll} {k : Nat} (hc : shardOf m k = some c) (hd : c.dropped = false) (p : PubRec) :
    shardOf (publishMod m c k p) k = some (publishColl c p (now m)) := by
  have hid := (publishColl_published p (now m) hd).2.trans (shardOf_id hc)
  have hset : shardOf (setColl (takeTags m c p) (publishColl c p (now m))) k = some (publishColl c p (now m)) := by
    rw [shardOf_setColl, if_pos hid.symm]
    exact congrArg (Option.map _) hc
  unfold publishMod
  extract_lets t
  split <;> exact hset

theorem applyRecord_published {c : Coll} {k : Nat} (hc : shardOf m k = some c) (hd : c.dropped = false) (p : PubRec) :
    ∃ d, shardOf (applyRecord m k (.publish p)) k = some d ∧ Published p d := by
  rw [applyRecord_publish m hc hd]
  obtain ⟨d, hd', hsame⟩ := purge_shard (publishMod_shard hc hd p) k
  exact ⟨d, hd', hsame.keepsCurrent.published (publishColl_published p (now m) hd).1⟩

/-! The records of the ledger. -/

/-- A record that takes effect, where its lsn is in `ls`. -/
def markApplied (ls : List Nat) (r : LRec) : LRec := if r.lsn ∈ ls then { r with applied := true } else r

theorem markApplied_lsn (ls : List Nat) (r : LRec) : (markApplied ls r).lsn = r.lsn := by
  unfold markApplied
  split <;> rfl

theorem applyVersion_none {lsn : Nat} (h : recordOf m lsn = none) : applyVersion m lsn = m := by
  simp only [applyVersion, h]

/-- A versioning record's application sets it applied, and beside that leaves the ledger and the tick alone. -/
theorem applyVersion_onVersion {lsn : Nat} {r : LRec} (h : recordOf m lsn = some r) :
    onVersion.Only (setRecord m { r with applied := true }) (applyVersion m lsn) := by
  simp only [applyVersion, h]
  split
  · rfl
  · exact applyRecord_onVersion ..

theorem now_applyVersion (m : Mod) (lsn : Nat) : now (applyVersion m lsn) = now m := by
  cases h : recordOf m lsn with
  | none => rw [applyVersion_none h]
  | some r => exact (applyVersion_onVersion h).same now fun _ _ => rfl

theorem applyVersion_records (hm : lsnsRise m) (lsn : Nat) :
    (applyVersion m lsn).ledger.records = m.ledger.records.map (markApplied [lsn]) := by
  cases h : recordOf m lsn with
  | none =>
    rw [applyVersion_none h]
    refine ((List.map_congr_left fun x hx => ?_).trans (List.map_id _)).symm
    have hne : ¬ x.lsn = lsn := by simpa using List.find?_eq_none.1 h x hx
    simp [markApplied, hne]
  | some r =>
    obtain rfl := recordOf_lsn h
    have hinj := List.inj_on_of_nodup_map (hm.imp fun h => Nat.ne_of_lt h)
    rw [(applyVersion_onVersion h).same (fun m => m.ledger.records) fun _ _ => rfl]
    refine List.map_congr_left fun x hx => ?_
    by_cases hxr : x.lsn = r.lsn
    · simp [markApplied, hinj hx (List.mem_of_find?_eq_some h) hxr]
    · simp [markApplied, hxr]

theorem applyVersion_lsnsRise (hm : lsnsRise m) (lsn : Nat) : lsnsRise (applyVersion m lsn) := by
  have hl : lsns (applyVersion m lsn) = lsns m := by
    rw [lsns, applyVersion_records hm, List.map_map]
    exact List.map_congr_left fun x _ => markApplied_lsn [lsn] x
  exact (hl ▸ hm : (lsns (applyVersion m lsn)).Pairwise (· < ·))

/-- All the records of a slot. -/
theorem applyVersions_spec (hm : lsnsRise m) (ls : List Nat) :
    (ls.foldl applyVersion m).ledger.records = m.ledger.records.map (markApplied ls) ∧ now (ls.foldl applyVersion m) = now m := by
  induction ls generalizing m with
  | nil => exact ⟨(List.map_id' _).symm, rfl⟩
  | cons l ls ih =>
    obtain ⟨hrec, hnow⟩ := ih (applyVersion_lsnsRise hm l)
    refine ⟨?_, hnow.trans (now_applyVersion m l)⟩
    rw [List.foldl_cons, hrec, applyVersion_records hm, List.map_map]
    refine List.map_congr_left fun x _ => ?_
    by_cases hl : x.lsn = l <;> by_cases hls : x.lsn ∈ ls <;> simp [markApplied, hl, hls]

/-! GENERATION_PUBLISH. -/

/-- A record that the publish slot is to apply: versioning, not yet applied, and programmed in an earlier tick (R258). -/
def versionDue (m : Mod) (r : LRec) : Bool := versioning r.redo && !r.applied && (r.prog.any fun p => decide (p < now m))

/-- The lsns that the publish slot applies, in order. -/
def dueLsns (m : Mod) : List Nat := sortBy (fun a b => decide (a < b)) ((m.ledger.records.filter (versionDue m)).map (·.lsn))

/-- What the end of the slot takes: what generations and packages take that nothing pins. -/
def onSweep : Portion :=
  ⟨fun m t => { m with mem := t.mem, colls := t.colls, mirror := t.mirror, pkgs := t.pkgs }, fun _ => rfl, fun _ _ _ => rfl⟩

/-- What packages take, and their weights' pages. -/
def onPkgs : Portion := ⟨fun m t => { m with mem := t.mem, pkgs := t.pkgs }, fun _ => rfl, fun _ _ _ => rfl⟩

theorem moveWeights_onPkgs (m : Mod) (p : PkgVer) : onPkgs.Only m (moveWeights m p) := by
  unfold moveWeights
  split
  · exact .refl _ m
  · extract_lets others q gone q' t
    have ht : onPkgs.Only m t := rfl
    exact ht.trans ((dropPages_onMem ..).widen fun _ _ => rfl)

theorem sweepPkgs_onPkgs (m : Mod) : onPkgs.Only m (sweepPkgs m) := by
  unfold sweepPkgs
  extract_lets gone left pgs ws t
  refine .ite (.refl _ m) (.trans (t := t) ?_ (.foldl moveWeights_onPkgs _ t))
  have hp : onMem.Only { m with pkgs := left } t := (releasePages_onMem pgs _).trans (dropPages_onMem _ ws)
  exact .trans (t := { m with pkgs := left }) rfl (hp.widen fun _ _ => rfl)

theorem publishSlot_resetting (h : resetting m = true) : publishSlot m = m := if_pos h

theorem publishSlot_eq (h : resetting m = false) : publishSlot m = sweepPkgs (sweepGens ((dueLsns m).foldl applyVersion m)) := by
  unfold publishSlot
  rw [if_neg (Bool.eq_false_iff.1 h)]
  dsimp only
  rw [List.filter_congr (q := versionDue m)]
  · rfl
  · intro r _
    unfold versionDue
    cases r.prog <;> rfl

theorem publishSlot_onSweep (h : resetting m = false) : onSweep.Only ((dueLsns m).foldl applyVersion m) (publishSlot m) := by
  rw [publishSlot_eq h]
  exact ((sweepGens_onGens _).widen fun _ _ => rfl).trans ((sweepPkgs_onPkgs _).widen fun _ _ => rfl)

/-- Nothing that was due is due still (R258). -/
theorem publishSlot_noneDue (h : resetting m = false) (hm : lsnsRise m) :
    (publishSlot m).ledger.records.filter (versionDue (publishSlot m)) = [] := by
  obtain ⟨hrec, hnow⟩ := applyVersions_spec hm (dueLsns m)
  have hsweep := publishSlot_onSweep h
  have hnow' : now (publishSlot m) = now m := (hsweep.same now fun _ _ => rfl).trans hnow
  rw [hsweep.same (fun m => m.ledger.records) fun _ _ => rfl, hrec, List.filter_eq_nil_iff]
  intro x hx hdue
  obtain ⟨r, hr, rfl⟩ := List.mem_map.1 hx
  unfold versionDue markApplied at hdue
  rw [hnow'] at hdue
  split at hdue
  · simp at hdue
  next hl =>
    exact hl ((mem_sortBy ..).2 (List.mem_map.2 ⟨r, List.mem_filter.2 ⟨hr, hdue⟩, rfl⟩))

/-- A publish that stands alone makes its generation current (R258, R260). -/
theorem publishSlot_published {r : LRec} {p : PubRec} {c : Coll} (h : resetting m = false)
    (hdue : m.ledger.records.filter (versionDue m) = [r]) (hrec : recordOf m r.lsn = some r) (hp : r.redo = .publish p)
    (hc : shardOf m r.coll = some c) (hd : c.dropped = false) : ∃ d, shardOf (publishSlot m) r.coll = some d ∧ Published p d := by
  have hone : dueLsns m = [r.lsn] := by
    unfold dueLsns
    rw [hdue]
    rfl
  have happly : applyVersion m r.lsn = applyRecord (setRecord m { r with applied := true }) r.coll (.publish p) := by
    simp only [applyVersion, hrec, hp]
  obtain ⟨d, hd', hpub⟩ := applyRecord_published (m := setRecord m { r with applied := true }) hc hd p
  obtain ⟨e, he, hde⟩ := sweepGens_shardKept _ r.coll d hd' hpub.kept
  rw [publishSlot_eq h, hone, List.foldl_cons, List.foldl_nil, happly, (sweepPkgs_onPkgs _).same (shardOf · r.coll) fun _ _ => rfl]
  exact ⟨e, he, hde.published hpub⟩

end

end Sys2Proof.Proofs

/-! The end of a recount and the checkpoints of builds (R168, R251), and generations settled. -/

namespace Sys2Proof.Proofs

open Sys2Proof Sys2Proof.Machine Sys2Proof.Laws

section
variable {s : State} {m t : Mod} {k g : Nat}

/-! HISTOGRAM_RECOUNT_END (R168). -/

/-- Shard `c` with its recount `h` in place of its counters. -/
def recounted (c : Coll) (h : Hist) : Coll := { c with hist := h, recount := none }

/-- Shard `c` with its recount, if one runs, at its end. -/
def recountDone (c : Coll) : Coll :=
  match c.recount with
  | none => c
  | some h => recounted c h

theorem recountDone_recount (c : Coll) : (recountDone c).recount = none := by
  unfold recountDone
  split
  · assumption
  · rfl

/-- Whether a record is of shard `k` and began a recount as it was applied. -/
def beganRecount (k : Nat) (r : LRec) : Bool := r.coll = k && r.applied && (match r.redo with
  | .schema _ _ _ rb => rb
  | _ => false)

theorem recountEnd_eq {c : Coll} {h : Hist} (hc : shardOf m k = some c) (hr : c.recount = some h) : recountEnd m k =
    { setColl m (recounted c h) with ledger := { m.ledger with
      records := mapIf (beganRecount k) (fun r => { r with counted := true }) m.ledger.records
      images := mapIf (fun i => i.coll = k) (fun i => { i with val := i.val.map recountDone }) m.ledger.images } } := by
  have hsome : c.recount.isNone = false := by rw [hr]; rfl
  have hdone : recountDone c = recounted c h := by simp only [recountDone, hr]
  simp only [recountEnd, hc, hsome]
  rw [← hdone]
  rfl

/-- The records that began the recount are marked, so that a reset does not count again. -/
theorem mem_counted {l : List LRec} {r : LRec} {en sg : Nat} {df : BitVec 128}
    (hr : r ∈ mapIf (beganRecount k) (fun r => { r with counted := true }) l) (hk : r.coll = k) (ha : r.applied = true)
    (hs : r.redo = .schema en sg df true) : r.counted = true := by
  obtain ⟨x, -, rfl⟩ := List.mem_map.1 hr
  split
  · rfl
  next hx =>
    rw [if_neg hx] at hk ha hs
    exact absurd (by simp [beganRecount, hk, ha, hs]) hx

theorem mem_imagesDone {l : List ShardImage} {i : ShardImage} {v : Coll}
    (hi : i ∈ mapIf (fun i => i.coll = k) (fun i => { i with val := i.val.map recountDone }) l) (hk : i.coll = k) (hv : i.val = some v) :
    v.recount = none := by
  obtain ⟨x, -, rfl⟩ := List.mem_map.1 hi
  split at hv
  · obtain ⟨w, -, rfl⟩ := Option.map_eq_some_iff.1 hv
    exact recountDone_recount w
  next hx =>
    rw [if_neg hx] at hk
    exact absurd (decide_eq_true hk) hx

/-! BUILD_CHECKPOINT (R251). -/

theorem KeepsRecords.mem {r : LRec} (h : KeepsRecords m t) (hr : r ∈ m.ledger.records) :
    ∃ x ∈ t.ledger.records, recContent x = recContent r :=
  List.mem_map.1 (h.2.2 ▸ List.mem_map_of_mem hr)

/-- A record of a command stands in the ledger with the next lsn, and beside that the ledger alone may differ (R511, R512). -/
theorem addRecord_written (c : Cmd) (coll op : Nat) (redo : Redo) (h : ledgerOrdered m.ledger) :
    RecordWritten m (addRecord m (some c) coll op redo).1 c coll op redo ∧ onLedger.Only m (addRecord m (some c) coll op redo).1 := by
  let r : LRec := ⟨m.ledger.next, now m, coll, recLen redo, cmdTag c.entry, c.chute, op, some c.id, redo, 0, none, none, false, false⟩
  have hkeep : KeepsRecords (withRecord m r) (addRecord m (some c) coll op redo).1 :=
    enterRing_keepsRecords 256 (withRecord_lsnsRise (r := r) h rfl)
  obtain ⟨x, hx, hxr⟩ := hkeep.mem (r := r) (List.mem_append_right _ (List.mem_singleton_self r))
  exact ⟨⟨hkeep.2.1, x, hx, congrArg LRec.lsn hxr, congrArg LRec.redo hxr, congrArg LRec.cmd hxr, congrArg LRec.coll hxr,
    congrArg LRec.opcode hxr, congrArg LRec.prog hxr⟩, .trans (t := withRecord m r) rfl hkeep.1⟩

theorem ckptWrite_onCache (m : Mod) (ps : List Nat) : onCache.Only m (ckptWrite m ps) :=
  .trans (t := { m with draws := m.draws + 1 }) rfl (.foldl (fun _ _ => (writeBytes_onDevice ..).widen fun _ _ => rfl) _ _)

variable {c : Cmd} {b : BuildW} {q : List Nat × Mod}

/-- A build's state as its checkpoint in pages `ps` holds it. -/
def checkpointed (m : Mod) (b : BuildW) (ps : List Nat) : BuildW :=
  { b with ckpt := b.count, ckTick := now m, ckpts := ps, prev := b.ckpts }

/-- The pages of a checkpoint written, and those of the one before the last given back. -/
def ckptPlaced (b : BuildW) (q : List Nat × Mod) : Mod := ckptWrite (b.prev.foldl releasePage q.2) q.1

/-- The module as a checkpoint leaves it, but for the status register that names its segment. -/
def ckptRecorded (m : Mod) (c : Cmd) (b : BuildW) : Mod :=
  setCmd (addRecord m (some c) (collId c.entry) 0x21 (.buildCk b c.entry c.pl)).1 { c with build := some b }

theorem buildCkpt_early (hc : cmdOf m k = some c) (hb : c.build = some b) (h : ckptDue m b = false) : buildCkpt m k = m := by
  simp [buildCkpt, hc, hb, h]

theorem buildCkpt_full (hc : cmdOf m k = some c) (hb : c.build = some b) (h : ckptDue m b = true)
    (hq : allocPages 2 none (ckptPages b (fld c.entry 40 4)) m = none) : buildCkpt m k = m := by
  simp [buildCkpt, hc, hb, h, hq]

theorem ckptPlaced_onCache (hq : allocPages 2 none (ckptPages b (fld c.entry 40 4)) m = some q) : onCache.Only m (ckptPlaced b q) :=
  (((allocPages_onDevice m hq).1.widen fun _ _ => rfl).trans ((releasePages_onMem ..).widen fun _ _ => rfl)).trans (ckptWrite_onCache ..)

theorem buildCkpt_eq (hc : cmdOf m k = some c) (hb : c.build = some b) (h : ckptDue m b = true)
    (hq : allocPages 2 none (ckptPages b (fld c.entry 40 4)) m = some q) :
    let t := ckptRecorded (ckptPlaced b q) c (checkpointed m b q.1)
    buildCkpt m k = setRegN t ctlP 0x120 (setBits (regN t ctlP 0x120) 0 8 b.seg) := by
  have hnow : now (ckptPlaced b q) = now m := (ckptPlaced_onCache hq).same now fun _ _ => rfl
  have hck : checkpointed m b q.1 = checkpointed (ckptPlaced b q) b q.1 := by rw [checkpointed, checkpointed, hnow]
  simp only [buildCkpt, hc, hb, h, hq, hck]
  rfl

/-- The record of a checkpoint, its work record, and the shards. -/
theorem ckptRecorded_spec (h : ledgerOrdered m.ledger) (hc : cmdOf m k = some c) (ht : onCache.Only m t) (b : BuildW) :
    RecordWritten m (ckptRecorded t c b) c (collId c.entry) 0x21 (.buildCk b c.entry c.pl) ∧
    cmdOf (ckptRecorded t c b) k = some { c with build := some b } ∧ (ckptRecorded t c b).colls = m.colls := by
  have hl : t.ledger = m.ledger := ht.same Mod.ledger fun _ _ => rfl
  have hct : cmdOf t c.id = some c := (ht.same (cmdOf · c.id) fun _ _ => rfl).trans (cmdOf_id hc ▸ hc)
  obtain ⟨hrec, honly⟩ := addRecord_written c (collId c.entry) 0x21 (.buildCk b c.entry c.pl) (hl ▸ h)
  refine ⟨recordWritten_of_ledger hrec hl rfl rfl, ?_, ?_⟩
  · exact cmdOf_id hc ▸ cmdOf_setCmd_self (d := { c with build := some b }) ((honly.same (cmdOf · c.id) fun _ _ => rfl).trans hct)
  · exact (honly.same Mod.colls fun _ _ => rfl).trans (ht.same Mod.colls fun _ _ => rfl)

/-- The status register names the segment (R251). -/
theorem bits_status (m : Mod) {n : Nat} (hn : n < 256) :
    bits (regN (setRegN m ctlP 0x120 (setBits (regN m ctlP 0x120) 0 8 n)) ctlP 0x120) 0 8 = n := by
  rw [regN, getReg_setRegN_self, BitVec.toNat_ofNat]
  simp only [bits, setBits]
  omega

/-! The rows. -/

theorem generationPublish_gives {P : Mod → Prop} (h : P (publishSlot s.mod)) : Gives .generationPublish s P := (gives_iff rfl P).2 h

theorem histogramRecountEnd_gives {P : Mod → Prop} (h : P (recountEnd s.mod k)) : Gives (.histogramRecountEnd k) s P :=
  (gives_iff rfl P).2 h

theorem generationFreed_gives {P : Mod → Prop} {w : Word} (h : P (genFree s.mod k w.toNat)) : Gives (.generationFreed k w) s P :=
  (gives_iff rfl P).2 h

theorem holdExpiry_gives {P : Mod → Prop} {w : Word} (h : P (holdEnd s.mod k w.toNat)) : Gives (.holdExpiry k w) s P :=
  (gives_iff rfl P).2 h

theorem buildCheckpoint_gives {P : Mod → Prop} (h : P (buildCkpt s.mod k)) : Gives (.buildCheckpoint k) s P := (gives_iff rfl P).2 h

end

/-- Settles O29: each row by the lemma on its operation. -/
theorem generationsApplyHoldAndFree : Obligations.GenerationsApplyHoldAndFree := by
  intro s due
  refine ⟨fun hr => generationPublish_gives (publishSlot_resetting hr), fun hr hord => generationPublish_gives ⟨?none, ?publish⟩,
    fun coll c h hc hrec => histogramRecountEnd_gives ?recount,
    fun coll g c x hc hg => ⟨fun hstay => generationFreed_gives (genFree_stays hc hg hstay), fun hold hpin hheld hd => ?freed,
      fun hold hpin hheld hd hall => ?last, fun h hx hnow => holdExpiry_gives (holdEnd_runs hc hg hx hnow),
      fun h hx hnow => ⟨?same, fun hold hpin hd => ?expired⟩⟩,
    fun cid c b hc hb => ⟨fun hdue => buildCheckpoint_gives (buildCkpt_early hc hb hdue),
      fun hdue hq => buildCheckpoint_gives (buildCkpt_full hc hb hdue hq), fun q hdue hq hord hseg => buildCheckpoint_gives ?checkpoint⟩⟩
  case none => exact publishSlot_noneDue hr (List.pairwise_map.2 hord.2)
  case publish =>
    intro r p c hdue hp hc hd
    have hmem : r ∈ s.mod.ledger.records := (List.mem_filter.1 (hdue ▸ List.mem_singleton_self r)).1
    obtain ⟨d, hd', hpub⟩ := publishSlot_published hr hdue (recordOf_of_mem hord hmem) hp hc hd
    exact ⟨d, hd', hpub.cur, hpub.pub, hpub.gen, hpub.epoch⟩
  case recount =>
    rw [recountEnd_eq hc hrec]
    have hset : shardOf (setColl s.mod (recounted c h)) coll = some (recounted c h) := by
      obtain rfl := shardOf_id hc
      exact shardOf_setColl_self (d := recounted c h) hc
    exact ⟨hset, rfl, fun r hr _ _ _ hk ha hs => mem_counted hr hk ha hs, fun i hi v hk hv => mem_imagesDone hi hk hv⟩
  case freed =>
    obtain ⟨d, hd', hsame⟩ := MayGo.genFree_shard ⟨hc, hg, hold, hpin, hheld⟩ hd
    exact generationFreed_gives ⟨d, hd', hsame.cur, hsame.gens⟩
  case last => exact generationFreed_gives (MayGo.genFree_last ⟨hc, hg, hold, hpin, hheld⟩ hd hall)
  case same =>
    have hrun : exec (.holdExpiry coll g) s = .next { s with mod := holdEnd s.mod coll g.toNat } := rfl
    exact ⟨_, holdEnd_over hc hg hx hnow ▸ hrun, rfl⟩
  case expired =>
    obtain ⟨d, hd', hsame⟩ := MayGo.genFree_shard ⟨hc, hg, hold, hpin, heldBy_over hx hnow⟩ hd
    exact holdExpiry_gives (holdEnd_over hc hg hx hnow ▸ ⟨d, hd', hsame.gens⟩)
  case checkpoint =>
    obtain ⟨hrec, hcmd, hcolls⟩ := ckptRecorded_spec hord hc (ckptPlaced_onCache hq) (checkpointed s.mod b q.1)
    rw [buildCkpt_eq hc hb hdue hq]
    exact ⟨hrec, hcmd, bits_status _ hseg, hcolls⟩

end Sys2Proof.Proofs

/-! The work of EMBED_INSERT, TABLE_UPDATE, MERGE_STOCKPILE and BUILD_SEGMENT, once admitted (R245, R249, R265, R289, R335, R337). -/

namespace Sys2Proof.Proofs

open Sys2Proof Sys2Proof.Machine Sys2Proof.Laws

section
variable {m u : Mod} {cid op : Nat} {c d : Cmd}

/-- A running command, its work record changed to `d`, writes a record (R511): what the work did before it left the ledger alone. -/
theorem record_running {redo : Redo} (h : Running m cid op c) (hord : ledgerOrdered m.ledger) (hled : u.ledger = m.ledger)
    (hcmd : (cmdOf u cid).isSome = true) (hid : d.id = c.id) (hent : d.entry = c.entry) :
    let t := record (setCmd u d) d redo
    RecordWritten m t c (collId c.entry) op redo ∧ cmdOf t cid = some { d with lsn := some m.ledger.next } ∧ onRecord.Only u t := by
  obtain ⟨hc, -, hop⟩ := h
  obtain rfl : d.id = cid := hid.trans (cmdOf_id hc)
  obtain ⟨x, hx⟩ := Option.isSome_iff_exists.1 hcmd
  have hord' : ledgerOrdered (setCmd u d).ledger := hled ▸ hord
  obtain ⟨hrec, honly, -⟩ := record_spec (m := setCmd u d) (c := d) redo hord'
  rw [hent, hop] at hrec
  refine ⟨recordWritten_of_ledger hrec hled rfl hid, ?_, .trans (t := setCmd u d) rfl honly⟩
  rw [← hled]
  exact cmdOf_record redo hord' (cmdOf_setCmd_self hx)

/-! EMBED_INSERT (R265, R289). -/

section
variable {k : Nat} {co : Coll} {w : EmbedW}

/-- An EMBED_INSERT on shard `co` whose documents are complete and whose record is not written. -/
structure VectorsDue (m : Mod) (cid : Nat) (c : Cmd) (w : EmbedW) (co : Coll) : Prop where
  running : Running m cid 0x14 c
  embed : c.embed = some w
  shard : shardOf m (collId c.entry) = some co
  complete : docsN c.entry ≤ c.docsDone
  unwritten : c.lsn = none

/-- Shard `co` with entries `es` in the place of those of their positions. -/
def stockFilled (co : Coll) (es : List SEntry) : Coll :=
  { co with stock := co.stock.map fun x => (es.find? fun e => e.pos = x.pos).getD x }

theorem mem_stockFilled {es : List SEntry} {x : SEntry} (hx : x ∈ (stockFilled co es).stock) : x ∈ co.stock ∨ x ∈ es := by
  obtain ⟨y, hy, rfl⟩ := List.mem_map.1 hx
  cases he : es.find? fun e => e.pos = y.pos with
  | none => exact .inl hy
  | some e => exact .inr (List.mem_of_find?_eq_some he)

theorem stockWrites_stored (es : List SEntry) {t : Mod} (h : StockStored k co m t) :
    StockStored k co m (es.foldl (stockWrite k) t) := by
  induction es generalizing t with
  | nil => exact h
  | cons e es ih => exact ih (stockWrite_stored e h)

/-- The vectors written to their positions' slots of a shard that holds them. -/
def vectorsStored (m : Mod) (co : Coll) (es : List SEntry) : Mod := es.foldl (stockWrite co.id) (setColl m (stockFilled co es))

theorem vectorsStored_stored (hs : shardOf m co.id = some co) (es : List SEntry) :
    StockStored co.id (stockFilled co es) m (vectorsStored m co es) :=
  stockWrites_stored es ⟨rfl, _, shardOf_setColl_self (d := stockFilled co es) hs⟩

theorem embedEnts_length (co : Coll) (c : Cmd) (w : EmbedW) : (embedEnts co c w).length = docsN c.entry := by
  simp [embedEnts, upto]

/-- The command with its documents counted. -/
def docsCounted (c : Cmd) : Cmd := { c with count := docsN c.entry }

theorem VectorsDue.run_eq (h : VectorsDue m cid c w co) : embedInsertRun m cid =
    record (setCmd (vectorsStored m co (embedEnts co c w)) (docsCounted c)) (docsCounted c) (.insert (embedEnts co c w) [] []) := by
  obtain ⟨⟨hc, -, hop⟩, hw, hs, hn, hl⟩ := h
  rw [docsCounted, ← embedEnts_length co c w]
  simp only [embedInsertRun, hc, hw, hs, hop, hl, Nat.not_lt.2 hn]
  rfl

/-- The record of the entries, the work record that names it, and the shard with its positions filled. -/
theorem VectorsDue.run_spec (h : VectorsDue m cid c w co) (hord : ledgerOrdered m.ledger) :
    let t := embedInsertRun m cid
    RecordWritten m t c (collId c.entry) 0x14 (.insert (embedEnts co c w) [] []) ∧
    cmdOf t cid = some { docsCounted c with lsn := some m.ledger.next } ∧
    ∃ p, shardOf t (collId c.entry) = some { stockFilled co (embedEnts co c w) with stockPgs := p } := by
  have hid := shardOf_id h.shard
  obtain ⟨hstock, p, hp⟩ := vectorsStored_stored (m := m) (hid ▸ h.shard) (embedEnts co c w)
  have hcmd := (hstock.same (cmdOf · cid) fun _ _ => rfl).trans h.running.1
  obtain ⟨hrec, hd, honly⟩ := record_running (d := docsCounted c) h.running hord (hstock.same Mod.ledger fun _ _ => rfl)
    (hcmd ▸ rfl) rfl rfl
  rw [h.run_eq]
  exact ⟨hrec, hd, p, hid ▸ (honly.same (shardOf · co.id) fun _ _ => rfl).trans hp⟩

end

/-! TABLE_UPDATE (R335, R337). -/

section
variable {p : PkgVer} {tb : TableDesc} {as : List SvcEnt}

/-- A TABLE_UPDATE whose adds `as`, all on stacked memory, have yet to enter the service queue. -/
structure AddsDue (m : Mod) (cid : Nat) (c : Cmd) (p : PkgVer) (tb : TableDesc) (as : List SvcEnt) : Prop where
  running : Running m cid 0x31 c
  unqueued : ∃ q, c.upd = some q ∧ q.queued = false
  package : pkgOf m c (fld c.entry 16 2) = some p
  table : tableOf p (fld c.entry 18 1) = some tb
  adds : updateAdds m p (fld c.entry 18 1) c.pl.indices (deltasOf c.entry c.pl tb) (some cid) = as
  serves : unitsStall m = false
  some_adds : as ≠ []
  stacked : ∀ a ∈ as, a.stack < 8

/-- The command with its adds `as` in the service queue. -/
def addsQueued (c : Cmd) (as : List SvcEnt) : Cmd := { c with upd := some ⟨true, as.length, []⟩, count := fld c.entry 28 4 }

/-- What a TABLE_UPDATE's adds take: its work record, the service queue and counters. -/
def onAdds : Portion := ⟨fun m t => { m with cmds := t.cmds, svc := t.svc, regs := t.regs }, fun _ => rfl, fun _ _ _ => rfl⟩

/-- The adds enter the service queue, and the invalid indices are counted (R330). -/
theorem AddsDue.run_eq (h : AddsDue m cid c p tb as) :
    let ix := (upto (fld c.entry 28 4)).map fun j => c.pl.indices.getD j 0#64
    updateRun m cid = { setCmd (countDefaults m tb ix) (addsQueued c as) with svc := m.svc ++ as } := by
  obtain ⟨⟨hc, -, hop⟩, ⟨q, hu, hq⟩, hp, ht, has, hst, hne, hlow⟩ := h
  have hnear : as.filter (fun a => a.stack < 8) = as := List.filter_eq_self.2 fun a ha => decide_eq_true (hlow a ha)
  have hfar : as.filter (fun a => 8 ≤ a.stack) = [] := List.filter_eq_nil_iff.2 fun a ha => by simpa using hlow a ha
  have hempty : as.isEmpty = false := by simpa using hne
  simp only [updateRun, hc, hu, hq, hp, ht, has, hop, hst, hnear, hfar, hempty]
  rfl

theorem cmdOf_addsQueued {svc : List SvcEnt} (hc : cmdOf m cid = some c) (hu : onRegs.Only m u) :
    cmdOf { setCmd u (addsQueued c as) with svc := svc } cid = some (addsQueued c as) := by
  obtain rfl := cmdOf_id hc
  exact cmdOf_setCmd_self (d := addsQueued c as) ((hu.same (cmdOf · c.id) fun _ _ => rfl).trans hc)

theorem AddsDue.run_spec (h : AddsDue m cid c p tb as) :
    (updateRun m cid).svc = m.svc ++ as ∧ cmdOf (updateRun m cid) cid = some (addsQueued c as) ∧ onAdds.Only m (updateRun m cid) := by
  rw [h.run_eq]
  exact ⟨rfl, cmdOf_addsQueued h.running.1 (bump_only ..), rfl⟩

end

/-! BUILD_SEGMENT (R249, R250). -/

/-- A build of shard `co` may take its next step: no checkpoint is due, the ring has room, and BULK credit allows it (R87). -/
structure BuildSteps (m : Mod) (cid : Nat) (c : Cmd) (b : BuildW) (co : Coll) : Prop where
  running : Running m cid 0x21 c
  build : c.build = some b
  coll : collOf m (collId c.entry) = some co
  early : ckptDue m b = false
  ring : ringFull m = false
  may : stepMay m c.entry = true

/-- What a job's step draws: its work record, credit and shares. -/
def onDraw : Portion := ⟨fun m t => { m with cmds := t.cmds, pwr := t.pwr, adm := t.adm }, fun _ => rfl, fun _ _ _ => rfl⟩

theorem drawStep_onDraw (m : Mod) (c : Cmd) : onDraw.Only m (drawStep m c).1 := rfl

theorem drawStep_pl (m : Mod) (c : Cmd) : (drawStep m c).2.pl = c.pl := rfl

theorem cmdOf_drawStep (hc : cmdOf m cid = some c) : cmdOf (drawStep m c).1 cid = some (drawStep m c).2 := by
  obtain rfl := cmdOf_id hc
  exact cmdOf_setCmd_self (d := (drawStep m c).2) (x := c) hc

/-- Inputs ingested write device memory alone. -/
theorem ingestVecs_onDevice (co : Coll) (b : BuildW) (pl : Payload) (i k : Nat) : onDevice.Only m (ingestVecs m co b pl i k) :=
  .foldl (fun _ _ => writeBytes_onDevice ..) _ m

theorem imageGroup_onDevice (ps : List Nat) : onDevice.Only m (imageGroup m ps) := by
  let t : Mod := { m with mem := { m.mem with
    groups := ⟨groupImages m ps, groupParity m ps, ps⟩ :: dropImages m.mem.groups ps
    nextPage := m.mem.nextPage + 1, rot := (m.mem.rot + ps.length + 1) % 32 } }
  have ht : onRegs.Only t (imageGroup m ps) := .foldl (fun _ _ => bump_only ..) (groupParity m ps :: groupImages m ps) t
  exact .trans (t := t) rfl (ht.widen fun _ _ => rfl)

theorem imageGroups_onDevice (fuel : Nat) (ps : List Nat) : onDevice.Only m (imageGroups fuel ps m) := by
  induction fuel generalizing m ps with
  | zero => exact .refl _ m
  | succ fuel ih => exact .ite (.refl _ m) ((imageGroup_onDevice _).trans (ih _))

theorem imagePages_onDevice (ps : List Nat) : onDevice.Only m (imagePages m ps) := imageGroups_onDevice ..

/-- The segment's image pages written to flash (R447). -/
def imaged (m : Mod) (b : BuildW) : Mod := imagePages { m with draws := m.draws + 1 } b.pages

theorem imaged_onCache (m : Mod) (b : BuildW) : onCache.Only m (imaged m b) :=
  .trans (t := { m with draws := m.draws + 1 }) rfl ((imagePages_onDevice b.pages).widen fun _ _ => rfl)

/-- The command with its segment made, before its record. -/
def segmentMade (c : Cmd) (b : BuildW) : Cmd := { c with build := some { b with phase := 6 }, count := fld c.entry 40 4, info := b.seg }

namespace BuildSteps

variable {b : BuildW} {co : Coll}

/-- A trained codebook ends phase 1. -/
theorem codebook (h : BuildSteps m cid c b co) (hp : b.phase = 1) :
    buildRun m cid = setCmd (drawStep m c).1 { (drawStep m c).2 with build := some { b with phase := 2, skews := 0 } } := by
  obtain ⟨⟨hc, -, -⟩, hb, hco, hdue, hring, hmay⟩ := h
  simp only [buildRun, hc, hb, hco, hdue, hring, hmay, hp]
  rfl

/-- Phase 2 writes the vectors up to input `k`, none of them at fault, and ends with the last. -/
theorem ingest (h : BuildSteps m cid c b co) (hp : b.phase = 2) {k : Nat} (hk : min (fld c.entry 40 4) (b.count + buildBatch) = k)
    (hf : ingestFault co c.pl k = none) : buildRun m cid = setCmd (ingestVecs (drawStep m c).1 co b c.pl b.count k)
      { (drawStep m c).2 with build := some { b with count := k, phase := if k = fld c.entry 40 4 then 3 else 2, skews := 0 } } := by
  obtain ⟨⟨hc, -, -⟩, hb, hco, hdue, hring, hmay⟩ := h
  simp only [buildRun, hc, hb, hco, hdue, hring, hmay, hp, drawStep_pl, hk, hf]
  rfl

/-- The build fails at an input that it must reject (R250). -/
theorem fault (h : BuildSteps m cid c b co) (hp : b.phase = 2) {x : Nat × Nat}
    (hk : ingestFault co c.pl (min (fld c.entry 40 4) (b.count + buildBatch)) = some x) :
    buildRun m cid = buildFail (drawStep m c).1 (drawStep m c).2 co b x.1 x.2 := by
  obtain ⟨⟨hc, -, -⟩, hb, hco, hdue, hring, hmay⟩ := h
  simp only [buildRun, hc, hb, hco, hdue, hring, hmay, hp, drawStep_pl, hk]
  rfl

/-- Phase 5 writes the segment's image and its record. -/
theorem image (h : BuildSteps m cid c b co) (hp : b.phase = 5) : buildRun m cid =
    record (setCmd (imaged (drawStep m c).1 b) (segmentMade (drawStep m c).2 b)) (segmentMade (drawStep m c).2 b)
      (.built (buildSeg m co c b)) := by
  obtain ⟨⟨hc, -, -⟩, hb, hco, hdue, hring, hmay⟩ := h
  simp only [buildRun, hc, hb, hco, hdue, hring, hmay, hp]
  rfl

/-- A step's work on device memory keeps the command as its draw left it. -/
theorem cmdOf_setBuild (h : BuildSteps m cid c b co) (hu : onDevice.Only (drawStep m c).1 u) (x : BuildW) :
    cmdOf (setCmd u { (drawStep m c).2 with build := some x }) cid = some { (drawStep m c).2 with build := some x } := by
  have hc := (hu.same (cmdOf · cid) fun _ _ => rfl).trans (cmdOf_drawStep h.running.1)
  obtain rfl := cmdOf_id hc
  exact cmdOf_setCmd_self hc

theorem image_spec (h : BuildSteps m cid c b co) (hp : b.phase = 5) (hord : ledgerOrdered m.ledger) :
    RecordWritten m (buildRun m cid) c (collId c.entry) 0x21 (.built (buildSeg m co c b)) ∧
    cmdOf (buildRun m cid) cid = some { segmentMade (drawStep m c).2 b with lsn := some m.ledger.next } := by
  have hu := imaged_onCache (drawStep m c).1 b
  have hcmd := (hu.same (cmdOf · cid) fun _ _ => rfl).trans (cmdOf_drawStep h.running.1)
  have hled : (imaged (drawStep m c).1 b).ledger = m.ledger :=
    (hu.same Mod.ledger fun _ _ => rfl).trans ((drawStep_onDraw m c).same Mod.ledger fun _ _ => rfl)
  obtain ⟨hrec, hd, -⟩ := record_running (d := segmentMade (drawStep m c).2 b) h.running hord hled (hcmd ▸ rfl) rfl rfl
  rw [h.image hp]
  exact ⟨hrec, hd⟩

end BuildSteps

end

/-- Settles O27: EMBED_INSERT and TABLE_UPDATE by what their work leaves, MERGE_STOCKPILE as MERGE_STEP's work on its shard, and
BUILD_SEGMENT by the phase of its build. -/
theorem admittedMutationsWork : Obligations.AdmittedMutationsWork := by
  intro s cid c e
  refine ⟨fun w co hord hr hw hs hn hl => running_gives hr rfl ?embed,
    fun q p tb hr hu hq hp ht hst hne hlow => running_gives hr rfl ?update, fun hr => ?merge,
    fun b co hr hb hco hdue hring hmay => ?build⟩
  case embed =>
    obtain ⟨hrec, hd, pgs, hshard⟩ := VectorsDue.run_spec ⟨hr, hw, hs, hn, hl⟩ hord
    exact ⟨hrec, ⟨_, hd, rfl, rfl⟩, _, hshard, List.length_map .., fun x hx => mem_stockFilled hx⟩
  case update =>
    obtain ⟨hsvc, hd, honly⟩ := AddsDue.run_spec ⟨hr, ⟨q, hu, hq⟩, hp, ht, rfl, hst, hne, hlow⟩
    exact ⟨hsvc, ⟨_, hd, rfl, rfl⟩, honly⟩
  case merge =>
    have hrun : mergeRun s.mod cid = mergeStepOp s.mod (collId e) := by simp only [mergeRun, hr.1, e]
    refine ⟨{ s with mod := mergeStepOp s.mod (collId e) }, ?_, rfl⟩
    rw [← hrun, ← partOp_run hr mergeRun]
    rfl
  case build =>
    have h : BuildSteps s.mod cid c b co := ⟨hr, hb, hco, hdue, hring, hmay⟩
    refine ⟨fun hp => running_gives hr rfl ?codebook, fun hp hk => running_gives hr rfl ?ingest,
      fun x hp hk => running_gives hr rfl (h.fault hp hk), fun hp hord => running_gives hr rfl ?image⟩
    case codebook =>
      rw [h.codebook hp]
      exact ⟨h.cmdOf_setBuild (.refl ..) _, rfl⟩
    case ingest =>
      rw [h.ingest hp rfl hk]
      exact h.cmdOf_setBuild (ingestVecs_onDevice ..) _
    case image =>
      obtain ⟨hrec, hd⟩ := h.image_spec hp hord
      exact ⟨hrec, _, hd, rfl, rfl, rfl, rfl⟩

end Sys2Proof.Proofs

/-! A drain into a tensor whose base has bit 64 set: the store's byte that it writes has a second address (R275, R280, R384). -/

namespace Sys2Proof.Proofs

open Sys2Proof Sys2Proof.Machine Sys2Proof.Laws

/-- The address of byte 0x1000 of a face's local store. -/
def nearAddr : Nat := 2 ^ 63 + 0x1000

/-- A tensor of one fp32 element at the same byte: an access looks at no bit of its base above bit 63. -/
def farDesc : TDesc := { tdZero 0 with base := 2 ^ 64 + nearAddr, rows := 1, cols := 1, stride := 32 }

/-- Face 0 at a TDRAIN of set 0 into that tensor. Element 0 of the set has code 1, the store is empty but for the instruction, and
the epilogue descriptor is the 80 bytes at address 0, all zero. -/
def farFace : Face :=
  { face0 0 with
    st := 1, cmd := some 7, codeLen := 4, store := cellsSet [] 0 (toBytes (encJ 0x33 0#26).toNat 4)
    td := [(0, farDesc)], acc := [{ acc0 with tile := [1#32] }, acc0] }

def farMod : Mod := { Mod.reset with inited := true, faces := [farFace] }

theorem farMod_issues : Issues farMod (.tdrain 0 ⟨0#26, none⟩) (.face 0) :=
  ⟨encJ 0x33 0#26, rfl, by decide +kernel, by decide +kernel⟩

theorem farMod_outBad : outBad farMod farFace (faceTd farFace 0) (faceX farFace 0) = none := by decide +kernel

/-- The drain changes what the near address reads as. -/
theorem farMod_drains :
    faceRead farMod farFace nearAddr 1 = [0#8] ∧
      (faceOf (tdrainRun farMod 0 0#26 none) 0).map (fun y => faceRead farMod y nearAddr 1) = some [1#8] := by decide +kernel

/-- Refutes O57, at TDRAIN: the statement does not ask that a descriptor's base has 64 bits, which is all that TDESC loads. Where
bit 64 of the base is set, the drain's write falls on a byte of local store that an address below every place of the tensor
names too, and the statement says that this address reads as before. -/
theorem not_tensorInstructionsAccumulateAndDrain : ¬ Obligations.TensorInstructionsAccumulateAndDrain := by
  intro h
  obtain ⟨-, -, -, hdrain, -⟩ := h ⟨[], farMod⟩ 0 farFace rfl rfl rfl
  obtain ⟨-, -, -, hemits⟩ := (hdrain 0#26).1 none
  obtain ⟨y, hy, -, -, -, -, -, -, -, -, -, -, -, -, hbytes⟩ :=
    (gives_iff rfl _).1 (hemits rfl farMod_outBad rfl farMod_issues)
  obtain ⟨-, hrest⟩ := hbytes (by decide) (by decide)
  have hbelow : nearAddr < farDesc.base := by decide
  have hkept : faceRead farMod y nearAddr 1 = faceRead farMod farFace nearAddr 1 :=
    hrest _ (by decide) fun i j _ => .inl (hbelow.trans_le ((Nat.le_add_right ..).trans (Nat.le_add_right ..)))
  obtain ⟨hold, hnew⟩ := farMod_drains
  rw [hy, Option.map_some, hkept, hold] at hnew
  exact absurd hnew (by decide)

end Sys2Proof.Proofs

/-! The move of a page as it is set and abandoned (R438), and its next run copied (R423, R432, R434). -/

namespace Sys2Proof.Proofs

open Sys2Proof Sys2Proof.Machine Sys2Proof.Laws

section
variable {m : Mod} {pg : Nat} {v : Move} {e : PageEnt}

/-! The move of a page. -/

theorem moveOf_page (h : moveOf m pg = some v) : v.page = pg ∧ v.done = false := by simpa using List.find?_some h

/-- A look-up of an element of one kind where all of that kind were replaced by `x`. -/
theorem find_mapIf_const {α : Type} (p : α → Bool) (x : α) (l : List α) :
    (mapIf p (fun _ => x) l).find? p = if p x = true then (l.find? p).map fun _ => x else none := by
  induction l with
  | nil => simp [mapIf]
  | cons y l ih =>
    simp only [mapIf, List.map_cons, List.find?_cons] at ih ⊢
    cases hy : p y with
    | true => cases hx : p x <;> simp [hx] at ih ⊢; exact ih
    | false => simpa [hy] using ih

/-- A move set is its page's move unless it is done. -/
theorem moveOf_setMove (m : Mod) (v : Move) :
    moveOf (setMove m v) v.page = if v.done = true then none else (moveOf m v.page).map fun _ => v := by
  have h := find_mapIf_const (fun x : Move => decide (x.page = v.page) && !x.done) v m.mem.moves
  cases hd : v.done <;> simpa [moveOf, setMove, hd] using h

/-- A page whose move is abandoned has none. -/
theorem moveOf_abandonMove (m : Mod) (v : Move) : moveOf (abandonMove m v) v.page = none := by
  have hmoves : (abandonMove m v).mem.moves = m.mem.moves.filter fun x => !(x.page = v.page && !x.done) := by
    unfold abandonMove
    dsimp only
    split <;> rfl
  rw [moveOf, hmoves]
  exact find_filter_none _ _ _ fun x hx => by simpa using hx

/-- What abandoning a move takes. -/
def onAbandon : Portion :=
  ⟨fun m t => { m with regs := t.regs, mem := { m.mem with moves := t.mem.moves, backoff := t.mem.backoff } },
    fun _ => rfl, fun _ _ _ => rfl⟩

theorem abandonMove_onAbandon (m : Mod) (v : Move) : onAbandon.Only m (abandonMove m v) := .ite rfl rfl

/-! HAUL_COPY (R423, R434). -/

theorem eccEvent_ok {a : Nat} {c : Ecc} (h : eccAt m a c = .ok) : eccEvent m a c = m := by
  unfold eccEvent
  rw [h]

/-- How many granules the next run of a move has, and where its granule `i` lies. -/
def runLen (v : Move) : Nat := min copyRun (2048 - v.copied)
def runAt (v : Move) (i : Nat) : Nat := v.page * pageSize + (v.copied + i) * 32

/-- A move with its next run copied. -/
def runCopied (m : Mod) (v : Move) : Move :=
  { v with copied := v.copied + runLen v, dest := v.dest ++ (List.range (runLen v)).map fun i => (v.copied + i, readGran m (runAt v i))
           ended := if v.copied + runLen v = 2048 then some (now m) else none }

/-- The reads of a run counted on the page's stack or flash channel. -/
def countRun (m : Mod) (v : Move) : Mod :=
  match pageEnt m v.page with
  | some x => if x.bench = 1 then bump m (hbmP (locStack x.loc)) 0x70 (runLen v)
    else if x.bench = 2 then bump m ⟨4, .flc, x.loc⟩ 0x4C (runLen v / 128) else m
  | none => m

theorem countRun_onRegs (m : Mod) (v : Move) : onRegs.Only m (countRun m v) := by
  unfold countRun
  split
  · exact .ite (bump_only ..) (.ite (bump_only ..) (.refl ..))
  · exact .refl ..

theorem haulCopyOp_yields (hv : moveOf m pg = some v) (hy : yields m v = true) (c : Ecc) : haulCopyOp m pg c = m := by
  unfold haulCopyOp
  rw [hv]
  exact if_pos (by simp [hy])

/-- The worst that a run finds where the read of its first granule finds `c`. -/
def runEcc (m : Mod) (v : Move) (c : Ecc) : Ecc :=
  if (upto (runLen v)).any fun i => eccAt m (runAt v i) .ok = .uncorrectable then .uncorrectable else c

section
variable (hv : moveOf m v.page = some v) (hend : v.ended = none) (hy : yields m v = false)
  (hl : leaseHeld m (runAt v 0) (runLen v * 32) = false)
include hv hend hy hl

/-- A run that nothing holds back is read and checked: the move is abandoned, or has the run copied. -/
theorem haulCopyOp_runs (c : Ecc) : haulCopyOp m v.page c =
    let t := eccEvent m (runAt v 0) c
    if runEcc m v c = .uncorrectable && v.reason != 1 then abandonMove t v
    else setMove (countRun t v) (runCopied (countRun t v) v) := by
  have hgo : ¬ (v.ended.isSome || yields m v) = true := by simp [hend, hy]
  have hfree : ¬ leaseHeld m (runAt v 0) (runLen v * 32) = true := by simp [hl]
  unfold haulCopyOp
  rw [hv]
  exact (if_neg hgo).trans (if_neg hfree)

theorem haulCopyOp_ok (hecc : ∀ i, i < runLen v → eccAt m (runAt v i) .ok = .ok) (h0 : eccAt m (runAt v 0) .ok = .ok) :
    haulCopyOp m v.page .ok = setMove (countRun m v) (runCopied m v) := by
  have hgood : runEcc m v .ok = .ok := if_neg (by simpa [upto] using fun i hi => by simp [hecc i hi])
  have hcount : runCopied (countRun m v) v = runCopied m v := (countRun_onRegs m v).same (runCopied · v) fun _ _ => rfl
  rw [haulCopyOp_runs hv hend hy hl, hgood, eccEvent_ok h0, ← hcount]
  rfl

theorem haulCopyOp_uncorrectable (hr : v.reason ≠ 1) :
    haulCopyOp m v.page .uncorrectable = abandonMove (eccEvent m (runAt v 0) .uncorrectable) v := by
  have hbad : runEcc m v .uncorrectable = .uncorrectable := ite_self _
  rw [haulCopyOp_runs hv hend hy hl, hbad]
  exact if_pos (by simp [hr])

/-- A run copied: no byte changes, the move holds the run, and nothing else but registers changes. -/
theorem haulCopyOp_copies (hecc : ∀ i, i < runLen v → eccAt m (runAt v i) .ok = .ok) (h0 : eccAt m (runAt v 0) .ok = .ok) :
    let t := haulCopyOp m v.page .ok
    ReadsSame m t ∧ moveOf t v.page = some (runCopied m v) ∧
      t = { m with mem := { m.mem with moves := t.mem.moves }, regs := t.regs } := by
  intro t
  have ht : t = setMove (countRun m v) (runCopied m v) := haulCopyOp_ok hv hend hy hl hecc h0
  have hregs : onRegs.Only m (countRun m v) := countRun_onRegs m v
  have hmove : moveOf (countRun m v) v.page = some v := (hregs.same (moveOf · v.page) fun _ _ => rfl).trans hv
  have hset := moveOf_setMove (countRun m v) (runCopied m v)
  rw [if_neg (by simp [runCopied, (moveOf_page hv).2]), show (runCopied m v).page = v.page from rfl, hmove, Option.map_some] at hset
  rw [ht]
  refine ⟨fun a => hregs.same (readByte · a) fun _ _ => rfl, hset, ?_⟩
  generalize countRun m v = u at hregs
  rw [hregs]
  rfl

/-- A move abandoned on an uncorrectable granule: the page is in no move, no page changes its place, and no byte changes. -/
theorem haulCopyOp_abandons (hr : v.reason ≠ 1) :
    let t := haulCopyOp m v.page .uncorrectable
    moveOf t v.page = none ∧ t.mem.map = m.mem.map ∧ ReadsSame m t := by
  intro t
  have ht : t = abandonMove (eccEvent m (runAt v 0) .uncorrectable) v := haulCopyOp_uncorrectable hv hend hy hl hr
  have hcheck := eccEvent_effect m (runAt v 0) .uncorrectable
  have hleft := abandonMove_onAbandon (eccEvent m (runAt v 0) .uncorrectable) v
  rw [ht]
  refine ⟨moveOf_abandonMove .., ?_, fun a => (hleft.same (readByte · a) fun _ _ => rfl).trans (hcheck.reads a)⟩
  exact (hleft.same (·.mem.map) fun _ _ => rfl).trans (by rw [hcheck.frame])

end
end

end Sys2Proof.Proofs

/-! A page flipped to its destination outside flash (R342, R435): copy and log, the contents of the page, become it. -/

namespace Sys2Proof.Proofs

open Sys2Proof Sys2Proof.Machine Sys2Proof.Laws

/-! Granules put at their page's place. -/

/-- The contents of granule `i` in a copy and its log: the last listed. -/
def lastGran (l : List (Nat × List Byte)) (i : Nat) : Option (List Byte) := (l.filter fun g => g.1 = i).getLast?.map (·.2)

theorem lastGran_concat (l : List (Nat × List Byte)) (g : Nat × List Byte) (i : Nat) :
    lastGran (l ++ [g]) i = if g.1 = i then some g.2 else lastGran l i := by
  unfold lastGran
  by_cases h : g.1 = i <;> simp [h]

/-- A granule written whole reads back, and every other byte reads as before. -/
theorem cellGet_granSet (cells : List Host.Cell) {b : Nat} {g : List Byte} (hb : b % 32 = 0) (hg : g.length = 32) (a : Nat) :
    cellGet (cellsSet cells b g) a = if a / 32 = b / 32 then g.getD (a % 32) 0#8 else cellGet cells a := by
  rw [cellGet_cellsSet]
  by_cases ha : a / 32 = b / 32
  · have hoff : a - b = a % 32 := by omega
    rw [dif_pos (by omega), if_pos ha, List.getD_eq_getElem _ _ (by omega)]
    simp only [hoff]
  · rw [dif_neg (by omega), if_neg ha]

/-- Granules written one after the other at their places in a page. -/
def granulesSet (pg : Nat) (cells : List Host.Cell) (l : List (Nat × List Byte)) : List Host.Cell :=
  l.foldl (fun c g => cellsSet c (pg * pageSize + g.1 * 32) g.2) cells

/-- An address lies in granule `i` of page `pg`. -/
theorem granule_iff {pg i : Nat} (hi : i < 2048) (a : Nat) :
    a / 32 = (pg * pageSize + i * 32) / 32 ↔ pageNo a = pg ∧ i = a % pageSize / 32 := by
  simp only [pageNo, pageSize]
  omega

theorem cellGet_granulesSet {pg : Nat} (cells : List Host.Cell) {l : List (Nat × List Byte)} (hl : ∀ g ∈ l, g.1 < 2048 ∧ g.2.length = 32)
    (a : Nat) : cellGet (granulesSet pg cells l) a =
      if pageNo a = pg then (lastGran l (a % pageSize / 32)).elim (cellGet cells a) (·.getD (a % 32) 0#8) else cellGet cells a := by
  induction l using List.reverseRecOn with
  | nil => simp [granulesSet, lastGran]
  | append_singleton l g ih =>
    obtain ⟨hg, hlen⟩ := hl g (by simp)
    have hput : granulesSet pg cells (l ++ [g]) = cellsSet (granulesSet pg cells l) (pg * pageSize + g.1 * 32) g.2 := by
      simp [granulesSet]
    have haligned : (pg * pageSize + g.1 * 32) % 32 = 0 := by simp only [pageSize]; omega
    rw [hput, cellGet_granSet _ haligned hlen, ih fun x hx => hl x (List.mem_append_left _ hx), lastGran_concat]
    simp only [granule_iff hg]
    by_cases hp : pageNo a = pg
    · by_cases hk : g.1 = a % pageSize / 32 <;> simp [hp, hk]
    · simp [hp]

section
variable {m : Mod} {v : Move} {e : PageEnt}

/-- The module with other cells. -/
def withCells (m : Mod) (cells : List Host.Cell) : Mod := { m with mem := { m.mem with cells := cells } }

/-- Granules of a page outside flash go to memory's cells. -/
theorem foldl_rawGran {l : List (Nat × List Byte)} {pg : Nat} (he : pageEnt m pg = some e) (hb : e.bench ≠ 2) (hl : ∀ g ∈ l, g.1 < 2048) :
    l.foldl (fun m g => rawGran m (pg * pageSize + g.1 * 32) g.2) m = withCells m (granulesSet pg m.mem.cells l) := by
  induction l generalizing m with
  | nil => rfl
  | cons g l ih =>
    have hpage : pageNo (pg * pageSize + g.1 * 32) = pg := by
      have := hl g List.mem_cons_self
      simp only [pageNo, pageSize]
      omega
    have hput : rawGran m (pg * pageSize + g.1 * 32) g.2 = withCells m (cellsSet m.mem.cells (pg * pageSize + g.1 * 32) g.2) := by
      unfold rawGran
      rw [hpage, he]
      exact if_neg hb
    rw [List.foldl_cons, hput, ih (m := withCells m (cellsSet ..)) he fun x hx => hl x (List.mem_cons_of_mem _ hx)]
    rfl

/-! The map entry flipped. -/

/-- A page's contents given up where entry `e` says they lie. -/
def dropContents (m : Mod) (pg : Nat) (e : PageEnt) : Mod :=
  if e.bench = 2 then
    { m with mem := { m.mem with wb := m.mem.wb.filter fun w => !(w.unit / 16 = pg), flash := m.mem.flash.filter fun f => !(f.no / 16 = pg) } }
  else { m with mem := { m.mem with cells := m.mem.cells.filter fun c => !decide (pageNo c.1 = pg) } }

/-- What giving up a page's contents takes. -/
def onContents : Portion :=
  ⟨fun m t => { m with mem := { m.mem with wb := t.mem.wb, flash := t.mem.flash, cells := t.mem.cells } }, fun _ => rfl, fun _ _ _ => rfl⟩

theorem dropContents_onContents (m : Mod) (pg : Nat) (e : PageEnt) : onContents.Only m (dropContents m pg e) := .ite rfl rfl

/-- The other pages keep their bytes in flash and in the cells. -/
theorem dropContents_other {pg a : Nat} (e : PageEnt) (ha : pageNo a ≠ pg) :
    flashByte (dropContents m pg e) a = flashByte m a ∧ cellGet (dropContents m pg e).mem.cells a = cellGet m.mem.cells a := by
  unfold dropContents
  split
  · have hlook := wbLook_filter m.mem.wb (fun w => !decide (w.unit / 16 = pg)) a fun w _ hw => entLook_ne fun hu => ha <| by
      rw [hu, unit_page] at hw
      simpa using hw
    have hunit := find_filter_of m.mem.flash (fun f => !decide (f.no / 16 = pg)) (fun f => decide (f.no = a / 4096)) fun f hf => by
      rw [of_decide_eq_true hf, unit_page]
      simpa using ha
    refine ⟨?_, rfl⟩
    simp only [flashByte, flashUnit]
    rw [hlook, hunit]
    rfl
  · have hcell := find_filter_of m.mem.cells (fun c => !decide (pageNo c.1 = pg)) (fun c => decide (c.1 = a)) fun c hc => by
      rw [of_decide_eq_true hc]
      simpa using ha
    refine ⟨rfl, ?_⟩
    simp only [cellGet, mapGet]
    rw [hcell]

/-- The move done and the map entry on its destination. -/
def entMoved (m : Mod) (v : Move) (e : PageEnt) : Mod :=
  let t := dropContents m v.page e
  setEnt (setMove t { v with done := true, srcB := e.bench, srcL := e.loc, switch := now t }) { e with bench := v.bench, loc := v.loc }

/-- The flip of a map entry with what goes with it: the channels' turn, and the count of the command behind the move. -/
def entFlipped (m : Mod) (v : Move) (e : PageEnt) : Mod :=
  let t := entMoved m v e
  let t := { t with mem := { t.mem with rot := if v.bench = 2 then (v.loc + 1) % 32 else t.mem.rot } }
  match v.cmd.bind (cmdOf t) with
  | some c => setCmd t { c with info := c.info + 1 }
  | none => t

def onTurn : Portion := ⟨fun m t => { m with cmds := t.cmds, mem := { m.mem with rot := t.mem.rot } }, fun _ => rfl, fun _ _ _ => rfl⟩

theorem entFlipped_onTurn (m : Mod) (v : Move) (e : PageEnt) : onTurn.Only (entMoved m v e) (entFlipped m v e) := by
  unfold entFlipped
  extract_lets t u
  split <;> rfl

theorem flip_eq (m : Mod) (v : Move) (e : PageEnt) : flip m v e false =
    (v.dest ++ v.log).foldl (fun m g => rawGran m (v.page * pageSize + g.1 * 32) g.2) (entFlipped m v e) := rfl

theorem pageEnt_entFlipped (he : pageEnt m v.page = some e) (q : Nat) :
    pageEnt (entFlipped m v e) q = if q = v.page then some { e with bench := v.bench, loc := v.loc } else pageEnt m q := by
  have hdrop : pageEnt (dropContents m v.page e) q = pageEnt m q := (dropContents_onContents m v.page e).same (pageEnt · q) fun _ _ => rfl
  rw [(entFlipped_onTurn m v e).same (pageEnt · q) fun _ _ => rfl, entMoved, pageEnt_setEnt, pageEnt_page he, ← hdrop]
  rfl

theorem moveOf_entFlipped (m : Mod) (v : Move) (e : PageEnt) : moveOf (entFlipped m v e) v.page = none := by
  rw [(entFlipped_onTurn m v e).same (moveOf · v.page) fun _ _ => rfl]
  exact moveOf_setMove (dropContents m v.page e) { v with done := true, srcB := e.bench, srcL := e.loc, switch := now (dropContents m v.page e) }

/-- The cells with a move's copy and log at its page's place. -/
def movedCells (m : Mod) (v : Move) (e : PageEnt) : List Host.Cell :=
  granulesSet v.page (dropContents m v.page e).mem.cells (v.dest ++ v.log)

/-- A page flipped to a destination outside flash: its copy and log stand in the cells. -/
theorem switched_eq (he : pageEnt m v.page = some e) (hs : moveSound m v) (hc : cleanMove m v e = false) (hb : v.bench < 2) :
    switched m v e = withCells (entFlipped m v e) (movedCells m v e) := by
  have hent : pageEnt (entFlipped m v e) v.page = some { e with bench := v.bench, loc := v.loc } := by
    rw [pageEnt_entFlipped he, if_pos rfl]
  have hcells : (entFlipped m v e).mem.cells = (dropContents m v.page e).mem.cells :=
    (entFlipped_onTurn m v e).same (·.mem.cells) fun _ _ => rfl
  rw [switched, if_neg (by simp [hc]), flip_eq, foldl_rawGran hent (by dsimp only; omega) fun g hg => (hs.1 g hg).1, hcells,
    movedCells]

/-- What a sound move has copied and logged of a byte's granule is the byte (R434). -/
theorem moveSound_byte (hs : moveSound m v) {a : Nat} (ha : pageNo a = v.page) :
    ∃ g, lastGran (v.dest ++ v.log) (a % pageSize / 32) = some g ∧ g.getD (a % 32) 0#8 = readByte m a := by
  have hpage : v.page * pageSize + a % pageSize / 32 * 32 + a % 32 = a := by
    simp only [← ha, pageNo, pageSize]
    omega
  have haligned : (v.page * pageSize + a % pageSize / 32 * 32) / 32 * 32 = v.page * pageSize + a % pageSize / 32 * 32 := by
    simp only [pageSize]
    omega
  refine ⟨_, hs.2 (a % pageSize / 32) (by simp only [pageSize]; omega), ?_⟩
  have hlt : a % 32 < 32 := Nat.mod_lt _ (by decide)
  simp [readGran, readBytes, upto, haligned, hlt, hpage]

theorem switched_readsSame (he : pageEnt m v.page = some e) (hs : moveSound m v) (hc : cleanMove m v e = false) (hb : v.bench < 2) :
    ReadsSame m (switched m v e) := by
  intro a
  rw [switched_eq he hs hc hb, readByte_eq]
  have hflash : flashByte (withCells (entFlipped m v e) (movedCells m v e)) a = flashByte (dropContents m v.page e) a :=
    (entFlipped_onTurn m v e).same (flashByte · a) fun _ _ => rfl
  have hent : pageEnt (withCells (entFlipped m v e) (movedCells m v e)) (pageNo a) = _ :=
    pageEnt_entFlipped he (pageNo a)
  have hcell : cellGet (withCells (entFlipped m v e) (movedCells m v e)).mem.cells a = _ :=
    cellGet_granulesSet _ hs.1 a
  rw [hent, hcell, hflash]
  by_cases ha : pageNo a = v.page
  · obtain ⟨g, hg, hbyte⟩ := moveSound_byte hs ha
    rw [if_pos ha, if_pos ha, hg, byteIn_some, if_neg (by dsimp only; omega)]
    exact hbyte
  · obtain ⟨hkeptF, hkeptC⟩ := dropContents_other e ha
    rw [if_neg ha, if_neg ha, hkeptF, hkeptC, ← readByte_eq]

/-- What a switch keeps and changes: every byte reads as before, the page's entry names the destination, no other entry changes, and the
page is in no move. -/
structure Switched (m : Mod) (v : Move) (e : PageEnt) (t : Mod) : Prop where
  reads : ReadsSame m t
  entry : pageEnt t v.page = some { e with bench := v.bench, loc := v.loc }
  others : ∀ q, q ≠ v.page → pageEnt t q = pageEnt m q
  moveless : moveOf t v.page = none

theorem switched_spec (he : pageEnt m v.page = some e) (hs : moveSound m v) (hc : cleanMove m v e = false) (hb : v.bench < 2) :
    Switched m v e (switched m v e) ∧ (switched m v e).regs = m.regs := by
  have hent (q : Nat) : pageEnt (switched m v e) q = pageEnt (entFlipped m v e) q := by rw [switched_eq he hs hc hb]; rfl
  refine ⟨⟨switched_readsSame he hs hc hb, ?_, fun q hq => ?_, ?_⟩, ?_⟩
  · rw [hent, pageEnt_entFlipped he, if_pos rfl]
  · rw [hent, pageEnt_entFlipped he, if_neg hq]
  · rw [switched_eq he hs hc hb]
    exact moveOf_entFlipped m v e
  · rw [switched_eq he hs hc hb]
    have hturn : (entFlipped m v e).regs = (dropContents m v.page e).regs := (entFlipped_onTurn m v e).same Mod.regs fun _ _ => rfl
    exact hturn.trans ((dropContents_onContents m v.page e).same Mod.regs fun _ _ => rfl)

/-- A counter raised after a switch takes nothing of it back. -/
theorem Switched.bump {t : Mod} (h : Switched m v e t) (p : Page) (r : Nat) : Switched m v e (bump t p r) :=
  ⟨h.reads, h.entry, h.others, h.moveless⟩

/-! HAUL_SWITCH and TABLE_PAGE_SWITCH. -/

section
variable (hv : moveOf m v.page = some v) (he : pageEnt m v.page = some e)
include hv he

theorem haulSwitchOp_waits (hw : maySwitch m v e = false) : haulSwitchOp m v.page = m := by
  unfold haulSwitchOp
  rw [hv, he]
  exact if_pos (by simp [hw])

theorem haulSwitchOp_eq (hw : maySwitch m v e = true) (ht : v.table = false) : haulSwitchOp m v.page = bump (switched m v e) hauP 0x60 := by
  unfold haulSwitchOp
  rw [hv, he]
  exact if_neg (by simp [hw, ht])

theorem tableSwitchOp_eq (hw : maySwitch m v e = true) (ht : v.table = true) :
    tableSwitchOp m v.page = bump (switched m v e) ⟨locDie v.srcB v.srcL, .gth, 0⟩ 0x60 := by
  unfold tableSwitchOp
  rw [hv, he]
  exact if_neg (by simp [hw, ht])

end
end

end Sys2Proof.Proofs

/-! The release of a moved page (R342, R436), demotion (R432, R433) and the windows of hot table pages (R342, R345). -/

namespace Sys2Proof.Proofs

open Sys2Proof Sys2Proof.Machine Sys2Proof.Laws

section
variable {m t : Mod} {pg : Nat} {v : Move} {e : PageEnt}

/-! HAUL_RELEASE. -/

section
variable (hv : m.mem.moves.find? (fun x => x.page = pg && x.done) = some v) (hw : inHostWin (pg * pageSize) = false)
include hv hw

theorem haulReleaseOp_waits (ht : v.table = false) (h : ∃ c ∈ m.cmds, c.admitted = true ∧ c.admTick < v.switch) :
    haulReleaseOp m pg = m := by
  obtain ⟨c, hc, hadm, hlt⟩ := h
  have hany : (m.cmds.any fun c => c.admitted && c.admTick < v.switch && (!v.table || opcodeOf c.entry = 0x30)) = true :=
    List.any_eq_true.2 ⟨c, hc, by simp [hadm, hlt, ht]⟩
  unfold haulReleaseOp
  rw [hv]
  exact if_pos (by rw [hw, hany]; rfl)

theorem haulReleaseOp_releases (h : ∀ c ∈ m.cmds, c.admitted = true → v.switch ≤ c.admTick)
    (hf : locFrame v.srcL ∉ (stackOf m (locStack v.srcL)).retiring) :
    haulReleaseOp m pg = { m with mem := { m.mem with moves := m.mem.moves.filter fun x => !(x.page = pg && x.done) } } := by
  have hnone : (m.cmds.any fun c => c.admitted && c.admTick < v.switch && (!v.table || opcodeOf c.entry = 0x30)) = false :=
    List.any_eq_false.2 fun c hc => by
      cases hadm : c.admitted with
      | false => simp
      | true => simp [Nat.not_lt.2 (h c hc hadm)]
  unfold haulReleaseOp
  rw [hv]
  exact (if_neg (by rw [hw, hnone]; decide)).trans (if_neg fun hr => hf (of_decide_eq_true (Bool.and_eq_true_iff.1 hr).2))

end

/-! DEMOTION. -/

/-- The element that a fold keeps by comparing it with each of a list is the first or one of the list. -/
theorem foldl_choice_mem {α : Type} (better : α → α → Prop) [∀ x y, Decidable (better x y)] (l : List α) (b : α) :
    l.foldl (fun b x => if better x b then x else b) b ∈ b :: l := by
  induction l generalizing b with
  | nil => exact List.mem_cons_self
  | cons x l ih =>
    rw [List.foldl_cons]
    split
    · exact List.mem_cons_of_mem _ (ih x)
    · exact List.cons_subset_cons b (List.subset_cons_self x l) (ih b)

theorem coldest_mayMove (h : coldest m = some e) : mayMove m e 6 = true ∧ e.bench = 1 := by
  have hok : e ∈ m.mem.map.filter fun e => e.bench = 1 && mayMove m e 6 := by
    unfold coldest at h
    dsimp only at h
    split at h
    · cases h
    next b l hl =>
      cases h
      rw [hl]
      exact foldl_choice_mem _ l b
  have hp := (List.mem_filter.1 hok).2
  simp only [Bool.and_eq_true, decide_eq_true_eq] at hp
  exact ⟨hp.2, hp.1⟩

theorem demotionOp_off (h : bitAt (regN m hauP 0x40) 0 = false) : demotionOp m = m := if_pos (by simp [h])

theorem demotionOp_proposes {l : Nat} (hon : bitAt (regN m hauP 0x40) 0 = true)
    (hlow : freeB1 m * 100 < bits (regN m hauP 0x40) 16 8 * total ((List.range 8).map (stackFrames m)))
    (he : coldest m = some e) (hl : pickLoc m 2 none = some l) (hr : moveRoom m e = true) :
    demotionOp m = addMove m (newMove e 6 2 l (isTablePage m e.page) none) := by
  have hleft : movesLeft m = true := (Bool.and_eq_true_iff.1 hr).1
  have henough : decide (bits (regN m hauP 0x40) 16 8 * total ((upto 8).map (stackFrames m)) ≤ freeB1 m * 100) = false :=
    decide_eq_false (Nat.not_le.2 hlow)
  unfold demotionOp
  dsimp only
  rw [hon, henough, hleft, if_neg (by decide), he, hl]
  exact if_pos hr

/-! HOT_PAGE_WINDOW. -/

/-- What proposing moves takes. -/
def onMoves : Portion :=
  ⟨fun m t => { m with mem := { m.mem with moves := t.mem.moves, draws := t.mem.draws } }, fun _ => rfl, fun _ _ _ => rfl⟩

/-- A move to bench 0 of a table page that its die's window in force finds hot. -/
def HotMove (m : Mod) (die : Nat) (v : Move) : Prop :=
  v.reason = 5 ∧ v.bench = 0 ∧ v.table = true ∧
    ∃ e, pageEnt m v.page = some e ∧ bits (m.mem.hotCfg.getD die 0#32).toNat 16 8 * 1024 ≤ e.count

/-- `t` is `m` with moves of hot pages proposed. -/
structure Proposed (die : Nat) (m t : Mod) : Prop where
  frame : onMoves.Only m t
  moves : ∀ v ∈ t.mem.moves, v ∈ m.mem.moves ∨ HotMove m die v

theorem hotOk_count {die : Nat} (h : hotOk m die e = true) : bits (m.mem.hotCfg.getD die 0#32).toNat 16 8 * 1024 ≤ e.count := by
  simp only [hotOk, Bool.and_eq_true, decide_eq_true_eq] at h
  obtain ⟨⟨⟨⟨⟨-, hcount⟩, -⟩, -⟩, -⟩, -⟩ := h
  exact hcount

theorem Proposed.step {die : Nat} (h : Proposed die m t) (pg : Nat) : Proposed die m (proposeHot die t pg) := by
  unfold proposeHot
  split
  · exact h
  next e he =>
    split
    · exact h
    next hok =>
      split
      next l _ =>
        split
        · exact h
        · refine ⟨h.frame.trans rfl, fun v hv => ?_⟩
          rcases List.mem_append.1 hv with hv | hv
          · exact h.moves v hv
          · rw [List.mem_singleton.1 hv]
            have hent : pageEnt m pg = some e := (h.frame.same (pageEnt · pg) fun _ _ => rfl).symm.trans he
            have hcfg : t.mem.hotCfg = m.mem.hotCfg := h.frame.same (·.mem.hotCfg) fun _ _ => rfl
            exact .inr ⟨rfl, rfl, rfl, e, by rw [newMove, pageEnt_page he, hent], hcfg ▸ hotOk_count (by simpa using hok)⟩
      · exact h

theorem Proposed.foldl {die : Nat} (l : List Nat) (h : Proposed die m t) : Proposed die m (l.foldl (proposeHot die) t) := by
  induction l generalizing t with
  | nil => exact h
  | cons pg l ih => exact ih (h.step pg)

/-- A map entry as the next window of a die starts: a table page of the die counts from zero. -/
def windowEnt (m : Mod) (die : Nat) (e : PageEnt) : PageEnt :=
  if isTablePage m e.page && e.bench != 2 && locDie e.bench e.loc = die then { e with count := 0 } else e

/-- The next window of a die: its pages' counts start again and its configuration is taken. -/
def nextWindow (m : Mod) (die : Nat) : Mod :=
  { m with mem := { m.mem with map := m.mem.map.map (windowEnt m die), hotCfg := m.mem.hotCfg.set die (getReg m ⟨die, .gth, 0⟩ 0x40) } }

theorem windowEnt_place (m : Mod) (die : Nat) (e : PageEnt) :
    (windowEnt m die e).page = e.page ∧ (windowEnt m die e).bench = e.bench ∧ (windowEnt m die e).loc = e.loc := by
  unfold windowEnt
  split <;> exact ⟨rfl, rfl, rfl⟩

theorem windowEnt_count {die : Nat} (ht : isTablePage m e.page = true) (hb : e.bench ≠ 2) (hd : locDie e.bench e.loc = die) :
    (windowEnt m die e).count = 0 := by
  unfold windowEnt
  rw [if_pos (by simp [ht, hb, hd])]

theorem pageEnt_nextWindow (m : Mod) (die q : Nat) : pageEnt (nextWindow m die) q = (pageEnt m q).map (windowEnt m die) := by
  have hpage : ((fun e : PageEnt => decide (e.page = q)) ∘ windowEnt m die) = fun e : PageEnt => decide (e.page = q) := by
    funext e
    simp only [Function.comp, (windowEnt_place m die e).1]
  unfold pageEnt nextWindow
  rw [List.find?_map, hpage]

theorem nextWindow_readsSame (m : Mod) (die : Nat) : ReadsSame m (nextWindow m die) := by
  refine fun a => readByte_of_bench ?_ rfl fun _ => rfl
  unfold benchOf
  rw [pageEnt_nextWindow, Option.map_map]
  congr 1
  funext e
  obtain ⟨-, hbench, -⟩ := windowEnt_place m die e
  exact hbench

theorem nextWindow_counts {die : Nat} (e : PageEnt) (he : e ∈ (nextWindow m die).mem.map) (ht : isTablePage m e.page = true)
    (hb : e.bench ≠ 2) (hd : locDie e.bench e.loc = die) : e.count = 0 := by
  obtain ⟨x, -, rfl⟩ := List.mem_map.1 he
  obtain ⟨hpage, hbench, hloc⟩ := windowEnt_place m die x
  rw [hpage] at ht
  rw [hbench] at hb hd
  rw [hloc] at hd
  exact windowEnt_count ht hb hd

/-- A window's end proposes moves of its hot pages and starts the next one. -/
theorem hotWindowOp_proposed (m : Mod) (die : Nat) : ∃ t, Proposed die m t ∧ hotWindowOp m die = nextWindow t die :=
  ⟨_, .foldl _ ⟨.refl .., fun _ hv => .inl hv⟩, rfl⟩

end

end Sys2Proof.Proofs

/-! Page moves, settled: each step of a move leaves every byte of device memory as it was. -/

namespace Sys2Proof.Proofs

open Sys2Proof Sys2Proof.Machine Sys2Proof.Laws

section
variable {s : State} {P : Mod → Prop}

theorem haulCopy_gives {pg : Nat} {c : Ecc} (h : P (haulCopyOp s.mod pg c)) : Gives (.haulCopy pg c) s P := (gives_iff rfl P).2 h
theorem haulSwitch_gives {pg : Nat} (h : P (haulSwitchOp s.mod pg)) : Gives (.haulSwitch pg) s P := (gives_iff rfl P).2 h
theorem tablePageSwitch_gives {pg : Nat} (h : P (tableSwitchOp s.mod pg)) : Gives (.tablePageSwitch pg) s P := (gives_iff rfl P).2 h
theorem haulRelease_gives {pg : Nat} (h : P (haulReleaseOp s.mod pg)) : Gives (.haulRelease pg) s P := (gives_iff rfl P).2 h
theorem demotion_gives (h : P (demotionOp s.mod)) : Gives .demotion s P := (gives_iff rfl P).2 h
theorem hotPageWindow_gives {die : Nat} (h : P (hotWindowOp s.mod die)) : Gives (.hotPageWindow die) s P := (gives_iff rfl P).2 h

end

/-- Settles O36: a copy and a proposal touch no byte, and a flip puts at the destination the granules that copy and log list last,
which a sound move's page reads as. -/
theorem pageMovesKeepEveryByte : Obligations.PageMovesKeepEveryByte := by
  unfold Obligations.PageMovesKeepEveryByte
  intro s pg
  refine ⟨?_, ?_, ?_, ?_, ?_, ?_, ?_, ?_⟩
  · exact fun v hv _ hy c => haulCopy_gives (haulCopyOp_yields hv hy c)
  · intro v hv hend hy k at' hl
    obtain ⟨rfl, -⟩ := moveOf_page hv
    exact ⟨fun hecc h0 => haulCopy_gives (haulCopyOp_copies hv hend hy hl hecc h0),
      fun hr _ => haulCopy_gives (haulCopyOp_abandons hv hend hy hl hr)⟩
  · intro v e hv he hs hc hw hb
    obtain ⟨rfl, -⟩ := moveOf_page hv
    obtain ⟨hsw, hregs⟩ := switched_spec he hs hc hb
    have hcount : regN (switched s.mod v e) hauP 0x60 = regN s.mod hauP 0x60 := congrArg _ (getReg_of_vals (congrArg Regs.vals hregs) ..)
    refine ⟨fun ht => haulSwitch_gives ?_, fun ht => tablePageSwitch_gives ?_⟩
    · rw [haulSwitchOp_eq hv he hw ht, regN_bump, hcount]
      obtain ⟨hreads, hentry, hothers, hmoveless⟩ := hsw.bump hauP 0x60
      exact ⟨hreads, hentry, hothers, hmoveless, rfl⟩
    · rw [tableSwitchOp_eq hv he hw ht]
      obtain ⟨hreads, hentry, hothers, hmoveless⟩ := hsw.bump ⟨locDie v.srcB v.srcL, .gth, 0⟩ 0x60
      exact ⟨hreads, hentry, hothers, hmoveless⟩
  · intro v e hv he hw
    obtain ⟨rfl, -⟩ := moveOf_page hv
    exact haulSwitch_gives (haulSwitchOp_waits hv he hw)
  · refine fun v hv ht hwin => ⟨fun h => haulRelease_gives (haulReleaseOp_waits hv hwin ht h), fun h hf => haulRelease_gives ?_⟩
    rw [haulReleaseOp_releases hv hwin h hf]
    exact ⟨rfl, rfl⟩
  · exact fun hoff => demotion_gives (demotionOp_off hoff)
  · intro e l hon hlow he hl hr
    obtain ⟨hmay, hbench⟩ := coldest_mayMove he
    refine ⟨hmay, hbench, demotion_gives ?_⟩
    rw [demotionOp_proposes hon hlow he hl hr]
    exact ⟨rfl, rfl⟩
  · intro die
    obtain ⟨t, hp, ht⟩ := hotWindowOp_proposed s.mod die
    refine hotPageWindow_gives ?_
    rw [ht]
    have hreads : ReadsSame s.mod t := fun a => hp.frame.same (readByte · a) fun _ _ => rfl
    refine ⟨readsSame_trans hreads (nextWindow_readsSame t die), nextWindow_counts, hp.moves, ?_⟩
    rw [hp.frame]
    rfl

end Sys2Proof.Proofs

/-! Cores and buffers as every step keeps them (R359, R402, R434, R441, R442): the parts that an operation must keep whole, and
what leaves them as they are. -/

namespace Sys2Proof.Proofs

open Sys2Proof Sys2Proof.Machine Sys2Proof.Laws

/-- The registers of a face as Table IS-2 counts them. -/
structure FaceWhole (f : Face) : Prop where
  x : f.x.length = 32
  acc : f.acc.length = 2
  v : ∀ e ∈ f.v, e.2.length = 256
  mask : ∀ e ∈ f.mask, e.2.length = 256

/-- Which drills may stand without their scalar registers for now, by stack, number and command. -/
abbrev Wiped := Nat → Nat → Option Nat → Prop

/-- The registers of a drill as Table IS-8a counts them, where it runs and `e` does not except it, and the writes held for it. -/
structure DrillWhole (e : Wiped) (d : Drill) : Prop where
  r : e d.stack d.n d.cmd ∨ (d.ready = false → d.ended = false → d.st = 3 → d.r.length = 32)
  q : ∀ x ∈ d.q, x.2.length = 16
  p : ∀ x ∈ d.p, x.2.length = 16
  held : ∀ h ∈ d.held, h.2.length = 32

/-- Granules of a page, each with its 32 bytes. -/
def GransWhole (l : List (Nat × List Byte)) : Prop := ∀ g ∈ l, g.1 < 2048 ∧ g.2.length = 32

/-- The cores' registers and what waits to reach memory are whole, but for the registers of the drills that `e` excepts. -/
structure Whole (e : Wiped) (m : Mod) : Prop where
  ids : (m.faces.map (·.id)).Nodup
  faces : ∀ f ∈ m.faces, FaceWhole f
  snaps : ∀ f ∈ m.snaps, FaceWhole f
  drills : ∀ d ∈ m.drills, DrillWhole e d
  buffer : wbHeld m
  stalled : ∀ w ∈ m.mem.stalled, w.2.length = 32
  moves : ∀ v ∈ m.mem.moves, GransWhole (v.dest ++ v.log)
  hbm : m.hbm.length = 8
  channels : m.mem.channels.length = 32

/-- With no drill excepted, this is what the statement asks of a state. -/
theorem whole_iff {m : Mod} : Whole (fun _ _ _ => False) m ↔ coresWhole m ∧ buffersWhole m := by
  constructor
  · rintro ⟨hids, hfaces, hsnaps, hdrills, hbuf, hst, hmv, hstk, hch⟩
    refine ⟨⟨hids, fun f hf => ?_, fun d hd => ?_⟩, hbuf, fun d hd => (hdrills d hd).held, hst, hmv, hstk, hch⟩
    · obtain ⟨hx, hacc, hv, hmask⟩ := (List.mem_append.1 hf).elim (hfaces f) (hsnaps f)
      exact ⟨hx, hacc, hv, hmask⟩
    · exact ⟨(hdrills d hd).r.resolve_left id, (hdrills d hd).q, (hdrills d hd).p⟩
  · rintro ⟨⟨hids, hf, hd⟩, hbuf, hheld, hst, hmv, hstk, hch⟩
    have hface (f : Face) (h : f ∈ m.faces ++ m.snaps) : FaceWhole f := by
      obtain ⟨hx, hacc, hv, hmask⟩ := hf f h
      exact ⟨hx, hacc, hv, hmask⟩
    refine ⟨hids, fun f h => hface f (List.mem_append_left _ h), fun f h => hface f (List.mem_append_right _ h), fun d h => ?_,
      hbuf, hst, hmv, hstk, hch⟩
    obtain ⟨hr, hq, hp⟩ := hd d h
    exact ⟨.inr hr, hq, hp, hheld d h⟩

/-- What `Whole` looks at. -/
def kept (m : Mod) :
    List Face × List Face × List Drill × List WbEnt × Nat × List PageEnt × List (Nat × List (Option Byte)) × List Move × List Stack × List FlashCh :=
  (m.faces, m.snaps, m.drills, m.mem.wb, m.mem.wbSeq, m.mem.map, m.mem.stalled, m.mem.moves, m.hbm, m.mem.channels)

variable {e : Wiped} {m t : Mod}

namespace Whole

/-- What leaves the parts as they are. -/
theorem same (h : Whole e m) (ht : kept t = kept m := by rfl) : Whole e t := by
  simp only [kept, Prod.mk.injEq] at ht
  obtain ⟨hf, hs, hd, hwb, hseq, hmap, hst, hmv, hhbm, hch⟩ := ht
  have hbuf : wbHeld t := by
    unfold wbHeld pageEnt
    rw [hwb, hseq, hmap]
    exact h.buffer
  exact ⟨hf ▸ h.ids, hf ▸ h.faces, hs ▸ h.snaps, hd ▸ h.drills, hbuf, hst ▸ h.stalled, hmv ▸ h.moves, hhbm ▸ h.hbm, hch ▸ h.channels⟩

/-- Every part that `Whole` does not look at may change. -/
theorem rest (h : Whole e m) {sys regs inited units chutes adm cmds nextCmd colls mirror resv ledger pkgs svc ksat sats scanTab slots fab
    velom pwr saf sec mgt draws} :
    Whole e {
      faces := m.faces, snaps := m.snaps, drills := m.drills, mem := m.mem, hbm := m.hbm, sys := sys, regs := regs, inited := inited,
      units := units, chutes := chutes, adm := adm, cmds := cmds, nextCmd := nextCmd, colls := colls, mirror := mirror, resv := resv, ledger := ledger,
      pkgs := pkgs, svc := svc, ksat := ksat, sats := sats, scanTab := scanTab, slots := slots, fab := fab, velom := velom, pwr := pwr,
      saf := saf, sec := sec, mgt := mgt, draws := draws } :=
  h.same

/-- The same within device memory. -/
theorem restMem (h : Whole e m) {cells flash ue hint freeing retiredPg loaded rot nextPage draws groups backoff hotCfg homing} :
    Whole e { m with mem := { m.mem with
      cells := cells, flash := flash, ue := ue, hint := hint, freeing := freeing, retiredPg := retiredPg,
      loaded := loaded, rot := rot, nextPage := nextPage, draws := draws, groups := groups, backoff := backoff, hotCfg := hotCfg, homing := homing } } :=
  h.same

theorem ite {c : Prop} [Decidable c] {u : Mod} (h : Whole e t) (g : Whole e u) : Whole e (if c then t else u) := by
  split
  · exact h
  · exact g

/-- A step made on a condition. -/
theorem when {c : Prop} [Decidable c] (h : Whole e m) (k : Whole e m → Whole e t) : Whole e (if c then t else m) := (k h).ite h

/-- A step not made on a condition. -/
theorem otherwise {c : Prop} [Decidable c] (h : Whole e m) (k : Whole e m → Whole e t) : Whole e (if c then m else t) := h.ite (k h)

theorem foldl {α : Type} {f : Mod → α → Mod} {l : List α} (h : Whole e m) (k : ∀ m, ∀ x ∈ l, Whole e m → Whole e (f m x)) :
    Whole e (l.foldl f m) :=
  List.foldlRecOn l f h fun m hm x hx => k m x hx hm

/-- A step that an option asks for. -/
theorem getD_map {α : Type} {f : α → Mod} {o : Option α} (h : Whole e m) (k : ∀ x, o = some x → Whole e (f x)) :
    Whole e ((o.map f).getD m) := by
  cases o with
  | none => exact h
  | some x => exact k x rfl

/-- More drills excepted. -/
theorem mono {e' : Wiped} (h : Whole e m) (hd : ∀ d ∈ m.drills, e d.stack d.n d.cmd → e' d.stack d.n d.cmd) : Whole e' m :=
  { h with drills := fun d hm => { h.drills d hm with r := (h.drills d hm).r.imp_left (hd d hm) } }

end Whole
end Sys2Proof.Proofs


/-! The write buffer, the bench map, moves and pages: each operation of device memory keeps what waits for it whole. -/

namespace Sys2Proof.Proofs

open Sys2Proof Sys2Proof.Machine Sys2Proof.Laws

variable {e : Wiped} {m t : Mod}

/-- A write buffer in order stays in order where it is a part of it and its pages keep their benches. -/
theorem wbHeld_of_bench (h : wbHeld m) (hb : t.mem.wb.Sublist m.mem.wb) (hn : m.mem.wbSeq ≤ t.mem.wbSeq)
    (hp : ∀ w ∈ t.mem.wb, benchOf t (w.unit / 16) = benchOf m (w.unit / 16)) : wbHeld t := by
  obtain ⟨⟨hnd, hg⟩, hpage⟩ := h
  refine ⟨⟨(hb.map _).nodup hnd, fun w hw => hg w (hb.mem hw)⟩, fun w hw => ?_⟩
  obtain ⟨hseq, f, hf, hbench⟩ := hpage w (hb.mem hw)
  have := hp w hw
  rw [benchOf, benchOf, hf, Option.map_some, Option.map_eq_some_iff] at this
  obtain ⟨g, hg, hgb⟩ := this
  exact ⟨lt_of_lt_of_le hseq hn, g, hg, hgb.trans hbench⟩

theorem mem_mapIf {α : Type} {p : α → Bool} {f : α → α} {l : List α} {y : α} (h : y ∈ mapIf p f l) :
    ∃ x ∈ l, y = if p x then f x else x := by
  obtain ⟨x, hx, rfl⟩ := List.mem_map.1 h
  exact ⟨x, hx, rfl⟩

theorem forall_mapIf {α : Type} {p : α → Bool} {f : α → α} {l : List α} {P : α → Prop} (h : ∀ x ∈ l, P x) (hf : ∀ x ∈ l, P x → P (f x)) :
    ∀ y ∈ mapIf p f l, P y := by
  intro y hy
  obtain ⟨x, hx, rfl⟩ := mem_mapIf hy
  split
  · exact hf x hx (h x hx)
  · exact h x hx

theorem readGran_length (m : Mod) (a : Nat) : (readGran m a).length = 32 := by simp [readGran, readBytes, upto]

namespace Whole

theorem setStack (h : Whole e m) {n : Nat} {k : Stack} : Whole e (setStack m n k) := { h with hbm := by simpa [Machine.setStack] using h.hbm }

theorem setChan (h : Whole e m) {n : Nat} {c : FlashCh} : Whole e (setChan m n c) :=
  { h with channels := by simpa [Machine.setChan] using h.channels }

/-! The bench map. -/

/-- An entry that keeps its page in its bench. -/
theorem setEnt (h : Whole e m) {x y : PageEnt} (hy : pageEnt m x.page = some y) (hb : x.bench = y.bench) : Whole e (setEnt m x) :=
  { h with buffer := wbHeld_of_bench h.buffer (List.Sublist.refl _) le_rfl fun _ _ => benchOf_setEnt hy hb _ }

/-- An entry changed in no more than its location, its image and its marks. -/
theorem setEnt_of (h : Whole e m) {x y : PageEnt} {q : Nat} (hy : pageEnt m q = some y) (hp : x.page = y.page := by rfl)
    (hb : x.bench = y.bench := by rfl) : Whole e (Machine.setEnt m x) :=
  h.setEnt ((hp.trans (pageEnt_page hy)).symm ▸ hy) hb

/-- Entries of the bench map changed, but for their pages' benches. -/
theorem mapEntries (h : Whole e m) {f : PageEnt → PageEnt} {cfg : List Word} (hp : ∀ x, (f x).page = x.page := by intro; rfl)
    (hb : ∀ x, (f x).bench = x.bench := by intro; rfl) : Whole e { m with mem := { m.mem with map := m.mem.map.map f, hotCfg := cfg } } :=
  { h with
    buffer := by
      refine wbHeld_of_bench h.buffer (List.Sublist.refl _) le_rfl fun _ _ => ?_
      simp [benchOf, pageEnt, List.find?_map, Function.comp_def, hp, hb] }

theorem dropPage (h : Whole e m) {pg : Nat} : Whole e (dropPage m pg) :=
  { h with
    buffer := by
      refine wbHeld_of_bench h.buffer List.filter_sublist le_rfl fun w hw => ?_
      have hne : ¬ w.unit / 16 = pg := by simpa using (List.mem_filter.1 hw).2
      rw [benchOf, pageEnt_dropPage, if_neg hne, benchOf]
    moves := fun v hv => h.moves v (List.mem_filter.1 hv).1 }

theorem releasePage (h : Whole e m) {pg : Nat} : Whole e (releasePage m pg) := h.dropPage.same

theorem placePage (h : Whole e m) {pg b l : Nat} : Whole e (placePage m pg b l) :=
  { h.dropPage with buffer := wbHeld_placePage h.buffer pg b l }

theorem allocHost (h : Whole e m) {pg : Nat} (ht : allocHost m pg = some t) : Whole e t := by
  unfold Machine.allocHost at ht
  split at ht
  · cases ht
    exact h
  · split at ht
    · cases ht
    · dsimp only at ht
      split at ht <;> cases ht
      exact h.placePage

theorem allocModule (h : Whole e m) {bench pg : Nat} {die : Option Nat} (ht : allocModule m bench die = some (pg, t)) : Whole e t := by
  unfold Machine.allocModule at ht
  split at ht <;> cases ht
  exact h.same.placePage

theorem allocPages (h : Whole e m) {bench n : Nat} {die : Option Nat} {r : List Nat × Mod} (ht : allocPages bench die n m = some r) :
    Whole e r.2 := by
  induction n generalizing m r with
  | zero =>
    cases ht
    exact h
  | succ n ih =>
    simp only [Machine.allocPages] at ht
    split at ht
    · cases ht
    next pg u hu =>
      obtain ⟨q, hq, rfl⟩ := Option.map_eq_some_iff.1 ht
      exact (ih (h.allocModule hu) hq : Whole e q.2)

theorem mapAt (h : Whole e m) {bench pg : Nat} {die : Option Nat} : Whole e (mapAt bench die m pg) := by
  unfold Machine.mapAt
  split
  · exact h
  · split
    · exact h.placePage
    · split
      · exact h.placePage
      · exact h

/-! The write buffer (R441, R442). -/

theorem programEnt (h : Whole e m) {w : WbEnt} : Whole e (programEnt m w) := by
  cases he : pageEnt m (w.unit / 16) with
  | none =>
    rw [programEnt_unmapped he]
    exact { h with buffer := wbHeld_of_bench h.buffer List.filter_sublist le_rfl fun _ _ => rfl }
  | some x =>
    obtain ⟨⟨regs, map, ht⟩, hb⟩ := programEnt_mapped he
    rw [ht] at hb ⊢
    exact { h with buffer := wbHeld_of_bench h.buffer List.filter_sublist le_rfl fun _ _ => hb _ }

theorem makeRoom (h : Whole e m) : Whole e (makeRoom m) := by
  unfold Proofs.makeRoom
  split
  · split
    · exact h
    · exact h.programEnt
  · exact h

/-- A granule written into the buffer, of a page that lies in flash. -/
theorem wbPut (h : Whole e m) {a : Nat} {g : List Byte} {x : PageEnt} (hx : pageEnt m (pageNo a) = some x) (hb : x.bench = 2)
    (hg : g.length = 32) : Whole e (wbPut m a g) := by
  cases hu : m.mem.wb.any fun y => y.unit = a / 4096 with
  | true =>
    rw [wbPut_unit g hu]
    exact { h with buffer := wbHeld_entPut a h.buffer hg }
  | false =>
    rw [wbPut_new g hu]
    obtain ⟨y, hy, hyx⟩ : ∃ y, pageEnt (Proofs.makeRoom m) (pageNo a) = some y ∧ seatOf y = seatOf x := by
      have := (makeRoom_spec h.buffer).1.seats (pageNo a)
      rwa [seat, seat, hx, Option.map_some, Option.map_eq_some_iff] at this
    exact { h.makeRoom with buffer := wbHeld_append h.makeRoom.buffer hy ((congrArg Prod.fst hyx).trans hb) hg }

/-! Moves (R434, R438). -/

theorem moveOf (h : Whole e m) {pg : Nat} {v : Move} (hv : moveOf m pg = some v) : GransWhole (v.dest ++ v.log) :=
  h.moves v (List.mem_of_find?_eq_some hv)

theorem setMove (h : Whole e m) {v : Move} (hv : GransWhole (v.dest ++ v.log)) : Whole e (setMove m v) :=
  { h with moves := forall_mapIf h.moves fun _ _ _ => hv }

theorem abandonMove (h : Whole e m) {v : Move} : Whole e (abandonMove m v) := by
  have hrest : Whole e { m with mem := { m.mem with moves := m.mem.moves.filter fun x => !(x.page = v.page && !x.done) } } :=
    { h with moves := fun x hx => h.moves x (List.mem_filter.1 hx).1 }
  unfold Machine.abandonMove
  exact hrest.same.ite hrest.same

theorem addMove (h : Whole e m) {v : Move} (hv : GransWhole (v.dest ++ v.log)) : Whole e (addMove m v) :=
  { h with moves := fun x hx => (List.mem_append.1 hx).elim (h.moves x) fun hx => by rw [List.mem_singleton.1 hx]; exact hv }

/-- A move begins with nothing copied. -/
theorem addNewMove (h : Whole e m) {x : PageEnt} {reason bench loc : Nat} {table : Bool} {cmd : Option Nat} :
    Whole e (Machine.addMove m (newMove x reason bench loc table cmd)) :=
  h.addMove fun _ hg => absurd hg List.not_mem_nil

/-! Granules written. -/

theorem storeGran (h : Whole e m) {x : PageEnt} {a : Nat} {g : List Byte} (hx : pageEnt m (pageNo a) = some x) (hg : g.length = 32) :
    Whole e (storeGran m x a g) := by
  have hent : Whole e (Machine.setEnt m { x with image := false }) := h.setEnt_of hx
  unfold Proofs.storeGran
  split
  next hb => exact hent.wbPut (x := { x with image := false }) (by rw [pageEnt_setEnt, if_pos (pageEnt_page hx).symm]) hb hg
  · exact hent.same

theorem logGran (h : Whole e m) {a : Nat} {g : List Byte} (hg : g.length = 32) : Whole e (logGran m a g) := by
  unfold Proofs.logGran
  split
  · exact h
  next v hv =>
    split
    · split
      · refine h.setMove fun x hx => ?_
        rw [← List.append_assoc] at hx
        rcases List.mem_append.1 hx with hx | hx
        · exact h.moveOf hv x hx
        · rw [List.mem_singleton.1 hx]
          exact ⟨by simp only [pageSize]; omega, hg⟩
      · exact h.abandonMove
    · exact h

theorem applyGran (h : Whole e m) {a : Nat} {g : List Byte} (hg : g.length = 32) : Whole e (applyGran m a g) := by
  refine Whole.logGran (m := match pageEnt (clearUe m (a / 32 * 32)) (pageNo (a / 32 * 32)) with
    | none => clearUe m (a / 32 * 32)
    | some x => Proofs.storeGran (clearUe m (a / 32 * 32)) x (a / 32 * 32) g) (a := a / 32 * 32) ?_ hg
  have hclear : Whole e (clearUe m (a / 32 * 32)) := h.same
  split
  · exact hclear
  next hx => exact hclear.storeGran hx hg

theorem applyMask (h : Whole e m) {a : Nat} {g : List (Option Byte)} (hg : g.length = 32) : Whole e (applyMask m a g) := by
  unfold Machine.applyMask
  split
  next hall =>
    refine h.applyGran ?_
    rw [List.length_filterMap_eq_countP, List.countP_eq_length.2 (by simpa using hall), hg]
  · split
    · exact h
    · exact h.applyGran (by simp [maskGran, readGran_length, hg])

theorem setDrill (h : Whole e m) {d : Drill} (hd : DrillWhole e d) : Whole e (setDrill m d) :=
  { h with drills := forall_mapIf h.drills fun _ _ _ => hd }

theorem holdWrite (h : Whole e m) {d : Drill} {a : Nat} {g : List (Option Byte)} (hg : g.length = 32) : Whole e (holdWrite m d a g) :=
  { h with
    drills := forall_mapIf h.drills fun x _ hx =>
      { hx with held := fun y hy => (List.mem_append.1 hy).elim (hx.held y) fun hy => by rw [List.mem_singleton.1 hy]; exact hg } }

theorem countStop (h : Whole e m) {k : Nat × Nat} : Whole e (countStop m k) := by
  unfold Machine.countStop
  exact h.otherwise (·.same)

theorem putMask (h : Whole e m) {a : Nat} {g : List (Option Byte)} (hg : g.length = 32) : Whole e (putMask m a g) := by
  unfold Machine.putMask
  split
  · exact { h.countStop with
      stalled := fun y hy => (List.mem_append.1 hy).elim (h.countStop.stalled y) fun hy => by rw [List.mem_singleton.1 hy]; exact hg }
  · split
    · exact h.holdWrite hg
    · exact h.applyMask hg

theorem drainStalled (h : Whole e m) : Whole e (drainStalled m) :=
  foldl (m := { m with mem := { m.mem with stalled := [] } }) { h with stalled := fun _ hw => absurd hw List.not_mem_nil }
    fun _ w hw hm => hm.putMask (h.stalled w hw)

theorem putGran (h : Whole e m) {a : Nat} {g : List Byte} (hg : g.length = 32) : Whole e (putGran m a g) :=
  h.putMask (by rw [List.length_map, hg])

theorem writeBytes (h : Whole e m) {a : Nat} {d : List Byte} : Whole e (writeBytes m a d) :=
  h.otherwise fun h => h.foldl fun _ _ _ h => h.putMask (by simp [upto])

/-- A granule put at its page's place, whatever move is under way. -/
theorem rawGran (h : Whole e m) {a : Nat} {g : List Byte} (hg : g.length = 32) : Whole e (rawGran m a g) := by
  unfold Machine.rawGran
  split
  next hx =>
    split
    next hb => exact h.wbPut hx hb hg
    · exact h.same
  · exact h

end Whole

end Sys2Proof.Proofs


/-! The registers of faces and drills: what each write of a register, of local store or of the bookkeeping beside them keeps. -/

namespace Sys2Proof.Proofs

open Sys2Proof Sys2Proof.Machine Sys2Proof.Laws

theorem length_masked {α : Type} (ks : List Bool) (ns os : List α) : (masked ks ns os).length = os.length := by
  induction os generalizing ks ns with
  | nil => cases ks <;> cases ns <;> rfl
  | cons o os ih => cases ks <;> cases ns <;> simp [masked, ih]

theorem length_bytesLanes (n : Nat) (bs : List Byte) : (bytesLanes n bs).length = n := by simp [bytesLanes, upto]

/-! Maps of lists of one length. -/

section
variable {β : Type} {n : Nat} {d : Nat → List β} {l : List (Nat × List β)}

theorem length_mapSet [DecidableEq β] (h : ∀ e ∈ l, e.2.length = n) {k : Nat} {v : List β} (hv : v.length = n) :
    ∀ e ∈ mapSet d l k v, e.2.length = n := by
  have herase : ∀ e ∈ mapErase l k, e.2.length = n := fun e he => h e (List.mem_filter.1 he).1
  intro e he
  unfold mapSet at he
  split at he
  · exact herase e he
  · rcases mem_mapInsert _ _ _ _ he with rfl | he
    · exact hv
    · exact herase e he

theorem length_mapGet (h : ∀ e ∈ l, e.2.length = n) {k : Nat} (hd : (d k).length = n) : (mapGet d l k).length = n := by
  unfold mapGet
  split
  next hf => exact h _ (List.mem_of_find?_eq_some hf)
  · exact hd

end

/-! Faces. -/

namespace FaceWhole

variable {f g : Face}

/-- What leaves a face's registers as they are. -/
theorem same (h : FaceWhole f) (hg : (g.x, g.acc, g.v, g.mask) = (f.x, f.acc, f.v, f.mask) := by rfl) : FaceWhole g := by
  simp only [Prod.mk.injEq] at hg
  obtain ⟨hx, hacc, hv, hmask⟩ := hg
  exact ⟨hx ▸ h.x, hacc ▸ h.acc, hv ▸ h.v, hmask ▸ h.mask⟩

theorem face0 (n : Nat) : FaceWhole (face0 n) := ⟨rfl, rfl, nofun, nofun⟩

theorem lanes (h : FaceWhole f) (i : Nat) : (faceV f i).length = 256 := length_mapGet h.v List.length_replicate

theorem masks (h : FaceWhole f) (i : Nat) : (faceM f i).length = 256 := by
  unfold faceM
  split
  · exact List.length_replicate
  · exact length_mapGet h.mask List.length_replicate

theorem setX (h : FaceWhole f) {i v : Nat} : FaceWhole (faceSetX f i v) := by
  unfold faceSetX
  split
  · exact h
  · exact { h with x := by rw [List.length_set, h.x] }

theorem setV (h : FaceWhole f) {i : Nat} {v : List Word} (hv : v.length = 256) : FaceWhole (faceSetV f i v) :=
  { h with v := length_mapSet h.v hv }

/-- Lanes rewritten where a mask is set. -/
theorem setMaskedV (h : FaceWhole f) {i j : Nat} {ks : List Bool} {ns : List Word} : FaceWhole (faceSetV f i (masked ks ns (faceV f j))) :=
  h.setV (by rw [length_masked, h.lanes])

theorem setMaskedM (h : FaceWhole f) {i j : Nat} {ks ns : List Bool} : FaceWhole (faceSetM f i (masked ks ns (faceM f j))) := by
  unfold faceSetM
  split
  · exact h
  · exact { h with mask := length_mapSet h.mask (by rw [length_masked, h.masks]) }

theorem setTd (h : FaceWhole f) {i : Nat} {t : TDesc} : FaceWhole (faceSetTd f i t) := h.same

theorem setAcc (h : FaceWhole f) {i : Nat} {a : AccSet} : FaceWhole (setAcc f i a) := { h with acc := by simpa [Machine.setAcc] using h.acc }

theorem write (h : FaceWhole f) {a : Nat} {bs : List Byte} : FaceWhole (faceWrite f a bs) := by
  unfold faceWrite
  split
  · exact h.same
  · exact h.same

theorem foldl {α : Type} {k : Face → α → Face} {l : List α} (h : FaceWhole f) (hk : ∀ f x, FaceWhole f → FaceWhole (k f x)) :
    FaceWhole (l.foldl k f) :=
  List.foldlRecOn l k h fun f hf x _ => hk f x hf

end FaceWhole

/-! Drills. -/

namespace DrillWhole

variable {e : Wiped} {d c : Drill}

/-- What leaves a drill's registers, its run and its held writes as they are. -/
theorem same (h : DrillWhole e d) (hc : (c.stack, c.n, c.cmd, c.ready, c.ended, c.st, c.r, c.q, c.p, c.held) =
    (d.stack, d.n, d.cmd, d.ready, d.ended, d.st, d.r, d.q, d.p, d.held) := by rfl) : DrillWhole e c := by
  simp only [Prod.mk.injEq] at hc
  obtain ⟨hs, hn, hcmd, hready, hended, hst, hr, hq, hp, hheld⟩ := hc
  exact ⟨by rw [hs, hn, hcmd, hready, hended, hst, hr]; exact h.r, hq ▸ h.q, hp ▸ h.p, hheld ▸ h.held⟩

/-- A drill that does not run needs no scalar registers. -/
theorem idle (h : DrillWhole e d) (hc : (c.q, c.p, c.held) = (d.q, d.p, d.held) := by rfl)
    (hidle : c.ready = true ∨ c.ended = true ∨ c.st ≠ 3) : DrillWhole e c := by
  simp only [Prod.mk.injEq] at hc
  obtain ⟨hq, hp, hheld⟩ := hc
  refine ⟨.inr fun h1 h2 h3 => ?_, hq ▸ h.q, hp ▸ h.p, hheld ▸ h.held⟩
  rcases hidle with h | h | h
  · rw [h1] at h; cases h
  · rw [h2] at h; cases h
  · exact absurd h3 h

theorem drill0 (s n : Nat) : DrillWhole e (drill0 s n) := ⟨.inr nofun, nofun, nofun, nofun⟩

theorem lanes (h : DrillWhole e d) (i : Nat) : (drillQ d i).length = 16 := length_mapGet h.q List.length_replicate

theorem preds (h : DrillWhole e d) (i : Nat) : (drillP d i).length = 16 := by
  unfold drillP
  split
  · exact List.length_replicate
  · exact length_mapGet h.p List.length_replicate

theorem setR (h : DrillWhole e d) {i v : Nat} : DrillWhole e (drillSetR d i v) := by
  unfold drillSetR
  split
  · exact h
  · exact { h with r := h.r.imp_right fun hr h1 h2 h3 => by rw [List.length_set]; exact hr h1 h2 h3 }

theorem setQ (h : DrillWhole e d) {i : Nat} {v : List Word} (hv : v.length = 16) : DrillWhole e (drillSetQ d i v) :=
  { h with q := length_mapSet h.q hv }

/-- Lanes rewritten where a predicate is set. -/
theorem setMaskedQ (h : DrillWhole e d) {i j : Nat} {ks : List Bool} {ns : List Word} : DrillWhole e (drillSetQ d i (masked ks ns (drillQ d j))) :=
  h.setQ (by rw [length_masked, h.lanes])

theorem setMaskedP (h : DrillWhole e d) {i j : Nat} {ks ns : List Bool} : DrillWhole e (drillSetP d i (masked ks ns (drillP d j))) := by
  unfold drillSetP
  split
  · exact h
  · exact { h with p := length_mapSet h.p (by rw [length_masked, h.preds]) }

theorem setB (h : DrillWhole e d) {i v : Nat} : DrillWhole e (drillSetB d i v) := h.same

theorem setArea (h : DrillWhole e d) {o v : Nat} : DrillWhole e (setArea d o v) := h.same

theorem setAreaByte (h : DrillWhole e d) {o : Nat} {b : Byte} : DrillWhole e (setAreaByte d o b) := h.setArea

theorem faultWords (h : DrillWhole e d) {a : Nat} : DrillWhole e (drillFaultWords d a) := h.setArea.setArea

theorem scratchWrite (h : DrillWhole e d) {a : Nat} {bs : List Byte} : DrillWhole e (scratchWrite d a bs) := by
  induction bs generalizing a d with
  | nil => exact h
  | cons b bs ih =>
    refine ih ?_
    split
    · exact h.same
    · exact h.setAreaByte

end DrillWhole

/-! The cores of a module. -/

namespace Whole

variable {e : Wiped} {m t : Mod}

theorem face (h : Whole e m) {n : Nat} {f : Face} (hf : faceOf m n = some f) : FaceWhole f := h.faces f (List.mem_of_find?_eq_some hf)

theorem drill (h : Whole e m) {s n : Nat} {d : Drill} (hd : drillOf m s n = some d) : DrillWhole e d := h.drills d (List.mem_of_find?_eq_some hd)

theorem snap (h : Whole e m) {n : Nat} {g : Face} (hg : m.snaps.find? (fun x => x.id = n) = some g) : FaceWhole g :=
  h.snaps g (List.mem_of_find?_eq_some hg)

theorem setFace (h : Whole e m) {f : Face} (hf : FaceWhole f) : Whole e (setFace m f) :=
  { h with
    ids := by
      have hid : (mapIf (fun x => x.id = f.id) (fun _ => f) m.faces).map (·.id) = m.faces.map (·.id) := by
        simp only [mapIf, List.map_map]
        refine List.map_congr_left fun x _ => ?_
        dsimp only [Function.comp]
        split
        next hx => exact (of_decide_eq_true hx).symm
        · rfl
      exact hid ▸ h.ids
    faces := forall_mapIf h.faces fun _ _ _ => hf }

/-- The faces' records of their work units replaced by whole ones. -/
theorem setSnaps (h : Whole e m) {l : List Face} (hl : ∀ f ∈ l, FaceWhole f) : Whole e { m with snaps := l } := { h with snaps := hl }

theorem setX (h : Whole e m) {c : Core} {i v : Nat} : Whole e (setX m c i v) := by
  unfold Machine.setX
  split
  · split
    next hf => exact h.setFace (h.face hf).setX
    · exact h
  · split
    next hd => exact h.setDrill (h.drill hd).setR
    · exact h

theorem setPc (h : Whole e m) {c : Core} {v : Int} : Whole e (setPc m c v) := by
  unfold Machine.setPc
  split
  · split
    next hf => exact h.setFace (h.face hf).same
    · exact h
  · split
    next hd => exact h.setDrill (h.drill hd).same
    · exact h

theorem next4 (h : Whole e m) {c : Core} : Whole e (next4 m c) := h.setPc

theorem writeX (h : Whole e m) {c : Core} {rd v : Nat} : Whole e (writeX m c rd v) := h.setX.next4

/-- Faces and drills at reset, with no move under way (R359). -/
theorem ofReset (hc : (t.faces, t.snaps, t.drills, t.mem.moves) = (faces0, [], drills0, [])) (hbuf : wbHeld t)
    (hst : ∀ w ∈ t.mem.stalled, w.2.length = 32) (hhbm : t.hbm.length = 8) (hch : t.mem.channels.length = 32) : Whole e t := by
  simp only [Prod.mk.injEq] at hc
  obtain ⟨hf, hs, hd, hv⟩ := hc
  refine ⟨?_, ?_, ?_, ?_, hbuf, hst, ?_, hhbm, hch⟩
  · have hid : faces0.map (·.id) = List.range 128 := by simp [faces0, upto, face0, Function.comp_def]
    rw [hf, hid]
    exact List.nodup_range
  · rw [hf]
    intro f hf
    obtain ⟨n, -, rfl⟩ := List.mem_map.1 hf
    exact .face0 n
  · exact hs ▸ nofun
  · rw [hd]
    intro d hd
    obtain ⟨s, -, hd⟩ := List.mem_flatMap.1 hd
    obtain ⟨n, -, rfl⟩ := List.mem_map.1 hd
    exact .drill0 s n
  · exact hv ▸ nofun

end Whole

end Sys2Proof.Proofs


/-! Lengths of what units write, and what the units make of faces and drills. -/

namespace Sys2Proof.Proofs

open Sys2Proof Sys2Proof.Machine Sys2Proof.Laws

theorem fmtBits_dvd (ty : Nat) : fmtBits ty * (256 / fmtBits ty) ∈ [252, 256] := by
  unfold fmtBits
  split <;> decide

/-- A granule of codes holds the codes that fit into its 32 bytes. -/
theorem addGran_length (ty : Nat) (g : List Byte) (ds : List Word) : (addGran ty g ds).1.length = 32 := by
  have h := fmtBits_dvd ty
  simp only [List.mem_cons, List.not_mem_nil, or_false] at h
  simp only [addGran, packCodes, toBytes_length, upto, List.length_map, List.length_range, ceilDiv]
  omega

theorem storeGrans_length {a : Nat} {data : List (Option Byte)} {g : Nat × List (Option Byte)} (h : g ∈ storeGrans a data) :
    g.2.length = 32 := by
  obtain ⟨⟨i, hi, rfl⟩, -⟩ := mem_storeGrans.1 h
  simp only [dataGran, List.length_take, List.length_drop]
  omega

theorem laneBytes_length (v : List Word) : (laneBytes v).length = 4 * v.length := by
  induction v with
  | nil => rfl
  | cons w v ih =>
    rw [laneBytes, List.flatMap_cons, List.length_append, ← laneBytes, ih]
    rw [toBytes_length, List.length_cons]
    omega

namespace FaceWhole

variable {f : Face}

theorem loadFace {cid rank total g args at' pkg ws} : FaceWhole (loadFace f cid rank total g args at' pkg ws) :=
  ⟨rfl, rfl, nofun, nofun⟩

theorem doXfers (h : FaceWhole f) {m : Mod} : FaceWhole (doXfers m f) := (h.same (g := { f with xfers := [] })).foldl fun _ _ h => h.write

theorem takeTag (h : FaceWhole f) {i : Nat} : FaceWhole (takeTag f i) := by
  unfold Machine.takeTag
  dsimp only
  split
  · exact h
  · split
    · exact h.setTd.write.same
    · exact h.setTd

theorem putCode (h : FaceWhole f) {m : Mod} {t : TDesc} {s : Nat × Nat} {c : Nat} : FaceWhole (putCode m t f s c) := h.write

theorem putRecord (h : FaceWhole f) {m t e redo els conv g} : FaceWhole (putRecord m t e redo els conv f g) := h.write.same

theorem putTile (h : FaceWhole f) {m t e cru redo els} : FaceWhole (putTile m f t e cru redo els) := by
  unfold Machine.putTile
  split
  · exact h.foldl fun _ _ h => h.putCode
  · exact (((h.foldl fun _ _ h => h.putCode).foldl fun _ _ h => h.putCode).foldl fun _ _ h => h.putRecord).same

end FaceWhole

namespace DrillWhole

variable {e : Wiped} {d : Drill}

theorem drillEntry (h : DrillWhole e d) : DrillWhole e (drillEntry d) := ⟨.inr fun _ _ _ => rfl, nofun, nofun, h.held⟩

theorem drillAgain (h : DrillWhole e d) {m : Mod} : DrillWhole e (drillAgain m d) := ⟨.inr nofun, nofun, nofun, h.held⟩

/-- A drill's program from its start, the skews counted. -/
theorem restarted (h : DrillWhole e d) {m : Mod} {k : Nat} : DrillWhole e { Machine.drillAgain m d with skews := k } := (h.drillAgain (m := m)).same

theorem declare (h : DrillWhole e d) {c : Cmd} {g : Program} : DrillWhole e (Machine.declare d c g) := by
  have hargs {l : List Nat} {f : Nat → Nat × Nat} : DrillWhole e (l.foldl (fun d i => Machine.setArea d (f i).1 (f i).2) d) :=
    List.foldlRecOn l _ h fun _ h _ _ => h.setArea
  exact (hargs (f := fun i => (0x10 + 4 * i, ofBytes (((argBytes c).drop (4 * i)).take 4)))).setArea.setArea.setArea.setArea.setArea

theorem loadDrill (h : DrillWhole e d) {p : PkgVer} {g : Program} : DrillWhole e (loadDrill d p g) := by
  unfold Machine.loadDrill
  split
  · exact h
  · refine setArea ?_
    exact h.same

/-- A drill made ready for another run, for a command. -/
theorem claimed (h : DrillWhole e d) {c : Option Nat} : DrillWhole (fun _ _ _ => True) { d with cmd := c } := ⟨.inl trivial, h.q, h.p, h.held⟩

/-- A drill whose registers are wiped is excepted for as long as it runs. -/
theorem wiped {e' : Wiped} (h : DrillWhole e d) (he : e' d.stack d.n d.cmd) : DrillWhole e' (wipedDrill d) := ⟨.inl he, nofun, nofun, h.held⟩

end DrillWhole
end Sys2Proof.Proofs


/-! Registers and the record of errors. -/

namespace Sys2Proof.Proofs

open Sys2Proof Sys2Proof.Machine Sys2Proof.Laws

namespace Whole

variable {e : Wiped} {m t : Mod}

theorem setReg (h : Whole e m) {p r v} : Whole e (Machine.setReg m p r v) := h.same

theorem setRegN (h : Whole e m) {p r v} : Whole e (Machine.setRegN m p r v) := h.setReg

theorem setLost (h : Whole e m) {p r n} : Whole e (Machine.setLost m p r n) := h.same

theorem noteUp (h : Whole e m) {p r n} : Whole e (Machine.noteUp m p r n) := h.same.setLost

theorem noteSet (h : Whole e m) {p r w} : Whole e (Machine.noteSet m p r w) := h.same

theorem bump (h : Whole e m) {p r n} : Whole e (Machine.bump m p r n) := h.noteUp.setRegN

theorem raiseBits (h : Whole e m) {p r w} : Whole e (Machine.raiseBits m p r w) := h.noteSet.setReg

theorem readCounter (h : Whole e m) {p r} : Whole e (Machine.readCounter m p r) := h.setRegN.setLost

theorem sendMsg (h : Whole e m) {x} : Whole e (Machine.sendMsg m x) := h.same

theorem flushHeld (h : Whole e m) : Whole e (Machine.flushHeld m) := h.same

theorem sendEvt (h : Whole e m) {vec} : Whole e (Machine.sendEvt m vec) := h.otherwise (·.same.sendMsg)

theorem demand (h : Whole e m) {kind addr x} : Whole e (Machine.demand m kind addr x) := h.rest.sendMsg

theorem hostStore (h : Whole e m) {addr data} : Whole e (Machine.hostStore m addr data) := h.foldl fun _ _ _ h => h.demand

theorem hostLoad (h : Whole e m) {addr size} : Whole e (Machine.hostLoad m addr size) := h.demand

theorem hostKeep (h : Whole e m) {line} : Whole e (Machine.hostKeep m line) := h.demand

theorem pend (h : Whole e m) {p bit} : Whole e (Machine.pend m p bit) := h.raiseBits

theorem blockEvt (h : Whole e m) {p} : Whole e (Machine.blockEvt m p) := h.pend

theorem risen (h : Whole e m) {p} : Whole e (Machine.risen m p) := h.when (·.sendEvt)

theorem sampleEvt (h : Whole e m) {p} : Whole e (Machine.sampleEvt m p) := (h.otherwise (·.same.risen)).ite h.same

theorem sampleAll (h : Whole e m) : Whole e (Machine.sampleAll m) := (h.foldl fun _ _ _ h => h.sampleEvt).rest

theorem aditSend (h : Whole e m) {r} : Whole e (Machine.aditSend m r) := h.same

theorem sendIbi (h : Whole e m) {b} : Whole e (Machine.sendIbi m b) := h.when (·.aditSend)

theorem alert (h : Whole e m) {bit} : Whole e (Machine.alert m bit) := (h.when (·.noteSet)).rest.sendIbi

theorem platEvent (h : Whole e m) {sensor value} : Whole e (Machine.platEvent m sensor value) := h.when (·.sendIbi.aditSend)

theorem setErrPage (h : Whole e m) {x} : Whole e (Machine.setErrPage m x) := h.same

theorem logErrC (h : Whole e m) {p cls code detail gate} : Whole e (Machine.logErrC m p cls code detail gate) := by
  unfold Machine.logErrC
  refine when ?_ (·.alert.platEvent)
  refine when ?_ (·.rest)
  split
  · exact h.bump.setErrPage.when (·.pend)
  · exact h.bump.setErrPage.when (·.pend)
  · exact h.bump.setErrPage.pend
  · exact h.bump.setErrPage.pend
  · exact h.bump.setErrPage.pend
  · exact h.bump.setErrPage.pend

theorem logErr (h : Whole e m) {p code detail gate} : Whole e (Machine.logErr m p code detail gate) := h.logErrC

theorem setUnit (h : Whole e m) {r} : Whole e (Machine.setUnit m r) := h.same

theorem placed (h : Whole e m) {u} : Whole e (Machine.placed m u) := h.same

theorem lockViolation (h : Whole e m) {p r} : Whole e (Machine.lockViolation m p r) := h.bump.logErr

theorem writePlain (h : Whole e m) {p r v} : Whole e (Machine.writePlain m p r v) := by
  unfold Machine.writePlain
  split
  · exact h
  · split
    · exact h
    · exact h
    · exact h
    · exact h.setReg
    · exact h.setReg
    · exact h.ite (h.setRegN.lockViolation.ite h.setRegN)
    · exact h.ite (h.setRegN.lockViolation.ite h.setRegN)

end Whole

end Sys2Proof.Proofs

/-! Device memory, the links' answers and images. -/

namespace Sys2Proof.Proofs

open Sys2Proof Sys2Proof.Machine Sys2Proof.Laws

namespace Whole

variable {e : Wiped} {m t : Mod}

theorem imageGroup (h : Whole e m) {ps} : Whole e (Machine.imageGroup m ps) := h.same.foldl fun _ _ _ h => h.bump

theorem imageGroups (h : Whole e m) {n ps} : Whole e (Machine.imageGroups n ps m) := by
  induction n generalizing m ps with
  | zero => exact h
  | succ n ih => exact h.otherwise fun h => ih h.imageGroup

theorem imagePages (h : Whole e m) {ps} : Whole e (Machine.imagePages m ps) := h.imageGroups

theorem loadImage (h : Whole e m) {lost pg} : Whole e (Machine.loadImage m lost pg) := by
  unfold Machine.loadImage
  refine h.foldl fun _ _ _ h => ?_
  split
  · exact h.restMem
  · exact h.restMem

theorem setLease (h : Whole e m) {line kind} : Whole e (Machine.setLease m line kind) := h.same

theorem addRecall (h : Whole e m) {line keep w} : Whole e (Machine.addRecall m line keep w) := by
  unfold Machine.addRecall
  split
  · exact h.same
  · exact h.bump.rest.sendMsg

theorem recallRange (h : Whole e m) {a n} : Whole e (Machine.recallRange m a n) := h.foldl fun _ _ _ h => h.otherwise (·.addRecall)

theorem unitLine (h : Whole e m) {a d} : Whole e (Machine.unitLine m a d) := h.addRecall.ite h.writeBytes

theorem unitWrite (h : Whole e m) {a d} : Whole e (Machine.unitWrite m a d) := h.otherwise fun h => h.foldl fun _ _ _ h => h.unitLine

theorem writePtr (h : Whole e m) {ptr d} : Whole e (Machine.writePtr m ptr d) := h.ite (h.unitWrite.ite h.hostStore)

end Whole

end Sys2Proof.Proofs

/-! Frames of the fabric. -/

namespace Sys2Proof.Proofs

open Sys2Proof Sys2Proof.Machine Sys2Proof.Laws

namespace Whole

variable {e : Wiped} {m t : Mod}

theorem setPort (h : Whole e m) {p} : Whole e (Machine.setPort m p) := h.same

theorem portSend (h : Whole e m) {n f} : Whole e (Machine.portSend m n f) := by
  unfold Machine.portSend
  split
  · exact h
  · split
    · exact h
    · split
      · exact h.setPort
      · split
        · exact h.setPort.rest.bump
        · exact h.setPort

theorem portFlush (h : Whole e m) {n} : Whole e (Machine.portFlush m n) := by
  unfold Machine.portFlush
  dsimp only
  split
  · exact h
  · split
    · exact h.setPort.foldl fun _ _ _ h => h.portSend
    · exact (h.setPort.foldl fun _ _ _ h => h.portSend).setPort

theorem inboxPut (h : Whole e m) {f} : Whole e (Machine.inboxPut m f) := h.when (·.same)

theorem hopSend (h : Whole e m) {f} (ht : Machine.hopSend m f = some t) : Whole e t := by
  unfold Machine.hopSend at ht
  split at ht <;> cases ht
  exact h.portSend

theorem unreachFor (h : Whole e m) {f} : Whole e (Machine.unreachFor m f) := by
  unfold Machine.unreachFor
  dsimp only
  split
  · exact h
  · split
    · exact h.same
    · split
      next ht => exact (h.hopSend ht).bump
      · exact h

theorem sendAddr (h : Whole e m) {f} : Whole e (Machine.sendAddr m f) := by
  unfold Machine.sendAddr
  split
  · exact h.inboxPut
  · split
    next ht => exact h.hopSend ht
    · exact h.unreachFor

theorem notice (h : Whole e m) {code port neigh} : Whole e (Machine.notice m code port neigh) := h.otherwise (·.sendAddr)

theorem sendPart (h : Whole e m) {node tag outcome status gen pred ents} : Whole e (Machine.sendPart m node tag outcome status gen pred ents) :=
  h.sendAddr.foldl fun _ _ _ h => h.sendAddr

end Whole

end Sys2Proof.Proofs

/-! Chutes and their queues. -/

namespace Sys2Proof.Proofs

open Sys2Proof Sys2Proof.Machine Sys2Proof.Laws

namespace Whole

variable {e : Wiped} {m t : Mod}

theorem setChute (h : Whole e m) {c} : Whole e (Machine.setChute m c) := h.same

theorem setCmd (h : Whole e m) {c} : Whole e (Machine.setCmd m c) := h.same

theorem dbErr (h : Whole e m) {chute cause cq} : Whole e (Machine.dbErr m chute cause cq) := h.setRegN.blockEvt

theorem sqDoorbell (h : Whole e m) {n index} : Whole e (Machine.sqDoorbell m n index) := by
  unfold Machine.sqDoorbell
  split
  · exact h.dbErr
  · exact h.dbErr.ite (h.dbErr.ite (h.dbErr.ite (h.dbErr.ite h.setChute)))

theorem cqDoorbell (h : Whole e m) {n index} : Whole e (Machine.cqDoorbell m n index) := by
  unfold Machine.cqDoorbell
  split
  · exact h.dbErr
  · exact h.dbErr.ite (h.dbErr.ite h.setChute)

theorem markRing (h : Whole e m) {on pg} : Whole e (Machine.markRing on m pg) := by
  unfold Machine.markRing
  split
  next he => exact h.setEnt_of he
  · exact h

theorem holdRing (h : Whole e m) {pg} : Whole e (Machine.holdRing m pg) := by
  unfold Machine.holdRing
  refine markRing ?_
  split
  · exact h.abandonMove
  · exact h

theorem cmdStat (h : Whole e m) {busy res chute} : Whole e (Machine.cmdStat m busy res chute) := h.setRegN

theorem chuteCreate (h : Whole e m) {n} : Whole e (Machine.chuteCreate m n) := by
  unfold Machine.chuteCreate
  split
  · exact h
  · split
    · exact h.cmdStat
    · exact h.cmdStat.ite (h.cmdStat.ite (h.cmdStat.ite (h.foldl fun _ _ _ h => h.holdRing).rest.cmdStat))

theorem chuteQuery (h : Whole e m) {n} : Whole e (Machine.chuteQuery m n) := by
  unfold Machine.chuteQuery
  split
  · exact h
  · split
    · exact h.cmdStat
    · exact h.setRegN.setRegN.setRegN.setRegN.setReg.setReg.cmdStat

theorem chuteFree (h : Whole e m) {n} : Whole e (Machine.chuteFree m n) := by
  unfold Machine.chuteFree
  split
  · exact h
  · exact ((h.same.foldl fun _ _ _ h => h.markRing).when (·.cmdStat)).ite h

theorem coalesce (h : Whole e m) {c ch} : Whole e (Machine.coalesce m c ch) := h.setChute.ite (h.setChute.sendEvt.ite h.setChute)

theorem retireCmd (h : Whole e m) {c} : Whole e (Machine.retireCmd m c) := h.same

theorem countDocs (h : Whole e m) {c f} : Whole e (Machine.countDocs m c f) := h.when (·.same)

theorem finish (h : Whole e m) {c f} : Whole e (Machine.finish m c f) := by
  unfold Machine.finish
  dsimp only
  split
  · split
    · exact h.retireCmd.countDocs.sendPart
    · exact h.retireCmd.countDocs
  · refine coalesce ?_
    split
    · refine unitWrite ?_
      split
      · exact h.retireCmd.countDocs.sendPart
      · exact h.retireCmd.countDocs
    · refine hostStore ?_
      split
      · exact h.retireCmd.countDocs.sendPart
      · exact h.retireCmd.countDocs

theorem outClaim (h : Whole e m) {ptr n} : Whole e (Machine.outClaim m ptr n) := h.foldl fun _ _ _ h => h.when (·.addRecall)

theorem finishBad (h : Whole e m) {c status info} : Whole e (Machine.finishBad m c status info) := h.finish

theorem chuteDestroy (h : Whole e m) {n} : Whole e (Machine.chuteDestroy m n) := by
  unfold Machine.chuteDestroy
  split
  · exact h
  · split
    · exact h.cmdStat
    · exact h.cmdStat.ite (h.setChute.cmdStat.foldl fun _ _ _ h => h.finishBad).chuteFree

theorem coalesceTimer (h : Whole e m) {n} : Whole e (Machine.coalesceTimer m n) := by
  unfold Machine.coalesceTimer
  split
  · exact h
  · split
    · exact h
    · exact h.when (·.setChute.sendEvt)

end Whole

end Sys2Proof.Proofs

/-! Collections and the stockpile. -/

namespace Sys2Proof.Proofs

open Sys2Proof Sys2Proof.Machine Sys2Proof.Laws

namespace Whole

variable {e : Wiped} {m t : Mod}

theorem setColl (h : Whole e m) {c} : Whole e (Machine.setColl m c) := h.same

theorem markSeg (h : Whole e m) {cid no v} : Whole e (Machine.markSeg m cid no v) := by
  unfold Machine.markSeg
  split
  · exact h
  · exact h.setColl

theorem tombstone (h : Whole e m) {cid i} : Whole e (Machine.tombstone m cid i) := by
  unfold Machine.tombstone
  split
  · exact h
  · exact h.otherwise (·.setColl.rest)

/-- The stockpile's page of a slot, placed where it is not there yet. -/
theorem stockPage (h : Whole e m) {c : Coll} {n : Nat} {here : Bool} {die : Option Nat} : Whole e (if here then m else
    match Machine.allocModule m 1 die with
    | none => m
    | some (pg, m) => Machine.setColl m { c with stockPgs := (n, pg) :: c.stockPgs }) := by
  refine h.otherwise fun h => ?_
  split
  · exact h
  next ht => exact (h.allocModule ht).setColl

theorem stockWrite (h : Whole e m) {cid x} : Whole e (Machine.stockWrite cid m x) := by
  unfold Machine.stockWrite
  split
  · exact h
  next c _ =>
    have hpage := h.stockPage (c := c) (n := slotPage c x.pos) (here := c.stockPgs.any fun y => y.1 = slotPage c x.pos) (die := some (roomiest m))
    dsimp only at hpage ⊢
    split
    · exact hpage
    · exact hpage.writeBytes

end Whole

end Sys2Proof.Proofs

/-! The ledger ring. -/

namespace Sys2Proof.Proofs

open Sys2Proof Sys2Proof.Machine Sys2Proof.Laws

namespace Whole

variable {e : Wiped} {m t : Mod}

theorem closeGroup (h : Whole e m) : Whole e (Machine.closeGroup m) := by
  unfold Machine.closeGroup
  split
  · exact h
  · exact h.same

theorem openGroup (h : Whole e m) {lsn} : Whole e (Machine.openGroup m lsn) := by
  unfold Machine.openGroup
  split
  · exact h
  · exact h.same

theorem enterOnce (h : Whole e m) (ht : Machine.enterOnce m = some t) : Whole e t := by
  unfold Machine.enterOnce at ht
  split at ht
  · cases ht
  · dsimp only at ht
    split at ht
    · cases ht
    · split at ht <;> cases ht
      exact h.openGroup.rest.closeGroup.ite h.openGroup.rest

theorem enterRing (h : Whole e m) {n} : Whole e (Machine.enterRing n m) := by
  induction n generalizing m with
  | zero => exact h
  | succ n ih =>
    unfold Machine.enterRing
    split
    · exact h
    next ht => exact ih (h.enterOnce ht)

theorem addRecord (h : Whole e m) {cmd coll opcode redo} : Whole e (Machine.addRecord m cmd coll opcode redo).1 := h.same.enterRing

theorem setRecord (h : Whole e m) {r} : Whole e (Machine.setRecord m r) := h.same

end Whole

end Sys2Proof.Proofs

/-! Power windows. -/

namespace Sys2Proof.Proofs

open Sys2Proof Sys2Proof.Machine Sys2Proof.Laws

namespace Whole

variable {e : Wiped} {m t : Mod}

theorem requestReset (h : Whole e m) {cause kind} : Whole e (Machine.requestReset m cause kind) := h.otherwise (·.same)

theorem regrant (h : Whole e m) : Whole e (Machine.regrant m) := h.same

theorem thermalCheck (h : Whole e m) : Whole e (Machine.thermalCheck m) := h.same.regrant.ite (h.when (·.same.regrant))

theorem spend (h : Whole e m) {cls x} : Whole e (Machine.spend m cls x) := h.same

theorem addBacklog (h : Whole e m) {cls cost} : Whole e (Machine.addBacklog m cls cost) := h.same

theorem draw (h : Whole e m) {cls as' cost} : Whole e (Machine.draw m cls as' cost) := h.spend.rest

theorem drawStep (h : Whole e m) {c} : Whole e (Machine.drawStep m c).1 := h.draw.rest.setCmd

theorem windowStart (h : Whole e m) {w} : Whole e (Machine.windowStart m w) := h.same.rest

theorem peakStall (h : Whole e m) : Whole e (Machine.peakStall m) := h.same.ite (h.otherwise (·.same.bump))

theorem dipEnd (h : Whole e m) : Whole e (Machine.dipEnd m) := by
  unfold Machine.dipEnd
  split
  · exact h
  · exact h.otherwise (·.same.logErr.alert)

theorem supplyEvent (h : Whole e m) {mv} : Whole e (Machine.supplyEvent m mv) := by
  unfold Machine.supplyEvent
  dsimp only
  split
  · exact h
  · split
    · exact h.dipEnd.rest.closeGroup.rest
    · exact h.dipEnd.rest.closeGroup.rest.bump.when (·.requestReset)

theorem dipSample (h : Whole e m) {mv} : Whole e (Machine.dipSample m mv) := by
  unfold Machine.dipSample
  dsimp only
  split
  · exact h.dipEnd
  · exact h.dipEnd.rest

theorem dipTimeout (h : Whole e m) : Whole e (Machine.dipTimeout m) := by
  unfold Machine.dipTimeout
  split
  · exact h.when (·.requestReset)
  · exact h

theorem thermalEvent (h : Whole e m) {sensor celsius} : Whole e (Machine.thermalEvent m sensor celsius) := h.otherwise (·.same.thermalCheck)

end Whole

end Sys2Proof.Proofs

/-! Searches and their walks. -/

namespace Sys2Proof.Proofs

open Sys2Proof Sys2Proof.Machine Sys2Proof.Laws

namespace Whole

variable {e : Wiped} {m t : Mod}

theorem placeWork (h : Whole e m) {ws} : Whole e (Machine.placeWork m ws) := h.foldl fun _ _ _ h => h.placed.placed

theorem placeSearch (h : Whole e m) {s} : Whole e (Machine.placeSearch m s) := h.placeWork.placed

theorem addSats (h : Whole e m) {u n} : Whole e (Machine.addSats m u n) := h.otherwise (·.same)

theorem countTally (h : Whole e m) {w k} : Whole e (Machine.countTally m w k) := h.bump.bump.bump.bump

theorem putSearch (h : Whole e m) {c s} : Whole e (Machine.putSearch m c s) := h.setCmd

theorem countSectors (h : Whole e m) {sg node n} : Whole e (Machine.countSectors m sg node n) := by
  unfold Machine.countSectors
  split
  · exact h
  · split
    next he => exact h.when (·.bump)
    · exact h

theorem walkStart (h : Whole e m) {cid seg} : Whole e (Machine.walkStart m cid seg) := by
  unfold Machine.walkStart
  split
  · exact h
  · dsimp only
    split
    · exact h
    · exact h.countTally.countSectors.putSearch

theorem walkExpand (h : Whole e m) {cid seg} : Whole e (Machine.walkExpand m cid seg) := by
  unfold Machine.walkExpand
  split
  · exact h
  · split
    · exact h
    · split
      · exact h
      · exact h.countTally.bump.bump.countSectors.putSearch

theorem countEnd (h : Whole e m) {why w} : Whole e (Machine.countEnd why m w) := by
  unfold Machine.countEnd
  split
  · exact h.bump.bump.bump
  · exact h.bump.bump.bump
  · exact h.bump.bump

theorem endWalk (h : Whole e m) {x why} : Whole e (Machine.endWalk m x why) := h.countEnd.putSearch

theorem walkEnd (h : Whole e m) {cid seg} : Whole e (Machine.walkEnd m cid seg) := by
  unfold Machine.walkEnd
  split
  · exact h
  · exact h.ite (h.endWalk.ite (h.endWalk.ite (h.ite (h.finishBad.ite h.endWalk))))

theorem scanOne (h : Whole e m) {coll u slice last cid} : Whole e (Machine.scanOne coll u slice last m cid) := by
  unfold Machine.scanOne
  split
  · exact h
  · split
    · split
      · exact h
      · exact h.otherwise (·.addSats.putSearch)
    · exact h

theorem flatSats (h : Whole e m) {c sg sw} : Whole e (Machine.flatSats m c sg sw) := by
  unfold Machine.flatSats
  exact h.bump.addSats

theorem flatOne (h : Whole e m) {coll seg cid} : Whole e (Machine.flatOne coll seg m cid) := by
  unfold Machine.flatOne
  split
  · exact h
  · split
    · exact h.otherwise (·.flatSats.putSearch)
    · exact h

theorem mergeInto (h : Whole e m) {s l len} : Whole e (Machine.mergeInto m s l len).1 := by
  unfold Machine.mergeInto
  exact h.bump.bump

/-- Lists merged one after another. -/
theorem foldl_mergeInto (h : Whole e m) {s : SearchW} {l : List PList} {k : Nat} :
    Whole e (l.foldl (fun (a : Mod × SearchW) x => Machine.mergeInto a.1 a.2 x k) (m, s)).1 := by
  induction l generalizing m s with
  | nil => exact h
  | cons x l ih => exact ih (m := (Machine.mergeInto m s x k).1) h.mergeInto

theorem lastMerge (h : Whole e m) {c s} : Whole e (Machine.lastMerge m c s) := h.putSearch.ite h.foldl_mergeInto.putSearch

theorem advance (h : Whole e m) {c s} : Whole e (Machine.advance m c s) := by
  unfold Machine.advance
  split
  · split
    · exact h.bump.putSearch.placeWork
    · exact h.lastMerge.ite (h.lastMerge.ite h.putSearch)
  · exact h.lastMerge.ite h.putSearch

theorem riddleMerge (h : Whole e m) {cid} : Whole e (Machine.riddleMerge m cid) := by
  unfold Machine.riddleMerge
  dsimp only
  split
  · exact h
  · split
    · exact h
    · split
      · exact h.advance
      · exact h.advance.ite h.mergeInto.advance

theorem rerankOp (h : Whole e m) {cid idx ecc} : Whole e (Machine.rerankOp m cid idx ecc) := by
  unfold Machine.rerankOp
  dsimp only
  split
  · exact h
  · split
    · exact h
    · split
      · split
        · exact h
        · split
          · split
            · exact h
            · split
              · exact (h.bump.ite h.bump).placed.bump.logErr.logErr.finishBad
              · refine advance ?_
                refine mergeInto ?_
                refine addSats ?_
                refine bump ?_
                split
                · exact (h.bump.ite h.bump).placed.bump.logErr
                · exact (h.bump.ite h.bump).placed
          · exact h
      · exact h

theorem finalise (h : Whole e m) {c s} : Whole e (Machine.finalise m c s) :=
  ((h.foldl fun _ _ _ h => h.countEnd).foldl_mergeInto).putSearch

theorem searchStop (h : Whole e m) {cid} : Whole e (Machine.searchStop m cid) := by
  unfold Machine.searchStop
  split
  · exact h
  · split
    · exact h
    · exact h.ite ((h.when (·.finishBad)).ite (h.putSearch.ite (h.finishBad.ite h.finalise)))

end Whole

end Sys2Proof.Proofs

/-! Checks of commands. -/

namespace Sys2Proof.Proofs

open Sys2Proof Sys2Proof.Machine Sys2Proof.Laws

namespace Whole

variable {e : Wiped} {m t : Mod}

theorem recallInputs (h : Whole e m) {x pl} : Whole e (Machine.recallInputs m x pl) := h.foldl fun _ _ _ h => h.recallRange

end Whole

end Sys2Proof.Proofs

/-! Inserts, merges, builds and generations. -/

namespace Sys2Proof.Proofs

open Sys2Proof Sys2Proof.Machine Sys2Proof.Laws

namespace Whole

variable {e : Wiped} {m t : Mod}

theorem tombOne (h : Whole e m) {cid i} : Whole e (Machine.tombOne cid m i) := by
  unfold Machine.tombOne
  split
  · exact h
  · exact (h.when (·.same)).tombstone

theorem mirrorCheck (h : Whole e m) {before} : Whole e (Machine.mirrorCheck before m) := h.when (·.blockEvt)

theorem tombAll (h : Whole e m) {cid l} : Whole e (Machine.tombAll m cid l) := (h.foldl fun _ _ _ h => h.tombOne).mirrorCheck

theorem freeSegs (h : Whole e m) {c gone left} : Whole e (Machine.freeSegs m c gone left) := h.foldl fun _ _ _ h => h.releasePage

theorem dropBuilt (h : Whole e m) {c no} : Whole e (Machine.dropBuilt m c no) := h.setColl.freeSegs

theorem record (h : Whole e m) {c redo} : Whole e (Machine.record m c redo) := h.addRecord.setCmd

theorem stockPut (h : Whole e m) {c es} : Whole e (Machine.stockPut m c es) := h.setColl.foldl fun _ _ _ h => h.stockWrite

theorem insertAdmit (h : Whole e m) {cmd} : Whole e (Machine.insertAdmit m cmd) := by
  unfold Machine.insertAdmit
  split
  · exact h
  · exact h.stockPut.setCmd.record

theorem upsertAdmit (h : Whole e m) {cmd} : Whole e (Machine.upsertAdmit m cmd) := by
  obtain ⟨shard, hshard⟩ := exists_eq (a' := shardOf)
  unfold Machine.upsertAdmit
  rw [← hshard]
  split
  · exact h
  · dsimp only
    split
    · exact h.tombAll
    · exact h.tombAll.stockPut.setCmd.record

theorem deleteAdmit (h : Whole e m) {cmd} : Whole e (Machine.deleteAdmit m cmd) := by
  unfold Machine.deleteAdmit
  split
  · exact h
  · exact h.tombAll.setCmd.record

theorem publishAdmit (h : Whole e m) {cmd} : Whole e (Machine.publishAdmit m cmd) := by
  unfold Machine.publishAdmit
  split
  · exact h
  · exact h.same.setColl.record.mirrorCheck

theorem retireAdmit (h : Whole e m) {cmd} : Whole e (Machine.retireAdmit m cmd) := h.record

theorem createAdmit (h : Whole e m) {cmd} : Whole e (Machine.createAdmit m cmd) := h.same.record

theorem dropAdmit (h : Whole e m) {cmd} : Whole e (Machine.dropAdmit m cmd) := by
  unfold Machine.dropAdmit
  split
  · exact h
  · exact h.setColl.record

theorem schemaAdmit (h : Whole e m) {cmd} : Whole e (Machine.schemaAdmit m cmd) := h.record

theorem purge (h : Whole e m) {cid} : Whole e (Machine.purge m cid) := by
  unfold Machine.purge
  split
  · exact h.same
  · exact (h.same.foldl fun _ _ _ h => h.releasePage).setColl

theorem genFree (h : Whole e m) {cid g} : Whole e (Machine.genFree m cid g) := by
  unfold Machine.genFree
  split
  · exact h
  · split
    · exact h
    · exact h.ite ((h.freeSegs.rest.foldl fun _ _ _ h => h.releasePage).purge.ite h.freeSegs.setColl.purge)

theorem holdEnd (h : Whole e m) {cid g} : Whole e (Machine.holdEnd m cid g) := by
  unfold Machine.holdEnd
  split
  · exact h
  · split
    · exact h
    · exact h.when (·.genFree)

theorem sweepGens (h : Whole e m) : Whole e (Machine.sweepGens m) := h.foldl fun _ _ _ h => h.genFree

theorem freeBuild (h : Whole e m) {c cmd b} : Whole e (Machine.freeBuild m c cmd b) := h.foldl fun _ _ _ h => h.releasePage

theorem stopJobs (h : Whole e m) {cid} : Whole e (Machine.stopJobs m cid) := by
  unfold Machine.stopJobs
  refine h.foldl fun _ _ _ h => ?_
  refine finishBad ?_
  split
  · exact h.freeBuild
  · exact h

theorem retireReads (h : Whole e m) {cid below} : Whole e (Machine.retireReads m cid below) := h.foldl fun _ _ _ h => h.finishBad

theorem stepApplied (h : Whole e m) {cid gen} : Whole e (Machine.stepApplied m cid gen) := h.same.bump

theorem takeTags (h : Whole e m) {c p} : Whole e (Machine.takeTags m c p) := h.same

theorem dropPub (h : Whole e m) {c} : Whole e (Machine.dropPub m c) := by
  unfold Machine.dropPub
  split
  · exact h
  · exact h.same.freeSegs

theorem applyRecord (h : Whole e m) {cid r} : Whole e (Machine.applyRecord m cid r) := by
  unfold Machine.applyRecord
  split
  · exact h
  · split
    · exact h
    · split
      · exact (h.takeTags.setColl.bump.when (·.stepApplied)).purge
      · exact h.stopJobs.dropPub.setColl.freeSegs
      · exact h.setColl.retireReads
      · exact h.setColl

theorem recountEnd (h : Whole e m) {cid} : Whole e (Machine.recountEnd m cid) := by
  unfold Machine.recountEnd
  split
  · exact h
  · exact h.otherwise (·.setColl.rest)

theorem copySeg (h : Whole e m) {c old new fresh r} (ht : Machine.copySeg m c old new fresh = some r) : Whole e r.2 := by
  unfold Machine.copySeg at ht
  extract_lets ch nt more at ht
  split at ht
  · cases ht
  · split at ht
    · cases ht
    next hp =>
      split at ht
      · cases ht
      next hq =>
        obtain rfl := Option.some.inj ht
        exact ((((h.allocPages hp).allocPages hq).foldl fun _ _ _ h => h.mapAt).foldl fun _ _ _ h => h.writeBytes).imagePages

theorem stepBegin (h : Whole e m) {cmd c w} : Whole e (Machine.stepBegin m cmd c w) :=
  h.finish.ite (h.finishBad.ite (h.otherwise (·.drawStep.addRecord.setCmd)))

theorem closeStep (h : Whole e m) {c} : Whole e (Machine.closeStep m c) := by
  unfold Machine.closeStep
  split
  · exact h.setRecord
  · exact h

theorem takeRange (h : Whole e m) {n} : Whole e (Machine.takeRange m n) := h.same

theorem stepWork (h : Whole e m) {cmd c w lo hi k l} : Whole e (Machine.stepWork m cmd c w lo hi k l) := by
  obtain ⟨copy, hcopy⟩ := exists_eq (a' := Machine.copySeg)
  obtain ⟨step, hstep⟩ := exists_eq (a' := stepSeg)
  unfold Machine.stepWork
  rw [← hcopy, ← hstep]
  refine h.otherwise fun h => h.closeStep.finishBad.ite (h.setCmd.ite ?_)
  dsimp only
  split
  · exact h
  next ht =>
    rw [hcopy] at ht
    exact (copySeg (h.takeRange.ite h) ht).rest.setColl.setCmd.addRecord

theorem mergeStepOp (h : Whole e m) {cid} : Whole e (Machine.mergeStepOp m cid) := by
  unfold Machine.mergeStepOp
  split
  · split
    · exact h
    · split
      · exact h.otherwise (·.stepBegin)
      · exact h.stepWork
      · exact h
  · exact h

theorem mergeAdmit (h : Whole e m) {cmd} : Whole e (Machine.mergeAdmit m cmd) := by
  unfold Machine.mergeAdmit
  split
  · exact h
  · exact h.finish.ite h.setCmd

theorem addCmd (h : Whole e m) {c} : Whole e (Machine.addCmd m c) := h.same

theorem addJob (h : Whole e m) {c} : Whole e (Machine.addJob m c) := h.addCmd.addBacklog

theorem autoMerge (h : Whole e m) {cid} : Whole e (Machine.autoMerge m cid) := by
  unfold Machine.autoMerge
  split
  · exact h
  · exact h.otherwise fun h => h.otherwise (·.addJob.bump)

theorem reserveBuild (h : Whole e m) {c n mm degree die r} (ht : Machine.reserveBuild m c n mm degree die = some r) : Whole e r.2.2 := by
  obtain ⟨u, hu, rfl⟩ := Option.map_eq_some_iff.1 ht
  exact (h.allocPages hu).takeRange.foldl fun _ _ _ h => h.mapAt

theorem buildAdmit (h : Whole e m) {cmd} : Whole e (Machine.buildAdmit m cmd) := by
  obtain ⟨reserve, hreserve⟩ := exists_eq (a' := Machine.reserveBuild)
  unfold Machine.buildAdmit
  rw [← hreserve]
  dsimp only
  split
  · exact h
  · split
    · exact h.dropBuilt
    next ht => exact (h.dropBuilt.reserveBuild (hreserve ▸ ht)).setCmd

theorem buildFail (h : Whole e m) {cmd c b status info} : Whole e (Machine.buildFail m cmd c b status info) := h.freeBuild.finishBad

theorem ingestVecs (h : Whole e m) {c b pl i k} : Whole e (Machine.ingestVecs m c b pl i k) := h.foldl fun _ _ _ h => h.writeBytes

theorem buildRun (h : Whole e m) {cid} : Whole e (Machine.buildRun m cid) := by
  obtain ⟨alloc, halloc⟩ := exists_eq (a' := Machine.allocPages)
  obtain ⟨fault, hfault⟩ := exists_eq (a' := ingestFault)
  unfold Machine.buildRun
  rw [← halloc, ← hfault]
  dsimp only
  split
  · exact h
  · split
    · refine h.otherwise fun h => ?_
      split
      · exact h.drawStep.setCmd
      · split
        · exact h.drawStep.buildFail
        · exact h.drawStep.ingestVecs.setCmd
      · exact h.drawStep.setCmd
      · split
        · exact h.drawStep
        next ht => exact (h.drawStep.allocPages (halloc ▸ ht)).setCmd
      · exact h.drawStep.rest.imagePages.setCmd.record
      · exact h.drawStep
    · exact h

theorem ckptWrite (h : Whole e m) {ps} : Whole e (Machine.ckptWrite m ps) := h.same.foldl fun _ _ _ h => h.writeBytes

theorem buildCkpt (h : Whole e m) {cid} : Whole e (Machine.buildCkpt m cid) := by
  unfold Machine.buildCkpt
  split
  · exact h
  · split
    · exact h
    · split
      · exact h
      · split
        · exact h
        next ht => exact ((h.allocPages ht).foldl fun _ _ _ h => h.releasePage).ckptWrite.addRecord.setCmd.setRegN

theorem dropBatch (h : Whole e m) {cid ps} : Whole e (Machine.dropBatch m cid ps) := by
  unfold Machine.dropBatch
  split
  · exact h
  · exact h.setColl

end Whole

end Sys2Proof.Proofs

/-! Media: rows, frames, moves and flash channels (R434, R441). -/

namespace Sys2Proof.Proofs

open Sys2Proof Sys2Proof.Machine Sys2Proof.Laws

namespace Whole

variable {e : Wiped} {m t : Mod}

theorem correctable (h : Whole e m) {p addr} : Whole e (Machine.correctable m p addr) := h.bump.logErr.setStack

theorem uncorrectable (h : Whole e m) {p addr} : Whole e (Machine.uncorrectable m p addr) := (h.bump.logErr.when (·.blockEvt)).setStack

theorem eccEvent (h : Whole e m) {a x} : Whole e (Machine.eccEvent m a x) := by
  unfold Machine.eccEvent
  dsimp only
  split
  · exact h
  · split
    · exact h.correctable
    · exact h
  · split
    · exact h.same.uncorrectable
    · exact h.same

theorem faultRecord (h : Whole e m) {s c} : Whole e (Machine.faultRecord m s c) := h.addRecord

theorem retryDest (h : Whole e m) {loc} : Whole e (Machine.retryDest m loc) := by
  unfold Machine.retryDest
  dsimp only
  split
  · exact h
  · split
    · exact h
    · split
      · exact h.abandonMove.addNewMove
      · exact h.abandonMove

theorem rowRemapOp (h : Whole e m) {s pc bank row} : Whole e (Machine.rowRemapOp m s pc bank row) := by
  unfold Machine.rowRemapOp
  dsimp only
  split
  · exact h
  · split
    · split
      · exact ((h.bump.faultRecord.setStack.bump.logErr).when (·.blockEvt)).faultRecord
      · exact ((h.setStack.bump.logErr).when (·.blockEvt)).faultRecord
    · split
      · exact h.bump.faultRecord.setStack.retryDest
      · exact h.setStack.retryDest

theorem markPc (h : Whole e m) {s pc} : Whole e (Machine.markPc m s pc) := h.otherwise (·.setStack.logErr.blockEvt)

theorem retireFrame (h : Whole e m) {s f} : Whole e (Machine.retireFrame m s f) := (h.setStack.faultRecord.logErr.when (·.blockEvt)).when (·.markPc)

theorem retirePage (h : Whole e m) {pg} : Whole e (Machine.retirePage m pg) := h.otherwise (·.same.logErr)

theorem patternPc (h : Whole e m) {s pc} : Whole e (Machine.patternPc m s pc) := h.setStack.markPc

theorem frameRetire (h : Whole e m) {s f pattern} : Whole e (Machine.frameRetire m s f pattern) := by
  have hpat : Whole e (if pattern then Machine.patternPc m s (framePc f) else m) := h.when (·.patternPc)
  unfold Machine.frameRetire
  dsimp only
  generalize (if pattern then Machine.patternPc m s (framePc f) else m) = u at hpat
  split
  · exact hpat
  · split
    · exact hpat.retireFrame
    · split
      · exact hpat
      · split
        · exact hpat.retirePage.retireFrame
        · split
          · exact hpat.retirePage.retireFrame
          · exact hpat.when (·.addNewMove)

theorem scrubOp (h : Whole e m) {s f g x} : Whole e (Machine.scrubOp m s f g x) := by
  unfold Machine.scrubOp
  dsimp only
  split
  · exact h
  · split
    · exact h.eccEvent
    · split
      · exact h
      · exact h.correctable
      · exact h.uncorrectable

theorem haulCopyOp (h : Whole e m) {pg x} : Whole e (Machine.haulCopyOp m pg x) := by
  unfold Machine.haulCopyOp
  split
  · exact h
  next v hv =>
    refine h.otherwise fun h => h.recallRange.ite (h.eccEvent.abandonMove.ite (setMove ?_ fun g hg => ?_))
    · dsimp only
      split
      · exact h.eccEvent.bump.ite (h.eccEvent.when (·.bump))
      · exact h.eccEvent
    · rw [List.append_assoc] at hg
      rcases List.mem_append.1 hg with hg | hg
      · exact h.moveOf hv g (List.mem_append_left _ hg)
      · rcases List.mem_append.1 hg with hg | hg
        · obtain ⟨i, hi, rfl⟩ := List.mem_map.1 hg
          have := List.mem_range.1 hi
          exact ⟨by dsimp only; omega, readGran_length _ _⟩
        · exact h.moveOf hv g (List.mem_append_right _ hg)

/-- An entry of a page that nothing waits to be written to. -/
theorem setEnt_unheld (h : Whole e m) {x : PageEnt} (hx : ∀ w ∈ m.mem.wb, w.unit / 16 ≠ x.page) : Whole e (Machine.setEnt m x) :=
  { h with
    buffer := wbHeld_of_bench h.buffer (List.Sublist.refl _) le_rfl fun w hw => by
      rw [benchOf, pageEnt_setEnt, if_neg (hx w hw), benchOf] }

/-- A page's old place forgotten at its switch, with what waits to be written to it (R434). -/
def vacated (m : Mod) (pg : Nat) (x : PageEnt) : Mod :=
  if x.bench = 2 then
    { m with mem := { m.mem with wb := m.mem.wb.filter fun w => !(w.unit / 16 = pg), flash := m.mem.flash.filter fun f => !(f.no / 16 = pg) } }
  else { m with mem := { m.mem with cells := m.mem.cells.filter fun c => !decide (pageNo c.1 = pg) } }

theorem vacated_whole (h : Whole e m) {pg x} : Whole e (vacated m pg x) := by
  unfold vacated
  split
  · exact { h with buffer := wbHeld_of_bench h.buffer List.filter_sublist le_rfl fun _ _ => rfl }
  · exact h.restMem

theorem unheld_vacated (h : Whole e m) {pg x} (hx : pageEnt m pg = some x) : ∀ w ∈ (vacated m pg x).mem.wb, w.unit / 16 ≠ pg := by
  unfold vacated
  split
  · intro w hw
    simpa using (List.mem_filter.1 hw).2
  next hb =>
    intro w hw hp
    obtain ⟨-, y, hy, hy2⟩ := h.buffer.2 w hw
    rw [hp, hx] at hy
    exact hb (Option.some.inj hy ▸ hy2)

/-- A switch counted on the command whose hint asked for the move. -/
theorem countSwitch (h : Whole e m) {c : Option Cmd} : Whole e (match c with
    | some c => Machine.setCmd m { c with info := c.info + 1 }
    | none => m) := by
  split
  · exact h.setCmd
  · exact h

theorem flip (h : Whole e m) {v x clean} (hv : GransWhole (v.dest ++ v.log)) (hx : pageEnt m v.page = some x) :
    Whole e (Machine.flip m v x clean) := by
  have hmoved := (h.vacated_whole (pg := v.page) (x := x)).setMove
    (v := { v with done := true, srcB := x.bench, srcL := x.loc, switch := now (vacated m v.page x) }) hv
  have hent := hmoved.setEnt_unheld (x := { x with bench := v.bench, loc := v.loc }) ((pageEnt_page hx).symm ▸ h.unheld_vacated hx)
  unfold Machine.flip
  refine Whole.ite ?_ ?_
  · exact hent.restMem.countSwitch.restMem
  · exact hent.restMem.countSwitch.foldl fun _ g hg h => h.rawGran (hv g hg).2

theorem switched (h : Whole e m) {pg v x} (hv : Machine.moveOf m pg = some v) (hx : pageEnt m pg = some x) : Whole e (Machine.switched m v x) := by
  rw [← (moveOf_page hv).1] at hx
  unfold Machine.switched
  split
  · refine h.flip (fun g hg => ?_) hx
    rcases List.mem_append.1 hg with hg | hg
    · simp only [List.mem_map, upto, List.mem_range] at hg
      obtain ⟨i, hi, rfl⟩ := hg
      exact ⟨hi, readGran_length _ _⟩
    · exact h.moveOf hv g (List.mem_append_right _ hg)
  · exact h.flip (h.moveOf hv) hx

theorem haulSwitchOp (h : Whole e m) {pg} : Whole e (Machine.haulSwitchOp m pg) := by
  unfold Machine.haulSwitchOp
  split
  next hv hx => exact h.otherwise fun h => (h.switched hv hx).bump
  · exact h

theorem tableSwitchOp (h : Whole e m) {pg} : Whole e (Machine.tableSwitchOp m pg) := by
  unfold Machine.tableSwitchOp
  split
  next hv hx => exact h.otherwise fun h => (h.switched hv hx).bump
  · exact h

theorem haulReleaseOp (h : Whole e m) {pg} : Whole e (Machine.haulReleaseOp m pg) := by
  unfold Machine.haulReleaseOp
  split
  · exact h
  · refine h.otherwise fun h => ?_
    have hdone : Whole e { m with mem := { m.mem with moves := m.mem.moves.filter fun x => !(x.page = pg && x.done) } } :=
      { h with moves := fun x hx => h.moves x (List.mem_filter.1 hx).1 }
    exact hdone.retireFrame.ite hdone

theorem demotionOp (h : Whole e m) : Whole e (Machine.demotionOp m) := by
  unfold Machine.demotionOp
  dsimp only
  split
  · exact h
  · split
    · exact h.when (·.addNewMove)
    · exact h

theorem freePage (h : Whole e m) {pg} : Whole e (Machine.freePage m pg) := (h.foldl fun _ _ _ h => h.addRecall).dropPage

theorem sweepFreed (h : Whole e m) : Whole e (Machine.sweepFreed m) := h.foldl fun _ _ _ h => h.otherwise (·.freePage)

theorem hauFreeOp (h : Whole e m) {idx} : Whole e (Machine.hauFreeOp m idx) := by
  unfold Machine.hauFreeOp
  dsimp only
  split
  · exact h
  · exact h.same.ite h.freePage

theorem wbProgramOp (h : Whole e m) {unit} : Whole e (Machine.wbProgramOp m unit) := by
  unfold Machine.wbProgramOp
  split
  · exact h
  · exact h.programEnt

theorem wbDrain (h : Whole e m) : Whole e (Machine.wbDrain m) := h.foldl fun _ _ _ h => h.programEnt

theorem blockFail (h : Whole e m) {ch wear} : Whole e (Machine.blockFail m ch wear) := h.otherwise fun h => h.setChan.when (·.blockEvt)

/-- An entry that puts its page into flash. -/
theorem setEnt_flash (h : Whole e m) {x : PageEnt} (hx : x.bench = 2) : Whole e (Machine.setEnt m x) :=
  { h with
    buffer := by
      refine ⟨h.buffer.1, fun w hw => ⟨(h.buffer.2 w hw).1, ?_⟩⟩
      obtain ⟨-, y, hy, hb⟩ := h.buffer.2 w hw
      rw [pageEnt_setEnt]
      split
      · exact ⟨x, rfl, hx⟩
      · exact ⟨y, hy, hb⟩ }

theorem channelFail (h : Whole e m) {ch} : Whole e (Machine.channelFail m ch) := by
  refine h.otherwise fun h => foldl (h.setChan.restMem) fun u x hx h => ?_
  have hb : x.bench = 2 := by
    have := (List.mem_filter.1 hx).2
    simp at this
    exact this.1.1
  split
  · exact h.restMem.setEnt_flash hb
  · exact h

theorem proposeHot (h : Whole e m) {die pg} : Whole e (Machine.proposeHot die m pg) := by
  unfold Machine.proposeHot
  split
  · exact h
  next he =>
    split
    · exact h
    · split
      · exact h.otherwise (·.addNewMove)
      · exact h

theorem hotWindowOp (h : Whole e m) {die} : Whole e (Machine.hotWindowOp m die) :=
  (h.foldl fun _ _ _ h => h.proposeHot).mapEntries (by intro x; split <;> rfl) (by intro x; split <;> rfl)

end Whole

end Sys2Proof.Proofs

/-! Tables, their counts and their sector adds. -/

namespace Sys2Proof.Proofs

open Sys2Proof Sys2Proof.Machine Sys2Proof.Laws

namespace Whole

variable {e : Wiped} {m t : Mod}

theorem countMarks (h : Whole e m) {p ms} : Whole e (Machine.countMarks m p ms) := h.bump.bump.bump.bump

theorem countRow (h : Whole e m) {p r} : Whole e (Machine.countRow p m r) := by
  unfold Machine.countRow
  split
  · exact h.when (·.bump)
  · exact h

theorem countDefaults (h : Whole e m) {k ix} : Whole e (Machine.countDefaults m k ix) := h.bump

theorem countLookup (h : Whole e m) {p tno d ix} : Whole e (Machine.countLookup m p tno d ix) :=
  ((h.foldl fun _ _ _ h => (h.otherwise (·.bump)).bump.bump).foldl fun _ _ _ h => h.countRow).countDefaults.mapEntries

theorem lookupRun (h : Whole e m) {cid} : Whole e (Machine.lookupRun m cid) := by
  unfold Machine.lookupRun
  dsimp only
  split
  · exact h
  · split
    · exact h
    · split
      · exact h
      · split
        · exact h
        · split
          · exact h.finishBad
          · exact h.ite (h.outClaim.ite h.countLookup.countMarks.writePtr.finish)

theorem applyAdd (h : Whole e m) {s table} : Whole e (Machine.applyAdd m s table) :=
  (h.putGran (addGran_length _ _ _)).when (·.bump.bump)

theorem updateRecord (h : Whole e m) {c} : Whole e (Machine.updateRecord m c) := by
  unfold Machine.updateRecord
  split
  · exact h
  · split
    · exact h
    · exact h.record

theorem addDone (h : Whole e m) {s} : Whole e (Machine.addDone m s) := by
  unfold Machine.addDone
  split
  · exact h
  · split
    · exact h
    · exact h.setCmd.when (·.updateRecord)

theorem updateRun (h : Whole e m) {cid} : Whole e (Machine.updateRun m cid) := by
  unfold Machine.updateRun
  dsimp only
  split
  · exact h
  · split
    · split
      · exact h
      · exact h.ite (h.countDefaults.setCmd.updateRecord.ite (h.countDefaults.setCmd.rest.foldl fun _ _ _ h => h.applyAdd.addDone))
    · exact h

theorem replayAdds (h : Whole e m) {p pg} : Whole e (Machine.replayAdds m p pg) := h.foldl fun _ _ _ h => h.applyAdd

theorem restorePage (h : Whole e m) {lost p pg} : Whole e (Machine.restorePage m lost p pg) := by
  have hcells : Whole e { m with mem := { m.mem with cells := m.mem.cells.filter fun c => pageNo c.1 != pg } } := h.restMem
  unfold Machine.restorePage
  refine replayAdds (hcells.foldl fun _ i _ h => ?_)
  dsimp only
  split
  · exact h.restMem
  next hg =>
    split
    · exact h.restMem
    · exact h.applyGran (imageGran_length hg)

theorem againAdds (h : Whole e m) {but pg} : Whole e (Machine.againAdds m but pg) := h.foldl fun _ _ _ h => h.applyAdd

theorem updateUndo (h : Whole e m) {c} : Whole e (Machine.updateUndo m c) := by
  unfold Machine.updateUndo
  split
  · exact h.same.foldl fun _ _ _ h => h.restorePage.againAdds
  · exact h

/-- Granules of a page rebuilt from its image where they stood uncorrectable. -/
theorem rebuildGrans (h : Whole e m) {l : List Nat} {lost : List (Nat × Nat)} {pg : Nat} {image : Bool} :
    Whole e (l.foldl (fun m a => match imageGran m lost pg (a % pageSize / 32) with
      | some g => if image then { m with mem := { m.mem with ue := m.mem.ue.filter (· != a), cells := cellsSet m.mem.cells a g } }
        else { m with mem := { m.mem with ue := m.mem.ue.filter (· != a) } }
      | none => m) m) := by
  refine h.foldl fun _ _ _ h => ?_
  split
  · exact h.restMem.ite h.restMem
  · exact h

theorem rebuildOp (h : Whole e m) {pg seg lost} : Whole e (Machine.rebuildOp m pg seg lost) := by
  have hmark {u : Mod} (hu : Whole e u) : Whole e (match seg with
      | some (c, s) => if u.mem.ue.any fun a => pageNo a = pg then u else Machine.markSeg u c s false
      | none => u) := by
    split
    · exact hu.otherwise (·.markSeg)
    · exact hu
  unfold Machine.rebuildOp
  split
  · exact h
  · refine h.otherwise fun h => hmark ?_
    split
    · exact h.restorePage.againAdds
    · exact h.rebuildGrans

theorem ksAdd (h : Whole e m) {s} : Whole e (Machine.ksAdd m s) := h.applyAdd.when (·.rest)

end Whole

end Sys2Proof.Proofs

/-! Faces and drills: their stops and the issue of an instruction (R397, R354). -/

namespace Sys2Proof.Proofs

open Sys2Proof Sys2Proof.Machine Sys2Proof.Laws

namespace Whole

variable {e : Wiped} {m t : Mod}

theorem runDone (h : Whole e m) {c w} : Whole e (Machine.runDone m c w) := (h.otherwise (·.dropPage)).finishBad.ite (h.otherwise (·.dropPage)).finish

theorem finishRuns (h : Whole e m) : Whole e (Machine.finishRuns m) := by
  unfold Machine.finishRuns
  refine h.foldl fun _ _ _ h => ?_
  split
  · exact h.ite ((h.otherwise (·.dropPage)).finishBad.ite h.runDone)
  · exact h

theorem runExit (h : Whole e m) {cid k code} : Whole e (Machine.runExit m cid k code) := by
  unfold Machine.runExit
  split
  · exact h
  · split
    · exact h
    · exact h.setCmd.when (·.runDone)

theorem addStats (h : Whole e m) {s} : Whole e (Machine.addStats m s) := by
  unfold Machine.addStats
  exact h.writeBytes

theorem devWrite (h : Whole e m) {a bs} : Whole e (Machine.devWrite m a bs) := by
  unfold Machine.devWrite
  split
  · split
    next ht => exact (h.allocHost ht).unitWrite
    · exact h.bump
  · exact h.unitWrite

theorem commitSums (h : Whole e m) {f} : Whole e (Machine.commitSums m f) := by
  unfold Machine.commitSums
  split
  · exact h
  · split
    · exact h
    · exact h.setCmd

theorem commitFace (h : Whole e m) {n} : Whole e (Machine.commitFace m n) := by
  unfold Machine.commitFace
  split
  · exact h
  next hf => exact (((h.foldl fun _ _ _ h => h.devWrite).foldl fun _ _ _ h => h.addStats).otherwise (·.commitSums)).setFace (h.face hf).same

theorem snapFace (h : Whole e m) {n} : Whole e (Machine.snapFace m n) := by
  unfold Machine.snapFace
  split
  · exact h
  next f hf =>
    have hface : FaceWhole { f with skews := 0 } := (h.face hf).same
    have hsnap : ∀ x ∈ { f with skews := 0 } :: m.snaps.filter (fun x => x.id != n), FaceWhole x := fun x hx => by
      rcases List.mem_cons.1 hx with rfl | hx
      · exact hface
      · exact h.snaps x (List.mem_filter.1 hx).1
    dsimp only
    split
    · exact ((h.setFace hface).setSnaps hsnap).setCmd
    · exact (h.setFace hface).setSnaps hsnap

/-- The transfers of a stopped face finished. -/
theorem finishXfers (h : Whole e m) {n : Nat} {l : List (Nat × Nat × Nat)} : Whole e (l.foldl (fun m x => match faceOf m n with
    | some g => Machine.setFace m (faceWrite g x.2.1 (faceRead m g x.1 x.2.2))
    | none => m) m) := by
  refine h.foldl fun _ _ _ h => ?_
  split
  next hg => exact h.setFace (h.face hg).write
  · exact h

/-- The faces' records without those of some face. -/
theorem filterSnaps (h : Whole e m) {p : Face → Bool} : Whole e { m with snaps := m.snaps.filter p } :=
  h.setSnaps fun x hx => h.snaps x (List.mem_filter.1 hx).1

theorem face_getD (h : Whole e m) {n : Nat} {f : Face} (hf : FaceWhole f) : FaceWhole ((faceOf m n).getD f) := by
  cases hg : faceOf m n with
  | none => exact hf
  | some g => exact h.face hg

theorem faceStop (h : Whole e m) {n exit cause} : Whole e (Machine.faceStop m n exit cause) := by
  unfold Machine.faceStop
  split
  · exact h
  next f hf =>
    have hdone := (h.commitFace (n := n).finishXfers (n := n) (l := f.xfers)).commitFace (n := n)
    exact runExit (otherwise ((hdone.setFace (hdone.face_getD (h.face hf)).same).filterSnaps) fun h => h.setRegN.setRegN)

theorem drillStop (h : Whole e m) {s n exit st fault} : Whole e (Machine.drillStop m s n exit st fault) := by
  unfold Machine.drillStop
  split
  · exact h
  next hd => exact h.setDrill ((h.drill hd).idle (hidle := .inr (.inl rfl)))

theorem coreExc (h : Whole e m) {c cause a} : Whole e (Machine.coreExc m c cause a) := by
  unfold Machine.coreExc
  split
  · split
    · exact h
    · exact (h.foldl fun _ _ _ h => h.faceStop).logErr.faceStop
  · split
    · exact h
    next hd => exact (h.setDrill (h.drill hd).faultWords.setArea).bump.logErr.drillStop

/-- Held writes applied one after another (R354). -/
theorem applyHeld (h : Whole e m) {l : List (Nat × List (Option Byte))} (hl : ∀ w ∈ l, w.2.length = 32) :
    Whole e (l.foldl (fun m w => Machine.applyMask m w.1 w.2) m) :=
  h.foldl fun _ w hw h => h.applyMask (hl w hw)

theorem drillEnd (h : Whole e m) {s n} : Whole e (Machine.drillEnd m s n) := by
  unfold Machine.drillEnd
  split
  · exact h
  next d hd =>
    obtain ⟨-, hq, hp, hheld⟩ := h.drill hd
    refine h.otherwise fun h => ?_
    have hready : Whole e (Machine.setDrill { m with draws := m.draws + 1 } (Machine.setArea { d with
        ready := true, ended := false, held := [], cmd := none, st := if d.exit ≤ 0xEF then 0 else d.st } 0x68 (Config.cycles m.draws % 2 ^ 32))) :=
      h.rest.setDrill ⟨.inr nofun, hq, hp, nofun⟩
    exact (((hready.applyHeld hheld).drainStalled.bump.raiseBits).when (·.blockEvt)).sweepFreed.runExit

theorem drillEccStop (h : Whole e m) {s n a} : Whole e (Machine.drillEccStop m s n a) := by
  unfold Machine.drillEccStop
  split
  · exact h
  next hd => exact (h.setDrill (h.drill hd).faultWords).bump.logErr.eccEvent.drillStop

theorem issue (h : Whole e m) {c w body} (hb : Whole e m → Whole e (body m)) : Whole e (Machine.issue m c w body) := by
  unfold Machine.issue
  split
  · exact h
  · exact h.coreExc
  · exact h.coreExc.ite (h.when hb)

end Whole

end Sys2Proof.Proofs

/-! Scalar instructions. -/

namespace Sys2Proof.Proofs

open Sys2Proof Sys2Proof.Machine Sys2Proof.Laws

namespace Whole

variable {e : Wiped} {m t : Mod}

theorem scalarOp (h : Whole e m) {c w rd v} : Whole e (Machine.scalarOp m c w rd v) := h.issue fun h => h.writeX

theorem aluRun (h : Whole e m) {c rd rs1 rs2 f} : Whole e (Machine.aluRun m c rd rs1 rs2 f) := h.scalarOp

theorem addiRun (h : Whole e m) {c rd rs1 imm} : Whole e (Machine.addiRun m c rd rs1 imm) := h.scalarOp

theorem andiRun (h : Whole e m) {c rd rs1 imm} : Whole e (Machine.andiRun m c rd rs1 imm) := h.scalarOp

theorem oriRun (h : Whole e m) {c rd rs1 imm} : Whole e (Machine.oriRun m c rd rs1 imm) := h.scalarOp

theorem xoriRun (h : Whole e m) {c rd rs1 imm} : Whole e (Machine.xoriRun m c rd rs1 imm) := h.scalarOp

theorem luiRun (h : Whole e m) {c rd rs1 imm} : Whole e (Machine.luiRun m c rd rs1 imm) := h.scalarOp

theorem shiRun (h : Whole e m) {c rd rs1 imm} : Whole e (Machine.shiRun m c rd rs1 imm) := h.scalarOp

theorem loadRun (h : Whole e m) {c w rd rs1 imm n signed} : Whole e (Machine.loadRun m c w rd rs1 imm n signed) := by
  unfold Machine.loadRun
  dsimp only
  refine h.issue fun h => ?_
  split
  · split
    · exact h
    · split
      · exact h.coreExc
      · exact h.otherwise (·.writeX)
  · split
    · exact h
    · split
      · exact h.coreExc
      · exact h.writeX

theorem storeRun (h : Whole e m) {c w rd rs1 imm n} : Whole e (Machine.storeRun m c w rd rs1 imm n) := by
  unfold Machine.storeRun
  dsimp only
  refine h.issue fun h => ?_
  split
  · split
    · exact h
    next hf =>
      split
      · exact h.coreExc
      · exact (h.setFace (h.face hf).write).next4
  · split
    · exact h
    next hd =>
      split
      · exact h.coreExc
      · exact (h.setDrill (h.drill hd).scratchWrite).next4

theorem branchRun (h : Whole e m) {c op rs1 rs2 off take} : Whole e (Machine.branchRun m c op rs1 rs2 off take) :=
  h.issue fun h => h.setPc.ite h.next4

theorem jalRun (h : Whole e m) {c off} : Whole e (Machine.jalRun m c off) := h.issue fun h => h.setX.setPc

theorem jalrRun (h : Whole e m) {c rd rs1 imm} : Whole e (Machine.jalrRun m c rd rs1 imm) := h.issue fun h => h.setX.setPc

theorem csrrRun (h : Whole e m) {c rd rs1 n} : Whole e (Machine.csrrRun m c rd rs1 n) := by
  unfold Machine.csrrRun
  refine h.issue fun h => ?_
  split
  · split
    · exact h.same.writeX
    · exact h
  · split
    · exact h.same.writeX
    · exact h

theorem setbRun (h : Whole e m) {s n rd rs1 k} : Whole e (Machine.setbRun m s n rd rs1 k) := by
  unfold Machine.setbRun
  split
  · exact h
  · refine h.issue fun h => ?_
    split
    · exact h
    next hd => exact (h.setDrill (h.drill hd).setB).next4

theorem exitRun (h : Whole e m) {c rd rs1} : Whole e (Machine.exitRun m c rd rs1) := by
  unfold Machine.exitRun
  dsimp only
  refine h.issue fun h => ?_
  split
  · exact h.drillStop
  · split
    · exact h
    · split
      · refine h.faceStop.foldl fun _ _ _ h => ?_
        split
        · exact h.logErr.faceStop
        · exact h
      · refine foldl ?_ fun _ _ _ h => h.faceStop
        refine h.faceStop.foldl fun _ _ _ h => ?_
        split
        · exact h.logErr.faceStop
        · exact h

theorem adaptEntry (h : Whole e m) {x} : Whole e (Machine.adaptEntry m x).1 := by
  unfold Machine.adaptEntry
  split
  · exact h
  · dsimp only
    split
    · exact h
    · exact (h.writeBytes : Whole e (Machine.writeBytes m x.statsPtr (toBytes 0 32)))

/-- Scale entries adapted one after another. -/
theorem foldl_adaptEntry (h : Whole e m) {l es : List ScaleEntry} : Whole e (l.foldl (fun (a : Mod × List ScaleEntry) x =>
    ((Machine.adaptEntry a.1 x).1, a.2 ++ [(Machine.adaptEntry a.1 x).2])) (m, es)).1 := by
  induction l generalizing m es with
  | nil => exact h
  | cons x l ih => exact ih h.adaptEntry

theorem adaptAll (h : Whole e m) {cid} : Whole e (Machine.adaptAll m cid) := by
  unfold Machine.adaptAll
  split
  · exact h
  · split
    · exact h
    · refine setCmd ?_
      exact h.foldl_adaptEntry.otherwise (·.writeBytes)

theorem syncRun (h : Whole e m) {n rd rs1 step} : Whole e (Machine.syncRun m n rd rs1 step) := by
  refine h.issue fun h => ?_
  split
  · exact h
  next f hf =>
    have hwait : Whole e (Machine.setFace m { f with wait := some (f.pc, step) }) := h.setFace (h.face hf).same
    have hdone := hwait.foldl (l := facesOfCmd (Machine.setFace m { f with wait := some (f.pc, step) }) f.cmd) fun _ k _ h => h.commitFace (n := k)
    refine h.coreExc.ite (hwait.otherwise fun _ => foldl (foldl ?_ fun _ _ _ h => ?_) fun _ _ _ h => h.snapFace)
    · split
      · exact hdone.getD_map fun _ _ => hdone.adaptAll
      · exact hdone
    · split
      next hg => exact h.setFace (h.face hg).same
      · exact h

end Whole

end Sys2Proof.Proofs

/-! Vector instructions: each lane keeps its place, so the lengths stay. -/

namespace Sys2Proof.Proofs

open Sys2Proof Sys2Proof.Machine Sys2Proof.Laws

namespace Whole

variable {e : Wiped} {m t : Mod}

theorem vecRun (h : Whole e m) {n w body} (hb : ∀ {f}, FaceWhole f → FaceWhole (body f)) : Whole e (Machine.vecRun m n w body) :=
  h.issue fun h => by
    split
    · exact h
    next hf => exact (h.setFace (hb (h.face hf))).next4

theorem vecArith (h : Whole e m) {n vd vs1 vs2 k f} : Whole e (Machine.vecArith m n vd vs1 vs2 k f) := h.vecRun fun h => h.setMaskedV

theorem vecFunct (h : Whole e m) {n vd vs1 vs2 k f} : Whole e (Machine.vecFunct m n vd vs1 vs2 k f) := h.vecRun fun h => h.setMaskedV

theorem vecCompare (h : Whole e m) {n vd vs1 vs2 k f} : Whole e (Machine.vecCompare m n vd vs1 vs2 k f) := h.vecRun fun h => h.setMaskedM

theorem vecReduce (h : Whole e m) {n vd vs1 vs2 k f} : Whole e (Machine.vecReduce m n vd vs1 vs2 k f) := h.vecRun fun h => h.setX

theorem vecConvert (h : Whole e m) {n vd vs1 vs2 k f} : Whole e (Machine.vecConvert m n vd vs1 vs2 k f) := by
  refine h.issue fun h => h.coreExc.ite ?_
  split
  · exact h
  next x hx =>
    dsimp only
    split
    · exact (h.setFace ((h.face hx).setV (length_bytesLanes _ _))).next4
    · exact (h.setFace (h.face hx).setMaskedV).next4

theorem vecMove (h : Whole e m) {n vd vs1 vs2 k f} : Whole e (Machine.vecMove m n vd vs1 vs2 k f) := by
  refine h.vecRun fun h => ?_
  dsimp only
  split
  · exact h.setMaskedV
  · exact h.setMaskedV
  · exact h.setX

theorem vldRun (h : Whole e m) {n vd rs1 imm} : Whole e (Machine.vldRun m n vd rs1 imm) := by
  unfold Machine.vldRun
  dsimp only
  refine h.issue fun h => ?_
  split
  · exact h
  next hf =>
    split
    · exact h.coreExc
    · exact h.ite (h.setFace ((h.face hf).setV (length_bytesLanes _ _))).next4

theorem vstRun (h : Whole e m) {n vd rs1 imm} : Whole e (Machine.vstRun m n vd rs1 imm) := by
  unfold Machine.vstRun
  dsimp only
  refine h.issue fun h => ?_
  split
  · exact h
  next hf =>
    split
    · exact h.coreExc
    · exact (h.setFace (h.face hf).write).next4

end Whole

end Sys2Proof.Proofs

/-! Tensor and transfer instructions. -/

namespace Sys2Proof.Proofs

open Sys2Proof Sys2Proof.Machine Sys2Proof.Laws

namespace Whole

variable {e : Wiped} {m t : Mod}

/-- A stopped drill no longer runs, so it needs no registers. -/
theorem drillStop_excepted {s n exit st : Nat} {fault : Bool} (h : Whole (fun a b c => e a b c ∨ (a, b) = (s, n)) m) :
    Whole e (Machine.drillStop m s n exit st fault) := by
  have hrest (d : Drill) (hd : DrillWhole (fun a b c => e a b c ∨ (a, b) = (s, n)) d) (hne : ¬ (d.stack = s ∧ d.n = n)) : DrillWhole e d :=
    { hd with r := hd.r.imp_left fun hx => hx.resolve_right fun hk => hne (Prod.mk.inj hk) }
  unfold Machine.drillStop
  split
  next hnone =>
    refine { h with drills := fun d hd => hrest d (h.drills d hd) ?_ }
    simpa using List.find?_eq_none.1 hnone d hd
  next d hd =>
    obtain ⟨hs, hn⟩ : d.stack = s ∧ d.n = n := by simpa using List.find?_some hd
    refine { h with drills := fun x hx => ?_ }
    obtain ⟨y, hy, rfl⟩ := mem_mapIf hx
    split
    · exact ⟨.inr nofun, (h.drill hd).q, (h.drill hd).p, (h.drill hd).held⟩
    next hne => exact hrest y (h.drills y hy) (by simpa [hs, hn] using hne)

/-- The drills of a list stopped and ended. -/
theorem endDrills_excepted {l : List (Nat × Nat)} {exit : Nat} (h : Whole (fun a b c => e a b c ∨ (a, b) ∈ l) m) :
    Whole e (l.foldl (fun m d => Machine.drillEnd (Machine.drillStop m d.1 d.2 exit 4 false) d.1 d.2) m) := by
  induction l generalizing m with
  | nil => exact h.mono fun _ _ hx => hx.resolve_right List.not_mem_nil
  | cons k l ih =>
    refine ih (drillStop_excepted (h.mono fun d _ hx => ?_)).drillEnd
    rcases hx with hx | hx
    · exact .inl (.inl hx)
    · exact (List.mem_cons.1 hx).elim .inr fun hx => .inl (.inr hx)

/-- The drills that run for a command, named. -/
theorem running_excepted {cid : Nat} (h : Whole (fun a b c => e a b c ∨ c = some cid) m) :
    Whole (fun a b c => e a b c ∨ (a, b) ∈ (m.drills.filter fun d => d.cmd = some cid && !d.ready).map fun d => (d.stack, d.n)) m :=
  { h with
    drills := fun d hd => { h.drills d hd with
      r := by
        rcases (h.drills d hd).r with (he | hc) | hr
        · exact .inl (.inl he)
        · cases hready : d.ready with
          | true => exact .inr nofun
          | false => exact .inl (.inr (List.mem_map.2 ⟨d, List.mem_filter.2 ⟨hd, by simp [hc, hready]⟩, rfl⟩))
        · exact .inr hr } }

/-- The stop of a command ends all its drills, also one without registers. -/
theorem cmdStop_excepted {cid exit status info : Nat} {c : Cmd} (hc : cmdOf m cid = some c)
    (h : Whole (fun a b c => e a b c ∨ c = some cid) m) : Whole e (Machine.cmdStop m cid exit status info) := by
  have hend := endDrills_excepted (exit := exit) (running_excepted ((h.setCmd (c := { c with run := none })).foldl
    (l := facesOfCmd (Machine.setCmd m { c with run := none }) (some cid)) fun _ k _ h => h.faceStop (n := k) (exit := exit) (cause := 0)))
  have hdrop := hend.otherwise (c := (c.run.map (·.scaleAt)).getD 0 = 0) (·.dropPage (pg := pageNo ((c.run.map (·.scaleAt)).getD 0)))
  unfold Machine.cmdStop
  rw [hc]
  dsimp only
  split
  · exact hdrop.finishBad
  · exact hdrop

theorem cmdStop (h : Whole e m) {cid exit status info} : Whole e (Machine.cmdStop m cid exit status info) := by
  cases hc : cmdOf m cid with
  | none =>
    unfold Machine.cmdStop
    rw [hc]
    exact h
  | some c => exact cmdStop_excepted hc (h.mono fun _ _ => .inl)

theorem replayFace (h : Whole e m) {n} : Whole e (Machine.replayFace m n) := by
  unfold Machine.replayFace
  split
  next hg => exact h.setFace (h.snap hg).same
  · exact h

theorem skewSeen (h : Whole e m) {n second want got group} : Whole e (Machine.skewSeen m n second want got group) := h.bump.logErrC.when (·.blockEvt)

theorem skewAt (h : Whole e m) {n want got group} : Whole e (Machine.skewAt m n want got group) := by
  unfold Machine.skewAt
  split
  · exact h
  next hf => exact (h.skewSeen.setFace (h.face hf).same).replayFace.ite (h.skewSeen.setFace (h.face hf).same)

theorem endSkews (h : Whole e m) : Whole e (Machine.endSkews m) := h.foldl fun _ _ _ h => h.getD_map fun _ _ => h.bump.cmdStop

theorem vecConvertChecked (h : Whole e m) {n vd vs1 vs2 k f skew} : Whole e (Machine.vecConvertChecked m n vd vs1 vs2 k f skew) := by
  unfold Machine.vecConvertChecked
  split
  · exact h.vecConvert
  · exact (h.issue fun h => h.skewAt).ite h.vecConvert

theorem tdescRun (h : Whole e m) {n w} : Whole e (Machine.tdescRun m n w) := by
  unfold Machine.tdescRun
  dsimp only
  refine h.issue fun h => ?_
  split
  · exact h
  next hf =>
    split
    · exact h.coreExc
    · split
      · exact h.recallRange
      · split
        · exact h.getD_map fun _ _ => h.cmdStop
        · split
          · exact h.coreExc
          · exact (h.setFace (h.face hf).setTd).next4

theorem torgRun (h : Whole e m) {n w} : Whole e (Machine.torgRun m n w) := by
  unfold Machine.torgRun
  refine h.issue fun h => ?_
  split
  · exact h
  next hf => exact (h.setFace (h.face hf).setTd).next4

theorem drainWait (h : Whole e m) {f} (hf : FaceWhole f) : Whole e (Machine.drainWait m f) := h.setFace hf.same

theorem drainStall (h : Whole e m) {f} (hf : FaceWhole f) : Whole e (Machine.drainStall m f) := h.otherwise fun h => (h.drainWait hf).bump

theorem tmmaRun (h : Whole e m) {n w} : Whole e (Machine.tmmaRun m n w) := by
  refine h.issue fun h => ?_
  split
  · exact h
  next hf =>
    refine (h.drainStall (h.face hf)).ite ?_
    dsimp only
    split
    · exact h.coreExc
    · refine ite (h.foldl fun _ _ _ h => h.otherwise (·.recallRange)) (ite (h.getD_map fun _ _ => h.cmdStop) ?_)
      split
      · exact h.skewAt
      · exact (h.setFace (h.face hf).setAcc.same).next4

theorem countTile (h : Whole e m) {n cfg fl} : Whole e (Machine.countTile m n cfg fl) := h.bump.raiseBits.bump.bump.when (·.blockEvt)

theorem writeTile (h : Whole e m) {n ti si y} : Whole e (Machine.writeTile m n ti si y) := by
  unfold Machine.writeTile
  split
  · exact h
  next f hf =>
    dsimp only
    exact ((((h.rest (m := m)).setFace (((h.face hf).takeTag.putTile).setAcc.same)).countMarks.bump.bump).when (·.blockEvt)).countTile.next4

theorem epilogue (h : Whole e m) {n ti si ea tile} : Whole e (Machine.epilogue m n ti si ea tile) := by
  unfold Machine.epilogue
  split
  · exact h
  next hf => exact (h.setFace (h.face hf).setTd).writeTile

theorem tdrainRun (h : Whole e m) {n w skew} : Whole e (Machine.tdrainRun m n w skew) := by
  refine h.issue fun h => ?_
  split
  · exact h
  next hf =>
    refine (h.drainWait (h.face hf)).ite ?_
    split
    · exact h.coreExc
    · split
      · exact h.skewAt
      · exact h.epilogue

theorem drainEndOp (h : Whole e m) {n set} : Whole e (Machine.drainEndOp m n set) := by
  unfold Machine.drainEndOp
  split
  · exact h
  next hf => exact h.when fun h => h.setFace (h.face hf).setAcc

theorem tstatRun (h : Whole e m) {n w} : Whole e (Machine.tstatRun m n w) := by
  unfold Machine.tstatRun
  refine h.issue fun h => ?_
  split
  · exact h
  next hf => exact h.ite (h.setFace (h.face hf).setX).next4

theorem ksAccept (h : Whole e m) {d k tile cmd dups} : Whole e (Machine.ksAccept m d k tile cmd dups).1 := by
  unfold Machine.ksAccept
  split
  · exact h.bump
  · exact h.writeBytes.rest.foldl fun _ _ _ h => h.ksAdd

theorem ksAcceptOp (h : Whole e m) {face d k tile} : Whole e (Machine.ksAcceptOp m face d k tile) := h.otherwise (·.ksAccept)

theorem ksSend (h : Whole e m) {node d k cid face tile} : Whole e (Machine.ksSend m node d k cid face tile) := h.same.foldl fun _ _ _ h => h.sendAddr

theorem tpartEnd (h : Whole e m) {n w full} : Whole e (Machine.tpartEnd m n w full) := by
  unfold Machine.tpartEnd
  split
  · exact h
  next hf => exact (h.bump.setFace (h.face hf).setX.setAcc.same).countTile.next4

theorem tpartRun (h : Whole e m) {n w owner} : Whole e (Machine.tpartRun m n w owner) := by
  refine h.issue fun h => ?_
  split
  · exact h
  next hf =>
    refine (h.drainWait (h.face hf)).ite ?_
    dsimp only
    split
    · exact h.coreExc.ite (h.coreExc.ite (h.otherwise fun h => h.rest.ksSend.tpartEnd))
    · refine h.coreExc.ite ?_
      split
      · exact h.coreExc
      · exact h.coreExc.ite (h.otherwise fun h => h.ksAccept.tpartEnd)

theorem tfinRun (h : Whole e m) {n w skew} : Whole e (Machine.tfinRun m n w skew) := by
  refine h.issue fun h => ?_
  split
  · exact h
  next hf =>
    refine h.coreExc.ite ?_
    split
    · exact h.coreExc
    · refine h.coreExc.ite ?_
      split
      · exact h.coreExc
      · refine (h.drainWait (h.face hf)).ite (h.otherwise fun h => ite (h.getD_map fun _ _ => h.cmdStop) ?_)
        split
        · exact h.skewAt
        · exact (h.rest.setFace (h.face hf).setAcc).epilogue

theorem sectorAddOp (h : Whole e m) {stack x} : Whole e (Machine.sectorAddOp m stack x) := by
  unfold Machine.sectorAddOp
  dsimp only
  split
  · exact h
  · split
    · exact h
    · split
      · split
        · exact h.eccEvent.bump.rest
        · exact h.eccEvent.bump.rest.updateUndo.finishBad.ite h.eccEvent.bump.rest.cmdStop
      · exact ((h.when (·.eccEvent.bump)).rest.applyAdd.ite (h.when (·.eccEvent.bump)).rest.ksAdd).bump.addDone

theorem xferRun (h : Whole e m) {n rd rs1 rs2 f} : Whole e (Machine.xferRun m n rd rs1 rs2 f) := by
  unfold Machine.xferRun
  dsimp only
  refine h.issue fun h => ?_
  split
  · exact h
  next hx =>
    split
    · exact h.coreExc
    · split
      · exact h.coreExc
      · exact (h.setFace (h.face hx).same).next4

theorem xwaitRun (h : Whole e m) {n w} : Whole e (Machine.xwaitRun m n w) := by
  unfold Machine.xwaitRun
  refine h.issue fun h => ?_
  split
  · exact h
  next hf =>
    exact (h.foldl fun _ _ _ h => h.otherwise (·.recallRange)).ite ((h.getD_map fun _ _ => h.cmdStop).ite (h.setFace (h.face hf).doXfers).next4)

end Whole

end Sys2Proof.Proofs

/-! Drills: runs and SIMD instructions. -/

namespace Sys2Proof.Proofs

open Sys2Proof Sys2Proof.Machine Sys2Proof.Laws

namespace Whole

variable {e : Wiped} {m t : Mod}

/-- A drill that a doorbell starts needs no registers yet. -/
theorem doorbellOk (h : Whole e m) {d} (hd : DrillWhole (fun _ _ _ => True) d) : Whole e (Machine.doorbellOk m d) := by
  refine foldl (bump (h.setDrill ?_)) fun _ _ _ h => h.addRecall
  exact ⟨.inr fun _ _ hst => absurd hst (by decide : (2 : Nat) ≠ 3), hd.q, hd.p, hd.held⟩

theorem doorbellOp (h : Whole e m) {s n seq mailbox} : Whole e (Machine.doorbellOp m s n seq mailbox) := by
  unfold Machine.doorbellOp
  split
  · exact h
  next hd => exact (h.doorbellOk (h.drill hd).claimed).ite (h.setDrill (h.drill hd).same)

theorem runStart (h : Whole e m) {s n} : Whole e (Machine.runStart m s n) := by
  unfold Machine.runStart
  split
  · exact h
  next hd =>
    refine h.otherwise fun h => h.setDrill ?_
    obtain ⟨-, hq, hp, hheld⟩ := (h.drill hd).drillEntry
    exact ⟨.inr fun _ _ _ => rfl, hq, hp, hheld⟩

theorem watchdogOp (h : Whole e m) {s n} : Whole e (Machine.watchdogOp m s n) := by
  unfold Machine.watchdogOp
  split
  · exact h
  · exact h.when (·.coreExc)

theorem loadCmd (h : Whole e m) {s w v} : Whole e (Machine.loadCmd m s w v) := by
  unfold Machine.loadCmd
  dsimp only
  split
  · exact h.setRegN
  · split
    · exact h.setRegN
    · split
      · exact h.setRegN
      · refine setRegN (h.foldl fun _ _ _ h => ?_)
        split
        next hd => exact h.when (·.setDrill (h.drill hd).loadDrill)
        · exact h

theorem hostResWrite (h : Whole e m) {s v} : Whole e (Machine.hostResWrite m s v) := h.lockViolation.ite (h.ite (h.setRegN.ite h.bump))

theorem mailboxWrite (h : Whole e m) {s w off v} : Whole e (Machine.mailboxWrite m s w off v) := by
  unfold Machine.mailboxWrite
  dsimp only
  split
  · exact h
  next hd => exact h.doorbellOp.ite (h.otherwise fun h => h.when fun h => h.setDrill (h.drill hd).setArea)

theorem memoryWipe (h : Whole e m) : Whole e (Machine.memoryWipe m) :=
  { h with
    drills := fun d hd => by
      obtain ⟨x, hx, rfl⟩ := List.mem_map.1 hd
      exact { h.drills x hx with held := fun _ h => absurd h List.not_mem_nil }
    stalled := fun _ h => absurd h List.not_mem_nil }

theorem drillIssue (h : Whole e m) {s n op w body} (hb : ∀ {d}, DrillWhole e d → DrillWhole e (body d)) :
    Whole e (Machine.drillIssue m s n op w body) :=
  h.issue fun h => by
    split
    · exact h
    next hd => exact (h.setDrill (hb (h.drill hd))).next4

theorem qarithRun (h : Whole e m) {s n w} : Whole e (Machine.qarithRun m s n w) := h.drillIssue fun h => h.setMaskedQ

theorem qfuncRun (h : Whole e m) {s n w} : Whole e (Machine.qfuncRun m s n w) := h.drillIssue fun h => h.setMaskedQ

theorem qcmpRun (h : Whole e m) {s n w} : Whole e (Machine.qcmpRun m s n w) := h.drillIssue fun h => h.setMaskedP

theorem qredRun (h : Whole e m) {s n w} : Whole e (Machine.qredRun m s n w) := h.drillIssue fun h => h.setR

theorem drillSkew (h : Whole e m) {s n k} : Whole e (Machine.drillSkew m s n k) := by
  unfold Machine.drillSkew
  split
  · exact h
  next hd =>
    dsimp only
    split
    · exact h.skewSeen.setDrill (h.drill hd).restarted
    · split
      · exact h.skewSeen.bump.cmdStop
      · exact h.skewSeen.drillStop

theorem qcvtRun (h : Whole e m) {s n w skew} : Whole e (Machine.qcvtRun m s n w skew) := by
  unfold Machine.qcvtRun
  split
  · exact h.issue fun h => h.drillSkew
  · exact h.drillIssue fun h => h.setMaskedQ

theorem qmovRun (h : Whole e m) {s n w} : Whole e (Machine.qmovRun m s n w) := by
  refine h.drillIssue fun h => ?_
  split
  · exact h.setMaskedQ
  · exact h.setR

theorem drillCorr (h : Whole e m) {s a x} : Whole e (Machine.drillCorr m s a x) := h.when (·.eccEvent.bump)

theorem bldRun (h : Whole e m) {s n w x} : Whole e (Machine.bldRun m s n w x) := by
  unfold Machine.bldRun
  dsimp only
  refine h.issue fun h => ?_
  split
  · exact h
  next hd =>
    split
    · exact h.coreExc
    · exact h.drillEccStop.ite (h.drillCorr.setDrill ((h.drill hd).setQ (length_bytesLanes _ _))).next4

theorem bstRun (h : Whole e m) {s n w} : Whole e (Machine.bstRun m s n w) := by
  refine h.issue fun h => ?_
  split
  · exact h
  next d hd =>
    have hlen : (laneBytes (drillQ d (mQ w))).length = 64 := by rw [laneBytes_length, (h.drill hd).lanes]
    dsimp only
    split
    · exact h.coreExc
    · refine h.coreExc.ite (next4 ?_)
      exact (h.applyGran (by rw [List.length_take, hlen]; rfl)).applyGran (by rw [List.length_drop, hlen])

theorem bstwRun (h : Whole e m) {s n w x} : Whole e (Machine.bstwRun m s n w x) := by
  refine h.issue fun h => ?_
  split
  · exact h
  next d _ =>
    dsimp only
    split
    · exact h.coreExc
    next hexc =>
      have halign : bankAddr d w 4 % 4 = 0 := by
        unfold bankExc at hexc
        split at hexc
        · cases hexc
        next hne => simpa using hne
      refine h.coreExc.ite (h.drillEccStop.ite (next4 (h.drillCorr.applyGran ?_)))
      simp only [patch, List.length_append, List.length_take, List.length_drop, toBytes_length, readGran_length]
      omega

theorem qldRun (h : Whole e m) {s n w} : Whole e (Machine.qldRun m s n w) := by
  unfold Machine.qldRun
  dsimp only
  refine h.issue fun h => ?_
  split
  · exact h
  next hd =>
    split
    · exact h.coreExc
    · exact (h.setDrill ((h.drill hd).setQ (length_bytesLanes _ _))).next4

theorem qstRun (h : Whole e m) {s n w} : Whole e (Machine.qstRun m s n w) := by
  unfold Machine.qstRun
  dsimp only
  refine h.issue fun h => ?_
  split
  · exact h
  next hd =>
    split
    · exact h.coreExc
    · exact (h.setDrill (h.drill hd).scratchWrite).next4

theorem qtblRun (h : Whole e m) {s n w} : Whole e (Machine.qtblRun m s n w) := by
  unfold Machine.qtblRun
  refine h.issue fun h => ?_
  split
  · exact h
  next hd => exact h.coreExc.ite (h.setDrill (h.drill hd).setMaskedQ).next4

theorem linsRun (h : Whole e m) {s n rd rs1 rs2 f} : Whole e (Machine.linsRun m s n rd rs1 rs2 f) := by
  unfold Machine.linsRun
  dsimp only
  refine h.issue fun h => ?_
  split
  · exact h
  next hd =>
    split
    · exact h.coreExc
    · split
      · exact h.coreExc
      · exact (h.setDrill (h.drill hd).scratchWrite.scratchWrite).next4

end Whole

end Sys2Proof.Proofs

/-! Encoding of documents. -/

namespace Sys2Proof.Proofs

open Sys2Proof Sys2Proof.Machine Sys2Proof.Laws

namespace Whole

variable {e : Wiped} {m t : Mod}

theorem freeSlot (h : Whole e m) {s} : Whole e (Machine.freeSlot m s) := (h.foldl fun _ _ _ h => h.dropPage).rest

theorem dropSlots (h : Whole e m) {cid} : Whole e (Machine.dropSlots m cid) := h.foldl fun _ _ _ h => h.freeSlot

theorem embedFail (h : Whole e m) {c status info} : Whole e (Machine.embedFail m c status info) := by
  unfold Machine.embedFail
  refine finishBad ?_
  split
  · exact h.dropSlots.when (·.dropBatch)
  · exact h.dropSlots

theorem stackPage (h : Whole e m) {s pg} (ht : Machine.stackPage m s = some (pg, t)) : Whole e t := by
  unfold Machine.stackPage at ht
  dsimp only at ht
  split at ht
  · cases ht
    exact (h.restMem (m := m)).placePage
  · exact h.allocModule ht

theorem reservePages (h : Whole e m) {k s r} (ht : Machine.reservePages k s m = some r) : Whole e r.2 := by
  induction k generalizing m s r with
  | zero => exact Option.some.inj ht ▸ h
  | succ k ih =>
    unfold Machine.reservePages at ht
    split at ht
    · cases ht
    next hu =>
      obtain ⟨q, hq, rfl⟩ := Option.map_eq_some_iff.1 ht
      exact (ih (h.stackPage hu) hq : Whole e q.2)

theorem putEmbed (h : Whole e m) {c w} : Whole e (Machine.putEmbed m c w) := h.setCmd

theorem enterSlot (h : Whole e m) {cid i} : Whole e (Machine.enterSlot m cid i) := by
  unfold Machine.enterSlot
  split
  · exact h
  · split
    · extract_lets k
      refine h.otherwise fun h => h.embedFail.ite (h.otherwise fun h => ite (h.otherwise (·.putEmbed.bump)) ?_)
      split
      · exact h
      next ht => exact (h.reservePages ht).rest.putEmbed
    · exact h

theorem setSlot (h : Whole e m) {s} : Whole e (Machine.setSlot m s) := h.same

theorem chunkHit (h : Whole e m) {s c x2} : Whole e (Machine.chunkHit m s c x2) := by
  unfold Machine.chunkHit
  split
  · exact h
  · exact h.embedFail
  · exact h.skewSeen.setSlot.ite h.skewSeen.embedFail

theorem chunkEncode (h : Whole e m) {n hit} : Whole e (Machine.chunkEncode m n hit) := by
  unfold Machine.chunkEncode
  split
  · exact h
  · split
    · exact h
    · exact h.ite ((h.getD_map fun _ _ => h.chunkHit).ite (h.same.foldl fun _ _ _ h => h.writeBytes).setSlot)

theorem attnPartial (h : Whole e m) {n stack drill q qv hit} : Whole e (Machine.attnPartial m n stack drill q qv hit) := by
  unfold Machine.attnPartial
  split
  · exact h
  · split
    · exact h
    · exact h.ite ((h.getD_map fun _ _ => h.chunkHit).ite h.setSlot)

theorem partialFoldOp (h : Whole e m) {n q own} : Whole e (Machine.partialFoldOp m n q own) := by
  unfold Machine.partialFoldOp
  split
  · exact h
  · split
    · exact h
    · split
      · exact h
      · split
        · exact h.otherwise (·.setSlot)
        · split
          · exact h
          · exact h.setSlot

theorem docComplete (h : Whole e m) {n} : Whole e (Machine.docComplete m n) := by
  unfold Machine.docComplete
  split
  · exact h
  · split
    · split
      · exact h
      · exact h.ite (h.same.freeSlot.bump.embedFail.ite (h.same.freeSlot.bump.setCmd.otherwise (·.countMarks.writePtr)))
    · exact h

theorem embedRun (h : Whole e m) {cid} : Whole e (Machine.embedRun m cid) := by
  unfold Machine.embedRun
  split
  · exact h
  · split
    · exact h
    · exact h.otherwise fun h => h.otherwise (·.finish)

theorem embedInsertRun (h : Whole e m) {cid} : Whole e (Machine.embedInsertRun m cid) := by
  unfold Machine.embedInsertRun
  split
  · exact h
  · split
    · exact h.ite (h.setColl.foldl fun _ _ _ h => h.stockWrite).setCmd.record
    · exact h

end Whole

end Sys2Proof.Proofs

/-! Runs, hints and packages. -/

namespace Sys2Proof.Proofs

open Sys2Proof Sys2Proof.Machine Sys2Proof.Laws

namespace Whole

variable {e : Wiped} {m t : Mod}

theorem countUnits (h : Whole e m) {c g s} : Whole e (Machine.countUnits m c g s) := by
  unfold Machine.countUnits
  split
  · split
    · exact h
    · exact h.bump.ite h.bump
  · exact h

theorem fetchRun (h : Whole e m) {cid} : Whole e (Machine.fetchRun m cid) := by
  unfold Machine.fetchRun
  split
  · exact h
  · split
    · exact h
    · split
      · exact h
      · exact h.ite (h.outClaim.ite (h.foldl fun _ _ _ h => h.countUnits).writePtr.finish)

theorem runFaceStart (h : Whole e m) {cid} : Whole e (Machine.runFaceStart m cid) := by
  unfold Machine.runFaceStart
  split
  · exact h
  · split
    · split
      · exact h
      · dsimp only
        split
        · exact h
        · split
          · exact h
          next ht =>
            refine setCmd ((h.allocModule ht).writeBytes.foldl fun _ _ _ h => ?_)
            split
            · exact h
            · exact (h.placed.placed.setRegN.setRegN.setFace .loadFace).snapFace
    · exact h

theorem runDrillStart (h : Whole e m) {cid} : Whole e (Machine.runDrillStart m cid) := by
  unfold Machine.runDrillStart
  dsimp only
  split
  · exact h
  · split
    · split
      · exact h
      · refine h.otherwise fun h => h.setCmd.foldl fun _ _ _ h => ?_
        split
        · exact h
        next hd => exact h.doorbellOk (h.drill hd).loadDrill.declare.claimed
    · exact h

theorem hintPage (h : Whole e m) {c pg} : Whole e (Machine.hintPage c m pg) := by
  unfold Machine.hintPage
  dsimp only
  split
  · exact h.when (·.same)
  next he =>
    split
    · exact h.setEnt_of he
    · split
      · exact h
      · split
        · exact h
        · exact h.addNewMove

theorem hintRun (h : Whole e m) {cid} : Whole e (Machine.hintRun m cid) := by
  unfold Machine.hintRun
  split
  · exact h
  · split
    · exact h
    · split
      · exact h.when (·.setCmd.hintPage)
      · exact h.otherwise (·.finish)

theorem flushRun (h : Whole e m) {cid} : Whole e (Machine.flushRun m cid) := by
  unfold Machine.flushRun
  split
  · exact h
  · exact h.otherwise fun h => h.otherwise (·.finish)

theorem fenceRun (h : Whole e m) {cid} : Whole e (Machine.fenceRun m cid) := by
  unfold Machine.fenceRun
  split
  · exact h
  · exact h.otherwise fun h => h.otherwise (·.finish)

theorem stopCmd (h : Whole e m) {c status info} : Whole e (Machine.stopCmd m c status info) := by
  unfold Machine.stopCmd
  split
  · exact h.embedFail
  · exact h.cmdStop
  · exact h.cmdStop
  · exact h.finishBad

theorem workEnd (h : Whole e m) {c status exit} : Whole e (Machine.workEnd m c status exit) := by
  unfold Machine.workEnd
  split
  · exact h.embedFail
  · exact h.embedFail
  · exact h.closeStep.finishBad
  · split
    · exact h.buildFail
    · exact h.finishBad
  · exact h.updateUndo.finishBad
  · exact h.cmdStop
  · exact h.cmdStop
  · exact h.finishBad

theorem abortAdmit (h : Whole e m) {c} : Whole e (Machine.abortAdmit m c) := (h.foldl fun _ _ _ h => h.stopCmd.ite h.finishBad).finish

theorem stopTickOp (h : Whole e m) {cid} : Whole e (Machine.stopTickOp m cid) := by
  unfold Machine.stopTickOp
  split
  · exact h
  · exact h.when (·.stopCmd)

theorem tablePages (h : Whole e m) {k p r} (ht : Machine.tablePages k p m = some r) : Whole e r.2 := by
  induction k generalizing m p r with
  | zero => exact Option.some.inj ht ▸ h
  | succ k ih =>
    unfold Machine.tablePages at ht
    split at ht
    · cases ht
    next hu =>
      obtain ⟨q, hq, rfl⟩ := Option.map_eq_some_iff.1 ht
      exact (ih (h.allocModule hu) hq : Whole e q.2)

theorem tablesPages (h : Whole e m) {l r} (ht : Machine.tablesPages l m = some r) : Whole e r.2 := by
  induction l generalizing m r with
  | nil => exact Option.some.inj ht ▸ h
  | cons x l ih =>
    unfold Machine.tablesPages at ht
    split at ht
    · cases ht
    next hu =>
      obtain ⟨q, hq, rfl⟩ := Option.map_eq_some_iff.1 ht
      exact (ih (h.tablePages hu) hq : Whole e q.2)

theorem writeTable (h : Whole e m) {p tno k} : Whole e (Machine.writeTable p tno k m) := h.foldl fun _ _ _ h => h.writeBytes

theorem benchWeights (h : Whole e m) {p l r} (ht : Machine.benchWeights p l m = some r) : Whole e r.2 := by
  induction l generalizing m p with
  | nil => exact Option.some.inj ht ▸ h
  | cons i l ih =>
    unfold Machine.benchWeights at ht
    split at ht
    · cases ht
    next hu => exact ih (h.allocModule hu).writeBytes ht

theorem moveWeights (h : Whole e m) {p} : Whole e (Machine.moveWeights m p) := h.otherwise fun h => h.same.foldl fun _ _ _ h => h.dropPage

theorem placeWeights (h : Whole e m) {p r} (ht : Machine.placeWeights m p = some r) : Whole e r.2 := h.benchWeights ht

theorem modelRun (h : Whole e m) {cid} : Whole e (Machine.modelRun m cid) := by
  obtain ⟨tables, htables⟩ := exists_eq (a' := Machine.tablesPages)
  obtain ⟨place, hplace⟩ := exists_eq (a' := Machine.placeWeights)
  unfold Machine.modelRun
  rw [← htables, ← hplace]
  split
  · exact h
  · refine h.otherwise fun h => ?_
    split
    · exact h.finishBad
    · refine h.finishBad.ite ?_
      split
      · exact h.finishBad
      · refine h.finishBad.ite ?_
        dsimp only
        split
        · exact h
        next hp =>
          split
          · exact h
          next hq =>
            rw [htables] at hp
            rw [hplace] at hq
            have hplaced := (h.tablesPages hp).placeWeights hq
            refine setCmd (addRecord (foldl (foldl hplaced.rest fun _ _ _ h => h.writeTable).imagePages fun _ _ _ h => ?_))
            split
            next he => exact h.setEnt_of he
            · exact h

theorem keepRun (h : Whole e m) {cid w} : Whole e (Machine.keepRun m cid w) := by
  unfold Machine.keepRun
  split
  · exact h
  · split
    · split
      · exact h
      · dsimp only
        split
        · exact h
        next q u hq =>
          have hu : Whole e u := by
            split at hq
            · cases hq
              exact h
            · exact h.placeWeights hq
          exact hu.rest.addRecord
    · exact h

theorem makeCurrent (h : Whole e m) {id ver} : Whole e (Machine.makeCurrent m id ver) := h.same

theorem sweepPkgs (h : Whole e m) : Whole e (Machine.sweepPkgs m) :=
  h.ite (((h.same.foldl fun _ _ _ h => h.releasePage).foldl fun _ _ _ h => h.dropPage).foldl fun _ _ _ h => h.moveWeights)

theorem walkHurt (h : Whole e m) {x h'} : Whole e (Machine.walkHurt m x h') := h.eccEvent.logErr.markSeg.finishBad

theorem walkStartOp (h : Whole e m) {cid seg hurt} : Whole e (Machine.walkStartOp m cid seg hurt) := by
  unfold Machine.walkStartOp
  split
  · exact h.when (·.walkHurt)
  · exact h.walkStart

theorem walkExpansion (h : Whole e m) {cid seg hurt} : Whole e (Machine.walkExpansion m cid seg hurt) := by
  unfold Machine.walkExpansion
  split
  · exact h.when (·.walkHurt)
  · exact h.walkExpand

theorem scanHurt (h : Whole e m) {ids} : Whole e (Machine.scanHurt m ids) := by
  unfold Machine.scanHurt
  refine h.foldl fun _ _ _ h => ?_
  split
  · exact h.finishBad
  · exact h

theorem stockScan (h : Whole e m) {coll stack drill slice last hurt} : Whole e (Machine.stockScan m coll stack drill slice last hurt) := by
  unfold Machine.stockScan
  split
  · exact h
  · exact h.ite (h.scanHurt.ite (h.foldl fun _ _ _ h => h.scanOne))

theorem writeTables (h : Whole e m) {co sg ids} : Whole e (Machine.writeTables m co sg ids) := h.same

theorem flatScan (h : Whole e m) {coll seg hurt} : Whole e (Machine.flatScan m coll seg hurt) := by
  unfold Machine.flatScan
  dsimp only
  split
  · split
    · exact h
    · exact h.ite (h.scanHurt.markSeg.ite (h.writeTables.foldl fun _ _ _ h => h.flatOne))
  · exact h

end Whole

end Sys2Proof.Proofs

/-! Programming of ledger groups. -/

namespace Sys2Proof.Proofs

open Sys2Proof Sys2Proof.Machine Sys2Proof.Laws

namespace Whole

variable {e : Wiped} {m t : Mod}

theorem finishRec (h : Whole e m) {r} : Whole e (Machine.finishRec m r) := by
  unfold Machine.finishRec
  split
  · exact h.when (·.finish)
  · exact h

theorem stepDurable (h : Whole e m) {r p} : Whole e (Machine.stepDurable m r p) := by
  unfold Machine.stepDurable
  split
  · exact h
  · split
    · exact h
    · split
      · exact h
      · exact h.otherwise (·.setColl.finish)

theorem dropCkpts (h : Whole e m) {r} : Whole e (Machine.dropCkpts m r) := by
  unfold Machine.dropCkpts
  split
  · exact h.foldl fun _ _ _ h => h.releasePage
  · exact h

theorem progMod (h : Whole e m) {r} : Whole e (Machine.progMod m r) := by
  unfold Machine.progMod
  split
  · exact h.stepDurable.ite h.finishRec
  · exact h.dropCkpts.finishRec
  · exact h.otherwise (·.same.alert.sendIbi.aditSend)
  · exact h.finishRec

theorem progRecord (h : Whole e m) {lsn} : Whole e (Machine.progRecord m lsn) := by
  unfold Machine.progRecord
  split
  · exact h
  · refine progMod ?_
    split
    · exact (h.setRecord.rest.when (·.setRegN)).setColl
    · exact h.setRecord.rest.when (·.setRegN)

theorem progReady (h : Whole e m) : Whole e (Machine.progReady m) := h.foldl fun _ _ _ h => h.progRecord

theorem countGroup (h : Whole e m) {g} : Whole e (Machine.countGroup m g) := h.bump.bump

theorem zoneCopies (h : Whole e m) {g} : Whole e (Machine.zoneCopies m g) := h.same

theorem groupProgrammedOp (h : Whole e m) {g} : Whole e (Machine.groupProgrammedOp m g) :=
  (h.same.bump.foldl fun _ _ _ h => h.countGroup.zoneCopies).progReady.enterRing.ite h

theorem groupFailOp (h : Whole e m) {g} : Whole e (Machine.groupFailOp m g) := h.same

theorem applyVersion (h : Whole e m) {lsn} : Whole e (Machine.applyVersion m lsn) := by
  unfold Machine.applyVersion
  split
  · exact h
  · split
    · exact h.setRecord.makeCurrent
    · exact h.setRecord.applyRecord

theorem publishSlot (h : Whole e m) : Whole e (Machine.publishSlot m) := h.ite (h.foldl fun _ _ _ h => h.applyVersion).sweepGens.sweepPkgs

theorem setImage (h : Whole e m) {i} : Whole e (Machine.setImage m i) := h.same.addRecord

theorem refreshTables (h : Whole e m) : Whole e (Machine.refreshTables m) := h.same

theorem imageRefreshOp (h : Whole e m) {coll} : Whole e (Machine.imageRefreshOp m coll) := h.ite (h.draw.refreshTables.setImage.ite h.draw.setImage)

end Whole

end Sys2Proof.Proofs

/-! Links. -/

namespace Sys2Proof.Proofs

open Sys2Proof Sys2Proof.Machine Sys2Proof.Laws

namespace Whole

variable {e : Wiped} {m t : Mod}

theorem setLink (h : Whole e m) {l r} : Whole e (Machine.setLink m l r) := by
  unfold Machine.setLink
  split
  · exact h.same
  · split
    · exact h.setPort
    · exact h

theorem linkFlush (h : Whole e m) {x0} : Whole e (Machine.linkFlush m x0) := by
  unfold Machine.linkFlush
  split
  · exact h.flushHeld
  · exact h.portFlush

theorem countCrc (h : Whole e m) {l} : Whole e (Machine.countCrc m l) := by
  unfold Machine.countCrc
  split
  · exact h.bump
  · exact h.bump

theorem countReplay (h : Whole e m) {l} : Whole e (Machine.countReplay m l) := by
  unfold Machine.countReplay
  split
  · exact h.bump
  · exact h.bump

theorem losePort (h : Whole e m) {n} : Whole e (Machine.losePort m n) := by
  unfold Machine.losePort
  split
  · exact h
  · exact h.otherwise (·.setPort.bump.notice)

theorem enterRecovery (h : Whole e m) {l wide} : Whole e (Machine.enterRecovery m l wide) := by
  unfold Machine.enterRecovery
  dsimp only
  split
  · exact h
  · split
    · exact h
    · split
      · exact h.setLink.bump.rest
      · exact h.setLink.losePort

theorem protocolError (h : Whole e m) {l op tag} : Whole e (Machine.protocolError m l op tag) := h.logErr.enterRecovery

theorem recoveryOp (h : Whole e m) {l protocol op tag} : Whole e (Machine.recoveryOp m l protocol op tag) := by
  unfold Machine.recoveryOp
  split
  · exact h.ite (h.protocolError.ite h.enterRecovery)
  · exact h

theorem recoveryFailOp (h : Whole e m) {l} : Whole e (Machine.recoveryFailOp m l) := by
  unfold Machine.recoveryFailOp
  split
  · exact h
  · split
    · exact h
    · split
      · exact h.setLink
      · split
        · exact h.setLink.rest.requestReset
        · exact h.setLink

theorem linkLossOp (h : Whole e m) : Whole e (Machine.linkLossOp m) := by
  unfold Machine.linkLossOp
  split
  · exact h.when (·.requestReset)
  · exact h

theorem takeFlit (h : Whole e m) {l r h'} : Whole e (Machine.takeFlit m l r h') := h.protocolError.ite h.setLink.linkFlush

theorem flitOp (h : Whole e m) {l corrected fecOk f} : Whole e (Machine.flitOp m l corrected fecOk f) := by
  unfold Machine.flitOp
  split
  · exact h
  · exact h.ite ((h.when (·.bump)).takeFlit.ite (h.when (·.bump)).setLink.countCrc.logErr)

theorem retryOp (h : Whole e m) {l seq} : Whole e (Machine.retryOp m l seq) := by
  unfold Machine.retryOp
  split
  · exact h
  · exact h.otherwise fun h => h.countReplay.setLink.logErr.when (·.enterRecovery)

theorem ackOp (h : Whole e m) {l seq} : Whole e (Machine.ackOp m l seq) := by
  unfold Machine.ackOp
  split
  · exact h
  · exact h.when (·.setLink.linkFlush)

theorem creditOp (h : Whole e m) {l lane slots} : Whole e (Machine.creditOp m l lane slots) := by
  unfold Machine.creditOp
  split
  · exact h
  · exact h.when (·.setLink.linkFlush)

theorem detectOp (h : Whole e m) {l lanes} : Whole e (Machine.detectOp m l lanes) := by
  unfold Machine.detectOp
  split
  · exact h
  · exact h.when (·.setLink)

theorem equalisedOp (h : Whole e m) {l} : Whole e (Machine.equalisedOp m l) := by
  unfold Machine.equalisedOp
  split
  · exact h
  · exact h.when (·.setLink)

theorem activeOp (h : Whole e m) {l lanes} : Whole e (Machine.activeOp m l lanes) := by
  unfold Machine.activeOp
  dsimp only
  split
  · exact h
  · split
    · exact h
    · split
      · exact (h.setLink.when (·.blockEvt)).flushHeld
      · split
        · exact (h.setLink.when (·.blockEvt)).rest.setPort.portFlush
        · exact h.setLink.when (·.blockEvt)

theorem portEnableOp (h : Whole e m) {n en} : Whole e (Machine.portEnableOp m n en) := by
  unfold Machine.portEnableOp
  dsimp only
  split
  · exact h
  · split
    · exact h.setRegN
    · split
      · exact h.setRegN.losePort.setPort
      · exact h.setRegN.losePort

theorem portLossOp (h : Whole e m) {n} : Whole e (Machine.portLossOp m n) := by
  unfold Machine.portLossOp
  split
  · exact h
  · exact h.when (·.losePort)

theorem stallDropOp (h : Whole e m) {n} : Whole e (Machine.stallDropOp m n) := by
  unfold Machine.stallDropOp
  split
  · exact h
  · split
    · exact h
    · exact h.when (·.setPort.bump)

end Whole

end Sys2Proof.Proofs

/-! The host's demands on memory. -/

namespace Sys2Proof.Proofs

open Sys2Proof Sys2Proof.Machine Sys2Proof.Laws

namespace Whole

variable {e : Wiped} {m t : Mod}

theorem countErr (h : Whole e m) {status} : Whole e (Machine.countErr m status) := h.otherwise (·.bump)

theorem ackMsg (h : Whole e m) {tag status} : Whole e (Machine.ackMsg m tag status) := h.countErr.sendMsg

theorem replyMsg (h : Whole e m) {tag status lease data} : Whole e (Machine.replyMsg m tag status lease data) := h.countErr.sendMsg

theorem readEvent (h : Whole e m) {a x} : Whole e (Machine.readEvent m a x) := by
  unfold Machine.readEvent
  split
  · exact h
  · split
    · exact h.eccEvent
    · split
      · exact h
      · exact h.bump.logErr
      · exact h.bump.logErr

theorem serveRead (h : Whole e m) {tag a n lease x} : Whole e (Machine.serveRead m tag a n lease x) := by
  unfold Machine.serveRead
  dsimp only
  split
  · exact h.replyMsg
  · split
    · exact (h.otherwise (·.readEvent)).replyMsg
    · refine replyMsg ?_
      refine otherwise ?_ (·.setLease)
      split
      · exact (h.when (·.readEvent)).when (·.bump)
      · exact h.when (·.readEvent)

theorem tryLoad (h : Whole e m) {tag addr n x} : Whole e (Machine.tryLoad m tag addr n x).1 := by
  unfold Machine.tryLoad
  split
  · exact h.replyMsg
  · split
    · exact h
    · exact h.serveRead

theorem tryLease (h : Whole e m) {tag addr want x} : Whole e (Machine.tryLease m tag addr want x).1 := by
  unfold Machine.tryLease
  split
  · exact h.replyMsg
  · split
    · exact h.tryLoad
    · split
      · exact h
      · split
        · split
          · exact h
          · exact h.otherwise (·.addRecall)
        · exact h.serveRead

theorem allocStore (h : Whole e m) {addr n : Nat} (ht : Machine.allocStore m addr n = some t) : Whole e t := by
  unfold Machine.allocStore at ht
  generalize upto _ = l at ht
  induction l generalizing m with
  | nil => exact Option.some.inj ht ▸ h
  | cons i l ih =>
    rw [List.foldl_cons, Option.bind_some] at ht
    cases hu : Machine.allocHost m (pageNo addr + i) with
    | none => rw [hu, foldl_bind_none (fun t i => Machine.allocHost t (pageNo addr + i))] at ht; cases ht
    | some u => exact ih (h.allocHost hu) (hu ▸ ht)

theorem applyStore (h : Whole e m) {gs : List (Nat × List (Option Byte))} {x} (hg : ∀ g ∈ gs, g.2.length = 32) :
    Whole e (Machine.applyStore m gs x) :=
  h.foldl fun _ g hm h => (h.when (·.readEvent)).putMask (hg g hm)

theorem tryStore (h : Whole e m) {tag addr data x} : Whole e (Machine.tryStore m tag addr data x).1 := by
  unfold Machine.tryStore
  dsimp only
  split
  · exact h.ackMsg
  · split
    · exact h.bump.ackMsg
    · split
      · exact h
      · split
        · exact h.countStop
        · split
          · exact h.ackMsg
          · split
            · exact (h.when fun h => h.foldl fun _ _ _ h => h.when (·.readEvent)).ackMsg
            · split
              · exact h.bump.ackMsg
              next ht => exact ((h.allocStore ht).applyStore fun _ hg => storeGrans_length hg).ackMsg

theorem dirtyLine (h : Whole e m) {line d} : Whole e (Machine.dirtyLine m line d) := by
  refine h.foldl fun _ i hi h => ?_
  have hlen : (((toBytes d.toNat 64).drop (32 * i)).take 32).length = 32 := by
    have := List.mem_range.1 hi
    rw [List.length_take, List.length_drop, toBytes_length]
    omega
  dsimp only
  split
  · exact (h.applyGran hlen).ite (h.putGran hlen)
  · exact h.putGran hlen

theorem serveWaiter (h : Whole e m) {x0} : Whole e (Machine.serveWaiter m x0) := by
  unfold Machine.serveWaiter
  split
  · exact h
  · exact h
  · exact h
  · exact h.unitLine

theorem endRecall (h : Whole e m) {r keep} : Whole e (Machine.endRecall m r keep) := h.same.setLease.foldl fun _ _ _ h => h.serveWaiter

theorem takeDirty (h : Whole e m) {line d} : Whole e (Machine.takeDirty m line d) := by
  unfold Machine.takeDirty
  split
  next ht => exact (h.allocHost ht).dirtyLine
  · exact h.bump

theorem surrenderOp (h : Whole e m) {addr dirty} : Whole e (Machine.surrenderOp m addr dirty) := by
  unfold Machine.surrenderOp
  dsimp only
  split
  · exact h
  · split
    · exact h.setLease.when (·.takeDirty)
    · exact h.setLease

theorem recallAckOp (h : Whole e m) {addr keep dirty} : Whole e (Machine.recallAckOp m addr keep dirty) := by
  unfold Machine.recallAckOp
  dsimp only
  split
  · exact h
  · split
    · exact h.same
    · split
      · exact h.protocolError
      · split
        · exact h.protocolError
        · refine endRecall ?_
          split
          · exact h.when (·.takeDirty)
          · exact h

theorem recallTimeoutOp (h : Whole e m) {addr} : Whole e (Machine.recallTimeoutOp m addr) := by
  unfold Machine.recallTimeoutOp
  split
  · exact h
  · exact h.otherwise (·.bump.logErr.blockEvt.rest.endRecall)

theorem answered (h : Whole e m) {tag kinds r} (ht : Machine.answered m tag kinds = some r) : Whole e r.2 := by
  obtain ⟨w, -, rfl⟩ := Option.map_eq_some_iff.1 ht
  exact h.rest

theorem hostAckOp (h : Whole e m) {tag status} : Whole e (Machine.hostAckOp m tag status) := by
  unfold Machine.hostAckOp
  split
  · exact h
  · split
    next hr => exact (h.answered hr).countErr
    · exact h.protocolError

theorem hostReplyOp (h : Whole e m) {tag status len} : Whole e (Machine.hostReplyOp m tag status len) := by
  unfold Machine.hostReplyOp
  split
  · exact h
  · split
    · exact h.protocolError
    · split
      · exact h.protocolError
      next ht => exact (h.answered ht).countErr.otherwise (·.rest)

theorem hostInvOp (h : Whole e m) {tag addr} : Whole e (Machine.hostInvOp m tag addr) := h.otherwise (·.same.sendMsg)

end Whole

end Sys2Proof.Proofs

/-! Units: restarts, replays and moves of work (R571, R377). -/

namespace Sys2Proof.Proofs

open Sys2Proof Sys2Proof.Machine Sys2Proof.Laws

namespace Whole

variable {e : Wiped} {m t : Mod}

theorem replayOnce (h : Whole e m) {c u act} (ha : ∀ {m c}, Whole e m → Whole e (act m c)) : Whole e (Machine.replayOnce m c u act) :=
  h.stopCmd.ite (ha h.setCmd)

theorem replayWalker (h : Whole e m) {die inst} : Whole e (Machine.replayWalker m die inst) := by
  unfold Machine.replayWalker
  refine h.foldl fun _ _ _ h => ?_
  split
  · exact h
  · exact h.ite (h.finishBad.ite h.putSearch.placeWork)

theorem restartSearch (h : Whole e m) {c} : Whole e (Machine.restartSearch m c) := by
  unfold Machine.restartSearch
  split
  · split
    · exact h
    · exact h.putSearch.putSearch.placeSearch
  · exact h

theorem replayDrill (h : Whole e m) {s n} : Whole e (Machine.replayDrill m s n) := by
  unfold Machine.replayDrill
  split
  · exact h
  next d hd =>
    obtain ⟨hs, hn⟩ : d.stack = s ∧ d.n = n := by simpa using List.find?_some hd
    have hwhole := h.drill hd
    have hagain {u : Mod} (hu : Whole e u) : Whole e (Machine.setDrill u (drillAgain m d)) := hu.setDrill hwhole.drillAgain
    have hwiped (e' : Wiped) (he : ∀ a b c, e a b c → e' a b c) (hd : e' d.stack d.n d.cmd) : Whole e' (Machine.setDrill m (wipedDrill d)) :=
      (h.mono fun _ _ => he _ _ _).setDrill (hwhole.wiped hd)
    split
    next hready => exact h.setDrill ⟨.inr fun h => absurd (hready.symm.trans h) nofun, nofun, nofun, hwhole.held⟩
    · dsimp only
      split
      next c hc =>
        obtain ⟨cid, hcmd, hof⟩ := Option.bind_eq_some_iff.1 hc
        have hid : c.id = cid := by simpa using List.find?_some hof
        split
        · exact h.replayOnce fun hu => hagain hu
        · exact cmdStop_excepted (c := c) (hid ▸ hof) (hwiped _ (fun _ _ _ => .inl) (.inr (hid ▸ hcmd)))
      · split
        · exact hagain h
        · exact drillStop_excepted (hwiped _ (fun _ _ _ => .inl) (.inr (by rw [hs, hn])))

theorem moveFace (h : Whole e m) {c n k} : Whole e (Machine.moveFace m c n k) := by
  unfold Machine.moveFace
  split
  · exact h
  next hg =>
    refine ((h.placed.placed.setCmd.setFace (.face0 n)).setFace (h.snap hg).same).setSnaps fun x hx => ?_
    rcases List.mem_cons.1 hx with rfl | hx
    · exact (h.snap hg).same
    · exact h.snaps x (List.mem_filter.1 hx).1

theorem replayFaceUnit (h : Whole e m) {n} : Whole e (Machine.replayFaceUnit m n) := by
  unfold Machine.replayFaceUnit
  split
  · refine h.replayOnce fun h => ?_
    split
    · split
      · exact h.moveFace
      · exact h.stopCmd
    · exact h.replayFace
  · exact h.setFace (.face0 _)

theorem restartMove (h : Whole e m) {v} : Whole e (Machine.restartMove m v) := by
  unfold Machine.restartMove
  dsimp only
  split
  · exact h.abandonMove.setCmd
  · exact h.abandonMove

theorem replayWork (h : Whole e m) {x0} : Whole e (Machine.replayWork m x0) := by
  unfold Machine.replayWork
  split
  · exact h.replayDrill
  · exact h.same
  · split
    · exact h.replayFaceUnit
    · exact h.replayFaceUnit
    · exact h.replayWalker
    · exact h.replayWalker
    · exact h.foldl fun _ _ _ h => h.replayOnce fun h => h.restartSearch
    · exact h.foldl fun _ _ _ h => h.replayOnce fun h => h
    · exact h.foldl fun _ _ _ h => h.abandonMove
    · exact h.foldl fun _ _ _ h => h.restartMove
    · exact h

theorem homePages (h : Whole e m) : Whole e (Machine.homePages m) := by
  unfold Machine.homePages
  refine h.same.foldl fun _ _ _ h => ?_
  split
  · exact h
  next he =>
    split
    · exact h
    · split
      · exact h.otherwise (·.addNewMove)
      · exact h

theorem rehome (h : Whole e m) {d} : Whole e (Machine.rehome m d) := by
  unfold Machine.rehome
  split
  · exact h
  · split
    · exact h
    · exact h.same.rest.restMem.homePages

theorem evacuate (h : Whole e m) {s n} : Whole e (Machine.evacuate m s n) := by
  unfold Machine.evacuate
  refine h.foldl fun _ _ _ h => ?_
  split
  · exact h
  · split
    · exact h.addNewMove
    · exact h

theorem goOnMoves (h : Whole e m) : Whole e (Machine.goOnMoves m) := by
  unfold Machine.goOnMoves
  refine homePages ?_
  refine h.foldl fun _ _ _ h => ?_
  split
  · exact h.when (·.evacuate)
  · exact h

theorem dropPort (h : Whole e m) {n} : Whole e (Machine.dropPort m n) := by
  unfold Machine.dropPort
  split
  · exact h.setPort
  · exact h

theorem goOut (h : Whole e m) {u} : Whole e (Machine.goOut m u) := by
  unfold Machine.goOut
  split
  · exact (h.setUnit.logErr.bump.pend.when (·.blockEvt)).evacuate
  · split
    · exact (h.setUnit.logErr.bump.pend.when (·.blockEvt)).rehome
    · exact (h.setUnit.logErr.bump.pend.when (·.blockEvt)).rehome
    · exact (h.setUnit.logErr.bump.pend.when (·.blockEvt)).rehome
    · exact (h.setUnit.logErr.bump.pend.when (·.blockEvt)).losePort.dropPort
    · exact h.setUnit.logErr.bump.pend.when (·.blockEvt)
  · exact h.setUnit.logErr.bump.pend.when (·.blockEvt)

theorem takeWanted (h : Whole e m) : Whole e (Machine.takeWanted m) := h.foldl fun _ _ _ h => h.when (·.goOut)

theorem wipeUnit (h : Whole e m) {fault u} : Whole e (Machine.wipeUnit fault m u) := h.otherwise fun h => h.setUnit.bump.when (·.goOut)

theorem beginRestart (h : Whole e m) {u fault} : Whole e (Machine.beginRestart m u fault) := h.when (·.wipeUnit.replayWork)

theorem restartOp (h : Whole e m) {p} : Whole e (Machine.restartOp m p) := h.ite ((h.foldl fun _ _ _ h => h.beginRestart).ite h.beginRestart)

theorem restartEnd (h : Whole e m) {u} : Whole e (Machine.restartEnd m u) := by
  unfold Machine.restartEnd
  dsimp only
  split
  · exact h
  · refine pend ?_
    split
    · exact h.setUnit.rest
    · exact h.setUnit

theorem wantOutUnit (h : Whole e m) {u} : Whole e (Machine.wantOutUnit m u) := (h.goOut.ite h.setUnit).ite (h.when (·.setUnit))

theorem outOp (h : Whole e m) {p} : Whole e (Machine.outOp m p) := h.ite ((h.foldl fun _ _ _ h => h.wantOutUnit).ite h.wantOutUnit)

theorem returnUnitOp (h : Whole e m) {u} : Whole e (Machine.returnUnitOp m u) := by
  unfold Machine.returnUnitOp
  dsimp only
  split
  · split
    · exact h.setUnit.pend.ite h.setUnit
    · exact h.setUnit
  · exact h

theorem returnOp (h : Whole e m) {p} : Whole e (Machine.returnOp m p) := h.ite ((h.foldl fun _ _ _ h => h.returnUnitOp).ite h.returnUnitOp)

theorem selfTestOp (h : Whole e m) {u pass step} : Whole e (Machine.selfTestOp m u pass step) :=
  h.ite (h.setUnit.bump.pend.ite h.setUnit.logErr.bump.pend)

theorem rampOp (h : Whole e m) {u} : Whole e (Machine.rampOp m u) := h.ite (h.setUnit.ite h.setUnit)

theorem latchTrip (h : Whole e m) {cause index} : Whole e (Machine.latchTrip m cause index) := h.otherwise (·.same)

theorem noteEvent (h : Whole e m) {k} : Whole e (Machine.noteEvent m k) := h.same

theorem seamFail (h : Whole e m) {p replays} : Whole e (Machine.seamFail m p replays) := h.bump.logErrC.goOut

theorem seamDown (h : Whole e m) {s replays} : Whole e (Machine.seamDown m s replays) := h.seamFail.seamFail.noteEvent.when (·.latchTrip)

theorem checkMismatch (h : Whole e m) {chute} : Whole e (Machine.checkMismatch m chute) := by
  unfold Machine.checkMismatch
  dsimp only
  split
  · exact (h.bump.when (·.blockEvt)).rest.finishBad
  · exact (h.bump.when (·.blockEvt)).rest

theorem unitFaultOp (h : Whole e m) {u code detail} : Whole e (Machine.unitFaultOp m u code detail) :=
  (h.otherwise (·.logErr)).checkMismatch.ite (((h.otherwise (·.logErr)).when fun h => h.bump.when (·.blockEvt)).otherwise (·.logErr.beginRestart))

theorem unitWatchdogOp (h : Whole e m) {u} : Whole e (Machine.unitWatchdogOp m u) := h.when (·.unitFaultOp)

end Whole

end Sys2Proof.Proofs

/-! The fabric. -/

namespace Sys2Proof.Proofs

open Sys2Proof Sys2Proof.Machine Sys2Proof.Laws

namespace Whole

variable {e : Wiped} {m t : Mod}

theorem dropE2e (h : Whole e m) {f} : Whole e (Machine.dropE2e m f) := h.bump.logErr

theorem dropMisrouted (h : Whole e m) {f} : Whole e (Machine.dropMisrouted m f) := h.bump.logErr

theorem pathForward (h : Whole e m) {port f} : Whole e (Machine.pathForward m port f) := by
  unfold Machine.pathForward
  dsimp only
  split
  · exact h
  · split
    · exact h.bump
    · exact h.portSend

theorem awaitHost (h : Whole e m) {kind f} : Whole e (Machine.awaitHost m kind f) := h.same

theorem answerHost (h : Whole e m) {kind f} : Whole e (Machine.answerHost m kind f) := by
  unfold Machine.answerHost
  split
  · exact h.dropMisrouted
  · exact h.same.inboxPut

theorem pathReturn (h : Whole e m) {f} : Whole e (Machine.pathReturn m f) := by
  unfold Machine.pathReturn
  dsimp only
  split
  · exact h
  · split
    · exact h.answerHost
    · split
      · exact h.bump
      · exact h.portSend

theorem pathAnswer (h : Whole e m) {port q ty data} : Whole e (Machine.pathAnswer m port q ty data) := by
  unfold Machine.pathAnswer
  split
  · exact h.inboxPut
  · exact h.portSend

theorem pathRequest (h : Whole e m) {ty port f serve} (hs : Whole e m → Whole e (serve m)) : Whole e (Machine.pathRequest m ty port f serve) :=
  h.otherwise fun h => h.dropE2e.ite (h.pathForward.ite (h.otherwise fun h => h.dropE2e.ite (hs h)))

theorem discoverOp (h : Whole e m) {port f} : Whole e (Machine.discoverOp m port f) := h.pathRequest fun h => h.pathAnswer

theorem assignOp (h : Whole e m) {port f} : Whole e (Machine.assignOp m port f) := h.pathRequest fun h => (h.when (·.same)).pathAnswer

theorem pathResponse (h : Whole e m) {ty port f} : Whole e (Machine.pathResponse m ty port f) := h.ite (h.dropE2e.ite (h.dropE2e.ite h.pathReturn))

theorem takeAssign (h : Whole e m) : Whole e (Machine.takeAssign m) := by
  unfold Machine.takeAssign
  split
  · exact h
  · exact h.same

theorem takeCommit (h : Whole e m) : Whole e (Machine.takeCommit m) := by
  unfold Machine.takeCommit
  split
  · exact h
  · exact h.same

theorem answerMgt (h : Whole e m) {q ok} : Whole e (Machine.answerMgt m q ok) := h.sendAddr

theorem takeRoutes (h : Whole e m) {f} : Whole e (Machine.takeRoutes m f) := (h.when (·.same)).answerMgt

theorem takeRouteCommit (h : Whole e m) {f} : Whole e (Machine.takeRouteCommit m f) := (h.when (·.same)).answerMgt

theorem ksResend (h : Whole e m) {x} : Whole e (Machine.ksResend m x) := (h.same.foldl fun _ _ _ h => h.sendAddr).ite h.same.unitFaultOp

theorem searchEnds (h : Whole e m) {cid node status info} : Whole e (Machine.searchEnds m cid node status info) := by
  unfold Machine.searchEnds
  split
  · exact h
  · split
    · exact h.putSearch
    · exact h

theorem takeUnreach (h : Whole e m) {f} : Whole e (Machine.takeUnreach m f) := by
  unfold Machine.takeUnreach
  split
  · exact h.dropMisrouted
  · exact (h.otherwise (·.ksResend)).ite (h.same.inboxPut.ite h.same.searchEnds)

theorem takeFrame (h : Whole e m) {f} : Whole e (Machine.takeFrame m f) := by
  unfold Machine.takeFrame
  split
  · exact h.takeRoutes
  · exact h.takeRouteCommit
  · exact h.answerHost
  · exact h.inboxPut
  · exact h.takeUnreach
  · exact h

theorem deliver (h : Whole e m) {f} : Whole e (Machine.deliver m f) := h.ite (h.dropE2e.ite (h.dropMisrouted.ite (h.dropE2e.ite h.takeFrame)))

theorem deliverType (h : Whole e m) {ty f} : Whole e (Machine.deliverType m ty f) := h.when (·.deliver)

theorem deliverOn (h : Whole e m) {port f} : Whole e (Machine.deliverOn m port f) := h.when (·.deliver)

theorem forwardOp (h : Whole e m) {port f} : Whole e (Machine.forwardOp m port f) := by
  unfold Machine.forwardOp
  split
  · exact h
  · split
    · exact h.dropE2e
    · split
      · exact h
      · split
        · exact h.bump
        next f _ =>
          cases ht : Machine.hopSend m f with
          | none => exact h.unreachFor
          | some t => exact h.hopSend ht

theorem takeSelf (h : Whole e m) : Whole e (Machine.takeSelf m) := h.same.foldl fun _ _ _ h => h.takeUnreach

theorem helloOp (h : Whole e m) {port node assigned nport} : Whole e (Machine.helloOp m port node assigned nport) := by
  unfold Machine.helloOp
  split
  · exact h
  · exact h.ite ((h.setPort.otherwise (·.notice)).when (·.notice))

theorem sendHellos (h : Whole e m) : Whole e (Machine.sendHellos m) := h.foldl fun _ _ _ h => h.portSend

theorem isolationOp (h : Whole e m) : Whole e (Machine.isolationOp m) := by
  unfold Machine.isolationOp
  split
  · exact h.when (·.same)
  · exact h

theorem idleTick (h : Whole e m) : Whole e (Machine.idleTick m) := h.same

theorem mbxRoute (h : Whole e m) {f} : Whole e (Machine.mbxRoute m f) := by
  unfold Machine.mbxRoute
  split
  · exact (h.awaitHost.ite h).discoverOp
  · exact (h.awaitHost.ite h).assignOp
  · exact h
  · exact h
  · refine h.otherwise fun h => h.takeFrame.ite ?_
    have hwait : Whole e (if fType f = 0x05 || fType f = 0x06 then Machine.awaitHost m 2 f else m) := h.awaitHost.ite h
    dsimp only
    cases ht : Machine.hopSend (if fType f = 0x05 || fType f = 0x06 then Machine.awaitHost m 2 f else m) f with
    | none => exact hwait.unreachFor
    | some t => exact hwait.hopSend ht

theorem mbxSend (h : Whole e m) : Whole e (Machine.mbxSend m) := h.dropE2e.ite h.mbxRoute

theorem mbxPop (h : Whole e m) : Whole e (Machine.mbxPop m) := h.same

theorem srchReqOp (h : Whole e m) {src tag dl gen x pl} : Whole e (Machine.srchReqOp m src tag dl gen x pl) := h.otherwise (·.addCmd)

theorem srchPartOp (h : Whole e m) {cid r} : Whole e (Machine.srchPartOp m cid r) := by
  unfold Machine.srchPartOp
  dsimp only
  split
  · exact h.bump.logErr
  · split
    · exact h.same
    · split
      · exact h.same
      · exact h.same.searchEnds
      · exact h.same.rest.putSearch

theorem ksplitPartOp (h : Whole e m) {src tag d k tile} : Whole e (Machine.ksplitPartOp m src tag d k tile) := h.otherwise (·.ksAccept.sendAddr)

theorem ksplitAckOp (h : Whole e m) {src tag} : Whole e (Machine.ksplitAckOp m src tag) := by
  unfold Machine.ksplitAckOp
  split
  · exact h.bump.logErr
  · exact h.same

theorem ksplitResendOp (h : Whole e m) {tag} : Whole e (Machine.ksplitResendOp m tag) := by
  unfold Machine.ksplitResendOp
  split
  · exact h
  · exact h.when (·.ksResend)

end Whole

end Sys2Proof.Proofs

/-! Resets: what they clear is whole again. -/

namespace Sys2Proof.Proofs

open Sys2Proof Sys2Proof.Machine Sys2Proof.Laws

namespace Whole

variable {e : Wiped} {m t : Mod}

theorem setMgtState (h : Whole e m) {st} : Whole e (Machine.setMgtState m st) := h.otherwise (·.same.platEvent.sendIbi)

theorem setPhase (h : Whole e m) {ph} : Whole e (Machine.setPhase m ph) := h.otherwise (·.same.platEvent.sendIbi)

theorem abortTest (h : Whole e m) : Whole e (Machine.abortTest m) := h.when (·.same)

theorem clearTest (h : Whole e m) : Whole e (Machine.clearTest m) := h.abortTest.ite h.same

theorem wipeModule (h : Whole e m) : Whole e (Machine.wipeModule m) := by
  have htest : Whole e (if m.sys.rst = 0 && m.sys.rails && m.saf.state = 0 then Machine.clearTest m else Machine.abortTest m) :=
    h.clearTest.ite h.abortTest
  exact ofReset rfl ⟨⟨List.nodup_nil, nofun⟩, nofun⟩ nofun (List.length_map _ |>.trans htest.hbm) htest.channels

theorem powerOff (h : Whole e m) {st} : Whole e (Machine.powerOff m st) := h.wipeModule.rest.setPhase.setMgtState

theorem quiesce (h : Whole e m) : Whole e (Machine.quiesce m) := by
  have htest : Whole e ((if m.saf.state = 0 then Machine.clearTest else Machine.abortTest) (Machine.closeGroup m)) := by
    split
    · exact h.closeGroup.clearTest
    · exact h.closeGroup.abortTest
  exact ofReset rfl htest.buffer htest.stalled htest.hbm htest.channels

theorem markPending (h : Whole e m) : Whole e (Machine.markPending m) := by
  unfold Machine.markPending
  split
  · exact h.when (·.same)
  · exact h

theorem resetBegin (h : Whole e m) {cause kind} : Whole e (Machine.resetBegin m cause kind) :=
  h.same.ite (h.same.quiesce.ite (h.same.otherwise (·.markPending.wipeModule.rest.setPhase)))

theorem powerDown (h : Whole e m) : Whole e (Machine.powerDown m) := h.ite (h.same.quiesce.ite (h.same.ite h.powerOff))

theorem quiesceEndOp (h : Whole e m) : Whole e (Machine.quiesceEndOp m) := h.ite (h.powerOff.ite h.markPending.wipeModule.rest.setPhase)

theorem eraseFlash (h : Whole e m) : Whole e (Machine.eraseFlash m) :=
  { h with buffer := ⟨⟨List.nodup_nil, nofun⟩, nofun⟩, hbm := List.length_replicate }

theorem transition (h : Whole e m) {media} : Whole e (Machine.transition m media) := by
  unfold Machine.transition
  split
  · exact h
  · exact (h.when (·.same.eraseFlash)).rest.platEvent.sendIbi

theorem lifeCycleOp (h : Whole e m) {media} : Whole e (Machine.lifeCycleOp m media) := h.resetBegin.ite (h.when (·.memoryWipe.transition))

theorem transitionResume (h : Whole e m) : Whole e (Machine.transitionResume m) := h.when (·.wipeModule.memoryWipe.rest.transition)

theorem revertSlot (h : Whole e m) : Whole e (Machine.revertSlot m) := (h.when (·.alert)).rest

theorem setBootErr (h : Whole e m) {kind cause fallback} : Whole e (Machine.setBootErr m kind cause fallback) := h.setRegN

theorem bootSlot (h : Whole e m) {b} : Whole e (Machine.bootSlot m b) := by
  unfold Machine.bootSlot
  dsimp only
  split
  · exact h.same.rest.setPhase.ite h.same.rest.rest.setPhase
  · exact h.same.rest.setBootErr.revertSlot.ite h.same.rest.setBootErr.setPhase

theorem railsUp (h : Whole e m) : Whole e (Machine.railsUp m) := h.wipeModule.rest.setMgtState.setPhase

theorem bootChainOp (h : Whole e m) {b} : Whole e (Machine.bootChainOp m b) := (h.when (·.railsUp)).otherwise (·.bootSlot)

theorem trialTimeoutOp (h : Whole e m) : Whole e (Machine.trialTimeoutOp m) := h.when (·.revertSlot)

theorem trainStack (h : Whole e m) {tests s} : Whole e (Machine.trainStack tests m s) := h.setStack.foldl fun _ _ _ h => h.faultRecord

theorem wipeOp (h : Whole e m) : Whole e (Machine.wipeOp m) := h.ite (h.memoryWipe.rest.setPhase.ite h.memoryWipe.setPhase)

theorem loadPage (h : Whole e m) {lost x} : Whole e (Machine.loadPage lost m x) := by
  unfold Machine.loadPage
  split
  · exact h.placePage.loadImage
  · split
    · exact h
    · exact h.placePage.restMem

theorem loadWeights (h : Whole e m) {x} : Whole e (Machine.loadWeights m x) := by
  unfold Machine.loadWeights
  split
  · exact h
  · split
    · exact h
    · exact h.placePage.writeBytes

theorem length_modNth {α : Type} (l : List α) (n : Nat) (f : α → α) : (modNth l n f).length = l.length := by
  induction l generalizing n with
  | nil => rfl
  | cons x l ih =>
    cases n with
    | zero => rfl
    | succ n => exact congrArg (· + 1) (ih n)

theorem channelBack (h : Whole e m) {ch} : Whole e (Machine.channelBack m ch) :=
  { h with channels := (length_modNth _ _ _).trans h.channels }

theorem trainUnits (h : Whole e m) {k} : Whole e (Machine.trainUnits m k) :=
  (((h.foldl fun _ _ _ h => h.channelBack).foldl fun _ _ _ h => h.goOut).when (·.latchTrip)).rest.ite
    ((((h.foldl fun _ _ _ h => h.channelBack).foldl fun _ _ _ h => h.goOut).when (·.latchTrip)).foldl fun _ _ _ h => h.seamDown)

/-- The pages and weights of the packages loaded from their images. -/
theorem loadPkgs (h : Whole e m) {lost : List (Nat × Nat)} {l : List (Nat × Nat)} {ws : List (PkgVer × Nat × Nat)} :
    Whole e (ws.foldl Machine.loadWeights (l.foldl (fun m x => Machine.loadPage lost m (x.2, x.1)) m)) :=
  (h.foldl fun _ _ _ h => h.loadPage).foldl fun _ _ _ h => h.loadWeights

theorem benchLoaded (h : Whole e m) {sys : Sys} : Whole e { m with sys := sys, mem := { m.mem with loaded := true } } := h.same

theorem benchLoadOp (h : Whole e m) {tr lost} : Whole e (Machine.benchLoadOp m tr lost) := by
  have htrain : Whole e (Machine.trainUnits ((upto 8).foldl (Machine.trainStack tr.pcs)
      { m with ledger := { keepProgrammed m.ledger with stat := 1 } }) tr) :=
    (foldl h.rest fun _ _ _ h => h.trainStack).trainUnits
  unfold Machine.benchLoadOp
  dsimp only
  generalize Machine.trainUnits _ tr = u at htrain ⊢
  have hload {l : List (Nat × Nat)} {ws : List (PkgVer × Nat × Nat)} :
      Whole e (ws.foldl Machine.loadWeights (l.foldl (fun m x => Machine.loadPage lost m (x.2, x.1)) { u with pkgs := keepPkgs u })) :=
    loadPkgs htrain.rest
  exact h.otherwise fun _ => hload.benchLoaded.setPhase

theorem replayPkgs (h : Whole e m) : Whole e (Machine.replayPkgs m) := h.same

theorem rerunMerge (h : Whole e m) {r} : Whole e (Machine.rerunMerge m r) := by
  unfold Machine.rerunMerge
  split
  · exact h.addJob.bump
  · exact h

theorem resumeBuild (h : Whole e m) {r} : Whole e (Machine.resumeBuild m r) := by
  unfold Machine.resumeBuild
  split
  · exact (h.foldl fun _ _ _ h => h.mapAt).addJob.setRegN.ite h.freeBuild.setRegN
  · exact h

theorem placeShard (h : Whole e m) {c} : Whole e (Machine.placeShard m c) :=
  ((h.foldl fun _ _ _ h => (h.foldl fun _ _ _ h => h.mapAt).foldl fun _ _ _ h => h.mapAt).foldl fun _ _ _ h => h.stockWrite).purge

theorem sweepFlash (h : Whole e m) : Whole e (Machine.sweepFlash m) := h.foldl fun _ _ _ h => h.releasePage

theorem repairCopy (h : Whole e m) {failed g} : Whole e (Machine.repairCopy failed m g) := h.otherwise (·.bump.logErr)

theorem applyRecords (h : Whole e m) : Whole e (Machine.applyRecords m) := h.same.rest.replayPkgs.mirrorCheck.foldl fun _ _ _ h => h.replayAdds

theorem replayOp (h : Whole e m) {failed} : Whole e (Machine.replayOp m failed) :=
  h.ite ((h.foldl fun _ _ _ h => h.repairCopy).rest.applyRecords.rest.ite
    ((((h.foldl fun _ _ _ h => h.repairCopy).applyRecords.foldl fun _ _ _ h => h.placeShard).foldl fun _ _ _ h => h.rerunMerge).foldl
       fun _ _ _ h => h.resumeBuild).sweepFlash.rest)

theorem reportPages (h : Whole e m) {n} : Whole e (Machine.reportPages n m) := by
  induction n generalizing m with
  | zero => exact h
  | succ n ih =>
    refine ih ?_
    cases hu : Machine.allocModule m 1 none with
    | none => exact h
    | some r => exact h.allocModule hu

theorem publishReport (h : Whole e m) : Whole e (Machine.publishReport m) := by
  unfold Machine.publishReport
  split
  · exact h
  · exact h.reportPages.writeBytes.rest

theorem readyOp (h : Whole e m) : Whole e (Machine.readyOp m) := h.otherwise (·.same.publishReport.rest.setPhase)

theorem replayAck (h : Whole e m) : Whole e (Machine.replayAck m) := by
  unfold Machine.replayAck
  split
  · exact h
  · exact h.same.foldl fun _ _ _ h => h.dropPage

theorem standbyPowerOp (h : Whole e m) : Whole e (Machine.standbyPowerOp m) := h.otherwise (·.same.setPhase)

theorem standbyLossOp (h : Whole e m) : Whole e (Machine.standbyLossOp m) := h.ite (h.when (·.powerOff)).rest

theorem powerOnOp (h : Whole e m) {mv inlet} : Whole e (Machine.powerOnOp m mv inlet) := h.when (·.same.setMgtState.setPhase)

theorem railFailureOp (h : Whole e m) {rail} : Whole e (Machine.railFailureOp m rail) :=
  h.ite (h.logErrC.setPhase.setMgtState.ite h.logErrC.rest.setPhase)

theorem railRetryOp (h : Whole e m) : Whole e (Machine.railRetryOp m) := h.when (·.setPhase)

theorem mainEnFallOp (h : Whole e m) : Whole e (Machine.mainEnFallOp m) := by
  unfold Machine.mainEnFallOp
  dsimp only
  split
  · exact h.same.setPhase.setMgtState
  · exact h.same.setPhase.setMgtState
  · exact h.same.powerDown
  · exact h.same

theorem mainPowerOp (h : Whole e m) {v} : Whole e (Machine.mainPowerOp m v) := by
  unfold Machine.mainPowerOp
  dsimp only
  split
  · exact h
  · split
    · exact h.same
    · split
      · split
        · exact h.same.setPhase.setMgtState
        · exact h.same.setPhase.setMgtState
        · exact h.same.setPhase.setMgtState
        · exact h.same.powerDown
        · exact h.same
      · exact h

theorem autoRestartOp (h : Whole e m) : Whole e (Machine.autoRestartOp m) := h.when (·.same.setMgtState.setPhase)

theorem resetNOp (h : Whole e m) {low} : Whole e (Machine.resetNOp m low) := h.otherwise fun h => h.same.when (·.requestReset)

theorem resetNRelease (h : Whole e m) : Whole e (Machine.resetNRelease m) := h.same

theorem referenceLossOp (h : Whole e m) : Whole e (Machine.referenceLossOp m) := h.otherwise fun h => h.same.when (·.logErr.requestReset)

theorem referenceReturnOp (h : Whole e m) : Whole e (Machine.referenceReturnOp m) := h.same

theorem below40Op (h : Whole e m) {mv} : Whole e (Machine.below40Op m mv) :=
  h.ite (h.same.setPhase.setMgtState.ite (h.same.ite (h.same.requestReset.ite (h.same.otherwise (·.powerOff)))))

theorem overvoltageOp (h : Whole e m) {mv} : Whole e (Machine.overvoltageOp m mv) := h.when (·.same)

theorem switchCloseOp (h : Whole e m) {mv} : Whole e (Machine.switchCloseOp m mv) := h.when (·.same)

end Whole

end Sys2Proof.Proofs

/-! Safety stops. -/

namespace Sys2Proof.Proofs

open Sys2Proof Sys2Proof.Machine Sys2Proof.Laws

namespace Whole

variable {e : Wiped} {m t : Mod}

theorem ringProgram (h : Whole e m) : Whole e (Machine.ringProgram m) := h.closeGroup.rest.bump.progReady

theorem safetyEnd (h : Whole e m) {c} : Whole e (Machine.safetyEnd m c) := by
  unfold Machine.safetyEnd
  split
  · exact h.embedFail
  · exact h.embedFail
  · exact h.cmdStop
  · exact h.cmdStop
  · exact h.finishBad

theorem safetyEndAll (h : Whole e m) : Whole e (Machine.safetyEndAll m) := by
  unfold Machine.safetyEndAll
  refine h.foldl fun _ _ _ h => ?_
  split
  · exact h.safetyEnd
  · exact h

theorem stopHostDrills (h : Whole e m) : Whole e (Machine.stopHostDrills m) := h.foldl fun _ _ _ h => h.drillStop.drillEnd

theorem recordTrip (h : Whole e m) {cause index} : Whole e (Machine.recordTrip m cause index) := h.setRegN.setRegN.setRegN.logErr

/-- What a safety stop drops. -/
theorem dropWork (h : Whole e m) {svc mgt} : Whole e { m with svc := svc, mem := { m.mem with moves := [] }, mgt := mgt } := { h with moves := nofun }

theorem safetyStop (h : Whole e m) {cause index} : Whole e (Machine.safetyStop m cause index) := by
  have hended : Whole e (Machine.wbDrain (Machine.stopHostDrills (Machine.safetyEndAll (Machine.ringProgram
      (Machine.clearTest { m with saf := { m.saf with trip := none, state := 1 } }))))) :=
    h.rest.clearTest.ringProgram.safetyEndAll.stopHostDrills.wbDrain
  unfold Machine.safetyStop
  dsimp only
  generalize Machine.wbDrain _ = u at hended ⊢
  have htrip : Whole e (Machine.recordTrip
      { u with svc := [], mem := { u.mem with moves := [] }, mgt := { u.mgt with offCause := cause } } cause index) :=
    hended.dropWork.recordTrip
  exact h.otherwise fun _ => htrip.rest.ite (htrip.powerOff.ite htrip.rest.requestReset)

theorem analogTripOp (h : Whole e m) {i} : Whole e (Machine.analogTripOp m i) := h.otherwise (·.same.latchTrip)

theorem analogDelayOp (h : Whole e m) : Whole e (Machine.analogDelayOp m) := by
  unfold Machine.analogDelayOp
  split
  · exact h.when (·.same.powerOff)
  · exact h

theorem crossings (h : Whole e m) {x} : Whole e (Machine.crossings m x) :=
  (h.foldl fun _ _ _ h => h.otherwise (·.alert.platEvent)).otherwise (·.platEvent.sendIbi)

theorem sensorSampleOp (h : Whole e m) {x} : Whole e (Machine.sensorSampleOp m x) := by
  unfold Machine.sensorSampleOp
  dsimp only
  split
  · exact h
  · split
    · exact h.crossings.rest.when (·.dipSample)
    · exact (h.crossings.rest.when (·.dipSample)).latchTrip

theorem failSensor (h : Whole e m) {i} : Whole e (Machine.failSensor m i) := h.otherwise fun h => h.same.logErr.when (·.latchTrip)

theorem sensorFailOp (h : Whole e m) {i} : Whole e (Machine.sensorFailOp m i) := h.otherwise (·.failSensor)

theorem mcMismatchOp (h : Whole e m) : Whole e (Machine.mcMismatchOp m) := h.otherwise fun h => h.same.logErr.otherwise (·.latchTrip)

theorem mcRestartOp (h : Whole e m) : Whole e (Machine.mcRestartOp m) := h.when (·.same.alert)

theorem lockstepOp (h : Whole e m) {n} : Whole e (Machine.lockstepOp m n) := h.otherwise fun h => h.bump.unitFaultOp.when (·.latchTrip)

theorem mirrorErrorOp (h : Whole e m) : Whole e (Machine.mirrorErrorOp m) := by
  unfold Machine.mirrorErrorOp
  dsimp only
  split
  · exact h.latchTrip
  · split
    · exact h.same.bump.logErr.finishBad
    · exact h.same.bump.logErr

theorem mirrorBuiltOp (h : Whole e m) {ok} : Whole e (Machine.mirrorBuiltOp m ok) := h.ite (h.same.ite h.latchTrip)

theorem railLimitOp (h : Whole e m) {r} : Whole e (Machine.railLimitOp m r) :=
  h.ite (((h.logErr.noteEvent.foldl fun _ _ _ h => h.wipeUnit).foldl fun _ _ _ h => h.replayWork).when (·.latchTrip))

theorem inputLimitOp (h : Whole e m) : Whole e (Machine.inputLimitOp m) := h.latchTrip

theorem seamReplayOp (h : Whole e m) {s replays} : Whole e (Machine.seamReplayOp m s replays) := h.ite (h.bump.bump.logErrC.ite h.bump.bump.seamDown)

end Whole

end Sys2Proof.Proofs

/-! Admission. -/

namespace Sys2Proof.Proofs

open Sys2Proof Sys2Proof.Machine Sys2Proof.Laws

namespace Whole

variable {e : Wiped} {m t : Mod}

theorem inputLine (h : Whole e m) {keep line} : Whole e (Machine.inputLine keep m line) := h.ite (h.hostKeep.ite h.hostLoad)

theorem readInputs (h : Whole e m) {keep l} : Whole e (Machine.readInputs keep m l) := h.foldl fun _ _ _ h => h.inputLine

theorem fetchStopped (h : Whole e m) {ch slot db rest x pl} : Whole e (Machine.fetchStopped m ch slot db rest x pl) :=
  h.setChute.rest.finishBad.when (·.chuteFree)

theorem entryFetchOp (h : Whole e m) {n x pl} : Whole e (Machine.entryFetchOp m n x pl) := by
  unfold Machine.entryFetchOp
  split
  · exact h
  · split
    · exact h
    · exact h.ite (h.fetchStopped.ite (h.recallInputs.ite
        ((h.setChute.otherwise (·.hostLoad)).rest.finishBad.chuteFree.ite ((h.setChute.otherwise (·.hostLoad)).when (·.readInputs)).rest)))

theorem fanOutTo (h : Whole e m) {c node} : Whole e (Machine.fanOutTo c m node) := h.same.foldl fun _ _ _ h => h.sendAddr

theorem searchAdmit (h : Whole e m) {c} : Whole e (Machine.searchAdmit m c) := by
  unfold Machine.searchAdmit
  split
  · exact h
  · split
    · exact h
    · exact ((h.when (·.bump)).putSearch.placeSearch.foldl fun _ _ _ h => h.fanOutTo).when (·.bump)

theorem embedInsertAdmit (h : Whole e m) {c} : Whole e (Machine.embedInsertAdmit m c) := by
  unfold Machine.embedInsertAdmit
  split
  · exact h
  · exact h.setColl.setCmd

theorem startWork (h : Whole e m) {c} : Whole e (Machine.startWork m c) := by
  unfold Machine.startWork
  split
  · exact h.searchAdmit
  · exact h.insertAdmit
  · exact h.upsertAdmit
  · exact h.deleteAdmit
  · exact h.setCmd
  · exact h.embedInsertAdmit
  · exact h.mergeAdmit
  · exact h.buildAdmit
  · exact h.publishAdmit
  · exact h.retireAdmit
  iterate 5 exact h.setCmd
  · exact h.abortAdmit
  · exact h.createAdmit
  · exact h.dropAdmit
  · exact h.schemaAdmit
  · exact h

theorem charge (h : Whole e m) {c cost} : Whole e (Machine.charge m c cost) := (h.otherwise (·.draw)).addBacklog.rest

theorem noteDec (h : Whole e m) {c} : Whole e (Machine.noteDec m c) := h.same

theorem admitCmd (h : Whole e m) {c lvl cost} : Whole e (Machine.admitCmd m c lvl cost) := (h.charge.setCmd.otherwise (·.bump)).readInputs.startWork

theorem shed (h : Whole e m) {c info} : Whole e (Machine.shed m c info) := h.noteDec.finishBad.bump

theorem countDeferral (h : Whole e m) {c x1} : Whole e (Machine.countDeferral m c x1) := by
  unfold Machine.countDeferral
  split
  · exact h.same.bump
  · exact h

theorem decideTimed (h : Whole e m) {c} : Whole e (Machine.decideTimed m c).1 := by
  unfold Machine.decideTimed
  split
  · exact h.shed
  · exact h.countDeferral
  · exact h.noteDec.admitCmd

theorem decideHead (h : Whole e m) {c} : Whole e (Machine.decideHead m c).1 := by
  unfold Machine.decideHead
  dsimp only
  split
  · exact h
  · split
    · exact h.recallInputs
    · split
      · exact h.noteDec.finish
      · exact h.decideTimed

theorem applyOne (h : Whole e m) {x} : Whole e (Machine.applyOne m x) := by
  unfold Machine.applyOne
  dsimp only
  split
  · exact h
  · split
    · exact h
    · split
      · exact h.noteDec.finish
      · exact h.shed
      · exact h.countDeferral.ite h.noteDec.admitCmd
      · exact h.decideTimed

theorem applyStuck (h : Whole e m) {id} : Whole e (Machine.applyStuck m id) := by
  unfold Machine.applyStuck
  split
  next c _ =>
    split
    next hd => exact (congrArg (Whole e ·.1) hd).mp h.decideHead
    · exact h
  · exact h

theorem admissionOp (h : Whole e m) : Whole e (Machine.admissionOp m) := h.ite ((h.foldl fun _ _ _ h => h.applyOne).foldl fun _ _ _ h => h.applyStuck)

theorem headOp (h : Whole e m) {op chute} : Whole e (Machine.headOp m op chute) := by
  unfold Machine.headOp
  split
  · exact h
  · split
    · exact h.when (·.decideHead)
    · exact h

end Whole

end Sys2Proof.Proofs

/-! Emission of results. -/

namespace Sys2Proof.Proofs

open Sys2Proof Sys2Proof.Machine Sys2Proof.Laws

namespace Whole

variable {e : Wiped} {m t : Mod}

theorem keepSeries (h : Whole e m) {c es} : Whole e (Machine.keepSeries m c es) := h.same

theorem emitLocal (h : Whole e m) {c s es} : Whole e (Machine.emitLocal m c s es) :=
  (((h.when (·.bump)).when (·.bump)).when (·.keepSeries)).writePtr.finish

theorem emitRemote (h : Whole e m) {c node tag es} : Whole e (Machine.emitRemote m c node tag es) := h.sendPart.retireCmd

theorem emissionOp (h : Whole e m) {cid} : Whole e (Machine.emissionOp m cid) := by
  unfold Machine.emissionOp
  dsimp only
  split
  · exact h
  · split
    · exact h
    · split
      · exact h
      · split
        · exact h.unitFaultOp
        · split
          · exact h.outClaim
          · split
            · exact h.bump.bump.rest.emitRemote
            · exact h.bump.bump.rest.emitLocal

end Whole

end Sys2Proof.Proofs

/-! The tick. -/

namespace Sys2Proof.Proofs

open Sys2Proof Sys2Proof.Machine Sys2Proof.Laws

namespace Whole

variable {e : Wiped} {m t : Mod}

theorem finishEnds (h : Whole e m) : Whole e (Machine.finishEnds m) := by
  unfold Machine.finishEnds
  refine h.foldl fun _ _ _ h => ?_
  split
  · exact h
  · exact h.finishBad

theorem endTick (h : Whole e m) : Whole e (Machine.endTick m) :=
  (h.when (·.bump)).finishEnds.endSkews.finishRuns.sweepGens.sweepPkgs.closeGroup.enterRing

theorem clearAcks (h : Whole e m) : Whole e (Machine.clearAcks m) := h.same

theorem newTick (h : Whole e m) : Whole e (Machine.newTick m) := h.same

theorem slotTrip (h : Whole e m) : Whole e (Machine.slotTrip m) := by
  unfold Machine.slotTrip
  split
  · exact h.safetyStop
  · exact h

theorem slotReset (h : Whole e m) {want} : Whole e (Machine.slotReset want m) := by
  unfold Machine.slotReset
  split
  · exact h.resetBegin.ite h.same
  · exact h

theorem slotSupply (h : Whole e m) : Whole e (Machine.slotSupply m) := by
  unfold Machine.slotSupply
  split
  · exact h.same.supplyEvent
  · exact h

theorem slotThermal (h : Whole e m) : Whole e (Machine.slotThermal m) := h.when (·.same.thermalCheck)

theorem tickSlots (h : Whole e m) {want} : Whole e (Machine.tickSlots want m) := h.slotTrip.slotReset.slotSupply.slotThermal.publishSlot

theorem fabricTick (h : Whole e m) : Whole e (Machine.fabricTick m) := h.takeAssign.takeCommit.sendHellos.takeSelf.idleTick

theorem unitTick (h : Whole e m) : Whole e (Machine.unitTick m) := h.sweepFreed.takeWanted.goOnMoves

theorem tickOp (h : Whole e m) : Whole e (Machine.tickOp m) :=
  h.otherwise fun h => h.endTick.newTick.clearAcks.tickSlots.when (·.fabricTick.unitTick.sampleAll)

end Whole

end Sys2Proof.Proofs

/-! Security. -/

namespace Sys2Proof.Proofs

open Sys2Proof Sys2Proof.Machine Sys2Proof.Laws

namespace Whole

variable {e : Wiped} {m t : Mod}

theorem putWindow (h : Whole e m) {base bs} : Whole e (Machine.putWindow m base bs) := h.foldl fun _ _ _ h => h.setRegN

theorem secLockOp (h : Whole e m) {v} : Whole e (Machine.secLockOp m v) := h.when (·.same)

theorem newNonce (h : Whole e m) : Whole e (Machine.newNonce m) := h.same

theorem acceptToken (h : Whole e m) {k} : Whole e (Machine.acceptToken m k) := h.same.rest.ite h.same.rest.requestReset

theorem tokenSubmitOp (h : Whole e m) {sigOk} : Whole e (Machine.tokenSubmitOp m sigOk) := h.setRegN.when (·.acceptToken)

theorem setSpdm (h : Whole e m) {s tr} : Whole e (Machine.setSpdm m s tr) := by
  unfold Machine.setSpdm
  split
  · exact h.rest
  · exact h.rest

theorem spdmReply (h : Whole e m) {k data} : Whole e (Machine.spdmReply m k data) := by
  unfold Machine.spdmReply
  split
  · exact h.sendIbi.aditSend
  · exact h.putWindow.setRegN

theorem spdmServe (h : Whole e m) {tr f} (hf : ∀ {s}, Whole e m → Whole e (f s).1) : Whole e (Machine.spdmServe m tr f) := by
  unfold Machine.spdmServe
  split
  · exact h.otherwise fun h => (hf h).spdmReply
  · exact h.otherwise fun h => h.spdmReply.ite (hf h).spdmReply

theorem getVersionOp (h : Whole e m) {k} : Whole e (Machine.getVersionOp m k) := h.spdmServe fun h => h.setSpdm

theorem getCapsOp (h : Whole e m) {k} : Whole e (Machine.getCapsOp m k) := by
  unfold Machine.getCapsOp
  refine h.spdmServe fun h => ?_
  split
  · exact h
  · exact h.setSpdm

theorem negotiateOp (h : Whole e m) {k asym hash} : Whole e (Machine.negotiateOp m k asym hash) := by
  unfold Machine.negotiateOp
  refine h.spdmServe fun h => ?_
  split
  · exact h
  · exact h.setSpdm

theorem getDigestsOp (h : Whole e m) {k} : Whole e (Machine.getDigestsOp m k) := by
  unfold Machine.getDigestsOp
  refine h.spdmServe fun h => ?_
  split
  · exact h
  · exact h

theorem getCertOp (h : Whole e m) {k slot off len} : Whole e (Machine.getCertOp m k slot off len) := by
  unfold Machine.getCertOp
  refine h.spdmServe fun h => ?_
  split
  · exact h
  · split
    · exact h
    · exact h

theorem signed (h : Whole e m) {nonce body} : Whole e (Machine.signed m nonce body).1 := h.same

theorem challengeOp (h : Whole e m) {k slot nonce} : Whole e (Machine.challengeOp m k slot nonce) := by
  unfold Machine.challengeOp
  refine h.spdmServe fun h => ?_
  split
  · exact h
  · split
    · exact h
    · exact h.signed

theorem getMeasOp (h : Whole e m) {k idx nonce} : Whole e (Machine.getMeasOp m k idx nonce) := by
  unfold Machine.getMeasOp
  refine h.spdmServe fun h => ?_
  split
  · exact h
  · split
    · exact h
    · exact h.signed

theorem spdmGoOp (h : Whole e m) : Whole e (Machine.spdmGoOp m) := by
  unfold Machine.spdmGoOp
  dsimp only
  split
  · exact h.spdmServe fun h => h
  · split
    · exact h.getVersionOp
    · exact h.getCapsOp
    · exact h.negotiateOp
    · exact h.getDigestsOp
    · exact h.getCertOp
    · exact h.challengeOp
    · exact h.getMeasOp
    · exact h.spdmServe fun h => h

end Whole

end Sys2Proof.Proofs

/-! Management. -/

namespace Sys2Proof.Proofs

open Sys2Proof Sys2Proof.Machine Sys2Proof.Laws

namespace Whole

variable {e : Wiped} {m t : Mod}

theorem i3cDo (h : Whole e m) {f} : Whole e (Machine.i3cDo m f) := h.when (·.rest)

theorem i3cAnswer (h : Whole e m) {d} : Whole e (Machine.i3cAnswer m d) := h.when (·.aditSend)

theorem entdaaOp (h : Whole e m) {a} : Whole e (Machine.entdaaOp m a) := h.when (·.same.aditSend)

theorem setnewdaOp (h : Whole e m) {a} : Whole e (Machine.setnewdaOp m a) := h.when (·.same)

theorem rstdaaOp (h : Whole e m) : Whole e (Machine.rstdaaOp m) := h.i3cDo

theorem getpidOp (h : Whole e m) : Whole e (Machine.getpidOp m) := h.i3cAnswer

theorem getstatusOp (h : Whole e m) : Whole e (Machine.getstatusOp m) := h.same.i3cAnswer

theorem getmwlOp (h : Whole e m) : Whole e (Machine.getmwlOp m) := h.i3cAnswer

theorem getmrlOp (h : Whole e m) : Whole e (Machine.getmrlOp m) := h.i3cAnswer

theorem setmwlOp (h : Whole e m) {n} : Whole e (Machine.setmwlOp m n) := h.i3cDo

theorem setmrlOp (h : Whole e m) {n} : Whole e (Machine.setmrlOp m n) := h.i3cDo

theorem ibiOp (h : Whole e m) {events on} : Whole e (Machine.ibiOp m events on) := h.i3cDo

theorem rstactOp (h : Whole e m) {a} : Whole e (Machine.rstactOp m a) := h.i3cDo

theorem mgtSend (h : Whole e m) {r} : Whole e (Machine.mgtSend m r) := h.sendIbi.aditSend

theorem mctpAnswer (h : Whole e m) {d} : Whole e (Machine.mctpAnswer m d) := h.when (·.mgtSend)

theorem setEidOp (h : Whole e m) {x} : Whole e (Machine.setEidOp m x) := h.ite (h.mctpAnswer.ite h.same.mctpAnswer)

theorem getEidOp (h : Whole e m) : Whole e (Machine.getEidOp m) := h.mctpAnswer

theorem getUuidOp (h : Whole e m) : Whole e (Machine.getUuidOp m) := h.mctpAnswer

theorem mctpVersionsOp (h : Whole e m) : Whole e (Machine.mctpVersionsOp m) := h.mctpAnswer

theorem mctpTypesOp (h : Whole e m) : Whole e (Machine.mctpTypesOp m) := h.mctpAnswer

theorem pldmAnswer (h : Whole e m) {cmd cc d} : Whole e (Machine.pldmAnswer m cmd cc d) := h.when (·.mgtSend)

theorem pldmDo (h : Whole e m) {cmd f} (hf : Whole e m → Whole e (f m).1) : Whole e (Machine.pldmDo m cmd f) := h.when fun h => (hf h).pldmAnswer

theorem getTidOp (h : Whole e m) : Whole e (Machine.getTidOp m) := h.pldmAnswer

theorem setTidOp (h : Whole e m) {k} : Whole e (Machine.setTidOp m k) := h.pldmDo fun h => h.same

theorem pldmVersionOp (h : Whole e m) {ty} : Whole e (Machine.pldmVersionOp m ty) := h.pldmAnswer.ite h.pldmAnswer

theorem pldmTypesOp (h : Whole e m) : Whole e (Machine.pldmTypesOp m) := h.pldmAnswer

theorem pldmCommandsOp (h : Whole e m) {ty} : Whole e (Machine.pldmCommandsOp m ty) := h.pldmAnswer.ite h.pldmAnswer

theorem pdrInfoOp (h : Whole e m) : Whole e (Machine.pdrInfoOp m) := h.pldmAnswer

theorem getPdrOp (h : Whole e m) {id} : Whole e (Machine.getPdrOp m id) := by
  unfold Machine.getPdrOp
  split
  · exact h.pldmAnswer
  · exact h.pldmAnswer

theorem sensorReadingOp (h : Whole e m) {id} : Whole e (Machine.sensorReadingOp m id) := h.pldmAnswer.ite (h.pldmAnswer.ite h.pldmAnswer)

theorem stateReadingOp (h : Whole e m) {id} : Whole e (Machine.stateReadingOp m id) := by
  unfold Machine.stateReadingOp
  split
  · exact h.pldmAnswer
  · exact h.pldmAnswer
  · exact h.pldmAnswer
  · exact h.pldmAnswer

theorem numericEffecterOp (h : Whole e m) {_id _v} : Whole e (Machine.numericEffecterOp m _id _v) := h.pldmAnswer

theorem powerEffecterOp (h : Whole e m) {v} : Whole e (Machine.powerEffecterOp m v) := by
  unfold Machine.powerEffecterOp
  refine h.pldmDo fun h => ?_
  split
  · exact h.mainPowerOp
  · exact h

theorem resetEffecterOp (h : Whole e m) {v} : Whole e (Machine.resetEffecterOp m v) := by
  unfold Machine.resetEffecterOp
  refine h.pldmDo fun h => ?_
  split
  · split
    · exact h.requestReset
    · exact h
  · exact h

theorem eventReceiverOp (h : Whole e m) {x} : Whole e (Machine.eventReceiverOp m x) := h.pldmDo fun h => h.same

theorem fruMetaOp (h : Whole e m) : Whole e (Machine.fruMetaOp m) := h.pldmAnswer

theorem fruTableOp (h : Whole e m) : Whole e (Machine.fruTableOp m) := h.pldmAnswer

theorem deviceIdsOp (h : Whole e m) : Whole e (Machine.deviceIdsOp m) := h.pldmAnswer

theorem firmwareParamsOp (h : Whole e m) : Whole e (Machine.firmwareParamsOp m) := h.pldmAnswer

theorem setUpdate (h : Whole e m) {u} : Whole e (Machine.setUpdate m u) := h.same

theorem requestUpdateOp (h : Whole e m) : Whole e (Machine.requestUpdateOp m) := by
  unfold Machine.requestUpdateOp
  refine h.pldmDo fun h => ?_
  split
  · exact h
  · split
    · exact h.setUpdate
    · exact h

theorem updateDo (h : Whole e m) {cmd f} (hf : ∀ {u}, Whole e m → Whole e (f m u).1) : Whole e (Machine.updateDo m cmd f) :=
  h.pldmDo fun h => by
    split
    · exact h
    · exact hf h

theorem passTableOp (h : Whole e m) {cs} : Whole e (Machine.passTableOp m cs) := by
  unfold Machine.passTableOp
  refine h.updateDo fun h => ?_
  split
  · exact h
  · exact h.setUpdate

theorem updateComponentOp (h : Whole e m) {kind} : Whole e (Machine.updateComponentOp m kind) := by
  unfold Machine.updateComponentOp
  refine h.updateDo fun h => ?_
  split
  · exact h
  · exact h.setUpdate

theorem firmwareDataOp (h : Whole e m) {img} : Whole e (Machine.firmwareDataOp m img) := by
  unfold Machine.firmwareDataOp
  split
  · exact h.otherwise (·.same.setUpdate)
  · exact h

theorem verifyOp (h : Whole e m) : Whole e (Machine.verifyOp m) := by
  unfold Machine.verifyOp
  split
  · exact h
  · split
    · exact h.ite (h.same.setUpdate.mgtSend.ite h.same.setUpdate.mgtSend)
    · exact h

theorem activateOp (h : Whole e m) : Whole e (Machine.activateOp m) := by
  unfold Machine.activateOp
  split
  · exact h.pldmAnswer
  · exact h.ite (h.pldmAnswer.ite (h.pldmAnswer.ite h.same.addRecord))

theorem updateStatusOp (h : Whole e m) : Whole e (Machine.updateStatusOp m) := h.pldmAnswer

theorem cancelComponentOp (h : Whole e m) : Whole e (Machine.cancelComponentOp m) := by
  unfold Machine.cancelComponentOp
  refine h.updateDo fun h => ?_
  split
  · exact h.setUpdate
  · exact h

theorem cancelUpdateOp (h : Whole e m) : Whole e (Machine.cancelUpdateOp m) := h.updateDo fun h => h.setUpdate

theorem scramble (h : Whole e m) : Whole e (Machine.scramble m) := h.same

theorem testStartOp (h : Whole e m) {mode target effecter} : Whole e (Machine.testStartOp m mode target effecter) := by
  unfold Machine.testStartOp
  split
  · exact h.same
  · split
    · exact h.same.losePort.dropPort
    · exact h.same.rest
    · exact h.same.scramble
    · exact h.same

theorem testDone (h : Whole e m) {pass detail} : Whole e (Machine.testDone m pass detail) := h.same

theorem testEndOp (h : Whole e m) {pass detail found} : Whole e (Machine.testEndOp m pass detail found) := by
  unfold Machine.testEndOp
  split
  · exact h
  · exact (h.foldl fun _ _ _ h => h.markPc).testDone.requestReset
  · exact ((h.foldl fun _ _ _ h => h.when (·.bump)).foldl fun _ _ _ h => h.when (·.bump)).testDone
  · exact (h.foldl fun _ _ _ h => h.failSensor).testDone
  · exact h.testDone

theorem testEffecterOp (h : Whole e m) {mode target} : Whole e (Machine.testEffecterOp m mode target) := h.pldmDo fun h => h.testStartOp

end Whole

end Sys2Proof.Proofs

/-! Register writes. -/

namespace Sys2Proof.Proofs

open Sys2Proof Sys2Proof.Machine Sys2Proof.Laws

namespace Whole

variable {e : Wiped} {m t : Mod}

theorem latchHi (h : Whole e m) {w p r} : Whole e (Machine.latchHi m w p r) := by
  unfold Machine.latchHi
  split
  · exact h
  · exact h.same

theorem latchErr (h : Whole e m) {w p} : Whole e (Machine.latchErr m w p) := h.setErrPage

theorem readEffect (h : Whole e m) {w p r} : Whole e (Machine.readEffect m w p r) := by
  unfold Machine.readEffect
  split
  · exact h.readCounter.ite (h.latchErr.ite h.latchHi)
  · exact h.latchHi

theorem regRead (h : Whole e m) {w off} : Whole e (Machine.regRead m w off).2 := by
  unfold Machine.regRead
  split
  · exact h
  · exact (h.when (·.newNonce)).readEffect

theorem evtWrite (h : Whole e m) {p en v} : Whole e (Machine.evtWrite m p en v) := h.writePlain.when (·.rest.risen)

theorem ctlWrite (h : Whole e m) {p v} : Whole e (Machine.ctlWrite m p v) := (h.when (·.restartOp)).outOp.ite (h.when (·.restartOp)).returnOp

theorem wlkWrite (h : Whole e m) {die inst v} : Whole e (Machine.wlkWrite m die inst v) :=
  h.ite (h.foldl fun _ _ _ h => h.foldl fun _ _ _ h => h.setRegN).setRegN

theorem chuCmd (h : Whole e m) {v} : Whole e (Machine.chuCmd m v) := by
  unfold Machine.chuCmd
  split
  · exact h.chuteCreate
  · exact h.chuteDestroy
  · exact h.chuteQuery
  · exact h

theorem tckReset (h : Whole e m) {code} : Whole e (Machine.tckReset m code) := h.when (·.requestReset)

theorem portWrite (h : Whole e m) {n v} : Whole e (Machine.portWrite m n v) := h.portEnableOp.when (·.enterRecovery)

theorem vlkWrite (h : Whole e m) {v} : Whole e (Machine.vlkWrite m v) := h.otherwise fun h => h.writePlain.when (·.enterRecovery)

theorem tokenWrite (h : Whole e m) {v} : Whole e (Machine.tokenWrite m v) := h.otherwise fun h => h.writePlain.when (·.tokenSubmitOp)

theorem spdmWrite (h : Whole e m) {v} : Whole e (Machine.spdmWrite m v) := h.otherwise fun h => h.writePlain.when (·.spdmGoOp)

theorem testWrite (h : Whole e m) {v} : Whole e (Machine.testWrite m v) := h.otherwise fun h => h.writePlain.when (·.testStartOp)

theorem alertWrite (h : Whole e m) {v} : Whole e (Machine.alertWrite m v) := h.same

/-- A write to a register that takes it, or to the next one that may. -/
theorem orWrite {o p : Option Mod} (ho : ∀ u, o = some u → Whole e u) (hp : ∀ u, p = some u → Whole e u) : ∀ u, o.or p = some u → Whole e u :=
  fun u hu => (Option.or_eq_some_iff.1 hu).elim (ho u) fun hu => hp u hu.2

theorem oneWrite {c : Prop} [Decidable c] (h : Whole e t) : ∀ u, (if c then some t else none) = some u → Whole e u := by
  intro u hu
  split at hu <;> cases hu
  exact h

theorem specialWrite (h : Whole e m) {p : Page} {r : Nat} {v : Word} : ∀ u, Machine.specialWrite m p r v = some u → Whole e u := by
  unfold Machine.specialWrite
  dsimp only
  split
  · exact orWrite (orWrite (oneWrite h.sqDoorbell) (oneWrite h.cqDoorbell)) (oneWrite h.chuCmd)
  · exact oneWrite h.tckReset
  · exact oneWrite h.replayAck
  · exact oneWrite h.wlkWrite
  · exact oneWrite h.hauFreeOp
  · exact orWrite (orWrite (oneWrite h.hostResWrite) (oneWrite h.loadCmd)) (oneWrite h.mailboxWrite)
  · exact oneWrite h.vlkWrite
  · split
    · exact orWrite (oneWrite (h.when (·.mbxSend))) (oneWrite h.mbxPop)
    · exact oneWrite h.portWrite
  · exact orWrite (orWrite (oneWrite h.secLockOp) (oneWrite h.tokenWrite)) (oneWrite h.spdmWrite)
  · exact orWrite (oneWrite h.alertWrite) (oneWrite h.testWrite)
  · exact fun u hu => absurd hu.symm (Option.some_ne_none u)

theorem regWrite (h : Whole e m) {off v} : Whole e (Machine.regWrite m off v) := by
  unfold Machine.regWrite
  split
  · exact h
  next p r _ =>
    refine h.ctlWrite.ite (h.evtWrite.ite (h.evtWrite.ite ?_))
    cases hs : Machine.specialWrite m p r v with
    | none => exact h.writePlain
    | some u => exact h.specialWrite u hs

theorem serveRegRd (h : Whole e m) {tag off width} : Whole e (Machine.serveRegRd m tag off width) := h.replyMsg.ite h.regRead.replyMsg

theorem serveRegWr (h : Whole e m) {tag off width v} : Whole e (Machine.serveRegWr m tag off width v) := (h.when (·.regWrite)).ackMsg

theorem debugOp (h : Whole e m) {r} : Whole e (Machine.debugOp m r) := by
  unfold Machine.debugOp
  split
  · exact h
  · split
    · exact h.regRead.aditSend
    · exact h.regWrite
    · exact h.aditSend
    · exact h.writeBytes
    · exact h.when (·.same)

end Whole

end Sys2Proof.Proofs

/-! Demands served again. -/

namespace Sys2Proof.Proofs

open Sys2Proof Sys2Proof.Machine Sys2Proof.Laws

namespace Whole

variable {e : Wiped} {m t : Mod}

theorem tryDemand (h : Whole e m) {x0} : Whole e (Machine.tryDemand m x0).1 := by
  unfold Machine.tryDemand
  split
  · exact h.tryLoad
  · exact h.tryLease
  · exact h.tryStore
  · exact h.serveRegRd
  · exact h.serveRegWr

theorem hostDemand (h : Whole e m) {d} : Whole e (Machine.hostDemand m d) := h.ite (h.same.ite (h.tryDemand.otherwise (·.rest)))

theorem serveDemands (h : Whole e m) {n} : Whole e (Machine.serveDemands n m) := by
  induction n generalizing m with
  | zero => exact h
  | succ n ih =>
    unfold Machine.serveDemands
    split
    · exact h
    · exact (ih h.tryDemand.rest).ite h.tryDemand

theorem retryDemands (h : Whole e m) : Whole e (Machine.retryDemands m) := h.serveDemands

theorem loadOp (h : Whole e m) {tag addr n x} : Whole e (Machine.loadOp m tag addr n x) := h.hostDemand

theorem leaseOp (h : Whole e m) {tag addr want x} : Whole e (Machine.leaseOp m tag addr want x) := h.protocolError.ite h.hostDemand

theorem storeLines (h : Whole e m) {tag addr d} : Whole e (Machine.storeLines m tag addr d) := h.protocolError.ite h.hostDemand

theorem storeMasked (h : Whole e m) {tag addr en line x} : Whole e (Machine.storeMasked m tag addr en line x) := h.hostDemand

theorem regRdOp (h : Whole e m) {tag off width} : Whole e (Machine.regRdOp m tag off width) := h.hostDemand

theorem regWrOp (h : Whole e m) {tag off width v} : Whole e (Machine.regWrOp m tag off width v) := h.hostDemand

end Whole

end Sys2Proof.Proofs

/-! Commands taken in parts. -/

namespace Sys2Proof.Proofs

open Sys2Proof Sys2Proof.Machine Sys2Proof.Laws

namespace Whole

variable {e : Wiped} {m t : Mod}

theorem mediaEnd (h : Whole e m) {c} : Whole e (Machine.mediaEnd m c) := h.otherwise (·.workEnd)

theorem skewEnd (h : Whole e m) {c n want got group} : Whole e (Machine.skewEnd m c n want got group) := by
  unfold Machine.skewEnd
  dsimp only
  split
  · exact h.when (·.skewAt)
  · split
    · exact h.skewSeen.setCmd
    · split
      · exact h.skewSeen.buildFail
      · exact h.skewSeen
  · exact h

theorem partOp (h : Whole e m) {op p run} (hr : ∀ {n}, Whole e m → Whole e (run m n)) : Whole e (Machine.partOp m op p run) := by
  unfold Machine.partOp
  split
  · exact h.headOp
  · split
    · exact h
    · split
      · exact h
      · split
        · exact hr h
        · exact h.mediaEnd
        · exact h.skewEnd

theorem mergeRun (h : Whole e m) {cid} : Whole e (Machine.mergeRun m cid) := by
  unfold Machine.mergeRun
  split
  · exact h.mergeStepOp
  · exact h

end Whole

end Sys2Proof.Proofs

/-! Damaged words of the ledger and of the work records (R569). -/

namespace Sys2Proof.Proofs

open Sys2Proof Sys2Proof.Machine Sys2Proof.Laws

namespace Whole

variable {e : Wiped} {m t : Mod}

theorem revive (h : Whole e m) {cid i} : Whole e (Machine.revive cid m i) := by
  unfold Machine.revive
  split
  · exact h
  · exact h.same.setColl

theorem dropPublish (h : Whole e m) {c} : Whole e (Machine.dropPublish m c) := h.dropPub.rest.setColl

theorem undoRec (h : Whole e m) {r} : Whole e (Machine.undoRec m r) := by
  cases hr : r.redo with
  | insert =>
    simp only [Machine.undoRec, hr]
    exact h.dropBatch.foldl fun _ _ _ h => h.revive
  | delete =>
    simp only [Machine.undoRec, hr]
    exact h.foldl fun _ _ _ h => h.revive
  | publish =>
    simp only [Machine.undoRec, hr]
    split
    · exact h.when (·.dropPublish)
    · exact h
  | create =>
    simp only [Machine.undoRec, hr]
    exact h.rest
  | drop =>
    simp only [Machine.undoRec, hr]
    split
    · exact h.setColl
    · exact h
  | model =>
    simp only [Machine.undoRec, hr]
    exact foldl h.rest fun _ _ _ h => h.releasePage
  | _ =>
    simp only [Machine.undoRec, hr]
    exact h

theorem addAgain (h : Whole e m) {r} : Whole e (Machine.addAgain m r) := h.addRecord

theorem ringDamage (h : Whole e m) {w} : Whole e (Machine.ringDamage m w) := by
  unfold Machine.ringDamage
  split
  · exact h
  · refine foldl ?_ fun _ _ _ h => h.addAgain
    refine (h.foldl fun _ _ _ h => h.undoRec).rest.foldl fun _ _ _ h => ?_
    split
    · exact h.workEnd
    · exact h

theorem workDamage (h : Whole e m) {cid} : Whole e (Machine.workDamage m cid) := by
  unfold Machine.workDamage
  split
  · exact h
  · exact h.finish.ite h.workEnd

theorem faultReport (h : Whole e m) {u code detail} : Whole e (Machine.faultReport m u code detail) :=
  h.logErr.ringDamage.ite (h.logErr.workDamage.ite h.unitFaultOp)

end Whole

end Sys2Proof.Proofs

/-! Every command and every step: the statement on cores and buffers. -/

namespace Sys2Proof.Proofs

open Sys2Proof Sys2Proof.Machine Sys2Proof.Laws

section

variable {e : Wiped} {m t : Mod}

namespace Whole

/-- A face run's part: its weights kept where they come with it, or its start. -/
theorem runFacePart (h : Whole e m) {cid : Nat} {w : Option (List Byte)} : Whole e (match w with
    | some w => Machine.keepRun m cid w
    | none => Machine.runFaceStart m cid) := by
  split
  · exact h.keepRun
  · exact h.runFaceStart

theorem gives {c : Instr} {s : State} (ht : Whole e t) (hx : Machine.exec c s = .next { s with mod := t } := by rfl) : Gives c s (Whole e) :=
  (gives_iff hx _).2 ht

/-- Every command keeps the cores and the buffers whole: one lemma above for each. -/
theorem exec {s : State} (h : Whole e s.mod) : ∀ c : Instr, Gives c s (Whole e)
  | .tick => gives h.tickOp.retryDemands
  | .windowStart .. => gives h.windowStart
  | .entryFetch .. => gives h.entryFetchOp
  | .admission => gives h.admissionOp
  | .search .. => gives h.headOp
  | .fetch .. => gives (h.partOp fun h => h.fetchRun)
  | .insert .. => gives h.headOp
  | .upsert .. => gives h.headOp
  | .delete .. => gives h.headOp
  | .embed .. => gives (h.partOp fun h => h.embedRun)
  | .embedInsert .. => gives (h.partOp fun h => h.embedInsertRun)
  | .mergeStockpile .. => gives (h.partOp fun h => h.mergeRun)
  | .buildSegment .. => gives (h.partOp fun h => h.buildRun)
  | .publish .. => gives h.headOp
  | .retireGen .. => gives h.headOp
  | .tableLookup .. => gives (h.partOp fun h => h.lookupRun)
  | .tableUpdate .. => gives (h.partOp fun h => h.updateRun)
  | .runFace .. => gives (h.partOp fun h => h.runFacePart)
  | .runDrill .. => gives (h.partOp fun h => h.runDrillStart)
  | .haulHint .. => gives (h.partOp fun h => h.hintRun)
  | .flush .. => gives (h.partOp fun h => h.flushRun)
  | .abort .. => gives h.headOp
  | .fence .. => gives (h.partOp fun h => h.fenceRun)
  | .collectionCreate .. => gives h.headOp
  | .collectionDrop .. => gives h.headOp
  | .schemaSet .. => gives h.headOp
  | .modelLoad .. => gives (h.partOp fun h => h.modelRun)
  | .generationPublish => gives h.publishSlot
  | .mergeStep .. => gives h.mergeStepOp
  | .automaticMerge .. => gives h.autoMerge
  | .buildCheckpoint .. => gives h.buildCkpt
  | .histogramRecountEnd .. => gives h.recountEnd
  | .generationFreed .. => gives h.genFree
  | .holdExpiry .. => gives h.holdEnd
  | .walkStart .. => gives h.walkStartOp
  | .walkExpansion .. => gives h.walkExpansion
  | .walkEnd .. => gives h.walkEnd
  | .stockpileScanPass .. => gives h.stockScan
  | .flatScanPass .. => gives h.flatScan
  | .riddleMerge .. => gives h.riddleMerge
  | .rerank .. => gives h.rerankOp
  | .emission .. => gives h.emissionOp
  | .searchStopTick .. => gives h.searchStop
  | .stopTick .. => gives h.stopTickOp
  | .documentEnterSlot .. => gives h.enterSlot
  | .chunkEncode .. => gives h.chunkEncode
  | .attentionPartial .. => gives h.attnPartial
  | .partialFold .. => gives h.partialFoldOp
  | .documentComplete .. => gives h.docComplete
  | .recordEnterRing => gives h.enterRing
  | .groupClose => gives h.closeGroup
  | .groupProgrammed .. => gives h.groupProgrammedOp
  | .groupProgramFail .. => gives h.groupFailOp
  | .imageRefresh .. => gives h.imageRefreshOp
  | .writeBufferProgram .. => gives h.wbProgramOp
  | .sectorAdd .. => gives h.sectorAddOp
  | .ksplitAccept .. => gives h.ksAcceptOp
  | .haulCopy .. => gives h.haulCopyOp
  | .haulSwitch .. => gives h.haulSwitchOp
  | .haulRelease .. => gives h.haulReleaseOp
  | .demotion => gives h.demotionOp
  | .hotPageWindow .. => gives h.hotWindowOp
  | .tablePageSwitch .. => gives h.tableSwitchOp
  | .pageRebuild .. => gives h.rebuildOp
  | .rowRemap .. => gives h.rowRemapOp
  | .frameRetirement .. => gives h.frameRetire
  | .patrolScrub .. => gives h.scrubOp
  | .flashBlockFailure .. => gives h.blockFail
  | .flashChannelFailure .. => gives h.channelFail
  | .chuSqDb .. => gives h.sqDoorbell
  | .chuCqDb .. => gives h.cqDoorbell
  | .create .. => gives h.chuteCreate
  | .destroy .. => gives h.chuteDestroy
  | .query .. => gives h.chuteQuery
  | .chuteDrained .. => gives h.chuteFree
  | .coalescingTimer .. => gives h.coalesceTimer
  | .chuWeightsWrite .. => gives h.writePlain
  | .wlkCfgWrite .. => gives h.wlkWrite
  | .registerWrite .. => gives h.regWrite
  | .rcRead .. => gives h.regRead
  | .loRead .. => gives h.regRead
  | .blkErrLogLoRead .. => gives h.latchErr
  | .blkEvtPendWrite .. => gives h.evtWrite
  | .blockEventRise .. => gives h.sampleEvt
  | .tckReset .. => gives h.tckReset
  | .ldgReplayAck .. => gives h.replayAck
  | .restart .. => gives h.restartOp
  | .outOfService .. => gives h.outOp
  | .returnUnit .. => gives h.returnOp
  | .selfTestEnd .. => gives h.selfTestOp
  | .rampWindow .. => gives h.rampOp
  | .hauFree .. => gives h.hauFreeOp
  | .drlHostResWrite .. => gives h.hostResWrite
  | .drlLoadCmd .. => gives h.loadCmd
  | .drlCmdDb .. => gives h.doorbellOp
  | .drillRunStart .. => gives h.runStart
  | .drillRunEnd .. => gives h.drillEnd.retryDemands
  | .drillWatchdog .. => gives h.watchdogOp
  | .memoryWipe => gives h.wipeOp
  | .secLock .. => gives h.secLockOp
  | .secNonce0Read => gives h.newNonce
  | .tokenSubmit .. => gives h.tokenSubmitOp
  | .lifeCycleReset .. => gives h.lifeCycleOp
  | .spdmGo => gives h.spdmGoOp
  | .fabMbxSend => gives h.mbxSend
  | .fabMbxPop .. => gives h.mbxPop
  | .portRetrain .. => gives h.enterRecovery
  | .portEnableWrite .. => gives h.portEnableOp
  | .retrain => gives h.enterRecovery
  | .testModeStart .. => gives h.testStartOp
  | .testModeEnd .. => gives h.testEndOp
  | .flitReceived .. => gives h.flitOp
  | .retryRequest .. => gives h.retryOp
  | .acknowledgement .. => gives h.ackOp
  | .creditReturn .. => gives h.creditOp
  | .linkDetect .. => gives h.detectOp
  | .linkEqualised .. => gives h.equalisedOp
  | .linkActive .. => gives h.activeOp
  | .recovery .. => gives h.recoveryOp
  | .recoveryFail .. => gives h.recoveryFailOp
  | .linkLossTimeout => gives h.linkLossOp
  | .load .. => gives h.loadOp
  | .loadLease .. => gives h.leaseOp
  | .store .. => gives h.storeLines
  | .storeMask .. => gives h.storeMasked
  | .regRd .. => gives h.regRdOp
  | .regWr .. => gives h.regWrOp
  | .hostInv .. => gives h.hostInvOp
  | .surrender .. => gives h.surrenderOp.retryDemands
  | .recallAck .. => gives h.recallAckOp.retryDemands
  | .recallTimeout .. => gives h.recallTimeoutOp.retryDemands
  | .hostAck .. => gives h.hostAckOp
  | .hostReply .. => gives h.hostReplyOp
  | .discover .. => gives h.discoverOp
  | .discoverRsp .. => gives h.pathResponse
  | .assign .. => gives h.assignOp
  | .assignRsp .. => gives h.pathResponse
  | .routeWr .. => gives h.deliverType
  | .routeCommit .. => gives h.deliverType
  | .mgtRsp .. => gives h.deliverType
  | .notice .. => gives h.deliverType
  | .hello .. => gives h.helloOp
  | .portLoss .. => gives h.portLossOp
  | .frameForward .. => gives h.forwardOp
  | .frameDeliver .. => gives h.deliverOn
  | .stallDrop .. => gives h.stallDropOp
  | .unreach .. => gives h.deliverType
  | .isolationTimeout => gives h.isolationOp
  | .srchReq .. => gives h.srchReqOp
  | .srchPart .. => gives h.srchPartOp
  | .ksplitPart .. => gives h.ksplitPartOp
  | .ksplitAck .. => gives h.ksplitAckOp
  | .ksplitResend .. => gives h.ksplitResendOp
  | .unitFaultReport .. => gives h.faultReport
  | .blockRestartEnd .. => gives h.restartEnd
  | .unitWatchdog .. => gives h.unitWatchdogOp
  | .lockstepMismatch .. => gives h.lockstepOp
  | .mirrorUncorrectable => gives h.mirrorErrorOp
  | .mirrorRebuildEnd .. => gives h.mirrorBuiltOp
  | .seamReplay .. => gives h.seamReplayOp
  | .sensorSample .. => gives h.sensorSampleOp
  | .sensorFail .. => gives h.sensorFailOp
  | .safetyTrip .. => gives h.safetyStop
  | .analogTrip .. => gives h.analogTripOp
  | .analogTripDelay => gives h.analogDelayOp
  | .mcLockstepMismatch => gives h.mcMismatchOp
  | .mcRestartEnd => gives h.mcRestartOp
  | .railCurrentLimit .. => gives h.railLimitOp
  | .inputCurrentLimit => gives h.inputLimitOp
  | .thermalEvent .. => gives h.thermalEvent
  | .thermalModelRefine .. => gives h.rest
  | .peakStall => gives h.peakStall
  | .supplyEvent .. => gives h.supplyEvent
  | .supplyDipEnd => gives h.dipEnd
  | .dipTimeout => gives h.dipTimeout
  | .supplyBelow40v .. => gives h.below40Op
  | .inputOvervoltage .. => gives h.overvoltageOp
  | .inputSwitchClose .. => gives h.switchCloseOp
  | .referenceLoss => gives h.referenceLossOp
  | .resetN .. => gives h.resetNOp
  | .resetNRelease => gives h.resetNRelease
  | .mainEnFall => gives h.mainEnFallOp
  | .standbyPower => gives h.standbyPowerOp
  | .powerOn .. => gives h.powerOnOp
  | .railFailure .. => gives h.railFailureOp
  | .autoRestart => gives h.autoRestartOp
  | .deviceReset .. => gives h.resetBegin
  | .quiesceEnd => gives h.quiesceEndOp
  | .bootChain .. => gives h.bootChainOp
  | .benchLoad => gives h.benchLoadOp
  | .replay => gives h.replayOp
  | .ready => gives h.readyOp
  | .transitionResume => gives h.transitionResume
  | .alu .. => gives h.aluRun
  | .addi .. => gives h.addiRun
  | .andi .. => gives h.andiRun
  | .ori .. => gives h.oriRun
  | .xori .. => gives h.xoriRun
  | .lui .. => gives h.luiRun
  | .shi .. => gives h.shiRun
  | .ld .. => gives h.loadRun
  | .lw .. => gives h.loadRun
  | .sd .. => gives h.storeRun
  | .sw .. => gives h.storeRun
  | .lh .. => gives h.loadRun
  | .lbu .. => gives h.loadRun
  | .sh .. => gives h.storeRun
  | .sb .. => gives h.storeRun
  | .beq .. => gives h.branchRun
  | .bne .. => gives h.branchRun
  | .blt .. => gives h.branchRun
  | .bge .. => gives h.branchRun
  | .bltu .. => gives h.branchRun
  | .bgeu .. => gives h.branchRun
  | .jal .. => gives h.jalRun
  | .jalr .. => gives h.jalrRun
  | .exit .. => gives h.exitRun
  | .step .. => gives h.syncRun
  | .barrier .. => gives h.syncRun
  | .csrr .. => gives h.csrrRun
  | .setb .. => gives h.setbRun
  | .vectorArithmetic .. => gives h.vecArith
  | .vectorFunction .. => gives h.vecFunct
  | .vectorCompare .. => gives h.vecCompare
  | .vectorReduce .. => gives h.vecReduce
  | .vectorConvert .. => gives h.vecConvertChecked
  | .vectorMove .. => gives h.vecMove
  | .vld .. => gives h.vldRun
  | .vst .. => gives h.vstRun
  | .tdesc .. => gives h.tdescRun
  | .torg .. => gives h.torgRun
  | .tmma .. => gives h.tmmaRun
  | .tdrain .. => gives h.tdrainRun
  | .drainEnd .. => gives h.drainEndOp
  | .tpart .. => gives h.tpartRun
  | .tfin .. => gives h.tfinRun
  | .tstat .. => gives h.tstatRun
  | .xfer .. => gives h.xferRun
  | .xwait .. => gives h.xwaitRun
  | .qarith .. => gives h.qarithRun
  | .qfunc .. => gives h.qfuncRun
  | .qcmp .. => gives h.qcmpRun
  | .qred .. => gives h.qredRun
  | .qcvt .. => gives h.qcvtRun
  | .qmov .. => gives h.qmovRun
  | .bld .. => gives h.bldRun
  | .bst .. => gives h.bstRun
  | .bstw .. => gives h.bstwRun
  | .qld .. => gives h.qldRun
  | .qst .. => gives h.qstRun
  | .qtbl .. => gives h.qtblRun
  | .lins .. => gives h.linsRun
  | .entdaa .. => gives h.entdaaOp
  | .setnewda .. => gives h.setnewdaOp
  | .rstdaa => gives h.rstdaaOp
  | .getpid => gives h.getpidOp
  | .getbcr => gives h.i3cAnswer
  | .getdcr => gives h.i3cAnswer
  | .getstatus => gives h.getstatusOp
  | .getmwl => gives h.getmwlOp
  | .setmwl .. => gives h.setmwlOp
  | .getmrl => gives h.getmrlOp
  | .setmrl .. => gives h.setmrlOp
  | .enec .. => gives h.ibiOp
  | .disec .. => gives h.ibiOp
  | .rstact .. => gives h.rstactOp
  | .setEndpointId .. => gives h.setEidOp
  | .getEndpointId => gives h.getEidOp
  | .getEndpointUuid => gives h.getUuidOp
  | .getMctpVersionSupport => gives h.mctpVersionsOp
  | .getMessageTypeSupport => gives h.mctpTypesOp
  | .getTid => gives h.getTidOp
  | .setTid .. => gives h.setTidOp
  | .getPldmVersion .. => gives h.pldmVersionOp
  | .getPldmTypes => gives h.pldmTypesOp
  | .getPldmCommands .. => gives h.pldmCommandsOp
  | .getPdrRepositoryInfo => gives h.pdrInfoOp
  | .getPdr .. => gives h.getPdrOp
  | .getSensorReading .. => gives h.sensorReadingOp
  | .getStateSensorReadings .. => gives h.stateReadingOp
  | .setNumericEffecterValue .. => gives h.numericEffecterOp
  | .mainPowerEffecter .. => gives h.powerEffecterOp
  | .resetEffecter .. => gives h.resetEffecterOp
  | .testModeEffecter .. => gives h.testEffecterOp
  | .setEventReceiver .. => gives h.eventReceiverOp
  | .getFruRecordTableMetadata => gives h.fruMetaOp
  | .getFruRecordTable => gives h.fruTableOp
  | .queryDeviceIdentifiers => gives h.deviceIdsOp
  | .getFirmwareParameters => gives h.firmwareParamsOp
  | .requestUpdate => gives h.requestUpdateOp
  | .passComponentTable .. => gives h.passTableOp
  | .updateComponent .. => gives h.updateComponentOp
  | .requestFirmwareData .. => gives h.firmwareDataOp
  | .verifyComplete => gives h.verifyOp
  | .activateFirmware => gives h.activateOp
  | .getStatus => gives h.updateStatusOp
  | .cancelUpdateComponent => gives h.cancelComponentOp
  | .cancelUpdate => gives h.cancelUpdateOp
  | .getVersion .. => gives h.getVersionOp
  | .getCapabilities .. => gives h.getCapsOp
  | .negotiateAlgorithms .. => gives h.negotiateOp
  | .getDigests .. => gives h.getDigestsOp
  | .getCertificate .. => gives h.getCertOp
  | .challenge .. => gives h.challengeOp
  | .getMeasurements .. => gives h.getMeasOp
  | .referenceReturn => gives h.referenceReturnOp
  | .standbyLoss => gives h.standbyLossOp
  | .trialBootTimeout => gives h.trialTimeoutOp
  | .railSequenceRetry => gives h.railRetryOp
  | .debugUartAccess .. => gives h.debugOp

/-- So does a step, which runs the command at the front of the queue. -/
theorem step {s t : State} (h : Whole e s.mod) (ht : Machine.step s = .next t) : Whole e t.mod := by
  unfold Machine.step at ht
  split at ht
  · cases ht
    exact h
  next c rest _ =>
    obtain ⟨u, hu, -, hwhole⟩ := exec (s := { s with pending := rest }) h c
    rw [hu] at ht
    cases ht
    exact hwhole

end Whole

end

/-- Settles O60: every command keeps each part whole, so a step does. -/
theorem everyStepKeepsCoresAndBuffersWhole : Obligations.EveryStepKeepsCoresAndBuffersWhole :=
  fun _ _ hcores hbufs ht => whole_iff.1 ((whole_iff.2 ⟨hcores, hbufs⟩).step ht)

end Sys2Proof.Proofs

/-! Drills as the host and the module start and stop them (chapter 11). -/

namespace Sys2Proof.Proofs

open Sys2Proof Sys2Proof.Machine Sys2Proof.Laws

section
variable (s : State) (P : Mod → Prop) (k n : Nat)

@[simp] theorem gives_drlHostResWrite (v : Word) : Gives (.drlHostResWrite k v) s P ↔ P (hostResWrite s.mod k v) := gives_iff rfl P
@[simp] theorem gives_drlLoadCmd (w : Nat) (v : Word) : Gives (.drlLoadCmd k w v) s P ↔ P (loadCmd s.mod k w v) := gives_iff rfl P
@[simp] theorem gives_drlCmdDb (q : BitVec 16) (mb : Bool) :
    Gives (.drlCmdDb k n q mb) s P ↔ P (doorbellOp s.mod k n q.toNat mb) := gives_iff rfl P
@[simp] theorem gives_drillRunStart : Gives (.drillRunStart k n) s P ↔ P (runStart s.mod k n) := gives_iff rfl P
@[simp] theorem gives_drillRunEnd : Gives (.drillRunEnd k n) s P ↔ P (retryDemands (drillEnd s.mod k n)) := gives_iff rfl P
@[simp] theorem gives_drillWatchdog : Gives (.drillWatchdog k n) s P ↔ P (watchdogOp s.mod k n) := gives_iff rfl P
@[simp] theorem gives_memoryWipe : Gives .memoryWipe s P ↔ P (wipeOp s.mod) := gives_iff rfl P

end

/-! Drills by stack and number. -/

section
variable {m : Mod} {k n : Nat} {d x : Drill}

theorem drillOf_spec (h : drillOf m k n = some d) : d ∈ m.drills ∧ d.stack = k ∧ d.n = n := by
  have hp := List.find?_some h
  exact ⟨List.mem_of_find?_eq_some h, by simpa using hp⟩

theorem drillOf_of_drills {t : Mod} (h : t.drills = m.drills) (k n : Nat) : drillOf t k n = drillOf m k n :=
  congrArg (List.find? fun d : Drill => d.stack = k && d.n = n) h

/-- Finding by a property that the replaced records and their replacement share. -/
theorem find_mapIf_same {α : Type} (p : α → Bool) (x : α) (hx : p x = true) (l : List α) :
    (mapIf p (fun _ => x) l).find? p = (l.find? p).map fun _ => x := by
  induction l with
  | nil => rfl
  | cons y l ih =>
    rw [mapIf] at ih ⊢
    cases hy : p y <;> simp [hy, hx, ih]

/-- Finding by a property that neither the replaced records nor their replacement has. -/
theorem find_mapIf_other {α : Type} (p q : α → Bool) (x : α) (hx : q x = false) (hpq : ∀ y, p y = true → q y = false) (l : List α) :
    (mapIf p (fun _ => x) l).find? q = l.find? q := by
  induction l with
  | nil => rfl
  | cons y l ih =>
    rw [mapIf] at ih ⊢
    cases hy : p y
    · simp [hy, List.find?_cons, ih]
    · simp [hy, ih, hx, hpq y hy]

theorem drillOf_setDrill_self (h : drillOf m k n = some d) (hs : x.stack = k) (hn : x.n = n) : drillOf (setDrill m x) k n = some x := by
  subst hs hn
  unfold drillOf setDrill
  rw [find_mapIf_same _ _ (by simp), show List.find? _ m.drills = some d from h]
  rfl

theorem decide_and_ne {p q : Prop} [Decidable p] [Decidable q] (h : p → ¬ q) : (decide p && decide q) = false := by
  simpa using h

theorem drillOf_setDrill_ne {a b : Nat} (h : (a, b) ≠ (x.stack, x.n)) : drillOf (setDrill m x) a b = drillOf m a b := by
  refine find_mapIf_other _ _ x ?_ (fun y hy => ?_) m.drills
  · exact decide_and_ne fun hs hn => h (by rw [hs, hn])
  · obtain ⟨hs, hn⟩ : y.stack = x.stack ∧ y.n = x.n := by simpa using hy
    exact decide_and_ne fun hs' hn' => h (by rw [← hs', ← hn', hs, hn])

end

/-! Reservation and loading (R351, R379). -/

section
variable {m : Mod} {k n : Nat} {v : Word}

theorem hostResWrite_locked (h : m.sec.locked = true) : regN (hostResWrite m k v) (drlP k) 0xA8 = regN m (drlP k) 0xA8 := by
  have hne : ∀ (p : Page) (r : Nat), r % 4096 ≠ 0xA8 → pageBase (drlP k) + 0xA8 ≠ pageBase p + r :=
    fun p r hr => regAddr_ne_of_offset (Ne.symm hr)
  simp only [hostResWrite, h, if_true]
  exact congrArg BitVec.toNat (getReg_lockViolation_ne (hne _ _ (by decide)) (hne _ _ (by decide)) (hne _ _ (by decide)))

theorem hostResWrite_range (hl : m.sec.locked = false) (h : 4 < bits v.toNat 0 3) : hostResWrite m k v = m := by
  simp [hostResWrite, hl, h]

/-- The drills that a new reservation moves into the host's share or out of it. -/
def movedByRes (m : Mod) (k : Nat) (v : Word) (d : Drill) : Bool :=
  d.stack = k && (decide (12 - bits (regN m (drlP k) 0xA8) 0 3 ≤ d.n % 12) != decide (12 - bits v.toNat 0 3 ≤ d.n % 12))

theorem hostResWrite_open (hl : m.sec.locked = false) (h : bits v.toNat 0 3 ≤ 4) : hostResWrite m k v =
    if (m.drills.filter (movedByRes m k v)).all (·.ready) then setRegN m (drlP k) 0xA8 (bits v.toNat 0 3) else bump m secP 0x48 := by
  simp only [hostResWrite, hl, if_neg (Nat.not_lt.mpr h), Bool.false_eq_true, if_false]
  rfl

theorem hostResWrite_allReady (hl : m.sec.locked = false) (h : bits v.toNat 0 3 ≤ 4)
    (hr : ∀ d ∈ m.drills, d.stack = k → d.ready = true) : hostResWrite m k v = setRegN m (drlP k) 0xA8 (bits v.toNat 0 3) := by
  rw [hostResWrite_open hl h, if_pos]
  simp only [List.all_eq_true, List.mem_filter, movedByRes, Bool.and_eq_true, decide_eq_true_eq, and_imp]
  exact fun d hd hs _ => hr d hd hs

theorem hostResWrite_busy {d : Drill} (hl : m.sec.locked = false) (h : bits v.toNat 0 3 ≤ 4) (hd : d ∈ m.drills) (hs : d.stack = k)
    (hr : d.ready = false) (hres : hostReserved m k d.n = true) (hn : d.n % 12 < 12 - bits v.toNat 0 3) :
    hostResWrite m k v = bump m secP 0x48 := by
  rw [hostResWrite_open hl h, if_neg]
  have hold : 12 - bits (regN m (drlP k) 0xA8) 0 3 ≤ d.n % 12 := of_decide_eq_true hres
  intro hall
  have hm : movedByRes m k v d = true := by simp [movedByRes, hs, hold, Nat.not_le.mpr hn]
  have := List.all_eq_true.mp hall d (List.mem_filter.mpr ⟨hd, hm⟩)
  simp [hr] at this

theorem regN_setRegN_self {p : Page} {r w : Nat} (h : w < 2 ^ 32) : regN (setRegN m p r w) p r = w := by
  rw [regN, getReg_setRegN_self, BitVec.toNat_ofNat, Nat.mod_eq_of_lt h]

theorem loadDrill_again (d : Drill) (p : PkgVer) (g : Program) : loadDrill (loadDrill d p g) p g = loadDrill d p g := by
  have : (loadDrill d p g).prog = some (p.id, p.ver, g.index) := by
    unfold loadDrill
    split
    · assumption
    · rfl
  exact if_pos this

@[simp] theorem loadDrill_ready (d : Drill) (p : PkgVer) (g : Program) : (loadDrill d p g).ready = d.ready := by
  unfold loadDrill; split <;> rfl
@[simp] theorem loadDrill_stack (d : Drill) (p : PkgVer) (g : Program) : (loadDrill d p g).stack = d.stack := by
  unfold loadDrill; split <;> rfl
@[simp] theorem loadDrill_n (d : Drill) (p : PkgVer) (g : Program) : (loadDrill d p g).n = d.n := by
  unfold loadDrill; split <;> rfl

/-- One drill's load. -/
def loadInto (k : Nat) (p : PkgVer) (g : Program) (m : Mod) (n : Nat) : Mod :=
  match drillOf m k n with
  | some d => if d.ready then setDrill m (loadDrill d p g) else m
  | none => m

theorem loadInto_ready {p : PkgVer} {g : Program} {d : Drill} (h : drillOf m k n = some d) (hr : d.ready = true) :
    loadInto k p g m n = setDrill m (loadDrill d p g) := by
  rw [loadInto, h]; exact if_pos hr

theorem foldl_loadInto_loaded {p : PkgVer} {g : Program} (l : List Nat) {t : Mod} {d : Drill} (hr : d.ready = true) (hl : ∀ x ∈ l, x = n)
    (ht : drillOf t k n = some (loadDrill d p g)) (hf : t = { m with drills := t.drills }) :
    let u := l.foldl (loadInto k p g) t
    drillOf u k n = some (loadDrill d p g) ∧ u = { m with drills := u.drills } := by
  induction l generalizing t with
  | nil => exact ⟨ht, hf⟩
  | cons x l ih =>
    obtain rfl := hl x (.head _)
    obtain ⟨-, hs, hn⟩ := drillOf_spec ht
    rw [List.foldl_cons, loadInto_ready ht (by simpa using hr), loadDrill_again]
    refine ih (fun y hy => hl y (.tail _ hy)) (drillOf_setDrill_self ht hs hn) ?_
    rw [hf]; rfl

/-- A list of the same drill's number, at least once, loads that drill. -/
theorem foldl_loadInto {p : PkgVer} {g : Program} {l : List Nat} {d : Drill} (hd : drillOf m k n = some d) (hr : d.ready = true)
    (hl : ∀ x ∈ l, x = n) (hn : n ∈ l) :
    let u := l.foldl (loadInto k p g) m
    drillOf u k n = some (loadDrill d p g) ∧ u = { m with drills := u.drills } := by
  cases l with
  | nil => simp at hn
  | cons x l =>
    obtain rfl := hl x (.head _)
    obtain ⟨-, hs, hx⟩ := drillOf_spec hd
    rw [List.foldl_cons, loadInto_ready hd hr]
    exact foldl_loadInto_loaded l hr (fun y hy => hl y (.tail _ hy)) (drillOf_setDrill_self hd (by simpa) (by simpa)) rfl

/-- The package that DRL_LOAD_CMD names. -/
def loadPkg (m : Mod) (k w : Nat) : Nat := ((drillOf m k (mbxSel m k w)).map fun d => areaN d 0x10 % 65536).getD 0

theorem loadCmd_noPackage {w : Nat} (h : pkgCur m (loadPkg m k w) = none) : loadCmd m k w v = setRegN m (drlP k) 0xB0 (1 * 2 ^ 28) := by
  unfold loadCmd
  extract_lets p res id
  rw [show pkgCur m id = none from h]

theorem loadCmd_noProgram {w : Nat} {p : PkgVer} (h : pkgCur m (loadPkg m k w) = some p) (hp : drillProgram p (bits v.toNat 16 12) = none) :
    loadCmd m k w v = setRegN m (drlP k) 0xB0 (2 * 2 ^ 28) := by
  unfold loadCmd
  extract_lets q res id
  rw [show pkgCur m id = some p from h]
  simp only [loadCmd.fieldOf', hp, res, q]

/-- The numbers of the drills that a load reaches: those of the host's share that it names. -/
def loadTargets (m : Mod) (k : Nat) (v : Word) : List Nat :=
  (m.drills.filter fun x => x.stack = k && hostReserved m k x.n && (bitAt v.toNat 31 || x.n = bits v.toNat 0 9)).map (·.n)

theorem loadCmd_targets {w : Nat} {p : PkgVer} {g : Program} (h : pkgCur m (loadPkg m k w) = some p)
    (hp : drillProgram p (bits v.toNat 16 12) = some g) (hin : bits v.toNat 0 9 ∈ loadTargets m k v) :
    loadCmd m k w v = setRegN ((loadTargets m k v).foldl (loadInto k p g) m) (drlP k) 0xB0 0 := by
  unfold loadCmd
  extract_lets q res id all t mine
  rw [show pkgCur m id = some p from h]
  simp only [show drillProgram p (loadCmd.fieldOf' v 16 12) = some g from hp]
  have hmine : t ∈ mine := hin
  rw [if_neg (by simp [hmine])]
  rfl

theorem loadCmd_one {w : Nat} {p : PkgVer} {g : Program} {d : Drill} (h : pkgCur m (loadPkg m k w) = some p)
    (hp : drillProgram p (bits v.toNat 16 12) = some g) (hall : bitAt v.toNat 31 = false) (hd : drillOf m k (bits v.toNat 0 9) = some d)
    (hr : d.ready = true) (hres : hostReserved m k d.n = true) :
    let t := loadCmd m k w v
    regN t (drlP k) 0xB0 = 0 ∧ drillOf t k (bits v.toNat 0 9) = some (loadDrill d p g) ∧
      t = { m with regs := t.regs, drills := t.drills } := by
  obtain ⟨hmem, hs, hn⟩ := drillOf_spec hd
  obtain ⟨l, hl⟩ := exists_eq (a' := loadTargets m k v)
  have hin : bits v.toNat 0 9 ∈ l := by
    subst hl
    refine List.mem_map.mpr ⟨d, List.mem_filter.mpr ⟨hmem, ?_⟩, hn⟩
    simp [hs, hres, ← hn]
  have hone : ∀ x ∈ l, x = bits v.toNat 0 9 := by
    intro x hx
    subst hl
    obtain ⟨y, hy, rfl⟩ := List.mem_map.mp hx
    have := (List.mem_filter.mp hy).2
    simp only [hall, Bool.false_or, Bool.and_eq_true, decide_eq_true_eq] at this
    exact this.2
  obtain ⟨hload, hframe⟩ := foldl_loadInto (p := p) (g := g) hd hr hone hin
  rw [loadCmd_targets h hp (hl ▸ hin), ← hl]
  generalize l.foldl (loadInto k p g) m = u at hload hframe
  refine ⟨regN_setRegN_self (by decide), ?_, ?_⟩
  · rw [← hload]
    exact drillOf_of_drills (setRegN_drills ..) ..
  · rw [hframe]
    rfl

end

/-! Doorbell and run (R353 to R356). -/

section
variable {m : Mod} {k n : Nat} {d : Drill}

/-- The conditions of R353 for a doorbell with number `q`. -/
def doorbellMeets (m : Mod) (k n q : Nat) (mb : Bool) (d : Drill) : Prop :=
  d.ready = true ∧ q = (d.seq + 1) % 65536 ∧ regionOk m d mb = true ∧ entryOk d = true ∧ (mb = true → hostReserved m k n = true) ∧
    drillOos m k n = false ∧ d.cmd = none

theorem doorbellOp_accepted {q : Nat} {mb : Bool} (hd : drillOf m k n = some d) (h : doorbellMeets m k n q mb d) :
    doorbellOp m k n q mb = doorbellOk m d := by
  obtain ⟨hready, hseq, hregion, hentry, hres, hoos, hcmd⟩ := h
  have hres' : (!mb || hostReserved m k n) = true := by cases mb <;> simp_all
  simp only [doorbellOp, hd]
  exact if_pos (by simp [hready, hseq, hregion, hentry, hres', hoos, hcmd])

theorem doorbellOp_refused {q : Nat} {mb : Bool} (hd : drillOf m k n = some d) (h : ¬ doorbellMeets m k n q mb d) :
    doorbellOp m k n q mb = setDrill m { d with dbErr := true } := by
  simp only [doorbellOp, hd]
  refine if_neg fun hb => h ?_
  simp only [Bool.and_eq_true, decide_eq_true_eq, Bool.or_eq_true, Bool.not_eq_true', Option.isNone_iff_eq_none] at hb
  obtain ⟨⟨⟨⟨⟨⟨hready, hseq⟩, hregion⟩, hentry⟩, hres⟩, hoos⟩, hcmd⟩ := hb
  exact ⟨hready, hseq, hregion, hentry, fun hmb => hres.resolve_left (by simp [hmb]), hoos, hcmd⟩

theorem doorbellOk_spec (hd : drillOf m k n = some d) :
    let t := doorbellOk m d
    (∃ x, drillOf t k n = some x ∧ x.ready = false ∧ x.seq = (d.seq + 1) % 65536 ∧ x.region = areaRegion d ∧ x.started = now m ∧
      x.dbErr = false) ∧ regN t (drlP k) 0xB4 = min (regN m (drlP k) 0xB4 + 1) 0xFFFFFFFF := by
  obtain ⟨-, hs, hn⟩ := drillOf_spec hd
  unfold doorbellOk
  extract_lets x u
  have hlink := Portion.Only.foldl (p := onLink) (fun t l => addRecall_onLink t l 0 .claim) (regionLeases u x) u
  have hcount : CountsWrites u ((regionLeases u x).foldl (fun m l => addRecall m l 0 .claim) u) :=
    .foldl (fun _ _ => addRecall_countsWrites ..) _ u
  constructor
  · refine ⟨x, ?_, rfl, rfl, rfl, rfl, rfl⟩
    rw [drillOf_of_drills (hlink.same Mod.drills fun _ _ => rfl)]
    exact drillOf_setDrill_self hd hs hn
  · rw [← hs, regN, hcount.same _ _ (by decide)]
    exact regN_bump (setDrill m x) (drlP d.stack) 0xB4 1

theorem runStart_refused (hd : drillOf m k n = some d)
    (h : d.ready = true ∨ d.st ≠ 2 ∨ unitState m (.drill k n) = 2 ∨ regionClear m d = false) : runStart m k n = m := by
  simp only [runStart, hd]
  exact if_pos (by simpa [or_assoc] using h)

theorem runStart_accepted (hd : drillOf m k n = some d) (hr : d.ready = false) (hs : d.st = 2)
    (hu : unitState m (.drill k n) ≠ 2) (hc : regionClear m d = true) :
    runStart m k n = setDrill m { drillEntry d with st := 3, fault := false, exit := 0, skews := 0 } := by
  simp only [runStart, hd]
  exact if_neg (by simp [hr, hs, hu, hc])

theorem logErr_drills (m : Mod) (p : Page) (c a : Nat) : (logErr m p c a).drills = m.drills :=
  (congrArg Mod.drills (logsOn_logErr m p c a true).1).trans rfl

/-- A counter of the page that is neither its error count nor its pending causes is counted past an error record. -/
theorem regN_logErr_bump (m : Mod) (p : Page) {r : Nat} (hr : r % 4096 ≠ 0x20 ∧ r % 4096 ≠ 0x14) (c a : Nat) :
    regN (logErr (bump m p r) p c a) p r = min (regN m p r + 1) 0xFFFFFFFF := by
  rw [regN, (logsOn_logErr (bump m p r) p c a true).2 p r (regAddr_ne_of_offset hr.1) (regAddr_ne_of_offset hr.2)]
  exact regN_bump m p r 1

theorem drillStop_eq (hd : drillOf m k n = some d) (exit st : Nat) (fault : Bool) :
    drillStop m k n exit st fault = setDrill m { d with exit := exit, st := st, fault := fault, ended := true } := by
  unfold drillStop
  rw [hd]

/-- The drill as an exception leaves its command register area. -/
def faultedDrill (d : Drill) (cause a : Nat) : Drill := setArea (drillFaultWords d a) 0xFC (cause % 256)

theorem coreExc_drill_eq (hd : drillOf m k n = some d) (cause a : Nat) : coreExc m (.drill k n) cause a =
    drillStop (logErr (bump (setDrill m (faultedDrill d cause a)) (drlP k) 0xC8) (drlP k) 0x0D
      (n + exitOf cause * 2 ^ 9 + cause * 2 ^ 17)) k n (exitOf cause) 4 true := by
  simp only [coreExc, hd, faultedDrill]

/-- Drill `n` of stack `k` stops with an exit code, its end still to come, and its page counts a fault. -/
theorem coreExc_drill (hd : drillOf m k n = some d) (cause a : Nat) :
    let t := coreExc m (.drill k n) cause a
    (∃ x, drillOf t k n = some x ∧ x.ended = true ∧ x.fault = true ∧ x.exit = exitOf cause ∧ x.st = 4) ∧
      regN t (drlP k) 0xC8 = min (regN m (drlP k) 0xC8 + 1) 0xFFFFFFFF := by
  obtain ⟨-, hs, hn⟩ := drillOf_spec hd
  obtain ⟨x, hx, hxs, hxn⟩ : ∃ x, x = faultedDrill d cause a ∧ x.stack = k ∧ x.n = n := ⟨_, rfl, hs, hn⟩
  rw [coreExc_drill_eq hd, ← hx]
  generalize n + exitOf cause * 2 ^ 9 + cause * 2 ^ 17 = detail
  have hreg := regN_logErr_bump (setDrill m x) (drlP k) (r := 0xC8) (by decide) 0x0D detail
  have hu : drillOf (logErr (bump (setDrill m x) (drlP k) 0xC8) (drlP k) 0x0D detail) k n = some x :=
    (drillOf_of_drills (logErr_drills ..) k n).trans (drillOf_setDrill_self hd hxs hxn)
  generalize logErr (bump (setDrill m x) (drlP k) 0xC8) (drlP k) 0x0D detail = u at hreg hu
  rw [drillStop_eq hu]
  exact ⟨⟨_, drillOf_setDrill_self hu hxs hxn, rfl, rfl, rfl, rfl⟩, hreg⟩

theorem watchdogOp_late (hd : drillOf m k n = some d) (hr : d.ready = false) (he : d.ended = false) (hs : d.st = 3)
    (h : d.started + 2 ^ bits d.cfg 16 5 < now m) : watchdogOp m k n = coreExc m (.drill k n) 0x20 := by
  simp only [watchdogOp, hd]
  exact if_pos (by simp [hr, he, hs, h])

theorem watchdogOp_early (hd : drillOf m k n = some d) (h : now m ≤ d.started + 2 ^ bits d.cfg 16 5) : watchdogOp m k n = m := by
  simp only [watchdogOp, hd]
  exact if_neg (by simp [Nat.not_lt.mpr h])

theorem bitAt_raiseBits_self (m : Mod) (p : Page) (r : Nat) {b : Nat} (hb : b < 32) :
    bitAt (regN (raiseBits m p r (BitVec.ofNat 32 (2 ^ b))) p r) b = true := by
  have hbit : (BitVec.ofNat 32 (2 ^ b)).toNat.testBit b = true := by
    rw [BitVec.testBit_toNat, BitVec.getLsbD_ofNat]
    simp [hb]
  rw [regN, getReg_raiseBits, bitAt_eq_testBit, BitVec.toNat_or, Nat.testBit_or, hbit, Bool.or_true]

/-- A set bit stays set whatever bits are raised. -/
theorem bitAt_raiseBits {p q : Page} {r j b : Nat} (w : Word) (h : bitAt (regN m q j) b = true) :
    bitAt (regN (raiseBits m p r w) q j) b = true := by
  by_cases ha : pageBase q + j = pageBase p + r
  · have hget : ∀ u : Mod, getReg u q j = getReg u p r := fun u => congrArg (mapGet regDflt u.regs.vals) ha
    rw [bitAt_eq_testBit, regN, hget] at h
    rw [bitAt_eq_testBit, regN, hget, getReg_raiseBits, BitVec.toNat_or, Nat.testBit_or, h, Bool.true_or]
  · rwa [regN, raiseBits, getReg_setReg_ne _ ha, getReg_noteSet]

theorem drainStalled_none (h : m.mem.stalled = []) : drainStalled m = { m with mem := { m.mem with stalled := [] } } := by
  rw [drainStalled, h]; rfl

theorem sweepFreed_none (h : m.mem.freeing = []) : sweepFreed m = m := by rw [sweepFreed, h]; rfl

theorem retryDemands_none (h : m.velom.demands = []) : retryDemands m = m := by rw [retryDemands, h]; rfl

/-- The drill as its run's end leaves it, `cyc` cycles after its start. -/
def drillEnded (d : Drill) (cyc : Nat) : Drill :=
  setArea { d with ready := true, ended := false, held := [], cmd := none, st := if d.exit ≤ 0xEF then 0 else d.st } 0x68 cyc

/-- The end of a host's run that held no write, where no write waits: the drill, and registers. -/
theorem drillEnd_host (hd : drillOf m k n = some d) (hr : d.ready = false) (he : d.ended = true) (hc : d.cmd = none)
    (hh : d.held = []) (hst : m.mem.stalled = []) (hf : m.mem.freeing = []) :
    let t := drillEnd m k n
    onRegs.Only { setDrill { m with draws := m.draws + 1 } (drillEnded d (Config.cycles m.draws % 2 ^ 32)) with
      mem := { m.mem with stalled := [] } } t ∧
    bitAt (regN t (drlP k) (0x70 + 4 * (n / 32))) (n % 32) = true := by
  intro t
  have ht : t = drillEnd m k n := rfl
  unfold drillEnd at ht
  simp -zeta only [hd] at ht
  rw [if_neg (by simp [hr, he])] at ht
  extract_lets cyc x u₁ u₂ u₃ p r u₄ u₅ at ht
  have h₂ : u₂ = { u₁ with mem := { m.mem with stalled := [] } } := by
    show drainStalled (d.held.foldl _ u₁) = _
    rw [hh]
    exact drainStalled_none hst
  have h₄ : onRegs.Only { u₁ with mem := { m.mem with stalled := [] } } u₄ := by
    rw [← h₂]
    exact rfl
  have hbit : bitAt (regN u₄ p r) (n % 32) = true := bitAt_raiseBits_self u₃ p r (Nat.mod_lt n (by decide))
  have h₅ : onRegs.Only u₄ u₅ ∧ bitAt (regN u₅ p r) (n % 32) = true := by
    show onRegs.Only u₄ (if _ then _ else _) ∧ _
    unfold u₅
    split
    · exact ⟨rfl, bitAt_raiseBits _ hbit⟩
    · exact ⟨.refl _ u₄, hbit⟩
  have hfree : u₅.mem.freeing = [] := ((h₄.trans h₅.1).same (fun t => t.mem.freeing) fun _ _ => rfl).trans hf
  rw [ht, sweepFreed_none hfree, hc]
  exact ⟨h₄.trans h₅.1, h₅.2⟩

end

/-! MEMORY_WIPE in the wipe of a reset (R376). -/

section
variable {m : Mod}

theorem find_filter_key {β : Type} (f : Nat → Bool) (l : List (Nat × β)) (k : Nat) :
    (l.filter fun e => f e.1).find? (fun e => e.1 = k) = if f k = true then l.find? (fun e => e.1 = k) else none := by
  rw [List.find?_filter]
  split
  · next h => exact List.find?_congr fun e _ => by by_cases he : e.1 = k <;> simp [he, h]
  · next h => exact List.find?_eq_none.mpr fun e _ => by by_cases he : e.1 = k <;> simp [he, h]

theorem cellGet_filter (f : Nat → Bool) (l : List Host.Cell) (a : Nat) :
    cellGet (l.filter fun c => f c.1) a = if f a = true then cellGet l a else 0#8 := by
  rw [cellGet, mapGet, find_filter_key]
  by_cases h : f a = true
  · rw [if_pos h, if_pos h]; rfl
  · rw [if_neg h, if_neg h]; rfl

theorem memoryWipe_reads {a : Nat} {e : PageEnt} (h : pageEnt m (pageNo a) = some e) :
    readByte (memoryWipe m) a = if e.bench = 1 then 0#8 else readByte m a := by
  have ht : pageEnt (memoryWipe m) (pageNo a) = some e := h
  have hcell : cellGet (memoryWipe m).mem.cells a = if e.bench = 1 then 0#8 else cellGet m.mem.cells a := by
    show cellGet (m.mem.cells.filter fun c => !((pageEnt m (pageNo c.1)).any fun e => e.bench = 1)) a = _
    rw [cellGet_filter fun b => !((pageEnt m (pageNo b)).any fun e => e.bench = 1), h]
    by_cases he : e.bench = 1 <;> simp [he]
  simp only [readByte, ht, h, hcell]
  by_cases he : e.bench = 2
  · rw [if_pos he, if_pos he, if_neg (by omega)]; rfl
  · rw [if_neg he, if_neg he]

/-- Beside the phase itself, entering one tells the management controller alone. -/
theorem setPhase_frame (m : Mod) (ph : Nat) : setPhase m ph = { m with sys := { m.sys with phase := ph }, mgt := (setPhase m ph).mgt } := by
  unfold setPhase
  split
  · next h => rw [← h]
  · rw [sendIbi_frame, platEvent_frame]

theorem wipeOp_skips (h : m.sys.rst ≠ 2 ∨ m.sys.phase ≠ 4) : wipeOp m = m := if_pos (by simpa using h)

theorem wipeOp_wipes (hr : m.sys.rst = 2) (hp : m.sys.phase = 4) :
    (wipeOp m).mem = (memoryWipe m).mem ∧ (wipeOp m).sec = m.sec ∧
    if m.sys.chainFirst = true then (wipeOp m).sys.rst = 3 ∧ (wipeOp m).sys.phase = 5 else (wipeOp m).sys.rst = 2 ∧ (wipeOp m).sys.phase = 3 := by
  have heq : wipeOp m = if m.sys.chainFirst then setPhase { memoryWipe m with sys := { m.sys with rst := 3 } } 5
      else setPhase (memoryWipe m) 3 := if_neg (by simp [hr, hp])
  rw [heq]
  split
  · rw [setPhase_frame]; exact ⟨rfl, rfl, rfl, rfl⟩
  · rw [setPhase_frame]; exact ⟨rfl, rfl, hr, rfl⟩

/-- Reads look at device memory and at the media key. -/
theorem readByte_of_mem {t : Mod} (h : t.mem = m.mem) (hk : t.sec = m.sec) (a : Nat) : readByte t a = readByte m a := by
  have hdec : decipher t = decipher m := by unfold decipher mediaKey; rw [hk]
  simp only [readByte_eq, flashByte, flashUnit, pageEnt, h, hdec]

end

/-- Settles O41: each clause by the lemma on its operation. -/
theorem drillRunsAreReservedStartedAndEnded : Obligations.DrillRunsAreReservedStartedAndEnded := by
  intro s k
  simp only [gives_drlHostResWrite, gives_drlLoadCmd, gives_drlCmdDb, gives_drillRunStart, gives_drillRunEnd, gives_drillWatchdog,
    gives_memoryWipe]
  refine ⟨fun v hl => hostResWrite_locked hl, fun v hl h => hostResWrite_range hl h, fun v hl h hr => ?_,
    fun v d hl h hd hs hr hres hn => ?_, fun w v => ⟨fun h => ?_, fun p h => ⟨fun hp => ?_, fun g d hp hall hd hr hres => ?_⟩⟩,
    fun n d hd => ⟨fun q mb => ⟨fun h => ?_, fun h => ?_⟩, fun h => runStart_refused hd h, fun hr hs hu hc => ?_,
      fun hr he hc hh hdem hst hf => ?_, fun hr he hs h => ?_, fun h => watchdogOp_early hd h⟩, wipeOp_skips, fun hr hp => ?_⟩
  · rw [hostResWrite_allReady hl h hr]
    exact ⟨regN_setRegN_self (by omega), rfl⟩
  · rw [hostResWrite_busy hl h hd hs hr hres hn]
    exact ⟨regN_bump_ne _ 1 (regAddr_ne_of_offset (by decide)), regN_bump ..⟩
  · rw [loadCmd_noPackage h]
    exact ⟨regN_setRegN_self (by decide), rfl⟩
  · rw [loadCmd_noProgram h hp]
    exact ⟨regN_setRegN_self (by decide), rfl⟩
  · exact loadCmd_one h hp hall hd hr hres
  · rw [doorbellOp_accepted hd h]
    exact doorbellOk_spec hd
  · obtain ⟨-, hs, hn⟩ := drillOf_spec hd
    rw [doorbellOp_refused hd h]
    exact ⟨drillOf_setDrill_self hd hs hn, rfl⟩
  · obtain ⟨-, hs', hn⟩ := drillOf_spec hd
    rw [runStart_accepted hd hr hs hu hc]
    exact ⟨drillOf_setDrill_self hd hs' hn, rfl⟩
  · obtain ⟨-, hs, hn⟩ := drillOf_spec hd
    obtain ⟨honly, hbit⟩ := drillEnd_host hd hr he hc hh hst hf
    rw [retryDemands_none ((honly.same (fun t => t.velom.demands) fun _ _ => rfl).trans hdem)]
    refine ⟨⟨drillEnded d (Config.cycles s.mod.draws % 2 ^ 32), ?_, rfl, rfl, rfl, rfl⟩, hbit, fun a => ?_⟩
    · rw [drillOf_of_drills (honly.same Mod.drills fun _ _ => rfl) k n]
      exact drillOf_setDrill_self (x := drillEnded d _) hd hs hn
    · exact readByte_of_mem ((honly.same Mod.mem fun _ _ => rfl).trans (by rw [← hst])) (honly.same Mod.sec fun _ _ => rfl) a
  · rw [watchdogOp_late hd hr he hs h]
    exact coreExc_drill hd 0x20 0
  · obtain ⟨hmem, hsec, hsys⟩ := wipeOp_wipes hr hp
    refine ⟨(congrArg Mem.ue hmem).trans rfl, (congrArg Mem.map hmem).trans rfl, fun a e he => ?_, hsys⟩
    rw [readByte_of_mem hmem hsec, memoryWipe_reads he]

end Sys2Proof.Proofs

/-! The issue of a drill's instruction, and what it leaves of the drill (Table IS-9). -/

namespace Sys2Proof.Proofs

open Sys2Proof Sys2Proof.Machine Sys2Proof.Laws

section
variable (s : State) (P : Mod → Prop) (k n : Nat) (w : BitVec 26)

@[simp] theorem gives_qarith : Gives (.qarith k n w) s P ↔ P (qarithRun s.mod k n w) := gives_iff rfl P
@[simp] theorem gives_qfunc : Gives (.qfunc k n w) s P ↔ P (qfuncRun s.mod k n w) := gives_iff rfl P
@[simp] theorem gives_qcmp : Gives (.qcmp k n w) s P ↔ P (qcmpRun s.mod k n w) := gives_iff rfl P
@[simp] theorem gives_qred : Gives (.qred k n w) s P ↔ P (qredRun s.mod k n w) := gives_iff rfl P
@[simp] theorem gives_qcvt (sk : Option TagSkew) : Gives (.qcvt k n ⟨w, sk⟩) s P ↔ P (qcvtRun s.mod k n w sk) := gives_iff rfl P
@[simp] theorem gives_qmov : Gives (.qmov k n w) s P ↔ P (qmovRun s.mod k n w) := gives_iff rfl P
@[simp] theorem gives_qtbl : Gives (.qtbl k n w) s P ↔ P (qtblRun s.mod k n w) := gives_iff rfl P
@[simp] theorem gives_bld (e : Ecc) : Gives (.bld k n w e) s P ↔ P (bldRun s.mod k n w e) := gives_iff rfl P
@[simp] theorem gives_bst : Gives (.bst k n w) s P ↔ P (bstRun s.mod k n w) := gives_iff rfl P
@[simp] theorem gives_bstw (e : Ecc) : Gives (.bstw k n w e) s P ↔ P (bstwRun s.mod k n w e) := gives_iff rfl P
@[simp] theorem gives_qld : Gives (.qld k n w) s P ↔ P (qldRun s.mod k n w) := gives_iff rfl P
@[simp] theorem gives_qst : Gives (.qst k n w) s P ↔ P (qstRun s.mod k n w) := gives_iff rfl P
@[simp] theorem gives_lins (rd ra rb : BitVec 5) (f : BitVec 11) :
    Gives (.lins k n rd ra rb f) s P ↔ P (linsRun s.mod k n rd ra rb f) := gives_iff rfl P

end

section
variable {m : Mod} {i : Instr} {c : Core} {w : Word}

theorem word_of_issues (h : Issues m i c) (hw : coreInstr i = some (c, w)) : coreWord m c = some (some w) ∧ coreBad c w = false := by
  obtain ⟨v, hv, hword, hbad⟩ := h
  obtain rfl : w = v := (Prod.mk.inj (Option.some_inj.mp (hw.symm.trans hv))).2
  exact ⟨hword, hbad⟩

/-- A core that runs an instruction next does what the instruction does. -/
theorem issue_of_issues (h : Issues m i c) (hw : coreInstr i = some (c, w)) (body : Mod → Mod) : issue m c w body = body m := by
  obtain ⟨hword, hbad⟩ := word_of_issues h hw
  unfold issue
  rw [hword]
  simp [hbad]

end

section
variable {m : Mod} {k n : Nat} {d y : Drill}

theorem next4_drill (hd : drillOf m k n = some d) :
    next4 m (.drill k n) = setDrill m { d with pc := pcOf (.drill k n) (d.pc + 4) } := by
  simp only [next4, getPc, setPc, hd]
  rfl

theorem setDrill_becomes (hd : drillOf m k n = some d) (hs : y.stack = k) (hn : y.n = n) : DrillBecomes m (setDrill m y) k n y :=
  ⟨rfl, drillOf_setDrill_self hd hs hn, fun a b h => drillOf_setDrill_ne (by rwa [hs, hn])⟩

theorem drillBecomes_trans {t u : Mod} {x : Drill} (h : DrillBecomes m t k n x) (g : DrillBecomes t u k n y) : DrillBecomes m u k n y := by
  obtain ⟨ht, -, hother⟩ := h
  obtain ⟨hu, hy, hother'⟩ := g
  exact ⟨by rw [hu, ht], hy, fun a b hab => (hother' a b hab).trans (hother a b hab)⟩

/-- The drill changed, and its pc past the instruction. -/
theorem next4_becomes (hd : drillOf m k n = some d) (hs : y.stack = k) (hn : y.n = n) :
    DrillBecomes m (next4 (setDrill m y) (.drill k n)) k n { y with pc := pcOf (.drill k n) (y.pc + 4) } := by
  have h := setDrill_becomes (y := y) hd hs hn
  rw [next4_drill h.2.1]
  exact drillBecomes_trans h (setDrill_becomes h.2.1 hs hn)

theorem drillIssue_of_issues {i : Instr} {op : Nat} {w : BitVec 26} (hi : Issues m i (.drill k n))
    (hw : coreInstr i = some (.drill k n, encJ op w)) (hd : drillOf m k n = some d) (body : Drill → Drill) :
    drillIssue m k n op w body = next4 (setDrill m (body d)) (.drill k n) := by
  unfold drillIssue
  rw [issue_of_issues hi hw, hd]

end

/-! Lanes and predicate bits. -/

section
variable {d : Drill}

theorem drillQ_length (h : ∀ e ∈ d.q, e.2.length = 16) (r : Nat) : (drillQ d r).length = 16 := length_mapGet h List.length_replicate

theorem drillP_length (h : ∀ e ∈ d.p, e.2.length = 16) (r : Nat) : (drillP d r).length = 16 := by
  unfold drillP
  split
  · exact List.length_replicate
  · exact length_mapGet h List.length_replicate

theorem getD_masked {α : Type} (z : α) {on : List Bool} {new old : List α} {i : Nat} (hon : i < on.length) (hnew : i < new.length)
    (hold : i < old.length) : (masked on new old).getD i z = if on.getD i false then new.getD i z else old.getD i z := by
  induction on generalizing new old i with
  | nil => simp at hon
  | cons b on ih =>
    obtain _ | ⟨x, new⟩ := new
    · simp at hnew
    obtain _ | ⟨y, old⟩ := old
    · simp at hold
    cases i with
    | zero => cases b <;> rfl
    | succ i => simpa [masked] using ih (by simpa using hon) (by simpa using hnew) (by simpa using hold)

theorem getD_map {α β : Type} (f : α → β) {l : List α} {i : Nat} (h : i < l.length) (a : α) (b : β) : (l.map f).getD i b = f (l.getD i a) := by
  simp [h]

theorem getD_zip {α β : Type} {l : List α} {l' : List β} {i : Nat} (h : i < l.length) (h' : i < l'.length) (a : α) (b : β) :
    (l.zip l').getD i (a, b) = (l.getD i a, l'.getD i b) := by
  simp [List.getD_eq_getElem?_getD, h, h']

theorem list_eq_map_getD {α : Type} (z : α) {l : List α} {k : Nat} (h : l.length = k) : l = (upto k).map (l.getD · z) := by
  subst h
  refine List.ext_getElem (by simp [upto]) fun i hi _ => ?_
  simp [upto, hi]

/-- The active lanes, by number. -/
theorem active_eq {α : Type} (z : α) {on : List Bool} {l : List α} {k : Nat} (hon : on.length = k) (hl : l.length = k) :
    active on l = ((upto k).filter (on.getD · false)).map (l.getD · z) := by
  conv_lhs => rw [list_eq_map_getD false hon, list_eq_map_getD z hl]
  rw [active, List.zip_map', List.filter_map, List.map_map]
  rfl

end

/-! What an instruction writes. -/

/-- `t` is `m` but for drill `d`, which is past the instruction, and lane `i` of its SIMD register `r` is `g i`. -/
def QuadWrites (m t : Mod) (k n : Nat) (d : Drill) (r : Nat) (g : Nat → Word) : Prop :=
  ∃ y : Drill, DrillBecomes m t k n y ∧ y = { d with q := y.q, pc := pcOf (.drill k n) (d.pc + 4) } ∧
    (∀ j, j ≠ r → drillQ y j = drillQ d j) ∧ (drillQ y r).length = 16 ∧ ∀ i, i < 16 → (drillQ y r).getD i 0#32 = g i

section
variable {m : Mod} {k n : Nat} {d : Drill}

theorem QuadWrites.congr {t : Mod} {r : Nat} {g g' : Nat → Word} (h : QuadWrites m t k n d r g) (hg : ∀ i, i < 16 → g i = g' i) :
    QuadWrites m t k n d r g' := by
  obtain ⟨y, hb, hy, hother, hlen, hlane⟩ := h
  exact ⟨y, hb, hy, hother, hlen, fun i hi => (hlane i hi).trans (hg i hi)⟩

theorem drillSetQ_writes (hd : drillOf m k n = some d) (r : Nat) {v : List Word} (hv : v.length = 16) :
    QuadWrites m (next4 (setDrill m (drillSetQ d r v)) (.drill k n)) k n d r fun i => v.getD i 0#32 := by
  obtain ⟨-, hs, hn⟩ := drillOf_spec hd
  have hq : drillQ (drillSetQ d r v) r = v := mapGet_mapSet_self ..
  refine ⟨_, next4_becomes (y := drillSetQ d r v) hd hs hn, rfl, fun j hj => mapGet_mapSet_ne _ _ _ _ _ hj, ?_, fun i _ => ?_⟩
  · exact (congrArg List.length hq).trans hv
  · exact congrArg (List.getD · i 0#32) hq

/-- The active lanes take new values and the others stay. -/
theorem masked_writes (hd : drillOf m k n = some d) (hq : ∀ e ∈ d.q, e.2.length = 16) (r : Nat) {on : List Bool} (hon : on.length = 16)
    {v : List Word} (hv : v.length = 16) :
    QuadWrites m (next4 (setDrill m (drillSetQ d r (masked on v (drillQ d r)))) (.drill k n)) k n d r fun i =>
      if on.getD i false then v.getD i 0#32 else (drillQ d r).getD i 0#32 := by
  have hlen := drillQ_length hq r
  exact (drillSetQ_writes hd r ((length_masked ..).trans hlen)).congr fun i hi =>
    getD_masked 0#32 (hon ▸ hi) (hv ▸ hi) (hlen ▸ hi)

theorem drillR_set (hr : d.r.length = 32) {r : Nat} (h : r < 32) (v j : Nat) :
    drillR (drillSetR d r v) j = if j = r ∧ r ≠ 0 then v % 2 ^ 32 else drillR d j := by
  unfold drillSetR
  split
  next h0 => rw [if_neg (by simp [h0])]
  next h0 =>
    unfold drillR
    by_cases hj : j = r
    · subst hj
      simp [h0, hr, h]
    · simp [hj, List.getElem?_set_ne (Ne.symm hj)]

theorem drillSetR_scalar (hd : drillOf m k n = some d) (hr : d.r.length = 32) {r : Nat} (h : r < 32) (v : Nat) :
    ScalarWrites m (next4 (setDrill m (drillSetR d r v)) (.drill k n)) (.drill k n) r v (pcOf (.drill k n) (d.pc + 4)) := by
  obtain ⟨-, hs, hn⟩ := drillOf_spec hd
  obtain ⟨y, hy, hreg⟩ : ∃ y, y = drillSetR d r v ∧ y = { d with r := y.r } := by
    refine ⟨_, rfl, ?_⟩
    unfold drillSetR
    split <;> rfl
  have hb : DrillBecomes m (next4 (setDrill m y) (.drill k n)) k n { y with pc := pcOf (.drill k n) (y.pc + 4) } :=
    next4_becomes hd (by rw [hreg]; exact hs) (by rw [hreg]; exact hn)
  have hpc : y.pc = d.pc := by rw [hreg]
  rw [hpc] at hb
  rw [← hy]
  refine ⟨?_, fun j => ?_, d, _, hd, hb, by rw [hreg]⟩
  · simp only [getPc, hb.2.1]
    rfl
  · have hset := drillR_set hr h v j
    rw [← hy] at hset
    simp only [getX, hb.2.1, hd]
    exact hset

end
end Sys2Proof.Proofs

/-! The SIMD instructions of drills (R361, R392). -/

namespace Sys2Proof.Proofs

open Sys2Proof Sys2Proof.Machine Sys2Proof.Laws

/-- Lane `i` of a SIMD register. -/
def drillLane (d : Drill) (r i : Nat) : Word := (drillQ d r).getD i 0#32

section
variable {m : Mod} {k n : Nat} {d : Drill} (hd : drillOf m k n = some d) (hq : ∀ e ∈ d.q, e.2.length = 16)
  (hp : ∀ e ∈ d.p, e.2.length = 16) {w : BitVec 26}

section
include hd hq hp

theorem qarithRun_writes (hi : Issues m (.qarith k n w) (.drill k n)) :
    QuadWrites m (qarithRun m k n w) k n d (qD w) fun i => if (drillP d (qPred w)).getD i false then
      quadLane (qFunct w) (drillLane d (qD w) i) (drillLane d (qS1 w) i) (drillLane d (qS2 w) i) else drillLane d (qD w) i := by
  unfold qarithRun
  rw [drillIssue_of_issues hi rfl hd]
  have hl := drillQ_length hq
  refine (masked_writes hd hq _ (drillP_length hp _) (by simp [hl])).congr fun i hi => ?_
  rw [getD_map _ (by simp [hl, hi]) (0#32, 0#32, 0#32), getD_zip (by simp [hl, hi]) (by simp [hl, hi]),
    getD_zip (by simp [hl, hi]) (by simp [hl, hi])]
  rfl

theorem qfuncRun_writes (hi : Issues m (.qfunc k n w) (.drill k n)) :
    QuadWrites m (qfuncRun m k n w) k n d (qD w) fun i => if (drillP d (qPred w)).getD i false then
      Fp.fexp (drillLane d (qS1 w) i) else drillLane d (qD w) i := by
  unfold qfuncRun
  rw [drillIssue_of_issues hi rfl hd]
  have hl := drillQ_length hq
  refine (masked_writes hd hq _ (drillP_length hp _) (by simp [hl])).congr fun i hi => ?_
  rw [getD_map _ (by simp [hl, hi]) 0#32]
  rfl

theorem qcvtRun_writes {sk : Option TagSkew} (hi : Issues m (.qcvt k n ⟨w, sk⟩) (.drill k n)) (h : isScaled (qFunct w) = false ∨ sk = none) :
    QuadWrites m (qcvtRun m k n w sk) k n d (qD w) fun i => if (drillP d (qPred w)).getD i false then
      expandCode (qFunct w) (unpackCode (qFunct w) (laneBytes (drillQ d (qS1 w))) i) else drillLane d (qD w) i := by
  have hsk : (sk.filter fun _ => isScaled (qFunct w)) = none := by
    rcases h with h | rfl
    · cases sk <;> simp [h]
    · rfl
  unfold qcvtRun
  rw [hsk]
  show QuadWrites m (drillIssue m k n 0x24 w _) ..
  rw [drillIssue_of_issues hi rfl hd]
  refine (masked_writes hd hq _ (drillP_length hp _) (by simp [upto])).congr fun i hi => ?_
  rw [getD_map _ (by simpa [upto] using hi) 0]
  simp only [upto, List.getD_eq_getElem?_getD, List.getElem?_range hi, Option.getD_some]
  rfl

theorem qmovRun_broadcasts (hi : Issues m (.qmov k n w) (.drill k n)) (hf : qFunct w % 2048 = 0) :
    QuadWrites m (qmovRun m k n w) k n d (qD w) fun i => if (drillP d (qPred w)).getD i false then
      BitVec.ofNat 32 (drillR d (wideReg w (qS1 w))) else drillLane d (qD w) i := by
  unfold qmovRun
  rw [drillIssue_of_issues hi rfl hd, if_pos hf]
  refine (masked_writes hd hq _ (drillP_length hp _) List.length_replicate).congr fun i hi => ?_
  rw [List.getD_replicate _ hi]
  rfl

end

theorem qcvtRun_skew {x : TagSkew} (hi : Issues m (.qcvt k n ⟨w, some x⟩) (.drill k n)) (h : isScaled (qFunct w) = true) :
    qcvtRun m k n w (some x) = drillSkew m k n x := by
  have hsk : ((some x).filter fun _ => isScaled (qFunct w)) = some x := by rw [h]; rfl
  unfold qcvtRun
  rw [hsk]
  exact issue_of_issues hi rfl _

/-- A comparison names a predicate register, since the upper bits of its field are reserved (R383). -/
theorem qD_of_qcmp (h : coreBad (.drill k n) (encJ 0x22 w) = false) : qD w % 4 = qD w := by
  have hlt := w.isLt
  have hword : (encJ 0x22 w).toNat = 0x22 * 2 ^ 26 + w.toNat := by
    rw [encJ, BitVec.toNat_ofNat, Nat.mod_eq_of_lt (by omega)]
  have hop : opOf (encJ 0x22 w) = 0x22 := by
    simp only [opOf, fieldOf, hword, bits]
    omega
  have hbad : badDrill (encJ 0x22 w) = false := h
  simp only [badDrill, hop, Bool.or_eq_false_iff, bne_eq_false_iff_eq] at hbad
  have hfield := hbad.2
  simp only [fieldOf, hword, bits] at hfield
  simp only [qD, bits]
  omega

/-- A comparison writes its predicate register, but never register 0. -/
theorem qcmpRun_writes (hd : drillOf m k n = some d) (hq : ∀ e ∈ d.q, e.2.length = 16) (hp : ∀ e ∈ d.p, e.2.length = 16)
    (hi : Issues m (.qcmp k n w) (.drill k n)) :
    ∃ y : Drill, DrillBecomes m (qcmpRun m k n w) k n y ∧ y = { d with p := y.p, pc := pcOf (.drill k n) (d.pc + 4) } ∧
      (∀ j, j ≠ qD w ∨ qD w = 0 → drillP y j = drillP d j) ∧
      (qD w ≠ 0 → ∀ i, i < 16 → (drillP y (qD w)).getD i false = if (drillP d (qPred w)).getD i false then
        cmpLane (qFunct w) (drillLane d (qS1 w) i) (drillLane d (qS2 w) i) else (drillP d (qD w)).getD i false) := by
  obtain ⟨-, hs, hn⟩ := drillOf_spec hd
  have hD := qD_of_qcmp (word_of_issues hi rfl).2
  have hl := drillQ_length hq
  unfold qcmpRun
  rw [drillIssue_of_issues hi rfl hd, hD]
  dsimp only
  generalize hv : masked _ _ _ = v
  obtain ⟨y, hy, hreg⟩ : ∃ y, y = drillSetP d (qD w) v ∧ y = { d with p := y.p } := by
    refine ⟨_, rfl, ?_⟩
    unfold drillSetP
    split <;> rfl
  have hb : DrillBecomes m (next4 (setDrill m y) (.drill k n)) k n { y with pc := pcOf (.drill k n) (y.pc + 4) } :=
    next4_becomes hd (by rw [hreg]; exact hs) (by rw [hreg]; exact hn)
  have hpc : y.pc = d.pc := by rw [hreg]
  rw [hpc] at hb
  rw [← hy]
  have hset (j : Nat) : drillP y j = if j = qD w ∧ qD w ≠ 0 then v else drillP d j := by
    rw [hy]
    unfold drillSetP
    split
    next h0 => rw [if_neg (by simp [h0])]
    next h0 =>
      by_cases hj : j = qD w
      · rw [if_pos ⟨hj, h0⟩, hj, drillP, if_neg h0]
        exact mapGet_mapSet_self ..
      · rw [if_neg (by simp [hj]), drillP, drillP]
        exact if_congr Iff.rfl rfl (mapGet_mapSet_ne _ _ _ _ _ hj)
  refine ⟨_, hb, by rw [hreg], fun j hj => ?_, fun h0 i hi => ?_⟩
  · exact (hset j).trans (if_neg fun h => hj.elim (· h.1) h.2)
  · have hrow : (drillP y (qD w)).getD i false = v.getD i false := by rw [hset, if_pos ⟨rfl, h0⟩]
    refine hrow.trans ?_
    have hpl := drillP_length hp
    rw [← hv, getD_masked false (by simp [hpl, hi]) (by simp [hl, hi]) (by simp [hpl, hi]), getD_map _ (by simp [hl, hi]) (0#32, 0#32),
      getD_zip (by simp [hl, hi]) (by simp [hl, hi])]
    rfl

/-! Instructions whose result is a scalar. -/

theorem wideReg_lt (w : BitVec 26) {r : Nat} (h : r < 16) : wideReg w r < 32 := by
  unfold wideReg bits
  omega

theorem qField_lt (v lo : Nat) : bits v lo 4 < 16 := Nat.mod_lt _ (by decide)

theorem qredRun_writes (hd : drillOf m k n = some d) (hr : d.r.length = 32) (hq : ∀ e ∈ d.q, e.2.length = 16)
    (hp : ∀ e ∈ d.p, e.2.length = 16) (hi : Issues m (.qred k n w) (.drill k n)) :
    ScalarWrites m (qredRun m k n w) (.drill k n) (wideReg w (qD w)) (reduceLanes (qFunct w % 2048)
      (((upto 16).filter fun i => (drillP d (qPred w)).getD i false).map (drillLane d (qS1 w)))).toNat (pcOf (.drill k n) (d.pc + 4)) := by
  unfold qredRun
  rw [drillIssue_of_issues hi rfl hd, active_eq 0#32 (drillP_length hp _) (drillQ_length hq _)]
  exact drillSetR_scalar hd hr (wideReg_lt w (qField_lt ..)) _

theorem qmovRun_extracts (hd : drillOf m k n = some d) (hr : d.r.length = 32) (hi : Issues m (.qmov k n w) (.drill k n))
    (hf : qFunct w % 2048 = 1) :
    ScalarWrites m (qmovRun m k n w) (.drill k n) (wideReg w (qD w)) (drillLane d (qS1 w) (qS2 w)).toNat (pcOf (.drill k n) (d.pc + 4)) := by
  unfold qmovRun
  rw [drillIssue_of_issues hi rfl hd, if_neg (by omega)]
  exact drillSetR_scalar hd hr (wideReg_lt w (qField_lt ..)) _

/-! QTBL (R373). -/

/-- The address in the scan table that lane `i` names. -/
def tblAt (d : Drill) (w : BitVec 26) (i : Nat) : Nat := drillR d (qS2 w + 16) + 2 * (drillLane d (qS1 w) i).toNat

/-- An active lane names an entry past the table's end. -/
def TblPast (d : Drill) (w : BitVec 26) : Prop :=
  ∃ i, i < 16 ∧ (drillP d (qPred w)).getD i false = true ∧ 0x200000 < tblAt d w i + 2

theorem tblPast_iff (hq : ∀ e ∈ d.q, e.2.length = 16) (hp : ∀ e ∈ d.p, e.2.length = 16) :
    ((active (drillP d (qPred w)) (drillQ d (qS1 w))).any fun x => tabSize < drillR d (qS2 w + 16) + 2 * x.toNat + 2) = true ↔
      TblPast d w := by
  rw [active_eq 0#32 (drillP_length hp _) (drillQ_length hq _)]
  simp only [List.any_map, List.any_filter, List.any_eq_true, upto, List.mem_range, Bool.and_eq_true, Function.comp, decide_eq_true_eq]
  rfl

section
include hd hq hp

theorem qtblRun_past (hi : Issues m (.qtbl k n w) (.drill k n)) (h : TblPast d w) : qtblRun m k n w = coreExc m (.drill k n) 0x14 := by
  unfold qtblRun
  rw [issue_of_issues hi rfl, hd]
  exact if_pos ((tblPast_iff hq hp).mpr h)

theorem qtblRun_writes (hi : Issues m (.qtbl k n w) (.drill k n)) (h : ¬ TblPast d w) :
    QuadWrites m (qtblRun m k n w) k n d (qD w) fun i => if (drillP d (qPred w)).getD i false then
      expandCode 2 (ofBytes [cellGet (tabStore m k) (tblAt d w i), cellGet (tabStore m k) (tblAt d w i + 1)]) else drillLane d (qD w) i := by
  unfold qtblRun
  rw [issue_of_issues hi rfl, hd]
  dsimp only
  rw [if_neg (mt (tblPast_iff hq hp).mp h)]
  have hl := drillQ_length hq
  refine (masked_writes hd hq _ (drillP_length hp _) (by simp [hl])).congr fun i hi => ?_
  rw [getD_map _ (by simp [hl, hi]) 0#32]
  rfl

end
end
end Sys2Proof.Proofs

/-! Bank space (R347, R348, R361 to R363, R416). -/

namespace Sys2Proof.Proofs

open Sys2Proof Sys2Proof.Machine Sys2Proof.Laws

/-! What an error of a granule changes. -/

/-- Offsets of the registers that an ECC event writes: the error count and causes of a stack's page, and its two counters. -/
def eccOffsets : List Nat := [0x14, 0x20, 0x60, 0x64]

section
variable {m : Mod} {q : Page} {r : Nat}

theorem getReg_logErr_ne (h : r % 4096 ∉ eccOffsets) (p : Page) (c a : Nat) : getReg (logErr m p c a) q r = getReg m q r := by
  simp only [eccOffsets, List.mem_cons, List.not_mem_nil, or_false, not_or] at h
  obtain ⟨h14, h20, -, -⟩ := h
  exact (logsOn_logErr m p c a true).2 q r (regAddr_ne_of_offset h20) (regAddr_ne_of_offset h14)

theorem getReg_correctable (h : r % 4096 ∉ eccOffsets) (p : Place) (a : Nat) : getReg (correctable m p a) q r = getReg m q r := by
  have h60 : r % 4096 ≠ 0x60 := fun he => h (by rw [he]; decide)
  calc getReg (correctable m p a) q r = getReg (logErr (bump m (hbmP p.stack) 0x60) (hbmP p.stack) 0x01 a) q r := getReg_of_vals rfl q r
    _ = getReg (bump m (hbmP p.stack) 0x60) q r := getReg_logErr_ne h ..
    _ = getReg m q r := getReg_bump_ne m (regAddr_ne_of_offset h60) 1

theorem getReg_blockEvt_ne (h : r % 4096 ∉ eccOffsets) (p : Page) : getReg (blockEvt m p) q r = getReg m q r := by
  have h14 : r % 4096 ≠ 0x14 := fun he => h (by rw [he]; decide)
  exact getReg_pend_ne m 6 (regAddr_ne_of_offset h14)

/-- An uncorrectable error beside its row's record: counted, logged, and told as a block event where that is due. -/
def ueCounted (m : Mod) (p : Place) (a : Nat) : Mod := logErr (bump m (hbmP p.stack) 0x64) (hbmP p.stack) 0x02 a
def ueTold (m : Mod) (p : Place) : Mod := if ueEvt m p.stack then blockEvt m (hbmP p.stack) else m

theorem uncorrectable_eq (p : Place) (a : Nat) :
    ∃ k, uncorrectable m p a = setStack (ueTold (ueCounted m p a) p) p.stack k := ⟨_, rfl⟩

theorem getReg_ueCounted (h : r % 4096 ∉ eccOffsets) (p : Place) (a : Nat) : getReg (ueCounted m p a) q r = getReg m q r := by
  have h64 : r % 4096 ≠ 0x64 := fun he => h (by rw [he]; decide)
  exact (getReg_logErr_ne h ..).trans (getReg_bump_ne m (regAddr_ne_of_offset h64) 1)

theorem getReg_ueTold (h : r % 4096 ∉ eccOffsets) (p : Place) : getReg (ueTold m p) q r = getReg m q r := by
  unfold ueTold
  split
  · exact getReg_blockEvt_ne h _
  · rfl

theorem ueTold_mem (p : Place) : (ueTold m p).mem = m.mem := by
  unfold ueTold
  split <;> rfl

theorem getReg_uncorrectable (h : r % 4096 ∉ eccOffsets) (p : Place) (a : Nat) : getReg (uncorrectable m p a) q r = getReg m q r := by
  obtain ⟨k, hk⟩ := uncorrectable_eq (m := m) p a
  have ht : getReg (ueTold (ueCounted m p a) p) q r = getReg m q r := (getReg_ueTold h p).trans (getReg_ueCounted h p a)
  rw [hk]
  generalize ueTold (ueCounted m p a) p = t at ht
  exact (getReg_of_vals rfl q r).trans ht

theorem uncorrectable_mem (p : Place) (a : Nat) : (uncorrectable m p a).mem = m.mem := by
  obtain ⟨k, hk⟩ := uncorrectable_eq (m := m) p a
  have ht : (ueTold (ueCounted m p a) p).mem = m.mem := (ueTold_mem p).trans (logErr_mem ..)
  rw [hk]
  generalize ueTold (ueCounted m p a) p = t at ht
  exact ht

theorem getReg_eccEvent (h : r % 4096 ∉ eccOffsets) (a : Nat) (e : Ecc) : getReg (eccEvent m a e) q r = getReg m q r := by
  unfold eccEvent
  split
  · rfl
  · split
    · exact getReg_correctable h ..
    · rfl
  · extract_lets mem u
    split
    · exact (getReg_uncorrectable h ..).trans (getReg_of_vals rfl q r)
    · exact getReg_of_vals rfl q r

/-- A granule found uncorrectable is known to be so. -/
theorem mem_ue_eccEvent (a : Nat) : a / 32 * 32 ∈ (eccEvent m a .uncorrectable).mem.ue := by
  have he : eccAt m a .uncorrectable = .uncorrectable := ite_self ..
  unfold eccEvent
  rw [he]
  dsimp only
  split
  · rw [uncorrectable_mem]
    exact List.mem_cons_self
  · exact List.mem_cons_self

theorem eccEvent_mem {a : Nat} (h : eccAt m a .corrected = .corrected) : (eccEvent m a .corrected).mem = m.mem := by
  unfold eccEvent
  rw [h]
  dsimp only
  split
  · exact (correctable_effect ..).2
  · rfl

end

/-- What an ECC stop of drill `d` leaves: its fields, the count, and the granule known to be uncorrectable (R362, R363). -/
def StopsByEcc (m t : Mod) (k n : Nat) (d : Drill) (g : Nat) : Prop :=
  g ∈ t.mem.ue ∧ ReadsSame m t ∧ regN t (drlP k) 0xC0 = min (regN m (drlP k) 0xC0 + 1) 0xFFFFFFFF ∧
    ∃ y : Drill, drillOf t k n = some y ∧ y = { d with exit := 0xF8, st := 5, fault := true, ended := true, area := y.area } ∧
      areaN y 0x60 = g % 2 ^ 32

section
variable {m : Mod} {k n : Nat} {d : Drill}

theorem areaN_setArea (d : Drill) (o j v : Nat) : areaN (setArea d o v) j = if j = o then v % 2 ^ 32 else areaN d j := by
  unfold areaN setArea
  rw [mapGet_mapSet]
  split
  · exact BitVec.toNat_ofNat ..
  · rfl

theorem drillEccStop_stops (hd : drillOf m k n = some d) {g : Nat} (hg : g % 32 = 0) : StopsByEcc m (drillEccStop m k n g) k n d g := by
  obtain ⟨-, hs, hn⟩ := drillOf_spec hd
  obtain ⟨x, hx⟩ := exists_eq (a' := drillFaultWords d g)
  have hxd : x = { d with area := x.area } := by rw [hx]; rfl
  have hxa : areaN x 0x60 = g % 2 ^ 32 := by
    rw [hx, drillFaultWords, areaN_setArea, if_neg (by decide), areaN_setArea, if_pos rfl, Nat.mod_mod]
  have heq : drillEccStop m k n g = drillStop (eccEvent (logErr (bump (setDrill m x) (drlP k) 0xC0) (drlP k) 0x02 (g / 32)) g .uncorrectable)
      k n 0xF8 5 true := by
    simp only [drillEccStop, hd, ← hx]
  have hcount := regN_logErr_bump (setDrill m x) (drlP k) (r := 0xC0) (by decide) 0x02 (g / 32)
  have hlog := (logsOn_logErr (bump (setDrill m x) (drlP k) 0xC0) (drlP k) 0x02 (g / 32) true).1
  have hxs : x.stack = k ∧ x.n = n := by rw [hxd]; exact ⟨hs, hn⟩
  have hu : drillOf (logErr (bump (setDrill m x) (drlP k) 0xC0) (drlP k) 0x02 (g / 32)) k n = some x :=
    (drillOf_of_drills (logErr_drills ..) k n).trans (drillOf_setDrill_self hd hxs.1 hxs.2)
  rw [heq]
  generalize logErr (bump (setDrill m x) (drlP k) 0xC0) (drlP k) 0x02 (g / 32) = u at *
  have hreads : ReadsSame m u := fun a => readByte_of_mem (by rw [hlog]; rfl) (by rw [hlog]; rfl) a
  have heff := eccEvent_effect u g .uncorrectable
  have hreg : getReg (eccEvent u g .uncorrectable) (drlP k) 0xC0 = getReg u (drlP k) 0xC0 := getReg_eccEvent (by decide) ..
  have hue : g / 32 * 32 ∈ (eccEvent u g .uncorrectable).mem.ue := mem_ue_eccEvent g
  rw [show g / 32 * 32 = g by omega] at hue
  generalize eccEvent u g .uncorrectable = v at heff hreg hue
  have hv : drillOf v k n = some x := (drillOf_of_drills (by rw [heff.frame]) k n).trans hu
  rw [drillStop_eq hv]
  refine ⟨hue, fun a => ?_, (congrArg BitVec.toNat hreg).trans hcount, _, drillOf_setDrill_self hv hxs.1 hxs.2, ?_, hxa⟩
  · exact (readByte_of_mem rfl rfl a).trans ((heff.reads a).trans (hreads a))
  · rw [hxd]

end

/-! The checks of an access. -/

/-- The drill's slice has the byte at `a`. -/
def InSlice (m : Mod) (k n a : Nat) : Prop := sliceOf m a = some (k, n)

/-- One of the ends of `b` bytes at `a` lies in a retired page. -/
def InRetired (m : Mod) (a b : Nat) : Prop := pageNo a ∈ m.mem.retiredPg ∨ pageNo (a + b - 1) ∈ m.mem.retiredPg

section
variable {m : Mod} {k n : Nat} {d : Drill}

theorem bankAddr_eq (d : Drill) (w : BitVec 26) (z : Int) :
    bankAddr d w z = (((drillB d (mBk w) : Int) + drillR d (mRs w) + z * mImm w) % 70368744177664).toNat := rfl

theorem bankExc_out (hs : d.stack = k) (hn : d.n = n) {a b al : Nat}
    (h : a % al ≠ 0 ∨ (¬ InRetired m a b ∧ (¬ InSlice m k n a ∨ ¬ InSlice m k n (a + b - 1)))) : bankExc m d a b al = some 0x12 := by
  unfold bankExc inSlice
  rw [hs, hn]
  rcases h with h | ⟨hret, hsl⟩
  · rw [if_pos (by simpa using h)]
  · split
    · rfl
    · rw [if_neg (by simpa [InRetired] using hret), if_neg]
      simpa [InSlice, imp_iff_not_or] using hsl

theorem bankExc_retired {a b al : Nat} (ha : a % al = 0) (h : InRetired m a b) : bankExc m d a b al = some 0x11 := by
  unfold bankExc
  rw [if_neg (by simp [ha]), if_pos (by simpa [InRetired] using h)]

theorem bankExc_none (hs : d.stack = k) (hn : d.n = n) {a b al : Nat}
    (h : ¬ (a % al ≠ 0 ∨ InRetired m a b ∨ ¬ InSlice m k n a ∨ ¬ InSlice m k n (a + b - 1))) : bankExc m d a b al = none := by
  obtain ⟨ha, hret, hlo, hhi⟩ : a % al = 0 ∧ ¬ InRetired m a b ∧ InSlice m k n a ∧ InSlice m k n (a + b - 1) := by
    simpa [not_or] using h
  unfold bankExc inSlice
  rw [hs, hn, if_neg (by simp [ha]), if_neg (by simpa [InRetired] using hret), if_pos]
  exact Bool.and_eq_true_iff.mpr ⟨decide_eq_true hlo, decide_eq_true hhi⟩

theorem inRegion_iff (d : Drill) (a b : Nat) : inRegion d a b = true ↔ regionBase d ≤ a ∧ a + b ≤ regionBase d + regionLen d := by
  simp [inRegion]

end
end Sys2Proof.Proofs

/-! BLD, BST and BSTW (R361 to R363). -/

namespace Sys2Proof.Proofs

open Sys2Proof Sys2Proof.Machine Sys2Proof.Laws

section
variable {m : Mod} {k n : Nat} {d : Drill}

/-! A correctable error met by a drill. -/

/-- A corrected error of the granule at `a` is counted on the stack's drill page. -/
def CorrCounted (m t : Mod) (k a : Nat) (e : Ecc) : Prop :=
  eccAt m a e = .corrected → regN t (drlP k) 0xC4 = min (regN m (drlP k) 0xC4 + 1) 0xFFFFFFFF

theorem drillCorr_spec (m : Mod) (k a : Nat) (e : Ecc) :
    ReadEffect m (drillCorr m k a e) ∧ (drillCorr m k a e).mem = m.mem ∧ CorrCounted m (drillCorr m k a e) k a e := by
  unfold drillCorr CorrCounted
  split
  next h =>
    have hcorr : eccAt m a .corrected = .corrected := by
      unfold eccAt at h ⊢
      split at h
      · contradiction
      · next hue => exact if_neg hue
    have heff := eccEvent_effect m a .corrected
    have hmem := eccEvent_mem hcorr
    have hreg : getReg (eccEvent m a .corrected) (drlP k) 0xC4 = getReg m (drlP k) 0xC4 := getReg_eccEvent (by decide) ..
    generalize eccEvent m a .corrected = u at heff hmem hreg
    refine ⟨heff.trans (.bump u 1 (regAddr_ne_of_offset (by decide))), hmem, fun _ => ?_⟩
    rw [regN_bump, regN, hreg, regN]
  next h => exact ⟨.refl m, rfl, fun hc => absurd hc h⟩

theorem readEffect_drills {t : Mod} (h : ReadEffect m t) : t.drills = m.drills := by rw [h.frame]
theorem readEffect_faces {t : Mod} (h : ReadEffect m t) : t.faces = m.faces := by rw [h.frame]

/-! A granule stored in bench 1. -/

theorem sliceOf_of_page {a b : Nat} (h : pageNo a = pageNo b) : sliceOf m a = sliceOf m b := by simp only [sliceOf, h]

theorem bench_of_slice {a : Nat} (h : InSlice m k n a) : ∃ e, pageEnt m (pageNo a) = some e ∧ e.bench = 1 := by
  unfold InSlice sliceOf at h
  split at h
  · next e he =>
    split at h
    · next hb => exact ⟨e, he, hb⟩
    · contradiction
  · contradiction

theorem storeGran_cells {e : PageEnt} {a : Nat} {g : List Byte} (hb : e.bench = 1) :
    storeGran m e a g = { setEnt m { e with image := false } with
      mem := { (setEnt m { e with image := false }).mem with cells := cellsSet m.mem.cells a g } } :=
  if_neg (by omega)

/-- What `t` reads at the granule at `a` is `g`, and every other byte is as in `m`; no page has gone elsewhere. -/
def GranStored (m t : Mod) (a : Nat) (g : List Byte) : Prop :=
  (∀ q, seat t q = seat m q) ∧ ∀ x, readByte t x = if x / 32 = a / 32 then g.getD (x % 32) 0#8 else readByte m x

theorem storeGran_stored {e : PageEnt} {a : Nat} {g : List Byte} (he : pageEnt m (pageNo a) = some e) (hb : e.bench = 1)
    (ha : a % 32 = 0) (hg : g.length = 32) : GranStored m (storeGran m e a g) a g := by
  have hpage := pageEnt_page he
  have hseat := seat_setEnt (m := m) (e := { e with image := false }) (f := e) (by rw [hpage]; exact he) rfl
  have hcell (x : Nat) : cellGet (cellsSet m.mem.cells a g) x = if x / 32 = a / 32 then g.getD (x % 32) 0#8 else cellGet m.mem.cells x := by
    rw [cellGet_cellsSet]
    by_cases hx : x / 32 = a / 32
    · have hin : a ≤ x ∧ x < a + g.length := by omega
      have hoff : x - a = x % 32 := by omega
      have hlt : x % 32 < g.length := by omega
      simp [hin, hx, hoff, hlt]
    · rw [dif_neg (by omega), if_neg hx]
  rw [storeGran_cells hb]
  refine ⟨hseat, fun x => ?_⟩
  by_cases hx : x / 32 = a / 32
  · have hsame : pageNo x = pageNo a := by unfold pageNo pageSize; omega
    rw [if_pos hx, readByte_eq]
    show byteIn (pageEnt (setEnt m { e with image := false }) (pageNo x)) _ (cellGet (cellsSet m.mem.cells a g) x) = _
    rw [hsame, pageEnt_setEnt, if_pos hpage.symm, byteIn_some, if_neg (by show ¬ e.bench = 2; omega), hcell, if_pos hx]
  · have hread : readByte (setEnt m { e with image := false }) x = readByte m x := readByte_of_seat (hseat _) rfl rfl
    rw [if_neg hx, ← hread, readByte_eq, readByte_eq]
    refine congrArg (byteIn _ _) ((hcell x).trans ?_)
    rw [if_neg hx]
    rfl

/-- What storing a granule takes: device memory, and counters. -/
def onStored : Portion := ⟨fun m t => { m with mem := t.mem, regs := t.regs }, fun _ => rfl, fun _ _ _ => rfl⟩

theorem logGran_onStored (m : Mod) (a : Nat) (g : List Byte) : onStored.Only m (logGran m a g) := by
  unfold logGran
  split
  · exact .refl ..
  · refine .ite (.ite rfl ?_) (.refl ..)
    unfold abandonMove
    exact .ite rfl rfl

/-- A drill's store of a granule of its slice. -/
theorem applyGran_slice {a : Nat} {g : List Byte} (h : InSlice m k n a) (ha : a % 32 = 0) (hg : g.length = 32) :
    GranStored m (applyGran m a g) a g ∧ onStored.Only m (applyGran m a g) := by
  obtain ⟨e, he, hb⟩ := bench_of_slice h
  have hclear : onStored.Only m (clearUe m a) := rfl
  obtain ⟨hseat, hread⟩ := storeGran_stored (m := clearUe m a) he hb ha hg
  have hstore : onStored.Only (clearUe m a) (storeGran (clearUe m a) e a g) := by rw [storeGran_cells hb]; exact rfl
  rw [applyGran_eq g ha he]
  obtain ⟨hlogk, hlogr⟩ := logGran_spec (storeGran (clearUe m a) e a g) a g
  refine ⟨⟨fun q => (hlogk.seats q).trans (hseat q), fun x => (hlogr x).trans ((hread x).trans ?_)⟩,
    hclear.trans (hstore.trans (logGran_onStored ..))⟩
  rw [(clearUe_spec m a).2 x]

/-! What a store leaves of the cores: the drill past its instruction, and every other core as it was. -/

def MovesOn (m t : Mod) (k n : Nat) (d : Drill) : Prop :=
  drillOf t k n = some { d with pc := pcOf (.drill k n) (d.pc + 4) } ∧ t.faces = m.faces ∧
    ∀ a b, (a, b) ≠ (k, n) → drillOf t a b = drillOf m a b

theorem next4_movesOn {t : Mod} (hd : drillOf m k n = some d) (hdr : t.drills = m.drills) (hf : t.faces = m.faces) :
    MovesOn m (next4 t (.drill k n)) k n d ∧ ReadsSame t (next4 t (.drill k n)) ∧
      ∀ q r, getReg (next4 t (.drill k n)) q r = getReg t q r := by
  obtain ⟨-, hs, hn⟩ := drillOf_spec hd
  have ht : drillOf t k n = some d := (drillOf_of_drills hdr k n).trans hd
  obtain ⟨-, hself, hother⟩ := setDrill_becomes (y := { d with pc := pcOf (.drill k n) (d.pc + 4) }) ht hs hn
  rw [next4_drill ht]
  exact ⟨⟨hself, hf, fun a b hab => (hother a b hab).trans (drillOf_of_drills hdr a b)⟩, fun a => readByte_of_mem rfl rfl a,
    fun q r => getReg_of_vals rfl q r⟩

/-! BLD. -/

variable {w : BitVec 26} {e : Ecc}

theorem bldRun_raises {x : Nat} (hd : drillOf m k n = some d) (hi : Issues m (.bld k n w e) (.drill k n))
    (h : bankExc m d (bankAddr d w 32) 64 32 = some x) : bldRun m k n w e = coreExc m (.drill k n) x (bankAddr d w 32) := by
  unfold bldRun
  rw [issue_of_issues hi rfl, hd]
  dsimp only
  rw [h]

theorem eccAt_high {a : Nat} (ha : a % 32 = 0) : eccAt m (a + 32) .ok = .uncorrectable ↔ a + 32 ∈ m.mem.ue := by
  unfold eccAt
  rw [show (a + 32) / 32 * 32 = a + 32 by omega]
  split <;> simp_all

theorem worstEcc_iff {a : Nat} (ha : a % 32 = 0) :
    worstEcc m a e = .uncorrectable ↔ eccAt m a e = .uncorrectable ∨ a + 32 ∈ m.mem.ue := by
  unfold worstEcc
  rw [← eccAt_high ha]
  simp only [Bool.or_eq_true, decide_eq_true_eq]
  split
  next h => exact iff_of_true rfl h
  next h => exact ⟨Or.inl, fun hor => hor.resolve_right (not_or.mp h).2⟩

theorem bldRun_stops (hd : drillOf m k n = some d) (hi : Issues m (.bld k n w e) (.drill k n))
    (hx : bankExc m d (bankAddr d w 32) 64 32 = none) (ha : bankAddr d w 32 % 32 = 0)
    (h : eccAt m (bankAddr d w 32) e = .uncorrectable ∨ bankAddr d w 32 + 32 ∈ m.mem.ue) : bldRun m k n w e =
      drillEccStop m k n (if eccAt m (bankAddr d w 32) e = .uncorrectable then bankAddr d w 32 else bankAddr d w 32 + 32) := by
  unfold bldRun
  rw [issue_of_issues hi rfl, hd]
  dsimp only
  rw [hx]
  exact if_pos ((worstEcc_iff ha).mpr h)

theorem bytesLanes_getD {j i : Nat} (bs : List Byte) (h : i < j) :
    (bytesLanes j bs).getD i 0#32 = BitVec.ofNat 32 (ofBytes ((bs.drop (4 * i)).take 4)) := by
  simp [bytesLanes, upto, h]

theorem readBytes_part (m : Mod) (a : Nat) {z i j : Nat} (h : i + j ≤ z) : ((readBytes m a z).drop i).take j = readBytes m (a + i) j := by
  refine List.ext_getElem (by simp [readBytes, upto]; omega) fun p hp _ => ?_
  simp [readBytes, upto, Nat.add_assoc]

/-- What BLD leaves: a correctable error counted, device memory and the faces as they were, and the lanes read. -/
theorem bldRun_loads (hd : drillOf m k n = some d) (hi : Issues m (.bld k n w e) (.drill k n))
    (hx : bankExc m d (bankAddr d w 32) 64 32 = none) (ha : bankAddr d w 32 % 32 = 0)
    (h : ¬ (eccAt m (bankAddr d w 32) e = .uncorrectable ∨ bankAddr d w 32 + 32 ∈ m.mem.ue)) :
    CorrCounted m (bldRun m k n w e) k (bankAddr d w 32) e ∧ (bldRun m k n w e).mem = m.mem ∧ (bldRun m k n w e).faces = m.faces ∧
      ∃ y : Drill, drillOf (bldRun m k n w e) k n = some y ∧ y = { d with q := y.q, pc := pcOf (.drill k n) (d.pc + 4) } ∧
        (∀ j, j ≠ mQ w → drillQ y j = drillQ d j) ∧ (drillQ y (mQ w)).length = 16 ∧
        ∀ i, i < 16 → (drillQ y (mQ w)).getD i 0#32 = BitVec.ofNat 32 (ofBytes (readBytes m (bankAddr d w 32 + 4 * i) 4)) := by
  have heq : bldRun m k n w e = next4 (setDrill (drillCorr m k (bankAddr d w 32) e)
      (drillSetQ d (mQ w) (bytesLanes 16 (readBytes (drillCorr m k (bankAddr d w 32) e) (bankAddr d w 32) 64)))) (.drill k n) := by
    unfold bldRun
    rw [issue_of_issues hi rfl, hd]
    dsimp only
    rw [hx]
    exact if_neg (mt (worstEcc_iff ha).mp h)
  obtain ⟨heff, hmem, hcount⟩ := drillCorr_spec m k (bankAddr d w 32) e
  rw [heq]
  clear heq
  generalize bankAddr d w 32 = a at *
  generalize drillCorr m k a e = u at heff hmem hcount
  have hu : drillOf u k n = some d := (drillOf_of_drills (readEffect_drills heff) k n).trans hd
  obtain ⟨y, ⟨hframe, hy, -⟩, hyd, hother, hlen, hlane⟩ :=
    drillSetQ_writes hu (mQ w) (v := bytesLanes 16 (readBytes u a 64)) (length_bytesLanes ..)
  generalize next4 (setDrill u (drillSetQ d (mQ w) (bytesLanes 16 (readBytes u a 64)))) (.drill k n) = t at hframe hy
  have hregs : t.regs = u.regs := by rw [hframe]
  refine ⟨fun hc => ?_, ?_, ?_, y, hy, hyd, hother, hlen, fun i hi => ?_⟩
  · exact (congrArg BitVec.toNat (getReg_of_vals (congrArg Regs.vals hregs) _ _)).trans (hcount hc)
  · rw [← hmem, hframe]
  · rw [← readEffect_faces heff, hframe]
  · refine (hlane i hi).trans ((bytesLanes_getD _ hi).trans ?_)
    rw [readBytes_part u a (by omega), readBytes_of_reads heff.reads]

/-! BST. -/

theorem bstRun_raises {x : Nat} (hd : drillOf m k n = some d) (hi : Issues m (.bst k n w) (.drill k n))
    (h : bankExc m d (bankAddr d w 32) 64 32 = some x) : bstRun m k n w = coreExc m (.drill k n) x (bankAddr d w 32) := by
  unfold bstRun
  rw [issue_of_issues hi rfl, hd]
  dsimp only
  rw [h]

theorem bstRun_outside (hd : drillOf m k n = some d) (hi : Issues m (.bst k n w) (.drill k n))
    (hx : bankExc m d (bankAddr d w 32) 64 32 = none) (h : inRegion d (bankAddr d w 32) 64 = false) :
    bstRun m k n w = coreExc m (.drill k n) 0x13 (bankAddr d w 32) := by
  unfold bstRun
  rw [issue_of_issues hi rfl, hd]
  dsimp only
  rw [hx]
  exact if_pos (by simp [h])

theorem getD_toBytes (v : Nat) {z j : Nat} (h : j < z) : (toBytes v z).getD j 0#8 = BitVec.ofNat 8 (v / 2 ^ (8 * j)) := by
  induction z generalizing v j with
  | zero => simp at h
  | succ z ih =>
    cases j with
    | zero => simp [toBytes]
    | succ j =>
      rw [toBytes, List.getD_cons_succ, ih (v / 256) (by omega), Nat.div_div_eq_div_mul, Nat.mul_succ, Nat.pow_add, Nat.mul_comm]

theorem getD_laneBytes {v : List Word} {j : Nat} (h : j < 4 * v.length) :
    (laneBytes v).getD j 0#8 = BitVec.ofNat 8 ((v.getD (j / 4) 0#32).toNat / 2 ^ (8 * (j % 4))) := by
  induction v generalizing j with
  | nil => simp at h
  | cons x v ih =>
    have hlen : (toBytes x.toNat 4).length = 4 := toBytes_length ..
    rw [laneBytes, List.flatMap_cons, ← laneBytes]
    by_cases hj : j < 4
    · rw [List.getD_append _ _ _ _ (by omega), getD_toBytes _ hj, Nat.div_eq_of_lt hj, Nat.mod_eq_of_lt hj]
      rfl
    · rw [List.getD_append_right _ _ _ _ (by omega), hlen, ih (by rw [List.length_cons] at h; omega),
        show (j - 4) % 4 = j % 4 by omega, show j / 4 = (j - 4) / 4 + 1 by omega, List.getD_cons_succ]

/-- BST stores the 64 bytes of its register, and no other byte changes. -/
theorem bstRun_stores (hd : drillOf m k n = some d) (hq : ∀ e ∈ d.q, e.2.length = 16) (hi : Issues m (.bst k n w) (.drill k n))
    (hx : bankExc m d (bankAddr d w 32) 64 32 = none) (hreg : inRegion d (bankAddr d w 32) 64 = true) (ha : bankAddr d w 32 % 32 = 0)
    (hlo : InSlice m k n (bankAddr d w 32)) (hhi : InSlice m k n (bankAddr d w 32 + 63)) :
    MovesOn m (bstRun m k n w) k n d ∧ ∀ b, readByte (bstRun m k n w) b =
      if bankAddr d w 32 ≤ b ∧ b < bankAddr d w 32 + 64 then
        BitVec.ofNat 8 ((drillLane d (mQ w) ((b - bankAddr d w 32) / 4)).toNat / 2 ^ (8 * ((b - bankAddr d w 32) % 4)))
      else readByte m b := by
  obtain ⟨bs, hbs⟩ := exists_eq (a' := laneBytes (drillQ d (mQ w)))
  have heq : bstRun m k n w =
      next4 (applyGran (applyGran m (bankAddr d w 32) (bs.take 32)) (bankAddr d w 32 + 32) (bs.drop 32)) (.drill k n) := by
    unfold bstRun
    rw [issue_of_issues hi rfl, hd]
    dsimp only
    rw [hx, hbs]
    exact if_neg (by simp [hreg])
  rw [heq]
  generalize bankAddr d w 32 = a at hlo hhi ha
  have hq16 := drillQ_length hq (mQ w)
  have hlen : bs.length = 64 := by rw [hbs, laneBytes_length, hq16]
  obtain ⟨⟨hseat, hread⟩, honly⟩ := applyGran_slice hlo ha (g := bs.take 32) (by simp [hlen])
  generalize applyGran m a (bs.take 32) = u at hseat hread honly
  have hmid : InSlice u k n (a + 32) :=
    (sliceOf_of_seat (hseat _)).trans ((sliceOf_of_page (by unfold pageNo pageSize; omega)).trans hhi)
  obtain ⟨⟨-, hread'⟩, honly'⟩ := applyGran_slice hmid (by omega) (g := bs.drop 32) (by simp [hlen])
  generalize applyGran u (a + 32) (bs.drop 32) = v at hread' honly'
  have hv := honly.trans honly'
  obtain ⟨hmoves, hsame, -⟩ := next4_movesOn (t := v) hd (hv.same Mod.drills fun _ _ => rfl) (hv.same Mod.faces fun _ _ => rfl)
  refine ⟨hmoves, fun b => ?_⟩
  rw [hsame, hread', hread]
  by_cases hb : a ≤ b ∧ b < a + 64
  · rw [if_pos hb]
    have hlane : bs.getD (b - a) 0#8 = BitVec.ofNat 8 ((drillLane d (mQ w) ((b - a) / 4)).toNat / 2 ^ (8 * ((b - a) % 4))) := by
      rw [hbs, getD_laneBytes (by omega)]
      rfl
    rw [← hlane]
    by_cases hhalf : b < a + 32
    · rw [if_neg (by omega), if_pos (by omega), show b % 32 = b - a by omega]
      simp only [List.getD_eq_getElem?_getD, List.getElem?_take_of_lt (show b - a < 32 by omega)]
    · rw [if_pos (by omega)]
      simp only [List.getD_eq_getElem?_getD, List.getElem?_drop, show 32 + b % 32 = b - a by omega]
  · rw [if_neg hb, if_neg (by omega), if_neg (by omega)]

/-! BSTW (R362). -/

theorem bstwRun_raises {x : Nat} (hd : drillOf m k n = some d) (hi : Issues m (.bstw k n w e) (.drill k n))
    (h : bankExc m d (bankAddr d w 4) 4 4 = some x) : bstwRun m k n w e = coreExc m (.drill k n) x (bankAddr d w 4) := by
  unfold bstwRun
  rw [issue_of_issues hi rfl, hd]
  dsimp only
  rw [h]

theorem bstwRun_outside (hd : drillOf m k n = some d) (hi : Issues m (.bstw k n w e) (.drill k n))
    (hx : bankExc m d (bankAddr d w 4) 4 4 = none) (h : inRegion d (bankAddr d w 4) 4 = false) :
    bstwRun m k n w e = coreExc m (.drill k n) 0x13 (bankAddr d w 4) := by
  unfold bstwRun
  rw [issue_of_issues hi rfl, hd]
  dsimp only
  rw [hx]
  exact if_pos (by simp [h])

theorem bstwRun_stops (hd : drillOf m k n = some d) (hi : Issues m (.bstw k n w e) (.drill k n))
    (hx : bankExc m d (bankAddr d w 4) 4 4 = none) (hreg : inRegion d (bankAddr d w 4) 4 = true)
    (h : eccAt m (bankAddr d w 4) e = .uncorrectable) : bstwRun m k n w e = drillEccStop m k n (bankAddr d w 4 / 32 * 32) := by
  unfold bstwRun
  rw [issue_of_issues hi rfl, hd]
  dsimp only
  rw [hx]
  dsimp only
  rw [if_neg (by simp [hreg]), if_pos h]

theorem getD_patch {old new : List Byte} {p i : Nat} (h : p + new.length ≤ old.length) :
    (patch old p new).getD i 0#8 = if p ≤ i ∧ i < p + new.length then new.getD (i - p) 0#8 else old.getD i 0#8 := by
  have hp : (old.take p).length = p := List.length_take_of_le (by omega)
  unfold patch
  by_cases hlo : i < p
  · rw [if_neg (by omega), List.append_assoc, List.getD_append _ _ _ _ (by omega)]
    simp only [List.getD_eq_getElem?_getD, List.getElem?_take_of_lt hlo]
  · by_cases hhi : i < p + new.length
    · rw [if_pos (by omega), List.getD_append _ _ _ _ (by rw [List.length_append]; omega),
        List.getD_append_right _ _ _ _ (by omega), hp]
    · rw [if_neg (by omega), List.getD_append_right _ _ _ _ (by rw [List.length_append]; omega), List.length_append, hp]
      simp only [List.getD_eq_getElem?_getD, List.getElem?_drop, show p + new.length + (i - (p + new.length)) = i by omega]

theorem getD_readGran (m : Mod) {a x : Nat} (h : x / 32 = a / 32) : (readGran m a).getD (x % 32) 0#8 = readByte m x := by
  have hlt : x % 32 < 32 := Nat.mod_lt _ (by decide)
  have hsum : a / 32 * 32 + x % 32 = x := by omega
  simp [readGran, readBytes, upto, hlt, hsum]

theorem applyGran_base (m : Mod) (a : Nat) (g : List Byte) : applyGran m a g = applyGran m (a / 32 * 32) g := by
  unfold applyGran
  rw [show a / 32 * 32 / 32 * 32 = a / 32 * 32 by omega]

/-- BSTW stores the four bytes of lane 0, and no other byte changes. -/
theorem bstwRun_stores (hd : drillOf m k n = some d) (hi : Issues m (.bstw k n w e) (.drill k n))
    (hx : bankExc m d (bankAddr d w 4) 4 4 = none) (hreg : inRegion d (bankAddr d w 4) 4 = true)
    (h : eccAt m (bankAddr d w 4) e ≠ .uncorrectable) (ha : bankAddr d w 4 % 4 = 0) (hsl : InSlice m k n (bankAddr d w 4)) :
    MovesOn m (bstwRun m k n w e) k n d ∧ CorrCounted m (bstwRun m k n w e) k (bankAddr d w 4) e ∧
      ∀ b, readByte (bstwRun m k n w e) b = if bankAddr d w 4 ≤ b ∧ b < bankAddr d w 4 + 4 then
        BitVec.ofNat 8 ((drillLane d (mQ w) 0).toNat / 2 ^ (8 * (b - bankAddr d w 4))) else readByte m b := by
  obtain ⟨v, hv⟩ := exists_eq (a' := toBytes (drillLane d (mQ w) 0).toNat 4)
  have heq : bstwRun m k n w e = next4 (applyGran (drillCorr m k (bankAddr d w 4) e) (bankAddr d w 4)
      (patch (readGran (drillCorr m k (bankAddr d w 4) e) (bankAddr d w 4)) (bankAddr d w 4 % 32) v)) (.drill k n) := by
    unfold bstwRun
    rw [issue_of_issues hi rfl, hd]
    dsimp only
    rw [hx, hv]
    dsimp only
    rw [if_neg (by simp [hreg]), if_neg h]
    rfl
  obtain ⟨heff, hmem, hcount⟩ := drillCorr_spec m k (bankAddr d w 4) e
  rw [heq]
  generalize bankAddr d w 4 = a at *
  generalize drillCorr m k a e = u at heff hmem hcount
  have hvlen : v.length = 4 := by rw [hv, toBytes_length]
  obtain ⟨g, hg⟩ := exists_eq (a' := patch (readGran u a) (a % 32) v)
  have hglen : g.length = 32 := by
    simp only [hg, patch, List.length_append, List.length_take, List.length_drop, readGran_length, hvlen]
    omega
  have hslice : InSlice u k n (a / 32 * 32) := by
    refine (sliceOf_of_page (b := a) (by unfold pageNo pageSize; omega)).trans (Eq.trans ?_ hsl)
    unfold sliceOf pageEnt
    rw [hmem]
  obtain ⟨⟨-, hread⟩, honly⟩ := applyGran_slice hslice (by omega) hglen
  have hcw := applyGran_countsWrites (m := u) (a / 32 * 32) g
  rw [← hg, applyGran_base]
  generalize applyGran u (a / 32 * 32) g = t at hread honly hcw
  obtain ⟨hmoves, hsame, hregs⟩ := next4_movesOn (t := t) hd ((honly.same Mod.drills fun _ _ => rfl).trans (readEffect_drills heff))
    ((honly.same Mod.faces fun _ _ => rfl).trans (readEffect_faces heff))
  refine ⟨hmoves, fun hc => ?_, fun b => ?_⟩
  · rw [regN, hregs, hcw.same _ _ (by decide)]
    exact hcount hc
  · rw [hsame, hread, show a / 32 * 32 / 32 = a / 32 by omega]
    by_cases hb : b / 32 = a / 32
    · rw [if_pos hb, hg, getD_patch (by rw [hvlen, readGran_length]; omega), hvlen, getD_readGran u hb, heff.reads b]
      by_cases hin : a ≤ b ∧ b < a + 4
      · rw [if_pos (by omega), if_pos hin, hv, show b % 32 - a % 32 = b - a by omega, getD_toBytes _ (by omega)]
      · rw [if_neg (by omega), if_neg hin]
    · rw [if_neg hb, heff.reads b, if_neg (by omega)]

end
end Sys2Proof.Proofs

/-! Scratch space and the lists in it (R391, R393, R397). -/

namespace Sys2Proof.Proofs

open Sys2Proof Sys2Proof.Machine Sys2Proof.Laws

/-! Bytes written to scratch space. -/

/-- One byte written, to scratch or to the command register area. -/
def putScratch (d : Drill) (a : Nat) (b : Byte) : Drill :=
  if a < 0x8000 then { d with scratch := cellSet d.scratch a b } else setAreaByte d (a - 0x8000) b

/-- An address that a drill's store may reach: below the registers that the host writes, or past them (R391). -/
def Storable (a : Nat) : Prop := a < 0x8000 ∨ 0x8080 ≤ a

section
variable {d : Drill}

theorem scratchWrite_cons (d : Drill) (a : Nat) (b : Byte) (bs : List Byte) :
    scratchWrite d a (b :: bs) = scratchWrite (putScratch d a b) (a + 1) bs := rfl

theorem setArea_frame (d : Drill) (o v : Nat) :
    setArea d o v = { d with scratch := (setArea d o v).scratch, area := (setArea d o v).area } := rfl

theorem setArea_scratch (d : Drill) (o v : Nat) : (setArea d o v).scratch = d.scratch := rfl

theorem areaWord_setArea (d : Drill) {o : Nat} (ho : 0x80 ≤ o) (j v : Nat) :
    areaWord (setArea d o v) j = if j = o then v % 2 ^ 32 else areaWord d j := by
  unfold areaWord
  by_cases hj : j = o
  · rw [if_neg (by omega), if_neg (by omega), if_pos hj, areaN_setArea, if_pos hj]
  · rw [if_neg hj, areaN_setArea, if_neg hj]
    rfl

/-- A byte put into a word, as the bytes of the word then read. -/
theorem setBits_byte {v i j : Nat} (b : Byte) (hv : v < 2 ^ 32) (hi : i < 4) (hj : j < 4) :
    BitVec.ofNat 8 (setBits v (8 * i) 8 b.toNat % 2 ^ 32 / 2 ^ (8 * j)) = if j = i then b else BitVec.ofNat 8 (v / 2 ^ (8 * j)) := by
  have hb := b.isLt
  have hval : setBits v (8 * i) 8 b.toNat % 2 ^ 32 / 2 ^ (8 * j) % 2 ^ 8 = if j = i then b.toNat else v / 2 ^ (8 * j) % 2 ^ 8 := by
    unfold setBits bits
    interval_cases i <;> interval_cases j <;> simp only [reduceIte, Nat.reduceEqDiff, Nat.reduceMul, Nat.reducePow] <;> omega
  refine BitVec.eq_of_toNat_eq ?_
  rw [BitVec.toNat_ofNat, hval]
  split
  · rfl
  · exact (BitVec.toNat_ofNat ..).symm

theorem scratchByte_putScratch {a : Nat} (ha : Storable a) (b : Byte) (j : Nat) :
    scratchByte (putScratch d a b) j = if j = a then b else scratchByte d j := by
  unfold putScratch
  by_cases hlo : a < 0x8000
  · rw [if_pos hlo]
    unfold scratchByte
    by_cases hj : j < 0x8000
    · rw [if_pos hj, if_pos hj]
      exact cellGet_cellSet ..
    · rw [if_neg hj, if_neg hj, if_neg (by omega)]
      rfl
  · rw [if_neg hlo]
    have hhi : 0x8080 ≤ a := ha.resolve_left hlo
    have hlt (o : Nat) : areaN d o < 2 ^ 32 := (mapGet areaDflt d.area o).isLt
    unfold scratchByte setAreaByte
    by_cases hj : j < 0x8000
    · rw [if_pos hj, if_pos hj, if_neg (by omega), setArea_scratch]
    · rw [if_neg hj, if_neg hj, areaWord_setArea d (by omega)]
      by_cases hw : (j - 0x8000) / 4 * 4 = (a - 0x8000) / 4 * 4
      · have hword : areaWord d ((j - 0x8000) / 4 * 4) = areaN d ((a - 0x8000) / 4 * 4) := by
          unfold areaWord
          rw [hw, if_neg (by omega), if_neg (by omega)]
        rw [if_pos hw, hword, setBits_byte b (hlt _) (Nat.mod_lt _ (by decide)) (Nat.mod_lt _ (by decide))]
        exact if_congr (by omega) rfl rfl
      · rw [if_neg hw, if_neg (by rintro rfl; exact hw rfl)]

theorem scratchByte_scratchWrite {a : Nat} (bs : List Byte) (h : a + bs.length ≤ 0x8000 ∨ 0x8080 ≤ a) (j : Nat) :
    scratchByte (scratchWrite d a bs) j = if a ≤ j ∧ j < a + bs.length then bs.getD (j - a) 0#8 else scratchByte d j := by
  induction bs generalizing d a with
  | nil => rw [if_neg (by rw [List.length_nil]; omega)]; rfl
  | cons b bs ih =>
    rw [List.length_cons] at h ⊢
    rw [scratchWrite_cons, ih (by omega), scratchByte_putScratch (by unfold Storable; omega)]
    by_cases hj : j = a
    · rw [if_neg (by omega), if_pos hj, if_pos (by omega), show j - a = 0 by omega]
      rfl
    · by_cases hin : a + 1 ≤ j ∧ j < a + 1 + bs.length
      · rw [if_pos hin, if_pos (by omega), show j - a = j - (a + 1) + 1 by omega, List.getD_cons_succ]
      · rw [if_neg hin, if_neg hj, if_neg (by omega)]

theorem scratchWrite_frame (d : Drill) (a : Nat) (bs : List Byte) :
    scratchWrite d a bs = { d with scratch := (scratchWrite d a bs).scratch, area := (scratchWrite d a bs).area } := by
  induction bs generalizing d a with
  | nil => rfl
  | cons b bs ih =>
    have hput : putScratch d a b = { d with scratch := (putScratch d a b).scratch, area := (putScratch d a b).area } := by
      unfold putScratch
      split
      · rfl
      · exact setArea_frame ..
    rw [scratchWrite_cons, ih, hput]

/-- What an instruction leaves that writes scratch space alone. -/
def ScratchWrites (m t : Mod) (k n : Nat) (d : Drill) (P : Drill → Prop) : Prop :=
  ∃ y : Drill, DrillBecomes m t k n y ∧ y = { d with scratch := y.scratch, area := y.area, pc := pcOf (.drill k n) (d.pc + 4) } ∧ P y

theorem scratchByte_pc (d : Drill) (p j : Nat) : scratchByte { d with pc := p } j = scratchByte d j := rfl

variable {m : Mod} {k n : Nat}

theorem next4_scratchWrites (hd : drillOf m k n = some d) {x : Drill} (hx : x = { d with scratch := x.scratch, area := x.area })
    {P : Drill → Prop} (hP : P { x with pc := pcOf (.drill k n) (d.pc + 4) }) :
    ScratchWrites m (next4 (setDrill m x) (.drill k n)) k n d P := by
  obtain ⟨-, hs, hn⟩ := drillOf_spec hd
  have hpc : x.pc = d.pc := by rw [hx]
  have hb : DrillBecomes m (next4 (setDrill m x) (.drill k n)) k n { x with pc := pcOf (.drill k n) (x.pc + 4) } :=
    next4_becomes hd (by rw [hx]; exact hs) (by rw [hx]; exact hn)
  rw [hpc] at hb
  exact ⟨_, hb, by rw [hx], hP⟩

/-! The checks of an access. -/

/-- `b` bytes at `a` lie past scratch space, or not at a multiple of `al`. -/
def PastScratch (a b al : Nat) : Prop := 0x8100 < a + b ∨ a % al ≠ 0

/-- `b` bytes at `a` reach registers that a drill's store may not write. -/
def ShutScratch (a b : Nat) : Prop := 0x8000 < a + b ∧ a < 0x8080

theorem scratchAccess_past {a b al : Nat} (h : PastScratch a b al) (st : Bool) : scratchAccess a b al st = some 0x10 :=
  if_pos (by simpa [PastScratch] using h)

theorem scratchAccess_load {a b al : Nat} (h : ¬ PastScratch a b al) : scratchAccess a b al false = none := by
  unfold scratchAccess
  rw [if_neg (by simpa [PastScratch] using h)]
  rfl

theorem scratchAccess_shut {a b al : Nat} (h : ¬ PastScratch a b al) (hs : ShutScratch a b) : scratchAccess a b al true = some 0x13 := by
  unfold scratchAccess
  rw [if_neg (by simpa [PastScratch] using h), if_pos (by simpa [ShutScratch] using hs)]

theorem scratchAccess_store {a b al : Nat} (h : ¬ PastScratch a b al) (hs : ¬ ShutScratch a b) : scratchAccess a b al true = none := by
  unfold scratchAccess
  rw [if_neg (by simpa [PastScratch] using h), if_neg (by simpa [ShutScratch] using hs)]

/-! QLD and QST. -/

variable {w : BitVec 26}

theorem qldRun_raises (hd : drillOf m k n = some d) (hi : Issues m (.qld k n w) (.drill k n))
    (h : PastScratch (scratchAddr d w) 64 64) : qldRun m k n w = coreExc m (.drill k n) 0x10 (scratchAddr d w) := by
  unfold qldRun
  rw [issue_of_issues hi rfl, hd]
  dsimp only
  rw [scratchAccess_past h]

theorem qstRun_raises {x : Nat} (hd : drillOf m k n = some d) (hi : Issues m (.qst k n w) (.drill k n))
    (h : scratchAccess (scratchAddr d w) 64 64 true = some x) : qstRun m k n w = coreExc m (.drill k n) x (scratchAddr d w) := by
  unfold qstRun
  rw [issue_of_issues hi rfl, hd]
  dsimp only
  rw [h]

theorem scratchRead_part (d : Drill) (a : Nat) {z i j : Nat} (h : i + j ≤ z) :
    ((scratchRead d a z).drop i).take j = scratchRead d (a + i) j := by
  refine List.ext_getElem (by simp [scratchRead, upto]; omega) fun p hp _ => ?_
  simp [scratchRead, upto, Nat.add_assoc]

theorem qldRun_loads (hd : drillOf m k n = some d) (hi : Issues m (.qld k n w) (.drill k n)) (h : ¬ PastScratch (scratchAddr d w) 64 64) :
    QuadWrites m (qldRun m k n w) k n d (mQ w) fun i => BitVec.ofNat 32 (ofBytes (scratchRead d (scratchAddr d w + 4 * i) 4)) := by
  unfold qldRun
  rw [issue_of_issues hi rfl, hd]
  dsimp only
  rw [scratchAccess_load h]
  refine (drillSetQ_writes hd (mQ w) (length_bytesLanes ..)).congr fun i hi => ?_
  rw [bytesLanes_getD _ hi, scratchRead_part d _ (by omega)]

theorem qstRun_stores (hd : drillOf m k n = some d) (hq : ∀ e ∈ d.q, e.2.length = 16) (hi : Issues m (.qst k n w) (.drill k n))
    (h : ¬ PastScratch (scratchAddr d w) 64 64) (hs : ¬ ShutScratch (scratchAddr d w) 64) :
    ScratchWrites m (qstRun m k n w) k n d fun y => ∀ j, scratchByte y j =
      if scratchAddr d w ≤ j ∧ j < scratchAddr d w + 64 then
        BitVec.ofNat 8 ((drillLane d (mQ w) ((j - scratchAddr d w) / 4)).toNat / 2 ^ (8 * ((j - scratchAddr d w) % 4)))
      else scratchByte d j := by
  unfold qstRun
  rw [issue_of_issues hi rfl, hd]
  dsimp only
  rw [scratchAccess_store h hs]
  have hq16 := drillQ_length hq (mQ w)
  have hlen : (laneBytes (drillQ d (mQ w))).length = 64 := by rw [laneBytes_length, hq16]
  generalize scratchAddr d w = a at *
  refine next4_scratchWrites hd (scratchWrite_frame ..) fun j => ?_
  rw [scratchByte_pc, scratchByte_scratchWrite _ (by rw [hlen]; unfold PastScratch at h; unfold ShutScratch at hs; omega), hlen]
  by_cases hj : a ≤ j ∧ j < a + 64
  · rw [if_pos hj, if_pos hj, getD_laneBytes (by rw [hq16]; omega)]
    rfl
  · rw [if_neg hj, if_neg hj]

end
end Sys2Proof.Proofs

/-! LINS: a list in scratch space, and an entry inserted into it (R393). -/

namespace Sys2Proof.Proofs

open Sys2Proof Sys2Proof.Machine Sys2Proof.Laws

/-! Insertion before the first entry that the new one precedes. -/

section
variable {α : Type} {lt : α → α → Bool} {x z : α} {l : List α}

theorem insertBy_before_last (h : lt x z = true) : insertBy lt x (l ++ [z]) = insertBy lt x l ++ [z] := by
  induction l with
  | nil => simp [insertBy, h]
  | cons y l ih =>
    simp only [List.cons_append, insertBy, ih]
    split <;> rfl

theorem insertBy_at_end (h : ∀ y ∈ l, lt x y = false) : insertBy lt x l = l ++ [x] := by
  induction l with
  | nil => rfl
  | cons y l ih =>
    obtain ⟨hy, hl⟩ := List.forall_mem_cons.mp h
    rw [insertBy, if_neg (by simp [hy]), ih hl]
    rfl

/-- A list that is full keeps its length: its last entry is dropped where the new one precedes it. -/
theorem take_insertBy_full (h : lt x z = true) {c : Nat} (hl : l.length + 1 = c) : (insertBy lt x (l ++ [z])).take c = insertBy lt x l := by
  rw [insertBy_before_last h]
  exact List.take_left' ((insertBy_length ..).trans hl)

theorem take_insertBy_none (h : ∀ y ∈ l, lt x y = false) : (insertBy lt x l).take l.length = l := by
  rw [insertBy_at_end h]
  exact List.take_left

end

theorem lentLt_asymm (a b : LEnt) (h : lentLt a b = true) : lentLt b a = false := by
  simp only [lentLt, decide_eq_true_eq, decide_eq_false_iff_not] at *
  omega

theorem lentLt_trans (a b c : LEnt) (hba : lentLt b a = false) (hcb : lentLt c b = false) : lentLt c a = false := by
  simp only [lentLt, decide_eq_false_iff_not] at *
  omega

/-- Entries in the order of lists. -/
def InListOrder (l : List LEnt) : Prop := l.Pairwise fun p q => lentLt q p = false

/-- What an insertion of `x` into `old`, cut to `cap` entries, does. -/
theorem insert_spec (x : LEnt) {old : List LEnt} {cap : Nat} (hcap : old.length ≤ cap) :
    let new := (insertBy lentLt x old).take cap
    let last := old.getD (old.length - 1) x
    new.length = min cap (old.length + 1) ∧ (∀ e ∈ new, e = x ∨ e ∈ old) ∧
      (InListOrder old → InListOrder new ∧ (old.length < cap → x ∈ new ∧ ∀ e ∈ old, e ∈ new) ∧
        (0 < cap → old.length = cap → lentLt x last = true → x ∈ new ∧ ∀ e ∈ old.dropLast, e ∈ new) ∧
        (old.length = cap → lentLt x last = false → new = old)) := by
  intro new last
  have hins := insertBy_length lentLt x old
  refine ⟨by rw [List.length_take, hins], fun e he => (mem_insertBy ..).mp (List.mem_of_mem_take he), fun hord =>
    ⟨(pairwise_insertBy lentLt_asymm lentLt_trans x hord).sublist (List.take_sublist ..), fun h => ?_, fun h0 hfull hlt => ?_,
      fun hfull hge => ?_⟩⟩
  · have hnew : new = insertBy lentLt x old := List.take_of_length_le (by omega)
    rw [hnew]
    exact ⟨(mem_insertBy ..).mpr (.inl rfl), fun e he => (mem_insertBy ..).mpr (.inr he)⟩
  · rcases List.eq_nil_or_concat' old with rfl | ⟨l, z, rfl⟩
    · simp at hfull; omega
    · have hlast : last = z := by simp [last]
      have hnew : new = insertBy lentLt x l := take_insertBy_full (hlast ▸ hlt) (by simpa using hfull)
      rw [hnew, List.dropLast_concat]
      exact ⟨(mem_insertBy ..).mpr (.inl rfl), fun e he => (mem_insertBy ..).mpr (.inr he)⟩
  · have hall : ∀ y ∈ old, lentLt x y = false := by
      rcases List.eq_nil_or_concat' old with rfl | ⟨l, z, rfl⟩
      · simp
      · have hlast : last = z := by simp [last]
        rw [hlast] at hge
        intro y hy
        rcases List.mem_append.mp hy with hy | hy
        · exact lentLt_trans y z x ((List.pairwise_append.mp hord).2.2 y hy z (List.mem_singleton_self z)) hge
        · rwa [List.mem_singleton.mp hy]
    show (insertBy lentLt x old).take cap = old
    rw [← hfull]
    exact take_insertBy_none hall

/-! Bytes read back. -/

theorem ofBytes_toBytes (v z : Nat) : ofBytes (toBytes v z) = v % 256 ^ z := by
  induction z generalizing v with
  | zero => simp [toBytes, ofBytes, Nat.mod_one]
  | succ z ih =>
    have hsplit : v % 256 ^ (z + 1) = v % 256 + 256 * (v / 256 % 256 ^ z) := by rw [Nat.pow_succ', Nat.mod_mul]
    rw [toBytes, ofBytes, ih, BitVec.toNat_ofNat, hsplit]

section
variable {d : Drill} {a b z : Nat} {bs : List Byte}

theorem scratchRead_written (h : a + bs.length ≤ 0x8000 ∨ 0x8080 ≤ a) (hlo : a ≤ b) (hhi : b + z ≤ a + bs.length) :
    scratchRead (scratchWrite d a bs) b z = (bs.drop (b - a)).take z := by
  refine List.ext_getElem (by simp [scratchRead, upto]; omega) fun i hi _ => ?_
  have hi : i < z := by simpa [scratchRead, upto] using hi
  simp only [scratchRead, upto, List.getElem_map, List.getElem_range, List.getElem_take, List.getElem_drop]
  rw [scratchByte_scratchWrite bs h, if_pos (by omega), show b + i - a = b - a + i by omega, List.getD_eq_getElem _ _ (by omega)]

theorem scratchRead_unwritten (h : a + bs.length ≤ 0x8000 ∨ 0x8080 ≤ a) (hb : b + z ≤ a) :
    scratchRead (scratchWrite d a bs) b z = scratchRead d b z := by
  refine List.map_congr_left fun i hi => ?_
  have hi : i < z := by simpa [upto] using hi
  rw [scratchByte_scratchWrite bs h, if_neg (by omega)]

theorem lentBytes_length (e : LEnt) : (lentBytes e).length = 16 := by simp [lentBytes, toBytes_length]

/-- An entry's bytes are read as the entry. -/
theorem readLEnt_of_bytes {e : LEnt} (h : scratchRead d a 16 = lentBytes e) : readLEnt d a = e := by
  have hparts : scratchRead d a 4 = toBytes e.1.toNat 4 ∧ scratchRead d (a + 4) 8 = toBytes e.2.1.toNat 8 ∧
      scratchRead d (a + 12) 4 = toBytes e.2.2.toNat 4 := by
    have h0 := scratchRead_part d a (z := 16) (i := 0) (j := 4) (by decide)
    have h4 := scratchRead_part d a (z := 16) (i := 4) (j := 8) (by decide)
    have h12 := scratchRead_part d a (z := 16) (i := 12) (j := 4) (by decide)
    rw [h] at h0 h4 h12
    rw [← h4, ← h12, show scratchRead d a 4 = scratchRead d (a + 0) 4 from rfl, ← h0]
    have l4 (v : Nat) : (toBytes v 4).length = 4 := toBytes_length ..
    have l8 (v : Nat) : (toBytes v 8).length = 8 := toBytes_length ..
    refine ⟨?_, ?_, ?_⟩
    · simp [lentBytes, l4]
    · rw [lentBytes, List.append_assoc, List.drop_left' (l4 _), List.take_left' (l8 _)]
    · rw [lentBytes, List.drop_left' (by rw [List.length_append, l4, l8]), List.take_of_length_le (by rw [l4])]
  obtain ⟨h1, h2, h3⟩ := hparts
  have h32 (v : Word) : BitVec.ofNat 32 (ofBytes (toBytes v.toNat 4)) = v := by
    rw [ofBytes_toBytes, Nat.mod_eq_of_lt (show v.toNat < 256 ^ 4 from v.isLt), BitVec.ofNat_toNat, BitVec.setWidth_eq]
  have h64 (v : DWord) : BitVec.ofNat 64 (ofBytes (toBytes v.toNat 8)) = v := by
    rw [ofBytes_toBytes, Nat.mod_eq_of_lt (show v.toNat < 256 ^ 8 from v.isLt), BitVec.ofNat_toNat, BitVec.setWidth_eq]
  rw [readLEnt, h1, h2, h3, h32, h64, h32]

theorem lentBytes_flatMap_length (l : List LEnt) : (l.flatMap lentBytes).length = 16 * l.length := by
  induction l with
  | nil => rfl
  | cons e l ih =>
    rw [List.flatMap_cons, List.length_append, ih, lentBytes_length, List.length_cons]
    omega

theorem lentBytes_flatMap_part (l : List LEnt) {j : Nat} (h : j < l.length) : ((l.flatMap lentBytes).drop (16 * j)).take 16 = lentBytes l[j] := by
  induction l generalizing j with
  | nil => simp at h
  | cons e l ih =>
    have he := lentBytes_length e
    rw [List.flatMap_cons]
    cases j with
    | zero => exact List.take_left' he
    | succ j =>
      rw [show 16 * (j + 1) = 16 + 16 * j by omega, ← List.drop_drop, List.drop_left' he, List.getElem_cons_succ]
      exact ih (by simpa using h)

/-! The list that LINS works on. -/

/-- The first `c` entries of the list at `a`. -/
def listAt (d : Drill) (a c : Nat) : List LEnt := (upto c).map fun j => readLEnt d (a + 8 + 16 * j)

/-- The list at `a` with its count and entries replaced. -/
def listPut (d : Drill) (a : Nat) (l : List LEnt) : Drill :=
  scratchWrite (scratchWrite d (a + 2) (toBytes l.length 2)) (a + 8) (l.flatMap lentBytes)

theorem listPut_frame (d : Drill) (a : Nat) (l : List LEnt) :
    listPut d a l = { d with scratch := (listPut d a l).scratch, area := (listPut d a l).area } := by
  unfold listPut
  rw [scratchWrite_frame (scratchWrite d (a + 2) _), scratchWrite_frame d (a + 2)]

variable {l : List LEnt} (h : a + 8 + 16 * l.length ≤ 0x8000 ∨ 0x8080 ≤ a)
include h

theorem listAt_listPut : listAt (listPut d a l) a l.length = l := by
  have hlen := lentBytes_flatMap_length l
  refine List.ext_getElem (by simp [listAt, upto]) fun j _ hj => ?_
  simp only [listAt, upto, List.getElem_map, List.getElem_range]
  refine readLEnt_of_bytes ?_
  unfold listPut
  rw [scratchRead_written (by omega) (by omega) (by omega), show a + 8 + 16 * j - (a + 8) = 16 * j by omega, lentBytes_flatMap_part l hj]

theorem count_listPut (hl : l.length < 65536) : ofBytes (scratchRead (listPut d a l) (a + 2) 2) = l.length := by
  have hlen := lentBytes_flatMap_length l
  have h2 : (toBytes l.length 2).length = 2 := toBytes_length ..
  unfold listPut
  rw [scratchRead_unwritten (by omega) (by omega), scratchRead_written (by omega) le_rfl (by omega), Nat.sub_self, List.drop_zero,
    List.take_of_length_le (by omega), ofBytes_toBytes, Nat.mod_eq_of_lt (show _ < 256 ^ 2 from hl)]

theorem scratchByte_listPut {j : Nat} (hj : j < a + 2 ∨ a + 4 ≤ j ∧ j < a + 8 ∨ a + 8 + 16 * l.length ≤ j) :
    scratchByte (listPut d a l) j = scratchByte d j := by
  have hlen := lentBytes_flatMap_length l
  have h2 : (toBytes l.length 2).length = 2 := toBytes_length ..
  unfold listPut
  rw [scratchByte_scratchWrite _ (by omega), if_neg (by omega), scratchByte_scratchWrite _ (by omega), if_neg (by omega)]

end

/-! LINS. -/

section
variable {m : Mod} {k n : Nat} {d : Drill} {rd ra rb : BitVec 5} {f : BitVec 11}

/-- The capacity of the list at `a`, and its count. -/
def listCap (d : Drill) (a : Nat) : Nat := ofBytes (scratchRead d a 2)
def listCnt (d : Drill) (a : Nat) : Nat := min (listCap d a) (ofBytes (scratchRead d (a + 2) 2))

/-- The entry that LINS inserts: score, key and the word in register 29. -/
def linsEnt (d : Drill) (ra rb : BitVec 5) : LEnt :=
  (BitVec.ofNat 32 (drillR d ra.toNat), BitVec.ofNat 64 (drillR d rb.toNat + drillR d ((rb.toNat + 1) % 32) * 2 ^ 32),
    BitVec.ofNat 32 (drillR d 29))

theorem linsRun_head {x : Nat} (hd : drillOf m k n = some d) (hi : Issues m (.lins k n rd ra rb f) (.drill k n))
    (h : scratchAccess (drillR d rd.toNat) 8 4 true = some x) :
    linsRun m k n rd ra rb f = coreExc m (.drill k n) x (drillR d rd.toNat) := by
  unfold linsRun
  rw [issue_of_issues hi rfl, hd]
  dsimp only
  rw [h]

theorem linsRun_body {x : Nat} (hd : drillOf m k n = some d) (hi : Issues m (.lins k n rd ra rb f) (.drill k n))
    (h : scratchAccess (drillR d rd.toNat) 8 4 true = none)
    (hx : scratchAccess (drillR d rd.toNat) (8 + 16 * listCap d (drillR d rd.toNat)) 4 true = some x) :
    linsRun m k n rd ra rb f = coreExc m (.drill k n) x (drillR d rd.toNat) := by
  unfold linsRun
  rw [issue_of_issues hi rfl, hd]
  dsimp only
  rw [h]
  unfold listCap at hx
  dsimp only
  rw [hx]

theorem linsRun_inserts (hd : drillOf m k n = some d) (hi : Issues m (.lins k n rd ra rb f) (.drill k n)) {a : Nat}
    (ha : a = drillR d rd.toNat) (h : scratchAccess a 8 4 true = none) (hx : scratchAccess a (8 + 16 * listCap d a) 4 true = none) :
    linsRun m k n rd ra rb f = next4 (setDrill m (listPut d a
      ((insertBy lentLt (linsEnt d ra rb) (listAt d a (listCnt d a))).take (listCap d a)))) (.drill k n) := by
  subst ha
  unfold linsRun
  rw [issue_of_issues hi rfl, hd]
  dsimp only
  rw [h]
  unfold listCap at hx
  dsimp only
  rw [hx]
  rfl

theorem ofBytes_lt (l : List Byte) : ofBytes l < 256 ^ l.length := by
  induction l with
  | nil => decide
  | cons b l ih =>
    have hb := b.isLt
    rw [ofBytes, List.length_cons, Nat.pow_succ]
    omega

theorem listCap_lt (d : Drill) (a : Nat) : listCap d a < 65536 := by
  have h := ofBytes_lt (scratchRead d a 2)
  have hlen : (scratchRead d a 2).length = 2 := by simp [scratchRead, upto]
  rw [hlen] at h
  exact h

/-- What LINS leaves of the list at `a`. -/
theorem linsRun_spec (hd : drillOf m k n = some d) (hi : Issues m (.lins k n rd ra rb f) (.drill k n)) {a : Nat}
    (ha : a = drillR d rd.toNat) (hpast : ¬ PastScratch a 8 4) (hshut : ¬ ShutScratch a 8)
    (hpast' : ¬ PastScratch a (8 + 16 * listCap d a) 4) (hshut' : ¬ ShutScratch a (8 + 16 * listCap d a)) :
    ScratchWrites m (linsRun m k n rd ra rb f) k n d fun y =>
      let x := linsEnt d ra rb
      let cap := listCap d a
      let cnt := listCnt d a
      let old := listAt d a cnt
      let last := old.getD (cnt - 1) x
      let len := min cap (cnt + 1)
      let new := listAt y a len
      ofBytes (scratchRead y (a + 2) 2) = len ∧ (∀ e ∈ new, e = x ∨ e ∈ old) ∧
      (∀ j, j < a + 2 ∨ a + 4 ≤ j ∧ j < a + 8 ∨ a + 8 + 16 * len ≤ j → scratchByte y j = scratchByte d j) ∧
      (InListOrder old → InListOrder new ∧ (cnt < cap → x ∈ new ∧ ∀ e ∈ old, e ∈ new) ∧
        (0 < cap → cnt = cap → lentLt x last = true → x ∈ new ∧ ∀ e ∈ old.dropLast, e ∈ new) ∧
        (cnt = cap → lentLt x last = false → new = old)) := by
  rw [linsRun_inserts hd hi ha (scratchAccess_store hpast hshut) (scratchAccess_store hpast' hshut')]
  refine next4_scratchWrites hd (listPut_frame ..) ?_
  intro x cap cnt old last len new
  have hcnt : old.length = cnt := by simp [old, listAt, upto]
  obtain ⟨hlen, hmem, hord⟩ := insert_spec x (old := old) (cap := cap) (by rw [hcnt]; exact Nat.min_le_left ..)
  rw [hcnt] at hlen hord
  have hcap : len < 65536 := lt_of_le_of_lt (Nat.min_le_left ..) (listCap_lt d a)
  have hroom : a + 8 + 16 * ((insertBy lentLt x old).take cap).length ≤ 0x8000 ∨ 0x8080 ≤ a := by
    have hle : len ≤ listCap d a := Nat.min_le_left ..
    rw [hlen]
    show a + 8 + 16 * len ≤ _ ∨ _
    unfold PastScratch at hpast'
    unfold ShutScratch at hshut'
    omega
  have hnew : new = (insertBy lentLt x old).take cap := by
    refine Eq.trans ?_ (listAt_listPut (d := d) hroom)
    show listAt _ a len = _
    rw [hlen]
    rfl
  rw [hnew]
  refine ⟨?_, hmem, fun j hj => ?_, hord⟩
  · exact (count_listPut (d := d) hroom (by rw [hlen]; exact hcap)).trans hlen
  · exact scratchByte_listPut (d := d) hroom (by rw [hlen]; exact hj)

end
end Sys2Proof.Proofs

/-! The statement on drill instructions, part by part. -/

namespace Sys2Proof.Proofs

open Sys2Proof Sys2Proof.Machine Sys2Proof.Laws

/-- Settles O58: each instruction by the lemma on its run. -/
theorem drillInstructionsComputeAndAccessTheirSlice : Obligations.DrillInstructionsComputeAndAccessTheirSlice := by
  intro s k n d hd hr hq hp c pc lane does raises setsIn sets eccStop corr moves
  obtain ⟨-, hs, hn⟩ := drillOf_spec hd
  refine ⟨fun w => ?_, fun w e => ?_, fun w => ?_, fun rd ra rb fn => ?_⟩
  · intro on D wide ar cmp scalar act
    have harith {fn : Nat} {g : Word → Word → Word → Word} (hg : ∀ z x y, quadLane fn z x y = g z x y) : ar fn g := by
      rintro rfl hi
      refine (gives_qarith ..).mpr ((qarithRun_writes hd hq hp hi).congr fun i _ => ?_)
      rw [hg]
      rfl
    have hcompare {fn : Nat} {g : Word → Word → Bool} (hg : ∀ x y, cmpLane fn x y = g x y) : cmp fn g := by
      rintro rfl hi
      obtain ⟨y, hb, hy, hother, hlane⟩ := qcmpRun_writes hd hq hp hi
      refine (gives_qcmp ..).mpr ⟨y, hb, hy, hother, fun h0 i hi => ?_⟩
      rw [hlane h0 i hi, hg]
      rfl
    refine ⟨harith fun _ _ _ => rfl, harith fun _ _ _ => rfl, harith fun _ _ _ => rfl, harith fun _ _ _ => rfl,
      harith fun _ _ _ => rfl, harith fun _ _ _ => rfl, harith fun _ _ _ => rfl, harith fun _ _ _ => rfl,
      fun hi => (gives_qfunc ..).mpr (qfuncRun_writes hd hq hp hi), hcompare fun _ _ => rfl, hcompare fun _ _ => rfl,
      hcompare fun _ _ => rfl, fun hf hi => (gives_qred ..).mpr ?_, fun hf hi => (gives_qred ..).mpr ?_, fun sk x hsc hsk hi => ?_,
      fun sk hsk hi => (gives_qcvt ..).mpr (qcvtRun_writes hd hq hp hi hsk), fun hf hi => (gives_qmov ..).mpr (qmovRun_broadcasts hd hq hp hi hf),
      fun hf hi => (gives_qmov ..).mpr (qmovRun_extracts hd hr hi hf), fun h hi => (gives_qtbl ..).mpr (qtblRun_past hd hq hp hi h),
      fun h hi => (gives_qtbl ..).mpr (qtblRun_writes hd hq hp hi h)⟩
    · have h := qredRun_writes hd hr hq hp hi
      rw [hf] at h
      exact h
    · have h := qredRun_writes hd hr hq hp hi
      rw [hf] at h
      exact h
    · subst hsk
      exact (gives_qcvt ..).mpr (qcvtRun_skew hi hsc)
  · intro addr mine inside a gone out bad v bad4 low high
    have ha : a = bankAddr d w 32 := (bankAddr_eq d w 32).symm
    have hv : v = bankAddr d w 4 := (bankAddr_eq d w 4).symm
    have hin {p b : Nat} (h : ¬ inside p b) : inRegion d p b = false := Bool.eq_false_iff.mpr (mt (inRegion_iff d p b).mp h)
    have hok (h : ¬ bad) : bankExc s.mod d a 64 32 = none ∧ a % 32 = 0 ∧ InSlice s.mod k n a ∧ InSlice s.mod k n (a + 63) := by
      refine ⟨bankExc_none hs hn h, ?_⟩
      obtain ⟨hal, h⟩ := not_or.mp h
      obtain ⟨-, h⟩ := not_or.mp h
      obtain ⟨hlo, hhi⟩ := not_or.mp h
      exact ⟨not_not.mp hal, not_not.mp hlo, not_not.mp hhi⟩
    have hok4 (h : ¬ bad4) : bankExc s.mod d v 4 4 = none ∧ v % 4 = 0 ∧ InSlice s.mod k n v := by
      refine ⟨bankExc_none hs hn h, ?_⟩
      obtain ⟨hal, h⟩ := not_or.mp h
      obtain ⟨-, h⟩ := not_or.mp h
      obtain ⟨hlo, -⟩ := not_or.mp h
      exact ⟨not_not.mp hal, not_not.mp hlo⟩
    refine ⟨fun h => ?_, fun h => ?_, fun hal h => ?_, fun hal h => ?_, fun h hlow hi => ?_, fun h hlow hhigh hi => ?_,
      fun h hlow hhigh hi => ?_, fun h hr hi => ?_, fun h hr hi => ?_, fun h hr hi => ?_, fun h hr hue hi => ?_, fun h hr hue hi => ?_⟩
    · have hx := bankExc_out hs hn h
      rw [ha] at hx ⊢
      exact ⟨fun hi => (gives_bld ..).mpr (bldRun_raises hd hi hx), fun hi => (gives_bst ..).mpr (bstRun_raises hd hi hx)⟩
    · have hx := bankExc_out hs hn h
      rw [hv] at hx ⊢
      exact fun hi => (gives_bstw ..).mpr (bstwRun_raises hd hi hx)
    · have hx := bankExc_retired (d := d) hal h
      rw [ha] at hx ⊢
      exact ⟨fun hi => (gives_bld ..).mpr (bldRun_raises hd hi hx), fun hi => (gives_bst ..).mpr (bstRun_raises hd hi hx)⟩
    · have hx := bankExc_retired (d := d) hal h
      rw [hv] at hx ⊢
      exact fun hi => (gives_bstw ..).mpr (bstwRun_raises hd hi hx)
    · obtain ⟨hx, hal, -, -⟩ := hok h
      refine (gives_bld ..).mpr ?_
      rw [bldRun_stops hd hi (ha ▸ hx) (ha ▸ hal) (.inl (ha ▸ hlow)), ← ha, if_pos hlow]
      exact drillEccStop_stops hd hal
    · obtain ⟨hx, hal, -, -⟩ := hok h
      refine (gives_bld ..).mpr ?_
      rw [bldRun_stops hd hi (ha ▸ hx) (ha ▸ hal) (.inr (ha ▸ hhigh)), ← ha, if_neg hlow]
      exact drillEccStop_stops hd (by omega)
    · obtain ⟨hx, hal, -, -⟩ := hok h
      have hne : ¬ (eccAt s.mod a e = .uncorrectable ∨ a + 32 ∈ s.mod.mem.ue) := not_or.mpr ⟨hlow, hhigh⟩
      rw [ha] at hx hal hne
      exact (gives_bld ..).mpr (ha ▸ bldRun_loads hd hi hx hal hne)
    · obtain ⟨hx, -, -, -⟩ := hok h
      have hreg := hin hr
      rw [ha] at hx hreg
      exact (gives_bst ..).mpr (ha ▸ bstRun_outside hd hi hx hreg)
    · obtain ⟨hx, hal, hlo, hhi⟩ := hok h
      have hreg := (inRegion_iff d a 64).mpr hr
      rw [ha] at hx hal hlo hhi hreg
      exact (gives_bst ..).mpr (ha ▸ bstRun_stores hd hq hi hx hreg hal hlo hhi)
    · obtain ⟨hx, -, -⟩ := hok4 h
      have hreg := hin hr
      rw [hv] at hx hreg
      exact (gives_bstw ..).mpr (hv ▸ bstwRun_outside hd hi hx hreg)
    · obtain ⟨hx, -, -⟩ := hok4 h
      have hreg := (inRegion_iff d v 4).mpr hr
      refine (gives_bstw ..).mpr ?_
      rw [bstwRun_stops hd hi (hv ▸ hx) (hv ▸ hreg) (hv ▸ hue), ← hv]
      exact drillEccStop_stops hd (by omega)
    · obtain ⟨hx, hal, hsl⟩ := hok4 h
      have hreg := (inRegion_iff d v 4).mpr hr
      rw [hv] at hx hal hsl hreg hue
      exact (gives_bstw ..).mpr (hv ▸ bstwRun_stores hd hi hx hreg hue hal hsl)
  · intro a out
    refine ⟨fun h => ⟨fun hi => (gives_qld ..).mpr (qldRun_raises hd hi h), fun hi => (gives_qst ..).mpr
        (qstRun_raises hd hi (scratchAccess_past h true))⟩, fun h hi => (gives_qld ..).mpr (qldRun_loads hd hi h), fun h hlo hhi hi => ?_,
      fun h ho hi => ?_⟩
    · have hshut : ShutScratch a 64 := ⟨by omega, hhi⟩
      exact (gives_qst ..).mpr (qstRun_raises hd hi (scratchAccess_shut h hshut))
    · have hal : a % 64 = 0 := not_not.mp (not_or.mp h).2
      have hshut : ¬ ShutScratch a 64 := by
        unfold ShutScratch
        omega
      exact (gives_qst ..).mpr (qstRun_stores hd hq hi h hshut)
  · intro i a cap cnt out shut x old last
    refine ⟨fun h hi => ?_, fun h hs hi => ?_, fun h hs h' hi => ?_, fun h hs h' hs' hi => ?_, fun h hs h' hs' hi => ?_⟩
    · exact (gives_lins ..).mpr (linsRun_head hd hi (scratchAccess_past h true))
    · exact (gives_lins ..).mpr (linsRun_head hd hi (scratchAccess_shut h hs))
    · exact (gives_lins ..).mpr (linsRun_body hd hi (scratchAccess_store h hs) (scratchAccess_past h' true))
    · exact (gives_lins ..).mpr (linsRun_body hd hi (scratchAccess_store h hs) (scratchAccess_shut h' hs'))
    · exact (gives_lins ..).mpr (linsRun_spec hd hi rfl h hs h' hs')

end Sys2Proof.Proofs
